-- ==== Sys2Proof/Word.lean ====
section
/-! DEFINITION. The words the K7 manual names: register contents, virtual addresses, register numbers. -/

namespace Sys2Proof

/-- A g register, an instruction word (R57, R86). -/
abbrev Word := BitVec 32
/-- A virtual address; the PC and every field of an address register (R17, R86). -/
abbrev VAddr := BitVec 72
/-- A taint mask: bit n set means the value derives from load tag n (R86). -/
abbrev Mask := BitVec 8
/-- A byte of memory. -/
abbrev Byte := BitVec 8
/-- A g register field (R58). -/
abbrev GNum := BitVec 7
/-- A predicate number. -/
abbrev PNum := BitVec 3
/-- An address register number. -/
abbrev ANum := BitVec 3
/-- A window number. -/
abbrev WNum := BitVec 4
/-- A tile number. -/
abbrev MNum := BitVec 4
/-- A barrier name. -/
abbrev BNum := BitVec 5
/-- A layout handle name. -/
abbrev LNum := BitVec 4
/-- A format slot number. -/
abbrev SlotNum := BitVec 3

end Sys2Proof
end

