-- ==== Sys2Proof/Syntax.lean ====
section
/-! DEFINITION. The whole syntax: one constructor per row of the opcode table. The word rows carry the fields of their
format (R59, R73 to R77); the event rows, which have no encoding, carry which pending thing acts and every choice the
manual leaves to the device. -/

namespace Sys2Proof

/-- Integer type of a lane instruction (R73). -/
inductive ITy | i32 | n32
  deriving DecidableEq, Repr
/-- Access size (R78). -/
inductive Size | b8 | b16 | b32 | b64 | b128 | s8 | s16
  deriving DecidableEq, Repr
/-- Cache policy (R78, R163). -/
inductive Policy | norm | keep | strm | byp
  deriving DecidableEq, Repr
/-- Scope (R78, R421). -/
inductive Scope | warp | core | clus | dev | sys
  deriving DecidableEq, Repr
/-- Order of ATOM and CAS (R78, R442). -/
inductive Order | rlx | acq | rel | ar
  deriving DecidableEq, Repr
/-- Rounding (R79). -/
inductive Rnd | rne | rz | ru | rd | sr
  deriving DecidableEq, Repr
/-- Type codes of CVT fields and of OVR (R79). -/
inductive LTy | i32 | n32 | f32 | f16 | bf16 | f64 | slot (f : SlotNum)
  deriving DecidableEq, Repr
/-- Conditions of ICMP (R80). -/
inductive ICond | eq | ne | lt | le | gt | ge
  deriving DecidableEq, Repr
/-- Conditions of FCMP (R80). -/
inductive FCond | eq | ne | lt | le | gt | ge | ord | unord
  deriving DecidableEq, Repr
/-- Operations of LREDUCE (R81). -/
inductive RedOp | iadd | imin32 | imax32 | iminN | imaxN | and_ | or_ | xor_ | fadd | fmin | fmax
  deriving DecidableEq, Repr
/-- Operations of ATOM (R81). -/
inductive AtomOp | iadd | imin32 | imax32 | iminN | imaxN | and_ | or_ | xor_ | exch | fadd32 | fmin32 | fmax32 | fadd64
  deriving DecidableEq, Repr
/-- Conditions of BRA (R75). -/
inductive BraCond | z | nz | neg | nneg
  deriving DecidableEq, Repr
/-- Conditions of WAITCMP (R77, R445). -/
inductive WCond | eq | ne | ge | lt
  deriving DecidableEq, Repr
/-- XCP transforms (R76, R287). -/
inductive Xform | copy | transpose | convert | mxpack | mxunpack | expand | compact
  deriving DecidableEq, Repr
/-- XWALK actions (R76, R296). -/
inductive WalkAct | coord | gatherRow | gatherCol
  deriving DecidableEq, Repr
/-- Broadcast of B in TADD and TEMUL (R259). -/
inductive Bcast | full | row | col
  deriving DecidableEq, Repr
/-- Integer override of TMMA (R255). -/
inductive IOvr | idef | iwrap | isat
  deriving DecidableEq, Repr
/-- Activations of TACT (R263). -/
inductive ActFn | relu | sigm | tanh | silu | exp2
  deriving DecidableEq, Repr
/-- Interfaces of the management controller (R484). -/
inductive MgmtIf | doe | mctp
  deriving DecidableEq, Repr
/-- A request to the management controller (R484): the interface, the vendor and the type under which it is carried, its 8-byte
header and its payload. -/
structure MgmtReq where
  iface : MgmtIf
  vendor : BitVec 16
  type : BitVec 8
  header : BitVec 64
  payload : List Byte
  deriving DecidableEq, Repr
/-- Names a warp: the placed unit (cluster of a grid or workgroup of a task), the workgroup in it, the warp in that. -/
structure WarpId where
  unit : Nat
  wg : Nat
  warp : Nat
  deriving DecidableEq, Repr
/-- What a home slice chooses when it serves a miss (R405, R410): the lease code 0-4 (0, 32, 128, 512, 2048 ticks), the
first chunk and chunk count of the filled block, and the resident blocks (by base) that leave L1 for it. -/
structure ServeChoice where
  lease : BitVec 3
  chunk : BitVec 3
  chunks : BitVec 3
  evict : List Nat
  deriving DecidableEq, Repr
/-- A peer accelerator's request over UALink (R32). -/
inductive PeerReq
  | read (ctx addr n : Nat)
  | write (ctx addr : Nat) (data : List Byte)
  | atomic (ctx addr : Nat) (op : AtomOp) (data : List Byte)
  | cas (ctx addr : Nat) (expected new : List Byte)
  deriving DecidableEq, Repr
/-- What an uncorrectable error at an address falls on: a unit of the device, or the ECC word of a memory device, by physical
address; a unit that the host answers with poison; one that a peer answers with an error completion (R356, R495). -/
inductive ErrSite | unit | chunk | host | peer (n : Nat)
  deriving DecidableEq, Repr
/-- How far the copies of the lease clock may stand behind at a tick: that of each core, and those of the other engines by their
key (R26). -/
structure ClockLag where
  cores : List Nat
  engines : List (Nat × Nat)
  deriving DecidableEq, Repr
/-- The BAR register blocks of R317, R347, R460 and R462, by the offset of a 32-bit word in the BAR. -/
structure BarWrite where
  off : Nat
  val : Word
  deriving DecidableEq, Repr

/-- One constructor per row of the opcode table. -/
inductive Instr
  -- integer, logic, moves (R73, R121 to R128)
  | iadd (d a b : GNum) (h : BitVec 2) (t : ITy)
  | isub (d a b : GNum) (h : BitVec 2) (t : ITy)
  | iaddi (d a : GNum) (i : BitVec 11)
  | imul (d a b : GNum) (h : BitVec 2) (t : ITy)
  | imulhi (d a b : GNum) (h : BitVec 2) (t : ITy)
  | imad (d a b : GNum) (h : BitVec 2) (t : ITy)
  | imin (d a b : GNum) (h : BitVec 2) (t : ITy)
  | imax (d a b : GNum) (h : BitVec 2) (t : ITy)
  | clz (d a : GNum) (h : BitVec 2)
  | popc (d a : GNum) (h : BitVec 2)
  | brev (d a : GNum) (h : BitVec 2)
  | iabs (d a : GNum) (h : BitVec 2)
  | and_ (d a b : GNum) (h : BitVec 2)
  | or_ (d a b : GNum) (h : BitVec 2)
  | xor_ (d a b : GNum) (h : BitVec 2)
  | andn (d a b : GNum) (h : BitVec 2)
  | shl (d a b : GNum) (h : BitVec 2)
  | shr (d a b : GNum) (h : BitVec 2)
  | sar (d a b : GNum) (h : BitVec 2)
  | rotl (d a b : GNum) (h : BitVec 2)
  | shli (d a : GNum) (n : BitVec 5)
  | shri (d a : GNum) (n : BitVec 5)
  | sari (d a : GNum) (n : BitVec 5)
  | bfxN32 (d a : GNum) (pos wm1 : BitVec 5)
  | bfxI32 (d a : GNum) (pos wm1 : BitVec 5)
  | bfi (d a : GNum) (pos wm1 : BitVec 5)
  | icmp (pd : PNum) (a b : GNum) (t : ITy) (c : ICond)
  | plop (pd pa pb : PNum) (lut : BitVec 4)
  | mov (d a : GNum) (h : BitVec 2)
  | movx (d a b : GNum) (h : BitVec 2)
  | movxw (d a b : GNum) (h : BitVec 2)
  | selP0P3 (d a b : GNum) (h : BitVec 2) (n : BitVec 2)
  | selP4P7 (d a b : GNum) (h : BitVec 2) (n : BitVec 2)
  | movi (d : GNum) (i : BitVec 11)
  -- floating point (R129 to R135)
  | fadd (d a b : GNum) (h : BitVec 2)
  | fsub (d a b : GNum) (h : BitVec 2)
  | fmul (d a b : GNum) (h : BitVec 2)
  | ffma (d a b : GNum) (h : BitVec 2)
  | fmin (d a b : GNum) (h : BitVec 2)
  | fmax (d a b : GNum) (h : BitVec 2)
  | fcmp (pd : PNum) (a b : GNum) (c : FCond)
  | frcp (d a : GNum) (h : BitVec 2)
  | frsq (d a : GNum) (h : BitVec 2)
  | fsqrt (d a : GNum) (h : BitVec 2)
  | fexp2 (d a : GNum) (h : BitVec 2)
  | flog2 (d a : GNum) (h : BitVec 2)
  | fsin (d a : GNum) (h : BitVec 2)
  | fcos (d a : GNum) (h : BitVec 2)
  | fdiv (d a b : GNum) (h : BitVec 2)
  | fscale (d a b : GNum) (h : BitVec 2)
  | dadd (d a b : GNum) (h : BitVec 2)
  | dmul (d a b : GNum) (h : BitVec 2)
  | dfma (d a b : GNum) (h : BitVec 2)
  | hadd2F16 (d a b : GNum) (h : BitVec 2)
  | hmul2F16 (d a b : GNum) (h : BitVec 2)
  | hfma2F16 (d a b : GNum) (h : BitVec 2)
  | hadd2Bf16 (d a b : GNum) (h : BitVec 2)
  | hmul2Bf16 (d a b : GNum) (h : BitVec 2)
  | hfma2Bf16 (d a b : GNum) (h : BitVec 2)
  | hmin2F16 (d a b : GNum) (h : BitVec 2)
  | hmax2F16 (d a b : GNum) (h : BitVec 2)
  | hmin2Bf16 (d a b : GNum) (h : BitVec 2)
  | hmax2Bf16 (d a b : GNum) (h : BitVec 2)
  -- conversions (R136 to R140)
  | cvt (d a : GNum) (r : Rnd) (dst src : LTy)
  | cvtn (d a : GNum) (r : Rnd) (dst src : LTy)
  | cvtw (d a : GNum) (r : Rnd) (dst src : LTy)
  -- cross-lane (R141 to R143)
  | shflIdx (d a b : GNum) (h : BitVec 2)
  | shflUp (d a b : GNum) (h : BitVec 2)
  | shflDown (d a b : GNum) (h : BitVec 2)
  | shflXor (d a b : GNum) (h : BitVec 2)
  | voteAny (pd pa : PNum) (h : BitVec 2)
  | voteAll (pd pa : PNum) (h : BitVec 2)
  | voteBallot (d : GNum) (pa : PNum) (h : BitVec 2)
  | lreduce (d a : GNum) (op : RedOp)
  -- address registers, tangents, special values (R144 to R150)
  | ader (n : ANum) (m : WNum)
  | anarrow (n : ANum) (off len : GNum) (h : BitVec 2)
  | aadv (n : ANum) (g : GNum) (h : BitVec 2)
  | aget (d : GNum) (n : ANum) (part : BitVec 4) (h : BitVec 2)
  | aadvi (n : ANum) (i : BitVec 11)
  | dget (d a : GNum) (k : BitVec 2) (h : BitVec 2)
  | dset (d a : GNum) (k : BitVec 2) (h : BitVec 2)
  | dseed (d : GNum) (k : BitVec 2) (h : BitVec 2)
  | sread (d : GNum) (sel : BitVec 10)
  | rand (d : GNum)
  -- lane memory (R160 to R170)
  | ld (g : GNum) (n : ANum) (off : BitVec 10) (sz : Size) (pol : Policy)
  | st (g : GNum) (n : ANum) (off : BitVec 10) (sz : Size) (pol : Policy)
  | ldx (g : GNum) (n : ANum) (x : GNum) (sz : Size) (pol : Policy)
  | stx (g : GNum) (n : ANum) (x : GNum) (sz : Size) (pol : Policy)
  | lds (d a : GNum) (sz : Size) (off : BitVec 8)
  | sts (d a : GNum) (sz : Size) (off : BitVec 8)
  | aldp (n m : ANum) (off : BitVec 10) (b128 : Bool) (pol : Policy)
  -- control (R151 to R157)
  | brp (p : PNum) (sense : Bool) (off : BitVec 21)
  | bra (g : GNum) (c : BraCond) (off : BitVec 11)
  | call (p : PNum) (sense : Bool) (off : BitVec 21)
  | ret (p : PNum) (sense : Bool)
  | brx (a : GNum)
  | exit (p : PNum) (sense : Bool)
  | nop
  | reform
  | yield
  | region (k : BitVec 10)
  | trap (code : BitVec 10)
  | untaint (d : GNum)
  | waitc (ld st xf tl : BitVec 6)
  | barInit (b : BNum) (g : GNum)
  | barArrive (b : BNum)
  | barExpect (b : BNum) (g : GNum)
  | barWait (b : BNum) (g : GNum)
  -- matrix (R242 to R271)
  | tcfg (m : MNum) (g : GNum)
  | tld (m : MNum) (n : ANum) (off pitch : GNum)
  | tst (m : MNum) (n : ANum) (off pitch : GNum)
  | tlds (m : MNum) (addr pitch : GNum)
  | tsts (m : MNum) (addr pitch : GNum)
  | tmma (td ta tb : MNum) (f : SlotNum) (ov : IOvr) (bc ac : Bool)
  | tmloop (m : MNum) (aA aB : ANum) (q : GNum)
  | tadd (td ta tb : MNum) (f : SlotNum) (sub : Bool) (br : Bcast) (bc ac : Bool)
  | temul (td ta tb : MNum) (f : SlotNum) (br : Bcast) (bc ac : Bool)
  | tscl (td ta tb : MNum) (f : SlotNum) (pcol bc ac : Bool)
  | tsclPow (td ta : MNum) (f : SlotNum) (n : BitVec 6) (ac : Bool)
  | ttr (td ta : MNum)
  | tcvt (td ta : MNum) (f : SlotNum) (r : Rnd) (ac : Bool)
  | tact (td ta : MNum) (f : SlotNum) (fn : ActFn) (ac : Bool)
  | trsum (td ta : MNum) (f : SlotNum) (addto ac : Bool)
  | tzero (td : MNum)
  | teval (td : MNum)
  | tdrop (td : MNum)
  | trd (d : GNum) (m : MNum) (idx : GNum)
  | twr (m : MNum) (src idx : GNum)
  | tstat (d : GNum) (m : MNum) (sel : BitVec 3)
  -- transfer (R302 to R313)
  | xlr (l : LNum) (n : ANum) (off : BitVec 10)
  | xcp (dst src : LNum) (b : BNum) (t : Xform) (chk : Bool)
  | xred (dst first : LNum) (nm2 : BitVec 4) (b : BNum) (chk : Bool)
  | xwalk (sp : LNum) (g : GNum) (b : BNum) (act : WalkAct) (chk : Bool)
  | xstat (d : GNum) (b : BNum) (sel : BitVec 2)
  -- task (R368 to R380)
  | jsub (g : GNum) (n : ANum) (off : BitVec 10)
  | gainadd (i v : GNum)
  | gainset (i v : GNum)
  | gainget (d i : GNum)
  | resadd (v : GNum)
  | resget (d : GNum) (k : BitVec 3)
  | ordwait (p : GNum)
  | ordpost (p : GNum)
  -- home (R437 to R456)
  | atom (g : GNum) (n : ANum) (sc : Scope) (op : AtomOp) (b64 : Bool) (ord : Order)
  | cas (g : GNum) (n : ANum) (sc : Scope) (b64 : Bool) (ord : Order)
  | waitcmp (g : GNum) (n : ANum) (sys : Bool) (c : WCond) (b64 : Bool)
  | ldAcq (g : GNum) (n : ANum) (sc : Scope) (off : BitVec 7) (sz : Size) (pol : Policy)
  | stRel (g : GNum) (n : ANum) (sc : Scope) (off : BitVec 7) (sz : Size) (pol : Policy)
  | fence (sc : Scope)
  | smap (n : ANum) (g : GNum)
  | sunmap (n : ANum)
  | sflush (n : ANum)
  | pref (n : ANum) (off : BitVec 10) (sz : BitVec 3) (pol : Policy)
  -- watch and system (R460 to R474)
  | bkpt (code : BitVec 10)
  | tmark (g : GNum) (id : BitVec 10)
  | sysrd (d : GNum) (sel : BitVec 10)
  | syswr (sel : BitVec 10) (g : GNum)
  -- hint words (R61 to R66)
  | imm (p : BitVec 25)
  | mod_ (sat clamp neg abs : Bool) (scl : BitVec 6) (ovr : Option LTy)
  | tan
  -- events of the Lane engine
  | threadFiling (core port : Nat)
  | binAged (core port slot : Nat)
  | collectiveExecute (w : WarpId)
  | loadReturn (op : Nat)
  | storeAck (op : Nat)
  | tagFree (w : WarpId) (tag : Nat)
  | idemDefer (w : WarpId) (lane : Nat)
  | orderStall (w : WarpId)
  | barrierArrivalApply (op : Nat)
  -- events of the Matrix and Transfer engines
  | evalStart (core : Nat)
  | evalComplete (core : Nat)
  | tileLoadLanded (op : Nat)
  | xlrComplete (op : Nat)
  | channelStart (pcl ch : Nat)
  | chunkLand (pcl ch : Nat)
  -- events of the Home engine
  | storeApply (op part : Nat)
  | atomicApply (op part : Nat)
  | loadServe (op part : Nat) (c : ServeChoice)
  | releaseClearance (op : Nat)
  | releaseApply (op part : Nat)
  | monitorArm (op part : Nat) (overflow : Bool)
  | waitcmpPoll (op part : Nat)
  | hdmRead (hpa n : Nat) (keep : Bool)
  | hdmWrite (hpa : Nat) (data : List Byte)
  | backInvalidationResponse (line : Nat)
  | pageMigration (ctx ia frame : Nat)
  | impreciseFault (fid : Nat)
  -- events of the Task engine
  | tail (q : BitVec 5) (v : Word)
  | reset (q : BitVec 5)
  | nopPacket (q : BitVec 5)
  | launch (q : BitVec 5)
  | job (q : BitVec 5)
  | signal (q : BitVec 5)
  | packetCompletion (q : BitVec 5)
  | jobSubmit (op : Nat)
  | residencyHold (work idx : Nat)
  | clusterPlace (work : Nat)
  | wavePlace (work : Nat)
  | chunkDeal (work pcl : Nat)
  | dequePop (work pcl : Nat)
  | dequeSteal (work pcl : Nat)
  | settDispatch (work die : Nat)
  | gainSteal (work die : Nat)
  | gainUpdateApply (op : Nat)
  | residualUpdateApply (op : Nat)
  | ordpostEffect (op : Nat)
  | retirementPublish (work idx : Nat)
  | verifyRerun (work idx : Nat)
  | jobEnd (work : Nat)
  | priorityPreempt (work : Nat)
  | preemptionSave (unit : Nat) (ok : Bool)
  | clusterRestore (unit : Nat) (ok : Bool)
  | swapOut (unit : Nat)
  | detTurn (unit : Nat)
  | preempt (c : BitVec 8)
  | resume (c : BitVec 8)
  | retry (c : BitVec 8)
  | inval (c : BitVec 8)
  | invalidationDone (c : BitVec 8)
  -- events of the Watch engine and of the BAR
  | stop (c : BitVec 8)
  | dbgResume (c : BitVec 8)
  | step (c : BitVec 8)
  | capture (c : BitVec 8)
  | feResume
  | registerWrite (w : BarWrite)
  | sampleTick (core : Nat) (c : BitVec 8)
  | ringRecordWritten (rec : Nat) (ok : Bool)
  | traceRecord (src : Nat)
  | dumpStart
  | dumpComplete
  -- events of the whole device (R25, R26, R32, R105, R479, R487, R494)
  | moduleReset (failing : Option (BitVec 3))
  | sensorRefresh (readings : List Byte)
  | softErrorCorrection (counter : BitVec 2)
  | flitRetry (counter : BitVec 2)
  | uncorrectableError (addr : Nat) (site : ErrSite)
  | peerRequest (peer : Nat) (r : PeerReq)
  | leaseClockTick (lag : ClockLag)
  | laneWriteCompletion (w : WarpId) (idx : Nat)
  | fetchComplete (unit : Nat) (addr : Nat)
  -- requests to the management controller (R482 to R493)
  | status (r : MgmtReq)
  | write (r : MgmtReq)
  | verify (r : MgmtReq)
  | activate (r : MgmtReq)
  | retryStarts (r : MgmtReq)
  | errcnt (r : MgmtReq)
  | sensors (r : MgmtReq)
  | logread (r : MgmtReq)
  | abort (r : MgmtReq)
  | getVersion (r : MgmtReq)
  | getCapabilities (r : MgmtReq)
  | negotiateAlgorithms (r : MgmtReq)
  | getDigests (r : MgmtReq)
  | getCertificate (r : MgmtReq)
  | challenge (r : MgmtReq)
  | getMeasurements (r : MgmtReq)
  | keyExchange (r : MgmtReq)
  | pskExchange (r : MgmtReq)
  deriving DecidableEq, Repr

end Sys2Proof
end

