-- ==== Sys2Proof/WellFormed.lean ====
section
/-! DEFINITION. The constraints an instruction meets beyond the widths of its fields: register alignment (R58, R70),
field codes that a format excludes (R73 to R77), and hint words that carry something (R62). -/

namespace Sys2Proof

/-- Access width in bytes (R160). -/
def Size.bytes : Size → Nat
  | .b8 => 1 | .b16 => 2 | .b32 => 4 | .b64 => 8 | .b128 => 16 | .s8 => 1 | .s16 => 2
/-- Registers of the group an access of this size names (R70, R160). -/
def Size.group : Size → Nat
  | .b64 => 2 | .b128 => 4 | _ => 1
/-- A store has no sign-extended sizes (R160, R168). -/
def Size.storable : Size → Bool
  | .s8 | .s16 => false
  | _ => true
/-- A register number that begins a group of `k` registers (R58). -/
def GNum.aligned (g : GNum) (k : Nat) : Bool := g.toNat % k == 0
/-- Registers of a lane type: .F64 takes a pair (R79). -/
def LTy.group : LTy → Nat
  | .f64 => 2
  | _ => 1
/-- A type code that names a format slot. -/
def LTy.isSlot : LTy → Bool
  | .slot _ => true
  | _ => false
/-- The lane side of CVTN and CVTW: .F32, .F16, .BF16, .I32, .N32 (R138). -/
def LTy.lane32 : LTy → Bool
  | .slot _ | .f64 => false
  | _ => true
/-- The ATOM operations of .B32 only, .B64 only, and both (R81). -/
def AtomOp.sizeOk (op : AtomOp) (b64 : Bool) : Bool :=
  match op with
  | .fadd32 | .fmin32 | .fmax32 => !b64
  | .fadd64 => b64
  | _ => true
/-- The selectors SREAD knows (R149). -/
def sreadOk (sel : BitVec 10) : Bool := sel.toNat ≤ 0xB
/-- The selectors that name a system register (R460). -/
def sysregOk (sel : BitVec 10) : Bool :=
  sel.toNat ≤ 0x5 || (0x8 ≤ sel.toNat && sel.toNat ≤ 0xD) || (0x10 ≤ sel.toNat && sel.toNat ≤ 0x14)

/-- The constraints of R58, R62 and R73 to R83 that hold of the word alone. Event rows have none but a lease code of the
five of R410. -/
def Instr.wellFormed : Instr → Bool
  | .bfxN32 _ _ pos w | .bfxI32 _ _ pos w | .bfi _ _ pos w => pos.toNat + w.toNat + 1 ≤ 32
  | .dadd d a b _ | .dmul d a b _ | .dfma d a b _ => d.aligned 2 && a.aligned 2 && b.aligned 2
  | .cvt d a _ dst src => !dst.isSlot && !src.isSlot && d.aligned dst.group && a.aligned src.group
  | .cvtn _ _ _ dst src => dst.isSlot && src.lane32
  | .cvtw _ _ _ dst src => src.isSlot && dst.lane32
  | .aget _ _ part _ => part.toNat ≤ 9
  | .sread _ sel => sreadOk sel
  | .ld g _ _ sz _ | .ldx g _ _ sz _ | .ldAcq g _ _ _ sz _ => g.aligned sz.group
  | .st g _ _ sz _ | .stx g _ _ sz _ | .stRel g _ _ _ sz _ => g.aligned sz.group && sz.storable
  | .lds d _ sz _ => d.aligned sz.group
  | .sts d _ sz _ => d.aligned sz.group && sz.storable
  | .tmloop _ _ _ q => q.aligned 4
  | .tstat _ m sel => sel.toNat ≤ 5 && (sel.toNat ≥ 4 || m.toNat == 0)
  | .xred _ first n _ _ => n.toNat ≤ 14 && first.toNat + n.toNat + 1 ≤ 15
  | .resget _ k => k.toNat ≤ 4
  | .atom g _ _ op b64 _ => op.sizeOk b64 && g.aligned (if b64 then 2 else 1)
  | .cas g _ _ b64 _ => g.aligned (if b64 then 4 else 2)
  | .waitcmp g _ _ _ b64 => g.aligned (if b64 then 2 else 1)
  | .sysrd _ sel | .syswr sel _ => sysregOk sel
  | .mod_ sat clamp neg abs scl ovr => sat || clamp || neg || abs || scl != 0 || ovr.isSome
  | .loadServe _ _ c => c.lease.toNat ≤ 4
  | _ => true

end Sys2Proof
end

