-- ==== Sys2Proof/Decode.lean ====
section
/-! DEFINITION. The decoder and the encoder of the 32-bit instruction words (R57 to R85). Every encoding that R59 to R83 do
not assign is rejected by name. -/

namespace Sys2Proof

/-! ### Fields and codes -/

/-- Bits `lo + n - 1` to `lo` of a word, as a bit vector. -/
def bF (n w lo : Nat) : BitVec n := BitVec.ofNat n (w / 2 ^ lo)
/-- The same, as a number. -/
def nF (n w lo : Nat) : Nat := w / 2 ^ lo % 2 ^ n
/-- A g register field. -/
def gF (w lo : Nat) : GNum := bF 7 w lo
/-- A flag. -/
def tF (w lo : Nat) : Bool := nF 1 w lo == 1
/-- A flag as its bit. -/
def bit (b : Bool) : Nat := if b then 1 else 0

/-- fn[1] of the integer instructions (R73). -/
def ITy.ofCode : Nat → ITy
  | 0 => .i32 | _ => .n32
def ITy.code : ITy → Nat
  | .i32 => 0 | .n32 => 1
/-- Size codes (R78). -/
def Size.ofCode : Nat → Option Size
  | 0 => some .b8 | 1 => some .b16 | 2 => some .b32 | 3 => some .b64 | 4 => some .b128 | 5 => some .s8 | 6 => some .s16
  | _ => none
def Size.code : Size → Nat
  | .b8 => 0 | .b16 => 1 | .b32 => 2 | .b64 => 3 | .b128 => 4 | .s8 => 5 | .s16 => 6
/-- The two sizes of ATOM, CAS and WAITCMP: .B32, .B64 (R441, R444, R445). -/
def b64OfCode : Nat → Option Bool
  | 2 => some false | 3 => some true | _ => none
def b64Code (b : Bool) : Nat := if b then 3 else 2
/-- The two sizes of ALDP: .B64, .B128 (R74). -/
def b128OfCode : Nat → Option Bool
  | 3 => some false | 4 => some true | _ => none
def b128Code (b : Bool) : Nat := if b then 4 else 3
/-- Policy codes (R78). -/
def Policy.ofCode : Nat → Policy
  | 0 => .norm | 1 => .keep | 2 => .strm | _ => .byp
def Policy.code : Policy → Nat
  | .norm => 0 | .keep => 1 | .strm => 2 | .byp => 3
/-- Scope codes (R78). -/
def Scope.ofCode : Nat → Option Scope
  | 0 => some .warp | 1 => some .core | 2 => some .clus | 3 => some .dev | 4 => some .sys | _ => none
def Scope.code : Scope → Nat
  | .warp => 0 | .core => 1 | .clus => 2 | .dev => 3 | .sys => 4
/-- The scopes of WAITCMP (R445): .DEV, .SYS. -/
def sysOfCode : Nat → Option Bool
  | 3 => some false | 4 => some true | _ => none
def sysCode (b : Bool) : Nat := if b then 4 else 3
/-- Order codes (R78). -/
def Order.ofCode : Nat → Order
  | 0 => .rlx | 1 => .acq | 2 => .rel | _ => .ar
def Order.code : Order → Nat
  | .rlx => 0 | .acq => 1 | .rel => 2 | .ar => 3
/-- Rounding codes (R79). -/
def Rnd.ofCode : Nat → Option Rnd
  | 0 => some .rne | 1 => some .rz | 2 => some .ru | 3 => some .rd | 4 => some .sr | _ => none
def Rnd.code : Rnd → Nat
  | .rne => 0 | .rz => 1 | .ru => 2 | .rd => 3 | .sr => 4
/-- Type codes (R79): 0 and 7 are reserved. -/
def LTy.ofCode (n : Nat) : Option LTy :=
  match n with
  | 1 => some .i32 | 2 => some .n32 | 3 => some .f32 | 4 => some .f16 | 5 => some .bf16 | 6 => some .f64
  | _ => if 8 ≤ n then some (.slot (BitVec.ofNat 3 n)) else none
def LTy.code : LTy → Nat
  | .i32 => 1 | .n32 => 2 | .f32 => 3 | .f16 => 4 | .bf16 => 5 | .f64 => 6 | .slot f => 8 + f.toNat
/-- OVR of a MOD word: 0 none, 7 reserved (R62). -/
def ovrOfCode (n : Nat) : Option (Option LTy) :=
  if n = 0 then some none else (LTy.ofCode n).map some
def ovrCode : Option LTy → Nat
  | none => 0
  | some t => t.code
/-- ICMP conditions (R80). -/
def ICond.ofCode : Nat → Option ICond
  | 0 => some .eq | 1 => some .ne | 2 => some .lt | 3 => some .le | 4 => some .gt | 5 => some .ge | _ => none
def ICond.code : ICond → Nat
  | .eq => 0 | .ne => 1 | .lt => 2 | .le => 3 | .gt => 4 | .ge => 5
/-- FCMP conditions (R80). -/
def FCond.ofCode : Nat → FCond
  | 0 => .eq | 1 => .ne | 2 => .lt | 3 => .le | 4 => .gt | 5 => .ge | 6 => .ord | _ => .unord
def FCond.code : FCond → Nat
  | .eq => 0 | .ne => 1 | .lt => 2 | .le => 3 | .gt => 4 | .ge => 5 | .ord => 6 | .unord => 7
/-- LREDUCE operations (R81). -/
def RedOp.ofCode : Nat → Option RedOp
  | 0 => some .iadd | 1 => some .imin32 | 2 => some .imax32 | 3 => some .iminN | 4 => some .imaxN | 5 => some .and_
  | 6 => some .or_ | 7 => some .xor_ | 8 => some .fadd | 9 => some .fmin | 10 => some .fmax | _ => none
def RedOp.code : RedOp → Nat
  | .iadd => 0 | .imin32 => 1 | .imax32 => 2 | .iminN => 3 | .imaxN => 4 | .and_ => 5 | .or_ => 6 | .xor_ => 7
  | .fadd => 8 | .fmin => 9 | .fmax => 10
/-- ATOM operations (R81). -/
def AtomOp.ofCode : Nat → Option AtomOp
  | 0 => some .iadd | 1 => some .imin32 | 2 => some .imax32 | 3 => some .iminN | 4 => some .imaxN | 5 => some .and_
  | 6 => some .or_ | 7 => some .xor_ | 8 => some .exch | 9 => some .fadd32 | 10 => some .fmin32 | 11 => some .fmax32
  | 12 => some .fadd64 | _ => none
def AtomOp.code : AtomOp → Nat
  | .iadd => 0 | .imin32 => 1 | .imax32 => 2 | .iminN => 3 | .imaxN => 4 | .and_ => 5 | .or_ => 6 | .xor_ => 7
  | .exch => 8 | .fadd32 => 9 | .fmin32 => 10 | .fmax32 => 11 | .fadd64 => 12
/-- BRA conditions (R75). -/
def BraCond.ofCode : Nat → Option BraCond
  | 0 => some .z | 1 => some .nz | 2 => some .neg | 3 => some .nneg | _ => none
def BraCond.code : BraCond → Nat
  | .z => 0 | .nz => 1 | .neg => 2 | .nneg => 3
/-- WAITCMP conditions (R77). -/
def WCond.ofCode : Nat → WCond
  | 0 => .eq | 1 => .ne | 2 => .ge | _ => .lt
def WCond.code : WCond → Nat
  | .eq => 0 | .ne => 1 | .ge => 2 | .lt => 3
/-- XCP transforms (R76). -/
def Xform.ofCode : Nat → Option Xform
  | 0 => some .copy | 1 => some .transpose | 2 => some .convert | 3 => some .mxpack | 4 => some .mxunpack
  | 5 => some .expand | 6 => some .compact | _ => none
def Xform.code : Xform → Nat
  | .copy => 0 | .transpose => 1 | .convert => 2 | .mxpack => 3 | .mxunpack => 4 | .expand => 5 | .compact => 6
/-- XWALK actions (R76). -/
def WalkAct.ofCode : Nat → Option WalkAct
  | 0 => some .coord | 1 => some .gatherRow | 2 => some .gatherCol | _ => none
def WalkAct.code : WalkAct → Nat
  | .coord => 0 | .gatherRow => 1 | .gatherCol => 2
/-- Broadcast codes (R259). -/
def Bcast.ofCode : Nat → Option Bcast
  | 0 => some .full | 1 => some .row | 2 => some .col | _ => none
def Bcast.code : Bcast → Nat
  | .full => 0 | .row => 1 | .col => 2
/-- Integer override codes (R255). -/
def IOvr.ofCode : Nat → Option IOvr
  | 0 => some .idef | 1 => some .iwrap | 2 => some .isat | _ => none
def IOvr.code : IOvr → Nat
  | .idef => 0 | .iwrap => 1 | .isat => 2
/-- Activation codes (R263). -/
def ActFn.ofCode : Nat → Option ActFn
  | 0 => some .relu | 1 => some .sigm | 2 => some .tanh | 3 => some .silu | 4 => some .exp2 | _ => none
def ActFn.code : ActFn → Nat
  | .relu => 0 | .sigm => 1 | .tanh => 2 | .silu => 3 | .exp2 => 4

/-! ### The decoder -/

/-- The integer, logic and moves: majors 0x01 to 0x14 (R73). -/
def decInt (w : Nat) : Option Instr :=
  match nF 7 w 25 with
  | 1 =>
    if nF 1 w 0 = 0 then
      some (.iadd (gF w 18) (gF w 11) (gF w 4) (bF 2 w 2) (ITy.ofCode (nF 1 w 1)))
    else if nF 1 w 0 = 1 then
      some (.isub (gF w 18) (gF w 11) (gF w 4) (bF 2 w 2) (ITy.ofCode (nF 1 w 1)))
    else none
  | 2 => some (.iaddi (gF w 18) (gF w 11) (bF 11 w 0))
  | 3 =>
    if nF 1 w 0 = 0 then
      some (.imul (gF w 18) (gF w 11) (gF w 4) (bF 2 w 2) (ITy.ofCode (nF 1 w 1)))
    else if nF 1 w 0 = 1 then
      some (.imulhi (gF w 18) (gF w 11) (gF w 4) (bF 2 w 2) (ITy.ofCode (nF 1 w 1)))
    else none
  | 4 =>
    if nF 1 w 0 = 0 then
      some (.imad (gF w 18) (gF w 11) (gF w 4) (bF 2 w 2) (ITy.ofCode (nF 1 w 1)))
    else none
  | 5 =>
    if nF 1 w 0 = 0 then
      some (.imin (gF w 18) (gF w 11) (gF w 4) (bF 2 w 2) (ITy.ofCode (nF 1 w 1)))
    else if nF 1 w 0 = 1 then
      some (.imax (gF w 18) (gF w 11) (gF w 4) (bF 2 w 2) (ITy.ofCode (nF 1 w 1)))
    else none
  | 6 =>
    if nF 7 w 4 = 0 ∧ nF 2 w 0 = 0 then
      some (.clz (gF w 18) (gF w 11) (bF 2 w 2))
    else if nF 7 w 4 = 0 ∧ nF 2 w 0 = 1 then
      some (.popc (gF w 18) (gF w 11) (bF 2 w 2))
    else if nF 7 w 4 = 0 ∧ nF 2 w 0 = 2 then
      some (.brev (gF w 18) (gF w 11) (bF 2 w 2))
    else if nF 7 w 4 = 0 ∧ nF 2 w 0 = 3 then
      some (.iabs (gF w 18) (gF w 11) (bF 2 w 2))
    else none
  | 7 =>
    if nF 2 w 0 = 0 then
      some (.and_ (gF w 18) (gF w 11) (gF w 4) (bF 2 w 2))
    else if nF 2 w 0 = 1 then
      some (.or_ (gF w 18) (gF w 11) (gF w 4) (bF 2 w 2))
    else if nF 2 w 0 = 2 then
      some (.xor_ (gF w 18) (gF w 11) (gF w 4) (bF 2 w 2))
    else if nF 2 w 0 = 3 then
      some (.andn (gF w 18) (gF w 11) (gF w 4) (bF 2 w 2))
    else none
  | 8 =>
    if nF 2 w 0 = 0 then
      some (.shl (gF w 18) (gF w 11) (gF w 4) (bF 2 w 2))
    else if nF 2 w 0 = 1 then
      some (.shr (gF w 18) (gF w 11) (gF w 4) (bF 2 w 2))
    else if nF 2 w 0 = 2 then
      some (.sar (gF w 18) (gF w 11) (gF w 4) (bF 2 w 2))
    else if nF 2 w 0 = 3 then
      some (.rotl (gF w 18) (gF w 11) (gF w 4) (bF 2 w 2))
    else none
  | 9 =>
    if nF 6 w 5 = 0 then
      some (.shli (gF w 18) (gF w 11) (bF 5 w 0))
    else none
  | 10 =>
    if nF 6 w 5 = 0 then
      some (.shri (gF w 18) (gF w 11) (bF 5 w 0))
    else none
  | 11 =>
    if nF 6 w 5 = 0 then
      some (.sari (gF w 18) (gF w 11) (bF 5 w 0))
    else none
  | 12 =>
    if nF 1 w 10 = 0 then
      some (.bfxN32 (gF w 18) (gF w 11) (bF 5 w 0) (bF 5 w 5))
    else none
  | 13 =>
    if nF 1 w 10 = 0 then
      some (.bfxI32 (gF w 18) (gF w 11) (bF 5 w 0) (bF 5 w 5))
    else none
  | 14 =>
    if nF 1 w 10 = 0 then
      some (.bfi (gF w 18) (gF w 11) (bF 5 w 0) (bF 5 w 5))
    else none
  | 15 =>
    if nF 4 w 18 = 0 then
      (ICond.ofCode (nF 3 w 0)).map fun x0 => (.icmp (bF 3 w 22) (gF w 11) (gF w 4) (ITy.ofCode (nF 1 w 3)) x0)
    else none
  | 16 =>
    if nF 4 w 18 = 0 ∧ nF 4 w 14 = 0 ∧ nF 4 w 7 = 0 then
      some (.plop (bF 3 w 22) (bF 3 w 11) (bF 3 w 4) (bF 4 w 0))
    else none
  | 17 =>
    if nF 7 w 4 = 0 ∧ nF 2 w 0 = 0 then
      some (.mov (gF w 18) (gF w 11) (bF 2 w 2))
    else if nF 2 w 0 = 1 then
      some (.movx (gF w 18) (gF w 11) (gF w 4) (bF 2 w 2))
    else if nF 2 w 0 = 2 then
      some (.movxw (gF w 18) (gF w 11) (gF w 4) (bF 2 w 2))
    else none
  | 18 => some (.selP0P3 (gF w 18) (gF w 11) (gF w 4) (bF 2 w 2) (bF 2 w 0))
  | 19 => some (.selP4P7 (gF w 18) (gF w 11) (gF w 4) (bF 2 w 2) (bF 2 w 0))
  | 20 =>
    if nF 7 w 11 = 0 then
      some (.movi (gF w 18) (bF 11 w 0))
    else none
  | _ => none

/-- The floating point and conversions: majors 0x15 to 0x25 (R73). -/
def decFp (w : Nat) : Option Instr :=
  match nF 7 w 25 with
  | 21 =>
    if nF 2 w 0 = 0 then
      some (.fadd (gF w 18) (gF w 11) (gF w 4) (bF 2 w 2))
    else if nF 2 w 0 = 1 then
      some (.fsub (gF w 18) (gF w 11) (gF w 4) (bF 2 w 2))
    else none
  | 22 =>
    if nF 2 w 0 = 0 then
      some (.fmul (gF w 18) (gF w 11) (gF w 4) (bF 2 w 2))
    else none
  | 23 =>
    if nF 2 w 0 = 0 then
      some (.ffma (gF w 18) (gF w 11) (gF w 4) (bF 2 w 2))
    else none
  | 24 =>
    if nF 2 w 0 = 0 then
      some (.fmin (gF w 18) (gF w 11) (gF w 4) (bF 2 w 2))
    else if nF 2 w 0 = 1 then
      some (.fmax (gF w 18) (gF w 11) (gF w 4) (bF 2 w 2))
    else none
  | 25 =>
    if nF 4 w 18 = 0 ∧ nF 1 w 3 = 0 then
      some (.fcmp (bF 3 w 22) (gF w 11) (gF w 4) (FCond.ofCode (nF 3 w 0)))
    else none
  | 26 =>
    if nF 7 w 4 = 0 ∧ nF 2 w 0 = 0 then
      some (.frcp (gF w 18) (gF w 11) (bF 2 w 2))
    else if nF 7 w 4 = 0 ∧ nF 2 w 0 = 1 then
      some (.frsq (gF w 18) (gF w 11) (bF 2 w 2))
    else if nF 7 w 4 = 0 ∧ nF 2 w 0 = 2 then
      some (.fsqrt (gF w 18) (gF w 11) (bF 2 w 2))
    else if nF 7 w 4 = 0 ∧ nF 2 w 0 = 3 then
      some (.fexp2 (gF w 18) (gF w 11) (bF 2 w 2))
    else none
  | 27 =>
    if nF 7 w 4 = 0 ∧ nF 2 w 0 = 0 then
      some (.flog2 (gF w 18) (gF w 11) (bF 2 w 2))
    else if nF 7 w 4 = 0 ∧ nF 2 w 0 = 1 then
      some (.fsin (gF w 18) (gF w 11) (bF 2 w 2))
    else if nF 7 w 4 = 0 ∧ nF 2 w 0 = 2 then
      some (.fcos (gF w 18) (gF w 11) (bF 2 w 2))
    else none
  | 28 =>
    if nF 2 w 0 = 0 then
      some (.fdiv (gF w 18) (gF w 11) (gF w 4) (bF 2 w 2))
    else none
  | 29 =>
    if nF 2 w 0 = 0 then
      some (.fscale (gF w 18) (gF w 11) (gF w 4) (bF 2 w 2))
    else none
  | 30 =>
    if nF 2 w 0 = 0 then
      some (.dadd (gF w 18) (gF w 11) (gF w 4) (bF 2 w 2))
    else if nF 2 w 0 = 1 then
      some (.dmul (gF w 18) (gF w 11) (gF w 4) (bF 2 w 2))
    else if nF 2 w 0 = 2 then
      some (.dfma (gF w 18) (gF w 11) (gF w 4) (bF 2 w 2))
    else none
  | 31 =>
    if nF 2 w 0 = 0 then
      some (.hadd2F16 (gF w 18) (gF w 11) (gF w 4) (bF 2 w 2))
    else if nF 2 w 0 = 1 then
      some (.hmul2F16 (gF w 18) (gF w 11) (gF w 4) (bF 2 w 2))
    else if nF 2 w 0 = 2 then
      some (.hfma2F16 (gF w 18) (gF w 11) (gF w 4) (bF 2 w 2))
    else none
  | 32 =>
    if nF 2 w 0 = 0 then
      some (.hadd2Bf16 (gF w 18) (gF w 11) (gF w 4) (bF 2 w 2))
    else if nF 2 w 0 = 1 then
      some (.hmul2Bf16 (gF w 18) (gF w 11) (gF w 4) (bF 2 w 2))
    else if nF 2 w 0 = 2 then
      some (.hfma2Bf16 (gF w 18) (gF w 11) (gF w 4) (bF 2 w 2))
    else none
  | 33 =>
    if nF 2 w 0 = 0 then
      some (.hmin2F16 (gF w 18) (gF w 11) (gF w 4) (bF 2 w 2))
    else if nF 2 w 0 = 1 then
      some (.hmax2F16 (gF w 18) (gF w 11) (gF w 4) (bF 2 w 2))
    else none
  | 34 =>
    if nF 2 w 0 = 0 then
      some (.hmin2Bf16 (gF w 18) (gF w 11) (gF w 4) (bF 2 w 2))
    else if nF 2 w 0 = 1 then
      some (.hmax2Bf16 (gF w 18) (gF w 11) (gF w 4) (bF 2 w 2))
    else none
  | 35 => (Rnd.ofCode (nF 3 w 8)).bind fun x0 => (LTy.ofCode (nF 4 w 4)).bind fun x1 => (LTy.ofCode (nF 4 w 0)).map fun x2 => (.cvt (gF w 18) (gF w 11) x0 x1 x2)
  | 36 => (Rnd.ofCode (nF 3 w 8)).bind fun x0 => (LTy.ofCode (nF 4 w 4)).bind fun x1 => (LTy.ofCode (nF 4 w 0)).map fun x2 => (.cvtn (gF w 18) (gF w 11) x0 x1 x2)
  | 37 => (Rnd.ofCode (nF 3 w 8)).bind fun x0 => (LTy.ofCode (nF 4 w 4)).bind fun x1 => (LTy.ofCode (nF 4 w 0)).map fun x2 => (.cvtw (gF w 18) (gF w 11) x0 x1 x2)
  | _ => none

/-- The cross-lane, address and special values: majors 0x26 to 0x2C (R73). -/
def decCross (w : Nat) : Option Instr :=
  match nF 7 w 25 with
  | 38 =>
    if nF 2 w 0 = 0 then
      some (.shflIdx (gF w 18) (gF w 11) (gF w 4) (bF 2 w 2))
    else if nF 2 w 0 = 1 then
      some (.shflUp (gF w 18) (gF w 11) (gF w 4) (bF 2 w 2))
    else if nF 2 w 0 = 2 then
      some (.shflDown (gF w 18) (gF w 11) (gF w 4) (bF 2 w 2))
    else if nF 2 w 0 = 3 then
      some (.shflXor (gF w 18) (gF w 11) (gF w 4) (bF 2 w 2))
    else none
  | 39 =>
    if nF 4 w 21 = 0 ∧ nF 4 w 14 = 0 ∧ nF 7 w 4 = 0 ∧ nF 2 w 0 = 0 then
      some (.voteAny (bF 3 w 18) (bF 3 w 11) (bF 2 w 2))
    else if nF 4 w 21 = 0 ∧ nF 4 w 14 = 0 ∧ nF 7 w 4 = 0 ∧ nF 2 w 0 = 1 then
      some (.voteAll (bF 3 w 18) (bF 3 w 11) (bF 2 w 2))
    else if nF 4 w 14 = 0 ∧ nF 7 w 4 = 0 ∧ nF 2 w 0 = 2 then
      some (.voteBallot (gF w 18) (bF 3 w 11) (bF 2 w 2))
    else none
  | 40 =>
    if nF 3 w 8 = 0 then
      (RedOp.ofCode (nF 8 w 0)).map fun x0 => (.lreduce (gF w 18) (gF w 11) x0)
    else none
  | 41 =>
    if nF 4 w 21 = 0 ∧ nF 3 w 15 = 0 ∧ nF 11 w 0 = 0 then
      some (.ader (bF 3 w 18) (bF 4 w 11))
    else if nF 4 w 21 = 0 ∧ nF 2 w 0 = 1 then
      some (.anarrow (bF 3 w 18) (gF w 11) (gF w 4) (bF 2 w 2))
    else if nF 4 w 21 = 0 ∧ nF 7 w 4 = 0 ∧ nF 2 w 0 = 2 then
      some (.aadv (bF 3 w 18) (gF w 11) (bF 2 w 2))
    else if nF 4 w 14 = 0 ∧ nF 3 w 8 = 0 ∧ nF 2 w 0 = 3 then
      some (.aget (gF w 18) (bF 3 w 11) (bF 4 w 4) (bF 2 w 2))
    else none
  | 42 =>
    if nF 4 w 21 = 0 ∧ nF 7 w 11 = 0 then
      some (.aadvi (bF 3 w 18) (bF 11 w 0))
    else none
  | 43 =>
    if nF 5 w 6 = 0 ∧ nF 2 w 0 = 0 then
      some (.dget (gF w 18) (gF w 11) (bF 2 w 4) (bF 2 w 2))
    else if nF 5 w 6 = 0 ∧ nF 2 w 0 = 1 then
      some (.dset (gF w 18) (gF w 11) (bF 2 w 4) (bF 2 w 2))
    else if nF 7 w 11 = 0 ∧ nF 5 w 6 = 0 ∧ nF 2 w 0 = 2 then
      some (.dseed (gF w 18) (bF 2 w 4) (bF 2 w 2))
    else none
  | 44 =>
    if nF 8 w 0 = 0 then
      some (.sread (gF w 18) (bF 10 w 8))
    else if nF 10 w 8 = 0 ∧ nF 8 w 0 = 1 then
      some (.rand (gF w 18))
    else none
  | _ => none

/-- The lane memory: majors 0x30 to 0x36 (R74). -/
def decMem (w : Nat) : Option Instr :=
  match nF 7 w 25 with
  | 48 => (Size.ofCode (nF 3 w 2)).map fun x0 => (.ld (gF w 18) (bF 3 w 15) (bF 10 w 5) x0 (Policy.ofCode (nF 2 w 0)))
  | 49 => (Size.ofCode (nF 3 w 2)).map fun x0 => (.st (gF w 18) (bF 3 w 15) (bF 10 w 5) x0 (Policy.ofCode (nF 2 w 0)))
  | 50 =>
    if nF 3 w 12 = 0 then
      (Size.ofCode (nF 3 w 2)).map fun x0 => (.ldx (gF w 18) (bF 3 w 15) (gF w 5) x0 (Policy.ofCode (nF 2 w 0)))
    else none
  | 51 =>
    if nF 3 w 12 = 0 then
      (Size.ofCode (nF 3 w 2)).map fun x0 => (.stx (gF w 18) (bF 3 w 15) (gF w 5) x0 (Policy.ofCode (nF 2 w 0)))
    else none
  | 52 => (Size.ofCode (nF 3 w 8)).map fun x0 => (.lds (gF w 18) (gF w 11) x0 (bF 8 w 0))
  | 53 => (Size.ofCode (nF 3 w 8)).map fun x0 => (.sts (gF w 18) (gF w 11) x0 (bF 8 w 0))
  | 54 =>
    if nF 4 w 21 = 0 then
      (b128OfCode (nF 3 w 2)).map fun x0 => (.aldp (bF 3 w 18) (bF 3 w 15) (bF 10 w 5) x0 (Policy.ofCode (nF 2 w 0)))
    else none
  | _ => none

/-- The control and synchronisation: majors 0x40 to 0x48 (R75). -/
def decCtl (w : Nat) : Option Instr :=
  match nF 7 w 25 with
  | 64 => some (.brp (bF 3 w 22) (tF w 21) (bF 21 w 0))
  | 65 => (BraCond.ofCode (nF 7 w 11)).map fun x0 => (.bra (gF w 18) x0 (bF 11 w 0))
  | 66 => some (.call (bF 3 w 22) (tF w 21) (bF 21 w 0))
  | 67 =>
    if nF 21 w 0 = 0 then
      some (.ret (bF 3 w 22) (tF w 21))
    else none
  | 68 =>
    if nF 7 w 18 = 0 ∧ nF 11 w 0 = 0 then
      some (.brx (gF w 11))
    else none
  | 69 =>
    if nF 21 w 0 = 0 then
      some (.exit (bF 3 w 22) (tF w 21))
    else none
  | 70 =>
    if nF 17 w 8 = 0 ∧ nF 8 w 0 = 0 then
      some .nop
    else if nF 17 w 8 = 0 ∧ nF 8 w 0 = 1 then
      some .reform
    else if nF 17 w 8 = 0 ∧ nF 8 w 0 = 2 then
      some .yield
    else if nF 7 w 18 = 0 ∧ nF 8 w 0 = 3 then
      some (.region (bF 10 w 8))
    else if nF 7 w 18 = 0 ∧ nF 8 w 0 = 4 then
      some (.trap (bF 10 w 8))
    else if nF 10 w 8 = 0 ∧ nF 8 w 0 = 5 then
      some (.untaint (gF w 18))
    else none
  | 71 =>
    if nF 1 w 0 = 0 then
      some (.waitc (bF 6 w 19) (bF 6 w 13) (bF 6 w 7) (bF 6 w 1))
    else none
  | 72 =>
    if nF 2 w 23 = 0 ∧ nF 11 w 0 = 0 then
      some (.barInit (bF 5 w 18) (gF w 11))
    else if nF 2 w 23 = 0 ∧ nF 18 w 0 = 1 then
      some (.barArrive (bF 5 w 18))
    else if nF 2 w 23 = 0 ∧ nF 11 w 0 = 2 then
      some (.barExpect (bF 5 w 18) (gF w 11))
    else if nF 2 w 23 = 0 ∧ nF 11 w 0 = 3 then
      some (.barWait (bF 5 w 18) (gF w 11))
    else none
  | _ => none

/-- The matrix: majors 0x50 to 0x5C (R76). -/
def decMat (w : Nat) : Option Instr :=
  match nF 7 w 25 with
  | 80 =>
    if nF 3 w 22 = 0 ∧ nF 11 w 0 = 0 then
      some (.tcfg (bF 4 w 18) (gF w 11))
    else none
  | 81 =>
    if nF 4 w 0 = 0 then
      some (.tld (bF 4 w 21) (bF 3 w 18) (gF w 11) (gF w 4))
    else if nF 4 w 0 = 1 then
      some (.tst (bF 4 w 21) (bF 3 w 18) (gF w 11) (gF w 4))
    else if nF 3 w 18 = 0 ∧ nF 4 w 0 = 2 then
      some (.tlds (bF 4 w 21) (gF w 11) (gF w 4))
    else if nF 3 w 18 = 0 ∧ nF 4 w 0 = 3 then
      some (.tsts (bF 4 w 21) (gF w 11) (gF w 4))
    else none
  | 82 =>
    if nF 6 w 4 = 0 then
      (IOvr.ofCode (nF 2 w 2)).map fun x0 => (.tmma (bF 4 w 21) (bF 4 w 17) (bF 4 w 13) (bF 3 w 10) x0 (tF w 1) (tF w 0))
    else none
  | 83 =>
    if nF 4 w 11 = 0 ∧ nF 4 w 0 = 0 then
      some (.tmloop (bF 4 w 21) (bF 3 w 18) (bF 3 w 15) (gF w 4))
    else none
  | 84 =>
    if nF 5 w 5 = 0 then
      (Bcast.ofCode (nF 2 w 2)).map fun x0 => (.tadd (bF 4 w 21) (bF 4 w 17) (bF 4 w 13) (bF 3 w 10) (tF w 4) x0 (tF w 1) (tF w 0))
    else none
  | 85 =>
    if nF 6 w 4 = 0 then
      (Bcast.ofCode (nF 2 w 2)).map fun x0 => (.temul (bF 4 w 21) (bF 4 w 17) (bF 4 w 13) (bF 3 w 10) x0 (tF w 1) (tF w 0))
    else none
  | 86 =>
    if nF 7 w 3 = 0 then
      some (.tscl (bF 4 w 21) (bF 4 w 17) (bF 4 w 13) (bF 3 w 10) (tF w 2) (tF w 1) (tF w 0))
    else if nF 4 w 13 = 0 ∧ nF 1 w 9 = 1 ∧ nF 2 w 1 = 0 then
      some (.tsclPow (bF 4 w 21) (bF 4 w 17) (bF 3 w 10) (bF 6 w 3) (tF w 0))
    else none
  | 87 =>
    if nF 17 w 0 = 0 then
      some (.ttr (bF 4 w 21) (bF 4 w 17))
    else none
  | 88 =>
    if nF 4 w 13 = 0 ∧ nF 6 w 4 = 0 then
      (Rnd.ofCode (nF 3 w 0)).map fun x0 => (.tcvt (bF 4 w 21) (bF 4 w 17) (bF 3 w 10) x0 (tF w 3))
    else none
  | 89 =>
    if nF 4 w 13 = 0 ∧ nF 5 w 5 = 0 then
      (ActFn.ofCode (nF 4 w 0)).map fun x0 => (.tact (bF 4 w 21) (bF 4 w 17) (bF 3 w 10) x0 (tF w 4))
    else none
  | 90 =>
    if nF 4 w 13 = 0 ∧ nF 8 w 2 = 0 then
      some (.trsum (bF 4 w 21) (bF 4 w 17) (bF 3 w 10) (tF w 1) (tF w 0))
    else none
  | 91 =>
    if nF 21 w 0 = 0 then
      some (.tzero (bF 4 w 21))
    else if nF 21 w 0 = 1 then
      some (.teval (bF 4 w 21))
    else if nF 21 w 0 = 2 then
      some (.tdrop (bF 4 w 21))
    else none
  | 92 =>
    if nF 3 w 15 = 0 ∧ nF 4 w 0 = 0 then
      some (.trd (gF w 18) (bF 4 w 11) (gF w 4))
    else if nF 3 w 22 = 0 ∧ nF 4 w 0 = 1 then
      some (.twr (bF 4 w 18) (gF w 11) (gF w 4))
    else if nF 3 w 15 = 0 ∧ nF 4 w 7 = 0 ∧ nF 4 w 0 = 2 then
      some (.tstat (gF w 18) (bF 4 w 11) (bF 3 w 4))
    else none
  | _ => none

/-- The transfer and task: majors 0x60 to 0x6B (R76, R77). -/
def decEng (w : Nat) : Option Instr :=
  match nF 7 w 25 with
  | 96 =>
    if nF 3 w 22 = 0 ∧ nF 5 w 0 = 0 then
      some (.xlr (bF 4 w 18) (bF 3 w 15) (bF 10 w 5))
    else none
  | 97 =>
    if nF 3 w 22 = 0 ∧ nF 3 w 0 = 0 then
      (Xform.ofCode (nF 5 w 4)).map fun x0 => (.xcp (bF 4 w 14) (bF 4 w 18) (bF 5 w 9) x0 (tF w 3))
    else none
  | 98 =>
    if nF 3 w 22 = 0 ∧ nF 1 w 8 = 0 ∧ nF 3 w 0 = 0 then
      some (.xred (bF 4 w 14) (bF 4 w 18) (bF 4 w 4) (bF 5 w 9) (tF w 3))
    else none
  | 99 =>
    if nF 3 w 0 = 0 then
      (WalkAct.ofCode (nF 5 w 4)).map fun x0 => (.xwalk (bF 4 w 14) (gF w 18) (bF 5 w 9) x0 (tF w 3))
    else none
  | 100 =>
    if nF 5 w 13 = 0 ∧ nF 6 w 2 = 0 then
      some (.xstat (gF w 18) (bF 5 w 8) (bF 2 w 0))
    else none
  | 104 =>
    if nF 5 w 0 = 0 then
      some (.jsub (gF w 18) (bF 3 w 15) (bF 10 w 5))
    else none
  | 105 =>
    if nF 7 w 18 = 0 ∧ nF 4 w 0 = 0 then
      some (.gainadd (gF w 11) (gF w 4))
    else if nF 7 w 18 = 0 ∧ nF 4 w 0 = 1 then
      some (.gainset (gF w 11) (gF w 4))
    else if nF 11 w 0 = 2 then
      some (.gainget (gF w 18) (gF w 11))
    else none
  | 106 =>
    if nF 7 w 18 = 0 ∧ nF 11 w 0 = 0 then
      some (.resadd (gF w 11))
    else if nF 7 w 11 = 0 ∧ nF 4 w 7 = 0 ∧ nF 4 w 0 = 1 then
      some (.resget (gF w 18) (bF 3 w 4))
    else none
  | 107 =>
    if nF 7 w 18 = 0 ∧ nF 11 w 0 = 0 then
      some (.ordwait (gF w 11))
    else if nF 7 w 18 = 0 ∧ nF 11 w 0 = 1 then
      some (.ordpost (gF w 11))
    else none
  | _ => none

/-- The home, watch and hint words: majors 0x70 to 0x7E (R77, R61). -/
def decHome (w : Nat) : Option Instr :=
  match nF 7 w 25 with
  | 112 => (Scope.ofCode (nF 3 w 12)).bind fun x0 => (AtomOp.ofCode (nF 7 w 5)).bind fun x1 => (b64OfCode (nF 3 w 2)).map fun x2 => (.atom (gF w 18) (bF 3 w 15) x0 x1 x2 (Order.ofCode (nF 2 w 0)))
  | 113 =>
    if nF 7 w 5 = 0 then
      (Scope.ofCode (nF 3 w 12)).bind fun x0 => (b64OfCode (nF 3 w 2)).map fun x1 => (.cas (gF w 18) (bF 3 w 15) x0 x1 (Order.ofCode (nF 2 w 0)))
    else none
  | 114 =>
    if nF 5 w 5 = 0 ∧ nF 2 w 0 = 0 then
      (sysOfCode (nF 3 w 12)).bind fun x0 => (b64OfCode (nF 3 w 2)).map fun x1 => (.waitcmp (gF w 18) (bF 3 w 15) x0 (WCond.ofCode (nF 2 w 10)) x1)
    else none
  | 115 => (Scope.ofCode (nF 3 w 12)).bind fun x0 => (Size.ofCode (nF 3 w 2)).map fun x1 => (.ldAcq (gF w 18) (bF 3 w 15) x0 (gF w 5) x1 (Policy.ofCode (nF 2 w 0)))
  | 116 => (Scope.ofCode (nF 3 w 12)).bind fun x0 => (Size.ofCode (nF 3 w 2)).map fun x1 => (.stRel (gF w 18) (bF 3 w 15) x0 (gF w 5) x1 (Policy.ofCode (nF 2 w 0)))
  | 117 =>
    if nF 7 w 18 = 0 ∧ nF 7 w 11 = 0 ∧ nF 8 w 0 = 0 then
      (Scope.ofCode (nF 3 w 8)).map fun x0 => (.fence x0)
    else none
  | 118 =>
    if nF 7 w 18 = 0 ∧ nF 4 w 14 = 0 ∧ nF 4 w 0 = 0 then
      some (.smap (bF 3 w 11) (gF w 4))
    else if nF 7 w 18 = 0 ∧ nF 4 w 14 = 0 ∧ nF 11 w 0 = 1 then
      some (.sunmap (bF 3 w 11))
    else if nF 7 w 18 = 0 ∧ nF 4 w 14 = 0 ∧ nF 11 w 0 = 2 then
      some (.sflush (bF 3 w 11))
    else none
  | 119 =>
    if nF 7 w 18 = 0 then
      some (.pref (bF 3 w 15) (bF 10 w 5) (bF 3 w 2) (Policy.ofCode (nF 2 w 0)))
    else none
  | 120 =>
    if nF 7 w 18 = 0 ∧ nF 8 w 0 = 0 then
      some (.bkpt (bF 10 w 8))
    else none
  | 121 =>
    if nF 8 w 0 = 0 then
      some (.tmark (gF w 18) (bF 10 w 8))
    else none
  | 122 =>
    if nF 8 w 0 = 0 then
      some (.sysrd (gF w 18) (bF 10 w 8))
    else none
  | 123 =>
    if nF 8 w 0 = 0 then
      some (.syswr (bF 10 w 8) (gF w 18))
    else none
  | 124 => some (.imm (bF 25 w 0))
  | 125 =>
    if nF 11 w 0 = 0 then
      (ovrOfCode (nF 4 w 11)).map fun x0 => (.mod_ (tF w 24) (tF w 23) (tF w 22) (tF w 21) (bF 6 w 15) x0)
    else none
  | 126 =>
    if nF 25 w 0 = 0 then
      some .tan
    else none
  | _ => none

/-- The instruction a word's fields name, before the constraints of `Instr.wellFormed`. -/
def decRaw (w : Nat) : Option Instr :=
  let m := nF 7 w 25
  if m < 21 then decInt w
  else if m < 38 then decFp w
  else if m < 48 then decCross w
  else if m < 64 then decMem w
  else if m < 80 then decCtl w
  else if m < 96 then decMat w
  else if m < 112 then decEng w
  else decHome w

/-- The instruction of a word; none raises ILLEGAL (R84). -/
def decode (w : Nat) : Option Instr := (decRaw w).filter Instr.wellFormed

/-- Why bytes are no instruction. -/
inductive Reject
  /-- fewer than four bytes -/
  | short
  /-- an unassigned major, sub, fn or code, or a nonzero reserved field (R84) -/
  | unassigned
  /-- the fields are assigned and break an alignment or range constraint (R58, R73, R81) -/
  | illFormed
  deriving DecidableEq, Repr

/-- Decodes the first word of a run of bytes, little-endian (R57), and gives the rest. -/
def decodeBytes : List Byte → Except Reject (Instr × List Byte)
  | b0 :: b1 :: b2 :: b3 :: rest =>
    let w := b0.toNat + 2 ^ 8 * b1.toNat + 2 ^ 16 * b2.toNat + 2 ^ 24 * b3.toNat
    match decRaw w with
    | none => .error .unassigned
    | some i => if i.wellFormed then .ok (i, rest) else .error .illFormed
  | _ => .error .short

/-- The four bytes of a word, lowest address first (R57). -/
def wordBytes (w : Nat) : List Byte :=
  [BitVec.ofNat 8 w, BitVec.ofNat 8 (w / 2 ^ 8), BitVec.ofNat 8 (w / 2 ^ 16), BitVec.ofNat 8 (w / 2 ^ 24)]

/-- The instruction the decoder reads from an instruction whose bits are `w`; every instruction word has 32 bits. -/
def decodeTableWord (nbits w : Nat) : Option Instr :=
  match decodeBytes (wordBytes (w % 2 ^ nbits)) with
  | .ok (i, _) => some i
  | .error _ => none

/-! ### The encoder -/

/-- A word from its major opcode and its fields, each with the place of its lowest bit (R59). -/
def pack (major : Nat) : List (Nat × Nat) → Nat
  | [] => major * 2 ^ 25
  | (v, lo) :: fs => v * 2 ^ lo + pack major fs

/-- The word of an instruction; the event rows have none. -/
def encode : Instr → Option Nat
  | .iadd x0 x1 x2 x3 x4 => some (pack 1 [(x0.toNat, 18), (x1.toNat, 11), (x2.toNat, 4), (x3.toNat, 2), (x4.code, 1)])
  | .isub x0 x1 x2 x3 x4 => some (pack 1 [(x0.toNat, 18), (x1.toNat, 11), (x2.toNat, 4), (x3.toNat, 2), (x4.code, 1), (1, 0)])
  | .iaddi x0 x1 x2 => some (pack 2 [(x0.toNat, 18), (x1.toNat, 11), (x2.toNat, 0)])
  | .imul x0 x1 x2 x3 x4 => some (pack 3 [(x0.toNat, 18), (x1.toNat, 11), (x2.toNat, 4), (x3.toNat, 2), (x4.code, 1)])
  | .imulhi x0 x1 x2 x3 x4 => some (pack 3 [(x0.toNat, 18), (x1.toNat, 11), (x2.toNat, 4), (x3.toNat, 2), (x4.code, 1), (1, 0)])
  | .imad x0 x1 x2 x3 x4 => some (pack 4 [(x0.toNat, 18), (x1.toNat, 11), (x2.toNat, 4), (x3.toNat, 2), (x4.code, 1)])
  | .imin x0 x1 x2 x3 x4 => some (pack 5 [(x0.toNat, 18), (x1.toNat, 11), (x2.toNat, 4), (x3.toNat, 2), (x4.code, 1)])
  | .imax x0 x1 x2 x3 x4 => some (pack 5 [(x0.toNat, 18), (x1.toNat, 11), (x2.toNat, 4), (x3.toNat, 2), (x4.code, 1), (1, 0)])
  | .clz x0 x1 x2 => some (pack 6 [(x0.toNat, 18), (x1.toNat, 11), (x2.toNat, 2)])
  | .popc x0 x1 x2 => some (pack 6 [(x0.toNat, 18), (x1.toNat, 11), (x2.toNat, 2), (1, 0)])
  | .brev x0 x1 x2 => some (pack 6 [(x0.toNat, 18), (x1.toNat, 11), (x2.toNat, 2), (2, 0)])
  | .iabs x0 x1 x2 => some (pack 6 [(x0.toNat, 18), (x1.toNat, 11), (x2.toNat, 2), (3, 0)])
  | .and_ x0 x1 x2 x3 => some (pack 7 [(x0.toNat, 18), (x1.toNat, 11), (x2.toNat, 4), (x3.toNat, 2)])
  | .or_ x0 x1 x2 x3 => some (pack 7 [(x0.toNat, 18), (x1.toNat, 11), (x2.toNat, 4), (x3.toNat, 2), (1, 0)])
  | .xor_ x0 x1 x2 x3 => some (pack 7 [(x0.toNat, 18), (x1.toNat, 11), (x2.toNat, 4), (x3.toNat, 2), (2, 0)])
  | .andn x0 x1 x2 x3 => some (pack 7 [(x0.toNat, 18), (x1.toNat, 11), (x2.toNat, 4), (x3.toNat, 2), (3, 0)])
  | .shl x0 x1 x2 x3 => some (pack 8 [(x0.toNat, 18), (x1.toNat, 11), (x2.toNat, 4), (x3.toNat, 2)])
  | .shr x0 x1 x2 x3 => some (pack 8 [(x0.toNat, 18), (x1.toNat, 11), (x2.toNat, 4), (x3.toNat, 2), (1, 0)])
  | .sar x0 x1 x2 x3 => some (pack 8 [(x0.toNat, 18), (x1.toNat, 11), (x2.toNat, 4), (x3.toNat, 2), (2, 0)])
  | .rotl x0 x1 x2 x3 => some (pack 8 [(x0.toNat, 18), (x1.toNat, 11), (x2.toNat, 4), (x3.toNat, 2), (3, 0)])
  | .shli x0 x1 x2 => some (pack 9 [(x0.toNat, 18), (x1.toNat, 11), (x2.toNat, 0)])
  | .shri x0 x1 x2 => some (pack 10 [(x0.toNat, 18), (x1.toNat, 11), (x2.toNat, 0)])
  | .sari x0 x1 x2 => some (pack 11 [(x0.toNat, 18), (x1.toNat, 11), (x2.toNat, 0)])
  | .bfxN32 x0 x1 x2 x3 => some (pack 12 [(x0.toNat, 18), (x1.toNat, 11), (x3.toNat, 5), (x2.toNat, 0)])
  | .bfxI32 x0 x1 x2 x3 => some (pack 13 [(x0.toNat, 18), (x1.toNat, 11), (x3.toNat, 5), (x2.toNat, 0)])
  | .bfi x0 x1 x2 x3 => some (pack 14 [(x0.toNat, 18), (x1.toNat, 11), (x3.toNat, 5), (x2.toNat, 0)])
  | .icmp x0 x1 x2 x3 x4 => some (pack 15 [(x0.toNat, 22), (x1.toNat, 11), (x2.toNat, 4), (x3.code, 3), (x4.code, 0)])
  | .plop x0 x1 x2 x3 => some (pack 16 [(x0.toNat, 22), (x1.toNat, 11), (x2.toNat, 4), (x3.toNat, 0)])
  | .mov x0 x1 x2 => some (pack 17 [(x0.toNat, 18), (x1.toNat, 11), (x2.toNat, 2)])
  | .movx x0 x1 x2 x3 => some (pack 17 [(x0.toNat, 18), (x1.toNat, 11), (x2.toNat, 4), (x3.toNat, 2), (1, 0)])
  | .movxw x0 x1 x2 x3 => some (pack 17 [(x0.toNat, 18), (x1.toNat, 11), (x2.toNat, 4), (x3.toNat, 2), (2, 0)])
  | .selP0P3 x0 x1 x2 x3 x4 => some (pack 18 [(x0.toNat, 18), (x1.toNat, 11), (x2.toNat, 4), (x3.toNat, 2), (x4.toNat, 0)])
  | .selP4P7 x0 x1 x2 x3 x4 => some (pack 19 [(x0.toNat, 18), (x1.toNat, 11), (x2.toNat, 4), (x3.toNat, 2), (x4.toNat, 0)])
  | .movi x0 x1 => some (pack 20 [(x0.toNat, 18), (x1.toNat, 0)])
  | .fadd x0 x1 x2 x3 => some (pack 21 [(x0.toNat, 18), (x1.toNat, 11), (x2.toNat, 4), (x3.toNat, 2)])
  | .fsub x0 x1 x2 x3 => some (pack 21 [(x0.toNat, 18), (x1.toNat, 11), (x2.toNat, 4), (x3.toNat, 2), (1, 0)])
  | .fmul x0 x1 x2 x3 => some (pack 22 [(x0.toNat, 18), (x1.toNat, 11), (x2.toNat, 4), (x3.toNat, 2)])
  | .ffma x0 x1 x2 x3 => some (pack 23 [(x0.toNat, 18), (x1.toNat, 11), (x2.toNat, 4), (x3.toNat, 2)])
  | .fmin x0 x1 x2 x3 => some (pack 24 [(x0.toNat, 18), (x1.toNat, 11), (x2.toNat, 4), (x3.toNat, 2)])
  | .fmax x0 x1 x2 x3 => some (pack 24 [(x0.toNat, 18), (x1.toNat, 11), (x2.toNat, 4), (x3.toNat, 2), (1, 0)])
  | .fcmp x0 x1 x2 x3 => some (pack 25 [(x0.toNat, 22), (x1.toNat, 11), (x2.toNat, 4), (x3.code, 0)])
  | .frcp x0 x1 x2 => some (pack 26 [(x0.toNat, 18), (x1.toNat, 11), (x2.toNat, 2)])
  | .frsq x0 x1 x2 => some (pack 26 [(x0.toNat, 18), (x1.toNat, 11), (x2.toNat, 2), (1, 0)])
  | .fsqrt x0 x1 x2 => some (pack 26 [(x0.toNat, 18), (x1.toNat, 11), (x2.toNat, 2), (2, 0)])
  | .fexp2 x0 x1 x2 => some (pack 26 [(x0.toNat, 18), (x1.toNat, 11), (x2.toNat, 2), (3, 0)])
  | .flog2 x0 x1 x2 => some (pack 27 [(x0.toNat, 18), (x1.toNat, 11), (x2.toNat, 2)])
  | .fsin x0 x1 x2 => some (pack 27 [(x0.toNat, 18), (x1.toNat, 11), (x2.toNat, 2), (1, 0)])
  | .fcos x0 x1 x2 => some (pack 27 [(x0.toNat, 18), (x1.toNat, 11), (x2.toNat, 2), (2, 0)])
  | .fdiv x0 x1 x2 x3 => some (pack 28 [(x0.toNat, 18), (x1.toNat, 11), (x2.toNat, 4), (x3.toNat, 2)])
  | .fscale x0 x1 x2 x3 => some (pack 29 [(x0.toNat, 18), (x1.toNat, 11), (x2.toNat, 4), (x3.toNat, 2)])
  | .dadd x0 x1 x2 x3 => some (pack 30 [(x0.toNat, 18), (x1.toNat, 11), (x2.toNat, 4), (x3.toNat, 2)])
  | .dmul x0 x1 x2 x3 => some (pack 30 [(x0.toNat, 18), (x1.toNat, 11), (x2.toNat, 4), (x3.toNat, 2), (1, 0)])
  | .dfma x0 x1 x2 x3 => some (pack 30 [(x0.toNat, 18), (x1.toNat, 11), (x2.toNat, 4), (x3.toNat, 2), (2, 0)])
  | .hadd2F16 x0 x1 x2 x3 => some (pack 31 [(x0.toNat, 18), (x1.toNat, 11), (x2.toNat, 4), (x3.toNat, 2)])
  | .hmul2F16 x0 x1 x2 x3 => some (pack 31 [(x0.toNat, 18), (x1.toNat, 11), (x2.toNat, 4), (x3.toNat, 2), (1, 0)])
  | .hfma2F16 x0 x1 x2 x3 => some (pack 31 [(x0.toNat, 18), (x1.toNat, 11), (x2.toNat, 4), (x3.toNat, 2), (2, 0)])
  | .hadd2Bf16 x0 x1 x2 x3 => some (pack 32 [(x0.toNat, 18), (x1.toNat, 11), (x2.toNat, 4), (x3.toNat, 2)])
  | .hmul2Bf16 x0 x1 x2 x3 => some (pack 32 [(x0.toNat, 18), (x1.toNat, 11), (x2.toNat, 4), (x3.toNat, 2), (1, 0)])
  | .hfma2Bf16 x0 x1 x2 x3 => some (pack 32 [(x0.toNat, 18), (x1.toNat, 11), (x2.toNat, 4), (x3.toNat, 2), (2, 0)])
  | .hmin2F16 x0 x1 x2 x3 => some (pack 33 [(x0.toNat, 18), (x1.toNat, 11), (x2.toNat, 4), (x3.toNat, 2)])
  | .hmax2F16 x0 x1 x2 x3 => some (pack 33 [(x0.toNat, 18), (x1.toNat, 11), (x2.toNat, 4), (x3.toNat, 2), (1, 0)])
  | .hmin2Bf16 x0 x1 x2 x3 => some (pack 34 [(x0.toNat, 18), (x1.toNat, 11), (x2.toNat, 4), (x3.toNat, 2)])
  | .hmax2Bf16 x0 x1 x2 x3 => some (pack 34 [(x0.toNat, 18), (x1.toNat, 11), (x2.toNat, 4), (x3.toNat, 2), (1, 0)])
  | .cvt x0 x1 x2 x3 x4 => some (pack 35 [(x0.toNat, 18), (x1.toNat, 11), (x2.code, 8), (x3.code, 4), (x4.code, 0)])
  | .cvtn x0 x1 x2 x3 x4 => some (pack 36 [(x0.toNat, 18), (x1.toNat, 11), (x2.code, 8), (x3.code, 4), (x4.code, 0)])
  | .cvtw x0 x1 x2 x3 x4 => some (pack 37 [(x0.toNat, 18), (x1.toNat, 11), (x2.code, 8), (x3.code, 4), (x4.code, 0)])
  | .shflIdx x0 x1 x2 x3 => some (pack 38 [(x0.toNat, 18), (x1.toNat, 11), (x2.toNat, 4), (x3.toNat, 2)])
  | .shflUp x0 x1 x2 x3 => some (pack 38 [(x0.toNat, 18), (x1.toNat, 11), (x2.toNat, 4), (x3.toNat, 2), (1, 0)])
  | .shflDown x0 x1 x2 x3 => some (pack 38 [(x0.toNat, 18), (x1.toNat, 11), (x2.toNat, 4), (x3.toNat, 2), (2, 0)])
  | .shflXor x0 x1 x2 x3 => some (pack 38 [(x0.toNat, 18), (x1.toNat, 11), (x2.toNat, 4), (x3.toNat, 2), (3, 0)])
  | .voteAny x0 x1 x2 => some (pack 39 [(x0.toNat, 18), (x1.toNat, 11), (x2.toNat, 2)])
  | .voteAll x0 x1 x2 => some (pack 39 [(x0.toNat, 18), (x1.toNat, 11), (x2.toNat, 2), (1, 0)])
  | .voteBallot x0 x1 x2 => some (pack 39 [(x0.toNat, 18), (x1.toNat, 11), (x2.toNat, 2), (2, 0)])
  | .lreduce x0 x1 x2 => some (pack 40 [(x0.toNat, 18), (x1.toNat, 11), (x2.code, 0)])
  | .ader x0 x1 => some (pack 41 [(x0.toNat, 18), (x1.toNat, 11)])
  | .anarrow x0 x1 x2 x3 => some (pack 41 [(x0.toNat, 18), (x1.toNat, 11), (x2.toNat, 4), (x3.toNat, 2), (1, 0)])
  | .aadv x0 x1 x2 => some (pack 41 [(x0.toNat, 18), (x1.toNat, 11), (x2.toNat, 2), (2, 0)])
  | .aget x0 x1 x2 x3 => some (pack 41 [(x0.toNat, 18), (x1.toNat, 11), (x2.toNat, 4), (x3.toNat, 2), (3, 0)])
  | .aadvi x0 x1 => some (pack 42 [(x0.toNat, 18), (x1.toNat, 0)])
  | .dget x0 x1 x2 x3 => some (pack 43 [(x0.toNat, 18), (x1.toNat, 11), (x2.toNat, 4), (x3.toNat, 2)])
  | .dset x0 x1 x2 x3 => some (pack 43 [(x0.toNat, 18), (x1.toNat, 11), (x2.toNat, 4), (x3.toNat, 2), (1, 0)])
  | .dseed x0 x1 x2 => some (pack 43 [(x0.toNat, 18), (x1.toNat, 4), (x2.toNat, 2), (2, 0)])
  | .sread x0 x1 => some (pack 44 [(x0.toNat, 18), (x1.toNat, 8)])
  | .rand x0 => some (pack 44 [(x0.toNat, 18), (1, 0)])
  | .ld x0 x1 x2 x3 x4 => some (pack 48 [(x0.toNat, 18), (x1.toNat, 15), (x2.toNat, 5), (x3.code, 2), (x4.code, 0)])
  | .st x0 x1 x2 x3 x4 => some (pack 49 [(x0.toNat, 18), (x1.toNat, 15), (x2.toNat, 5), (x3.code, 2), (x4.code, 0)])
  | .ldx x0 x1 x2 x3 x4 => some (pack 50 [(x0.toNat, 18), (x1.toNat, 15), (x2.toNat, 5), (x3.code, 2), (x4.code, 0)])
  | .stx x0 x1 x2 x3 x4 => some (pack 51 [(x0.toNat, 18), (x1.toNat, 15), (x2.toNat, 5), (x3.code, 2), (x4.code, 0)])
  | .lds x0 x1 x2 x3 => some (pack 52 [(x0.toNat, 18), (x1.toNat, 11), (x2.code, 8), (x3.toNat, 0)])
  | .sts x0 x1 x2 x3 => some (pack 53 [(x0.toNat, 18), (x1.toNat, 11), (x2.code, 8), (x3.toNat, 0)])
  | .aldp x0 x1 x2 x3 x4 => some (pack 54 [(x0.toNat, 18), (x1.toNat, 15), (x2.toNat, 5), (b128Code x3, 2), (x4.code, 0)])
  | .brp x0 x1 x2 => some (pack 64 [(x0.toNat, 22), (bit x1, 21), (x2.toNat, 0)])
  | .bra x0 x1 x2 => some (pack 65 [(x0.toNat, 18), (x1.code, 11), (x2.toNat, 0)])
  | .call x0 x1 x2 => some (pack 66 [(x0.toNat, 22), (bit x1, 21), (x2.toNat, 0)])
  | .ret x0 x1 => some (pack 67 [(x0.toNat, 22), (bit x1, 21)])
  | .brx x0 => some (pack 68 [(x0.toNat, 11)])
  | .exit x0 x1 => some (pack 69 [(x0.toNat, 22), (bit x1, 21)])
  | .nop => some (pack 70 [])
  | .reform => some (pack 70 [(1, 0)])
  | .yield => some (pack 70 [(2, 0)])
  | .region x0 => some (pack 70 [(x0.toNat, 8), (3, 0)])
  | .trap x0 => some (pack 70 [(x0.toNat, 8), (4, 0)])
  | .untaint x0 => some (pack 70 [(x0.toNat, 18), (5, 0)])
  | .waitc x0 x1 x2 x3 => some (pack 71 [(x0.toNat, 19), (x1.toNat, 13), (x2.toNat, 7), (x3.toNat, 1)])
  | .barInit x0 x1 => some (pack 72 [(x0.toNat, 18), (x1.toNat, 11)])
  | .barArrive x0 => some (pack 72 [(x0.toNat, 18), (1, 0)])
  | .barExpect x0 x1 => some (pack 72 [(x0.toNat, 18), (x1.toNat, 11), (2, 0)])
  | .barWait x0 x1 => some (pack 72 [(x0.toNat, 18), (x1.toNat, 11), (3, 0)])
  | .tcfg x0 x1 => some (pack 80 [(x0.toNat, 18), (x1.toNat, 11)])
  | .tld x0 x1 x2 x3 => some (pack 81 [(x0.toNat, 21), (x1.toNat, 18), (x2.toNat, 11), (x3.toNat, 4)])
  | .tst x0 x1 x2 x3 => some (pack 81 [(x0.toNat, 21), (x1.toNat, 18), (x2.toNat, 11), (x3.toNat, 4), (1, 0)])
  | .tlds x0 x1 x2 => some (pack 81 [(x0.toNat, 21), (x1.toNat, 11), (x2.toNat, 4), (2, 0)])
  | .tsts x0 x1 x2 => some (pack 81 [(x0.toNat, 21), (x1.toNat, 11), (x2.toNat, 4), (3, 0)])
  | .tmma x0 x1 x2 x3 x4 x5 x6 => some (pack 82 [(x0.toNat, 21), (x1.toNat, 17), (x2.toNat, 13), (x3.toNat, 10), (x4.code, 2), (bit x5, 1), (bit x6, 0)])
  | .tmloop x0 x1 x2 x3 => some (pack 83 [(x0.toNat, 21), (x1.toNat, 18), (x2.toNat, 15), (x3.toNat, 4)])
  | .tadd x0 x1 x2 x3 x4 x5 x6 x7 => some (pack 84 [(x0.toNat, 21), (x1.toNat, 17), (x2.toNat, 13), (x3.toNat, 10), (bit x4, 4), (x5.code, 2), (bit x6, 1), (bit x7, 0)])
  | .temul x0 x1 x2 x3 x4 x5 x6 => some (pack 85 [(x0.toNat, 21), (x1.toNat, 17), (x2.toNat, 13), (x3.toNat, 10), (x4.code, 2), (bit x5, 1), (bit x6, 0)])
  | .tscl x0 x1 x2 x3 x4 x5 x6 => some (pack 86 [(x0.toNat, 21), (x1.toNat, 17), (x2.toNat, 13), (x3.toNat, 10), (bit x4, 2), (bit x5, 1), (bit x6, 0)])
  | .tsclPow x0 x1 x2 x3 x4 => some (pack 86 [(x0.toNat, 21), (x1.toNat, 17), (x2.toNat, 10), (1, 9), (x3.toNat, 3), (bit x4, 0)])
  | .ttr x0 x1 => some (pack 87 [(x0.toNat, 21), (x1.toNat, 17)])
  | .tcvt x0 x1 x2 x3 x4 => some (pack 88 [(x0.toNat, 21), (x1.toNat, 17), (x2.toNat, 10), (bit x4, 3), (x3.code, 0)])
  | .tact x0 x1 x2 x3 x4 => some (pack 89 [(x0.toNat, 21), (x1.toNat, 17), (x2.toNat, 10), (bit x4, 4), (x3.code, 0)])
  | .trsum x0 x1 x2 x3 x4 => some (pack 90 [(x0.toNat, 21), (x1.toNat, 17), (x2.toNat, 10), (bit x3, 1), (bit x4, 0)])
  | .tzero x0 => some (pack 91 [(x0.toNat, 21)])
  | .teval x0 => some (pack 91 [(x0.toNat, 21), (1, 0)])
  | .tdrop x0 => some (pack 91 [(x0.toNat, 21), (2, 0)])
  | .trd x0 x1 x2 => some (pack 92 [(x0.toNat, 18), (x1.toNat, 11), (x2.toNat, 4)])
  | .twr x0 x1 x2 => some (pack 92 [(x0.toNat, 18), (x1.toNat, 11), (x2.toNat, 4), (1, 0)])
  | .tstat x0 x1 x2 => some (pack 92 [(x0.toNat, 18), (x1.toNat, 11), (x2.toNat, 4), (2, 0)])
  | .xlr x0 x1 x2 => some (pack 96 [(x0.toNat, 18), (x1.toNat, 15), (x2.toNat, 5)])
  | .xcp x0 x1 x2 x3 x4 => some (pack 97 [(x1.toNat, 18), (x0.toNat, 14), (x2.toNat, 9), (x3.code, 4), (bit x4, 3)])
  | .xred x0 x1 x2 x3 x4 => some (pack 98 [(x1.toNat, 18), (x0.toNat, 14), (x3.toNat, 9), (x2.toNat, 4), (bit x4, 3)])
  | .xwalk x0 x1 x2 x3 x4 => some (pack 99 [(x1.toNat, 18), (x0.toNat, 14), (x2.toNat, 9), (x3.code, 4), (bit x4, 3)])
  | .xstat x0 x1 x2 => some (pack 100 [(x0.toNat, 18), (x1.toNat, 8), (x2.toNat, 0)])
  | .jsub x0 x1 x2 => some (pack 104 [(x0.toNat, 18), (x1.toNat, 15), (x2.toNat, 5)])
  | .gainadd x0 x1 => some (pack 105 [(x0.toNat, 11), (x1.toNat, 4)])
  | .gainset x0 x1 => some (pack 105 [(x0.toNat, 11), (x1.toNat, 4), (1, 0)])
  | .gainget x0 x1 => some (pack 105 [(x0.toNat, 18), (x1.toNat, 11), (2, 0)])
  | .resadd x0 => some (pack 106 [(x0.toNat, 11)])
  | .resget x0 x1 => some (pack 106 [(x0.toNat, 18), (x1.toNat, 4), (1, 0)])
  | .ordwait x0 => some (pack 107 [(x0.toNat, 11)])
  | .ordpost x0 => some (pack 107 [(x0.toNat, 11), (1, 0)])
  | .atom x0 x1 x2 x3 x4 x5 => some (pack 112 [(x0.toNat, 18), (x1.toNat, 15), (x2.code, 12), (x3.code, 5), (b64Code x4, 2), (x5.code, 0)])
  | .cas x0 x1 x2 x3 x4 => some (pack 113 [(x0.toNat, 18), (x1.toNat, 15), (x2.code, 12), (b64Code x3, 2), (x4.code, 0)])
  | .waitcmp x0 x1 x2 x3 x4 => some (pack 114 [(x0.toNat, 18), (x1.toNat, 15), (sysCode x2, 12), (x3.code, 10), (b64Code x4, 2)])
  | .ldAcq x0 x1 x2 x3 x4 x5 => some (pack 115 [(x0.toNat, 18), (x1.toNat, 15), (x2.code, 12), (x3.toNat, 5), (x4.code, 2), (x5.code, 0)])
  | .stRel x0 x1 x2 x3 x4 x5 => some (pack 116 [(x0.toNat, 18), (x1.toNat, 15), (x2.code, 12), (x3.toNat, 5), (x4.code, 2), (x5.code, 0)])
  | .fence x0 => some (pack 117 [(x0.code, 8)])
  | .smap x0 x1 => some (pack 118 [(x0.toNat, 11), (x1.toNat, 4)])
  | .sunmap x0 => some (pack 118 [(x0.toNat, 11), (1, 0)])
  | .sflush x0 => some (pack 118 [(x0.toNat, 11), (2, 0)])
  | .pref x0 x1 x2 x3 => some (pack 119 [(x0.toNat, 15), (x1.toNat, 5), (x2.toNat, 2), (x3.code, 0)])
  | .bkpt x0 => some (pack 120 [(x0.toNat, 8)])
  | .tmark x0 x1 => some (pack 121 [(x0.toNat, 18), (x1.toNat, 8)])
  | .sysrd x0 x1 => some (pack 122 [(x0.toNat, 18), (x1.toNat, 8)])
  | .syswr x0 x1 => some (pack 123 [(x1.toNat, 18), (x0.toNat, 8)])
  | .imm x0 => some (pack 124 [(x0.toNat, 0)])
  | .mod_ x0 x1 x2 x3 x4 x5 => some (pack 125 [(bit x0, 24), (bit x1, 23), (bit x2, 22), (bit x3, 21), (x4.toNat, 15), (ovrCode x5, 11)])
  | .tan => some (pack 126 [])
  | _ => none

end Sys2Proof
end

