-- ==== Sys2Proof/Config.lean ====
section
/-! DEFINITION. What the device fixes, and the values the manual leaves open, which no proof can see. -/

namespace Sys2Proof.Config

/-- The encoding hash of Geltus-B (R2). -/
def encHash : Nat := 0x9D3A61F0C2B74E15
/-- Register rows of a lane column (R89). -/
def regRows : Nat := 4096
/-- Warp slots, tiles, barrier objects, layout handles, graph pool entries and scratchpad bytes of a core (R12). -/
def warpSlots : Nat := 32
def coreTiles : Nat := 128
def coreBars : Nat := 32
def coreHandles : Nat := 64
def graphPool : Nat := 512
def spadBytes : Nat := 524288
/-- Clusters of a die and cores of a cluster (R8). -/
def dieClusters : Nat := 12
def clusterCores : Nat := 4
/-- Monitors of a home slice (R448). -/
def sliceMonitors : Nat := 256
/-- Bytes of a save slot (R361). -/
def slotBytes : Nat := 134217728

/-- The signature check of a firmware image by the key in the device's fuses, which the manual does not print (R489;
assumption 13). -/
opaque imageSigned : List Byte → Bool
/-- The bytes of an attestation response (R493), by request code, request payload with what the answer tells, and a counter: the
manual fixes what the message says, not its bytes (assumption 14). -/
opaque spdmPayload : Nat → List Byte → Nat → List Byte
/-- The vendor identifier that the device's configuration header reports (R484): the manual does not print it (assumption 14). -/
opaque vendorId : BitVec 16
/-- The firmware of the management controller, whose digest is measurement block 1 (R493; assumption 14). -/
opaque amcFirmware : List Byte
/-- A record of the controller's log ring, by its time, source, code and two details: the manual names them and gives neither
their places nor their codes (R483; assumption 45). -/
opaque logRecord : Nat → Nat → Nat → Nat → Nat → BitVec 512
/-- The first MiB of a save slot (R361), by a counter: the manual names what it holds and not where (assumption 43). -/
opaque saveHead : Nat → List Byte

/-- The home slice of a 1 KiB superblock, by bits [56:10] of its intermediate address: a hash that the manual does not print
(R496; assumption 78). -/
opaque sliceOf : Nat → Nat
/-- Whether a slice translates by an entry that it holds in its cache, by the tick, the context, the level and the slot's number;
otherwise it reads the tables again (R353; assumption 42). -/
opaque usesCached : Nat → Nat → Nat → Nat → Bool
/-- The HDM decoders that the host has set up, in the form of `Home.hdm`: the manual gives no register for them (R29;
assumption 15). -/
opaque hdmDecoders : List (Nat × Nat × Nat × Nat)

end Sys2Proof.Config
end

