-- ==== Sys2Proof/Machine/State.lean ====
section
/-! DEFINITION. The state of the K7 as plain data: the Lane, Matrix, Transfer, Home, Task and Watch engines, the
management controller, memory, the host's register blocks, and the agenda that says which agent moves next. -/

namespace Sys2Proof.Machine

/-- Bytes by address, strictly rising, no entry equal to 0, which an unlisted address reads as (assumption 1). -/
abbrev Memory := List Host.Cell
/-- Numbers by key, strictly rising, no entry equal to 0, which an unlisted key reads as. -/
abbrev NatMap := List (Nat × Nat)

/-! ### The Lane engine: threads and warps -/

/-- A g register with its tangent shadows and taint mask (R86, R109). -/
structure GReg where
  val : Word
  sh : List Word
  mask : Mask
  deriving DecidableEq, Repr
/-- A predicate and its mask (R86). -/
structure PReg where
  val : Bool
  mask : Mask
  deriving DecidableEq, Repr
/-- An address register: pointer, base, limit, permission word, mask (R86, R91). -/
structure AReg where
  ptr : VAddr
  base : VAddr
  limit : VAddr
  perm : Word
  mask : Mask
  deriving DecidableEq, Repr
/-- The fields of a MOD word (R62). -/
structure ModHint where
  sat : Bool
  clamp : Bool
  neg : Bool
  abs : Bool
  scl : BitVec 6
  ovr : Option LTy
  deriving DecidableEq, Repr
/-- The hints pending before a thread's next instruction (R63, R86). -/
structure Hints where
  imm : Option (BitVec 25)
  mod : Option ModHint
  tan : Bool
  deriving DecidableEq, Repr
/-- One register write of one lane. -/
inductive RegWrite
  | g (n : Nat) (val : Word) (sh : List Word) (mask : Mask)
  | gSh (n k : Nat) (val : Word) (mask : Mask)      -- DSET: one shadow, and the mask
  | gShAll (n : Nat) (sh : List Word)               -- DSEED: the shadows alone
  | p (n : Nat) (val : Bool) (mask : Mask)
  | a (n : Nat) (r : AReg)
  deriving DecidableEq, Repr
/-- The thread part of a checkpoint (R110): head PC, region number, listed registers, draw count. -/
structure ThreadCkpt where
  pc : VAddr
  k : Nat
  g : List (Nat × GReg)
  p : List (Nat × PReg)
  a : List (Nat × AReg)
  draws : BitVec 34
  deriving DecidableEq, Repr
/-- A deferral: the PC that opened it and the instructions retired since (R156, R158). -/
structure Deferral where
  pc : VAddr
  count : Nat
  deriving DecidableEq, Repr
/-- A thread (R86), with what it waits for. -/
structure Thread where
  pc : VAddr
  g : List GReg
  p : List PReg
  a : List AReg
  draws : BitVec 34
  hints : Hints
  clkHi : Word
  retHi : Word
  exited : Bool
  defer : Option Deferral
  ckpt : Option ThreadCkpt
  /-- the operation the thread's current instruction waits for before it retires (ALDP, WAITCMP, BAR.ARRIVE) -/
  busy : Option Nat
  /-- acquiring operations whose value has not been written, and the time later accesses wait for (R422) -/
  acq : List Nat
  acqTime : Nat
  /-- stopped by the debugger; executing one instruction of a step; its step has ended (R464 to R467) -/
  stopped : Bool
  step : Bool
  stepDone : Bool
  /-- the first operation number after those that a waiting FENCE or release of small scope waits for (R424) -/
  fenceAt : Option Nat
  /-- its operation of a waiting XCP, XRED or XWALK has its channel (R302) -/
  granted : Bool
  /-- the tick since which the thread is parked in WAITCMP or ORDWAIT, and the ORDWAIT position (R379, R449) -/
  parked : Option Nat
  ordPos : Option Nat
  /-- a restored match of WAITCMP: the value and its visibility time (R458) -/
  matched : Option (Nat × Nat)
  /-- its BAR.WAIT has seen the phase it waits for (R174) -/
  barSeen : Bool
  /-- the barrier object of its waiting BAR.WAIT, and the phase bit that it waits to see gone (R174, R465) -/
  barWait : Option (Nat × Bool)
  deriving DecidableEq, Repr
/-- A load tag (R107). -/
inductive Tag
  | free
  | inflight (members time : Nat)
  | timed (time : Nat)
  deriving DecidableEq, Repr
/-- The register a scoreboard entry stands for. -/
inductive RegName | g (n : Nat) | p (n : Nat) | a (n : Nat)
  deriving DecidableEq, Repr
/-- A pending scoreboard entry and its producer PC (R104). -/
structure SbEntry where
  reg : RegName
  pc : VAddr
  deriving DecidableEq, Repr
/-- Where a pending write takes its value: known at issue, or read when the request arrives (R375, R377, R461). -/
inductive PendSrc
  | known
  | gain (idx : Nat)
  | resid (k : Nat)
  | sysreg (sel : Nat)
  deriving DecidableEq, Repr
/-- A write in flight (R105): producer PC, latency class end in clk (none: variable), the lanes' writes. -/
structure PendWrite where
  pc : VAddr
  due : Option Nat
  src : PendSrc
  writes : List (Nat × List RegWrite)
  /-- the number of the issue whose threads act in ascending lane order when the requests arrive; 0 for none (R368, R461) -/
  group : Nat
  deriving DecidableEq, Repr
/-- The collective arrival set (R100). -/
structure Arrival where
  pc : VAddr
  hints : Hints
  instr : Instr
  lanes : List Nat
  deriving DecidableEq, Repr

/-! ### The Matrix engine -/

/-- A tile register (R206): configuration word when configured, data, scale store, version, mask, shadow. -/
structure Tile where
  cfg : Option Word
  data : Memory
  scales : Memory
  ver : BitVec 16
  mask : Mask
  shData : Memory
  shScales : Memory
  /-- the TLD or TLDS whose bytes have not landed (R251) -/
  inflight : Option Nat
  deriving DecidableEq, Repr
/-- The address operands of a LOOP node, read from its registers at the append (R225, R257, R258). -/
structure LoopArgs where
  a : AReg
  b : AReg
  pwa : Word
  pwb : Word
  ainc : Int
  binc : Int
  steps : Nat
  kc : Nat
  mask : Mask
  deriving DecidableEq, Repr
/-- The ten node kinds with their flags (R214). -/
inductive NodeKind
  | mma (ov : IOvr) (bc ac : Bool)
  | loop (l : LoopArgs)
  | add (sub : Bool) (br : Bcast) (bc ac : Bool)
  | emul (br : Bcast) (bc ac : Bool)
  | scale (pcol bc ac : Bool)
  | scalePow (n : BitVec 6) (ac : Bool)
  | transpose
  | convert (r : Rnd) (ac : Bool)
  | act (fn : ActFn) (ac : Bool)
  | rsum (addto ac : Bool)
  | zero
  deriving DecidableEq, Repr
/-- A pending node (R215): destination and operands as (tile, version), the draws it reserved (R246: lane and first count
for each lane, empty when it does not round by SR). -/
structure Node where
  kind : NodeKind
  dst : Nat × BitVec 16
  ops : List (Nat × BitVec 16)
  slot : SlotNum
  dual : Bool
  origin : VAddr
  mask : Mask
  draws : List (BitVec 34)
  deriving DecidableEq, Repr
/-- A closure waiting for or under evaluation (R219, R220). `precise` is false for TEVAL (R234). -/
structure EvalReq where
  w : WarpId
  force : VAddr
  whole : Bool
  target : Option (Nat × BitVec 16)
  teval : Bool
  lanes : List Nat
  /-- when it was forced, and its warp slot: the order of R220 -/
  clk : Nat
  slot : Nat
  /-- the warp's pending graph when it was forced, from which the Jointer chooses its rewrites (R226; assumption 80) -/
  graph : List Node
  deriving DecidableEq, Repr

/-! ### The warp -/

/-- The warp part of a checkpoint (R110): tiles, tags, and in deterministic mode count, rotation word, digest partial. -/
structure WarpCkpt where
  tiles : List (Nat × Tile)
  tags : List (Nat × Tag)
  retired : BitVec 64
  sigma : Nat
  offset : Nat
  digest : BitVec 64
  /-- the operations before this number were issued before it: what they write still counts in its partial (R394) -/
  before : Nat
  deriving DecidableEq, Repr
/-- A warp (R88). -/
structure Warp where
  threads : List Thread
  tags : List Tag
  ld : Nat
  st : Nat
  xf : Nat
  tl : Nat
  sb : List SbEntry
  pend : List PendWrite
  arrival : Option Arrival
  retired : BitVec 64
  gwct : Nat
  /-- the visibility times of loads that have returned, by operation, until they have passed (R299, R424) -/
  seen : NatMap
  tiles : List Tile
  graph : List Node
  mxstat : BitVec 128
  digest : BitVec 64
  /-- warp slot of the core (R92) -/
  slot : Nat
  ckpt : Option WarpCkpt
  /-- instructions since outside progress (R391) -/
  stall : Nat
  /-- saved point of a restored warp: takes empty turns until it (R390) -/
  resumeAt : Option (Nat × Nat)
  deriving DecidableEq, Repr

/-! ### Workgroups, windows, placed units -/

/-- An error record of a barrier object (R312). -/
structure ErrRec where
  chunk : BitVec 32
  extent : BitVec 64
  kind : BitVec 8
  deriving DecidableEq, Repr
/-- A barrier object (R173, R312). -/
structure Barrier where
  ltime : BitVec 64
  time : BitVec 64
  bytes : BitVec 64
  count : BitVec 13
  pending : BitVec 13
  err : Bool
  phase : Bool
  curErr : ErrRec
  lastErr : ErrRec
  deriving DecidableEq, Repr
/-- Where an address stands: intermediate space, the host, a peer, the cluster scratchpad (R404), a virtual address that a
bound stash window serves (R407). -/
inductive Space | local | host | peer (n : Nat) | spad | stash
  deriving DecidableEq, Repr
/-- A loaded layout handle (R277, R305): the record, its resolved base, permissions and visibility time. -/
structure Handle where
  record : BitVec 512
  space : Space
  base : Nat
  r : Bool
  w : Bool
  vtime : Nat
  deriving DecidableEq, Repr
/-- A window register (R325, R349): virtual span, permissions, tangent stride, resolved base. -/
structure Window where
  used : Bool
  base : Nat
  length : Nat
  r : Bool
  w : Bool
  stride : Nat
  space : Space
  ibase : Nat
  /-- loaded from a declared range of the task (R452) -/
  range : Bool
  deriving DecidableEq, Repr
/-- A bound stash window (R452): memory span, scratchpad offset, where the span lies; filled lines by their number in
the span with V + 1, and dirty bytes by their offset in it. -/
structure Stash where
  vbase : Nat
  ibase : Nat
  length : Nat
  soff : Nat
  space : Space
  lines : NatMap
  dirty : NatMap
  /-- poisoned 8-byte units that its fills brought in, by their offset in the span (R495) -/
  poison : List Nat
  deriving DecidableEq, Repr
/-- A workgroup: its core, warps, barrier objects b0-b31 and handles l0-l15. -/
structure Workgroup where
  core : Nat
  warps : List Warp
  bars : List Barrier
  handles : List (Option Handle)
  deriving DecidableEq, Repr
/-- A region table entry (R53). -/
structure RegionEntry where
  g : BitVec 128
  p : BitVec 8
  a : BitVec 8
  m : BitVec 16
  tags : BitVec 8
  deriving DecidableEq, Repr
/-- What a launch fixes for its units: the kernel header (R52) and the launch record (R324). -/
structure LaunchCfg where
  entry : VAddr
  codesize : Nat
  gregs : Nat
  warps : Nat
  d : Nat
  tt : Nat
  tiles : Nat
  glimit : Nat
  preload : BitVec 7
  spad : Nat
  bars : Nat
  lhandles : Nat
  regions : List RegionEntry
  slots : List (BitVec 64)
  dual : Bool
  det : Nat
  quantum : Nat
  seed : BitVec 64
  priority : Nat
  mxtrap : Bool
  reassoc : Bool
  csize : Nat
  deriving DecidableEq, Repr
/-- The stage a placed unit is in. -/
inductive UnitState
  | running
  | stopping -- pre-empted: its stores complete, then it is saved (R360)
  | ended    -- a fault has stopped every thread; outstanding stores complete (R365)
  | saved    -- pre-empted, waiting for restore (R361)
  deriving DecidableEq, Repr
/-- A placed cluster of a grid launch or a task's workgroup. -/
structure Placed where
  id : Nat
  work : Nat
  idx : Nat
  ctx : Nat
  queue : Nat
  launchid : BitVec 64
  cfg : LaunchCfg
  wgs : List Workgroup
  windows : List Window
  /-- the argument span of a task: virtual base, limit, space, resolved base (R497) -/
  arg : Option (Nat × Nat × Space × Nat)
  /-- the instruction buffer: code bytes by offset from the entry (R479) -/
  code : Memory
  spad : Memory
  stash : List Stash
  pcl : Nat
  state : UnitState
  committed : Nat
  user : Word
  engDigest : BitVec 64
  jsubs : Nat
  /-- deterministic turn: number, instructions retired in it (R386) -/
  turn : Nat
  turnCount : Nat
  preemptReq : Bool
  saveSlot : Nat
  rerun : Bool
  /-- the fault that ended it, for PEER_FAULT and for the count of faults -/
  faulted : Bool
  swapped : Bool
  /-- the largest GWCT returned to it before its save (R425) -/
  gwct : Nat
  /-- the words fetched, by offset, of a kernel too large for the whole code to be loaded; none otherwise (R95, R479) -/
  fetched : Option (List Nat)
  /-- in deterministic mode, a stop or a step of the unit waits for the end of the turn (R468) -/
  stopAt : Bool
  stepTurn : Bool
  /-- the stop and step dumps to take once their workgroup has stopped: kind, workgroup, warp, STOPPC, code (R464, R466) -/
  dumps : List (Nat × Nat × Nat × VAddr × Nat)
  /-- restored in deterministic mode, and the compares of its parked threads are not all made: its first turn waits (R458) -/
  arming : Bool
  deriving DecidableEq, Repr

/-! ### Cores -/

/-- A bin or a bundle (R92). -/
structure Slot where
  unit : Nat
  wg : Nat
  pc : VAddr
  entries : List (Nat × Nat)     -- (warp, lane)
  filed : Nat                    -- clk of the oldest entry
  formed : Bool
  aged : Bool
  noFull : Bool                  -- a YIELD bin forms only by ageing (R155)
  issued : Option Nat            -- clk of the last issue
  ready : Nat                    -- the clk from which it may issue (R479)
  /-- the operand latch: register numbers, oldest first, each with the instructions that it still serves (R102) -/
  latch : List (Nat × Nat)
  deriving DecidableEq, Repr
/-- A thread that waits to be filed: until `due` (R479), and, once it has found no slot, in the filing queue (R94). `ready` is
the clk from which its bundle may issue (R479). -/
structure Filing where
  unit : Nat
  wg : Nat
  warp : Nat
  lane : Nat
  due : Nat
  noFull : Bool
  ready : Nat
  waiting : Bool
  deriving DecidableEq, Repr
/-- An issue port (R92, R96). -/
structure Port where
  slots : List (Option Slot)
  queue : List Filing
  ptr : Nat
  /-- 1 more than the clk in which the filing queue was last served (R94) -/
  served : Nat
  deriving DecidableEq, Repr
/-- An L1 block (R405): first byte, data, lease expiry E, visible time V; the policy it was filled under (R163), and the
stores not yet acked that have updated it (R412). -/
structure L1Block where
  base : Nat
  data : List Byte
  e : Nat
  v : Nat
  pol : Policy
  upd : List Nat
  deriving DecidableEq, Repr
/-- The stall sampler of one context on one core (R469): the clk at which it started, and that of its last sample. -/
structure Sampler where
  ctx : Nat
  t0 : Nat
  last : Nat
  slot : Nat
  lanes : NatMap
  deriving DecidableEq, Repr
/-- What a port issues: the threads, their PC, the clk of the issue, its added bank clks, and the clk after its last one (R101,
R103, R472). -/
structure Issued where
  port : Nat
  unit : Nat
  wg : Nat
  parts : List (Nat × List Nat)
  pc : VAddr
  clk : Nat
  bank : Nat
  until_ : Nat
  deriving DecidableEq, Repr
/-- A core: its ports, L1, copy of the lease clock (R26), evaluation queue (R220), samplers, last EXIT addresses. -/
structure Core where
  id : Nat
  ports : List Port
  l1 : List L1Block
  clock : Nat
  evalQ : List EvalReq
  evalCur : Option (EvalReq × List Node)
  samplers : List Sampler
  /-- the warp slot, PC and lowest lane of each slot's last EXIT (R472) -/
  lastExit : List (Nat × VAddr × Nat)
  /-- the issues that are not over, and those of this clk -/
  issues : List Issued
  deriving DecidableEq, Repr

/-! ### Operations in flight -/

/-- The stage of one part of an operation. -/
inductive PartSt
  | sent              -- travelling to its slice
  | held              -- a release that its slice holds, or a write behind one (R423)
  | armed (ovf : Bool)  -- a monitor (R427, R448)
  | done              -- served or applied
  | failed (code addr det1 : Nat)  -- memory-side fault (R356)
  deriving DecidableEq, Repr
/-- One lane's access to bytes of one 256-byte line. -/
structure Part where
  lane : Nat
  /-- 0 the primal, k + 1 tangent component k (R166) -/
  tang : Nat
  space : Space
  addr : Nat
  n : Nat
  /-- offset of these bytes in the lane's value -/
  off : Nat
  data : List Byte
  /-- bytes forwarded from the core's own pending stores; of a store, the bytes that are forwarded no longer, since an atomic of its
  core has gone after it (R406) -/
  fwd : NatMap
  st : PartSt
  time : Nat
  carried : Nat
  deriving DecidableEq, Repr
/-- What an operation does. -/
inductive OpKind
  | load (dst : Nat) (sz : Size) (dual : Bool)
  | lds (dst : Nat) (sz : Size) (dual : Bool)
  | store
  | sts
  | aldp (n : Nat) (b128 : Bool)
  | atom (dst : Nat) (op : AtomOp) (b64 dual : Bool)
  | cas (dst : Nat) (b64 : Bool)
  | waitcmp (dst : Nat) (c : WCond) (b64 : Bool) (vals : List (Nat × Nat))
  | tld (m : Nat)
  | tst
  | xlr (l : Nat)
  | loop (dst : Nat × BitVec 16)
  | arrive (b : Nat)
  /-- each lane with the bytes it expects -/
  | expect (b : Nat) (vals : List (Nat × Nat))
  /-- each lane, its card's address, and in deterministic mode 1 more than its job's identifier -/
  | jsub (queue ctx dst : Nat) (card : List (Nat × Nat × Nat))
  /-- the updates of a task of a job: each lane, its record and its value -/
  | gain (set : Bool) (work idx : Nat) (upd : List (Nat × Nat × Word))
  | resadd (work : Nat) (vals : List (Nat × Word))
  | ordpost (work : Nat) (ps : List (Nat × Nat))
  | sflush (vbases : List Nat) (unbind : Bool)
  | xread (pcl ch : Nat)
  | xfer (pcl ch chunk : Nat)
  | pref
  deriving DecidableEq, Repr
/-- An operation of one issue and one warp. -/
structure MemOp where
  id : Nat
  /-- the first operation of the same issue: the operations of its several warps share it -/
  group : Nat
  w : WarpId
  core : Nat
  pc : VAddr
  kind : OpKind
  lanes : List Nat
  parts : List Part
  tag : Option Nat
  mask : Mask
  pol : Policy
  scope : Scope
  acq : Bool
  rel : Bool
  cleared : Bool
  /-- the clearance's time (R423); of a load, the largest GWCT of the acked stores it was forwarded from (R406) -/
  tclear : Nat
  /-- the value has been written (loads) -/
  returned : Bool
  /-- stores whose acks it still waits for (R174, R406) -/
  waitSt : List Nat
  /-- the clk before which it does not complete (R105, R479) -/
  due : Nat
  deriving DecidableEq, Repr

/-! ### The Transfer engine -/

/-- What a channel runs (R309). -/
inductive XferKind
  | xcp (t : Xform)
  | xred (n : Nat)
  | xwalk (act : WalkAct) (i p : Nat)
  deriving DecidableEq, Repr
/-- An operation on a channel (R276, R285, R297). -/
structure Channel where
  pcl : Nat
  ch : Nat
  /-- its issue's number among the operations, and the threads it belongs to -/
  op : Nat
  w : WarpId
  lane : Nat
  pc : VAddr
  kind : XferKind
  dst : Nat
  srcs : List Nat
  bar : Nat
  chk : Bool
  mask : Mask
  /-- its handles are copied; its reads have begun (R309) -/
  copied : Bool
  started : Bool
  dstH : Option Handle
  srcH : List (Option Handle)
  /-- bytes to post, chunks in all, chunks committed, bytes posted -/
  total : Nat
  chunks : Nat
  written : Nat
  posted : Nat
  /-- the error it ends with: kind, extent, chunk -/
  err : Option (Nat × Nat × Nat)
  gwct : Nat
  /-- the largest time of its chunks that are acked and not posted (R292, R294, R311) -/
  late : Nat
  /-- the warps of its issue, whose `xf` falls with the issue's last operation (R302) -/
  warps : List Nat
  /-- the visibility time of its mask, once it has started, which its writes carry (R309, R418) -/
  vis : Nat
  deriving DecidableEq, Repr

/-! ### The Home engine -/

/-- A residency hold on a page (R354, R355): context, first intermediate byte, log2 size, pinned leaf, count, and whether an
invalidation of the page has completed since. -/
structure Hold where
  ctx : Nat
  ia : Nat
  log : Nat
  leaf : BitVec 64
  count : Nat
  stale : Bool
  deriving DecidableEq, Repr
/-- An imprecise fault on its way to its core (R358). -/
structure ImpFault where
  id : Nat
  /-- the issue of its operation, whose warps' records are posted together (R500) -/
  group : Nat
  w : WarpId
  pc : VAddr
  code : Nat
  det0 : BitVec 64
  det1 : BitVec 64
  lanes : List Nat
  /-- the address of each faulting lane (R357) -/
  vals : List (Nat × Nat)
  deriving DecidableEq, Repr
/-- The home slices, tiers and links (R408, R427, R495, R30). -/
structure Home where
  /-- physical memory, host memory, peer memories -/
  mem : Memory
  host : Memory
  peers : List (Nat × Memory)
  /-- physical addresses of poisoned 8-byte units -/
  poison : List Nat
  /-- 8-byte units that the host answers with poison, and those that a peer answers with an error completion (R356) -/
  hostPoison : List Nat
  peerErrs : List (Nat × Nat)
  /-- Emax by line (ia / 256), V by chunk (ia / 32) -/
  emax : NatMap
  vis : NatMap
  holds : List Hold
  /-- pages that were held and that no invalidation has reached: they translate by the leaf that was pinned (R353, R355) -/
  pins : List Hold
  /-- table entries that the slices cache: context, level, number of the slot, entry (R353) -/
  tlb : List (Nat × Nat × Nat × BitVec 64)
  /-- blocks (ia / 256) that the host holds in its cache, snoops sent, and answers (R30) -/
  hostLines : List Nat
  snooped : NatMap
  /-- HDM decoders: host base, length, intermediate base, context (R29) -/
  hdm : List (Nat × Nat × Nat × Nat)
  /-- host reads held back until their V: (host address, bytes, V) (R414), and those returned -/
  hdmReads : List (Nat × List Byte × Nat)
  hdmDone : List (Nat × List Byte × Bool)
  /-- requests to peers answered, and answers to peers -/
  peerDone : List (Nat × List Byte × Bool)
  /-- imprecise faults under way to their core (R358) -/
  faults : List ImpFault
  /-- writes of the engines' own records that wait for a page on the move: context, address, bytes (R409) -/
  late : List (Nat × Nat × List Byte)
  deriving DecidableEq, Repr

/-! ### The Task engine -/

/-- A packet accepted from a queue (R319, R320). -/
structure Packet where
  /-- its type and target; WAITPREV, and whether it has started (R319, R320) -/
  type : Nat
  target : Nat
  id : BitVec 64
  waitPrev : Bool
  started : Bool
  work : Option Nat
  /-- the launch record or job card at its TARGET, as it was read when the packet was accepted (R322) -/
  record : BitVec 2048
  sigaddr : Nat
  sigval : BitVec 64
  irq : Bool
  deriving DecidableEq, Repr
/-- A queue's register block (R317) and its accepted packets. -/
structure Queue where
  fring : BitVec 64
  tail : Word
  head : Word
  ctx : BitVec 8
  halted : Bool
  enable : Bool
  size : BitVec 5
  rbase : BitVec 52
  host : Bool
  seq : Nat
  packets : List Packet
  deriving DecidableEq, Repr
/-- A context's register block (R347). -/
structure Ctx where
  save : BitVec 52
  slots : BitVec 12
  mapbase : BitVec 52
  mapcnt : BitVec 7
  ptroot : BitVec 52
  ivbase : BitVec 45
  ivlog : BitVec 6
  invbusy : Bool
  /-- the ranges of the INVALs that are not done: IVBASE, IVLOG (R353) -/
  invs : List (BitVec 45 × BitVec 6)
  failed : Bool
  preempted : Bool
  held : Bool
  deriving DecidableEq, Repr
/-- A position's stage in a launch or job. -/
inductive PosState
  | waiting            -- not yet placed, or its residency request waits
  | holding            -- residency held, not yet placed
  | placed
  | rerun              -- its digest differed; it waits to run again alone (R397)
  /-- retired, not yet published: its unit's number, whether it faulted, its digest, whether it was a second run, the largest GWCT
  returned to it (R332, R394, R426) -/
  | finished (unit : Nat) (faulted : Bool) (digest : Nat) (again : Bool) (gwct : Nat)
  | published (faulted : Bool)
  deriving DecidableEq, Repr
/-- A record of a GAIN job at its Sett (R341 to R343). -/
structure GainRec where
  gain : Word
  runs : Word
  home : Nat
  running : Bool
  rearm : Option Word
  buffer : List (Bool × Word)
  deriving DecidableEq, Repr
/-- The job card's parameters (R333). -/
structure JobCfg where
  card : Nat
  gainMode : Bool
  count : Nat
  recbase : Nat
  recsize : Nat
  goff : Nat
  minchunk : Nat
  maxcl : Nat
  tol : Nat
  deriving DecidableEq, Repr
/-- A residency request: of the launch's windows or of a task's ranges; the pages held so far, the missing page whose notice
has been posted, and whether it waits for RETRY (R354). -/
structure Req where
  who : Option Nat
  held : List Nat
  posted : Option Nat
  waiting : Bool
  deriving DecidableEq, Repr
/-- A launch or a job under way. -/
structure Work where
  id : Nat
  launchid : BitVec 64
  queue : Nat
  ctx : Nat
  cfg : LaunchCfg
  grid : Nat × Nat × Nat
  /-- its launch record, from which windows w0-w7 are loaded at every placement (R349), and the windows as they were resolved
  when it started -/
  record : Nat
  windows : List Window
  winResident : Bool
  pos : List PosState
  job : Option JobCfg
  gains : List GainRec
  resid : Int
  sat : Bool
  nan : Bool
  faults : Nat
  stopped : Nat
  dealt : Nat
  deques : List (Nat × List Nat)
  chainC : Nat
  chainT : Nat
  waveA : Option Nat
  wave : Nat
  reqs : List Req
  child : Bool
  finished : Bool
  /-- the largest GWCT returned to its retired units (R320) -/
  gwct : Nat
  /-- a job's end: 1 once gains and result fields are written, 2 once STOP is; the lowest address whose write failed, with
  its cause (R346, R373) -/
  ending : Nat
  lost : Option (Nat × Nat)
  deriving DecidableEq, Repr

/-! ### The Watch engine -/

/-- A command breakpoint (R462). -/
structure CmdBp where
  hit : Bool
  en : Bool
  mentry : Bool
  mqueue : Bool
  queue : BitVec 5
  entry : VAddr
  deriving DecidableEq, Repr
/-- A record given a ring place and not yet written (R473). -/
structure RingRec where
  ctx : Nat
  trace : Bool
  place : Nat
  data : BitVec 256
  /-- 1 more than the GWCT of its write once it has been written; 0 before -/
  written : Nat
  deriving DecidableEq, Repr
/-- A fault record before it is posted: R366 without TIME, SEQ and DUMP. -/
structure Record where
  code : Nat
  precise : Bool
  pc : VAddr
  lanes : List Nat
  warp : Nat
  wgic : Nat
  idx : Nat
  launchid : BitVec 64
  user : Word
  det0 : BitVec 64
  det1 : BitVec 64
  deriving DecidableEq, Repr
/-- One entry of a dump: the record to post when it is a fault's, the warp and the lanes to capture, the value of each faulting
lane (R161, R357, R498) and the bytes captured, by offset in the slot, with the workgroup's barrier objects (R173, R470). -/
structure Capture where
  queue : Nat
  record : Option Record
  w : WarpId
  lanes : List Nat
  vals : List (Nat × Nat)
  bars : List Barrier
  image : List (Nat × List Byte)
  deriving DecidableEq, Repr
/-- A dump being written or waiting (R470, R477, R478). -/
structure Dump where
  ctx : Nat
  kind : Nat
  launchid : BitVec 64
  idx : Nat
  stoppc : VAddr
  bkcode : BitVec 10
  wgic : Nat
  entries : List Capture
  overflow : Nat
  time : Nat
  started : Bool
  deriving DecidableEq, Repr
/-- A trace record made by a source, a core's number or 768 for the Task engine, and not yet given a place (R475). -/
structure TraceRec where
  src : Nat
  ctx : Nat
  data : BitVec 256
  deriving DecidableEq, Repr
/-- The Watch engine (R460 to R478). -/
structure Watch where
  /-- the 32 words of each context's watch block that are not 0: key 32 × context + selector -/
  words : NatMap
  bps : List CmdBp
  feHalted : Bool
  feBp : BitVec 3
  feQueue : BitVec 5
  /-- the JSUB operation whose job the breakpoint holds; none when it holds a packet -/
  feOp : Option Nat
  /-- the held packet has been let through without a new comparison (R463) -/
  fePass : Bool
  dslots : BitVec 12
  dbase : BitVec 52
  dhead : Word
  dtail : Word
  ddrop : Word
  dump : Option Dump
  dumpQ : List Dump
  rings : List RingRec
  /-- places given so far: samples and traces of each context -/
  places : NatMap
  /-- trace records a source has made and the ring has not yet taken (R475) -/
  made : List TraceRec
  deriving DecidableEq, Repr

/-! ### The management controller -/

/-- A hash algorithm of the attestation messages (R493). -/
inductive HashAlg | sha3_256
  deriving DecidableEq, Repr
/-- A signature algorithm of the attestation messages (R493). -/
inductive SignAlg | mlDsa44
  deriving DecidableEq, Repr

/-- A firmware slot (R489, R490). -/
structure FwSlot where
  image : Memory
  verified : Bool
  deriving DecidableEq, Repr
/-- What an attestation response tells, whatever the bytes of its message (R493): the version spoken, whether secure sessions are
supported, the base hashes and the algorithms of the extended asymmetric field offered, and the measurement blocks, how many
there are and the value of each one answered. -/
inductive SpdmAnswer
  | version (major minor : Nat)
  | capabilities (session : Bool)
  | algorithms (baseHash : List HashAlg) (extAsym : List SignAlg)
  | digests
  | certificate
  | challenge
  | measurements (total : Nat) (blocks : List (Nat × List Byte))
  | unsupportedRequest
  deriving DecidableEq, Repr
/-- A response of the controller (R484): how it is carried, its 8-byte header, which an attestation message has not, and its
payload; of an attestation message what it tells. -/
structure MgmtResp where
  iface : MgmtIf
  vendor : BitVec 16
  type : BitVec 8
  header : BitVec 64
  payload : List Byte
  spdm : Option SpdmAnswer
  deriving DecidableEq, Repr
/-- The Aediq management controller (R482 to R494): the fields of STATUS, the two slots and the interface whose update is open,
the counters of R494, the log ring oldest first, the payload that SENSORS answers, and the responses given. -/
structure Amc where
  enmask : BitVec 16
  fwver : Word
  reason : BitVec 8
  mode : BitVec 2
  fails : BitVec 2
  pending : Bool
  slot : Bool
  slots : List FwSlot
  update : Option MgmtIf
  counters : List Word
  log : List (BitVec 512)
  sensors : List Byte
  responses : List MgmtResp
  deriving DecidableEq, Repr

/-! ### The whole device -/

/-- The threads that issue together: a placed unit, a workgroup, and for each warp its lanes in ascending order. -/
structure Issue where
  unit : Nat
  wg : Nat
  parts : List (Nat × List Nat)
  deriving DecidableEq, Repr
/-- Who moves next. -/
inductive Move
  | event (i : Instr)
  /-- one clk of the arithmetic clock passes (R12, R105; assumption 7) -/
  | clk
  | issue (core port : Nat)
  /-- the owner of a unit's deterministic turn (R387) -/
  | turn (unit : Nat)
  /-- a lane that the debugger steps (R466) -/
  | lane (w : WarpId) (l : Nat)
  deriving DecidableEq, Repr
/-- The state of the device. -/
structure State where
  agenda : List Move
  issue : Issue
  /-- the lease clock; the arithmetic clock; the ninths of a tick that clks have passed beyond the lease clock -/
  tick : Nat
  clk : Nat
  phase : Nat
  /-- how far the copies of the other engines stand behind the lease clock, by engine (R26; `Engine.key`) -/
  lags : NatMap
  nextId : Nat
  units : List Placed
  /-- units that have retired and whose cores nothing has taken since: what their registers and scratchpad were left with
  (R154, R481) -/
  left : List Placed
  cores : List Core
  ops : List MemOp
  channels : List Channel
  home : Home
  queues : List Queue
  ctxs : List Ctx
  works : List Work
  nextLaunch : BitVec 64
  lastPcl : Option Nat
  /-- for each priority, 1 more than the queue whose cluster placed last (R331) -/
  turns : NatMap
  /-- the queue at which the front end's pass goes on (R318) -/
  pass : Nat
  watch : Watch
  amc : Amc
  /-- MSI-X vectors raised, latest first (R320, R366) -/
  irqs : List Nat
  /-- the model's own counter behind fresh free values -/
  freeCtr : Nat
  deriving DecidableEq, Repr

/-- Why the machine stops. -/
inductive Fault
  /-- never raised by a meaning: kept because the interface asks for a type; every fault of R367 is a next state. -/
  | none
  deriving DecidableEq, Repr
/-- Why a meaning is refused. -/
inductive Refusal
  /-- an instruction that has no meaning yet, by its mnemonic (raised only in Dispatch; safe). -/
  | notModelled (mnemonic : String)
  deriving DecidableEq, Repr

/-! ### The state after module reset -/

/-- A queue after reset: every field 0 (R317). -/
def Queue.reset : Queue := ⟨0, 0, 0, 0, false, false, 0, 0, false, 0, []⟩
/-- A context after reset: every field 0 (R347). -/
def Ctx.reset : Ctx := ⟨0, 0, 0, 0, 0, 0, 0, false, [], false, false, false⟩
/-- A command breakpoint after reset (R462). -/
def CmdBp.reset : CmdBp := ⟨false, false, false, false, 0, 0⟩
/-- The Home engine after reset: nothing listed. -/
def Home.reset : Home := ⟨[], [], [], [], [], [], [], [], [], [], [], [], [], [], [], [], [], [], []⟩
/-- The Watch engine after reset (R460, R462). -/
def Watch.reset : Watch :=
  ⟨[], List.replicate 8 CmdBp.reset, false, 0, 0, none, false, 0, 0, 0, 0, 0, none, [], [], [], []⟩
/-- The controller after reset: starting (MODE 0), REASON, FAILS and PENDING 0 (R482); ENMASK, FWVER, the running slot and what
the slots hold have no reset value (assumption 6), and no sensor has been read (assumption 46). -/
def Amc.reset : Amc :=
  ⟨0xFFFF, 0, 0, 0, 0, false, false, [⟨[], false⟩, ⟨[], false⟩], none, List.replicate 7 0, [], List.replicate 40 0, []⟩
/-- The device right after reset: no packet read, nothing placed, the lease clock 0 (R25), the launch counter 1 (R327). -/
def State.reset : State where
  agenda := []
  issue := ⟨0, 0, []⟩
  tick := 0
  clk := 0
  phase := 0
  lags := []
  nextId := 1
  units := []
  left := []
  cores := []
  ops := []
  channels := []
  home := Home.reset
  queues := List.replicate 32 Queue.reset
  ctxs := List.replicate 256 Ctx.reset
  works := []
  nextLaunch := 1
  lastPcl := none
  turns := []
  pass := 0
  watch := Watch.reset
  amc := Amc.reset
  irqs := []
  freeCtr := 0

end Sys2Proof.Machine
end

