-- ==== Sys2Proof/Machine/Ops.lean ====
section
/-! DEFINITION. The named operations over memory, registers and the device's records: bytes, translation, the home slice's
reads and writes with their times, condition monitors, trace and dump captures, fault records, and taking a fault. -/

namespace Sys2Proof.Machine

/-! ### Bytes, lists and sparse maps -/

/-- The little-endian value of bytes (R3). -/
def bytesNat : List Byte → Nat
  | [] => 0
  | b :: bs => b.toNat + 256 * bytesNat bs
/-- The lowest `n` bytes of a value, little-endian (R3). -/
def natBytes : Nat → Nat → List Byte
  | 0, _ => []
  | n + 1, v => BitVec.ofNat 8 v :: natBytes n (v / 256)
/-- Bits `lo + n - 1` to `lo` of a value. -/
def bitsOf (v lo n : Nat) : Nat := v / 2 ^ lo % 2 ^ n
/-- One bit of a value. -/
def bitOf (v i : Nat) : Bool := v / 2 ^ i % 2 == 1
/-- Changes the element at a place, if there is one. -/
def modAt {α : Type} : List α → Nat → (α → α) → List α
  | [], _, _ => []
  | x :: xs, 0, f => f x :: xs
  | x :: xs, n + 1, f => x :: modAt xs n f
/-- The bit mask of a list of small numbers. -/
def maskOf (xs : List Nat) : Nat := xs.foldl (fun m x => if bitOf m x then m else m + 2 ^ x) 0
/-- The largest of a list of times; 0 for none. -/
def maxOf (xs : List Nat) : Nat := xs.foldl max 0
/-- Insertion by a key, after those of the same key. -/
def insertKey {α : Type} (k : α → Nat) (x : α) : List α → List α
  | [] => [x]
  | y :: ys => if k x < k y then x :: y :: ys else y :: insertKey k x ys
def sortKey {α : Type} (k : α → Nat) (xs : List α) : List α := xs.foldl (fun ys x => insertKey k x ys) []
/-- Sum of numbers. -/
def sumOf (xs : List Nat) : Nat := xs.foldl (· + ·) 0

/-- Reads a byte; an unlisted address reads as 0 (assumption 1). -/
def memGet : Memory → Nat → Byte
  | [], _ => 0
  | (b, w) :: t, a => if a = b then w else if a < b then 0 else memGet t a
/-- Writes a byte and keeps the canonical form. -/
def memSet : Memory → Nat → Byte → Memory
  | [], a, v => if v = 0 then [] else [(a, v)]
  | (b, w) :: t, a, v =>
    if a < b then (if v = 0 then (b, w) :: t else (a, v) :: (b, w) :: t)
    else if a = b then (if v = 0 then t else (a, v) :: t)
    else (b, w) :: memSet t a v
/-- Reads `n` bytes upward from an address. -/
def memRead (m : Memory) (a : Nat) : Nat → List Byte
  | 0 => []
  | n + 1 => memGet m a :: memRead m (a + 1) n
/-- Writes bytes upward from an address. -/
def memWrite (m : Memory) (a : Nat) : List Byte → Memory
  | [] => m
  | b :: bs => memWrite (memSet m a b) (a + 1) bs
/-- The canonical form of memory: addresses strictly rising, no entry 0. -/
abbrev Memory.wf (m : Memory) : Prop := m.Pairwise (fun x y => x.1 < y.1) ∧ ∀ c ∈ m, c.2 ≠ 0

/-- Reads a sparse map; an unlisted key reads as 0. -/
def natGet : NatMap → Nat → Nat
  | [], _ => 0
  | (b, w) :: t, a => if a = b then w else if a < b then 0 else natGet t a
/-- Writes a sparse map and keeps its canonical form. -/
def natSet : NatMap → Nat → Nat → NatMap
  | [], a, v => if v = 0 then [] else [(a, v)]
  | (b, w) :: t, a, v =>
    if a < b then (if v = 0 then (b, w) :: t else (a, v) :: (b, w) :: t)
    else if a = b then (if v = 0 then t else (a, v) :: t)
    else (b, w) :: natSet t a v
/-- Whether two byte spans overlap. -/
def overlaps (a n b m : Nat) : Bool := a < b + m && b < a + n
/-- Whether a span lies within another. -/
def within (a n b m : Nat) : Bool := b ≤ a && a + n ≤ b + m

/-! ### Units, workgroups, warps, threads, cores -/

def State.unit? (s : State) (id : Nat) : Option Placed := s.units.find? (·.id == id)
def State.modUnit (s : State) (id : Nat) (f : Placed → Placed) : State :=
  { s with units := s.units.map fun u => if u.id == id then f u else u }
def State.wg? (s : State) (id wg : Nat) : Option Workgroup := (s.unit? id).bind fun u => u.wgs[wg]?
def State.modWg (s : State) (id wg : Nat) (f : Workgroup → Workgroup) : State :=
  s.modUnit id fun u => { u with wgs := modAt u.wgs wg f }
def State.warp? (s : State) (w : WarpId) : Option Warp := (s.wg? w.unit w.wg).bind fun g => g.warps[w.warp]?
def State.modWarp (s : State) (w : WarpId) (f : Warp → Warp) : State :=
  s.modWg w.unit w.wg fun g => { g with warps := modAt g.warps w.warp f }
def State.thread? (s : State) (w : WarpId) (lane : Nat) : Option Thread := (s.warp? w).bind fun x => x.threads[lane]?
def State.modThread (s : State) (w : WarpId) (lane : Nat) (f : Thread → Thread) : State :=
  s.modWarp w fun x => { x with threads := modAt x.threads lane f }
/-- A core that has held nothing yet: two ports of 64 empty slots, each pointer at its lowest warp slot, an empty L1 (R12, R92,
R479). -/
def Core.fresh (id clock : Nat) : Core :=
  ⟨id, [⟨List.replicate 64 none, [], 0, 0⟩, ⟨List.replicate 64 none, [], 1, 0⟩], [], clock, [], none, [], [], []⟩
def State.core (s : State) (id : Nat) : Core := (s.cores.find? (·.id == id)).getD (Core.fresh id s.tick)
def State.modCore (s : State) (id : Nat) (f : Core → Core) : State :=
  if s.cores.any (·.id == id) then { s with cores := s.cores.map fun c => if c.id == id then f c else c }
  else { s with cores := s.cores ++ [f (Core.fresh id s.tick)] }
/-- The owner of a unit's turn (R385). -/
def Placed.owner (u : Placed) : WarpId :=
  let n := max 1 u.cfg.warps
  let k := u.turn % max 1 (n * u.wgs.length)
  ⟨u.id, k / n, k % n⟩
/-- Whether a warp of a running unit may retire something now: outside deterministic mode, or as the owner of its unit's turn (R385),
which for a restored unit begins once its parked threads have compared again (R458). -/
def State.mayRetire (s : State) (w : WarpId) : Bool :=
  match s.unit? w.unit with
  | some u => u.state == .running && (u.cfg.det == 0 || (!u.arming && u.owner == w && u.turnCount < u.cfg.quantum &&
      (((u.wgs[w.wg]?).bind fun g => g.warps[w.warp]?).map (·.resumeAt.isNone)).getD false))
  | none => false
/-- The core of a warp's workgroup. -/
def State.coreOf (s : State) (w : WarpId) : Nat := ((s.wg? w.unit w.wg).map (·.core)).getD 0
/-- A core's copy of the lease clock (R26). -/
def State.now (s : State) (core : Nat) : Nat := (s.core core).clock
/-- The engines beside the cores that keep a copy of the lease clock (R26). -/
inductive Engine | task | watch | transfer (pcl : Nat) | slice (ia : Nat)
  deriving DecidableEq, Repr
/-- The key of an engine among `State.lags`; a slice is that of an intermediate address (R496). -/
def Engine.key : Engine → Nat
  | .task => 0 | .watch => 1 | .transfer pcl => 2 * pcl + 2 | .slice ia => 2 * Config.sliceOf (ia / 1024) + 3
/-- An engine's copy of the lease clock. -/
def State.clockOf (s : State) (e : Engine) : Nat := s.tick - natGet s.lags e.key
def State.op? (s : State) (id : Nat) : Option MemOp := s.ops.find? (·.id == id)
def State.modOp (s : State) (id : Nat) (f : MemOp → MemOp) : State :=
  { s with ops := s.ops.map fun o => if o.id == id then f o else o }
def State.dropOp (s : State) (id : Nat) : State := { s with ops := s.ops.filter (·.id != id) }
def State.work? (s : State) (id : Nat) : Option Work := s.works.find? (·.id == id)
def State.modWork (s : State) (id : Nat) (f : Work → Work) : State :=
  { s with works := s.works.map fun w => if w.id == id then f w else w }
def State.modQueue (s : State) (q : Nat) (f : Queue → Queue) : State := { s with queues := modAt s.queues q f }
def State.modCtx (s : State) (c : Nat) (f : Ctx → Ctx) : State := { s with ctxs := modAt s.ctxs c f }
def State.queue (s : State) (q : Nat) : Queue := (s.queues[q]?).getD Queue.reset
def State.ctx (s : State) (c : Nat) : Ctx := (s.ctxs[c]?).getD Ctx.reset
/-- Live lanes of a warp: those that have not exited (R100). -/
def Warp.live (w : Warp) : List Nat :=
  (List.range w.threads.length).filter fun l => ((w.threads[l]?).map (!·.exited)).getD false
/-- Every warp of the device, with its name. -/
def State.warps (s : State) : List (WarpId × Warp) :=
  s.units.flatMap fun u => (u.wgs.zipIdx).flatMap fun (g, gi) => (g.warps.zipIdx).map fun (w, wi) => (⟨u.id, gi, wi⟩, w)
/-- Joins a returned GWCT into the warp's latest (R171, R425). -/
def State.joinGwct (s : State) (w : WarpId) (t : Nat) : State :=
  s.modWarp w fun x => { x with gwct := max x.gwct t }
/-- A write, clearance, phase completion, post, gain update or publication by a party returns the stall count of every
other warp to 0 (R391). -/
def State.progress (s : State) (party : Option WarpId) : State :=
  { s with units := s.units.map fun u => { u with wgs := (u.wgs.zipIdx).map fun (g, gi) =>
      { g with warps := (g.warps.zipIdx).map fun (w, wi) =>
        if party == some ⟨u.id, gi, wi⟩ then w else { w with stall := 0 } } } }
/-- Raises an MSI-X vector (R320, R366). -/
def State.irq (s : State) (v : Nat) : State := { s with irqs := v :: s.irqs }

/-! ### Physical memory and translation -/

/-- The lowest poisoned 8-byte unit of a physical span (R357, R495). -/
def poisonedIn (h : Home) (pa n : Nat) : Option Nat :=
  match h.poison.filter fun u => overlaps u 8 pa n with
  | [] => none
  | u :: us => some (us.foldl min u)
/-- Writes physical bytes: a unit written whole loses its poison, a unit written in part keeps it and its bytes; the first
address not written is reported (R495). -/
def writePhys (h : Home) (pa : Nat) (bs : List Byte) : Home × Option Nat :=
  let n := bs.length
  let stuck (a : Nat) : Bool := h.poison.any fun u => overlaps u 8 a 1 && !within u 8 pa n
  let mem := (bs.zipIdx).foldl (fun m (b, i) => if stuck (pa + i) then m else memSet m (pa + i) b) h.mem
  ({ h with mem := mem, poison := h.poison.filter fun u => !within u 8 pa n },
   ((List.range n).find? fun i => stuck (pa + i)).map (pa + ·))
/-- The number of trailing one bits, up to 20. -/
def trailingOnes : Nat → Nat → Nat
  | 0, _ => 0
  | k + 1, v => if v % 2 = 1 then 1 + trailingOnes k (v / 2) else 0
/-- A page reached by a walk: its leaf, log2 of its size, its frame. -/
structure Page where
  leaf : Nat
  log : Nat
  frame : Nat
  deriving DecidableEq, Repr
/-- What a walk meets (R350 to R356). -/
inductive Walk
  | page (p : Page)
  | missing
  | invalid (level : Nat)
  | poisoned (pa : Nat)
  deriving DecidableEq, Repr
/-- The page of a leaf entry at a level, by the bounds of R352. -/
def leafPage (level e : Nat) : Option Page :=
  let a := bitsOf e 12 41
  let n := trailingOnes 21 a
  if bitsOf e 55 7 != 0 || bitsOf e 2 10 != 0 || level > 2 then none
  else if 9 * level ≤ n && n ≤ min 20 (9 * level + 8) then
    some ⟨e, 12 + n, (a / 2 / 2 ^ n * 2 ^ n) * 4096⟩
  else none
/-- The number of the slot that an intermediate address has at a level. -/
def slotNo (level ia : Nat) : Nat := ia / 2 ^ (12 + 9 * level)
/-- A table entry as a slice reads it: from its cache when it holds the entry and uses it, which shows where the table has changed since;
else from memory; none where the memory is poisoned (R353, R495). -/
def State.entryAt (s : State) (ctx level ia pa : Nat) : Option Nat :=
  let k := slotNo level ia
  let fresh := if (poisonedIn s.home pa 8).isSome then none else some (bytesNat (memRead s.home.mem pa 8))
  match s.home.tlb.find? fun (c, l, n, _) => c == ctx && l == level && n == k with
  | some (_, _, _, e) =>
    if fresh == some e.toNat then fresh else if Config.usesCached s.tick ctx level k then some e.toNat else fresh
  | none => fresh
/-- Walks `k` levels of tables from one at a physical address (R350 to R352): what it meets, and the entries it reads. -/
def State.walkFrom (s : State) (ctx ia : Nat) : Nat → Nat → Walk × List (Nat × Nat)
  | 0, _ => (.invalid 0, [])
  | level + 1, table =>
    let pa := table + 8 * bitsOf ia (12 + 9 * level) 9
    match s.entryAt ctx level ia pa with
    | none => (.poisoned pa, [])
    | some e =>
      if !bitOf e 63 then (.missing, [])
      else if bitOf e 62 then
        match leafPage level e with
        | some p => (.page p, [(level, e)])
        | none => (.invalid level, [])
      else if bitsOf e 52 10 != 0 || bitsOf e 0 12 != 0 || level = 0 then (.invalid level, [])
      else
        let r := s.walkFrom ctx ia level (bitsOf e 12 40 * 4096)
        (r.1, (level, e) :: r.2)
/-- The page of a cached leaf. -/
def cachedPage (leaf : BitVec 64) : Page :=
  let a := bitsOf leaf.toNat 12 41
  let n := trailingOnes 21 a
  ⟨leaf.toNat, 12 + n, (a / 2 / 2 ^ n * 2 ^ n) * 4096⟩
/-- The walk of a context from its top table. -/
def State.walk (s : State) (ctx ia : Nat) : Walk := (s.walkFrom ctx ia 5 ((s.ctx ctx).ptroot.toNat * 4096)).1
/-- An entry kept in the slices' caches, unless one of its slot is there. -/
def Home.keepEntry (h : Home) (ctx level k e : Nat) : Home :=
  if h.tlb.any fun (c, l, n, _) => c == ctx && l == level && n == k then h
  else { h with tlb := (ctx, level, k, BitVec.ofNat 64 e) :: h.tlb }
/-- Whether a hold is on the page of an intermediate address. -/
def Hold.covers (h : Hold) (ctx ia : Nat) : Bool := h.ctx == ctx && h.ia ≤ ia && ia < h.ia + 2 ^ h.log
/-- The hold on the page of an intermediate address (R355). -/
def State.holdOf (s : State) (ctx ia : Nat) : Option Hold :=
  s.home.holds.find? fun h => h.covers ctx ia && h.count > 0
/-- The leaf by which a slice translates a page, whatever the tables say: that of its hold, or of its last one while no invalidation
has covered the page since it was taken (R353, R355). -/
def State.pinOf (s : State) (ctx ia : Nat) : Option Hold :=
  (s.holdOf ctx ia).or (s.home.pins.find? (·.covers ctx ia))
/-- A translated access, a wait for a migration, or a memory-side fault: code, address, detail (R356, R357). -/
inductive Trans
  | ok (pa : Nat)
  | busy
  | bad (code addr det1 : Nat)
  deriving DecidableEq, Repr
/-- The physical address of a byte of a leaf's page. -/
def pageAddr (p : Page) (ia : Nat) : Nat := p.frame + ia % 2 ^ p.log
/-- Checks a page's permissions for an access (R356). -/
def permOk (leaf : Nat) (write : Bool) : Bool := if write then bitOf leaf 1 else bitOf leaf 0
/-- The entries of a walk that has reached a page stay in the slices' caches (R353). -/
def State.cacheWalk (s : State) (ctx ia : Nat) : State :=
  if (s.pinOf ctx ia).isSome then s
  else match s.walkFrom ctx ia 5 ((s.ctx ctx).ptroot.toNat * 4096) with
    | (.page _, es) => { s with home := es.foldl (fun h (level, e) => h.keepEntry ctx level (slotNo level ia) e) s.home }
    | _ => s
/-- Translates an intermediate address for an access: a pinned page by its leaf, another by a walk (R350, R355). -/
def State.translate (s : State) (ctx ia : Nat) (write : Bool) : Trans :=
  match s.pinOf ctx ia with
  | some h =>
    if permOk h.leaf.toNat write then .ok (pageAddr (cachedPage h.leaf) ia)
    else .bad 0x10 ia (if write then 1 else 0)
  | none =>
    match s.walk ctx ia with
    | .page p =>
      if bitOf p.leaf 54 then .busy
      else if permOk p.leaf write then .ok (pageAddr p ia)
      else .bad 0x10 ia (if write then 1 else 0)
    | .missing => .bad 0x12 ia 0
    | .invalid l => .bad 0x12 ia l
    | .poisoned _ => .bad 0x11 ia 0

/-! ### The home slice: reads, writes and times (R404 to R416) -/

/-- A read: its bytes, a wait, or a memory-side fault. -/
inductive ReadRes
  | ok (bs : List Byte)
  | busy
  | bad (code addr det1 : Nat)
  deriving DecidableEq, Repr
/-- Reads bytes of one page at their home slice (R495). -/
def State.readLocal (s : State) (ctx ia n : Nat) : ReadRes :=
  match s.translate ctx ia false with
  | .ok pa =>
    match poisonedIn s.home pa n with
    | some u => .bad 0x11 (ia + (u - pa)) 0
    | none => .ok (memRead s.home.mem pa n)
  | .busy => .busy
  | .bad c a d => .bad c a d
/-- The memory of a peer. -/
def peerMem (h : Home) (n : Nat) : Memory := ((h.peers.find? (·.1 == n)).map (·.2)).getD []
def setPeer (h : Home) (n : Nat) (m : Memory) : Home :=
  { h with peers := (n, m) :: h.peers.filter (·.1 != n) }
/-- Splits a span at multiples of a power of two: pieces of (address, length). -/
def splitAt (k : Nat) : Nat → Nat → Nat → List (Nat × Nat)
  | 0, _, _ => []
  | fuel + 1, a, n =>
    if n = 0 then []
    else
      let m := min n (k - a % k)
      (a, m) :: splitAt k fuel (a + m) (n - m)
/-- Pieces of a span within 256-byte lines. -/
def lineParts (a n : Nat) : List (Nat × Nat) := splitAt 256 (n / 256 + 2) a n
/-- Reads a span piece by piece; the first piece that faults decides. The host may answer with poison, a peer with an error
(R356). -/
def State.readSpan (s : State) (ctx : Nat) (sp : Space) (a n : Nat) : ReadRes :=
  match sp with
  | .host => match s.home.hostPoison.filter fun u => overlaps u 8 a n with
    | u :: us => .bad 0x11 (max (us.foldl min u) a) 0
    | [] => .ok (memRead s.home.host a n)
  | .peer p => match s.home.peerErrs.filter fun (k, u) => k == p && overlaps u 8 a n with
    | u :: us => .bad 0x11 (max (us.foldl (fun m x => min m x.2) u.2) a) 0
    | [] => .ok (memRead (peerMem s.home p) a n)
  | _ => (lineParts a n).foldl (fun r (pa, pn) =>
      match r with
      | .ok bs => match s.readLocal ctx pa pn with
        | .ok cs => .ok (bs ++ cs)
        | x => x
      | x => x) (.ok [])
/-- The entries by which a local span was translated stay in the slices' caches (R353). -/
def State.cacheSpan (s : State) (ctx : Nat) (sp : Space) (a n : Nat) : State :=
  if sp == .local then (lineParts a n).foldl (fun s (x, _) => s.cacheWalk ctx x) s else s
/-- Chunk numbers of a span. -/
def chunksOf (ia n : Nat) : List Nat :=
  (List.range ((ia + n - 1) / 32 - ia / 32 + 1)).map (ia / 32 + ·)
/-- The largest V of the chunks of a span (R408). -/
def visOf (h : Home) (ia n : Nat) : Nat := maxOf ((chunksOf ia n).map (natGet h.vis))
/-- The GWCT of a write at its slice (R411). -/
def gwctOf (h : Home) (now ia n carried tclear : Nat) : Nat :=
  max (max (max now (natGet h.emax (ia / 256))) (visOf h ia n)) (max carried tclear) + 4
/-- A WAITCMP comparison, unsigned (R445). -/
def wcondHolds (c : WCond) (m g : Nat) : Bool :=
  match c with
  | .eq => m == g | .ne => m != g | .ge => m ≥ g | .lt => m < g
/-- The value a lane of a WAITCMP compares with. -/
def waitVal (vals : List (Nat × Nat)) (lane : Nat) : Nat := ((vals.find? (·.1 == lane)).map (·.2)).getD 0
/-- Compares again the monitors of a line after a write to it (R427, R448): a monitor on the written bytes matches when its
condition holds; an overflow monitor's thread must compare again. -/
def State.monitorsAfter (s : State) (ia n : Nat) : State :=
  { s with ops := s.ops.map fun o =>
      match o.kind with
      | .waitcmp _ c _ vals =>
        { o with parts := o.parts.map fun p =>
            match p.space, p.st with
            | .local, .armed true => if p.addr / 256 == ia / 256 then { p with st := .sent } else p
            | .local, .armed false =>
              if overlaps p.addr p.n ia n then
                match s.readLocal (((s.unit? o.w.unit).map (·.ctx)).getD 0) p.addr p.n with
                | .ok bs =>
                  if wcondHolds c (bytesNat bs) (waitVal vals p.lane) then
                    { p with st := .done, data := bs, time := visOf s.home p.addr p.n }
                  else p
                | _ => p
              else p
            | _, _ => p }
      | _ => o }
/-- A write at its slice: applied with its GWCT and the bytes not written, or waiting, or a fault. -/
inductive WriteRes
  | ok (s : State) (gwct : Nat) (bad : Option (Nat × Nat × Nat))
  | wait (s : State)
  deriving DecidableEq, Repr
/-- Applies a write within one line at its home slice (R411, R30, R495). A block that the host caches is snooped first. -/
def State.writeLocal (s : State) (ctx ia : Nat) (bs : List Byte) (carried tclear : Nat) : WriteRes :=
  let line := ia / 256
  if bs = [] then .ok s 0 none
  else if s.home.hostLines.contains line then
    .wait { s with home := { s.home with snooped := natSet s.home.snooped line 1 } }
  else
    match s.translate ctx ia true with
    | .busy => .wait s
    | .bad c a d => .ok s 0 (some (c, a, d))
    | .ok pa =>
      let answered := natGet s.home.snooped line
      let g0 := gwctOf s.home (s.clockOf (.slice ia)) ia bs.length carried tclear
      let g := if answered ≥ 2 then max g0 (answered - 2 + 4) else g0
      let (h, bad) := writePhys s.home pa bs
      let h := { h with
        vis := (chunksOf ia bs.length).foldl (fun m c => natSet m c g) h.vis
        snooped := natSet h.snooped line 0 }
      .ok (({ s with home := h }.monitorsAfter ia bs.length).cacheWalk ctx ia) g (bad.map fun a => (0x11, ia + (a - pa), 0))
/-- Writes a span of host or peer memory, or each line of a local span; the largest GWCT and the first failure are given.
A line that the host holds is written at once after its answer, and one of a page on the move once the page has moved (the
engines' own records, R409, assumption 16). The host's poison on a unit written whole goes; a peer's error leaves the bytes
unwritten (R356). -/
def State.writeSpan (s : State) (ctx : Nat) (sp : Space) (a : Nat) (bs : List Byte) (tclear : Nat) :
    State × Nat × Option (Nat × Nat × Nat) :=
  match sp with
  | .host => ({ s with home := { s.home with
      host := memWrite s.home.host a bs, hostPoison := s.home.hostPoison.filter fun u => !within u 8 a bs.length } }, 0, none)
  | .peer p => match s.home.peerErrs.filter fun (k, u) => k == p && overlaps u 8 a bs.length with
    | u :: us => (s, 0, some (0x11, max (us.foldl (fun m x => min m x.2) u.2) a, 0))
    | [] => ({ s with home := setPeer s.home p (memWrite (peerMem s.home p) a bs) }, 0, none)
  | _ => (lineParts a bs.length).foldl (fun (s, g, bad) (pa, pn) =>
      let s := { s with home := { s.home with hostLines := s.home.hostLines.filter (· != pa / 256) } }
      match s.writeLocal ctx pa ((bs.drop (pa - a)).take pn) 0 tclear with
      | .ok s' g' b => (s', max g g', if bad.isNone then b else bad)
      | .wait s' => ({ s' with home := { s'.home with
          late := s'.home.late ++ [(ctx, pa, (bs.drop (pa - a)).take pn)] } }, g, bad)) (s, 0, none)
/-- The writes that waited for a page on the move are made where it no longer is (R409). -/
def State.flushLate (s : State) : State :=
  s.home.late.foldl (fun s (ctx, a, bs) => (s.writeSpan ctx .local a bs 0).1) { s with home := { s.home with late := [] } }

/-! ### The address map (R348, R349) -/

/-- Map entry n of a context: kind, peer, base, length, virtual base, or none for a refused or malformed entry. -/
structure MapEntry where
  space : Space
  ibase : Nat
  length : Nat
  vbase : Nat
  deriving DecidableEq, Repr
/-- The physical address of map entry n. -/
def State.mapEntryAt (s : State) (ctx n : Nat) : Nat := (s.ctx ctx).mapbase.toNat * 4096 + 32 * n
/-- Reads map entry n; `none` when KIND is 3, a reserved field is nonzero or LENGTH is 0, and when its memory is poisoned. -/
def State.mapEntry (s : State) (ctx n : Nat) : Option MapEntry :=
  let pa := s.mapEntryAt ctx n
  let e := bytesNat (memRead s.home.mem pa 32)
  let kind := bitsOf e 169 2
  if (poisonedIn s.home pa 32).isSome || kind = 3 || bitsOf e 179 77 != 0 || bitsOf e 72 40 = 0 then none
  else some ⟨if kind = 0 then .local else if kind = 1 then .host else .peer (bitsOf e 171 8),
    bitsOf e 112 57, bitsOf e 72 40, bitsOf e 0 72⟩
/-- The first entry, in index order, that holds every span; a malformed entry met before it ends the search (R349). -/
def State.mapFind (s : State) (ctx : Nat) (spans : List (Nat × Nat)) : List Nat → Option MapEntry
  | [] => none
  | n :: ns =>
    match s.mapEntry ctx n with
    | none => none
    | some e => if spans.all fun (a, l) => within a l e.vbase e.length then some e else s.mapFind ctx spans ns
def State.mapOf (s : State) (ctx : Nat) (spans : List (Nat × Nat)) : Option MapEntry :=
  s.mapFind ctx spans (List.range (s.ctx ctx).mapcnt.toNat)
/-- The poisoned unit of the address map at which every search that fails has stopped: the first entry that cannot be used is one
whose memory is poisoned, so that what fails is the read (R356, R495; assumption 79). -/
def State.mapPoison (s : State) (ctx : Nat) : Option Nat :=
  ((List.range (s.ctx ctx).mapcnt.toNat).find? fun n => (s.mapEntry ctx n).isNone).bind fun n => poisonedIn s.home (s.mapEntryAt ctx n) 32
/-- Where a virtual span stands through the map: its space and address. -/
def State.mapAddr (s : State) (ctx va n : Nat) : Option (Space × Nat) :=
  (s.mapOf ctx [(va, n)]).map fun e => (e.space, e.ibase + (va - e.vbase))
/-- Reads a virtual span through the map (R323). -/
def State.readVirt (s : State) (ctx va n : Nat) : Option (List Byte) :=
  match s.mapAddr ctx va n with
  | none => none
  | some (sp, a) => match s.readSpan ctx sp a n with
    | .ok bs => some bs
    | _ => none

/-! ### Trace records (R475) -/

/-- A trace record's 256 bits. -/
def traceBits (time pc value id ctx core warp lane kind : Nat) : BitVec 256 :=
  BitVec.ofNat 256 (time * 2 ^ 192 + pc % 2 ^ 72 * 2 ^ 120 + value % 2 ^ 32 * 2 ^ 88 + id % 1024 * 2 ^ 78 +
    ctx % 256 * 2 ^ 70 + core % 1024 * 2 ^ 60 + warp % 32 * 2 ^ 55 + lane % 32 * 2 ^ 50 + kind % 16)
/-- A word of a context's watch block (R460). -/
def State.watchWord (s : State) (ctx sel : Nat) : Nat := natGet s.watch.words (32 * ctx + sel)
def State.setWatchWord (s : State) (ctx sel v : Nat) : State :=
  { s with watch := { s.watch with words := natSet s.watch.words (32 * ctx + sel) (v % 2 ^ 32) } }
/-- A source makes a record while the enable bit of TRCCTL is 1. -/
def State.trace (s : State) (src ctx bit : Nat) (data : BitVec 256) : State :=
  if bitOf (s.watchWord ctx 8) bit then
    { s with watch := { s.watch with made := s.watch.made ++ [⟨src, ctx, data⟩] } }
  else s
/-- The Task engine as a source of trace records. -/
def taskSrc : Nat := 768

/-! ### The images of threads (R361, R470) -/

/-- A tag as 16 bytes: state 0 free, 1 in flight, 2 timed; the time in the next 8 (R361, R470; the state's codes are
assumption 17). -/
def tagBytes : Tag → List Byte
  | .free => natBytes 16 0
  | .inflight _ t => [1] ++ natBytes 15 (t % 2 ^ 64)
  | .timed t => [2] ++ natBytes 15 (t % 2 ^ 64)
/-- gN's entry: value, four shadows, of which those from D on are written 0 (assumption 102), mask, and in a dump the pending bit. -/
def gImage (n : Nat) (r : GReg) (pending : Bool) : Nat × List Byte :=
  (16 + 24 * n, natBytes 4 r.val.toNat ++
    (List.range 4).flatMap (fun k => natBytes 4 (((r.sh[k]?).map (·.toNat)).getD 0)) ++
    natBytes 1 r.mask.toNat ++ natBytes 3 (if pending then 1 else 0))
def aImage (n : Nat) (r : AReg) : Nat × List Byte :=
  (3088 + 32 * n, natBytes 9 r.ptr.toNat ++ natBytes 9 r.base.toNat ++ natBytes 9 r.limit.toNat ++
    natBytes 4 r.perm.toNat ++ natBytes 1 r.mask.toNat)
def pImage (n : Nat) (r : PReg) : Nat × List Byte :=
  (3344 + 2 * n, natBytes 1 (if r.val then 1 else 0) ++ natBytes 1 r.mask.toNat)
/-- A lane's monitor as an image shows it: 0 none, 1 armed and not matched, 2 matched, with the value and its visibility time
(R361, R470). An ORDWAIT arms none. -/
def State.monitorOf (s : State) (w : WarpId) (l : Nat) (t : Thread) : Nat × Nat × Nat :=
  match t.matched with
  | some (v, time) => (2, v, time)
  | none =>
    match s.ops.find? fun o => o.w == w && o.lanes.contains l && (match o.kind with | .waitcmp .. => true | _ => false) with
    | some o =>
      let ps := o.parts.filter (·.lane == l)
      if ps.all (·.st == .done) then
        (2, sumOf (ps.map fun p => bytesNat p.data * 2 ^ (8 * p.off)), maxOf (ps.map (·.time)))
      else if t.parked.isSome then (1, 0, 0) else (0, 0, 0)
    | none => (0, 0, 0)
/-- A thread's whole lane image, as a dump shows it (R470). -/
def threadImage (w : Warp) (t : Thread) (mon : Nat × Nat × Nat) : List (Nat × List Byte) :=
  let pend (n : Nat) : Bool := w.sb.any fun e => e.reg == .g n
  (0, natBytes 9 t.pc.toNat ++ natBytes 2 ((t.ckpt.map (·.k)).getD 0) ++ natBytes 5 t.draws.toNat) ::
  ((t.g.zipIdx).map fun (r, n) => gImage n r (pend n)) ++ ((t.a.zipIdx).map fun (r, n) => aImage n r) ++
  ((t.p.zipIdx).map fun (r, n) => pImage n r) ++
  [(3360, natBytes 8 ((if t.exited then 1 else 0) + 2 * mon.1)), (3368, natBytes 8 mon.2.1), (3376, natBytes 8 mon.2.2)]

/-! ### Fault records (R366, R500) -/

/-- The 64 bytes of a record once it is posted. -/
def recordBits (r : Record) (seq time : Nat) (dump : Bool) : Nat :=
  time % 2 ^ 64 * 2 ^ 448 + r.det1.toNat * 2 ^ 384 + r.det0.toNat * 2 ^ 320 + r.user.toNat * 2 ^ 288 +
  maskOf r.lanes % 2 ^ 32 * 2 ^ 256 + r.idx % 2 ^ 32 * 2 ^ 224 + r.warp % 32 * 2 ^ 219 + r.wgic % 4 * 2 ^ 217 +
  r.pc.toNat * 2 ^ 144 + r.launchid.toNat * 2 ^ 80 + seq % 2 ^ 32 * 2 ^ 48 + (if dump then 2 ^ 15 else 0) +
  (if r.precise then 2 ^ 14 else 0) + r.code % 256
/-- Posts a record to a queue's fault ring and raises MSI-X vector 32 + q (R366). -/
def State.post (s : State) (q : Nat) (r : Record) (dump : Bool) : State :=
  let qu := s.queue q
  let seq := qu.seq + 1
  let size := qu.fring.toNat % 32
  let s := s.modQueue q fun x => { x with seq := seq }
  let s := if 4 ≤ size && size ≤ 16 then
      let a := qu.fring.toNat / 4096 * 4096 + 64 * ((seq - 1) % 2 ^ size)
      (s.writeSpan qu.ctx.toNat (if qu.host then .host else .local) a (natBytes 64 (recordBits r seq (s.clockOf .task) dump)) 0).1
    else s
  s.irq (32 + q)
/-- A notice or a failure that belongs to no warp (R500). -/
def plainRecord (code : Nat) (launchid : BitVec 64) (det0 det1 : Nat) : Record :=
  ⟨code, false, 0, [], 0, 0, 0, launchid, 0, BitVec.ofNat 64 det0, BitVec.ofNat 64 det1⟩
/-- The codes whose trace record the Task engine makes (R475). -/
def taskTraced (code : Nat) : Bool := [0x20, 0x21, 0x22, 0x23, 0x24, 0x26, 0x27, 0x18, 0x14].contains code
/-- Posts a record of the Task engine: it is never captured; the failures of R475 make a FAULT trace record. -/
def State.postTask (s : State) (q : Nat) (r : Record) : State :=
  let s := s.post q r false
  if taskTraced r.code then
    s.trace taskSrc (s.queue q).ctx.toNat 1 (traceBits (s.clockOf .task) 0 r.code 0 (s.queue q).ctx.toNat 0 0 0 2)
  else s

/-! ### Dumps (R477, R478) -/

/-- The bytes of entry f's header part, 64 to 223, and of its lanes, which were live when the fault or the stop came (R470). -/
def State.captureImage (s : State) (f : Nat) (id : WarpId) (w : Warp) (lanes : List Nat) : List (Nat × List Byte) :=
  let e := 256 + 256 * f
  [(e + 64, w.tags.flatMap tagBytes), (e + 192, [w.ld, w.st, w.xf, w.tl].flatMap (natBytes 1)),
   (e + 208, natBytes 16 w.mxstat.toNat)] ++
  lanes.flatMap fun l =>
    match w.threads[l]? with
    | some t => (threadImage w { t with exited := false } (s.monitorOf id l t)).map fun (o, bs) => (4096 + 131072 * f + 4096 * l + o, bs)
    | none => []
/-- An entry takes what its warp holds now, as entry f. -/
def State.fillCapture (s : State) (f : Nat) (c : Capture) : Capture :=
  { c with
    bars := ((s.wg? c.w.unit c.w.wg).map (·.bars)).getD []
    image := ((s.warp? c.w).map fun w => s.captureImage f c.w w c.lanes).getD [] }
def State.fillCaptures (s : State) (f0 : Nat) (cs : List Capture) : List Capture :=
  (cs.zipIdx).map fun (c, i) => s.fillCapture (f0 + i) c
/-- The dump engine takes captures: as the next entries of the running dump of its context, as a new dump when nothing is before
it, or into the queue of two, whose dumps are captured when they start. It answers how many captures it holds; those past the
fourth entry count in OVER, and a dropped dump holds none (R477, R478). -/
def State.capture (s : State) (d : Dump) (new : List Capture) : State × Nat :=
  let w := s.watch
  let full := w.dslots.toNat = 0 || (w.dhead - w.dtail).toNat = w.dslots.toNat
  let queued : Dump := { d with entries := new.take 4, overflow := new.length - 4 }
  let drop : State × Nat :=
    ({ s with watch := { w with ddrop := if w.ddrop.toNat = 2 ^ 32 - 1 then w.ddrop else w.ddrop + 1 } }, 0)
  let enqueue : State × Nat :=
    if full || w.dumpQ.length ≥ 2 then drop
    else ({ s with watch := { w with dumpQ := w.dumpQ ++ [queued] } }, queued.entries.length)
  match w.dump with
  | some r =>
    if r.ctx == d.ctx && r.kind == 1 && d.kind == 1 then
      let room := 4 - r.entries.length
      let more := s.fillCaptures r.entries.length (new.take room)
      ({ s with watch := { w with dump := some { r with
        entries := r.entries ++ more, overflow := r.overflow + (new.length - room) } } }, more.length)
    else enqueue
  | none =>
    if w.dumpQ != [] then enqueue
    else if full then drop
    else ({ s with watch := { w with dump := some { queued with
        entries := s.fillCaptures 0 queued.entries, time := s.clockOf .watch } } }, queued.entries.length)

/-! ### Taking a fault (R112, R365, R366, R500) -/

/-- The faulting lanes of one warp, with its details and, where each lane has one of its own, each lane's value. -/
structure Hit where
  warp : Nat
  lanes : List Nat
  det0 : Nat
  det1 : Nat
  vals : List (Nat × Nat)
  deriving DecidableEq, Repr
/-- The virtual cluster index or task record index of a unit, and its launch identifier and USER, in a record. -/
def unitRecord (u : Placed) (wg : Nat) (code : Nat) (precise : Bool) (pc : VAddr) (h : Hit) : Record :=
  ⟨code, precise, pc, h.lanes, h.warp, wg, u.idx, u.launchid, u.user, BitVec.ofNat 64 h.det0, BitVec.ofNat 64 h.det1⟩
/-- A fault of a warp's part of an issue sets out to its core. DET1 of an uncorrectable error is the origin's PC, and that of any fault
of an engine's operation (R358, R367). -/
def State.queueFault (s : State) (group : Nat) (engine : Bool) (w : WarpId) (pc : VAddr) (code a d : Nat) (lanes : List Nat)
    (vals : List (Nat × Nat)) : State :=
  let det1 := if engine || code = 0x11 then pc.toNat else d
  { s with
    nextId := s.nextId + 1
    home := { s.home with faults := s.home.faults ++
      [⟨s.nextId, group, w, pc, code, BitVec.ofNat 64 a, BitVec.ofNat 64 det1, lanes, vals⟩] } }
/-- The operations that a fault ends: those inside whose instruction a thread waits, and the reads of an evaluation (R358,
R365; assumption 38). -/
def OpKind.endsWithUnit : OpKind → Bool
  | .aldp .. | .waitcmp .. | .arrive _ | .loop _ => true
  | _ => false
/-- Stops every thread of a unit. What its threads have issued and retired goes on; what they waited for, and their evaluations,
end (R358, R365). -/
def State.endUnit (s : State) (id : Nat) : State :=
  let s := s.modUnit id fun u => { u with
    state := .ended, faulted := true, dumps := []
    wgs := u.wgs.map fun g => { g with warps := g.warps.map fun w => { w with
      threads := w.threads.map fun t => { t with exited := true, defer := none, busy := none, parked := none, barWait := none }
      arrival := none, graph := [] } } }
  { s with
    ops := s.ops.filter fun o => o.w.unit != id || !o.kind.endsWithUnit
    cores := s.cores.map fun c => { c with
      ports := c.ports.map fun p => { p with
        slots := p.slots.map fun sl => if (sl.map (·.unit == id)).getD false then none else sl
        queue := p.queue.filter (·.unit != id) }
      evalQ := c.evalQ.filter (·.w.unit != id)
      evalCur := if (c.evalCur.map (·.1.w.unit == id)).getD false then none else c.evalCur } }
/-- Runs of contiguous keys, latest first. -/
def dirtyRuns (d : NatMap) : List (Nat × Nat) :=
  d.foldl (fun rs (a, _) => match rs with
    | (b, n) :: t => if a = b + n then (b, n + 1) :: t else (a, 1) :: rs
    | [] => [(a, 1)]) []
/-- The parts that write a stash window's dirty bytes back to their slices, from warp 0 (R365, R407, R453, R454). -/
def stashParts (u : Placed) (st : Stash) : List Part :=
  (dirtyRuns st.dirty).reverse.flatMap fun (o, n) =>
    (lineParts (st.ibase + o) n).map fun (a, m) =>
      ⟨0, 0, st.space, a, m, 0, memRead u.spad (st.soff + (a - st.ibase)) m, [], .sent, 0, 0⟩
/-- An operation with nothing special about it. -/
def MemOp.plain (w : WarpId) (core : Nat) (pc : VAddr) (kind : OpKind) (lanes : List Nat) (parts : List Part) (id : Nat) :
    MemOp :=
  ⟨id, id, w, core, pc, kind, lanes, parts, none, 0, .norm, .dev, false, false, true, 0, false, [], 0⟩
/-- Drops every block that a span overlaps (R163, R413). -/
def Core.l1Drop (c : Core) (a n : Nat) : Core := { c with l1 := c.l1.filter fun k => !overlaps k.base k.data.length a n }
/-- Bytes at a base with those of a store at an address laid over them. -/
def overlayAt (base : Nat) (old : List Byte) (a : Nat) (bs : List Byte) : List Byte :=
  (old.zipIdx).map fun (o, i) => if decide (a ≤ base + i) && decide (base + i < a + bs.length) then (bs[base + i - a]?).getD o else o
/-- The effect of store `op` on its own core's L1: the blocks that it updates are marked until its ack (R163, R412). -/
def Core.l1Store (c : Core) (byp : Bool) (op a : Nat) (bs : List Byte) : Core :=
  let up (k : L1Block) : L1Block :=
    { k with data := overlayAt k.base k.data a bs, upd := if k.upd.contains op then k.upd else op :: k.upd }
  if byp then c.l1Drop a bs.length
  else { c with l1 := c.l1.map fun k => if overlaps k.base k.data.length a bs.length then up k else k }
/-- The parts of a store change their core's L1. -/
def State.storeL1 (s : State) (core : Nat) (byp : Bool) (op : Nat) (ps : List Part) : State :=
  s.modCore core fun c => ps.foldl (fun c q => if q.space == .local then c.l1Store byp op q.addr q.data else c) c
def State.newOp (s : State) (o : Nat → MemOp) : State := { s with ops := s.ops ++ [o s.nextId], nextId := s.nextId + 1 }
/-- The stash of an ended unit is written back by stores of its first warp's core (R365, R406). -/
def State.writeBackAll (s : State) (id : Nat) : State :=
  match s.unit? id with
  | none => s
  | some u =>
    let parts := u.stash.flatMap (stashParts u)
    let s := s.modUnit id fun u => { u with stash := u.stash.map fun st => { st with dirty := [] } }
    let core := s.coreOf ⟨id, 0, 0⟩
    if parts = [] then s
    else (s.newOp (MemOp.plain ⟨id, 0, 0⟩ core 0 (.sflush [] false) [] parts)).storeL1 core false s.nextId parts
/-- The trace record of a fault made by a core (R475). -/
def State.traceFault (s : State) (u : Placed) (w : WarpId) (code : Nat) (pc : VAddr) (lane : Nat) : State :=
  let c := s.coreOf w
  s.trace c u.ctx 1 (traceBits (s.now c) pc.toNat code 0 u.ctx c (((s.warp? w).map (·.slot)).getD 0) lane 2)
/-- Every thread of a warp has exited and every counter is 0; a workgroup of such warps has retired (R154). -/
def Warp.retiredAll (w : Warp) : Bool := w.live == [] && w.ld == 0 && w.st == 0 && w.xf == 0 && w.tl == 0
def Workgroup.retiredAll (g : Workgroup) : Bool := g.warps.all Warp.retiredAll
/-- Terminates the other workgroups of a cluster that have not retired with PEER_FAULT (R365, R500). -/
def State.peerFaults (s : State) (u : Placed) (wg code : Nat) : State :=
  ((u.wgs.zipIdx).filter fun (g, i) => i != wg && !g.retiredAll).foldl (fun s (_, g) =>
    (s.post u.queue (unitRecord u g 0x13 false 0 ⟨0, [], u.idx, code, []⟩) false).traceFault u ⟨u.id, g, 0⟩ 0x13 0 0) s
/-- TAKING FAULTS of one issue of a unit that has not ended, each warp's with its code: one record for each warp with faulting lanes,
in ascending warp slot (posted now, or with DUMP 1 by the dump that captures it), the other workgroups terminated, the unit ended.
What has been issued goes on, and the stash is written back once the stores have arrived (R112, R358, R365, R366, R477, R500;
`State.finishUnit`). -/
def State.takeHits (s : State) (unit wg : Nat) (precise : Bool) (pc : VAddr) (hits : List (Nat × Hit)) : State :=
  match s.unit? unit with
  | none => s
  | some u =>
    if u.state == .ended || u.state == .saved then s
    else
      let recs := hits.map fun (code, h) => (h, unitRecord u wg code precise pc h)
      let caps := recs.map fun (h, r) => ⟨u.queue, some r, ⟨unit, wg, h.warp⟩, h.lanes, h.vals, [], []⟩
      let d : Dump := ⟨u.ctx, 1, u.launchid, u.idx, 0, 0, wg, [], 0, 0, false⟩
      let (s, held) := s.capture d caps
      let s := (recs.drop held).foldl (fun s (_, r) => s.post u.queue r false) s
      let s := hits.foldl (fun s (code, h) => s.traceFault u ⟨unit, wg, h.warp⟩ code pc ((h.lanes[0]?).getD 0)) s
      let s := s.peerFaults u wg (((hits.head?).map (·.1)).getD 0)
      s.endUnit unit
/-- TAKING A FAULT of one code (R112, R500). -/
def State.takeFault (s : State) (unit wg code : Nat) (precise : Bool) (pc : VAddr) (hits : List Hit) : State :=
  s.takeHits unit wg precise pc (hits.map fun h => (code, h))

end Sys2Proof.Machine
end

