-- ==== Sys2Proof/Machine/Float.lean ====
section
/-! DEFINITION. Number formats, exact values, rounding, saturation and conversion (R183 to R201), and the draws of SR. -/

namespace Sys2Proof.Machine

/-! ### Exact values -/

/-- A NaN, a signed infinity, or the exact value ±m × 2^e. -/
inductive FVal
  | nan
  | inf (neg : Bool)
  | fin (neg : Bool) (m : Nat) (e : Int)
  deriving DecidableEq, Repr

def FVal.zero : FVal := .fin false 0 0
def FVal.one : FVal := .fin false 1 0
def FVal.neg : FVal → FVal
  | .nan => .nan
  | .inf s => .inf (!s)
  | .fin s m e => .fin (!s) m e
def FVal.abs : FVal → FVal
  | .nan => .nan
  | .inf _ => .inf false
  | .fin _ m e => .fin false m e
def FVal.isNan : FVal → Bool
  | .nan => true
  | _ => false
/-- The sign, −0 included. -/
def FVal.sign : FVal → Bool
  | .nan => false
  | .inf s => s
  | .fin s _ _ => s
def FVal.isZero : FVal → Bool
  | .fin _ m _ => m == 0
  | _ => false
/-- x × 2^n, exact. -/
def FVal.scale (x : FVal) (n : Int) : FVal :=
  match x with
  | .fin s m e => .fin s m (e + n)
  | y => y
/-- The exact integer value at exponent `e0` below or equal to the value's own. -/
def alignTo (s : Bool) (m : Nat) (e e0 : Int) : Int :=
  let v : Int := (m * 2 ^ (e - e0).toNat : Nat)
  if s then -v else v
/-- The exact sum; an exact zero sum of opposite signs is +0 (R118). -/
def FVal.add : FVal → FVal → FVal
  | .nan, _ => .nan
  | _, .nan => .nan
  | .inf a, .inf b => if a == b then .inf a else .nan
  | .inf a, .fin .. => .inf a
  | .fin .., .inf b => .inf b
  | .fin s m e, .fin t n f =>
    if m = 0 && n = 0 then .fin (s && t) 0 0
    else
      let e0 := if m = 0 then f else if n = 0 then e else min e f
      let v := (if m = 0 then 0 else alignTo s m e e0) + (if n = 0 then 0 else alignTo t n f e0)
      .fin (v < 0) v.natAbs e0
def FVal.sub (a b : FVal) : FVal := a.add b.neg
/-- The exact product; 0 × Inf is NaN (R129). -/
def FVal.mul : FVal → FVal → FVal
  | .nan, _ => .nan
  | _, .nan => .nan
  | .inf a, .inf b => .inf (a != b)
  | .inf a, .fin t n _ => if n = 0 then .nan else .inf (a != t)
  | .fin s m _, .inf b => if m = 0 then .nan else .inf (s != b)
  | .fin s m e, .fin t n f => .fin (s != t) (m * n) (e + f)
/-- A quotient of positive numbers to 160 bits beyond the divisor, its last bit odd when it is not exact: every rounding
this device makes of the exact quotient is that of this value. -/
def quot (m : Nat) (e : Int) (n : Nat) (f : Int) : Nat × Int :=
  let k := 200 + Nat.log2 n
  let q := m * 2 ^ k / n
  if m * 2 ^ k % n = 0 then (q, e - f - k) else (2 * q + 1, e - f - k - 1)
/-- The quotient, by R129's special cases. -/
def FVal.div : FVal → FVal → FVal
  | .nan, _ => .nan
  | _, .nan => .nan
  | .inf _, .inf _ => .nan
  | .inf a, .fin t _ _ => .inf (a != t)
  | .fin s _ _, .inf b => .fin (s != b) 0 0
  | .fin s m e, .fin t n f =>
    if n = 0 then (if m = 0 then .nan else .inf (s != t))
    else if m = 0 then .fin (s != t) 0 0
    else let (q, g) := quot m e n f; .fin (s != t) q g
/-- The comparison of two values that are not NaN: less, equal or greater; −0 equals +0. -/
def FVal.cmp : FVal → FVal → Ordering
  | .inf a, .inf b => if a == b then .eq else if a then .lt else .gt
  | .inf a, _ => if a then .lt else .gt
  | _, .inf b => if b then .gt else .lt
  | .fin s m e, .fin t n f =>
    let e0 := if m = 0 then f else if n = 0 then e else min e f
    let x := if m = 0 then 0 else alignTo s m e e0
    let y := if n = 0 then 0 else alignTo t n f e0
    if x < y then .lt else if x = y then .eq else .gt
  | _, _ => .eq
/-- Integer square root by bits, from bit `k - 1` down. -/
def isqrt (v : Nat) : Nat → Nat → Nat
  | 0, r => r
  | k + 1, r => let t := r + 2 ^ k; isqrt v k (if t * t ≤ v then t else r)
/-- A square root of a positive value, its last bit odd when it is not exact. -/
def sqrtVal (m : Nat) (e : Int) : FVal :=
  let k : Int := if (e - 300) % 2 = 0 then 300 else 301
  let v := m * 2 ^ k.toNat
  let r := isqrt v (Nat.log2 v / 2 + 1) 0
  let h := (e - k) / 2
  if r * r = v then .fin false r h else .fin false (2 * r + 1) (h - 1)

/-! ### Rounding (R193, R194) -/

/-- A rounding mode; SR brings the high 16 bits of its draw. -/
inductive RMode
  | rne | rz | ru | rd
  | sr (u : Nat)
  deriving DecidableEq, Repr
/-- Rounds a magnitude m × 2^e to a multiple of 2^lsb. A magnitude more than 39 bits below the multiple rounds like one
39 bits below it in every mode. -/
def roundAt (r : RMode) (neg : Bool) (m : Nat) (e lsb : Int) : Nat :=
  if e ≥ lsb then m * 2 ^ (e - lsb).toNat
  else
    let sh := min (lsb - e).toNat (Nat.log2 m + 40)
    let q := m / 2 ^ sh
    let rest := m % 2 ^ sh
    match r with
    | .rne => if 2 * rest > 2 ^ sh || (2 * rest = 2 ^ sh && q % 2 = 1) then q + 1 else q
    | .rz => q
    | .ru => if !neg && rest != 0 then q + 1 else q
    | .rd => if neg && rest != 0 then q + 1 else q
    | .sr u => (m * 2 ^ 16 + u * 2 ^ sh) / 2 ^ (sh + 16)
/-- Rounds to an integer (R137, R199). -/
def roundInt (r : RMode) (neg : Bool) (m : Nat) (e : Int) : Int :=
  let v := roundAt r neg m e 0
  if neg then -(v : Int) else v

/-! ### Formats (R183 to R188) -/

/-- A floating-point format: width, fraction bits, least normal exponent, largest finite magnitude code, its sign and
−0, the magnitude code of infinity and the code of the canonical NaN where it has them. -/
structure FFmt where
  width : Nat
  t : Nat
  emin : Int
  maxMag : Nat
  signed : Bool
  negZero : Bool
  inf : Option Nat
  nan : Option Nat
  deriving DecidableEq, Repr

def fp64 : FFmt := ⟨64, 52, -1022, 0x7FEFFFFFFFFFFFFF, true, true, some 0x7FF0000000000000, some 0x7FF8000000000000⟩
def fp32 : FFmt := ⟨32, 23, -126, 0x7F7FFFFF, true, true, some 0x7F800000, some 0x7FC00000⟩
def fp16 : FFmt := ⟨16, 10, -14, 0x7BFF, true, true, some 0x7C00, some 0x7E00⟩
def bf16 : FFmt := ⟨16, 7, -126, 0x7F7F, true, true, some 0x7F80, some 0x7FC0⟩
def mxfp8e4 : FFmt := ⟨8, 3, -6, 0x7E, true, true, none, some 0x7F⟩
def mxfp8e5 : FFmt := ⟨8, 2, -14, 0x7B, true, true, some 0x7C, some 0x7E⟩
def mxfp6e2 : FFmt := ⟨6, 3, 0, 0x1F, true, true, none, none⟩
def mxfp6e3 : FFmt := ⟨6, 2, -2, 0x1F, true, true, none, none⟩
def mxfp4 : FFmt := ⟨4, 1, 0, 0x7, true, true, none, none⟩
/-- The P3109 formats (R185). -/
def p3109 (unsigned extended : Bool) (p : Nat) : FFmt :=
  let w := if unsigned then 9 - p else 8 - p
  let emin : Int := 1 - (2 ^ (w - 1) : Nat)
  if unsigned then
    ⟨8, p - 1, emin, if extended then 0xFD else 0xFE, false, false, if extended then some 0xFE else none, some 0xFF⟩
  else ⟨8, p - 1, emin, if extended then 0x7E else 0x7F, true, false, if extended then some 0x7F else none, some 0x80⟩
/-- An element format: floating, mxint8, or an integer of a width. -/
inductive Elem
  | float (f : FFmt)
  | mxint8
  | int (width : Nat) (signed : Bool)
  deriving DecidableEq, Repr
/-- The element format of a code of R183; none when it is reserved. -/
def elemOf (c : Nat) : Option Elem :=
  match c with
  | 0x01 => some (.float fp32) | 0x02 => some (.float fp16) | 0x03 => some (.float bf16)
  | 0x04 => some (.int 8 true) | 0x05 => some (.int 8 false) | 0x06 => some (.int 4 true) | 0x07 => some (.int 4 false)
  | 0x08 => some (.int 32 true)
  | 0x09 => some (.float mxfp8e4) | 0x0A => some (.float mxfp8e5) | 0x0B => some (.float mxfp6e2)
  | 0x0C => some (.float mxfp6e3) | 0x0D => some (.float mxfp4) | 0x0E => some .mxint8
  | _ =>
    if 0x20 ≤ c && c < 0x40 && c % 8 != 0 then some (.float (p3109 (bitOf c 4) (bitOf c 3) (c % 8))) else none
def Elem.width : Elem → Nat
  | .float f => f.width
  | .mxint8 => 8
  | .int w _ => w
def Elem.isInt : Elem → Bool
  | .int .. => true
  | _ => false
/-- An MX element format's code (R192). -/
def isMxCode (c : Nat) : Bool := 0x09 ≤ c && c ≤ 0x0E
/-- The exponent of the largest power of two an MX element holds (R188). -/
def mxEmax (c : Nat) : Int :=
  match c with
  | 0x09 => 8 | 0x0A => 15 | 0x0B => 2 | 0x0C => 4 | 0x0D => 2 | _ => 0

/-! ### Decoding and encoding -/

/-- The sign bit of a format. -/
def FFmt.signBit (f : FFmt) : Nat := if f.signed then 2 ^ (f.width - 1) else 0
/-- The value of a code (R184 to R188). -/
def decodeF (f : FFmt) (code : Nat) : FVal :=
  let code := code % 2 ^ f.width
  let neg := f.signed && bitOf code (f.width - 1)
  let mag := if neg then code - f.signBit else code
  if f.nan == some code && !f.negZero then .nan
  else if f.negZero && mag > f.maxMag && f.inf != some mag then .nan
  else if f.inf == some mag then .inf neg
  else
    let ex := mag / 2 ^ f.t
    let fr := mag % 2 ^ f.t
    if ex = 0 then .fin neg fr (f.emin - f.t) else .fin neg (2 ^ f.t + fr) (f.emin - f.t + (ex - 1))
/-- The magnitude code of a rounded value m × 2^(lsb), lsb at least emin − t. -/
def magCode (f : FFmt) (m : Nat) (lsb : Int) : Nat := (lsb - (f.emin - f.t)).toNat * 2 ^ f.t + m
/-- The least significant exponent a value is rounded at (R193). -/
def lsbOf (f : FFmt) (m : Nat) (e : Int) : Int := max (Nat.log2 m + e) f.emin - f.t
/-- A signed magnitude as a code; formats without −0 write 0 (R193). -/
def signCode (f : FFmt) (neg : Bool) (mag : Nat) : Nat :=
  if neg && f.signed && (mag != 0 || f.negZero) then f.signBit + mag else mag
/-- What an infinity, or an overflow O, becomes under NOSAT (R197). -/
def bigCode (f : FFmt) (neg : Bool) : Nat :=
  match f.inf with
  | some i => signCode f neg i
  | none => f.nan.getD (signCode f neg f.maxMag)
/-- The overflow result under NOSAT, by the rounding (R197). -/
def overflowCode (f : FFmt) (r : RMode) (neg : Bool) : Nat :=
  match r with
  | .rz => signCode f neg f.maxMag
  | .ru => if neg then signCode f neg f.maxMag else bigCode f neg
  | .rd => if neg then bigCode f neg else signCode f neg f.maxMag
  | _ => bigCode f neg
/-- A conversion into a floating format: its code and whether a rounded value overflowed (R193, R194, R197, R198). -/
def toFmtOvf (f : FFmt) (r : RMode) (sat : Bool) (x : FVal) : Nat × Bool :=
  match x with
  | .nan => (f.nan.getD 0, false)
  | .inf neg =>
    if neg && !f.signed then (if sat then 0 else 0xFF, false)
    else (if sat then signCode f neg f.maxMag else bigCode f neg, false)
  | .fin neg m e =>
    if m = 0 then (signCode f neg 0, false)
    else if neg && !f.signed then (if sat then 0 else 0xFF, false)
    else
      let lsb := lsbOf f m e
      let mag := magCode f (roundAt r neg m e lsb) lsb
      if mag > f.maxMag then (if sat then signCode f neg f.maxMag else overflowCode f r neg, true)
      else (signCode f neg mag, false)
def toFmt (f : FFmt) (r : RMode) (sat : Bool) (x : FVal) : Nat := (toFmtOvf f r sat x).1
/-- One RNE rounding to fp32, as a value: a bracket of R133 and R266. -/
def rnd32 (x : FVal) : FVal := decodeF fp32 (toFmt fp32 .rne false x)
/-- Brings an integer into the range of a width: clamped, or reduced modulo 2^width (R56, R199). -/
def intRange (w : Nat) (signed sat : Bool) (v : Int) : Int :=
  let lo : Int := if signed then -(2 ^ (w - 1) : Nat) else 0
  let hi : Int := if signed then (2 ^ (w - 1) : Nat) - 1 else (2 ^ w : Nat) - 1
  if sat then max lo (min hi v)
  else let u := v % (2 ^ w : Nat); if signed && u > hi then u - (2 ^ w : Nat) else u
/-- A value into an integer format (R199): the signed result. -/
def toIntVal (w : Nat) (signed sat : Bool) (r : RMode) (x : FVal) : Int :=
  match x with
  | .nan => 0
  | .inf neg =>
    if neg then (if signed then -(2 ^ (w - 1) : Nat) else 0)
    else if signed then (2 ^ (w - 1) : Nat) - 1 else (2 ^ w : Nat) - 1
  | .fin neg m e => intRange w signed sat (roundInt r neg m e)
/-- An integer's code in a width. -/
def intCode (w : Nat) (v : Int) : Nat := (v % (2 ^ w : Nat)).toNat
/-- The signed or unsigned value of an integer code. -/
def intOfCode (w : Nat) (signed : Bool) (c : Nat) : Int :=
  let c := c % 2 ^ w
  if signed && bitOf c (w - 1) then (c : Int) - (2 ^ w : Nat) else c
/-- An exact integer as a value. -/
def FVal.ofInt (v : Int) : FVal := .fin (v < 0) v.natAbs 0
/-- The element of mxint8 nearest a value, clamped (R197, R199); the flag is an overflow. -/
def toMxInt8 (r : RMode) (x : FVal) : Nat × Bool :=
  match x with
  | .nan => (0, false)
  | .inf neg => (if neg then 0x80 else 0x7F, false)
  | .fin neg m e =>
    let v : Int := roundInt r neg m (e + 6)
    (intCode 8 (intRange 8 true true v), v > 127 || v < -128)
/-- A conversion into an element format: code and overflow; `isat` is the wrap-or-saturate setting of integer formats. -/
def toElem (el : Elem) (r : RMode) (sat isat : Bool) (x : FVal) : Nat × Bool :=
  match el with
  | .float f => toFmtOvf f r sat x
  | .mxint8 => toMxInt8 r x
  | .int w sg => (intCode w (toIntVal w sg isat r x), false)
/-- The value of an element's code. -/
def elemVal (el : Elem) (c : Nat) : FVal :=
  match el with
  | .float f => decodeF f c
  | .mxint8 => (FVal.ofInt (intOfCode 8 true c)).scale (-6)
  | .int w sg => FVal.ofInt (intOfCode w sg c)

/-! ### MX blocks (R189, R200, R201) -/

/-- ⌊log₂ of the largest magnitude⌋ of finite values, none when all are zero. -/
def blockLog (vs : List FVal) : Option Int :=
  vs.foldl (fun acc v => match v with
    | .fin _ m e => if m = 0 then acc else
        let l := (Nat.log2 m : Int) + e
        match acc with
        | some a => some (max a l)
        | none => some l
    | _ => acc) none
def FVal.finite : FVal → Bool
  | .fin .. => true
  | _ => false
/-- Packs source values, with each element's rounding, into one block: scale, codes, and per element whether it
saturated. A NaN or infinity makes a NaN block of zero codes (R200). -/
def packBlock (code : Nat) (el : Elem) (vs : List (FVal × RMode)) : Nat × List Nat × List Bool :=
  if vs.all fun v => v.1.finite then
    let x : Int := match blockLog (vs.map (·.1)) with
      | none => 127
      | some l => max 0 (min 254 (l - mxEmax code + 127))
    let es := vs.map fun (v, r) => toElem el r true true (v.scale (127 - x))
    (x.toNat, es.map (·.1), es.map (·.2))
  else (0xFF, vs.map fun _ => 0, vs.map fun _ => false)
/-- An element times its block's scale, exact; scale 0xFF makes it NaN (R189). -/
def mxVal (el : Elem) (scale code : Nat) : FVal :=
  if scale = 0xFF then .nan else (elemVal el code).scale ((scale : Int) - 127)

/-! ### Draws (R195) -/

/-- One Philox round. -/
def philoxRound (k0 k1 : Nat) (c : Nat × Nat × Nat × Nat) : Nat × Nat × Nat × Nat :=
  let (c0, c1, c2, c3) := c
  let p0 := 0xD2511F53 * c0
  let p1 := 0xCD9E8D57 * c2
  ((p1 / 2 ^ 32) ^^^ c1 ^^^ k0, p1 % 2 ^ 32, (p0 / 2 ^ 32) ^^^ c3 ^^^ k1, p0 % 2 ^ 32)
/-- Ten rounds, the key raised before every round but the first. -/
def philoxRounds : Nat → Nat → Nat → Nat × Nat × Nat × Nat → Nat × Nat × Nat × Nat
  | 0, _, _, c => c
  | n + 1, k0, k1, c =>
    philoxRounds n ((k0 + 0x9E3779B9) % 2 ^ 32) ((k1 + 0xBB67AE85) % 2 ^ 32) (philoxRound k0 k1 c)
/-- Draw number `n` of the stream of a seed, launch identifier, virtual workgroup and thread. -/
def philox (seed launch wg thread n : Nat) : Nat :=
  let (a, b, c, d) := philoxRounds 10 (seed % 2 ^ 32) (seed / 2 ^ 32 % 2 ^ 32)
    (launch % 2 ^ 32, wg % 2 ^ 32, thread % 2 ^ 32, n / 4 % 2 ^ 32)
  match n % 4 with
  | 0 => a | 1 => b | 2 => c | _ => d

/-! ### Checksums (R294, R393) -/

/-- One byte into a reflected CRC register of a polynomial given reflected. -/
def crcByte (poly : Nat) (c : Nat) (b : Nat) : Nat :=
  (List.range 8).foldl (fun c _ => if c % 2 = 1 then (c / 2) ^^^ poly else c / 2) (c ^^^ b)
/-- CRC-64/XZ (R393). -/
def crc64 (bs : List Byte) : Nat :=
  (bs.foldl (fun c b => crcByte 0xC96C5795D7870F42 c b.toNat) (2 ^ 64 - 1)) ^^^ (2 ^ 64 - 1)
/-- CRC-32C: reflected, initial and final all ones (R294). -/
def crc32c (c : Nat) (bs : List Byte) : Nat := bs.foldl (fun c b => crcByte 0x82F63B78 c b.toNat) c

end Sys2Proof.Machine
end

