-- ==== Sys2Proof/Machine/Trans.lean ====
section
/-! DEFINITION. The functions of R132 and R263 on exact values: each answers a value whose every rounding the device makes
is the rounding of the exact function (assumption 12): an inexact result keeps more than 200 bits and its last bit is odd. -/

namespace Sys2Proof.Machine

/-- π / 2 × 2^480, rounded down. -/
def halfPi480 : Nat := 4903631156013654104835216594459417753999121174389642500969893891376420597345114094181205771426638395810007501500231852443806468116305670880520922
/-- ln 2 × 2^640, rounded down. -/
def ln2At640 : Nat := 3162442850577000144542819255265044123884198300717798677536341180773118696995660441338367561063358767323571958122307070903190084685977847936741854327993944726832264493303953239866611699627604094

/-- The sum of t^k / k! with signs, from term k on: the running term, the step's square or plain factor, and how many
terms are left. `step` 1 is the exponential series, 2 the sine and cosine series. -/
def series (F x : Nat) (step : Nat) (alt : Bool) : Nat → Nat → Nat → Bool → Int → Int
  | 0, _, _, _, acc => acc
  | n + 1, term, k, neg, acc =>
    let acc' : Int := if neg then acc - term else acc + term
    let term' := if step = 1 then term * x / 2 ^ F / (k + 1) else term * x / 2 ^ F * x / 2 ^ F / ((k + 1) * (k + 2))
    series F x step alt n term' (k + step) (if alt then !neg else neg) acc'
/-- e^(x / 2^F) × 2^F for x below 2^F. -/
def expFix (F x : Nat) : Nat := (series F x 1 false 150 (2 ^ F) 0 false 0).toNat
/-- sin and cos of x / 2^F for x below 2^(F + 1), times 2^F. -/
def sinFix (F x : Nat) : Nat := (series F x 2 true 60 x 1 false 0).toNat
def cosFix (F x : Nat) : Nat := (series F x 2 true 60 (2 ^ F) 0 false 0).toNat
/-- A value just beside 1, at 2^-200: above or below. -/
def besideOne (above : Bool) : FVal := if above then .fin false (2 ^ 200 + 1) (-200) else .fin false (2 ^ 200 - 1) (-200)
/-- ⌊log₂⌋ of a nonzero value. -/
def topExp (m : Nat) (e : Int) : Int := Nat.log2 m + e
/-- A value in fixed point with F fraction bits, for values that have no finer bits. -/
def toFix (F : Nat) (m : Nat) (e : Int) : Nat :=
  if e + F ≥ 0 then m * 2 ^ (e + F).toNat else m / 2 ^ (-(e + F)).toNat
/-- A fixed-point result as an inexact value. -/
def sticky (neg : Bool) (q : Nat) (e : Int) : FVal := .fin neg (2 * q + 1) (e - 1)

/-- 2^x for finite x (R132, R263). -/
def exp2Val (neg : Bool) (m : Nat) (e : Int) : FVal :=
  if m = 0 then .one
  else if topExp m e < -100 then besideOne (!neg)
  else if topExp m e > 20 then (if neg then .fin false 1 (-4000) else .fin false 1 4000)
  else
    let F := 320
    let x : Int := if neg then -(toFix F m e : Int) else toFix F m e
    let n : Int := x / ((2 ^ F : Nat) : Int)
    let f := (x % ((2 ^ F : Nat) : Int)).toNat
    if f = 0 then .fin false 1 n
    else sticky false (expFix F (f * ln2At640 / 2 ^ 640)) (n - F)
/-- e^-y for y ≥ 0 in fixed point with 640 bits: a significand with 640 bits and an exponent. -/
def expNeg (y : Nat) : Nat × Int :=
  let k := y / ln2At640
  (2 ^ 1280 / expFix 640 (y - k * ln2At640), -(k : Int) - 640)

/-- ln z × 2^F of z = (2^F + a) / 2^F, by the series of atanh w with w = a / (2^(F+1) + a). -/
def lnFix (F a : Nat) : Nat :=
  let w := a * 2 ^ F / (2 ^ (F + 1) + a)
  let rec go : Nat → Nat → Nat → Nat → Nat
    | 0, _, _, acc => acc
    | n + 1, term, k, acc => go n (term * w / 2 ^ F * w / 2 ^ F) (k + 2) (acc + term / k)
  2 * go 120 w 1 0
/-- log₂ of a positive value (R132). -/
def log2Val (m : Nat) (e : Int) : FVal :=
  let F := 320
  let k := topExp m e
  let a := m * 2 ^ F / 2 ^ Nat.log2 m - 2 ^ F
  if a = 0 then FVal.ofInt k
  else
    let l : Nat := lnFix F a * 2 ^ 640 / ln2At640
    let v : Int := k * (2 ^ F : Nat) + (l : Int)
    sticky (v < 0) v.natAbs (-(F : Int))

/-- sin and cos of a positive value: its quadrant and the two results on the remainder (R132). -/
def quadrant (m : Nat) (e : Int) : Nat × Nat :=
  let x := toFix 480 m e
  (x / halfPi480 % 4, x % halfPi480 / 2 ^ 160)
/-- sin of a finite value. -/
def sinVal (neg : Bool) (m : Nat) (e : Int) : FVal :=
  if m = 0 then .fin neg 0 0
  else if topExp m e < -60 then .fin neg (m * 2 ^ 200 - 1) (e - 200)
  else
    let (q, r) := quadrant m e
    let v := if q % 2 = 0 then sinFix 320 r else cosFix 320 r
    sticky (neg != (q ≥ 2)) v (-320)
/-- cos of a finite value. -/
def cosVal (m : Nat) (e : Int) : FVal :=
  if m = 0 then .one
  else if topExp m e < -60 then besideOne false
  else
    let (q, r) := quadrant m e
    let v := if q % 2 = 0 then cosFix 320 r else sinFix 320 r
    sticky (q = 1 || q = 2) v (-320)

/-! ### The lane functions (R132) -/

def fexp2F : FVal → FVal
  | .nan => .nan
  | .inf neg => if neg then .zero else .inf false
  | .fin s m e => exp2Val s m e
def flog2F : FVal → FVal
  | .nan => .nan
  | .inf neg => if neg then .nan else .inf false
  | .fin s m e => if m = 0 then .inf true else if s then .nan else log2Val m e
def fsinF : FVal → FVal
  | .fin s m e => sinVal s m e
  | _ => .nan
def fcosF : FVal → FVal
  | .fin _ m e => cosVal m e
  | _ => .nan
def frcpF (x : FVal) : FVal := FVal.one.div x
def fsqrtF : FVal → FVal
  | .nan => .nan
  | .inf neg => if neg then .nan else .inf false
  | .fin s m e => if m = 0 then .fin s 0 0 else if s then .nan else sqrtVal m e
def frsqF : FVal → FVal
  | .nan => .nan
  | .inf neg => if neg then .nan else .zero
  | .fin s m e =>
    if m = 0 then .inf s else if s then .nan
    else
      let (q, f) := quot 1 0 m e
      sqrtVal q f

/-! ### The activations (R263) -/

def reluF : FVal → FVal
  | .nan => .nan
  | .inf neg => if neg then .zero else .inf false
  | .fin s m e => if s || m = 0 then .zero else .fin false m e
/-- 1 ÷ (1 + e^-x). -/
def sigmF : FVal → FVal
  | .nan => .nan
  | .inf neg => if neg then .zero else .one
  | .fin s m e =>
    if m = 0 then .fin false 1 (-1)
    else if topExp m e > 8 then (if s then .fin false 1 (-4000) else besideOne false)
    else if topExp m e < -100 then
      .fin false (if s then 2 ^ 300 - 1 else 2 ^ 300 + 1) (-301)
    else
      let (u, f) := expNeg (toFix 640 m e)
      let big := 2 ^ (-f).toNat
      if s then sticky false (u * big / (big + u)) f
      else sticky false (big * 2 ^ 640 / (big + u)) (-640)
/-- tanh x. -/
def tanhF : FVal → FVal
  | .nan => .nan
  | .inf neg => .fin neg 1 0
  | .fin s m e =>
    if m = 0 then .fin s 0 0
    else if topExp m e < -60 then .fin s (m * 2 ^ 200 - 1) (e - 200)
    else if topExp m e > 8 then .fin s (2 ^ 200 - 1) (-200)
    else
      let (u, f) := expNeg (toFix 640 m (e + 1))
      let big := 2 ^ (-f).toNat
      sticky s ((big - u) * 2 ^ 640 / (big + u)) (-640)
/-- x ÷ (1 + e^-x). -/
def siluF (x : FVal) : FVal :=
  match x with
  | .nan => .nan
  | .inf neg => if neg then .fin true 0 0 else .inf false
  | .fin s m e => if m = 0 then .fin s 0 0 else (FVal.fin s m e).mul (sigmF x)
def actF : ActFn → FVal → FVal
  | .relu => reluF
  | .sigm => sigmF
  | .tanh => tanhF
  | .silu => siluF
  | .exp2 => fexp2F

end Sys2Proof.Machine
end

