-- ==== Sys2Proof/Machine/Flags.lean ====
section
/-! DEFINITION. Comparisons and predicates, the MOD modifiers and the taint state: conditions of ICMP, FCMP and BRA, the
truth table of PLOP, the one rounding of R119, tags, masks, counters and the scoreboard. -/

namespace Sys2Proof.Machine

/-! ### Conditions (R75, R80, R127) -/

def icondHolds (t : ITy) (c : ICond) (a b : Word) : Bool :=
  let lt := match t with | .i32 => a.slt b | .n32 => a.ult b
  match c with
  | .eq => a == b | .ne => a != b | .lt => lt | .le => lt || a == b | .gt => !lt && a != b | .ge => !lt
/-- FCMP; −0 equals +0; only .NE and .UNORD hold of an unordered pair (R80, R131). -/
def fcondHolds (c : FCond) (a b : FVal) : Bool :=
  let un := a.isNan || b.isNan
  match c with
  | .unord => un
  | .ord => !un
  | .ne => un || a.cmp b != .eq
  | .eq => !un && a.cmp b == .eq
  | .lt => !un && a.cmp b == .lt
  | .le => !un && a.cmp b != .gt
  | .gt => !un && a.cmp b == .gt
  | .ge => !un && a.cmp b != .lt
def braHolds (c : BraCond) (g : Word) : Bool :=
  match c with
  | .z => g == 0 | .nz => g != 0 | .neg => g.msb | .nneg => !g.msb
/-- Bit (2 × pa + pb) of the table (R127). -/
def lutBit (lut : BitVec 4) (pa pb : Bool) : Bool := lut.getLsbD ((if pa then 2 else 0) + (if pb then 1 else 0))

/-! ### The MOD modifiers on a floating-point result (R119, R120) -/

/-- A word's modifiers when none is pending. -/
def ModHint.none : ModHint := ⟨false, false, false, false, 0, Option.none⟩
/-- The rounded result and its rounded tangents (R119). -/
def modFloat (m : ModHint) (f : FFmt) (x : FVal) (taus : List FVal) : Nat × List Nat :=
  let n := m.scl.toInt
  let x1 := x.scale n
  let negTau := (m.abs && x1.sign) != m.neg
  let x2 := if m.abs then x1.abs else x1
  let x3 := if m.neg then x2.neg else x2
  let (c0, ovf) := toFmtOvf f .rne m.sat x3
  let clipped := m.sat && (ovf || (match x3 with | .inf _ => true | _ => false))
  let v := decodeF f c0
  let moved := m.clamp && (v.isNan || v.cmp .zero == .lt || v.cmp .one == .gt)
  let c1 := if !m.clamp then c0
    else if v.isNan || v.cmp .zero != .gt then 0
    else if v.cmp .one == .gt then toFmt f .rne false .one else c0
  let tau (t : FVal) : Nat :=
    if clipped || moved then 0
    else let t1 := t.scale n; toFmt f .rne false (if negTau then t1.neg else t1)
  (c1, taus.map tau)
/-- An integer result: wrapped, or clamped under SAT to the range of its type (R121). -/
def modInt (sat : Bool) (t : ITy) (v : Int) : Word := BitVec.ofInt 32 (intRange 32 (t == .i32) sat v)

/-! ### Tags, masks and times (R107, R108, R417) -/

/-- The largest visibility time of the tags in a mask; none while one of them is in flight (R56, R107). -/
def visTime (tags : List Tag) (m : Mask) : Option Nat :=
  (tags.zipIdx).foldl (fun acc (t, i) =>
    if m.getLsbD i then
      match t, acc with
      | .timed v, some a => some (max a v)
      | .inflight .., _ => none
      | .free, a => a
      | _, none => none
    else acc) (some 0)
/-- Whether now() has reached the visibility time of a mask. -/
def visReached (tags : List Tag) (m : Mask) (now : Nat) : Bool :=
  match visTime tags m with
  | some t => t ≤ now
  | none => false
/-- The lowest free tag, or tag 7 joined (R107). -/
def pickTag (tags : List Tag) : Nat :=
  ((List.range 8).find? fun i => tags[i]? == some .free).getD 7
/-- Takes a tag: in flight with one more member. -/
def takeTag (tags : List Tag) (i : Nat) : List Tag :=
  modAt tags i fun t => match t with
    | .free => .inflight 1 0
    | .inflight n v => .inflight (n + 1) v
    | .timed v => .inflight 1 v
/-- A member's time arrives: the tag is timed once no member is in flight. -/
def landTag (tags : List Tag) (i time : Nat) : List Tag :=
  modAt tags i fun t => match t with
    | .inflight n v => if n ≤ 1 then .timed (max v time) else .inflight (n - 1) (max v time)
    | .timed v => .timed (max v time)
    | .free => .timed time
/-- A discarded member: its tag no longer waits for it. -/
def unTag (tags : List Tag) (i : Nat) : List Tag := landTag tags i 0
def tagMask (i : Nat) : Mask := BitVec.ofNat 8 (2 ^ i)

/-! ### The scoreboard and the counters (R104, R106) -/

def Warp.pending (w : Warp) (r : RegName) : Bool := w.sb.any (·.reg == r)
def Warp.setSb (w : Warp) (rs : List RegName) (pc : VAddr) : Warp := { w with sb := w.sb ++ rs.map fun r => ⟨r, pc⟩ }
def Warp.clearSb (w : Warp) (rs : List RegName) : Warp := { w with sb := w.sb.filter fun e => !rs.contains e.reg }
/-- The four counters. -/
inductive Counter | ld | st | xf | tl
  deriving DecidableEq, Repr
def Warp.counter (w : Warp) : Counter → Nat
  | .ld => w.ld | .st => w.st | .xf => w.xf | .tl => w.tl
def Warp.addCounter (w : Warp) (c : Counter) (up : Bool) : Warp :=
  let f (n : Nat) : Nat := if up then n + 1 else n - 1
  match c with
  | .ld => { w with ld := f w.ld }
  | .st => { w with st := f w.st }
  | .xf => { w with xf := f w.xf }
  | .tl => { w with tl := f w.tl }

/-! ### Applying register writes (R86, R108, R109) -/

def RegWrite.reg : RegWrite → RegName
  | .g n .. => .g n | .gSh n .. => .g n | .gShAll n _ => .g n | .p n .. => .p n | .a n _ => .a n
/-- One write: p7 is never written (R86). -/
def RegWrite.apply (t : Thread) : RegWrite → Thread
  | .g n v sh m => { t with g := modAt t.g n fun _ => ⟨v, sh, m⟩ }
  | .gSh n k v m => { t with g := modAt t.g n fun r => { r with sh := modAt r.sh k fun _ => v, mask := m } }
  | .gShAll n sh => { t with g := modAt t.g n fun r => { r with sh := sh } }
  | .p n v m => if n = 7 then t else { t with p := modAt t.p n fun _ => ⟨v, m⟩ }
  | .a n r => { t with a := modAt t.a n fun _ => r }
/-- Writes of several lanes. -/
def Warp.applyWrites (w : Warp) (ws : List (Nat × List RegWrite)) : Warp :=
  { w with threads := ws.foldl (fun ts (l, rs) => modAt ts l fun t => rs.foldl RegWrite.apply t) w.threads }

end Sys2Proof.Machine
end

