-- ==== Sys2Proof/Machine/Operands.lean ====
section
/-! DEFINITION. Every operand form: the registers an instruction names, the hints it accepts, its immediate, the faults
that its word meets in its launch, and the operand values of one lane. -/

namespace Sys2Proof.Machine

/-! ### Format slots (R191) -/

def LaunchCfg.slotWord (c : LaunchCfg) (f : SlotNum) : Nat := ((c.slots[f.toNat]?).map (·.toNat)).getD 0
/-- A slot as it is read: element code, scale kind, default rounding SR, SAT, integer accumulator, ISAT. -/
structure SlotCfg where
  code : Nat
  elem : Elem
  scale : Nat
  sr : Bool
  sat : Bool
  accInt : Bool
  isat : Bool
  deriving DecidableEq, Repr
/-- A slot that is set; an unset or malformed one is none. -/
def slotOf (w : Nat) : Option SlotCfg :=
  if w = 0 then none
  else (elemOf (w % 64)).map fun e => ⟨w % 64, e, bitsOf w 6 2, bitOf w 8, bitOf w 9, bitsOf w 10 3 == 1, bitOf w 13⟩
def LaunchCfg.slot (c : LaunchCfg) (f : SlotNum) : Option SlotCfg := slotOf (c.slotWord f)
/-- Registers that hold the elements of one g register (R73): none for formats wider than 16 bits. -/
def packCount (w : Nat) : Option Nat :=
  match w with
  | 16 => some 2 | 8 => some 4 | 6 => some 5 | 4 => some 8 | _ => none
def LaunchCfg.cvtCount (c : LaunchCfg) : LTy → Option Nat
  | .slot f => (c.slot f).bind fun s => packCount s.elem.width
  | _ => none

end Sys2Proof.Machine

namespace Sys2Proof

open Sys2Proof.Machine

/-! ### The registers an instruction names (R58, R70, R104) -/

def gGroup (n : GNum) (k : Nat) : List RegName := (List.range k).map fun i => .g (n.toNat + i)
def gOne (n : GNum) : List RegName := [.g n.toNat]
/-- Registers read. -/
def Instr.reads (c : LaunchCfg) : Instr → List RegName
  | .iadd _ a b .. | .isub _ a b .. | .imul _ a b .. | .imulhi _ a b .. | .imin _ a b .. | .imax _ a b .. => gOne a ++ gOne b
  | .imad d a b .. => gOne a ++ gOne b ++ gOne d
  | .iaddi _ a _ | .clz _ a _ | .popc _ a _ | .brev _ a _ | .iabs _ a _ => gOne a
  | .and_ _ a b _ | .or_ _ a b _ | .xor_ _ a b _ | .andn _ a b _ | .shl _ a b _ | .shr _ a b _ | .sar _ a b _
  | .rotl _ a b _ => gOne a ++ gOne b
  | .shli _ a _ | .shri _ a _ | .sari _ a _ | .bfxN32 _ a _ _ | .bfxI32 _ a _ _ => gOne a
  | .bfi d a _ _ => gOne a ++ gOne d
  | .icmp _ a b _ _ => gOne a ++ gOne b
  | .plop _ pa pb _ => [.p pa.toNat, .p pb.toNat]
  | .mov _ a _ | .movx _ a _ _ => gOne a
  | .movxw _ a b _ => gOne a ++ gOne b
  | .selP0P3 _ a b _ n => gOne a ++ gOne b ++ [.p n.toNat]
  | .selP4P7 _ a b _ n => gOne a ++ gOne b ++ [.p (4 + n.toNat)]
  | .fadd _ a b _ | .fsub _ a b _ | .fmul _ a b _ | .fmin _ a b _ | .fmax _ a b _ | .fdiv _ a b _ | .fscale _ a b _ =>
    gOne a ++ gOne b
  | .ffma d a b _ => gOne a ++ gOne b ++ gOne d
  | .fcmp _ a b _ => gOne a ++ gOne b
  | .frcp _ a _ | .frsq _ a _ | .fsqrt _ a _ | .fexp2 _ a _ | .flog2 _ a _ | .fsin _ a _ | .fcos _ a _ => gOne a
  | .dadd _ a b _ | .dmul _ a b _ => gGroup a 2 ++ gGroup b 2
  | .dfma d a b _ => gGroup a 2 ++ gGroup b 2 ++ gGroup d 2
  | .hadd2F16 _ a b _ | .hmul2F16 _ a b _ | .hadd2Bf16 _ a b _ | .hmul2Bf16 _ a b _ | .hmin2F16 _ a b _ | .hmax2F16 _ a b _
  | .hmin2Bf16 _ a b _ | .hmax2Bf16 _ a b _ => gOne a ++ gOne b
  | .hfma2F16 d a b _ | .hfma2Bf16 d a b _ => gOne a ++ gOne b ++ gOne d
  | .cvt _ a _ _ src => gGroup a src.group
  | .cvtn _ a _ dst _ => gGroup a ((c.cvtCount dst).getD 1)
  | .cvtw _ a _ _ _ => gOne a
  | .shflIdx _ a b _ | .shflUp _ a b _ | .shflDown _ a b _ | .shflXor _ a b _ => gOne a ++ gOne b
  | .voteAny _ p _ | .voteAll _ p _ | .voteBallot _ p _ => [.p p.toNat]
  | .lreduce _ a _ => gOne a
  | .anarrow n off len _ => .a n.toNat :: (gOne off ++ gOne len)
  | .aadv n g _ => .a n.toNat :: gOne g
  | .aget _ n _ _ | .aadvi n _ => [.a n.toNat]
  | .dget _ a _ _ => gOne a
  | .dset d a _ _ => gOne d ++ gOne a
  | .dseed d _ _ => gOne d
  | .ld _ n _ _ _ | .ldAcq _ n _ _ _ _ => [.a n.toNat]
  | .st g n _ sz _ | .stRel g n _ _ sz _ => .a n.toNat :: gGroup g sz.group
  | .ldx _ n x _ _ => .a n.toNat :: gOne x
  | .stx g n x sz _ => .a n.toNat :: (gOne x ++ gGroup g sz.group)
  | .lds _ a _ _ => gOne a
  | .sts d a sz _ => gOne a ++ gGroup d sz.group
  | .aldp _ m _ _ _ => [.a m.toNat]
  | .brp p _ _ | .call p _ _ | .exit p _ => [.p p.toNat]
  | .ret p _ => [.p p.toNat, .g 0]
  | .bra g _ _ | .brx g => gOne g
  | .barInit _ g | .barExpect _ g | .barWait _ g => gOne g
  | .tcfg _ g => gOne g
  | .tld _ n off pitch | .tst _ n off pitch => .a n.toNat :: (gOne off ++ gOne pitch)
  | .tlds _ a p | .tsts _ a p => gOne a ++ gOne p
  | .tmloop _ aA aB q => .a aA.toNat :: .a aB.toNat :: gGroup q 4
  | .trd _ _ i => gOne i
  | .twr _ g i => gOne g ++ gOne i
  | .xlr _ n _ => [.a n.toNat]
  | .xwalk _ g _ _ _ => gOne g
  | .jsub _ n _ => [.a n.toNat]
  | .gainadd i v | .gainset i v => gOne i ++ gOne v
  | .gainget _ i => gOne i
  | .resadd v => gOne v
  | .ordwait p | .ordpost p => gOne p
  | .atom g n _ _ b64 _ => .a n.toNat :: gGroup g (if b64 then 2 else 1)
  | .cas g n _ b64 _ => .a n.toNat :: gGroup g (if b64 then 4 else 2)
  | .waitcmp g n _ _ b64 => .a n.toNat :: gGroup g (if b64 then 2 else 1)
  | .smap n g => .a n.toNat :: gOne g
  | .sunmap n | .sflush n | .pref n _ _ _ => [.a n.toNat]
  | .tmark g _ => gOne g
  | .syswr _ g => gOne g
  | _ => []
/-- Registers written. -/
def Instr.writes (c : LaunchCfg) : Instr → List RegName
  | .iadd d .. | .isub d .. | .iaddi d .. | .imul d .. | .imulhi d .. | .imad d .. | .imin d .. | .imax d .. | .clz d ..
  | .popc d .. | .brev d .. | .iabs d .. | .and_ d .. | .or_ d .. | .xor_ d .. | .andn d .. | .shl d .. | .shr d ..
  | .sar d .. | .rotl d .. | .shli d .. | .shri d .. | .sari d .. | .bfxN32 d .. | .bfxI32 d .. | .bfi d .. | .mov d ..
  | .movx d .. | .selP0P3 d .. | .selP4P7 d .. | .movi d .. => gOne d
  | .icmp p .. | .plop p .. | .fcmp p .. => [.p p.toNat]
  | .fadd d .. | .fsub d .. | .fmul d .. | .ffma d .. | .fmin d .. | .fmax d .. | .frcp d .. | .frsq d .. | .fsqrt d ..
  | .fexp2 d .. | .flog2 d .. | .fsin d .. | .fcos d .. | .fdiv d .. | .fscale d .. => gOne d
  | .dadd d .. | .dmul d .. | .dfma d .. => gGroup d 2
  | .hadd2F16 d .. | .hmul2F16 d .. | .hfma2F16 d .. | .hadd2Bf16 d .. | .hmul2Bf16 d .. | .hfma2Bf16 d .. | .hmin2F16 d ..
  | .hmax2F16 d .. | .hmin2Bf16 d .. | .hmax2Bf16 d .. => gOne d
  | .cvt d _ _ dst _ => gGroup d dst.group
  | .cvtn d .. => gOne d
  | .cvtw d _ _ _ src => gGroup d ((c.cvtCount src).getD 1)
  | .shflIdx d .. | .shflUp d .. | .shflDown d .. | .shflXor d .. | .voteBallot d .. | .lreduce d .. => gOne d
  | .voteAny p .. | .voteAll p .. => [.p p.toNat]
  | .ader n _ | .anarrow n .. | .aadv n .. | .aadvi n _ => [.a n.toNat]
  | .aget d .. | .dget d .. | .dset d .. | .dseed d .. | .sread d _ | .rand d => gOne d
  | .ld g _ _ sz _ | .ldx g _ _ sz _ | .ldAcq g _ _ _ sz _ | .lds g _ sz _ => gGroup g sz.group
  | .aldp n .. => [.a n.toNat]
  | .call .. => [.g 0]
  | .trd d .. | .tstat d .. | .xstat d .. => gOne d
  | .jsub g .. => gOne g
  | .gainget d _ | .resget d _ => gOne d
  | .atom g _ _ _ b64 _ | .cas g _ _ b64 _ | .waitcmp g _ _ _ b64 => gGroup g (if b64 then 2 else 1)
  | .sysrd d _ => gOne d
  | _ => []
/-- The g register named by UNTAINT alone is checked and never waited for (R155). -/
def Instr.named (c : LaunchCfg) (i : Instr) : List RegName :=
  i.reads c ++ i.writes c ++ match i with | .untaint d => gOne d | _ => []
/-- The first named g register at or beyond GREGS, in operand order (R58, assumption 18). -/
def Instr.regOver (c : LaunchCfg) (i : Instr) : Option Nat :=
  (i.named c).findSome? fun r => match r with | .g n => if n ≥ c.gregs then some n else none | _ => none
/-- Tiles named (R210). A TSTAT of the words of MXSTAT, whose tile field is zero, names m0 (assumption 109). -/
def Instr.tiles : Instr → List Nat
  | .tcfg m _ | .tld m .. | .tst m .. | .tlds m .. | .tsts m .. | .tmloop m .. | .tzero m | .teval m | .tdrop m
  | .trd _ m _ | .twr m .. | .tstat _ m _ => [m.toNat]
  | .tmma d a b .. | .tadd d a b .. | .temul d a b .. | .tscl d a b .. => [d.toNat, a.toNat, b.toNat]
  | .tsclPow d a .. | .ttr d a | .tcvt d a .. | .tact d a .. | .trsum d a .. => [d.toNat, a.toNat]
  | _ => []
/-- Format slots named. -/
def Instr.slots : Instr → List SlotNum
  | .tmma _ _ _ f .. | .tadd _ _ _ f .. | .temul _ _ _ f .. | .tscl _ _ _ f .. | .tsclPow _ _ f .. | .tcvt _ _ f ..
  | .tact _ _ f .. | .trsum _ _ f .. => [f]
  | .cvtn _ _ _ (.slot f) _ | .cvtw _ _ _ _ (.slot f) => [f]
  | _ => []
/-- Barrier names. -/
def Instr.bars : Instr → List Nat
  | .barInit b _ | .barArrive b | .barExpect b _ | .barWait b _ | .xcp _ _ b _ _ | .xred _ _ _ b _ | .xwalk _ _ b _ _
  | .xstat _ b _ => [b.toNat]
  | _ => []
/-- Layout handles named in the word. -/
def Instr.handles : Instr → List Nat
  | .xlr l _ _ => [l.toNat]
  | .xcp d s .. => [d.toNat, s.toNat]
  | .xred d f n .. => d.toNat :: (List.range (n.toNat + 2)).map (f.toNat + ·)
  | .xwalk sp .. => [sp.toNat]
  | _ => []

/-! ### ILLEGAL of the word in its launch (R73, R148, R157, R172, R192, R303, R461) -/

def Instr.illegalIn (c : LaunchCfg) (i : Instr) : Bool :=
  i.slots.any (fun f => (c.slot f).isNone) ||
  i.bars.any (fun b => b ≥ c.bars) ||
  i.handles.any (fun l => l ≥ c.lhandles) ||
  match i with
  | .cvtn _ a _ dst _ => (match c.cvtCount dst with | some n => a.toNat + n > 128 | none => true)
  | .cvtw d _ _ _ src => (match c.cvtCount src with | some n => d.toNat + n > 128 | none => true)
  | .dget _ _ k _ | .dset _ _ k _ | .dseed _ k _ => k.toNat ≥ c.d
  | .region k => k.toNat ≥ c.regions.length
  | .sysrd _ sel => sel.toNat == 0x11
  | .syswr sel _ => sel.toNat != 0x8
  | _ => false

/-! ### Hints (R63, R65, R120) -/

def Instr.isFp32 : Instr → Bool
  | .fadd .. | .fsub .. | .fmul .. | .ffma .. | .fmin .. | .fmax .. | .frcp .. | .frsq .. | .fsqrt .. | .fexp2 .. | .flog2 ..
  | .fsin .. | .fcos .. | .fdiv .. | .fscale .. => true
  | _ => false
def Instr.isFp64 : Instr → Bool
  | .dadd .. | .dmul .. | .dfma .. => true
  | _ => false
def Instr.isPacked : Instr → Bool
  | .hadd2F16 .. | .hmul2F16 .. | .hfma2F16 .. | .hadd2Bf16 .. | .hmul2Bf16 .. | .hfma2Bf16 .. | .hmin2F16 .. | .hmax2F16 ..
  | .hmin2Bf16 .. | .hmax2Bf16 .. => true
  | _ => false
def Instr.isCvt : Instr → Bool
  | .cvt .. | .cvtn .. | .cvtw .. => true
  | _ => false
/-- The instructions that move or combine tangents with values, whatever their hints (R116). -/
def Instr.carries : Instr → Bool
  | .mov .. | .movx .. | .movxw .. | .selP0P3 .. | .selP4P7 .. | .shflIdx .. | .shflUp .. | .shflDown .. | .shflXor .. => true
  | .lreduce _ _ op => op == .fadd || op == .fmin || op == .fmax
  | _ => false
/-- The integer instructions of majors 0x01 to 0x04. -/
def Instr.isSatInt : Instr → Bool
  | .iadd .. | .isub .. | .iaddi .. | .imul .. | .imulhi .. | .imad .. => true
  | _ => false
def Instr.takesImm : Instr → Bool
  | .iaddi .. | .movi .. | .aadvi .. | .bra .. | .ld .. | .st .. | .aldp .. | .pref .. | .xlr .. | .jsub .. => true
  | _ => false
/-- TAN on a lane instruction (R65). -/
def Instr.takesTanLane : Instr → Bool
  | .iadd .. | .isub .. | .iaddi .. | .imul .. | .imulhi .. | .imad .. | .imin .. | .imax .. | .clz .. | .popc .. | .brev ..
  | .iabs .. | .and_ .. | .or_ .. | .xor_ .. | .andn .. | .shl .. | .shr .. | .sar .. | .rotl .. | .shli .. | .shri ..
  | .sari .. | .bfxN32 .. | .bfxI32 .. | .bfi .. | .mov .. | .movx .. | .movxw .. | .selP0P3 .. | .selP4P7 .. | .movi ..
  | .shflIdx .. | .shflUp .. | .shflDown .. | .shflXor .. | .ld .. | .st .. | .ldx .. | .stx .. => true
  | .atom _ _ _ op _ _ => op == .fadd32 || op == .fadd64
  | i => i.isFp32 || i.isFp64 || i.isPacked || i.isCvt
/-- TAN on a tile instruction (R65). -/
def Instr.takesTanTile : Instr → Bool
  | .tld .. | .tst .. | .tmma .. | .tmloop .. | .tadd .. | .temul .. | .tscl .. | .tsclPow .. | .ttr .. | .tcvt .. | .tact ..
  | .trsum .. => true
  | _ => false
/-- Every field of a MOD word is one the instruction takes. -/
def Instr.takesMod (i : Instr) (m : ModHint) : Bool :=
  let fp := i.isFp32 || i.isFp64 || i.isPacked
  (!m.sat || fp || i.isSatInt || i.isCvt) &&
  (!(m.clamp || m.neg || m.abs || m.scl != 0) || fp) &&
  (match m.ovr with
   | none => true
   | some .f16 | some .bf16 => i.isFp32
   | some .n32 => (match i with | .iaddi .. => true | _ => false)
   | _ => false)
/-- The word of a hint. -/
def immWord (p : BitVec 25) : Nat := (encode (.imm p)).getD 0
def modWord (m : ModHint) : Nat := (encode (.mod_ m.sat m.clamp m.neg m.abs m.scl m.ovr)).getD 0
def tanWord : Nat := (encode .tan).getD 0
/-- TAN, where the instruction does not take it in its launch. -/
def Instr.badTan (c : LaunchCfg) (i : Instr) (h : Hints) : Option Nat :=
  if h.tan && !((i.takesTanLane && c.d > 0) || (i.takesTanTile && c.tt > 0)) then some tanWord else none
/-- MOD, then TAN. -/
def Instr.badMod (c : LaunchCfg) (i : Instr) (h : Hints) : Option Nat :=
  match h.mod with
  | some m => if i.takesMod m then i.badTan c h else some (modWord m)
  | none => i.badTan c h
/-- The first pending hint that the instruction does not take, as its word; a hint word after one of its own or a later
kind is itself refused (R63, R65). -/
def Instr.badHint (c : LaunchCfg) (i : Instr) (h : Hints) : Option Nat :=
  match i with
  | .imm p => if h.imm.isSome || h.mod.isSome || h.tan then some (immWord p) else none
  | .mod_ a b d e f g => if h.mod.isSome || h.tan then some (modWord ⟨a, b, d, e, f, g⟩) else none
  | .tan => if h.tan then some tanWord else none
  | _ =>
    match h.imm with
    | some p => if i.takesImm then i.badMod c h else some (immWord p)
    | none => i.badMod c h

/-! ### The operand latch and the banks (R101, R102; assumption 97) -/

/-- The hold field of an instruction that takes one (R102). -/
def Instr.hold : Instr → Nat
  | .iadd _ _ _ h _ | .isub _ _ _ h _ | .imul _ _ _ h _ | .imulhi _ _ _ h _ | .imad _ _ _ h _ | .imin _ _ _ h _
  | .imax _ _ _ h _ | .clz _ _ h | .popc _ _ h | .brev _ _ h | .iabs _ _ h | .and_ _ _ _ h | .or_ _ _ _ h | .xor_ _ _ _ h
  | .andn _ _ _ h | .shl _ _ _ h | .shr _ _ _ h | .sar _ _ _ h | .rotl _ _ _ h | .mov _ _ h | .movx _ _ _ h | .movxw _ _ _ h
  | .selP0P3 _ _ _ h _ | .selP4P7 _ _ _ h _ | .fadd _ _ _ h | .fsub _ _ _ h | .fmul _ _ _ h | .ffma _ _ _ h | .fmin _ _ _ h
  | .fmax _ _ _ h | .frcp _ _ h | .frsq _ _ h | .fsqrt _ _ h | .fexp2 _ _ h | .flog2 _ _ h | .fsin _ _ h | .fcos _ _ h
  | .fdiv _ _ _ h | .fscale _ _ _ h | .dadd _ _ _ h | .dmul _ _ _ h | .dfma _ _ _ h | .hadd2F16 _ _ _ h | .hmul2F16 _ _ _ h
  | .hfma2F16 _ _ _ h | .hadd2Bf16 _ _ _ h | .hmul2Bf16 _ _ _ h | .hfma2Bf16 _ _ _ h | .hmin2F16 _ _ _ h | .hmax2F16 _ _ _ h
  | .hmin2Bf16 _ _ _ h | .hmax2Bf16 _ _ _ h | .shflIdx _ _ _ h | .shflUp _ _ _ h | .shflDown _ _ _ h | .shflXor _ _ _ h
  | .voteAny _ _ h | .voteAll _ _ h | .voteBallot _ _ h | .anarrow _ _ _ h | .aadv _ _ h | .aget _ _ _ h | .dget _ _ _ h
  | .dset _ _ _ h | .dseed _ _ h => h.toNat
  | _ => 0
def gNumbers (rs : List RegName) : List Nat := rs.filterMap fun r => match r with | .g n => some n | _ => none
/-- The g registers of source a and source b of an instruction that takes a hold, as far as its form has them (R102). -/
def Instr.sources : Instr → List Nat
  | .iadd _ a b _ _ | .isub _ a b _ _ | .imul _ a b _ _ | .imulhi _ a b _ _ | .imad _ a b _ _ | .imin _ a b _ _
  | .imax _ a b _ _ | .and_ _ a b _ | .or_ _ a b _ | .xor_ _ a b _ | .andn _ a b _ | .shl _ a b _ | .shr _ a b _
  | .sar _ a b _ | .rotl _ a b _ | .movxw _ a b _ | .selP0P3 _ a b _ _ | .selP4P7 _ a b _ _ | .fadd _ a b _ | .fsub _ a b _
  | .fmul _ a b _ | .ffma _ a b _ | .fmin _ a b _ | .fmax _ a b _ | .fdiv _ a b _ | .fscale _ a b _ | .dadd _ a b _
  | .dmul _ a b _ | .dfma _ a b _ | .hadd2F16 _ a b _ | .hmul2F16 _ a b _ | .hfma2F16 _ a b _ | .hadd2Bf16 _ a b _
  | .hmul2Bf16 _ a b _ | .hfma2Bf16 _ a b _ | .hmin2F16 _ a b _ | .hmax2F16 _ a b _ | .hmin2Bf16 _ a b _ | .hmax2Bf16 _ a b _
  | .shflIdx _ a b _ | .shflUp _ a b _ | .shflDown _ a b _ | .shflXor _ a b _ | .anarrow _ a b _ => [a.toNat, b.toNat]
  | .clz _ a _ | .popc _ a _ | .brev _ a _ | .iabs _ a _ | .mov _ a _ | .movx _ a _ _ | .frcp _ a _ | .frsq _ a _ | .fsqrt _ a _
  | .fexp2 _ a _ | .flog2 _ a _ | .fsin _ a _ | .fcos _ a _ | .aadv _ a _ | .dget _ a _ _ | .dset _ a _ _ => [a.toNat]
  | _ => []
/-- The register whose value the instruction leaves in the operand latch: of source a, of source b, or of d; none when its form has
no such source or destination, or replaces the value it has read. -/
def Instr.latches (c : LaunchCfg) (i : Instr) : Option Nat :=
  let word := (encode i).getD 0
  let ws := gNumbers (i.writes c)
  let read (k : Nat) : Option Nat := (i.sources[k]?).filter (!ws.contains ·)
  match i.hold with
  | 1 => read 0
  | 2 => read 1
  | 3 => if ws.contains (bitsOf word 18 7) then some (bitsOf word 18 7) else none
  | _ => none
/-- The operand latch after an instruction: three entries, each for the next two instructions of the bundle. -/
def Instr.relatch (c : LaunchCfg) (i : Instr) (latch : List (Nat × Nat)) : List (Nat × Nat) :=
  let ws := gNumbers (i.writes c)
  let kept := latch.filterMap fun (n, k) => if k ≤ 1 || ws.contains n then none else some (n, k - 1)
  let new := kept ++ ((i.latches c).map fun n => (n, 2)).toList
  new.drop (new.length - 3)
/-- The added bank clks: the reads beyond the first in one of the four banks; latched sources do not count. -/
def Instr.bankClks (c : LaunchCfg) (i : Instr) (latch : List (Nat × Nat)) : Nat :=
  let srcs := (gNumbers (i.reads c)).filter fun n => !latch.any (·.1 == n)
  maxOf ((List.range 4).map fun k => (srcs.filter (· % 4 == k)).length) - 1
/-- A hint word. -/
def Instr.isHint : Instr → Bool
  | .imm _ | .mod_ .. | .tan => true
  | _ => false

end Sys2Proof

namespace Sys2Proof.Machine

/-! ### Immediates (R40, R65) -/

/-- The immediate of a `w`-bit field, sign-extended from its own top bit or, with IMM, from the top of the wider value. -/
def immValue {w : Nat} (h : Hints) (f : BitVec w) : Int :=
  match h.imm with
  | none => f.toInt
  | some p => (BitVec.ofNat (25 + w) (p.toNat * 2 ^ w + f.toNat)).toInt
/-- The zero-extended immediate of IADDI under OVR .N32 (R120). -/
def immNat {w : Nat} (h : Hints) (f : BitVec w) : Nat :=
  match h.imm with
  | none => f.toNat
  | some p => p.toNat * 2 ^ w + f.toNat

/-! ### One lane's operands -/

/-- What one lane's meaning reads. -/
structure LaneCtx where
  cfg : LaunchCfg
  windows : List Window
  unit : Placed
  warp : Warp
  wi : Nat
  wgi : Nat
  lane : Nat
  th : Thread
  hints : Hints
  now : Nat
  deriving DecidableEq, Repr
/-- What one lane's meaning gives. -/
structure LaneOut where
  writes : List RegWrite
  draws : Nat
  /-- a clock or retired-count read latches its high word (R149): false clock, true count -/
  latch : Option (Bool × Word)
  /-- a fault of this lane: code and details -/
  fault : Option (Nat × Nat × Nat)
  /-- further registers the lane reads or writes that must be clear on the scoreboard (R177) -/
  waits : List RegName
  deriving DecidableEq, Repr
def LaneOut.ok (ws : List RegWrite) : LaneOut := ⟨ws, 0, none, none, []⟩
def LaneOut.bad (code det0 det1 : Nat) : LaneOut := ⟨[], 0, none, some (code, det0, det1), []⟩

def Thread.gr (t : Thread) (n : Nat) : GReg := (t.g[n]?).getD ⟨0, [], 0⟩
def Thread.pr (t : Thread) (n : Nat) : PReg := if n = 7 then ⟨true, 0⟩ else (t.p[n]?).getD ⟨false, 0⟩
def Thread.ar (t : Thread) (n : Nat) : AReg := (t.a[n]?).getD ⟨0, 0, 0, 0, 0⟩
/-- The value of g[n]. -/
def LaneCtx.g (c : LaneCtx) (n : GNum) : Word := (c.th.gr n.toNat).val
def LaneCtx.gm (c : LaneCtx) (n : GNum) : Mask := (c.th.gr n.toNat).mask
/-- The tangent g[n].dk, as its bits. -/
def LaneCtx.sh (c : LaneCtx) (n : GNum) (k : Nat) : Word := ((c.th.gr n.toNat).sh[k]?).getD 0
/-- A pair's 64 bits and mask (R70). -/
def Thread.pair (t : Thread) (n : Nat) : Nat := (t.gr n).val.toNat + 2 ^ 32 * (t.gr (n + 1)).val.toNat
def Thread.pairSh (t : Thread) (n k : Nat) : Nat :=
  (((t.gr n).sh[k]?).getD 0).toNat + 2 ^ 32 * (((t.gr (n + 1)).sh[k]?).getD 0).toNat
/-- The union of the masks of registers. -/
def Thread.maskOf (t : Thread) (rs : List RegName) : Mask :=
  rs.foldl (fun m r => m ||| match r with
    | .g n => (t.gr n).mask | .p n => (t.pr n).mask | .a n => (t.ar n).mask) 0
/-- Zero shadows, D of them (R109). -/
def zeroSh (c : LaunchCfg) : List Word := List.replicate c.d 0
/-- Whether the instruction computes tangents (R116, R117). -/
def LaneCtx.dual (c : LaneCtx) : Bool := c.cfg.d > 0 && (c.hints.tan || c.cfg.dual)
def LaneCtx.mod (c : LaneCtx) : ModHint := c.hints.mod.getD ModHint.none
/-- Threads of the grid: virtual workgroup index (g2) and thread index (g1) of a lane (R90). -/
def LaneCtx.g2 (c : LaneCtx) : Nat := c.unit.idx * c.cfg.csize + c.wgi
def LaneCtx.g1 (c : LaneCtx) : Nat := 32 * c.wi + c.lane
/-- Draw number `k` after the lane's count. -/
def LaneCtx.draw (c : LaneCtx) (k : Nat) : Nat :=
  philox c.cfg.seed.toNat c.unit.launchid.toNat c.g2 c.g1 ((c.th.draws.toNat + k) % 2 ^ 34)
/-- The rounding of a CVT field; SR takes the high 16 bits of a draw (R137, R194). -/
def rmode (r : Rnd) (draw : Nat) : RMode :=
  match r with
  | .rne => .rne | .rz => .rz | .ru => .ru | .rd => .rd | .sr => .sr (draw / 2 ^ 16 % 2 ^ 16)

end Sys2Proof.Machine
end

