-- ==== Sys2Proof/Machine/Issue.lean ====
section
/-! DEFINITION. What every issue shares: the threads that issue, the fault order of R85, the waits, retirement, leaving and
filing bundles, lane values and their delayed writes, and warp-collective execution. -/

namespace Sys2Proof

open Sys2Proof.Machine

/-- The registers whose scoreboard entries an issue waits for (R104). -/
def Instr.waitRegs (c : LaunchCfg) (i : Instr) : List RegName := i.reads c ++ i.writes c
/-- Tile instructions, and a REGION that joins an arrival set (R99). -/
def Instr.isTile : Instr → Bool
  | .region _ => true
  | i => i.tiles != [] || (match i with | .tstat .. => true | _ => false)

end Sys2Proof

namespace Sys2Proof.Machine

/-- What a meaning gives once the shared checks have passed: a new state, a wait, or a fault with its lanes. -/
inductive Res
  | done (s : State)
  | wait
  /-- the issue still waits, and has asked for what it waits for -/
  | hold (s : State)
  | bad (code : Nat) (hits : List Hit)
  deriving DecidableEq, Repr

/-- The threads of one issue with their common PC and hints: for each warp its index, itself and its lanes. -/
structure Bundle where
  u : Placed
  wg : Nat
  g : Workgroup
  pc : VAddr
  hints : Hints
  parts : List (Nat × Warp × List Nat)
  deriving DecidableEq, Repr

def Hints.none : Hints := ⟨Option.none, Option.none, false⟩
/-- The bundle of given lanes of a placed unit's workgroup. -/
def State.bundleOf (s : State) (unit wg : Nat) (lanes : List (Nat × List Nat)) : Option Bundle :=
  match s.unit? unit with
  | none => none
  | some u =>
    match u.wgs[wg]? with
    | none => none
    | some g =>
      let parts := lanes.filterMap fun (wi, ls) => (g.warps[wi]?).map fun w => (wi, w, ls)
      match parts with
      | (_, w, l :: _) :: _ => (w.threads[l]?).map fun t => ⟨u, wg, g, t.pc, t.hints, parts⟩
      | _ => none
/-- The bundle that issues. -/
def State.bundle? (s : State) : Option Bundle := s.bundleOf s.issue.unit s.issue.wg s.issue.parts
def Bundle.wid (b : Bundle) (wi : Nat) : WarpId := ⟨b.u.id, b.wg, wi⟩
/-- Every lane of the issue, with its warp and thread. -/
def Bundle.lanes (b : Bundle) : List (Nat × Warp × Nat × Thread) :=
  b.parts.flatMap fun (wi, w, ls) => ls.filterMap fun l => (w.threads[l]?).map fun t => (wi, w, l, t)
def Bundle.hits (b : Bundle) (det0 det1 : Nat) : List Hit := b.parts.map fun (wi, _, ls) => ⟨wi, ls, det0, det1, []⟩
/-- The same for an address fault of a whole warp, whose every lane has the address for its value (R161, R498). -/
def Bundle.addrHits (b : Bundle) (a : Nat) : List Hit := b.parts.map fun (wi, _, ls) => ⟨wi, ls, a, 0, ls.map fun l => (l, a)⟩
/-- A stopped thread goes on to the end of an instruction whose hints it has read, and for a step (R66, R465, R466). -/
def Thread.halted (t : Thread) : Bool := t.stopped && !t.step && t.hints == Hints.none
/-- A thread that can issue: live, not stopped, not inside an instruction, not in its warp's arrival set (R95, R100). -/
def threadIdle (w : Warp) (l : Nat) (t : Thread) : Bool :=
  !t.exited && !t.halted && t.busy.isNone && !((w.arrival.map fun a => a.lanes.contains l).getD false)
/-- Every lane idle, at the common PC with the common hints, in a running unit. -/
def Bundle.idle (b : Bundle) : Bool :=
  b.u.state == .running && b.lanes.all fun (_, w, l, t) => threadIdle w l t && t.pc == b.pc && t.hints == b.hints

/-! ### The faults and waits before an instruction's own (R85, R95, R104, R158, R391) -/

/-- The count that the next instruction of a lane would reach in its deferral (R158). -/
def deferOver (t : Thread) : Bool := (t.defer.map fun d => decide (d.count ≥ 4096)).getD false
def Bundle.deferHits (b : Bundle) : List Hit :=
  b.parts.filterMap fun (wi, w, ls) =>
    let late := ls.filter fun l => ((w.threads[l]?).map deferOver).getD false
    match late with
    | [] => none
    | l :: _ => some ⟨wi, late, ((((w.threads[l]?).bind (·.defer)).map (·.pc.toNat)).getD 0), 0, []⟩
def Bundle.stallHits (b : Bundle) : List Hit :=
  if b.u.cfg.det = 0 then []
  else b.parts.filterMap fun (wi, w, ls) => if w.stall + 1 ≥ 2 ^ 24 then some ⟨wi, ls, w.retired.toNat, 0, []⟩ else none
/-- The first fault in the order of R85, then IDEM_DEFER and ORDER_STALL. -/
def Bundle.early (b : Bundle) (i : Instr) : Option (Nat × List Hit) :=
  let c := b.u.cfg
  let word := (encode i).getD 0
  if i.illegalIn c then some (0x01, b.hits word 0)
  else
    match i.badHint c b.hints with
    | some h => some (0x02, b.hits h word)
    | none =>
      match i.regOver c with
      | some r => some (0x03, b.hits r 0)
      | none =>
        match i.tiles.find? (· ≥ c.tiles) with
        | some m => some (0x0A, b.hits m 0)
        | none =>
          if b.deferHits != [] then some (0x06, b.deferHits)
          else if b.stallHits != [] then some (0x15, b.stallHits)
          else none
/-- A register of the list is pending in a warp of the issue (R104). -/
def Bundle.pending (b : Bundle) (rs : List RegName) : Bool := b.parts.any fun (_, w, _) => rs.any w.pending

/-! ### Bins after an issue (R92 to R95, R479) -/

/-- Whether a slot holds a thread of the issue. -/
def slotHas (b : Bundle) (sl : Slot) : Bool :=
  sl.unit == b.u.id && sl.wg == b.wg && sl.entries.any fun (w, l) => b.parts.any fun (wi, _, ls) => wi == w && ls.contains l
def State.modSlots (s : State) (b : Bundle) (f : Slot → Option Slot) : State :=
  s.modCore b.g.core fun c => { c with ports := c.ports.map fun p => { p with
    slots := p.slots.map fun sl => sl.bind fun x => if slotHas b x then f x else some x } }
/-- The bundle goes on to the next instruction. -/
def State.stay (s : State) (b : Bundle) : State := s.modSlots b fun x => some { x with pc := b.pc + 4, issued := some s.clk }
/-- Takes the issue's threads out of their slots; a slot left with none is empty. -/
def State.leave (s : State) (b : Bundle) : State :=
  s.modSlots b fun x =>
    let es := x.entries.filter fun (w, l) => !(b.parts.any fun (wi, _, ls) => wi == w && ls.contains l)
    if es = [] then none else some { x with entries := es }
/-- Threads live on a port for each lane column: whether a bin of a workgroup is full (R95). -/
def Workgroup.liveAt (g : Workgroup) (port l : Nat) : Bool :=
  g.warps.any fun w => w.slot % 2 == port && ((w.threads[l]?).map (!·.exited)).getD false
def State.binFull (s : State) (port : Nat) (x : Slot) : Bool :=
  match s.wg? x.unit x.wg with
  | some g => (List.range 32).all fun l => x.entries.any (·.2 == l) || !g.liveAt port l
  | none => false
/-- Forms a bin that is full. -/
def State.formFull (s : State) (port : Nat) (x : Slot) : Slot :=
  if !x.formed && !x.noFull && s.binFull port x then { x with formed := true } else x
/-- A slot that a thread joins: the lowest bin of its key with its lane column free, else the lowest empty slot (R94). In
deterministic mode, where only the owner of a turn issues, a bin holds threads of one warp (`lone`; assumption 63). Threads with
different hints pending form no bundle (`same`; R64). -/
def joinAt (lone : Bool) (same : Nat × Nat → Bool) (f : Filing) (pc : VAddr) (slots : List (Option Slot)) : Option Nat :=
  let fits (x : Option Slot) : Bool := match x with
    | some b => !b.formed && b.unit == f.unit && b.wg == f.wg && b.pc == pc && !b.entries.any (·.2 == f.lane) &&
        (!lone || b.entries.all (·.1 == f.warp)) && b.entries.all same
    | none => false
  match slots.findIdx? fits with
  | some i => some i
  | none => slots.findIdx? (·.isNone)
def joinSlot (f : Filing) (pc : VAddr) (clk : Nat) : Option Slot → Slot
  | some b => { b with entries := b.entries ++ [(f.warp, f.lane)], noFull := b.noFull || f.noFull, ready := max b.ready f.ready }
  | none => ⟨f.unit, f.wg, pc, [(f.warp, f.lane)], clk, false, false, f.noFull, none, f.ready, []⟩
/-- Files one thread at its port: into a slot, or, with none to take, into the filing queue (R94). -/
def State.fileNow (s : State) (core port : Nat) (f : Filing) : State :=
  let lone := ((s.unit? f.unit).map (·.cfg.det != 0)).getD false
  match s.thread? ⟨f.unit, f.wg, f.warp⟩ f.lane, (s.core core).ports[port]? with
  | some t, some p =>
    let same (e : Nat × Nat) : Bool := ((s.thread? ⟨f.unit, f.wg, e.1⟩ e.2).map (·.hints == t.hints)).getD true
    s.modCore core fun c => { c with ports := modAt c.ports port fun q => match joinAt lone same f t.pc p.slots with
      | some i => { q with slots := modAt q.slots i fun x => some (s.formFull port (joinSlot f t.pc s.clk x)) }
      | none => { q with queue := q.queue ++ [{ f with waiting := true }] } }
  | _, _ => s
/-- The threads of a workgroup that reach a filing point are filed by ascending warp slot and lane from clk `due` on: now, when
that is now (R94, R479). `ready` is the clk from which their bundles may issue. -/
def State.file (s : State) (u wg core : Nat) (ts : List (Nat × Nat)) (due ready : Nat) (noFull : Bool) : State :=
  let slot (w : Nat) : Nat := ((s.warp? ⟨u, wg, w⟩).map (·.slot)).getD 0
  (sortKey (fun (w, l) => 32 * slot w + l) ts).foldl (fun s (w, l) =>
    let f : Filing := ⟨u, wg, w, l, due, noFull, ready, false⟩
    if due ≤ s.clk then s.fileNow core (slot w % 2) f
    else s.modCore core fun c => { c with ports := modAt c.ports (slot w % 2) fun p => { p with queue := p.queue ++ [f] } }) s
/-- The bundle dissolves: every thread of the slots it filled is filed by its next PC from `due` on (R93). -/
def State.dissolve (s : State) (b : Bundle) (due : Nat) (noFull : Bool) : State :=
  let all := ((s.core b.g.core).ports.flatMap fun p => p.slots.flatMap fun sl =>
    match sl with
    | some x => if slotHas b x then x.entries else []
    | none => [])
  let mine := b.parts.flatMap fun (wi, _, ls) => ls.map fun l => (wi, l)
  let rest := all.filter fun e => !mine.contains e
  let live := (mine ++ rest).filter fun (w, l) => ((s.thread? (b.wid w) l).map (!·.exited)).getD false
  (s.modSlots b fun _ => none).file b.u.id b.wg b.g.core live due due noFull

/-! ### Retirement (R63, R88, R156, R158) -/

/-- A thread past its instruction: next PC, hints gone, one more instruction in its deferral, or a deferral opened by an
instruction that ends a region (assumption 19). -/
def retireThread (pc : VAddr) (ends : Bool) (t : Thread) : Thread :=
  { t with
    pc := pc + 4
    hints := Hints.none
    fenceAt := none
    granted := false
    barSeen := false
    barWait := none
    stepDone := t.step
    defer := match t.defer with
      | some d => some { d with count := d.count + 1 }
      | none => if ends then some ⟨pc, 0⟩ else none }
/-- One issue counts as one retired instruction of each of its warps (R387, assumption 20). -/
def retireWarp (pc : VAddr) (ends : Bool) (f : Nat → Thread → Thread) (ls : List Nat) (w : Warp) : Warp :=
  { w with
    threads := ls.foldl (fun ts l => modAt ts l fun t => f l (retireThread pc ends t)) w.threads
    retired := w.retired + 1
    stall := w.stall + 1 }
def State.countTurn (s : State) (b : Bundle) : State :=
  if b.u.cfg.det = 0 then s else s.modUnit b.u.id fun u => { u with turnCount := u.turnCount + 1 }
/-- Retires the issue: `f` adds an instruction's own change to each thread, by warp and lane. -/
def State.retire (s : State) (b : Bundle) (ends : Bool) (f : Nat → Nat → Thread → Thread) : State :=
  (b.parts.foldl (fun s (wi, _, ls) => s.modWarp (b.wid wi) (retireWarp b.pc ends (f wi) ls)) s).countTurn b
def sameThread (_ _ : Nat) (t : Thread) : Thread := t

/-! ### One issue -/

/-- The whole of an issue that is not warp-collective: the checks of R85, the scoreboard, then the meaning. A wait leaves
the state as it is (assumption 5); a fault is taken. -/
def issueOn (i : Instr) (waits : List RegName) (body : Bundle → State → Res) (s : State) : Host.Outcome State Fault Refusal :=
  match s.bundle? with
  | none => .next s
  | some b =>
    if !b.idle then .next s
    else
      match b.early i with
      | some (code, hits) => .next (s.takeFault b.u.id b.wg code true b.pc hits)
      | none =>
        if b.pending waits then .next s
        else
          match body b s with
          | .done t => .next t
          | .wait => .next s
          | .hold t => .next t
          | .bad code hits => .next (s.takeFault b.u.id b.wg code true b.pc hits)
def State.issueCfg (s : State) : Option LaunchCfg := (s.unit? s.issue.unit).map (·.cfg)
def issueStd (i : Instr) (body : Bundle → State → Res) (s : State) : Host.Outcome State Fault Refusal :=
  issueOn i ((s.issueCfg.map (Instr.waitRegs · i)).getD []) body s

/-! ### Lane values: computed at issue, written at their latency (R104, R105, R114) -/

def Bundle.laneCtx (b : Bundle) (s : State) (wi : Nat) (w : Warp) (l : Nat) (t : Thread) : LaneCtx :=
  ⟨b.u.cfg, b.u.windows, b.u, w, wi, b.wg, l, t, b.hints, s.now b.g.core⟩
/-- The outcome of each lane of one warp. -/
def Bundle.outs (b : Bundle) (s : State) (f : LaneCtx → LaneOut) (wi : Nat) (w : Warp) (ls : List Nat) : List (Nat × LaneOut) :=
  ls.filterMap fun l => (w.threads[l]?).map fun t => (l, f (b.laneCtx s wi w l t))
/-- The faults of lanes: lane, code and details. -/
def laneFaults (os : List (Nat × LaneOut)) : List (Nat × Nat × Nat × Nat) :=
  os.filterMap fun x => x.2.fault.map fun y => (x.1, y)
/-- One warp's hit: its first fault's code and details, and every lane with that code, each with its own detail. -/
def firstHit (wi : Nat) : List (Nat × Nat × Nat × Nat) → Option (Nat × Hit)
  | [] => none
  | (l, c, d0, d1) :: rest => 
    let same := rest.filter (·.2.1 == c)
    some (c, ⟨wi, l :: same.map (·.1), d0, d1, (l, d0) :: same.map fun x => (x.1, x.2.2.1)⟩)
/-- Only the first code is raised (R85). -/
def firstCode : List (Nat × Hit) → Option (Nat × List Hit)
  | [] => none
  | (c, h) :: rest => some (c, h :: (rest.filter (·.1 == c)).map (·.2))
/-- The faulting lanes of each warp; the details are the lowest faulting lane's. -/
def Bundle.outHits (b : Bundle) (s : State) (f : LaneCtx → LaneOut) : Option (Nat × List Hit) :=
  firstCode (b.parts.filterMap fun p => firstHit p.1 (laneFaults (b.outs s f p.1 p.2.1 p.2.2)))
/-- A lane type whose values are floating-point in the launch: not an integer, and not a slot of integer elements. -/
def LaunchCfg.floatTy (c : LaunchCfg) : LTy → Bool
  | .i32 | .n32 => false
  | .slot f => ((c.slot f).map (!·.elem.isInt)).getD false
  | _ => true
/-- An instruction that computes tangents completes D clk later (R103, R105, R116); a CVT to its own type, which rounds to an
integral value, writes zeros (R138). -/
def Bundle.tangentClks (b : Bundle) (i : Instr) : Nat :=
  let floats := match i with
    | .cvt _ _ _ dst src => dst != src && b.u.cfg.floatTy dst && b.u.cfg.floatTy src
    | .cvtn _ _ _ dst src | .cvtw _ _ _ dst src => b.u.cfg.floatTy dst && b.u.cfg.floatTy src
    | _ => i.isFp32 || i.isFp64 || i.isPacked
  if i.carries || (floats && (b.hints.tan || b.u.cfg.dual)) then b.u.cfg.d else 0
/-- The writes of a warp's lanes go under way: scoreboard entries set, the writes due. -/
def pendWarp (pc : VAddr) (due : Option Nat) (src : PendSrc) (outs : List (Nat × LaneOut)) (w : Warp) : Warp :=
  let ws := (outs.map fun (l, o) => (l, o.writes))
  let regs := (ws.flatMap fun (_, rs) => rs.map RegWrite.reg).eraseDups.filter (· != .p 7)
  { w with sb := w.sb ++ regs.map fun r => ⟨r, pc⟩, pend := w.pend ++ [⟨pc, due, src, ws, 0⟩] }
/-- A thread's change at issue: draws taken and latches. -/
def outThread (o : LaneOut) (t : Thread) : Thread :=
  { t with
    draws := t.draws + BitVec.ofNat 34 o.draws
    clkHi := match o.latch with | some (false, v) => v | _ => t.clkHi
    retHi := match o.latch with | some (true, v) => v | _ => t.retHi }
def outOf (outs : List (Nat × LaneOut)) (l : Nat) (t : Thread) : Thread :=
  match outs.find? (·.1 == l) with
  | some (_, o) => outThread o t
  | none => t
/-- Issues lane values: every lane's writes are computed now and made after the latency. -/
def State.commitAlu (s : State) (b : Bundle) (due : Option Nat) (src : PendSrc) (f : LaneCtx → LaneOut) : State :=
  let s' := b.parts.foldl (fun t (wi, w, ls) =>
    let outs := b.outs s f wi w ls
    t.modWarp (b.wid wi) fun x => retireWarp b.pc false (outOf outs) ls (pendWarp b.pc due src outs x)) s
  (s'.countTurn b).stay b
/-- A lane instruction that computes values: the checks, the registers of its own index, the faults, the commit. -/
def aluIssue (i : Instr) (lat : Option Nat) (f : LaneCtx → LaneOut) : State → Host.Outcome State Fault Refusal :=
  issueStd i fun b s =>
    let extra := b.parts.flatMap fun (wi, w, ls) => (b.outs s f wi w ls).flatMap fun (_, o) => o.waits
    match b.outHits s f with
    | some (c, hits) => .bad c hits
    | none =>
      if b.pending extra then .wait
      else .done (s.commitAlu b (lat.map fun n => s.clk + n + b.tangentClks i) .known f)

/-! ### Warp-collective instructions (R99, R100) -/

/-- The lanes of an issue join the arrival set of their warp, or diverge from it. -/
def Bundle.diverge (b : Bundle) (i : Instr) : List Hit × Bool :=
  let bad := b.parts.filterMap fun (wi, w, ls) =>
    match w.arrival with
    | some a => if a.pc == b.pc && a.hints == b.hints then none
      else some ((⟨wi, ls, a.pc.toNat, 0, []⟩ : Hit), i.isTile || a.instr.isTile)
    | none => none
  (bad.map (·.1), bad.any (·.2))
def arrive (b : Bundle) (i : Instr) (ls : List Nat) (w : Warp) : Warp :=
  { w with arrival := match w.arrival with
      | some a => some { a with lanes := a.lanes ++ ls }
      | none => some ⟨b.pc, b.hints, i, ls⟩ }
/-- A collective executes for its warp once every live thread has arrived: checks, waits, meaning, retirement, filing. The
live lanes stand in ascending order. In deterministic mode it executes in its warp's turn (R385), and never while one of its
threads is stopped (R465). -/
def State.collective (s : State) (w : WarpId) (ends : Bool) (body : Bundle → State → Res) : State :=
  match s.warp? w with
  | none => s
  | some x =>
    match x.arrival with
    | none => s
    | some a =>
      if x.live = [] || x.live.any (fun l => !a.lanes.contains l) then s
      else
        match s.bundleOf w.unit w.wg [(w.warp, x.live)] with
        | none => s
        | some b =>
          if !s.mayRetire w || b.lanes.any (fun (_, _, _, t) => t.halted) then s
          else
          match b.early a.instr with
          | some (code, hits) => s.takeFault w.unit w.wg code true a.pc hits
          | none =>
            if b.pending (a.instr.waitRegs b.u.cfg) then s
            else
              match body b s with
              | .wait => s
              | .hold t => t
              | .bad code hits => s.takeFault w.unit w.wg code true a.pc hits
              | .done t =>
                let t := t.retire b ends sameThread
                let t := t.modWarp w fun y => { y with arrival := none }
                t.file w.unit w.wg b.g.core (x.live.map fun l => (w.warp, l)) (s.clk + 1) (s.clk + 1) false
/-- An issue of a collective: its threads leave their bundle and join the arrival set; the last arrival executes it. -/
def collIssue (i : Instr) (ends : Bool) (body : Bundle → State → Res) (s : State) : Host.Outcome State Fault Refusal :=
  match s.bundle? with
  | none => .next s
  | some b =>
    if !b.idle then .next s
    else
      match b.diverge i with
      | (h :: hs, tile) => .next (s.takeFault b.u.id b.wg (if tile then 0x07 else 0x08) true b.pc (h :: hs))
      | ([], _) =>
        let s1 := (b.parts.foldl (fun s (wi, _, ls) => s.modWarp (b.wid wi) (arrive b i ls)) s).leave b
        .next (b.parts.foldl (fun s (wi, _, _) => s.collective (b.wid wi) ends body) s1)
/-- A collective that writes registers of its lanes: the writes complete when the result returns (R105). -/
def State.pendColl (s : State) (b : Bundle) (outs : List (Nat × List RegWrite)) : State :=
  b.parts.foldl (fun s (wi, _, _) => s.modWarp (b.wid wi)
    (pendWarp b.pc none .known (outs.map fun (l, ws) => (l, LaneOut.ok ws)))) s

end Sys2Proof.Machine
end

