-- ==== Sys2Proof/Machine/LaneInt.lean ====
section
/-! DEFINITION. Integer, logic, shift, bit-field, compare, predicate, select and move instructions (R121 to R128). -/

namespace Sys2Proof.Machine

/-! ### Shared forms -/

/-- A zero-tangent result: the value, zero shadows, the union of the sources' masks (R115, R116). -/
def LaneCtx.put (c : LaneCtx) (d : GNum) (srcs : List RegName) (v : Word) : LaneOut :=
  .ok [.g d.toNat v (zeroSh c.cfg) (c.th.maskOf srcs)]
def LaneCtx.put1 (c : LaneCtx) (d a : GNum) (v : Word) : LaneOut := c.put d [.g a.toNat] v
def LaneCtx.put2 (c : LaneCtx) (d a b : GNum) (v : Word) : LaneOut := c.put d [.g a.toNat, .g b.toNat] v
def LaneCtx.put3 (c : LaneCtx) (d a b : GNum) (v : Word) : LaneOut := c.put d [.g a.toNat, .g b.toNat, .g d.toNat] v
/-- A predicate result. -/
def LaneCtx.putP (c : LaneCtx) (p : PNum) (srcs : List RegName) (v : Bool) : LaneOut :=
  .ok [.p p.toNat v (c.th.maskOf srcs)]
/-- A moved register: value, shadows and mask given (R128). -/
def putMove (d : Nat) (r : GReg) (m : Mask) : LaneOut := .ok [.g d r.val r.sh m]
/-- An operand read as an integer of the instruction's type (R122). -/
def typed (t : ITy) (v : Word) : Int := match t with | .i32 => v.toInt | .n32 => (v.toNat : Int)
def LaneCtx.int (c : LaneCtx) (t : ITy) (n : GNum) : Int := typed t (c.g n)

/-! ### Addition and multiplication (R122, R123) -/

def execIadd (d a b : GNum) (h : BitVec 2) (t : ITy) : State → Host.Outcome State Fault Refusal :=
  aluIssue (.iadd d a b h t) (some 4) fun c => c.put2 d a b (modInt c.mod.sat t (c.int t a + c.int t b))
def execIsub (d a b : GNum) (h : BitVec 2) (t : ITy) : State → Host.Outcome State Fault Refusal :=
  aluIssue (.isub d a b h t) (some 4) fun c => c.put2 d a b (modInt c.mod.sat t (c.int t a - c.int t b))
/-- The immediate of IADDI and MOVI: bits [31:0] of the extended value, read as the type (R65, R120, R122). -/
def imm32 (hs : Hints) (t : ITy) (i : BitVec 11) : Int :=
  match t with
  | .i32 => (BitVec.ofInt 32 (immValue hs i)).toInt
  | .n32 => (immNat hs i % 2 ^ 32 : Nat)
def execIaddi (d a : GNum) (i : BitVec 11) : State → Host.Outcome State Fault Refusal :=
  aluIssue (.iaddi d a i) (some 4) fun c =>
    let t : ITy := if c.mod.ovr == some .n32 then .n32 else .i32
    c.put1 d a (modInt c.mod.sat t (c.int t a + imm32 c.hints t i))
def execImul (d a b : GNum) (h : BitVec 2) (t : ITy) : State → Host.Outcome State Fault Refusal :=
  aluIssue (.imul d a b h t) (some 4) fun c => c.put2 d a b (modInt c.mod.sat t (c.int t a * c.int t b))
def execImulhi (d a b : GNum) (h : BitVec 2) (t : ITy) : State → Host.Outcome State Fault Refusal :=
  aluIssue (.imulhi d a b h t) (some 4) fun c =>
    c.put2 d a b (BitVec.ofInt 32 ((c.int t a * c.int t b) / ((2 ^ 32 : Nat) : Int)))
def execImad (d a b : GNum) (h : BitVec 2) (t : ITy) : State → Host.Outcome State Fault Refusal :=
  aluIssue (.imad d a b h t) (some 4) fun c =>
    c.put3 d a b (modInt c.mod.sat t (c.int t a * c.int t b + c.int t d))

/-! ### Minimum, maximum and counts (R124) -/

def execImin (d a b : GNum) (h : BitVec 2) (t : ITy) : State → Host.Outcome State Fault Refusal :=
  aluIssue (.imin d a b h t) (some 4) fun c => c.put2 d a b (if c.int t b < c.int t a then c.g b else c.g a)
def execImax (d a b : GNum) (h : BitVec 2) (t : ITy) : State → Host.Outcome State Fault Refusal :=
  aluIssue (.imax d a b h t) (some 4) fun c => c.put2 d a b (if c.int t a < c.int t b then c.g b else c.g a)
/-- Leading zero bits of a word; 32 for 0. -/
def leadingZeros (w : Word) : Nat := if w = 0 then 32 else 31 - Nat.log2 w.toNat
/-- One bits of a word. -/
def popCount (w : Word) : Nat := sumOf ((List.range 32).map fun i => if w.getLsbD i then 1 else 0)
def execClz (d a : GNum) (h : BitVec 2) : State → Host.Outcome State Fault Refusal :=
  aluIssue (.clz d a h) (some 4) fun c => c.put1 d a (BitVec.ofNat 32 (leadingZeros (c.g a)))
def execPopc (d a : GNum) (h : BitVec 2) : State → Host.Outcome State Fault Refusal :=
  aluIssue (.popc d a h) (some 4) fun c => c.put1 d a (BitVec.ofNat 32 (popCount (c.g a)))
def execBrev (d a : GNum) (h : BitVec 2) : State → Host.Outcome State Fault Refusal :=
  aluIssue (.brev d a h) (some 4) fun c => c.put1 d a (c.g a).reverse
def execIabs (d a : GNum) (h : BitVec 2) : State → Host.Outcome State Fault Refusal :=
  aluIssue (.iabs d a h) (some 4) fun c => c.put1 d a (if (c.g a).msb then -(c.g a) else c.g a)

/-! ### Logic and shifts (R125) -/

def execAnd (d a b : GNum) (h : BitVec 2) : State → Host.Outcome State Fault Refusal :=
  aluIssue (.and_ d a b h) (some 4) fun c => c.put2 d a b (c.g a &&& c.g b)
def execOr (d a b : GNum) (h : BitVec 2) : State → Host.Outcome State Fault Refusal :=
  aluIssue (.or_ d a b h) (some 4) fun c => c.put2 d a b (c.g a ||| c.g b)
def execXor (d a b : GNum) (h : BitVec 2) : State → Host.Outcome State Fault Refusal :=
  aluIssue (.xor_ d a b h) (some 4) fun c => c.put2 d a b (c.g a ^^^ c.g b)
def execAndn (d a b : GNum) (h : BitVec 2) : State → Host.Outcome State Fault Refusal :=
  aluIssue (.andn d a b h) (some 4) fun c => c.put2 d a b (c.g a &&& ~~~(c.g b))
/-- A shift by an unsigned amount: 32 or more shifts everything out. -/
def shlBy (w : Word) (n : Nat) : Word := if n ≥ 32 then 0 else w <<< n
def shrBy (w : Word) (n : Nat) : Word := if n ≥ 32 then 0 else w >>> n
def sarBy (w : Word) (n : Nat) : Word := w.sshiftRight (min n 31)
def execShl (d a b : GNum) (h : BitVec 2) : State → Host.Outcome State Fault Refusal :=
  aluIssue (.shl d a b h) (some 4) fun c => c.put2 d a b (shlBy (c.g a) (c.g b).toNat)
def execShr (d a b : GNum) (h : BitVec 2) : State → Host.Outcome State Fault Refusal :=
  aluIssue (.shr d a b h) (some 4) fun c => c.put2 d a b (shrBy (c.g a) (c.g b).toNat)
def execSar (d a b : GNum) (h : BitVec 2) : State → Host.Outcome State Fault Refusal :=
  aluIssue (.sar d a b h) (some 4) fun c => c.put2 d a b (sarBy (c.g a) (c.g b).toNat)
def execRotl (d a b : GNum) (h : BitVec 2) : State → Host.Outcome State Fault Refusal :=
  aluIssue (.rotl d a b h) (some 4) fun c => c.put2 d a b ((c.g a).rotateLeft ((c.g b).toNat % 32))
def execShli (d a : GNum) (n : BitVec 5) : State → Host.Outcome State Fault Refusal :=
  aluIssue (.shli d a n) (some 4) fun c => c.put1 d a (shlBy (c.g a) n.toNat)
def execShri (d a : GNum) (n : BitVec 5) : State → Host.Outcome State Fault Refusal :=
  aluIssue (.shri d a n) (some 4) fun c => c.put1 d a (shrBy (c.g a) n.toNat)
def execSari (d a : GNum) (n : BitVec 5) : State → Host.Outcome State Fault Refusal :=
  aluIssue (.sari d a n) (some 4) fun c => c.put1 d a (sarBy (c.g a) n.toNat)

/-! ### Bit fields (R126) -/

/-- The field of `w` bits at `pos`. -/
def fieldOf (v : Word) (pos w : Nat) : Nat := bitsOf v.toNat pos w
def execBfxN32 (d a : GNum) (pos wm1 : BitVec 5) : State → Host.Outcome State Fault Refusal :=
  aluIssue (.bfxN32 d a pos wm1) (some 4) fun c =>
    c.put1 d a (BitVec.ofNat 32 (fieldOf (c.g a) pos.toNat (wm1.toNat + 1)))
def execBfxI32 (d a : GNum) (pos wm1 : BitVec 5) : State → Host.Outcome State Fault Refusal :=
  aluIssue (.bfxI32 d a pos wm1) (some 4) fun c =>
    let w := wm1.toNat + 1
    c.put1 d a (BitVec.ofInt 32 (intOfCode w true (fieldOf (c.g a) pos.toNat w)))
def execBfi (d a : GNum) (pos wm1 : BitVec 5) : State → Host.Outcome State Fault Refusal :=
  aluIssue (.bfi d a pos wm1) (some 4) fun c =>
    let w := wm1.toNat + 1
    let old := (c.g d).toNat
    let v := old - fieldOf (c.g d) pos.toNat w * 2 ^ pos.toNat + (c.g a).toNat % 2 ^ w * 2 ^ pos.toNat
    c.put d [.g a.toNat, .g d.toNat] (BitVec.ofNat 32 v)

/-! ### Predicates (R127) -/

def execIcmp (pd : PNum) (a b : GNum) (t : ITy) (cond : ICond) : State → Host.Outcome State Fault Refusal :=
  aluIssue (.icmp pd a b t cond) (some 4) fun c =>
    c.putP pd [.g a.toNat, .g b.toNat] (icondHolds t cond (c.g a) (c.g b))
def execPlop (pd pa pb : PNum) (lut : BitVec 4) : State → Host.Outcome State Fault Refusal :=
  aluIssue (.plop pd pa pb lut) (some 4) fun c =>
    c.putP pd [.p pa.toNat, .p pb.toNat] (lutBit lut (c.th.pr pa.toNat).val (c.th.pr pb.toNat).val)

/-! ### Moves (R128, R177) -/

def execMov (d a : GNum) (h : BitVec 2) : State → Host.Outcome State Fault Refusal :=
  aluIssue (.mov d a h) (some 4) fun c => putMove d.toNat (c.th.gr a.toNat) (c.gm a)
def execMovx (d a b : GNum) (h : BitVec 2) : State → Host.Outcome State Fault Refusal :=
  aluIssue (.movx d a b h) (some 4) fun c =>
    let r := b.toNat + (c.g a).toNat
    if r ≥ c.cfg.gregs then .bad 0x03 r 0
    else { putMove d.toNat (c.th.gr r) (c.gm a ||| (c.th.gr r).mask) with waits := [.g r] }
def execMovxw (d a b : GNum) (h : BitVec 2) : State → Host.Outcome State Fault Refusal :=
  aluIssue (.movxw d a b h) (some 4) fun c =>
    let r := d.toNat + (c.g a).toNat
    if r ≥ c.cfg.gregs then .bad 0x03 r 0
    else { putMove r (c.th.gr b.toNat) (c.gm a ||| c.gm b) with waits := [.g r] }
/-- SEL by predicate n. -/
def LaneCtx.sel (c : LaneCtx) (d a b : GNum) (n : Nat) : LaneOut :=
  let r := if (c.th.pr n).val then c.th.gr a.toNat else c.th.gr b.toNat
  putMove d.toNat r (c.th.maskOf [.g a.toNat, .g b.toNat, .p n])
def execSelP0P3 (d a b : GNum) (h : BitVec 2) (n : BitVec 2) : State → Host.Outcome State Fault Refusal :=
  aluIssue (.selP0P3 d a b h n) (some 4) fun c => c.sel d a b n.toNat
def execSelP4P7 (d a b : GNum) (h : BitVec 2) (n : BitVec 2) : State → Host.Outcome State Fault Refusal :=
  aluIssue (.selP4P7 d a b h n) (some 4) fun c => c.sel d a b (4 + n.toNat)
def execMovi (d : GNum) (i : BitVec 11) : State → Host.Outcome State Fault Refusal :=
  aluIssue (.movi d i) (some 4) fun c => c.put d [] (BitVec.ofInt 32 (imm32 c.hints .i32 i))

end Sys2Proof.Machine
end

