-- ==== Sys2Proof/Machine/LaneFp.lean ====
section
/-! DEFINITION. Floating-point instructions of fp32, fp64 and packed 16-bit, with their tangents (R118, R119, R129 to
R135). -/

namespace Sys2Proof.Machine

/-! ### Shared forms -/

def fof (w : Word) : FVal := decodeF fp32 w.toNat
def LaneCtx.f (c : LaneCtx) (n : GNum) : FVal := fof (c.g n)
def LaneCtx.ft (c : LaneCtx) (n : GNum) (k : Nat) : FVal := fof (c.sh n k)
/-- An exact operation: the operands' values, the operands' tangents, the result and its tangent. Operand d is the
addend, when there is one. -/
structure FloatOp where
  x : FVal → FVal → FVal → FVal
  /-- values a, b, d, then tangents a′, b′, d′ -/
  tau : FVal → FVal → FVal → FVal → FVal → FVal → FVal
/-- The type of an fp32 result under OVR (R120). -/
def ovrFmt (m : ModHint) : FFmt :=
  match m.ovr with
  | some .f16 => fp16 | some .bf16 => bf16 | _ => fp32
/-- The fp32 result of an operation (R119, R133). -/
def LaneCtx.fp (c : LaneCtx) (o : FloatOp) (d : GNum) (srcs : List RegName) (a b : GNum) : LaneOut :=
  let taus := if c.dual then (List.range c.cfg.d).map fun k => o.tau (c.f a) (c.f b) (c.f d) (c.ft a k) (c.ft b k) (c.ft d k)
    else []
  let (v, ts) := modFloat c.mod (ovrFmt c.mod) (o.x (c.f a) (c.f b) (c.f d)) taus
  .ok [.g d.toNat (BitVec.ofNat 32 v) (if c.dual then ts.map (BitVec.ofNat 32) else zeroSh c.cfg) (c.th.maskOf srcs)]
def LaneCtx.fp2 (c : LaneCtx) (o : FloatOp) (d a b : GNum) : LaneOut := c.fp o d [.g a.toNat, .g b.toNat] a b
def LaneCtx.fp3 (c : LaneCtx) (o : FloatOp) (d a b : GNum) : LaneOut := c.fp o d [.g a.toNat, .g b.toNat, .g d.toNat] a b
def LaneCtx.fp1 (c : LaneCtx) (o : FloatOp) (d a : GNum) : LaneOut := c.fp o d [.g a.toNat] a a

/-! ### The operations and their tangents (R129, R130, R133) -/

def addOp : FloatOp := ⟨fun a b _ => a.add b, fun _ _ _ a' b' _ => a'.add b'⟩
def subOp : FloatOp := ⟨fun a b _ => a.sub b, fun _ _ _ a' b' _ => a'.sub b'⟩
def mulOp : FloatOp := ⟨fun a b _ => a.mul b, fun a b _ a' b' _ => (a'.mul b).add (a.mul b')⟩
def fmaOp : FloatOp :=
  ⟨fun a b d => (a.mul b).add d, fun a b _ a' b' d' => ((a'.mul b).add (a.mul b')).add d'⟩
def divOp : FloatOp :=
  ⟨fun a b _ => a.div b, fun a b _ a' b' _ => rnd32 ((rnd32 (a'.sub ((rnd32 (a.div b)).mul b'))).div b)⟩
/-- Order with −0 below +0 (R130). -/
def FVal.below (a b : FVal) : Bool := a.cmp b == .lt || (a.isZero && b.isZero && a.sign && !b.sign)
/-- Whether FMIN or FMAX takes operand a; none when both are NaN. -/
def pickFirst (max : Bool) (a b : FVal) : Option Bool :=
  match a.isNan, b.isNan with
  | true, true => none
  | true, false => some false
  | false, true => some true
  | false, false => some (if max then !(a.below b) else !(b.below a))
def minMax (max : Bool) : FloatOp :=
  ⟨fun a b _ => match pickFirst max a b with | none => .nan | some t => if t then a else b,
   fun a b _ a' b' _ => match pickFirst max a b with | none => .zero | some t => if t then a' else b'⟩
def halfF : FVal := .fin false 1 (-1)
def twoF : FVal := .fin false 1 1
/-- LN2, the fp32 value 0x3F317218 (R133). -/
def ln2F : FVal := decodeF fp32 0x3F317218
def rcpOp : FloatOp :=
  ⟨fun a _ _ => frcpF a, fun a _ _ a' _ _ => let y := rnd32 (frcpF a); rnd32 (a'.neg.mul (rnd32 (y.mul y)))⟩
def rsqOp : FloatOp :=
  ⟨fun a _ _ => frsqF a, fun a _ _ a' _ _ =>
    let y := rnd32 (frsqF a)
    rnd32 (halfF.neg.mul (rnd32 (a'.mul (rnd32 (y.mul (rnd32 (y.mul y)))))))⟩
def sqrtOp : FloatOp :=
  ⟨fun a _ _ => fsqrtF a, fun a _ _ a' _ _ => let y := rnd32 (fsqrtF a); rnd32 (a'.div (rnd32 (twoF.mul y)))⟩
def exp2Op : FloatOp :=
  ⟨fun a _ _ => fexp2F a, fun a _ _ a' _ _ => let y := rnd32 (fexp2F a); rnd32 ((rnd32 (y.mul a')).mul ln2F)⟩
def log2Op : FloatOp := ⟨fun a _ _ => flog2F a, fun a _ _ a' _ _ => rnd32 (a'.div (rnd32 (a.mul ln2F)))⟩
def sinOp : FloatOp := ⟨fun a _ _ => fsinF a, fun a _ _ a' _ _ => rnd32 (a'.mul (rnd32 (fcosF a)))⟩
def cosOp : FloatOp := ⟨fun a _ _ => fcosF a, fun a _ _ a' _ _ => rnd32 (a'.neg.mul (rnd32 (fsinF a)))⟩

/-! ### FP32 (R129 to R133) -/

def execFadd (d a b : GNum) (h : BitVec 2) : State → Host.Outcome State Fault Refusal :=
  aluIssue (.fadd d a b h) (some 4) fun c => c.fp2 addOp d a b
def execFsub (d a b : GNum) (h : BitVec 2) : State → Host.Outcome State Fault Refusal :=
  aluIssue (.fsub d a b h) (some 4) fun c => c.fp2 subOp d a b
def execFmul (d a b : GNum) (h : BitVec 2) : State → Host.Outcome State Fault Refusal :=
  aluIssue (.fmul d a b h) (some 4) fun c => c.fp2 mulOp d a b
def execFfma (d a b : GNum) (h : BitVec 2) : State → Host.Outcome State Fault Refusal :=
  aluIssue (.ffma d a b h) (some 4) fun c => c.fp3 fmaOp d a b
def execFmin (d a b : GNum) (h : BitVec 2) : State → Host.Outcome State Fault Refusal :=
  aluIssue (.fmin d a b h) (some 4) fun c => c.fp2 (minMax false) d a b
def execFmax (d a b : GNum) (h : BitVec 2) : State → Host.Outcome State Fault Refusal :=
  aluIssue (.fmax d a b h) (some 4) fun c => c.fp2 (minMax true) d a b
def execFcmp (pd : PNum) (a b : GNum) (cond : FCond) : State → Host.Outcome State Fault Refusal :=
  aluIssue (.fcmp pd a b cond) (some 4) fun c =>
    c.putP pd [.g a.toNat, .g b.toNat] (fcondHolds cond (c.f a) (c.f b))
def execFrcp (d a : GNum) (h : BitVec 2) : State → Host.Outcome State Fault Refusal :=
  aluIssue (.frcp d a h) (some 12) fun c => c.fp1 rcpOp d a
def execFrsq (d a : GNum) (h : BitVec 2) : State → Host.Outcome State Fault Refusal :=
  aluIssue (.frsq d a h) (some 12) fun c => c.fp1 rsqOp d a
def execFsqrt (d a : GNum) (h : BitVec 2) : State → Host.Outcome State Fault Refusal :=
  aluIssue (.fsqrt d a h) (some 12) fun c => c.fp1 sqrtOp d a
def execFexp2 (d a : GNum) (h : BitVec 2) : State → Host.Outcome State Fault Refusal :=
  aluIssue (.fexp2 d a h) (some 12) fun c => c.fp1 exp2Op d a
def execFlog2 (d a : GNum) (h : BitVec 2) : State → Host.Outcome State Fault Refusal :=
  aluIssue (.flog2 d a h) (some 12) fun c => c.fp1 log2Op d a
def execFsin (d a : GNum) (h : BitVec 2) : State → Host.Outcome State Fault Refusal :=
  aluIssue (.fsin d a h) (some 12) fun c => c.fp1 sinOp d a
def execFcos (d a : GNum) (h : BitVec 2) : State → Host.Outcome State Fault Refusal :=
  aluIssue (.fcos d a h) (some 12) fun c => c.fp1 cosOp d a
def execFdiv (d a b : GNum) (h : BitVec 2) : State → Host.Outcome State Fault Refusal :=
  aluIssue (.fdiv d a b h) (some 12) fun c => c.fp2 divOp d a b
/-- FSCALE reads b as an integer; b's own tangents play no part. -/
def execFscale (d a b : GNum) (h : BitVec 2) : State → Host.Outcome State Fault Refusal :=
  aluIssue (.fscale d a b h) (some 4) fun c =>
    let n := (c.g b).toInt
    c.fp2 ⟨fun x _ _ => x.scale n, fun _ _ _ x' _ _ => x'.scale n⟩ d a b

/-! ### FP64 (R134) -/

/-- The fp64 result of an operation on g pairs. -/
def LaneCtx.fp64op (c : LaneCtx) (o : FloatOp) (d a b : GNum) (addend : Bool) : LaneOut :=
  let v (n : GNum) : FVal := decodeF fp64 (c.th.pair n.toNat)
  let t (n : GNum) (k : Nat) : FVal := decodeF fp64 (c.th.pairSh n.toNat k)
  let taus := if c.dual then (List.range c.cfg.d).map fun k => o.tau (v a) (v b) (v d) (t a k) (t b k) (t d k) else []
  let (x, ts) := modFloat c.mod fp64 (o.x (v a) (v b) (v d)) taus
  let m := c.th.maskOf ([.g a.toNat, .g (a.toNat + 1), .g b.toNat, .g (b.toNat + 1)] ++
    (if addend then [.g d.toNat, .g (d.toNat + 1)] else []))
  let half (i : Nat) : RegWrite := .g (d.toNat + i) (BitVec.ofNat 32 (x / 2 ^ (32 * i)))
    (if c.dual then ts.map fun y => BitVec.ofNat 32 (y / 2 ^ (32 * i)) else zeroSh c.cfg) m
  .ok [half 0, half 1]
def execDadd (d a b : GNum) (h : BitVec 2) : State → Host.Outcome State Fault Refusal :=
  aluIssue (.dadd d a b h) none fun c => c.fp64op addOp d a b false
def execDmul (d a b : GNum) (h : BitVec 2) : State → Host.Outcome State Fault Refusal :=
  aluIssue (.dmul d a b h) none fun c => c.fp64op mulOp d a b false
def execDfma (d a b : GNum) (h : BitVec 2) : State → Host.Outcome State Fault Refusal :=
  aluIssue (.dfma d a b h) none fun c => c.fp64op fmaOp d a b true

/-! ### Packed 16-bit (R135) -/

/-- One half of a word as a value. -/
def halfOf (f : FFmt) (w : Word) (i : Nat) : FVal := decodeF f (bitsOf w.toNat (16 * i) 16)
/-- The packed result of an operation, half by half. -/
def LaneCtx.packed (c : LaneCtx) (f : FFmt) (o : FloatOp) (d a b : GNum) (addend : Bool) : LaneOut :=
  let part (i : Nat) : Nat × List Nat :=
    let v (n : GNum) : FVal := halfOf f (c.g n) i
    let t (n : GNum) (k : Nat) : FVal := halfOf f (c.sh n k) i
    let taus := if c.dual then (List.range c.cfg.d).map fun k => o.tau (v a) (v b) (v d) (t a k) (t b k) (t d k) else []
    modFloat c.mod f (o.x (v a) (v b) (v d)) taus
  let lo := part 0
  let hi := part 1
  let word (x y : Nat) : Word := BitVec.ofNat 32 (x + 2 ^ 16 * y)
  .ok [.g d.toNat (word lo.1 hi.1)
    (if c.dual then (lo.2.zip hi.2).map fun (x, y) => word x y else zeroSh c.cfg)
    (c.th.maskOf ([.g a.toNat, .g b.toNat] ++ if addend then [.g d.toNat] else []))]
def execHadd2F16 (d a b : GNum) (h : BitVec 2) : State → Host.Outcome State Fault Refusal :=
  aluIssue (.hadd2F16 d a b h) (some 4) fun c => c.packed fp16 addOp d a b false
def execHmul2F16 (d a b : GNum) (h : BitVec 2) : State → Host.Outcome State Fault Refusal :=
  aluIssue (.hmul2F16 d a b h) (some 4) fun c => c.packed fp16 mulOp d a b false
def execHfma2F16 (d a b : GNum) (h : BitVec 2) : State → Host.Outcome State Fault Refusal :=
  aluIssue (.hfma2F16 d a b h) (some 4) fun c => c.packed fp16 fmaOp d a b true
def execHadd2Bf16 (d a b : GNum) (h : BitVec 2) : State → Host.Outcome State Fault Refusal :=
  aluIssue (.hadd2Bf16 d a b h) (some 4) fun c => c.packed bf16 addOp d a b false
def execHmul2Bf16 (d a b : GNum) (h : BitVec 2) : State → Host.Outcome State Fault Refusal :=
  aluIssue (.hmul2Bf16 d a b h) (some 4) fun c => c.packed bf16 mulOp d a b false
def execHfma2Bf16 (d a b : GNum) (h : BitVec 2) : State → Host.Outcome State Fault Refusal :=
  aluIssue (.hfma2Bf16 d a b h) (some 4) fun c => c.packed bf16 fmaOp d a b true
def execHmin2F16 (d a b : GNum) (h : BitVec 2) : State → Host.Outcome State Fault Refusal :=
  aluIssue (.hmin2F16 d a b h) (some 4) fun c => c.packed fp16 (minMax false) d a b false
def execHmax2F16 (d a b : GNum) (h : BitVec 2) : State → Host.Outcome State Fault Refusal :=
  aluIssue (.hmax2F16 d a b h) (some 4) fun c => c.packed fp16 (minMax true) d a b false
def execHmin2Bf16 (d a b : GNum) (h : BitVec 2) : State → Host.Outcome State Fault Refusal :=
  aluIssue (.hmin2Bf16 d a b h) (some 4) fun c => c.packed bf16 (minMax false) d a b false
def execHmax2Bf16 (d a b : GNum) (h : BitVec 2) : State → Host.Outcome State Fault Refusal :=
  aluIssue (.hmax2Bf16 d a b h) (some 4) fun c => c.packed bf16 (minMax true) d a b false

end Sys2Proof.Machine
end

