-- ==== Sys2Proof/Machine/LaneCvt.lean ====
section
/-! DEFINITION. Conversions: CVT, CVTN and CVTW (R136 to R140, R197 to R199). -/

namespace Sys2Proof.Machine

/-! ### Lane types -/

def ltyFmt : LTy → Option FFmt
  | .f32 => some fp32 | .f16 => some fp16 | .bf16 => some bf16 | .f64 => some fp64 | _ => none
/-- The exact value of a register's or a pair's bits. -/
def ltyVal (t : LTy) (bits : Nat) : FVal :=
  match t with
  | .i32 => FVal.ofInt (intOfCode 32 true bits)
  | .n32 => FVal.ofInt (intOfCode 32 false bits)
  | _ => decodeF ((ltyFmt t).getD fp32) bits
/-- Rounds to an integral value of the same type: infinities, zeros and NaN pass (R137). -/
def integral (r : RMode) : FVal → FVal
  | .fin s m e => if m = 0 then .fin s 0 0 else .fin s (roundAt r s m e 0) 0
  | x => x
/-- The bits of a value converted to a lane type: integers clamp (R137, R199). -/
def toLty (t : LTy) (r : RMode) (sat : Bool) (x : FVal) : Nat :=
  match t with
  | .i32 => intCode 32 (toIntVal 32 true true r x)
  | .n32 => intCode 32 (toIntVal 32 false true r x)
  | _ => toFmt ((ltyFmt t).getD fp32) r sat x
/-- One conversion between lane types (R137); one between F16 and BF16, equal in width, rounds (assumption 98). -/
def convertLane (dst src : LTy) (r : RMode) (sat : Bool) (bits : Nat) : Nat :=
  match dst, src with
  | .i32, .n32 => if sat then min bits (2 ^ 31 - 1) else bits
  | .n32, .i32 => if sat && bitOf bits 31 then 0 else bits
  | _, _ =>
    if dst == src then
      match ltyFmt dst with
      | none => bits
      | some f => toFmt f r false (integral r (decodeF f bits))
    else toLty dst r sat (ltyVal src bits)
/-- Conversions that compute tangents: between different floating-point types (R140). -/
def cvtTangents (dst src : LTy) : Bool := (ltyFmt dst).isSome && (ltyFmt src).isSome && dst != src
/-- The bits of a lane operand and of its tangent k. -/
def Thread.bitsOfTy (t : Thread) (ty : LTy) (n : Nat) : Nat := if ty == .f64 then t.pair n else (t.gr n).val.toNat
def Thread.shOfTy (t : Thread) (ty : LTy) (n k : Nat) : Nat :=
  if ty == .f64 then t.pairSh n k else (((t.gr n).sh[k]?).getD 0).toNat
def gRange (a n : Nat) : List RegName := (List.range n).map fun i => .g (a + i)
/-- Draws an SR conversion takes for `n` elements (R139). -/
def srDraws (r : Rnd) (n : Nat) : Nat := if r == .sr then n else 0
/-- The rounding of element i, with its own draw. -/
def LaneCtx.rmode (c : LaneCtx) (r : Rnd) (i : Nat) : RMode := Machine.rmode r (if r == .sr then c.draw i else 0)

/-- CVT. Its tangents are converted without saturation and kept, also where SAT replaces the primal (R140; assumption 104). -/
def execCvt (d a : GNum) (r : Rnd) (dst src : LTy) : State → Host.Outcome State Fault Refusal :=
  aluIssue (.cvt d a r dst src) (some 4) fun c =>
    let m := c.rmode r 0
    let v := convertLane dst src m c.mod.sat (c.th.bitsOfTy src a.toNat)
    let tans := c.dual && cvtTangents dst src
    let ts := (List.range c.cfg.d).map fun k => convertLane dst src m false (c.th.shOfTy src a.toNat k)
    let mask := c.th.maskOf (gRange a.toNat src.group)
    let part (i : Nat) : RegWrite := .g (d.toNat + i) (BitVec.ofNat 32 (v / 2 ^ (32 * i)))
      (if tans then ts.map fun t => BitVec.ofNat 32 (t / 2 ^ (32 * i)) else zeroSh c.cfg) mask
    { LaneOut.ok ((List.range dst.group).map part) with draws := srDraws r 1 }

/-- The element format of a slot operand. -/
def LaunchCfg.cvtSlot (c : LaunchCfg) : LTy → Option SlotCfg
  | .slot f => c.slot f
  | _ => none
/-- Packs codes of a width, the first lowest. -/
def packCodes (w : Nat) (cs : List Nat) : Nat := cs.foldr (fun c acc => c + 2 ^ w * acc) 0
/-- CVTN; its tangents are converted without saturation and kept (R140; assumption 104). -/
def execCvtn (d a : GNum) (r : Rnd) (dst src : LTy) : State → Host.Outcome State Fault Refusal :=
  aluIssue (.cvtn d a r dst src) (some 4) fun c =>
    match c.cfg.cvtSlot dst with
    | none => .ok []
    | some sl =>
      let n := (packCount sl.elem.width).getD 0
      let sat := sl.sat || c.mod.sat
      let isat := sl.isat || c.mod.sat
      let elems (sat : Bool) (f : Nat → Nat) : Word := BitVec.ofNat 32 (packCodes sl.elem.width ((List.range n).map fun i =>
        (toElem sl.elem (c.rmode r i) sat isat (ltyVal src (f i))).1))
      let tans := c.dual && !sl.elem.isInt && (ltyFmt src).isSome
      { LaneOut.ok [.g d.toNat (elems sat fun i => (c.th.gr (a.toNat + i)).val.toNat)
          (if tans then (List.range c.cfg.d).map fun k => elems false fun i => c.th.shOfTy src (a.toNat + i) k
           else zeroSh c.cfg)
          (c.th.maskOf (gRange a.toNat n))] with draws := srDraws r n }
/-- CVTW; its tangents are converted without saturation and kept (R140; assumption 104). -/
def execCvtw (d a : GNum) (r : Rnd) (dst src : LTy) : State → Host.Outcome State Fault Refusal :=
  aluIssue (.cvtw d a r dst src) (some 4) fun c =>
    match c.cfg.cvtSlot src with
    | none => .ok []
    | some sl =>
      let w := sl.elem.width
      let n := (packCount w).getD 0
      let conv (sat : Bool) (i bits : Nat) : Word :=
        BitVec.ofNat 32 (toLty dst (c.rmode r i) sat (elemVal sl.elem (bitsOf bits (w * i) w)))
      let tans := c.dual && !sl.elem.isInt && (ltyFmt dst).isSome
      { LaneOut.ok ((List.range n).map fun i => .g (d.toNat + i) (conv c.mod.sat i (c.g a).toNat)
          (if tans then (List.range c.cfg.d).map fun k => conv false i (c.sh a k).toNat else zeroSh c.cfg) (c.gm a)) with
        draws := srDraws r n }

end Sys2Proof.Machine
end

