-- ==== Sys2Proof/Machine/LaneCross.lean ====
section
/-! DEFINITION. Cross-lane instructions, warp-collective: SHFL, VOTE and LREDUCE (R99, R141 to R143). Each reads every
source before it writes any destination. -/

namespace Sys2Proof.Machine

/-- A collective that computes the writes of each live lane from the warp. -/
def crossBody (f : LaunchCfg → Warp → List Nat → Nat → Thread → List RegWrite) (b : Bundle) (s : State) : Res :=
  .done (b.parts.foldl (fun s (_, w, ls) =>
    s.pendColl b (ls.filterMap fun l => (w.threads[l]?).map fun t => (l, f b.u.cfg w ls l t))) s)

/-! ### SHFL (R141) -/

/-- The four source lanes of R141, from the lane and its unsigned g[b]. -/
inductive ShflMode | idx | up | down | xor
  deriving DecidableEq, Repr
def shflSource (m : ShflMode) (lane : Nat) (b : Nat) : Nat :=
  match m with
  | .idx => b % 32
  | .up => if b ≤ lane then lane - b else lane
  | .down => if lane + b ≤ 31 then lane + b else lane
  | .xor => lane ^^^ (b % 32)
def shflWrites (m : ShflMode) (d a b : GNum) (_ : LaunchCfg) (w : Warp) (ls : List Nat) (l : Nat) (t : Thread) :
    List RegWrite :=
  let s := shflSource m l (t.gr b.toNat).val.toNat
  let src := if ls.contains s then ((w.threads[s]?).map (·.gr a.toNat)).getD (t.gr a.toNat) else t.gr a.toNat
  [.g d.toNat src.val src.sh (src.mask ||| (t.gr b.toNat).mask)]
def bodyShflIdx (d a b : GNum) : Bundle → State → Res := crossBody (shflWrites .idx d a b)
def bodyShflUp (d a b : GNum) : Bundle → State → Res := crossBody (shflWrites .up d a b)
def bodyShflDown (d a b : GNum) : Bundle → State → Res := crossBody (shflWrites .down d a b)
def bodyShflXor (d a b : GNum) : Bundle → State → Res := crossBody (shflWrites .xor d a b)
def execShflIdx (d a b : GNum) (h : BitVec 2) : State → Host.Outcome State Fault Refusal :=
  collIssue (.shflIdx d a b h) false (bodyShflIdx d a b)
def execShflUp (d a b : GNum) (h : BitVec 2) : State → Host.Outcome State Fault Refusal :=
  collIssue (.shflUp d a b h) false (bodyShflUp d a b)
def execShflDown (d a b : GNum) (h : BitVec 2) : State → Host.Outcome State Fault Refusal :=
  collIssue (.shflDown d a b h) false (bodyShflDown d a b)
def execShflXor (d a b : GNum) (h : BitVec 2) : State → Host.Outcome State Fault Refusal :=
  collIssue (.shflXor d a b h) false (bodyShflXor d a b)

/-! ### VOTE (R142) -/

/-- The predicates read, by live lane, and the union of their masks. -/
def voteReads (w : Warp) (ls : List Nat) (p : Nat) : List (Nat × Bool) :=
  ls.map fun l => (l, ((w.threads[l]?).map fun t => (t.pr p).val).getD false)
def voteMask (w : Warp) (ls : List Nat) (r : RegName) : Mask :=
  ls.foldl (fun m l => m ||| ((w.threads[l]?).map fun t => t.maskOf [r]).getD 0) 0
def bodyVoteAny (pd pa : PNum) : Bundle → State → Res := crossBody fun _ w ls _ _ =>
  [.p pd.toNat ((voteReads w ls pa.toNat).any (·.2)) (voteMask w ls (.p pa.toNat))]
def bodyVoteAll (pd pa : PNum) : Bundle → State → Res := crossBody fun _ w ls _ _ =>
  [.p pd.toNat ((voteReads w ls pa.toNat).all (·.2)) (voteMask w ls (.p pa.toNat))]
def bodyVoteBallot (d : GNum) (pa : PNum) : Bundle → State → Res := crossBody fun c w ls _ _ =>
  [.g d.toNat (BitVec.ofNat 32 (maskOf (((voteReads w ls pa.toNat).filter (·.2)).map (·.1)))) (zeroSh c)
    (voteMask w ls (.p pa.toNat))]
def execVoteAny (pd pa : PNum) (h : BitVec 2) : State → Host.Outcome State Fault Refusal :=
  collIssue (.voteAny pd pa h) false (bodyVoteAny pd pa)
def execVoteAll (pd pa : PNum) (h : BitVec 2) : State → Host.Outcome State Fault Refusal :=
  collIssue (.voteAll pd pa h) false (bodyVoteAll pd pa)
def execVoteBallot (d : GNum) (pa : PNum) (h : BitVec 2) : State → Host.Outcome State Fault Refusal :=
  collIssue (.voteBallot d pa h) false (bodyVoteBallot d pa)

/-! ### LREDUCE (R143) -/

/-- One integer combination. -/
def redInt (op : RedOp) (x y : Word) : Word :=
  match op with
  | .iadd => x + y
  | .imin32 => if y.slt x then y else x
  | .imax32 => if x.slt y then y else x
  | .iminN => if y.ult x then y else x
  | .imaxN => if x.ult y then y else x
  | .and_ => x &&& y
  | .or_ => x ||| y
  | _ => x ^^^ y
/-- Two tangents added with one rounding. -/
def addRnd (x y : Word) : Word := BitVec.ofNat 32 (toFmt fp32 .rne false ((fof x).add (fof y)))
/-- A value with its tangents combined with another. -/
def redPair (op : RedOp) (x y : Word × List Word) : Word × List Word :=
  let pick (max : Bool) : Word × List Word :=
    match pickFirst max (fof x.1) (fof y.1) with
    | none => (0x7FC00000, x.2.map fun _ => 0)
    | some true => x
    | some false => y
  match op with
  | .fadd => (addRnd x.1 y.1, (x.2.zip y.2).map fun (a, b) => addRnd a b)
  | .fmin => pick false
  | .fmax => pick true
  | _ => (redInt op x.1 y.1, x.2)
def redCombine (op : RedOp) : Option (Word × List Word) → Option (Word × List Word) → Option (Word × List Word)
  | some x, some y => some (redPair op x y)
  | some x, none => some x
  | none, y => y
/-- One level of the tree. -/
def redLevel (op : RedOp) : List (Option (Word × List Word)) → List (Option (Word × List Word))
  | x :: y :: t => redCombine op x y :: redLevel op t
  | t => t
def redTree (op : RedOp) : Nat → List (Option (Word × List Word)) → List (Option (Word × List Word))
  | 0, v => v
  | n + 1, v => redTree op n (redLevel op v)
def redIsFloat : RedOp → Bool
  | .fadd | .fmin | .fmax => true
  | _ => false
/-- The reduction of g[a] over the live lanes. -/
def reduceLanes (op : RedOp) (c : LaunchCfg) (w : Warp) (ls : List Nat) (a : Nat) : Word × List Word :=
  let leaf (l : Nat) : Option (Word × List Word) :=
    if ls.contains l then (w.threads[l]?).map fun t => ((t.gr a).val, if redIsFloat op then (t.gr a).sh else zeroSh c)
    else none
  ((redTree op 5 ((List.range 32).map leaf))[0]?.join).getD (0, zeroSh c)
def bodyLreduce (d a : GNum) (op : RedOp) : Bundle → State → Res := crossBody fun c w ls _ _ =>
  let r := reduceLanes op c w ls a.toNat
  [.g d.toNat r.1 r.2 (voteMask w ls (.g a.toNat))]
def execLreduce (d a : GNum) (op : RedOp) : State → Host.Outcome State Fault Refusal :=
  collIssue (.lreduce d a op) false (bodyLreduce d a op)

end Sys2Proof.Machine
end

