-- ==== Sys2Proof/Machine/LaneAddr.lean ====
section
/-! DEFINITION. Address-register instructions, tangent moves, special values and draws (R144 to R150). -/

namespace Sys2Proof.Machine

/-! ### Address registers (R91, R144 to R147) -/

def AReg.r (a : AReg) : Bool := a.perm.getLsbD 0
def AReg.w (a : AReg) : Bool := a.perm.getLsbD 1
def AReg.valid (a : AReg) : Bool := a.perm.getLsbD 2
def AReg.arg (a : AReg) : Bool := a.perm.getLsbD 6
def AReg.win (a : AReg) : Nat := bitsOf a.perm.toNat 8 4
def AReg.zero : AReg := ⟨0, 0, 0, 0, 0⟩
/-- The permission word of a register derived from window m (R91). -/
def windowPerm (m : Nat) (w : Window) : Word :=
  let peer := match w.space with | .peer _ => true | _ => false
  BitVec.ofNat 32 ((if w.r then 1 else 0) + (if w.w then 2 else 0) + 4 + (if w.stride != 0 then 8 else 0) +
    (if peer then 16 else 0) + (if w.space == .host then 32 else 0) + 256 * m)
/-- What ADER derives from a window (R144); an unused window gives zeros. -/
def deriveWindow (ws : List Window) (m : Nat) : AReg :=
  match ws[m]? with
  | some w => if w.used then ⟨BitVec.ofNat 72 w.base, BitVec.ofNat 72 w.base, BitVec.ofNat 72 (w.base + w.length - 1),
      windowPerm m w, 0⟩ else AReg.zero
  | none => AReg.zero
def execAder (n : ANum) (m : WNum) : State → Host.Outcome State Fault Refusal :=
  aluIssue (.ader n m) (some 4) fun c => .ok [.a n.toNat (deriveWindow c.windows m.toNat)]
def execAnarrow (n : ANum) (off len : GNum) (h : BitVec 2) : State → Host.Outcome State Fault Refusal :=
  aluIssue (.anarrow n off len h) (some 4) fun c =>
    let a := c.th.ar n.toNat
    let nb := a.ptr.toNat + (c.g off).toNat
    let len30 := bitsOf (c.g len).toNat 0 30
    if !a.valid || len30 = 0 || nb + len30 - 1 > a.limit.toNat then .bad 0x04 nb 0
    else
      let p1 := if (c.g len).getLsbD 31 then a.perm &&& ~~~(2 : Word) else a.perm
      let p2 := if (c.g len).getLsbD 30 then p1 &&& ~~~(1 : Word) else p1
      .ok [.a n.toNat ⟨BitVec.ofNat 72 nb, BitVec.ofNat 72 nb, BitVec.ofNat 72 (nb + len30 - 1), p2,
        a.mask ||| c.gm off ||| c.gm len⟩]
/-- Advances the pointer of aN by a signed amount (R146). -/
def LaneCtx.advance (c : LaneCtx) (n : ANum) (by_ : Int) (m : Mask) : LaneOut :=
  let a := c.th.ar n.toNat
  let p : Int := (a.ptr.toNat : Int) + by_
  if !a.valid || p < a.base.toNat || p > a.limit.toNat then .bad 0x04 (BitVec.ofInt 64 p).toNat 0
  else .ok [.a n.toNat { a with ptr := BitVec.ofInt 72 p, mask := a.mask ||| m }]
def execAadv (n : ANum) (g : GNum) (h : BitVec 2) : State → Host.Outcome State Fault Refusal :=
  aluIssue (.aadv n g h) (some 4) fun c => c.advance n (c.g g).toInt (c.gm g)
def execAadvi (n : ANum) (i : BitVec 11) : State → Host.Outcome State Fault Refusal :=
  aluIssue (.aadvi n i) (some 4) fun c => c.advance n (immValue c.hints i) 0
/-- The word of R82. -/
def agetPart (a : AReg) (part : Nat) : Word :=
  let v := if part < 3 then a.ptr else if part < 6 then a.base else a.limit
  if part ≥ 9 then a.perm
  else BitVec.ofNat 32 (bitsOf v.toNat (32 * (part % 3)) (if part % 3 = 2 then 8 else 32))
def execAget (d : GNum) (n : ANum) (part : BitVec 4) (h : BitVec 2) : State → Host.Outcome State Fault Refusal :=
  aluIssue (.aget d n part h) (some 4) fun c => c.put d [.a n.toNat] (agetPart (c.th.ar n.toNat) part.toNat)

/-! ### Tangent moves (R148) -/

def execDget (d a : GNum) (k : BitVec 2) (h : BitVec 2) : State → Host.Outcome State Fault Refusal :=
  aluIssue (.dget d a k h) (some 4) fun c => c.put1 d a (c.sh a k.toNat)
def execDset (d a : GNum) (k : BitVec 2) (h : BitVec 2) : State → Host.Outcome State Fault Refusal :=
  aluIssue (.dset d a k h) (some 4) fun c => .ok [.gSh d.toNat k.toNat (c.g a) (c.gm d ||| c.gm a)]
def execDseed (d : GNum) (k : BitVec 2) (h : BitVec 2) : State → Host.Outcome State Fault Refusal :=
  aluIssue (.dseed d k h) (some 4) fun c =>
    .ok [.gShAll d.toNat ((List.range c.cfg.d).map fun i => if i = k.toNat then 0x3F800000 else 0)]

/-! ### Special values and draws (R149, R150) -/

/-- The clock a thread reads: its core's copy, or the warp's retired count in deterministic mode (R25, R388). -/
def LaneCtx.clock (c : LaneCtx) : Nat := if c.cfg.det = 0 then c.now else c.warp.retired.toNat
/-- The 32-bit value of a selector. -/
def LaneCtx.special (c : LaneCtx) (sel : Nat) : Nat :=
  match sel with
  | 0x0 => c.clock % 2 ^ 32
  | 0x1 => c.th.clkHi.toNat
  | 0x2 => c.lane
  | 0x3 => c.wi
  | 0x4 => c.cfg.warps
  | 0x5 => maskOf c.warp.live
  | 0x6 => c.th.draws.toNat % 2 ^ 32
  | 0x7 => c.th.draws.toNat / 2 ^ 32
  | 0x8 => c.cfg.d + 8 * c.cfg.tt
  | 0x9 => (if c.cfg.dual then 1 else 0) + (if c.cfg.det != 0 then 2 else 0) + (if c.cfg.det = 2 then 4 else 0) +
      (if c.cfg.reassoc then 8 else 0)
  | 0xA => c.warp.retired.toNat % 2 ^ 32
  | _ => c.th.retHi.toNat
/-- The high word a read latches. -/
def LaneCtx.latch (c : LaneCtx) (sel : Nat) : Option (Bool × Word) :=
  match sel with
  | 0x0 => some (false, BitVec.ofNat 32 (c.clock / 2 ^ 32))
  | 0xA => some (true, BitVec.ofNat 32 (c.warp.retired.toNat / 2 ^ 32))
  | _ => none
def execSread (d : GNum) (sel : BitVec 10) : State → Host.Outcome State Fault Refusal :=
  aluIssue (.sread d sel) (some 4) fun c =>
    { c.put d [] (BitVec.ofNat 32 (c.special sel.toNat)) with latch := c.latch sel.toNat }
def execRand (d : GNum) : State → Host.Outcome State Fault Refusal :=
  aluIssue (.rand d) (some 4) fun c => { c.put d [] (BitVec.ofNat 32 (c.draw 0)) with draws := 1 }

end Sys2Proof.Machine
end

