-- ==== Sys2Proof/Machine/LaneCtl.lean ====
section
/-! DEFINITION. Control flow, counters, barrier objects and the hint words (R61 to R66, R151 to R156, R171 to R176). -/

namespace Sys2Proof.Machine

/-! ### Branches (R93, R151 to R153, R479) -/

/-- Whether an address is one of the kernel's code words. -/
def LaunchCfg.inCode (c : LaunchCfg) (a : Int) : Bool :=
  (c.entry.toNat : Int) ≤ a && a < (c.entry.toNat + c.codesize : Nat)
/-- A branch: where each lane goes, none when it falls through; a target outside the code faults its lanes; every thread
of the bundle resolves the branch and is filed four clk later. `link` is what a lane that takes it writes, 4 clk later. -/
def branchWith (i : Instr) (taken : LaneCtx → Option Int) (link : LaneCtx → List RegWrite) :
    State → Host.Outcome State Fault Refusal :=
  issueStd i fun b s =>
    let go (wi : Nat) (w : Warp) (l : Nat) (t : Thread) : Option Int := taken (b.laneCtx s wi w l t)
    let bad := b.parts.filterMap fun (wi, w, ls) =>
      match ls.filter fun l => (((w.threads[l]?).bind (go wi w l)).map fun a => !b.u.cfg.inCode a).getD false with
      | [] => none
      | bs => some (⟨wi, bs, (encode i).getD 0, 0, []⟩ : Hit)
    if bad != [] then .bad 0x01 bad
    else
      let t := b.parts.foldl (fun t (wi, w, ls) =>
        let outs := ls.filterMap fun l => (w.threads[l]?).bind fun th =>
          let c := b.laneCtx s wi w l th
          if (taken c).isSome && link c != [] then some (l, LaneOut.ok (link c)) else none
        t.modWarp (b.wid wi) fun x => retireWarp b.pc false (fun l t => match (w.threads[l]?).bind (go wi w l) with
          | some a => { t with pc := BitVec.ofInt 72 a }
          | none => t) ls (if outs = [] then x else pendWarp b.pc (some (s.clk + 4)) .known outs x)) s
      .done ((t.countTurn b).dissolve b (s.clk + 4) false)
def branch (i : Instr) (taken : LaneCtx → Option Int) : State → Host.Outcome State Fault Refusal :=
  branchWith i taken fun _ => []
/-- The address of a branch word plus four times an offset (R60). -/
def targetOf (pc : VAddr) (off : Int) : Int := pc.toNat + 4 * off
def LaneCtx.pred (c : LaneCtx) (p : PNum) : Bool := (c.th.pr p.toNat).val
def execBrp (p : PNum) (sense : Bool) (off : BitVec 21) : State → Host.Outcome State Fault Refusal :=
  branch (.brp p sense off) fun c => if c.pred p == sense then some (targetOf c.th.pc off.toInt) else none
def execBra (g : GNum) (cond : BraCond) (off : BitVec 11) : State → Host.Outcome State Fault Refusal :=
  branch (.bra g cond off) fun c => if braHolds cond (c.g g) then some (targetOf c.th.pc (immValue c.hints off)) else none
/-- A target in g: an offset from the entry, or an address outside the code when it is not a multiple of 4 or not below
CODESIZE (R153). -/
def LaneCtx.linkTarget (c : LaneCtx) (g : GNum) : Int :=
  let v := (c.g g).toNat
  if v % 4 != 0 || v ≥ c.cfg.codesize then -1 else (c.cfg.entry.toNat + v : Nat)
def execRet (p : PNum) (sense : Bool) : State → Host.Outcome State Fault Refusal :=
  branch (.ret p sense) fun c => if c.pred p == sense then some (c.linkTarget 0) else none
def execBrx (a : GNum) : State → Host.Outcome State Fault Refusal :=
  branch (.brx a) fun c => some (c.linkTarget a)
/-- CALL also writes the link of each lane that takes it (R153). -/
def execCall (p : PNum) (sense : Bool) (off : BitVec 21) : State → Host.Outcome State Fault Refusal :=
  branchWith (.call p sense off) (fun c => if c.pred p == sense then some (targetOf c.th.pc off.toInt) else none)
    fun c => [.g 0 ((c.th.pc + 4 - c.cfg.entry).truncate 32) (zeroSh c.cfg) 0]

/-! ### EXIT (R154, R240) -/

/-- The lanes of an issue that a predicate selects. -/
def Bundle.pick (b : Bundle) (f : Thread → Bool) : Bundle :=
  { b with parts := b.parts.filterMap fun (wi, w, ls) =>
      match ls.filter fun l => ((w.threads[l]?).map f).getD false with
      | [] => none
      | xs => some (wi, w, xs) }
/-- Ends a thread: no deferral, no hint, out of the live set. -/
def exitThread (t : Thread) : Thread := { t with exited := true, defer := none }
/-- A warp whose threads have all exited and whose evaluations have ended drops its pending graph without evaluating it
(R240). -/
def dropGraph (w : Warp) : Warp := if w.live = [] && w.tl = 0 then { w with graph := [] } else w
def execExit (p : PNum) (sense : Bool) : State → Host.Outcome State Fault Refusal :=
  issueStd (.exit p sense) fun b s =>
    let ends (t : Thread) : Bool := (t.pr p.toNat).val == sense
    let gone := b.pick ends
    let t := s.retire b false fun wi l t =>
      if (gone.parts.any fun (w, _, ls) => w == wi && ls.contains l) then exitThread t else t
    let t := gone.parts.foldl (fun t (wi, w, ls) =>
      let t := t.modWarp (b.wid wi) dropGraph
      t.modCore b.g.core fun c => { c with
        lastExit := (w.slot, b.pc, (ls[0]?).getD 0) :: c.lastExit.filter (·.1 != w.slot) }) t
    .done ((t.leave gone).stay b)

/-! ### NOP, REFORM, YIELD, TRAP, UNTAINT (R155) -/

def execNop : State → Host.Outcome State Fault Refusal :=
  issueStd .nop fun b s => .done ((s.retire b false sameThread).stay b)
def execReform : State → Host.Outcome State Fault Refusal :=
  issueStd .reform fun b s => .done ((s.retire b false sameThread).dissolve b (s.clk + 1) false)
def execYield : State → Host.Outcome State Fault Refusal :=
  issueStd .yield fun b s => .done ((s.retire b false sameThread).dissolve b (s.clk + 1) (b.u.cfg.det == 0))
def execTrap (code : BitVec 10) : State → Host.Outcome State Fault Refusal :=
  issueStd (.trap code) fun b _ => .bad 0x09 (b.hits code.toNat 0)
/-- UNTAINT clears the mask of the value that g[d] holds as it retires (R155). -/
def execUntaint (d : GNum) : State → Host.Outcome State Fault Refusal :=
  issueOn (.untaint d) [] fun b s =>
    .done ((s.retire b false fun _ _ t => { t with g := modAt t.g d.toNat fun r => { r with mask := 0 } }).stay b)

/-! ### WAITC (R171) -/

/-- A count of 63 is any value. -/
def countOk (have_ : Nat) (want : BitVec 6) : Bool := want.toNat = 63 || have_ ≤ want.toNat
def execWaitc (ld st xf tl : BitVec 6) : State → Host.Outcome State Fault Refusal :=
  issueStd (.waitc ld st xf tl) fun b s =>
    if b.parts.all fun (_, w, _) => countOk w.ld ld && countOk w.st st && countOk w.xf xf && countOk w.tl tl then
      .done ((s.retire b false sameThread).stay b)
    else .wait

/-! ### Barrier objects (R172 to R176, R312) -/

def ErrRec.zero : ErrRec := ⟨0, 0, 0⟩
def Barrier.zero : Barrier := ⟨0, 0, 0, 0, 0, false, false, ErrRec.zero, ErrRec.zero⟩
/-- The workgroup whose core holds object n. -/
def barWg (wg n : Nat) : Nat := if n < 16 then wg else 0
def State.bar (s : State) (unit wg n : Nat) : Barrier :=
  (((s.wg? unit (barWg wg n)).bind fun g => g.bars[n]?)).getD Barrier.zero
def State.setBar (s : State) (unit wg n : Nat) (b : Barrier) : State :=
  s.modWg unit (barWg wg n) fun g => { g with bars := modAt g.bars n fun _ => b }
/-- The test for completion after an event; the flag says whether the phase ended. -/
def Barrier.test (b : Barrier) : Barrier × Bool :=
  if (b.count = 0 || b.pending = 0) && b.bytes = 0 then
    ({ b with ltime := b.time, time := 0, err := b.curErr.kind != 0, phase := !b.phase, pending := b.count,
              lastErr := b.curErr, curErr := ErrRec.zero }, true)
  else (b, false)
/-- A thread that waits in BAR.WAIT for the other phase of object n sees it (R174). -/
def Thread.seePhase (n : Nat) (phase : Bool) (t : Thread) : Thread :=
  if t.barWait == some (n, !phase) then { t with barSeen := true } else t
/-- Every thread that waits at an object sees the phase it has, a stopped one too, whose wait goes on (R465). -/
def State.seeBar (s : State) (unit wg n : Nat) (phase : Bool) : State :=
  let see (g : Workgroup) (gi : Nat) : Workgroup :=
    if barWg gi n == barWg wg n then
      { g with warps := g.warps.map fun w => { w with threads := w.threads.map fun t => t.seePhase n phase } }
    else g
  s.modUnit unit fun u => { u with wgs := (u.wgs.zipIdx).map fun (g, gi) => see g gi }
/-- An object takes a new content, which its waiters see. -/
def State.putBar (s : State) (unit wg n : Nat) (b : Barrier) : State := (s.setBar unit wg n b).seeBar unit wg n b.phase
/-- An event at an object and its test; a completed phase is outside progress (R391). -/
def State.barEvent (s : State) (unit wg n : Nat) (party : Option WarpId) (f : Barrier → Barrier) : State :=
  let (b, ended) := (f (s.bar unit wg n)).test
  let s := s.putBar unit wg n b
  if ended then s.progress party else s
def initBarrier (count : Nat) : Barrier := { Barrier.zero with count := BitVec.ofNat 13 count, pending := BitVec.ofNat 13 count }
/-- Whether a word is a count BAR.INIT takes. -/
def countIllegal (v : Word) : Bool := v.toNat > 4096
/-- The lanes of the issue, in ascending warp and lane, with their thread. -/
def Bundle.ordered (b : Bundle) : List (Nat × Nat × Thread) := b.lanes.map fun (wi, _, l, t) => (wi, l, t)
/-- Whether an EXPECT of a warp of the issue has not yet been counted, at whatever object: its later instructions at the barrier
objects come after it (R434). -/
def State.expecting (s : State) (b : Bundle) : Bool :=
  s.ops.any fun o => (match o.kind with | .expect .. => true | _ => false) && b.parts.any fun (wi, _, _) => o.w == b.wid wi
def execBarInit (n : BNum) (g : GNum) : State → Host.Outcome State Fault Refusal :=
  issueStd (.barInit n g) fun b s =>
    let bad := (b.pick fun t => countIllegal (t.gr g.toNat).val).hits ((encode (.barInit n g)).getD 0) 0
    if bad != [] then .bad 0x01 bad
    else if s.expecting b then .wait
    else
      let t := b.ordered.foldl (fun s (_, _, t) =>
        s.putBar b.u.id b.wg n.toNat (initBarrier (t.gr g.toNat).val.toNat)) s
      .done ((t.retire b true sameThread).stay b)
/-- The operations, one for each warp of an issue, that reach a barrier object in the order of R175. -/
def State.sendBar (s : State) (b : Bundle) (kind : Nat → Warp → List Nat → OpKind) (waits : List Nat) : State :=
  let id := s.nextId
  b.parts.foldl (fun t (wi, w, ls) => t.newOp fun k =>
    { MemOp.plain (b.wid wi) b.g.core b.pc (kind wi w ls) ls [] k with group := id, waitSt := waits }) s
/-- The bytes that a lane expects. -/
def expected (g : GNum) (w : Warp) (ls : List Nat) : List (Nat × Nat) :=
  ls.filterMap fun l => (w.threads[l]?).map fun t => (l, (t.gr g.toNat).val.toNat)
/-- EXPECT reaches its object in the order of R175. -/
def execBarExpect (n : BNum) (g : GNum) : State → Host.Outcome State Fault Refusal :=
  issueStd (.barExpect n g) fun b s =>
    if s.expecting b then .wait
    else .done (((s.sendBar b (fun _ w ls => .expect n.toNat (expected g w ls)) []).retire b true sameThread).stay b)
/-- One arrival, with its warp's latest GWCT. -/
def State.arriveAt (s : State) (w : WarpId) (n : Nat) : State :=
  let g := ((s.warp? w).map (·.gwct)).getD 0
  s.barEvent w.unit w.wg n (some w) fun x =>
    { x with pending := x.pending - 1, time := BitVec.ofNat 64 (max x.time.toNat g) }
/-- One lane's expected bytes. -/
def State.expectAt (s : State) (w : WarpId) (n v : Nat) : State :=
  s.barEvent w.unit w.wg n (some w) fun x => { x with bytes := x.bytes + BitVec.ofNat 64 v }
/-- The store operations of a warp that have not been acked. -/
def OpKind.counter : OpKind → Option Counter
  | .load .. | .lds .. | .aldp .. | .atom .. | .cas .. | .tld .. => some .ld
  | .store | .sts | .tst | .sflush .. => some .st
  | .xlr .. | .xfer .. => some .xf
  | _ => none
def State.storesOf (s : State) (w : WarpId) : List Nat :=
  (s.ops.filter fun o => o.w == w && o.kind.counter == some .st).map (·.id)
/-- Every arrival of an issue, in the order of R175; by warp and lane. -/
def State.arriveAll (s : State) (unit wg n : Nat) (lanes : List (Nat × Nat)) : State :=
  lanes.foldl (fun s (wi, _) => s.arriveAt ⟨unit, wg, wi⟩ n) s
/-- ARRIVE waits inside the instruction until its arrivals are applied (R174). -/
def execBarArrive (n : BNum) : State → Host.Outcome State Fault Refusal :=
  issueStd (.barArrive n) fun b s =>
    let id := s.nextId
    let t := s.sendBar b (fun _ _ _ => .arrive n.toNat) (b.parts.flatMap fun (wi, _, _) => s.storesOf (b.wid wi))
    if s.expecting b then .wait
    else .done (b.ordered.foldl (fun t (wi, l, _) => t.modThread (b.wid wi) l fun x => { x with busy := some id }) t)
/-- A thread has seen, or sees now, the phase that its BAR.WAIT waits for. -/
def barPassed (x : Barrier) (g : GNum) (t : Thread) : Bool := t.barSeen || x.phase != (t.gr g.toNat).val.getLsbD 0
/-- BAR.WAIT: each thread waits for its phase, then for LTIME (R174). -/
def execBarWait (n : BNum) (g : GNum) : State → Host.Outcome State Fault Refusal :=
  issueStd (.barWait n g) fun b s =>
    let x := s.bar b.u.id b.wg n.toNat
    if s.expecting b then .wait
    else if b.lanes.all (fun (_, _, _, t) => barPassed x g t) && x.ltime.toNat ≤ s.now b.g.core then
      .done ((s.retire b false sameThread).stay b)
    else .hold (b.ordered.foldl (fun s (wi, l, t) => s.modThread (b.wid wi) l fun y => { y with
      barSeen := barPassed x g t, barWait := some (n.toNat, (t.gr g.toNat).val.getLsbD 0) }) s)
/-- The lanes of an issue by warp, from its operations. -/
def State.groupLanes (s : State) (o : MemOp) : List (Nat × List Nat) :=
  (s.ops.filter (·.group == o.group)).map fun x => (x.w.warp, x.lanes)
/-- The object that an arrival or an expectation reaches: its unit, the workgroup whose core holds it, its number. -/
def MemOp.object (o : MemOp) : Option (Nat × Nat × Nat) :=
  match o.kind with
  | .arrive n | .expect n _ => some (o.w.unit, barWg o.w.wg n, n)
  | _ => none
/-- Its place in the order of R175: workgroup, warp, lane. -/
def MemOp.place175 (o : MemOp) : Nat := 1024 * o.w.wg + 32 * o.w.warp + (o.lanes.foldl min 31)
/-- A chunk that a channel has committed. -/
def OpKind.writes (k : OpKind) (pcl ch : Nat) : Bool := match k with | .xfer p h _ => p == pcl && h == ch | _ => false
/-- It waits for no store any more. -/
def State.storesDone (s : State) (o : MemOp) : Bool := o.waitSt.all fun k => s.ops.all (·.id != k)
/-- What goes before an operation at its object in one clk: bytes of a Transfer engine's chunk whose writes are acked, the error event of
a channel, and an arrival or expectation of lower workgroup, warp and lane (R175). -/
def State.barAhead (s : State) (o : MemOp) : Bool :=
  (s.ops.any fun x => x.object == o.object && x.id != o.id && s.storesDone x && x.place175 < o.place175 &&
    (s.mayRetire x.w || (match x.kind with | .expect .. => true | _ => false))) ||
  s.channels.any fun c => some (c.w.unit, barWg c.w.wg c.bar, c.bar) == o.object &&
    ((s.ops.any fun x => x.kind.writes c.pcl c.ch && x.parts.all fun p => p.st == .done) ||
     (c.started && c.err.isSome && !s.ops.any fun x => x.kind.writes c.pcl c.ch && x.w == c.w))
/-- Arrivals and expectations are applied in the order of R175; the arrivals of one issue together, once the stores that they wait
for are acked (R174), and, in deterministic mode, in their warp's turn (R385). -/
def execBarrierArrivalApply (op : Nat) (s : State) : Host.Outcome State Fault Refusal :=
  match s.op? op with
  | none => .next s
  | some o =>
    if !s.storesDone o || s.barAhead o then .next s
    else
      match o.kind with
      | .expect n vals => .next (vals.foldl (fun s (_, v) => s.expectAt o.w n v) (s.dropOp op))
      | .arrive n =>
        let groups := s.groupLanes o
        if !s.mayRetire o.w then .next s
        else
          let s' := { s with ops := s.ops.filter (·.group != o.group) }
          match s'.bundleOf o.w.unit o.w.wg groups with
          | none => .next s
          | some b =>
            if (s'.bar o.w.unit o.w.wg n).count = 0 then
              .next (s'.takeFault o.w.unit o.w.wg 0x01 true o.pc (b.hits ((encode (.barArrive (BitVec.ofNat 5 n))).getD 0) 0))
            else
              let t := s'.arriveAll o.w.unit o.w.wg n (groups.flatMap fun (wi, ls) => ls.map fun l => (wi, l))
              .next ((t.retire b true fun _ _ t => { t with busy := none }).stay b)
      | _ => .next s

/-! ### Hint words (R61 to R66) -/

/-- A hint word retires like an instruction and leaves its hint pending beside those before it; it ends no step (R466). -/
def execHint (i : Instr) (f : Hints → Hints) : State → Host.Outcome State Fault Refusal :=
  issueOn i [] fun b s => .done ((s.retire b false fun _ _ t => { t with hints := f b.hints, stepDone := false }).stay b)
def execImm (p : BitVec 25) : State → Host.Outcome State Fault Refusal :=
  execHint (.imm p) fun h => { h with imm := some p }
def execMod (sat clamp neg abs : Bool) (scl : BitVec 6) (ovr : Option LTy) : State → Host.Outcome State Fault Refusal :=
  execHint (.mod_ sat clamp neg abs scl ovr) fun h => { h with mod := some ⟨sat, clamp, neg, abs, scl, ovr⟩ }
def execTan : State → Host.Outcome State Fault Refusal :=
  execHint .tan fun h => { h with tan := true }

end Sys2Proof.Machine
end

