-- ==== Sys2Proof/Machine/TileVal.lean ====
section
/-! DEFINITION. Tile registers as values: configurations, element and scale access, and writing results into a tile
(R190, R206 to R208, R243 to R247). -/

namespace Sys2Proof.Machine

/-! ### Configurations (R207, R208) -/

/-- A tile configuration read with its slot: rows, row bytes, accumulator or element, format, scale kind. -/
structure TCfg where
  rows : Nat
  rowb : Nat
  acc : Bool
  slot : SlotNum
  elem : Elem
  scale : Nat
  deriving DecidableEq, Repr
def TCfg.width (t : TCfg) : Nat := t.elem.width
/-- Elements per row (R243). -/
def TCfg.cols (t : TCfg) : Nat := t.rowb * 8 / t.width
/-- Bytes of a block of 32 elements. -/
def TCfg.block (t : TCfg) : Nat := 4 * t.width
/-- Blocks per row of an MX tile. -/
def TCfg.blocks (t : TCfg) : Nat := t.rowb / t.block
/-- The granule of R208. -/
def TCfg.granule (t : TCfg) : Nat :=
  if t.scale = 1 then t.block
  else if t.width = 32 then 4 else if t.width = 16 then 2 else 1
/-- Reads a configuration word; none when its slot is unset. -/
def LaunchCfg.tcfg (c : LaunchCfg) (w : Nat) : Option TCfg :=
  let f : SlotNum := BitVec.ofNat 3 (w / 2 ^ 13)
  (c.slot f).map fun s =>
    let acc := bitOf w 16
    ⟨w % 64 + 1, bitsOf w 6 7 + 1, acc, f,
     if acc then (if s.accInt then .int 32 true else .float fp32) else s.elem, if acc then 0 else s.scale⟩
/-- Whether TCFG takes a word: no reserved bit, a row length of whole granules. -/
def tcfgOk (w : Nat) (t : TCfg) : Bool := w < 2 ^ 17 && t.rowb % t.granule == 0
/-- The configuration of a configured tile. -/
def Tile.conf (c : LaunchCfg) (t : Tile) : Option TCfg := t.cfg.bind fun w => c.tcfg w.toNat
def Tile.fresh : Tile := ⟨none, [], [], 0, 0, [], [], none⟩
def Warp.tile (w : Warp) (m : Nat) : Tile := (w.tiles[m]?).getD Tile.fresh
def Warp.setTile (w : Warp) (m : Nat) (f : Tile → Tile) : Warp := { w with tiles := modAt w.tiles m f }

/-! ### Elements (R190, R244) -/

/-- The stored code of element j of row i. -/
def codeAt (t : TCfg) (d : Memory) (i j : Nat) : Nat :=
  let bit := t.width * j
  bytesNat (memRead d (i * t.rowb + bit / 8) ((t.width + bit % 8 + 7) / 8)) / 2 ^ (bit % 8) % 2 ^ t.width
/-- The scale of block j of row i, and the tile scale. -/
def scaleAt (sc : Memory) (i j : Nat) : Nat := (memGet sc (8 * i + j)).toNat
def tileScale (sc : Memory) : Nat := bytesNat (memRead sc 0 4)
/-- An element without the tile scale of SCALE 2. -/
def rawElem (t : TCfg) (d sc : Memory) (i j : Nat) : FVal :=
  let e := codeAt t d i j
  if t.scale = 1 then mxVal t.elem (scaleAt sc i (j / 32)) e else elemVal t.elem e
/-- The factor that R256 applies to a chunk sum. -/
def chunkFactor (t : TCfg) (sc : Memory) : FVal := if t.scale = 2 then decodeF fp32 (tileScale sc) else .one
/-- The exact value of an element (R244). An integer element under SCALE 2, to which two rows of R244 give a value, is the element times
the scale in an elementwise node (assumption 82). -/
def elemAt (t : TCfg) (d sc : Memory) (i j : Nat) : FVal :=
  if t.scale = 2 then (rawElem t d sc i j).mul (decodeF fp32 (tileScale sc)) else rawElem t d sc i j
/-- A matrix as it is read: rows, columns, value of an element. -/
structure View where
  m : Nat
  n : Nat
  at_ : Nat → Nat → FVal
/-- A tile read through its row or its column port (R243). -/
def portView (t : TCfg) (col : Bool) (f : Nat → Nat → FVal) : View :=
  if col then ⟨t.cols, t.rows, fun i j => f j i⟩ else ⟨t.rows, t.cols, f⟩
def viewOf (t : TCfg) (d sc : Memory) (col : Bool) : View := portView t col (elemAt t d sc)
def rawView (t : TCfg) (d sc : Memory) (col : Bool) : View := portView t col (rawElem t d sc)

/-! ### Events (R203, R232, R247) -/

/-- An event: row-major index, tangent part, overflow (else a NaN that arose). -/
structure MxEvent where
  idx : Nat
  tang : Bool
  ovf : Bool
  deriving DecidableEq, Repr

/-! ### Writing (R245) -/

/-- Rows of codes as tile data. -/
def rowsMem (t : TCfg) (rows : List (List Nat)) : Memory :=
  (rows.zipIdx).foldl (fun m (r, i) => memWrite m (i * t.rowb) (natBytes t.rowb (packCodes t.width r))) []
/-- The code of an MX element format. -/
def mxCodeOf : Elem → Nat
  | .mxint8 => 0x0E
  | .float f =>
    if f == mxfp8e4 then 0x09 else if f == mxfp8e5 then 0x0A else if f == mxfp6e2 then 0x0B
    else if f == mxfp6e3 then 0x0C else 0x0D
  | .int .. => 0
/-- Groups of a length. -/
def groupsOf {α : Type} (k : Nat) : Nat → List α → List (List α)
  | 0, _ => []
  | _, [] => []
  | f + 1, xs => xs.take k :: groupsOf k f (xs.drop k)
/-- A result element: its exact value, and whether it is a NaN that arose from operands that are not NaN. -/
abbrev Elt := FVal × Bool
/-- The data and scale store of results, in row-major order, with their events. A NaN event is one whose exact result is a NaN; a NaN
code that the destination alone makes of another result is none (R247; assumption 108). -/
def writeElems (t : TCfg) (sat isat : Bool) (mode : Nat → RMode) (tang : Bool) (xs : List Elt) :
    Memory × Memory × List MxEvent :=
  let nans : List MxEvent :=
    if t.elem.isInt then []
    else (xs.zipIdx).filterMap fun ((_, arose), n) => if arose then some (⟨n, tang, false⟩ : MxEvent) else none
  if t.scale = 1 then
    let blocks := (groupsOf 32 (xs.length + 1) (xs.zipIdx)).map fun b =>
      packBlock (mxCodeOf t.elem) t.elem (b.map fun ((x, _), n) => (x, mode n))
    let codes := blocks.flatMap (·.2.1)
    let sats := (((blocks.flatMap (·.2.2)).zipIdx).filterMap fun (s, n) => if s then some (⟨n, tang, true⟩ : MxEvent) else none)
    let sc := (blocks.zipIdx).foldl (fun m ((x, _, _), k) =>
      memSet m (8 * (k / t.blocks) + k % t.blocks) (BitVec.ofNat 8 x)) []
    (rowsMem t (groupsOf t.cols (t.rows + 1) codes), sc, nans ++ sats)
  else
    let outs := (xs.zipIdx).map fun ((x, _), n) => toElem t.elem (mode n) sat isat x
    let ovfs := if t.elem.isInt then [] else
      ((outs.zipIdx).filterMap fun ((_, o), n) => if o then some (⟨n, tang, true⟩ : MxEvent) else none)
    (rowsMem t (groupsOf t.cols (t.rows + 1) (outs.map (·.1))),
     if t.scale = 2 then memWrite [] 0 (natBytes 4 0x3F800000) else [], nans ++ ovfs)
/-- Every element of a shape, in row-major order. -/
def elements (m n : Nat) (f : Nat → Nat → Elt) : List Elt :=
  (List.range m).flatMap fun i => (List.range n).map fun j => f i j

end Sys2Proof.Machine
end

