-- ==== Sys2Proof/Machine/Eval.lean ====
section
/-! DEFINITION. What each graph node computes (R202 to R205, R214, R237, R255 to R266). -/

namespace Sys2Proof.Machine

/-! ### Products (R202 to R205, R237) -/

/-- The exact sum of a list: of the first value with the rest, so that only −0 sums to −0 (R203). -/
def sumF : List FVal → FVal
  | [] => .zero
  | x :: xs => xs.foldl FVal.add x
/-- The chunk size (R202): 32 when both operands are element tiles of 8 bits or fewer. -/
def narrow (t : TCfg) : Bool := !t.acc && t.width ≤ 8
def chunkOf (a b : TCfg) : Nat := if narrow a && narrow b then 32 else 16
/-- One chunk added into an accumulator: the new code and the events, without their place. -/
def chunkStep (sat : Bool) (a sum : FVal) (inputNan : Bool) : Nat × List Bool :=
  let x := a.add sum
  let (c, ovf) := toFmtOvf fp32 .rne sat x
  let arose := (sum.isNan && !inputNan) || (x.isNan && !a.isNan && !sum.isNan)
  (c, (if arose then [false] else []) ++ if ovf then [true] else [])
/-- The chunks of k, in ascending order. -/
def chunkBounds (z k : Nat) : List (Nat × Nat) :=
  (List.range ((k + z - 1) / z)).map fun j => (j * z, min ((j + 1) * z) k)
def span (lo hi : Nat) : List Nat := (List.range (hi - lo)).map (lo + ·)
/-- The scale factors of a chunk's two operands (R256): their product, and whether one of them is a NaN. -/
structure Scales where
  s : FVal
  nan : Bool
def Scales.one : Scales := ⟨.one, false⟩
def scalesOf (a b : FVal) : Scales := ⟨a.mul b, a.isNan || b.isNan⟩
/-- An element of a product: from an accumulator, chunk sums of products times their factor, each scaled by 2^e (R202,
R227); the factor is that of the chunk that begins at a k. A fold scales the accumulator's first value as well, so that the
result is the scaled product (assumption 81). -/
def dotF (z k : Nat) (sat : Bool) (e : Int) (factor : Nat → Scales) (acc : Nat) (prods : Nat → List (FVal × FVal)) :
    Nat × List Bool :=
  ((chunkBounds z k).foldl (fun (v, _, evs) (lo, hi) =>
    let ps := (span lo hi).flatMap prods
    let sc := factor lo
    let sum := ((sumF (ps.map fun (x, y) => x.mul y)).mul sc.s).scale e
    let (c', ev) := chunkStep sat v sum (sc.nan || ps.any fun (x, y) => x.isNan || y.isNan)
    (decodeF fp32 c', c', evs ++ ev)) ((decodeF fp32 acc).scale e, acc, [])).2
/-- An integer element of a product (R204). -/
def dotI (k : Nat) (isat : Bool) (acc : Int) (prod : Nat → Int) : Int :=
  (List.range k).foldl (fun a i => intRange 32 true isat (a + prod i)) acc
/-- The integer of a value that is one. -/
def FVal.toInt : FVal → Int
  | .fin s m e => if s then -((m * 2 ^ e.toNat : Nat) : Int) else ((m * 2 ^ e.toNat : Nat) : Int)
  | _ => 0

/-! ### Results -/

/-- What a node writes, and its events. -/
structure TileOut where
  data : Memory
  scales : Memory
  shData : Memory
  shScales : Memory
  events : List MxEvent
  deriving DecidableEq, Repr
/-- Insertion into a sorted list, before its equals. -/
def insertBy {α : Type} (le : α → α → Bool) (x : α) : List α → List α
  | [] => [x]
  | y :: ys => if le x y then x :: y :: ys else y :: insertBy le x ys
/-- One event list in the order of R233: by element, the primal before the tangent. -/
def sortEvents (es : List MxEvent) (m n : Nat) (swap : Bool) : List MxEvent :=
  let place (e : MxEvent) : Nat := if swap then (e.idx % n) * m + e.idx / n else e.idx
  let le (a b : MxEvent) : Bool := place a < place b || (place a == place b && (!a.tang || b.tang))
  es.foldr (insertBy le) []
/-- Codes of an fp32 or int32 accumulator, in row-major order. -/
def accMem (t : TCfg) (codes : List Nat) : Memory := rowsMem t (groupsOf t.cols (t.rows + 1) codes)
/-- The operands of a product with their tangents. -/
structure MmaArgs where
  k : Nat
  z : Nat
  a : Nat → Nat → FVal
  b : Nat → Nat → FVal
  factor : Nat → Scales
  /-- the values with every scale, for the tangent -/
  av : Nat → Nat → FVal
  bv : Nat → Nat → FVal
  at_ : Nat → Nat → FVal
  bt : Nat → Nat → FVal
/-- A product into an accumulator tile (R202, R204, R237), every sum scaled by 2^e when a SCALE is folded in (R227). An integer
product takes each element's integer value and leaves a SCALE 2 tile's scale out (assumption 82). -/
def mmaOut (t : TCfg) (sat isat dual : Bool) (e : Int) (x : MmaArgs) (d sh : Memory) : TileOut :=
  if t.elem.isInt then
    let cell (mem : Memory) (prod : Nat → Nat → Nat → Int) (i j : Nat) : Nat :=
      intCode 32 (dotI x.k isat (intOfCode 32 true (codeAt t mem i j)) (prod i j))
    let grid (f : Nat → Nat → Nat) : List Nat := (List.range t.rows).flatMap fun i => (List.range t.cols).map (f i)
    let p := grid (cell d fun i j k => (x.a i k).toInt * (x.b k j).toInt)
    let q := if dual then grid (cell sh fun i j k =>
        (x.at_ i k).toInt * (x.bv k j).toInt + (x.av i k).toInt * (x.bt k j).toInt) else []
    ⟨accMem t p, [], if dual then accMem t q else [], [], []⟩
  else
    let grid : List (Nat × Nat) := (List.range t.rows).flatMap fun i => (List.range t.cols).map fun j => (i, j)
    let p := grid.map fun (i, j) => dotF x.z x.k sat e x.factor (codeAt t d i j) fun k => [(x.a i k, x.b k j)]
    let q := if dual then grid.map fun (i, j) =>
        dotF x.z x.k sat e (fun _ => .one) (codeAt t sh i j) fun k => [(x.at_ i k, x.bv k j), (x.av i k, x.bt k j)] else []
    let evs (tang : Bool) (xs : List (Nat × List Bool)) : List MxEvent :=
      (xs.zipIdx).flatMap fun ((_, es), n) => es.map fun o => ⟨n, tang, o⟩
    ⟨accMem t (p.map (·.1)), [], if dual then accMem t (q.map (·.1)) else [], [], evs false p ++ evs true q⟩

/-! ### Elementwise nodes (R260 to R266) -/

/-- The index of B (R260). -/
def bIndex (br : Bcast) (i j : Nat) : Nat × Nat :=
  match br with
  | .full => (i, j) | .row => (0, j) | .col => (i, 0)
def arose (x : FVal) (ins : List FVal) : Bool := x.isNan && !(ins.any (·.isNan))
/-- The exact tangent of an activation (R266). -/
def actTangent (fn : ActFn) (a a' : FVal) : FVal :=
  let y := rnd32 (actF fn a)
  match fn with
  | .relu => if !a.isNan && a.cmp .zero == .gt then a' else .zero
  | .sigm => rnd32 ((rnd32 (y.mul (rnd32 (FVal.one.sub y)))).mul a')
  | .tanh => rnd32 ((rnd32 (FVal.one.sub (rnd32 (y.mul y)))).mul a')
  | .silu =>
    let s := rnd32 (actF .sigm a)
    rnd32 (a'.mul (rnd32 (s.add (rnd32 (a.mul (rnd32 (s.mul (rnd32 (FVal.one.sub s)))))))))
  | .exp2 => rnd32 ((rnd32 (y.mul a')).mul (decodeF fp32 0x3F317218))
/-- The result and tangent of one element from operands a, b and their tangents. -/
structure EltOp where
  x : FVal → FVal → FVal
  tau : FVal → FVal → FVal → FVal → FVal
/-- The elements of a two-operand form, primal and tangent; a NaN tangent is an event when no operand, primal or tangent, was one
(R266, assumption 110). -/
def binElts (m n : Nat) (op : EltOp) (a b a' b' : Nat → Nat → FVal) (br : Bcast) : List Elt × List Elt :=
  let el (i j : Nat) : Elt :=
    let (p, q) := bIndex br i j
    let x := op.x (a i j) (b p q)
    (x, arose x [a i j, b p q])
  let et (i j : Nat) : Elt :=
    let (p, q) := bIndex br i j
    let x := op.tau (a i j) (b p q) (a' i j) (b' p q)
    (x, arose x [a i j, b p q, a' i j, b' p q])
  (elements m n el, elements m n et)
def unElts (m n : Nat) (f : FVal → FVal) (tau : FVal → FVal → FVal) (a a' : Nat → Nat → FVal) : List Elt × List Elt :=
  (elements m n fun i j => let x := f (a i j); (x, arose x [a i j]),
   elements m n fun i j => let x := tau (a i j) (a' i j); (x, arose x [a i j, a' i j]))
/-- Writes primal and, when the node is dual, tangent (R245, R266). -/
def eltOut (t : TCfg) (sat isat dual : Bool) (mode : Nat → RMode) (ps : List Elt × List Elt) : TileOut :=
  let (d, sc, ev) := writeElems t sat isat mode false ps.1
  if dual then
    let (d', sc', ev') := writeElems t sat isat mode true ps.2
    ⟨d, sc, d', sc', ev ++ ev'⟩
  else ⟨d, sc, [], [], ev⟩
/-- A transposed copy (R261). -/
def transposeMem (ta td : TCfg) (m : Memory) : Memory :=
  rowsMem td ((List.range td.rows).map fun i => (List.range td.cols).map fun j => codeAt ta m j i)

end Sys2Proof.Machine
end

