-- ==== Sys2Proof/Machine/Graph.lean ====
section
/-! DEFINITION. The expression graph (R213 to R231): nodes and their evaluation, closures, drops, the Jointer's rewrites,
forcing, the graph limit and the pool. -/

namespace Sys2Proof.Machine

/-! ### Evaluating one node -/

/-- Where a node is evaluated: its unit, workgroup and warp index, and the bytes a LOOP has read, by its
version, step, operand and tangent. -/
structure EvalEnv where
  u : Placed
  wg : Nat
  wi : Nat
  loop : Nat × BitVec 16 → Nat → Nat → Nat → Memory × Memory
/-- The rounding of element n (R196, R245, R246). -/
def EvalEnv.mode (v : EvalEnv) (n : Node) (r : RMode) (k : Nat) : RMode :=
  match n.draws[k % 32]? with
  | some c => .sr (philox v.u.cfg.seed.toNat v.u.launchid.toNat (v.u.idx * v.u.cfg.csize + v.wg) (32 * v.wi + k % 32)
      ((c.toNat + k / 32) % 2 ^ 34) / 2 ^ 16)
  | none => r
/-- The configuration of a LOOP operand: `rows` rows of k elements of the tile's slot (R258). -/
def loopCfg (c : LaunchCfg) (t : TCfg) (rows k : Nat) : TCfg :=
  match c.slot t.slot with
  | some s => ⟨rows, k * s.elem.width / 8, false, t.slot, s.elem, s.scale⟩
  | none => ⟨rows, 4 * k, false, t.slot, .float fp32, 0⟩
/-- z of a LOOP's element format (R257). -/
def loopChunk (c : LaunchCfg) (t : TCfg) : Nat := if narrow (loopCfg c t 1 1) then 32 else 16
/-- The values that a product's tangent takes: with every scale, but of integer elements as the integer product takes them, without
one (assumption 82). -/
def tanView (t : TCfg) (d sc : Memory) (col : Bool) : View := if t.elem.isInt then rawView t d sc col else viewOf t d sc col
def tanElem (t : TCfg) (d sc : Memory) : Nat → Nat → FVal := if t.elem.isInt then rawElem t d sc else elemAt t d sc
/-- The product arguments of an MMA from two tiles and their ports. -/
def mmaArgs (ta tb : TCfg) (A B : Tile) (ac bc : Bool) : MmaArgs :=
  let a := rawView ta A.data A.scales ac
  let b := rawView tb B.data B.scales bc
  { k := a.n, z := chunkOf ta tb, a := a.at_, b := b.at_
    factor := fun _ => scalesOf (chunkFactor ta A.scales) (chunkFactor tb B.scales)
    av := (tanView ta A.data A.scales ac).at_, bv := (tanView tb B.data B.scales bc).at_
    at_ := (tanView ta A.shData A.shScales ac).at_, bt := (tanView tb B.shData B.shScales bc).at_ }
/-- The product arguments of a LOOP: A is M × K and B is N × K, both with k along their rows (R258). -/
def loopArgs (c : LaunchCfg) (t : TCfg) (l : LoopArgs) (img : Nat → Nat → Nat → Memory × Memory) : MmaArgs :=
  let z := loopChunk c t
  let per := z * l.kc
  let ca := loopCfg c t t.rows per
  let cb := loopCfg c t t.cols per
  let el (cf : TCfg) (o tang : Nat) (f : TCfg → Memory → Memory → Nat → Nat → FVal) (r k : Nat) : FVal :=
    let m := img (k / per) o tang
    f cf m.1 m.2 r (k % per)
  { k := l.steps * per, z := z
    a := fun i k => el ca 0 0 rawElem i k, b := fun k j => el cb 1 0 rawElem j k
    factor := fun k => scalesOf (chunkFactor ca (img (k / per) 0 0).2) (chunkFactor cb (img (k / per) 1 0).2)
    av := fun i k => el ca 0 0 tanElem i k, bv := fun k j => el cb 1 0 tanElem j k
    at_ := fun i k => el ca 0 1 tanElem i k, bt := fun k j => el cb 1 1 tanElem j k }
def zeroOut : TileOut := ⟨[], [], [], [], []⟩
/-- The integer setting of an MMA (R255). -/
def ovrSat (o : IOvr) (s : Bool) : Bool := match o with | .idef => s | .iwrap => false | .isat => true
/-- What a node computes from the warp's tiles as they stand; `e` scales an MMA's sums (R227). TCVT of an MX source rounds and saturates as
R262 says (assumption 99). -/
def evalNode (v : EvalEnv) (w : Warp) (n : Node) (e : Int) : TileOut :=
  let c := v.u.cfg
  let opTile (k : Nat) : Tile := w.tile (((n.ops[k]?).map (·.1)).getD 0)
  let D := w.tile n.dst.1
  let A := opTile 0
  let B := opTile 1
  let s : SlotCfg := (c.slot n.slot).getD ⟨1, .float fp32, 0, false, false, false, false⟩
  let md (r : RMode) : Nat → RMode := v.mode n r
  match D.conf c with
  | none => zeroOut
  | some td =>
    let ta := (A.conf c).getD td
    let tb := (B.conf c).getD td
    let pv (t : Tile) (tc : TCfg) (col : Bool) : View := viewOf tc t.data t.scales col
    let tv (t : Tile) (tc : TCfg) (col : Bool) : View := viewOf tc t.shData t.shScales col
    let bin (op : EltOp) (br : Bcast) (bc ac : Bool) : TileOut :=
      eltOut td s.sat s.isat n.dual (md .rne)
        (binElts td.rows td.cols op (pv A ta ac).at_ (pv B tb bc).at_ (tv A ta ac).at_ (tv B tb bc).at_ br)
    let un (r : RMode) (f : FVal → FVal) (tau : FVal → FVal → FVal) (ac : Bool) : TileOut :=
      eltOut td s.sat s.isat n.dual (md r) (unElts td.rows td.cols f tau (pv A ta ac).at_ (tv A ta ac).at_)
    let mulEl : EltOp := ⟨fun a b => a.mul b, fun a b a' b' => (a'.mul b).add (a.mul b')⟩
    match n.kind with
    | .mma ov bc ac => mmaOut td s.sat (ovrSat ov s.isat) n.dual e (mmaArgs ta tb A B ac bc) D.data D.shData
    | .loop l =>
      let ls : SlotCfg := (c.slot td.slot).getD s
      mmaOut td ls.sat ls.isat n.dual e (loopArgs c td l (v.loop n.dst)) D.data D.shData
    | .add sub br bc ac =>
      if sub then bin ⟨fun a b => a.sub b, fun _ _ a' b' => a'.sub b'⟩ br bc ac
      else bin ⟨fun a b => a.add b, fun _ _ a' b' => a'.add b'⟩ br bc ac
    | .emul br bc ac => bin mulEl br bc ac
    | .scale pcol bc ac => bin mulEl (if pcol then .row else .col) bc ac
    | .scalePow k ac => un .rne (fun a => a.scale k.toInt) (fun _ a' => a'.scale k.toInt) ac
    | .transpose =>
      ⟨transposeMem ta td A.data, A.scales, if n.dual then transposeMem ta td A.shData else [],
       if n.dual then A.shScales else [], []⟩
    | .convert r ac => un (rmode r 0) id (fun _ a' => if td.elem.isInt then .zero else a') ac
    | .act fn ac => un .rne (actF fn) (actTangent fn) ac
    | .rsum addto ac =>
      let a := pv A ta ac
      let a' := tv A ta ac
      let row (g : Nat → Nat → FVal) (i : Nat) : List FVal := (List.range a.n).map (g i)
      let acc (m sc : Memory) (i : Nat) : List FVal := if addto then [elemAt td m sc i 0] else []
      let el (g : Nat → Nat → FVal) (m sc : Memory) (ins : Nat → List FVal) (i : Nat) : Elt :=
        let x := sumF (row g i ++ acc m sc i)
        (x, arose x (ins i))
      let p := fun i => row a.at_ i ++ acc D.data D.scales i
      eltOut td s.sat s.isat n.dual (md .rne)
        ((List.range td.rows).map (el a.at_ D.data D.scales p),
         (List.range td.rows).map (el a'.at_ D.shData D.shScales fun i => p i ++ row a'.at_ i ++ acc D.shData D.shScales i))
    | .zero => zeroOut
/-- Writes a node's result in place (R219). -/
def Tile.put (t : Tile) (o : TileOut) : Tile :=
  { t with data := o.data, scales := o.scales, shData := o.shData, shScales := o.shScales }

/-! ### Closures and drops (R216, R219) -/

def nodeReads (n : Node) (v : Nat × BitVec 16) : Bool := n.ops.contains v
/-- Whether a node's result has been superseded by a newer version of its tile. -/
def superseded (w : Warp) (n : Node) : Bool := (w.tile n.dst.1).ver != n.dst.2
/-- Drops, once, every node that is superseded and unread. -/
def dropOnce (w : Warp) : Warp :=
  { w with graph := w.graph.filter fun n => !(superseded w n && !w.graph.any fun m => nodeReads m n.dst) }
/-- The drops of R216 cascade through a chain no longer than the graph. -/
def dropFrom : Nat → Warp → Warp
  | 0, w => w
  | k + 1, w => dropFrom k (dropOnce w)
def Warp.dropDead (w : Warp) : Warp := dropFrom w.graph.length w
/-- Whether the node at place i of the graph must join a closure that holds the node at place j (R219). -/
def joins (g : List Node) (i j : Nat) : Bool :=
  match g[i]?, g[j]? with
  | some n, some m => nodeReads m n.dst || (i < j && (n.dst.1 == m.dst.1 || n.ops.any fun o => o.1 == m.dst.1))
  | _, _ => false
/-- Places closed under R219, from seeds. -/
def closeFrom (g : List Node) : Nat → List Nat → List Nat
  | 0, ms => ms
  | k + 1, ms => closeFrom g k ((List.range g.length).filter fun i => ms.contains i || ms.any fun j => joins g i j)
/-- The closure of the nodes that produce the given versions, in append order. -/
def Warp.closure (w : Warp) (targets : List (Nat × BitVec 16)) : List Node :=
  let seeds := (List.range w.graph.length).filter fun i => ((w.graph[i]?).map fun n => targets.contains n.dst).getD false
  (closeFrom w.graph w.graph.length seeds).filterMap fun i => w.graph[i]?

/-! ### The Jointer (R226 to R231) -/

/-- A bracketing of factors. -/
inductive Tree
  | leaf (i : Nat)
  | mul (l r : Tree)
  deriving DecidableEq, Repr
/-- Best trees of every length, shortest first: entry [len − 1][i] is the cheapest product of factors i to i + len − 1,
with the highest split among equals (R229). `p` holds the q + 2 dimensions. -/
def bestRow (p : List Nat) (rows : List (List (Nat × Tree))) (len n : Nat) : List (Nat × Tree) :=
  (List.range (n + 1 - len)).map fun i =>
    let at_ (l k : Nat) : Nat × Tree := ((rows[l - 1]?).bind fun r => r[k]?).getD (0, .leaf k)
    let cand (k : Nat) : Nat × Tree :=
      let a := at_ k i
      let b := at_ (len - k) (i + k)
      (a.1 + b.1 + (p[i]?).getD 0 * (p[i + k]?).getD 0 * (p[i + len]?).getD 0, .mul a.2 b.2)
    (List.range (len - 1)).foldl (fun best k0 => let c := cand (k0 + 1); if c.1 ≤ best.1 then c else best) (cand 1)
def bestRows (p : List Nat) (n : Nat) : Nat → Nat → List (List (Nat × Tree)) → List (List (Nat × Tree))
  | 0, _, rows => rows
  | k + 1, len, rows => bestRows p n k (len + 1) (rows ++ [bestRow p rows len n])
/-- The bracketing of n factors of dimensions p. -/
def bracketing (p : List Nat) (n : Nat) : Tree :=
  let rows := bestRows p n (n - 1) 2 [(List.range n).map fun i => (0, .leaf i)]
  ((rows[n - 1]?).bind fun r => (r[0]?).map (·.2)).getD (.leaf 0)
/-- A factor's place in a chain: member, side, and whether a result read through a column port has turned it over. -/
structure FactorRef where
  member : Nat
  side : Nat
  flip : Bool
  deriving DecidableEq, Repr
/-- A chain: its members in order, its factors, its bracketing in program order. -/
structure Chain where
  members : List Node
  factors : List FactorRef
  tree : Tree
  deriving DecidableEq, Repr
def Tree.shift : Tree → Tree
  | .leaf i => .leaf (i + 1)
  | .mul l r => .mul l.shift r.shift
/-- The bracketing of a transposed product: its n factors in the opposite order. -/
def Tree.mirror (n : Nat) : Tree → Tree
  | .leaf i => .leaf (n - 1 - i)
  | .mul l r => .mul (r.mirror n) (l.mirror n)
/-- The chain of a transposed product: (F1 … Fn)ᵀ = Fnᵀ … F1ᵀ. -/
def Chain.turned (ch : Chain) : Chain :=
  { ch with factors := (ch.factors.map fun f => { f with flip := !f.flip }).reverse, tree := ch.tree.mirror ch.factors.length }
/-- An MMA that may be a chain member (R229). -/
def chainMember (c : LaunchCfg) (w : Warp) (n : Node) : Bool :=
  (match n.kind with | .mma .. => true | _ => false) && !n.dual &&
    (((w.tile n.dst.1).conf c).map fun t => !t.elem.isInt).getD false
def readers (w : Warp) (v : Nat × BitVec 16) : List Node := w.graph.filter fun n => nodeReads n v
/-- Whether an operand of a member is read through its column port. -/
def colPort (n : Node) (side : Nat) : Bool :=
  match n.kind with
  | .mma _ bc ac => if side = 0 then ac else bc
  | _ => false
/-- Whether m's result is an intermediate that n takes: superseded, read by n alone as A or B and not as its accumulator as well, m's
accumulator a ZERO that only m reads (R229, assumption 113). Answers the side. -/
def linkSide (c : LaunchCfg) (w : Warp) (cl : List Node) (m n : Node) : Option Nat :=
  let zeroed := match m.ops[2]? with
    | some z => (cl.any fun y => y.dst == z && y.kind == .zero) && (readers w z).length == 1
    | none => false
  if !(chainMember c w m && chainMember c w n && superseded w m && (readers w m.dst).length == 1 && zeroed) ||
      n.ops[2]? == some m.dst then none
  else
    match n.ops[0]? == some m.dst, n.ops[1]? == some m.dst with
    | true, false => some 0
    | false, true => some 1
    | _, _ => none
/-- Extends a chain backwards from its first member: through the operand that gives the longer chain, A when both give the same
(assumption 113). -/
def chainBack (c : LaunchCfg) (w : Warp) (cl : List Node) : Nat → Node → List Node
  | 0, n => [n]
  | k + 1, n =>
    let via (side : Nat) : List Node := match cl.find? fun m => linkSide c w cl m n == some side with
      | some m => chainBack c w cl k m
      | none => []
    let a := via 0
    let b := via 1
    (if b.length > a.length then b else a) ++ [n]
/-- The member sequences that end in n, and those that end in an intermediate which they leave aside. -/
def chainsFrom (c : LaunchCfg) (w : Warp) (cl : List Node) : Nat → Node → List (List Node)
  | 0, n => [[n]]
  | k + 1, n =>
    let ms := chainBack c w cl cl.length n
    ms :: (cl.filter fun m => !ms.contains m && ms.any fun x => (linkSide c w cl m x).isSome).flatMap (chainsFrom c w cl k)
/-- The factors and the program-order tree of a chain's members. -/
def chainShape (c : LaunchCfg) (w : Warp) (cl : List Node) (ms : List Node) : Chain :=
  let init : Chain := ⟨ms, [⟨0, 0, false⟩, ⟨0, 1, false⟩], .mul (.leaf 0) (.leaf 1)⟩
  (List.range (ms.length - 1)).foldl (fun ch i =>
    match ms[i]?, ms[i + 1]? with
    | some m, some n =>
      let side := (linkSide c w cl m n).getD 1
      let ch := if colPort n side then ch.turned else ch
      if side = 0 then { ch with factors := ch.factors ++ [⟨i + 1, 1, false⟩], tree := .mul ch.tree (.leaf ch.factors.length) }
      else { ch with factors := ⟨i + 1, 0, false⟩ :: ch.factors, tree := .mul (.leaf 0) ch.tree.shift }
    | _, _ => ch) init
/-- The chains of a closure: from each MMA that is no intermediate of another. -/
def chainsOf (c : LaunchCfg) (w : Warp) (cl : List Node) : List Chain :=
  ((cl.filter fun n => chainMember c w n && !cl.any fun m => (linkSide c w cl n m).isSome).flatMap
    (chainsFrom c w cl cl.length)).filterMap fun ms => if ms.length ≥ 3 then some (chainShape c w cl ms) else none
/-- Rows and columns of a factor as it stands in the chain. -/
def factorDims (c : LaunchCfg) (w : Warp) (n : Node) (f : FactorRef) : Nat × Nat :=
  match (w.tile (((n.ops[f.side]?).map (·.1)).getD 0)).conf c with
  | some t => if colPort n f.side != f.flip then (t.cols, t.rows) else (t.rows, t.cols)
  | none => (0, 0)
/-- The bracketing a chain is rewritten to; none when program order is already the cheapest (R230). -/
def Chain.rewrite (c : LaunchCfg) (w : Warp) (ch : Chain) : Option Tree :=
  let dims := ch.factors.map fun f => ((ch.members[f.member]?).map fun n => factorDims c w n f).getD (0, 0)
  let p := ((dims.head?).map (·.1)).getD 0 :: dims.map (·.2)
  let t := bracketing p ch.factors.length
  if t = ch.tree then none else some t
/-- A factor of a product inside the engine: its values, its chunk factor, whether it is a narrow element tile. -/
structure Factor where
  m : Nat
  n : Nat
  raw : Nat → Nat → FVal
  s : FVal
  narrow : Bool
def Factor.empty : Factor := ⟨0, 0, fun _ _ => .zero, .one, false⟩
def factorOf (c : LaunchCfg) (w : Warp) (n : Node) (f : FactorRef) : Factor :=
  let T := w.tile (((n.ops[f.side]?).map (·.1)).getD 0)
  match T.conf c with
  | some t =>
    let v := rawView t T.data T.scales (colPort n f.side != f.flip)
    ⟨v.m, v.n, v.at_, chunkFactor t T.scales, Sys2Proof.Machine.narrow t⟩
  | none => .empty
/-- The codes and events of a product of two factors over an accumulator. -/
def productCodes (sat : Bool) (e : Int) (l r : Factor) (acc : Nat → Nat → Nat) : List (Nat × List Bool) :=
  (List.range l.m).flatMap fun i => (List.range r.n).map fun j =>
    dotF (if l.narrow && r.narrow then 32 else 16) l.n sat e (fun _ => scalesOf l.s r.s) (acc i j) fun k => [(l.raw i k, r.raw k j)]
/-- A product as a factor of the next: fp32 accumulator values. -/
def productFactor (l r : Factor) (codes : List (Nat × List Bool)) : Factor :=
  ⟨l.m, r.n, fun i j => decodeF fp32 (((codes[i * r.n + j]?).map (·.1)).getD 0), .one, false⟩
/-- The intermediates of a bracketing, each from a zero accumulator; its events go first. -/
def treeFactor (sat : Bool) (fs : List Factor) : Tree → Factor × List (Bool × Nat)
  | .leaf i => ((fs[i]?).getD .empty, [])
  | .mul a b =>
    let (l, e1) := treeFactor sat fs a
    let (r, e2) := treeFactor sat fs b
    let codes := productCodes sat 0 l r fun _ _ => 0
    (productFactor l r codes, e1 ++ e2 ++ (codes.zipIdx).flatMap fun ((_, es), n) => es.map fun o => (o, n))
/-- The events of a rewritten chain's intermediates, which go before those of its final product (R230). -/
def chainEvents (sat : Bool) (fs : List Factor) : Tree → List MxEvent
  | .leaf _ => []
  | .mul a b => ((treeFactor sat fs a).2 ++ (treeFactor sat fs b).2).map fun (o, n) => ⟨n, false, o⟩
/-- The final product of a rewritten chain into its last member's accumulator, with its own events. -/
def chainOut (td : TCfg) (sat : Bool) (e : Int) (fs : List Factor) (t : Tree) (d : Memory) : TileOut :=
  match t with
  | .leaf _ => zeroOut
  | .mul a b =>
    let codes := productCodes sat e (treeFactor sat fs a).1 (treeFactor sat fs b).1 fun i j => codeAt td d i j
    ⟨accMem td (codes.map (·.1)), [], [], [], (codes.zipIdx).flatMap fun ((_, es), n) => es.map fun o => ⟨n, false, o⟩⟩
/-- The exponent-form SCALE that alone reads an MMA's result (R226). An integer product has no chunk sum to which 2^n could be
applied (R204, R227) and is not folded (assumption 83). -/
def foldScale (c : LaunchCfg) (w : Warp) (cl : List Node) (n : Node) : Option Node :=
  let floats := (((w.tile n.dst.1).conf c).map fun t => !t.elem.isInt).getD false
  match n.kind, readers w n.dst with
  | .mma .., [r] => (match r.kind with | .scalePow .. => if cl.contains r && floats then some r else none | _ => none)
  | _, _ => none
/-- The TRANSPOSE that alone reads a superseded MMA result (R226). -/
def swapped (w : Warp) (cl : List Node) (n : Node) : Bool :=
  match n.kind, readers w n.dst with
  | .mma .., [r] => superseded w n && r.kind == .transpose && cl.contains r
  | _, _ => false
/-- Whether an earlier member is shared by a later one (R226, R246): the same kind with its flags, operand versions, slot and DUAL
bit, and neither rounds by SR. -/
def sharable (a b : Node) : Bool :=
  a.kind == b.kind && a.ops == b.ops && a.slot == b.slot && a.dual == b.dual && a.draws == [] && b.draws == []

/-! ### Evaluating a closure -/

/-- One event as it is reported: origin, rewritten. -/
structure Report where
  origin : VAddr
  rewritten : Bool
  tang : Bool
  ovf : Bool
  deriving DecidableEq, Repr
/-- The work of an evaluation: the warp as its tiles stand, factors captured for chains, folded results, the reports. -/
structure EvalAcc where
  w : Warp
  factors : List (Nat × Nat × Factor)
  folded : List ((Nat × BitVec 16) × TileOut)
  reports : List Report
/-- The reports of a node's events in their order. -/
def reportsOf (n : Node) (rew : Bool) (es : List MxEvent) : List Report := es.map fun e => ⟨n.origin, rew, e.tang, e.ovf⟩
/-- Evaluates the member at place i of a closure (R219, R227, R229). `rw` pairs each rewritten chain with its tree. The events of an
MMA that is swapped under a TRANSPOSE or takes a SCALE are reported at the MMA's place with its origin (assumption 84); those of a
folded MMA that is not superseded, whose own result is written too, stand before the folded ones. A member that is shared is evaluated
again, in its own destination's format, and its events are not counted: the copy that R227 speaks of where the formats are the same
(assumption 105). -/
def evalMember (v : EvalEnv) (w0 : Warp) (cl : List Node) (rw : List (Chain × Tree)) (reassoc : Bool) (a : EvalAcc)
    (n : Node) (i : Nat) : EvalAcc :=
  let c := v.u.cfg
  let chain := ((rw.zipIdx).find? fun ((ch, _), _) => ch.members.contains n)
  let a := match chain with
    | some ((ch, _), k) =>
      let p := ch.members.idxOf n
      { a with factors := a.factors ++ (ch.factors.zipIdx).filterMap fun (x, f) =>
          if x.member == p then some (k, f, factorOf c a.w n x) else none }
    | none => a
  let fold := if reassoc then foldScale c w0 cl n else none
  let events (o f : TileOut) : List MxEvent :=
    if fold.isNone then o.events else if superseded w0 n then f.events else o.events ++ f.events
  let exp := match fold.map (·.kind) with | some (.scalePow k _) => k.toInt | _ => (0 : Int)
  match chain with
  | some ((ch, t), k) =>
    if ch.members.getLast? != some n then a
    else
      let D := a.w.tile n.dst.1
      match D.conf c with
      | none => a
      | some td =>
        let fs := (List.range ch.factors.length).map fun f =>
          (((a.factors.find? fun (k', f', _) => k' == k && f' == f).map (·.2.2))).getD .empty
        let sat := ((c.slot n.slot).map (·.sat)).getD false
        let o := chainOut td sat 0 fs t D.data
        let f := chainOut td sat exp fs t D.data
        { a with
          w := a.w.setTile n.dst.1 (·.put o)
          folded := if fold.isSome then (n.dst, f) :: a.folded else a.folded
          reports := a.reports ++ reportsOf n true (chainEvents sat fs t ++ events o f) }
  | none =>
    -- the ZERO nodes of rewritten chains are dropped
    if n.kind == .zero && rw.any fun (ch, _) => ch.members.dropLast.any fun m => m.ops[2]? == some n.dst then a
    else
      let D := a.w.tile n.dst.1
      let dims := ((D.conf c).map fun t => (t.rows, t.cols)).getD (1, 1)
      match n.kind, (n.ops.head?).bind fun o => a.folded.find? (·.1 == o) with
      | .scalePow .., some (_, o) =>
        -- the folded MMA's values, converted into the SCALE's destination
        let w1 := a.w.setTile (((n.ops.head?).map (·.1)).getD 0) (·.put o)
        let r := evalNode v w1 { n with kind := match n.kind with | .scalePow _ ac => .scalePow 0 ac | k => k } 0
        { a with w := a.w.setTile n.dst.1 (·.put r), reports := a.reports ++ reportsOf n false (sortEvents r.events dims.1 dims.2 false) }
      | _, _ =>
        let shared := (cl.take i).any fun m => sharable m n
        let o := evalNode v a.w n 0
        let f := if fold.isSome then evalNode v a.w n exp else o
        let order (es : List MxEvent) : List MxEvent := sortEvents es dims.1 dims.2 (swapped w0 cl n)
        { a with
          folded := if fold.isSome then (n.dst, f) :: a.folded else a.folded
          w := a.w.setTile n.dst.1 (·.put o)
          reports := if shared then a.reports
            else a.reports ++ reportsOf n false
              (events { o with events := order o.events } { f with events := order f.events }) }
/-- Evaluates a closure in append order on the warp's tiles; its reports in the order of R233. The Jointer sees the graph as it
stood when the closure was forced, so that its rewrites do not depend on when the evaluation begins (R226; assumption 80). -/
def evalClosure (v : EvalEnv) (w : Warp) (cl graph : List Node) (reassoc : Bool) : Warp × List Report :=
  let w0 := { w with graph := graph }
  let rw := if reassoc then (chainsOf v.u.cfg w0 cl).filterMap fun ch => (ch.rewrite v.u.cfg w0).map fun t => (ch, t) else []
  let a := (cl.zipIdx).foldl (fun a (n, i) => evalMember v w0 cl rw reassoc a n i) ⟨w, [], [], []⟩
  (a.w, a.reports)
/-- MXSTAT after reports (R232, R233). -/
def mxReport (st : BitVec 128) (r : Report) : BitVec 128 :=
  let v := st.toNat
  let count := bitsOf v 76 8
  let first := if count = 0 then
      r.origin.toNat + (if r.rewritten then 2 ^ 74 else 0) + (if r.tang then 2 ^ 75 else 0)
    else v % 2 ^ 72 + bitsOf v 74 2 * 2 ^ 74
  let sticky := bitsOf v 72 2 ||| (if r.ovf then 1 else 2)
  BitVec.ofNat 128 (first + sticky * 2 ^ 72 + min 255 (count + 1) * 2 ^ 76)
/-- DET1 of MX_OVF (R234). -/
def mxDet1 (r : Report) : Nat :=
  (if r.ovf then 2 ^ 8 else 2 ^ 9) + (if r.rewritten then 2 ^ 10 else 0) + (if r.tang then 2 ^ 11 else 0)

/-! ### Forcing (R217 to R224) -/

/-- The pending count of a warp toward L, and the cost of a node (R222). -/
def nodeCost (dual : Bool) : Nat := if dual then 2 else 1
def Warp.pendingCount (w : Warp) : Nat := sumOf (w.graph.map fun n => nodeCost n.dual)
/-- The members of a request's closure as the graph stands. -/
def EvalReq.members (r : EvalReq) (w : Warp) : List Node :=
  if r.whole then w.graph
  else match r.target with
    | some v => w.closure [v]
    | none => []
/-- Whether an evaluation queued or under way on the core reads or writes a tile of a warp (R221). -/
def Core.evaluating (c : Core) (id : WarpId) (w : Warp) (m : Nat) : Bool :=
  let uses (n : Node) : Bool := n.dst.1 == m || n.ops.any fun o => o.1 == m
  (match c.evalCur with | some (r, cl) => r.w == id && cl.any uses | none => false) ||
    c.evalQ.any fun r => r.w == id && (r.members w).any uses
def Core.asked (c : Core) (r : EvalReq) : Bool :=
  let same (x : EvalReq) : Bool := x.w == r.w && x.whole == r.whole && x.target == r.target && !x.teval
  c.evalQ.any same || (c.evalCur.map fun (x, _) => same x).getD false
/-- Inserts a request by clk and warp slot (R220). -/
def insertReq (r : EvalReq) : List EvalReq → List EvalReq
  | [] => [r]
  | x :: xs => if r.clk < x.clk || (r.clk == x.clk && r.slot < x.slot) then r :: x :: xs else x :: insertReq r xs
/-- Asks for an evaluation, unless the same wait has asked already. -/
def State.askEval (s : State) (core : Nat) (r : EvalReq) : State :=
  if !r.teval && (s.core core).asked r then s else s.modCore core fun c => { c with evalQ := insertReq r c.evalQ }
/-- A request of a forcing issue. -/
def reqOf (s : State) (b : Bundle) (wi : Nat) (w : Warp) (ls : List Nat) (whole teval : Bool) (t : Option (Nat × BitVec 16)) :
    EvalReq :=
  ⟨b.wid wi, b.pc, whole, t, teval, ls, s.clk, w.slot, w.graph⟩
/-- What a forcing read of a tile's current version finds: `none` when it may go on, else the state in which it waits. -/
def forceTile (s : State) (b : Bundle) (wi : Nat) (w : Warp) (ls : List Nat) (m : Nat) : Option State :=
  let t := w.tile m
  if w.graph.any fun n => n.dst == (m, t.ver) then
    some (s.askEval b.g.core (reqOf s b wi w ls false false (some (m, t.ver))))
  else if t.inflight.isSome || (s.core b.g.core).evaluating (b.wid wi) w m then some s
  else none
/-- The first step of an eager write of a tile (R217): every pending node that reads a version of it is forced. -/
def forceReaders (s : State) (b : Bundle) (wi : Nat) (w : Warp) (ls : List Nat) (m : Nat) : Option State :=
  match w.graph.filter fun n => n.ops.any fun o => o.1 == m with
  | n :: _ => some (s.askEval b.g.core (reqOf s b wi w ls false false (some n.dst)))
  | [] => if (w.tile m).inflight.isSome || (s.core b.g.core).evaluating (b.wid wi) w m then some s else none
/-- The whole pending graph (R223, R270). -/
def forceAll (s : State) (b : Bundle) (wi : Nat) (w : Warp) (ls : List Nat) : Option State :=
  if w.graph = [] then none else some (s.askEval b.g.core (reqOf s b wi w ls true false none))
/-- The graph limit of a launch (R222). -/
def LaunchCfg.limit (c : LaunchCfg) : Nat := if c.tt = 1 then max 2 c.glimit else c.glimit
/-- The pool entries that a launch reserves for each warp: L in deterministic mode, else min(4, L) (R224). -/
def LaunchCfg.reserve (c : LaunchCfg) : Nat := if c.det != 0 then c.limit else min 4 c.limit
/-- The warps that hold entries of a core's pool: each with its reserve, its pending count, and what no other warp can have taken: its
pending nodes, or in deterministic mode its reserve, which its placement counted (R224, R329). -/
def State.poolHolders (s : State) (core : Nat) : List (WarpId × Nat × Nat × Nat) :=
  s.units.flatMap fun u => (u.wgs.zipIdx).flatMap fun (g, gi) =>
    if g.core == core && u.state != .saved then
      ((g.warps.zipIdx).filter fun (x, _) => x.slot < 32).map fun (x, wi) =>
        ((⟨u.id, gi, wi⟩ : WarpId), u.cfg.reserve, x.pendingCount,
          if u.cfg.det != 0 then max u.cfg.reserve x.pendingCount else x.pendingCount)
    else []
/-- The entries that are reserved, or taken beyond a reserve. -/
def State.poolTaken (s : State) (core : Nat) : Nat := sumOf ((s.poolHolders core).map fun (_, r, n, _) => max r n)
/-- Room in the core's pool for a node of a warp, outside deterministic mode: in its reserve or the shared rest, and among the 512
(R224). -/
def State.poolRoom (s : State) (core : Nat) (w : WarpId) (cost : Nat) : Bool :=
  let own := (((s.poolHolders core).find? fun (id, _, _, _) => id == w).map fun (_, r, n, _) => r - min n r).getD 0
  decide (sumOf ((s.poolHolders core).map fun (_, _, _, k) => k) + cost ≤ Config.graphPool) &&
    decide (own + (Config.graphPool - min Config.graphPool (s.poolTaken core)) ≥ cost)
/-- Makes room for a node: the limit, then the pool (R223, R224). A warp with no pending node of its own waits for the others, whose
nodes fill the pool (assumption 90). -/
def makeRoom (s : State) (b : Bundle) (wi : Nat) (w : Warp) (ls : List Nat) (dual : Bool) : Option State :=
  let cost := nodeCost dual
  if w.pendingCount + cost > b.u.cfg.limit && w.graph != [] then forceAll s b wi w ls
  else if b.u.cfg.det != 0 || s.poolRoom b.g.core (b.wid wi) cost then none
  else
    match w.graph with
    | n :: _ => some (s.askEval b.g.core (reqOf s b wi w ls false false (some n.dst)))
    | [] => some s
/-- Reserves the draws of a node of `count` elements that rounds by SR (R196, R246): the warp with its counts advanced, and
the first count of each lane. -/
def reserveDraws (w : Warp) (count : Nat) : Warp × List (BitVec 34) :=
  ({ w with threads := (w.threads.zipIdx).map fun (t, l) =>
      { t with draws := t.draws + BitVec.ofNat 34 (count / 32 + if l < count % 32 then 1 else 0) } },
   w.threads.map (·.draws))
/-- Appends a node to a tile (R213, R215, R216, R236). -/
def appendNode (w : Warp) (kind : NodeKind) (m : Nat) (ops : List Nat) (slot : SlotNum) (dual : Bool) (pc : VAddr)
    (extra : Mask) (srCount : Nat) : Warp :=
  let (w, draws) := if srCount = 0 then (w, []) else reserveDraws w srCount
  let vs := ops.map fun o => (o, (w.tile o).ver)
  let mask := ops.foldl (fun k o => k ||| (w.tile o).mask) extra
  let v := (w.tile m).ver + 1
  let w := w.setTile m fun t => { t with ver := v, mask := mask }
  Warp.dropDead { w with graph := w.graph ++ [⟨kind, (m, v), vs, slot, dual, pc, mask, draws⟩] }
/-- An eager write's new version (R217). -/
def eagerWrite (w : Warp) (m : Nat) (f : Tile → Tile) : Warp :=
  Warp.dropDead (w.setTile m fun t => f { t with ver := t.ver + 1 })

end Sys2Proof.Machine
end

