-- ==== Sys2Proof/Machine/MemIssue.lean ====
section
/-! DEFINITION. The issue side of memory accesses: checks and placement of an access, L1, forwarding, the waits, and the
operations they leave in flight (R160 to R170, R404 to R406, R417 to R423, R499). -/

namespace Sys2Proof.Machine

/-! ### Where an access goes (R161, R166, R349, R452, R497) -/

/-- The checks of R161 on n bytes at an address. -/
def AReg.allows (a : AReg) (va : Int) (n : Nat) (rd wr : Bool) : Bool :=
  a.valid && decide ((a.base.toNat : Int) ≤ va) && decide (va + n - 1 ≤ a.limit.toNat) && (!rd || a.r) && (!wr || a.w)
/-- The bound stash window that serves a virtual address. -/
def Placed.stashAt (u : Placed) (va : Nat) : Option Stash := u.stash.find? fun st => st.vbase ≤ va && va < st.vbase + st.length
/-- Space and address of a virtual address through the window of a register, or through the argument span; a stash window
serves its span by virtual address. -/
def Placed.resolve (u : Placed) (a : AReg) (va : Nat) : Space × Nat :=
  match u.stashAt va with
  | some _ => (.stash, va)
  | none =>
    if a.arg then
      match u.arg with
      | some (vb, _, sp, ib) => (sp, ib + (va - vb))
      | none => (.local, va)
    else
      match u.windows[a.win]? with
      | some w => (w.space, w.ibase + (va - w.base))
      | none => (.local, va)
/-- The tangent stride of a register's window (R166). -/
def Placed.stride (u : Placed) (a : AReg) : Nat :=
  if a.arg then 0 else ((u.windows[a.win]?).map (·.stride)).getD 0
/-- The pieces of n bytes at a virtual address: space, address, length, offset. -/
def Placed.place (u : Placed) (a : AReg) (va n : Nat) : List (Space × Nat × Nat × Nat) :=
  (splitAt 256 (n / 256 + 2) va n).flatMap fun (v, m) =>
    let (sp, ad) := u.resolve a v
    (lineParts ad m).map fun (x, k) => (sp, x, k, v - va + (x - ad))
/-- The parts of one lane's access. `off` is where its bytes stand in the lane's value. -/
def accParts (u : Placed) (a : AReg) (lane tang : Nat) (va : Int) (n off carried : Nat) (data : List Byte) : List Part :=
  (u.place a va.toNat n).map fun (sp, ad, k, o) => ⟨lane, tang, sp, ad, k, off + o, (data.drop o).take k, [], .sent, 0, carried⟩

/-! ### L1 and pending stores (R405, R406, R412, R163) -/

/-- The resident byte that a load may use, with its block's V. -/
def Core.l1Byte (c : Core) (now a : Nat) : Option (Byte × Nat) :=
  (c.l1.find? fun k => k.base ≤ a && a < k.base + k.data.length && now < k.e).bind fun k =>
    (k.data[a - k.base]?).map fun b => (b, k.v)
/-- All bytes of a span from L1, with the largest V. -/
def Core.l1Read (c : Core) (now a n : Nat) : Option (List Byte × Nat) :=
  (List.range n).foldl (fun acc i => match acc, c.l1Byte now (a + i) with
    | some (bs, v), some (b, w) => some (bs ++ [b], max v w)
    | _, _ => none) (some ([], 0))
def OpKind.isStore : OpKind → Bool
  | .store | .tst | .sflush .. => true
  | _ => false
/-- The bytes of a store's part that lie in a span: each one's address with the byte, those apart that an atomic has gone after (R406). -/
def Part.bytesIn (p : Part) (a n : Nat) : List (Nat × Byte) :=
  ((p.data.zipIdx).filter fun (_, i) => decide (a ≤ p.addr + i) && decide (p.addr + i < a + n) && natGet p.fwd i == 0).map
    fun (b, i) => (p.addr + i, b)
/-- The bytes that a core's stores lay over a span, by offset and with 1 added, and the stores they come from: of every store not
yet acked, or of the parts not yet applied. Of one issue's lanes the highest comes last (R98, R162). -/
def State.storedBytes (s : State) (applied : Bool) (core : Nat) (sp : Space) (a n : Nat) : NatMap × List Nat :=
  if sp == .stash || sp == .spad then ([], [])
  else
    let ps : List (MemOp × Part) := (s.ops.filter fun o => o.core == core && o.kind.isStore).flatMap fun o =>
      (o.parts.filter fun p => p.space == sp && (applied || p.st == .sent || p.st == .held) && p.bytesIn a n != []).map fun p => (o, p)
    ((sortKey (fun x => 32 * x.1.group + x.2.lane) ps).foldl (fun m x =>
       (x.2.bytesIn a n).foldl (fun m (y, b) => natSet m (y - a) (b.toNat + 1)) m) [],
     (ps.map (·.1.id)).eraseDups)
/-- The bytes of a span that are pending at the core until their stores' acks (R406). -/
def State.pendingBytes (s : State) : Nat → Space → Nat → Nat → NatMap × List Nat := s.storedBytes true
/-- Lays pending bytes over the bytes read. -/
def overlay (bs : List Byte) (fwd : NatMap) : List Byte :=
  (bs.zipIdx).map fun (b, i) => match natGet fwd i with
    | 0 => b
    | n + 1 => BitVec.ofNat 8 n
/-- Whether bytes of a fill still in flight are among a span (R406): a load of any policy waits for it. -/
def State.fillPending (s : State) (core a n : Nat) : Bool :=
  s.ops.any fun o => o.core == core && o.pol != .byp &&
    (match o.kind with | .load .. | .pref | .tld _ | .aldp .. => true | _ => false) &&
    o.parts.any fun p => p.space == .local && p.st == .sent && overlaps (p.addr / 32 * 32) ((p.n + p.addr % 32 + 31) / 32 * 32) a n
/-- Whether an atomic of the core that has not been performed covers bytes of a span. -/
def State.atomicPending (s : State) (core a n : Nat) : Bool :=
  s.ops.any fun o => o.core == core && (match o.kind with | .atom .. | .cas .. => true | _ => false) &&
    o.parts.any fun p => p.space == .local && (p.st == .sent || p.st == .held) && overlaps p.addr p.n a n
/-- One access of a load at issue: its parts with forwarded bytes, served at once on an L1 hit (R405, R406). -/
def State.loadAccess (s : State) (core : Nat) (pol : Policy) (ps : List Part) : List Part :=
  let ps := ps.map fun p => { p with fwd := (s.pendingBytes core p.space p.addr p.n).1 }
  let hit := pol != .byp && ps.all fun p =>
    p.space == .local && ((s.core core).l1Read (s.now core) p.addr p.n).isSome && !s.atomicPending core p.addr p.n
  if hit then ps.map fun p =>
    match (s.core core).l1Read (s.now core) p.addr p.n with
    | some (bs, v) => { p with st := .done, data := overlay bs p.fwd, time := v }
    | none => p
  else ps
def State.forwarders (s : State) (core : Nat) (ps : List Part) : List Nat :=
  (ps.flatMap fun p => (s.pendingBytes core p.space p.addr p.n).2).eraseDups

/-! ### Waits at issue (R106, R161, R418, R422) -/

/-- Whether a lane's later accesses may go: its acquires have returned and their times have passed. -/
def Thread.acqDone (t : Thread) (now : Nat) : Bool := t.acq == [] && t.acqTime ≤ now
/-- Every lane of an issue has its acquires done (R422). -/
def Bundle.acqDone (b : Bundle) (s : State) : Bool := b.lanes.all fun (_, _, _, t) => t.acqDone (s.now b.g.core)
/-- Whether an issue's accesses may leave: counters below 62, acquires done, address taints reached. -/
def Bundle.mayGo (b : Bundle) (s : State) (ctr : Option Counter) (mask : Thread → Mask) : Bool :=
  let now := s.now b.g.core
  b.parts.all fun (_, w, ls) =>
    (match ctr with | some c => decide (w.counter c < 62) | none => true) &&
    ls.all fun l => match w.threads[l]? with
      | some t => t.acqDone now && visReached w.tags (mask t) now
      | none => true
/-- A window whose SUNMAP has not been acked holds up every access of the cluster to its span (R453). -/
def State.unbinding (s : State) (u : Placed) (a : Nat) : Bool :=
  match u.stashAt a with
  | some st => s.ops.any fun o => o.w.unit == u.id &&
    (match o.kind with | .sflush vs true => vs.contains st.vbase | _ => false)
  | none => false
def State.heldUp (s : State) (u : Placed) (ps : List (Space × Nat × Nat)) : Bool :=
  ps.any fun (sp, a, _) => sp == .stash && s.unbinding u a
/-- The time a lane's store carries (R165): none while one of its tags is in flight. -/
def carriedTime (w : Warp) (m : Mask) : Option Nat := visTime w.tags m
def Bundle.carriedKnown (b : Bundle) (mask : Thread → Mask) : Bool :=
  b.parts.all fun (_, w, ls) => ls.all fun l => match w.threads[l]? with
    | some t => (carriedTime w (mask t)).isSome
    | none => true

/-! ### LOOP spans (R225, R250, R258) -/

/-- The fields of a pitch word. -/
def pitchOf (pw : Word) : Nat := bitsOf pw.toNat 0 16
def soffOf (pw : Word) : Nat := 64 * bitsOf pw.toNat 16 16
/-- Where scale bytes stand among a tile's bytes. -/
def scaleOff : Nat := 2 ^ 20
/-- The byte spans of a tile at T: address, length, place in the tile's image; rows, then scales (R250). -/
def tileSpans (t : TCfg) (T : Int) (pw : Word) : List (Int × Nat × Nat) :=
  ((List.range t.rows).map fun (i : Nat) => (T + (i * pitchOf pw : Nat), t.rowb, i * t.rowb)) ++
  (if t.scale = 1 then
    (List.range t.rows).map fun (i : Nat) => (T + (soffOf pw + i * t.blocks : Nat), t.blocks, scaleOff + 8 * i)
   else if t.scale = 2 then [(T + (soffOf pw : Nat), 4, scaleOff)] else [])
/-- One operand of a LOOP at one step: the register, the configuration, the spans. -/
def loopStep (c : LaunchCfg) (t : TCfg) (l : LoopArgs) (o k : Nat) : AReg × List (Int × Nat × Nat) :=
  let per := loopChunk c t * l.kc
  if o = 0 then (l.a, tileSpans (loopCfg c t t.rows per) (l.a.ptr.toNat + 8 * l.ainc * k) l.pwa)
  else (l.b, tileSpans (loopCfg c t t.cols per) (l.b.ptr.toNat + 8 * l.binc * k) l.pwb)
/-- Every access of a LOOP: step, operand, tangent, register, address, length, place (R166, R258). -/
structure LoopAcc where
  step : Nat
  operand : Nat
  tang : Nat
  a : AReg
  va : Int
  n : Nat
  off : Nat
  deriving DecidableEq, Repr
def loopAccs (u : Placed) (t : TCfg) (l : LoopArgs) (dual : Bool) : List LoopAcc :=
  (List.range l.steps).flatMap fun k => [0, 1].flatMap fun o =>
    let (a, sp) := loopStep u.cfg t l o k
    sp.flatMap fun (va, n, off) =>
      ⟨k, o, 0, a, va, n, off⟩ :: (if dual && u.stride a > 0 then [⟨k, o, 1, a, va + u.stride a, n, off⟩] else [])
/-- Whether a pending LOOP node reads one of the bytes at the places given. -/
def loopHit (u : Placed) (w : Warp) (n : Node) (at_ : List (Space × Nat × Nat)) : Bool :=
  match n.kind with
  | .loop l =>
    match (w.tile n.dst.1).conf u.cfg with
    | some t => (loopAccs u t l n.dual).any fun x =>
        (u.place x.a x.va.toNat x.n).any fun (sp, ad, k, _) => at_.any fun (sp', ad', k') => sp == sp' && overlaps ad k ad' k'
    | none => false
  | _ => false
/-- The pending LOOP nodes that an issue's stores overlap are forced first (R225). -/
def forceLoops (s : State) (b : Bundle) (stores : List (Nat × List (Space × Nat × Nat))) : Option State :=
  match b.parts.filterMap fun (wi, w, ls) =>
      let at_ := (stores.filter (·.1 == wi)).flatMap (·.2)
      (w.graph.find? fun n => loopHit b.u w n at_).map fun n => (wi, w, ls, n) with
  | (wi, w, ls, n) :: _ => some (s.askEval b.g.core (reqOf s b wi w ls false false (some n.dst)))
  | [] => none

/-! ### Digests (R393, R394) -/

/-- The CRC of one store unit. -/
def digestUnit (win off : Nat) (data : List Byte) : Nat :=
  crc64 (natBytes 1 win ++ natBytes 8 off ++ natBytes 2 data.length ++ data)
def Warp.addDigest (w : Warp) (v : Nat) : Warp := { w with digest := w.digest + BitVec.ofNat 64 v }
/-- The store unit of a register's window at an address. -/
def Placed.storeUnit (u : Placed) (a : AReg) (va : Nat) (data : List Byte) : Nat :=
  digestUnit a.win (va - ((u.windows[a.win]?).map (·.base)).getD 0) data

/-! ### Issuing operations -/

/-- The tags of a warp with those whose time has passed free (R107). -/
def freshTags (tags : List Tag) (now : Nat) : List Tag :=
  tags.map fun t => match t with | .timed v => if v ≤ now then .free else .timed v | x => x
/-- The value bytes of a register group, of the primal or of tangent k. -/
def groupBytes (t : Thread) (g n : Nat) : List Byte :=
  ((List.range ((n + 3) / 4)).flatMap fun i => natBytes 4 (t.gr (g + i)).val.toNat).take n
def groupShBytes (t : Thread) (g k n : Nat) : List Byte :=
  ((List.range ((n + 3) / 4)).flatMap fun i => natBytes 4 ((((t.gr (g + i)).sh)[k]?).getD 0).toNat).take n
/-- Sizes that are ever dual (R166). -/
def dualSize : Size → Bool
  | .b16 | .b32 | .b64 | .b128 => true
  | _ => false
/-- The registers of a group. -/
def groupRegs (g : GNum) (sz : Size) : List RegName := gGroup g sz.group
/-- Adds a warp's operation: counter, tag, scoreboard. -/
def State.addOp (s : State) (w : WarpId) (ctr : Option Counter) (takeTagToo : Bool) (sb : List RegName)
    (mk : Option Nat → Nat → MemOp) : State :=
  let now := s.now (s.coreOf w)
  let tags := freshTags (((s.warp? w).map (·.tags)).getD []) now
  let tag := if takeTagToo then some (pickTag tags) else none
  let pc := (mk tag s.nextId).pc
  let s := s.newOp (mk tag)
  s.modWarp w fun x =>
    let x := { x with tags := match tag with | some i => takeTag tags i | none => x.tags }
    let x := match ctr with | some c => x.addCounter c true | none => x
    x.setSb sb pc
/-- An access of one lane: its address and the parts it makes. -/
structure LoadPlan where
  kind : OpKind
  regs : List RegName
  pol : Policy
  scope : Scope
  acq : Bool
  tag : Bool
  /-- the clk a served load waits for: L1 hit or scratchpad latency, and D more of a dual load (R105) -/
  lat : Nat
  /-- the first operation of the issue -/
  group : Nat
/-- Sends the loads of an issue: one operation for each warp, of the parts its lanes make. -/
def State.sendLoads (s : State) (b : Bundle) (p : LoadPlan) (parts : Nat → Thread → List Part) : State :=
  b.parts.foldl (fun t (wi, w, ls) =>
    let ps := ls.flatMap fun l => match w.threads[l]? with | some th => parts l th | none => []
    let served := ps.all (·.st == .done)
    t.addOp (b.wid wi) (some .ld) p.tag p.regs fun tag id =>
      { MemOp.plain (b.wid wi) b.g.core b.pc p.kind ls ps id with
        group := p.group, tag := tag, mask := (tag.map tagMask).getD 0, pol := p.pol, scope := p.scope, acq := p.acq
        waitSt := s.forwarders b.g.core ps
        due := if served || !p.tag then s.clk + p.lat else 0 }) s
/-- The operations an issue has made, by warp: the last of each warp. -/
def opOfWarp (s : State) (w : WarpId) : Nat := (((s.ops.filter (·.w == w)).getLast?).map (·.id)).getD 0
/-- A lane load: the checks, the waits, the operation (R160 to R166, R450). -/
def loadBody (dst : GNum) (sz : Size) (pol : Policy) (n : ANum) (va : LaneCtx → Int) (idx : List RegName) (canDual : Bool)
    (scope : Scope) (acq : Bool) (b : Bundle) (s : State) : Res :=
  let bytes := sz.bytes
  let chk (c : LaneCtx) : LaneOut :=
    let a := c.th.ar n.toNat
    if a.allows (va c) bytes true false then .ok [] else .bad 0x04 (BitVec.ofInt 64 (va c)).toNat 0
  match b.outHits s chk with
  | some (code, hits) => .bad code hits
  | none =>
    let dual := canDual && dualSize sz && b.u.cfg.d > 0 && (b.hints.tan || b.u.cfg.dual)
    let mask (t : Thread) : Mask := t.maskOf (.a n.toNat :: idx)
    let accs (wi : Nat) (w : Warp) (l : Nat) (t : Thread) : List (List Part) :=
      let a := t.ar n.toNat
      let ea := va (b.laneCtx s wi w l t)
      accParts b.u a l 0 ea bytes 0 0 [] ::
        (if dual && b.u.stride a > 0 then
          (List.range b.u.cfg.d).map fun k => accParts b.u a l (k + 1) (ea + ((k + 1) * b.u.stride a : Nat)) bytes 0 0 []
         else [])
    let inFill := b.lanes.any fun (wi, w, l, t) => ((accs wi w l t).flatten).any fun p =>
      (p.space == .local && s.fillPending b.g.core p.addr p.n) || (p.space == .stash && s.unbinding b.u p.addr)
    if !b.mayGo s (some .ld) mask || inFill then .wait
    else
      let lat := 32 + (if dual then b.u.cfg.d else 0)
      let plan : LoadPlan := ⟨.load dst.toNat sz dual, groupRegs dst sz, pol, scope, acq, true, lat, s.nextId⟩
      let t := b.parts.foldl (fun t part =>
        let (wi, w, _) := part
        let one : Bundle := { b with parts := [part] }
        t.sendLoads one plan fun l th => (accs wi w l th).flatMap (s.loadAccess b.g.core pol)) s
      let t := t.retire b false fun wi _ th => if acq then { th with acq := opOfWarp t (b.wid wi) :: th.acq } else th
      .done (t.stay b)

/-! ### Stores and releases (R162, R165, R423, R499) -/

/-- Loads of a warp whose value has not been written. -/
def State.loadsOf (s : State) (w : WarpId) : List Nat :=
  (s.ops.filter fun o => o.w == w && o.kind.counter == some .ld && !o.returned).map (·.id)
/-- LOOP reads of evaluations that have begun (R499). -/
def State.loopReadsOf (s : State) (w : WarpId) : List Nat :=
  (s.ops.filter fun o => o.w == w && !o.returned && (match o.kind with | .loop _ => true | _ => false)).map (·.id)
/-- Whether an operation's bytes all lie in system or peer windows. -/
def MemOp.outside (o : MemOp) : Bool := o.parts.all fun p => match p.space with | .host | .peer _ => true | _ => false
/-- Stores and atomics of a warp not yet acked; system and peer ones count only at system scope (R423, R424). -/
def State.unacked (s : State) (w : WarpId) (sys : Bool) : List Nat :=
  (s.ops.filter fun o => o.w == w && (o.kind.counter == some .st ||
    (match o.kind with | .atom .. | .cas .. => !o.returned | _ => false)) && (sys || !o.outside)).map (·.id)
/-- The clearance condition of device or system scope for what a warp issued before operation `before` (R423, R499). -/
def State.clear (s : State) (w : WarpId) (sys : Bool) (before : Nat) : Bool :=
  !((s.unacked w sys ++ s.loadsOf w ++ s.loopReadsOf w).any (· < before)) &&
    ((s.warp? w).map (·.gwct)).getD 0 ≤ s.now (s.coreOf w)
/-- The first operation number that a waiting fence or release does not wait for. -/
def Bundle.fenceBound (b : Bundle) (s : State) : Nat :=
  ((b.lanes.filterMap fun (_, _, _, t) => t.fenceAt).head?).getD s.nextId
/-- Marks the threads of an issue as waiting for the operations before them. -/
def State.markFence (s : State) (b : Bundle) : State :=
  let k := b.fenceBound s
  b.lanes.foldl (fun s (wi, _, l, _) => s.modThread (b.wid wi) l fun t => { t with fenceAt := some k }) s
/-- Every load before operation k has written its value. -/
def State.loadsDone (s : State) (w : WarpId) (k : Nat) : Bool := !((s.loadsOf w ++ s.loopReadsOf w).any (· < k))
/-- Every scratchpad and stash store before operation k has arrived. -/
def State.arrivedAll (s : State) (w : WarpId) (k : Nat) : Bool :=
  !(s.ops.any fun o => o.w == w && o.id < k && o.kind.counter == some .st &&
    o.parts.any fun p => (p.space == .spad || p.space == .stash) && p.st == .sent)
/-- Whether a release that travels as a plain access may issue (R423): the scopes below device, and any release into a
stash window (assumption 31). -/
def Bundle.relReady (b : Bundle) (s : State) (scope : Scope) : Bool :=
  let k := b.fenceBound s
  b.parts.all fun (wi, _, _) => s.arrivedAll (b.wid wi) k && s.loadsDone (b.wid wi) k &&
    ((scope != .dev && scope != .sys) || s.clear (b.wid wi) (scope == .sys) k)
/-- Whether a release of a scope is held by its slice: device and system scope, and cluster scope; in a stash window, which holds
nothing, each part goes as a plain access does, once the issue may go as one (R423, assumption 31). -/
def heldRelease (scope : Scope) : Bool := match scope with | .warp | .core => false | _ => true
/-- Whether an access of an issue is a release that its slices hold, and whether it must be ready at its issue: one of a scope that
nothing holds, or one with bytes in a stash window. -/
def heldParts (rel : Bool) (scope : Scope) (places : List (Space × Nat × Nat)) : Bool × Bool :=
  let stash := places.any (·.1 == .stash)
  let held := rel && heldRelease scope && (places == [] || places.any (·.1 != .stash))
  (held, rel && (!held || stash))
/-- The lane stores of an issue. -/
structure StorePlan where
  n : ANum
  idx : List RegName
  data : List RegName
  bytes : Nat
  dual : Bool
  pol : Policy
  scope : Scope
  rel : Bool
  /-- the bytes stored, of the primal (0) or of tangent k (k + 1) -/
  value : Thread → Nat → List Byte
def StorePlan.mask (p : StorePlan) (t : Thread) : Mask := t.maskOf (.a p.n.toNat :: (p.idx ++ p.data))
/-- The addresses a lane stores to: tangent number and address. -/
def StorePlan.addrs (p : StorePlan) (u : Placed) (a : AReg) (ea : Int) : List (Nat × Int) :=
  (0, ea) :: (if p.dual && u.stride a > 0 then
    (List.range u.cfg.d).map fun k => (k + 1, ea + ((k + 1) * u.stride a : Nat)) else [])
/-- The parts of a lane's store: the primal, then the tangents in ascending order, which is the order they are applied in where a
stride lays them over one another (assumption 85). -/
def StorePlan.parts (p : StorePlan) (u : Placed) (w : Warp) (l : Nat) (t : Thread) (ea : Int) : List Part :=
  let a := t.ar p.n.toNat
  (p.addrs u a ea).flatMap fun (k, va) =>
    accParts u a l k va p.bytes 0 ((carriedTime w (p.mask t)).getD 0) (p.value t k)
/-- Part of a store issue: the operation of its warp, and the part. -/
abbrev OpPart := Nat × Part
/-- The stores of an issue change their core's L1, lane by lane, so that the highest lane's bytes stay (R98, R162, R406). -/
def State.storeL1All (s : State) (core : Nat) (byp : Bool) (ps : List OpPart) : State :=
  (sortKey (fun x => x.2.lane) ps).foldl (fun s x => s.storeL1 core byp x.1 [x.2]) s
/-- A warp's store at its issue: counter, digest, the operation. -/
def State.sendStores (s : State) (b : Bundle) (p : StorePlan) (held : Bool) (group wi : Nat) (ps : List Part) (digest : Nat)
    (ls : List Nat) : State :=
  let t := s.addOp (b.wid wi) (some .st) false [] fun _ id =>
    { MemOp.plain (b.wid wi) b.g.core b.pc .store ls ps id with
      group := group, pol := p.pol, scope := p.scope, rel := held, cleared := !held }
  if b.u.cfg.det = 0 then t else t.modWarp (b.wid wi) (·.addDigest digest)
/-- The parts of an issue's warps with the operations, numbered from one on, that carry them. -/
def opParts (first : Nat) (pss : List (List Part)) : List OpPart :=
  (pss.zipIdx).flatMap fun (ps, i) => ps.map fun p => (first + i, p)
def storeBody (p : StorePlan) (va : LaneCtx → Int) (b : Bundle) (s : State) : Res :=
  let chk (c : LaneCtx) : LaneOut :=
    if (c.th.ar p.n.toNat).allows (va c) p.bytes false true then .ok [] else .bad 0x04 (BitVec.ofInt 64 (va c)).toNat 0
  match b.outHits s chk with
  | some (code, hits) => .bad code hits
  | none =>
    let plan (wi : Nat) (w : Warp) (ls : List Nat) : List Part := ls.flatMap fun l => match w.threads[l]? with
      | some t => p.parts b.u w l t (va (b.laneCtx s wi w l t))
      | none => []
    let places := b.parts.map fun (wi, w, ls) => (wi, (plan wi w ls).map fun q => (q.space, q.addr, q.n))
    let (held, plain) := heldParts p.rel p.scope (places.flatMap (·.2))
    if !b.mayGo s (some .st) (fun _ => 0) || !b.carriedKnown p.mask || places.any (fun (_, ps) => s.heldUp b.u ps) then .wait
    else if plain && !b.relReady s p.scope then .hold (s.markFence b)
    else
      match forceLoops s b places with
      | some t => .hold t
      | none =>
        let t := b.parts.foldl (fun t (wi, w, ls) =>
          let digest := if b.u.cfg.det = 0 then 0 else
            sumOf (ls.flatMap fun l => match w.threads[l]? with
              | some th =>
                let a := th.ar p.n.toNat
                (p.addrs b.u a (va (b.laneCtx s wi w l th))).map fun (k, x) => b.u.storeUnit a x.toNat (p.value th k)
              | none => [])
          t.sendStores b p held s.nextId wi (plan wi w ls) digest ls) s
        let t := t.storeL1All b.g.core (p.pol == .byp) (opParts s.nextId (b.parts.map fun (wi, w, ls) => plan wi w ls))
        .done ((t.retire b false sameThread).stay b)

end Sys2Proof.Machine
end

