-- ==== Sys2Proof/Machine/LaneMem.lean ====
section
/-! DEFINITION. Lane loads and stores: LD, ST, LDX, STX, LDS, STS and ALDP (R160 to R170). -/

namespace Sys2Proof.Machine

/-! ### LD, ST, LDX, STX (R160 to R166) -/

/-- The address of LD and ST: the offset field counts accesses of the size (R160). -/
def offsetEa (n : ANum) (sz : Size) {w : Nat} (off : BitVec w) (c : LaneCtx) : Int :=
  (c.th.ar n.toNat).ptr.toNat + sz.bytes * immValue c.hints off
/-- The address of LDX and STX: a signed byte offset in g[X]. -/
def indexEa (n : ANum) (x : GNum) (c : LaneCtx) : Int := (c.th.ar n.toNat).ptr.toNat + (c.g x).toInt
/-- Whether a lane access of a size is dual in its issue (R166). -/
def Bundle.dualMem (b : Bundle) (sz : Size) : Bool := dualSize sz && b.u.cfg.d > 0 && (b.hints.tan || b.u.cfg.dual)
/-- The store of a register group. -/
def storePlan (g : GNum) (n : ANum) (sz : Size) (idx : List RegName) (dual : Bool) (pol : Policy) (scope : Scope)
    (rel : Bool) : StorePlan :=
  ⟨n, idx, groupRegs g sz, sz.bytes, dual, pol, scope, rel, fun t k => match k with
    | 0 => groupBytes t g.toNat sz.bytes
    | k + 1 => groupShBytes t g.toNat k sz.bytes⟩
def execLd (g : GNum) (n : ANum) (off : BitVec 10) (sz : Size) (pol : Policy) : State → Host.Outcome State Fault Refusal :=
  issueStd (.ld g n off sz pol) (loadBody g sz pol n (offsetEa n sz off) [] true .dev false)
def execSt (g : GNum) (n : ANum) (off : BitVec 10) (sz : Size) (pol : Policy) : State → Host.Outcome State Fault Refusal :=
  issueStd (.st g n off sz pol) fun b s =>
    storeBody (storePlan g n sz [] (b.dualMem sz) pol .dev false) (offsetEa n sz off) b s
def execLdx (g : GNum) (n : ANum) (x : GNum) (sz : Size) (pol : Policy) : State → Host.Outcome State Fault Refusal :=
  issueStd (.ldx g n x sz pol) (loadBody g sz pol n (indexEa n x) (gOne x) true .dev false)
def execStx (g : GNum) (n : ANum) (x : GNum) (sz : Size) (pol : Policy) : State → Host.Outcome State Fault Refusal :=
  issueStd (.stx g n x sz pol) fun b s =>
    storeBody (storePlan g n sz (gOne x) (b.dualMem sz) pol .dev false) (indexEa n x) b s

/-! ### LDS, STS (R168 to R170) -/

/-- Bytes of the cluster scratchpad that the launch sees. -/
def LaunchCfg.spadSize (c : LaunchCfg) : Nat := c.csize * c.spad
/-- Whether an access at a scratchpad address reaches beyond the scratchpad or touches a stash window's bytes. -/
def Placed.spadBad (u : Placed) (x n : Nat) : Bool :=
  x + n > u.cfg.spadSize || u.stash.any fun st => overlaps x n st.soff st.length
/-- The address of LDS and STS, an unsigned 32-bit sum. -/
def spadEa (a : GNum) (sz : Size) (off : BitVec 8) (t : Thread) : Nat :=
  ((t.gr a.toNat).val.toNat + off.toNat * sz.bytes) % 2 ^ 32
def spadCheck (a : GNum) (sz : Size) (off : BitVec 8) (c : LaneCtx) : LaneOut :=
  let x := spadEa a sz off c.th
  if c.unit.spadBad x sz.bytes then .bad 0x04 x 0 else .ok []
/-- Scratchpad accesses are dual under launch-wide dual mode alone. -/
def Bundle.dualSpad (b : Bundle) (sz : Size) : Bool := dualSize sz && b.u.cfg.d > 0 && b.u.cfg.dual
/-- The parts of one lane: the primal, and tangent k at x + (k + 1) × C × SPAD. -/
def spadParts (b : Bundle) (sz : Size) (l x carried : Nat) (data : Nat → List Byte) : List Part :=
  (List.range (if b.dualSpad sz then b.u.cfg.d + 1 else 1)).map fun k =>
    ⟨l, k, .spad, x + k * b.u.cfg.spadSize, sz.bytes, 0, data k, [], .sent, 0, carried⟩
def execLds (d a : GNum) (sz : Size) (off : BitVec 8) : State → Host.Outcome State Fault Refusal :=
  issueStd (.lds d a sz off) fun b s =>
    match b.outHits s (spadCheck a sz off) with
    | some (code, hits) => .bad code hits
    | none =>
      if !b.mayGo s (some .ld) (fun _ => 0) then .wait
      else
        let lat := 20 + (if b.dualSpad sz then b.u.cfg.d else 0)
        let plan : LoadPlan := ⟨.lds d.toNat sz (b.dualSpad sz), groupRegs d sz, .norm, .dev, false, false, lat, s.nextId⟩
        let t := s.sendLoads b plan fun l th =>
          spadParts b sz l (spadEa a sz off th) (th.gr a.toNat).mask.toNat fun _ => []
        .done ((t.retire b false sameThread).stay b)
def execSts (d a : GNum) (sz : Size) (off : BitVec 8) : State → Host.Outcome State Fault Refusal :=
  issueStd (.sts d a sz off) fun b s =>
    match b.outHits s (spadCheck a sz off) with
    | some (code, hits) => .bad code hits
    | none =>
      if !b.mayGo s (some .st) (fun _ => 0) then .wait
      else
        let value (th : Thread) (k : Nat) : List Byte := match k with
          | 0 => groupBytes th d.toNat sz.bytes
          | k + 1 => groupShBytes th d.toNat k sz.bytes
        let t := b.parts.foldl (fun t (wi, w, ls) =>
          let ps := ls.flatMap fun l => match w.threads[l]? with
            | some th => spadParts b sz l (spadEa a sz off th) 0 (value th)
            | none => []
          t.addOp (b.wid wi) (some .st) false [] fun _ id =>
            { MemOp.plain (b.wid wi) b.g.core b.pc .sts ls ps id with group := s.nextId, due := s.clk + 20 }) s
        .done ((t.retire b false sameThread).stay b)

/-! ### ALDP (R167) -/

/-- A pointer load: one operation for each warp of the issue, whose threads issue nothing further until all return. -/
def execAldp (n m : ANum) (off : BitVec 10) (b128 : Bool) (pol : Policy) : State → Host.Outcome State Fault Refusal :=
  issueStd (.aldp n m off b128 pol) fun b s =>
    let sz : Size := if b128 then .b128 else .b64
    let ea := offsetEa m sz off
    let chk (c : LaneCtx) : LaneOut :=
      if (c.th.ar m.toNat).allows (ea c) sz.bytes true false then .ok [] else .bad 0x04 (BitVec.ofInt 64 (ea c)).toNat 0
    match b.outHits s chk with
    | some (code, hits) => .bad code hits
    | none =>
      let mask (t : Thread) : Mask := t.maskOf [.a m.toNat]
      let acc (wi : Nat) (w : Warp) (l : Nat) (t : Thread) : List Part :=
        accParts b.u (t.ar m.toNat) l 0 (ea (b.laneCtx s wi w l t)) sz.bytes 0 (mask t).toNat []
      let inFill := b.lanes.any fun (wi, w, l, t) => (acc wi w l t).any fun p =>
        (p.space == .local && s.fillPending b.g.core p.addr p.n) || (p.space == .stash && s.unbinding b.u p.addr)
      if !b.mayGo s (some .ld) mask || inFill then .wait
      else
        let group := s.nextId
        let t := b.parts.foldl (fun t (wi, w, ls) =>
          let ps := ls.flatMap fun l => match w.threads[l]? with
            | some th => s.loadAccess b.g.core pol (acc wi w l th)
            | none => []
          t.addOp (b.wid wi) (some .ld) true [.a n.toNat] fun tag id =>
            { MemOp.plain (b.wid wi) b.g.core b.pc (.aldp n.toNat b128) ls ps id with
              group := group, tag := tag, mask := (tag.map tagMask).getD 0, pol := pol
              waitSt := s.forwarders b.g.core ps
              due := if ps.all (·.st == .done) then s.clk + 32 else 0 }) s
        .done (b.ordered.foldl (fun t (wi, l, _) => t.modThread (b.wid wi) l fun x => { x with busy := some group }) t)

end Sys2Proof.Machine
end

