-- ==== Sys2Proof/Machine/Ckpt.lean ====
section
/-! DEFINITION. Checkpoints: what REGION and WAITCMP save, its image in the save slot, and REGION itself (R53, R110, R157,
R361, R389, R394, R447). -/

namespace Sys2Proof.Machine

/-! ### The save slot (R361) -/

/-- The first physical byte of a unit's save slot. -/
def State.slotBase (s : State) (u : Placed) : Nat := (s.ctx u.ctx).save.toNat * 4096 + Config.slotBytes * u.saveSlot
def threadSlot (wg w l : Nat) : Nat := 4 * 2 ^ 20 + 16 * 2 ^ 20 * wg + 512 * 2 ^ 10 * w + 4096 * l
def warpSlot (wg w : Nat) : Nat := 4 * 2 ^ 20 + 16 * 2 ^ 20 * wg + 512 * 2 ^ 10 * w + 128 * 2 ^ 10
/-- Writes physical bytes at places in a unit's slot. -/
def State.slotWrite (s : State) (u : Placed) (img : List (Nat × List Byte)) : State :=
  { s with home := img.foldl (fun h (o, bs) => (writePhys h (s.slotBase u + o) bs).1) s.home }
/-- The first byte that a write of the slot's bytes leaves, since it lies in a poisoned unit that is not written whole (R364, R495). -/
def State.slotBadAt (s : State) (u : Placed) (img : List (Nat × List Byte)) : Option Nat :=
  img.findSome? fun (o, bs) => (writePhys s.home (s.slotBase u + o) bs).2
def State.slotBad (s : State) (u : Placed) (img : List (Nat × List Byte)) : Bool := (s.slotBadAt u img).isSome
/-- Whether a read of the slot meets poison (R364). -/
def State.slotPoisoned (s : State) (u : Placed) (spans : List (Nat × Nat)) : Bool :=
  spans.any fun (o, n) => (poisonedIn s.home (s.slotBase u + o) n).isSome
/-- Bytes of the slot. -/
def State.slotRead (s : State) (u : Placed) (o n : Nat) : List Byte := memRead s.home.mem (s.slotBase u + o) n
/-- A tile as the warp part holds it; the order in its first 64 bytes is assumption 17. -/
def tileImage (n : Nat) (t : Tile) : List (Nat × List Byte) :=
  let o := 1024 + 18 * 1024 * n
  [(o, natBytes 4 ((t.cfg.map (·.toNat)).getD 0) ++ natBytes 2 t.ver.toNat ++ natBytes 1 t.mask.toNat ++
    natBytes 1 (if t.cfg.isSome then 1 else 0)),
   (o + 64, memRead t.data 0 8192), (o + 8256, memRead t.scales 0 512),
   (o + 8768, memRead t.shData 0 8192 ++ memRead t.shScales 0 512)]
/-- The bytes that a thread's checkpoint writes. -/
def ckptImage (c : ThreadCkpt) : List (Nat × List Byte) :=
  (0, natBytes 9 c.pc.toNat ++ natBytes 2 c.k ++ natBytes 5 c.draws.toNat) ::
  (c.g.map fun (n, r) => let (o, bs) := gImage n r false; (o, bs.take 21)) ++
  (c.a.map fun (n, r) => aImage n r) ++ (c.p.map fun (n, r) => pImage n r)
def warpCkptImage (det : Bool) (c : WarpCkpt) (tiles : Bool) : List (Nat × List Byte) :=
  (c.tags.map fun (n, t) => (16 * n, tagBytes t)) ++
  (if det then [(128, natBytes 8 c.retired.toNat ++ natBytes 8 (c.sigma * 2 ^ 16 + c.offset % 2 ^ 16) ++
    natBytes 8 c.digest.toNat)] else []) ++
  (if tiles then c.tiles.flatMap fun (n, t) => tileImage n t else [])
def shiftImage (o : Nat) (img : List (Nat × List Byte)) : List (Nat × List Byte) := img.map fun (a, bs) => (o + a, bs)

/-! ### Writing a checkpoint -/

/-- The region number of a WAITCMP's checkpoint when the thread has retired no REGION (assumption 36). -/
def noRegion : Nat := 0xFFFF
def RegionEntry.empty : RegionEntry := ⟨0, 0, 0, 0, 0⟩
def LaunchCfg.region (c : LaunchCfg) (k : Nat) : RegionEntry := (c.regions[k]?).getD RegionEntry.empty
/-- The places of the one bits of a mask of n bits. -/
def onesOf (v n : Nat) : List Nat := (List.range n).filter (bitOf v)
/-- The registers an entry lists. -/
def RegionEntry.regs (e : RegionEntry) : List RegName :=
  ((onesOf e.g.toNat 128).map .g) ++ ((onesOf e.p.toNat 8).map .p) ++ ((onesOf e.a.toNat 8).map .a)
/-- The region number of a thread's last REGION. -/
def Thread.lastRegion (t : Thread) : Nat := (t.ckpt.map (·.k)).getD noRegion
/-- The thread part (R110), with further registers of a WAITCMP (R447). -/
def threadCkpt (e : RegionEntry) (k : Nat) (xg xa : List Nat) (t : Thread) : ThreadCkpt :=
  ⟨t.pc, k, ((onesOf e.g.toNat 128 ++ xg).eraseDups).map (fun n => (n, t.gr n)),
    (onesOf e.p.toNat 8).map (fun n => (n, t.pr n)),
    ((onesOf e.a.toNat 8 ++ xa).eraseDups).map (fun n => (n, t.ar n)), t.draws⟩
/-- The warp part (R110): the tags of the entries, in deterministic mode the count, rotation and digest, and the tiles when
the checkpoint writes them; tiles saved before stay otherwise. -/
def warpCkpt (u : Placed) (es : List RegionEntry) (tiles : Bool) (before : Nat) (w : Warp) : WarpCkpt :=
  let old := (w.ckpt.map (·.tiles)).getD []
  let ts := (es.flatMap fun e => onesOf e.m.toNat 16).eraseDups.filter (· < w.tiles.length)
  ⟨if tiles then ts.map (fun n => (n, w.tile n)) else old,
   ((es.flatMap fun e => onesOf e.tags.toNat 8).eraseDups).map (fun n => (n, (w.tags[n]?).getD .free)),
   w.retired, u.turn, u.turnCount, w.digest, before⟩
/-- A warp's checkpoint goes to its slot; where a poisoned unit keeps its bytes, the warp gets MEM_UNCORR (R110, R495). -/
def State.slotPut (s : State) (b : Bundle) (group wi : Nat) (ls : List Nat) (img : List (Nat × List Byte)) : State :=
  let t := s.slotWrite b.u img
  match s.slotBadAt b.u img with
  | some a => t.queueFault group false (b.wid wi) b.pc 0x11 a 0 ls (ls.map fun l => (l, a))
  | none => t
/-- Writes the checkpoints of an issue: `k` gives each thread's region number. The thread's deferral ends. -/
def State.writeCkpt (s : State) (b : Bundle) (k : Thread → Nat) (xg xa : List Nat) (tiles : Bool) : State :=
  let group := s.nextId
  b.parts.foldl (fun s (wi, w, ls) =>
    let ths := ls.filterMap fun l => (w.threads[l]?).map fun t => (l, threadCkpt (b.u.cfg.region (k t)) (k t) xg xa t)
    let es := ls.filterMap fun l => (w.threads[l]?).map fun t => b.u.cfg.region (k t)
    let wc := warpCkpt b.u es tiles group w
    let s := s.modWarp (b.wid wi) fun x => { x with
      ckpt := some wc
      threads := ths.foldl (fun ts (l, c) => modAt ts l fun t => { t with ckpt := some c, defer := none }) x.threads }
    s.slotPut b group wi ls ((ths.flatMap fun (l, c) => shiftImage (threadSlot b.wg wi l) (ckptImage c)) ++
      shiftImage (warpSlot b.wg wi) (warpCkptImage (b.u.cfg.det != 0) wc tiles))) s
/-- A WAITCMP whose monitor has matched retires now: the checkpoint that it wrote as operation `group`, if no other thread of the warp
has written the warp's part since, takes the count, turn and offset before it (R110, R389, R447). -/
def State.renewTurn (s : State) (b : Bundle) (group : Nat) : State :=
  if b.u.cfg.det = 0 then s
  else b.parts.foldl (fun s (wi, w, _) =>
    match w.ckpt.filter (·.before == group) with
    | some c =>
      let c' : WarpCkpt := { c with retired := w.retired, sigma := b.u.turn, offset := b.u.turnCount }
      (s.modWarp (b.wid wi) fun x => { x with ckpt := some c' }).slotWrite b.u
        (shiftImage (warpSlot b.wg wi) (warpCkptImage true { c' with tags := [] } false))
    | none => s) s
/-- The waits of a checkpoint: listed registers clear, listed tags free or timed (R157, R446). -/
def Bundle.ckptWaits (b : Bundle) (s : State) (k : Thread → Nat) : Bool :=
  b.parts.any fun (_, w, ls) => ls.any fun l => match w.threads[l]? with
    | some t =>
      let e := b.u.cfg.region (k t)
      e.regs.any w.pending || (onesOf e.tags.toNat 8).any fun n =>
        match (freshTags w.tags (s.now b.g.core))[n]? with | some (.inflight ..) => true | _ => false
    | none => false
/-- Forces the tiles that a checkpoint lists, one at a time. -/
def forceTiles (s : State) (b : Bundle) (wi : Nat) (w : Warp) (ls : List Nat) (ms : List Nat) : Option State :=
  ms.findSome? fun m => forceTile s b wi w ls m

/-! ### REGION (R110, R157) -/

def regionTiles (c : LaunchCfg) (k : Nat) : List Nat := onesOf (c.region k).m.toNat 16
/-- The collective form: every live thread's part and the whole warp part. -/
def bodyRegion (k : BitVec 10) (b : Bundle) (s : State) : Res :=
  if b.ckptWaits s fun _ => k.toNat then .wait
  else
    match b.parts.findSome? fun (wi, w, ls) => forceTiles s b wi w ls (regionTiles b.u.cfg k.toNat) with
    | some t => .hold t
    | none => .done (s.writeCkpt b (fun _ => k.toNat) [] [] true)
/-- REGION k: warp-collective when its entry lists tiles. -/
def execRegion (k : BitVec 10) (s : State) : Host.Outcome State Fault Refusal :=
  if ((s.issueCfg.map fun c => regionTiles c k.toNat).getD []) != [] then collIssue (.region k) false (bodyRegion k) s
  else issueStd (.region k) (fun b s =>
    if b.ckptWaits s fun _ => k.toNat then .wait
    else .done (((s.writeCkpt b (fun _ => k.toNat) [] [] false).retire b false sameThread).stay b)) s

end Sys2Proof.Machine
end

