-- ==== Sys2Proof/Machine/HomeIns.lean ====
section
/-! DEFINITION. Atomics, monitors, acquire loads, release stores, fences, stash windows and PREF at their issue (R437 to
R457, R422 to R425, R499). What the home slice does with them stands in HomeEv. -/

namespace Sys2Proof.Machine

/-! ### FENCE and the operations before it (R424, R499) -/

/-- Every load and LOOP read before operation k has its visibility time, and it has passed: those that have returned left their
times in `Warp.seen`. -/
def State.loadTimesBy (s : State) (w : WarpId) (k now : Nat) : Bool :=
  !(s.ops.any fun o => o.w == w && o.id < k &&
    (o.kind.counter == some .ld || (match o.kind with | .loop _ => true | _ => false))) &&
  (((s.warp? w).map (·.seen)).getD []).all fun (id, t) => k ≤ id || t ≤ now
/-- The same by the warp's core. -/
def State.loadTimes (s : State) (w : WarpId) (k : Nat) : Bool := s.loadTimesBy w k (s.now (s.coreOf w))
/-- The conditions of FENCE.scope for one warp. -/
def State.fenceDone (s : State) (w : WarpId) (scope : Scope) (k : Nat) : Bool :=
  match scope with
  | .warp | .core => s.loadsDone w k
  | .clus => s.arrivedAll w k && s.clear w false k && s.loadTimes w k
  | .dev => s.clear w false k && s.loadTimes w k
  | .sys => s.clear w true k && s.loadTimes w k
def execFence (sc : Scope) : State → Host.Outcome State Fault Refusal :=
  issueStd (.fence sc) fun b s =>
    let k := b.fenceBound s
    if b.parts.all fun (wi, _, _) => s.fenceDone (b.wid wi) sc k then .done ((s.retire b false sameThread).stay b)
    else .hold (s.markFence b)
/-! ### LD.ACQ, ST.REL (R450) -/

/-- Their offset counts accesses of the size. -/
def acqEa (n : ANum) (sz : Size) (off : BitVec 7) (c : LaneCtx) : Int :=
  (c.th.ar n.toNat).ptr.toNat + sz.bytes * off.toInt
def execLdAcq (g : GNum) (n : ANum) (sc : Scope) (off : BitVec 7) (sz : Size) (pol : Policy) :
    State → Host.Outcome State Fault Refusal :=
  issueStd (.ldAcq g n sc off sz pol) (loadBody g sz pol n (acqEa n sz off) [] false sc true)
def execStRel (g : GNum) (n : ANum) (sc : Scope) (off : BitVec 7) (sz : Size) (pol : Policy) :
    State → Host.Outcome State Fault Refusal :=
  issueStd (.stRel g n sc off sz pol) (storeBody (storePlan g n sz [] false pol sc true) (acqEa n sz off))

/-! ### ATOM and CAS (R437 to R444) -/

/-- The checks of R437 on n bytes at the pointer. -/
def atomCheck (n : ANum) (bytes : Nat) (wr : Bool) (c : LaneCtx) : LaneOut :=
  let a := c.th.ar n.toNat
  if a.allows a.ptr.toNat bytes true wr && a.ptr.toNat % bytes == 0 then .ok [] else .bad 0x04 a.ptr.toNat 0
/-- An ATOM or a CAS at its issue. -/
structure AtomPlan where
  n : ANum
  /-- the registers of data read and of results written -/
  data : List RegName
  regs : List RegName
  bytes : Nat
  dual : Bool
  scope : Scope
  ord : Order
  kind : OpKind
  value : Thread → Nat → List Byte
def Order.acq : Order → Bool | .acq | .ar => true | _ => false
def Order.rel : Order → Bool | .rel | .ar => true | _ => false
/-- Where a part keeps the window number and the offset in the window, for the digest (R393). -/
def digestKey (u : Placed) (a : AReg) (va : Nat) : Nat := a.win + 16 * (va - ((u.windows[a.win]?).map (·.base)).getD 0)
/-- The parts of a lane: the primal, then each tangent (R443). -/
def AtomPlan.parts (p : AtomPlan) (b : Bundle) (w : Warp) (l : Nat) (t : Thread) : List Part :=
  let a := t.ar p.n.toNat
  let carried := (carriedTime w (t.maskOf (.a p.n.toNat :: p.data))).getD 0
  let at_ (k : Nat) : List Part :=
    let va := a.ptr.toNat + k * b.u.stride a
    (accParts b.u a l k va p.bytes 0 carried []).map fun q => { q with data := p.value t k, off := digestKey b.u a va }
  at_ 0 ++ (if p.dual && b.u.stride a > 0 then (List.range b.u.cfg.d).flatMap fun k => at_ (k + 1) else [])
def atomBody (p : AtomPlan) (b : Bundle) (s : State) : Res :=
  match b.outHits s (atomCheck p.n p.bytes true) with
  | some (code, hits) => .bad code hits
  | none =>
    let plan (w : Warp) (ls : List Nat) : List Part := ls.flatMap fun l => match w.threads[l]? with
      | some t => p.parts b w l t
      | none => []
    let places := b.parts.map fun (wi, w, ls) => (wi, (plan w ls).map fun q => (q.space, q.addr, q.n))
    let (held, plain) := heldParts (Order.rel p.ord) p.scope (places.flatMap (·.2))
    let amask (t : Thread) : Mask := t.maskOf [.a p.n.toNat]
    let dmask (t : Thread) : Mask := t.maskOf (.a p.n.toNat :: p.data)
    if !b.mayGo s (some .ld) amask || !b.carriedKnown dmask || places.any (fun (_, ps) => s.heldUp b.u ps) then .wait
    else if plain && !b.relReady s p.scope then .hold (s.markFence b)
    else
      match forceLoops s b places with
      | some t => .hold t
      | none =>
        let t := b.parts.foldl (fun t (wi, w, ls) =>
          let ps := plan w ls
          let t := t.addOp (b.wid wi) (some .ld) true p.regs fun tag id =>
            { MemOp.plain (b.wid wi) b.g.core b.pc p.kind ls ps id with
              group := s.nextId, tag := tag, mask := (tag.map tagMask).getD 0, scope := p.scope, acq := Order.acq p.ord
              rel := held, cleared := !held }
          t.modCore b.g.core fun c => ps.foldl (fun c q => if q.space == .local then c.l1Drop q.addr q.n else c) c) s
        let t := t.retire b true fun wi _ th =>
          if Order.acq p.ord then { th with acq := opOfWarp t (b.wid wi) :: th.acq } else th
        .done (t.stay b)
/-- ATOM is dual only for a float add (R443). -/
def execAtom (g : GNum) (n : ANum) (sc : Scope) (op : AtomOp) (b64 : Bool) (ord : Order) :
    State → Host.Outcome State Fault Refusal :=
  issueStd (.atom g n sc op b64 ord) fun b s =>
    let k := if b64 then 2 else 1
    let dual := (op == .fadd32 || op == .fadd64) && b.u.cfg.d > 0 && (b.hints.tan || b.u.cfg.dual)
    atomBody ⟨n, gGroup g k, gGroup g k, 4 * k, dual, sc, ord, .atom g.toNat op b64 dual, fun t j => match j with
      | 0 => groupBytes t g.toNat (4 * k)
      | j + 1 => groupShBytes t g.toNat j (4 * k)⟩ b s
/-- CAS sends the expected value and then the new one. -/
def execCas (g : GNum) (n : ANum) (sc : Scope) (b64 : Bool) (ord : Order) : State → Host.Outcome State Fault Refusal :=
  issueStd (.cas g n sc b64 ord) fun b s =>
    let k := if b64 then 2 else 1
    atomBody ⟨n, gGroup g (2 * k), gGroup g k, 4 * k, false, sc, ord, .cas g.toNat b64,
      fun t _ => groupBytes t g.toNat (8 * k)⟩ b s

/-! ### WAITCMP (R445 to R448, R458) -/

/-- Sends the compares of an issue, one operation for each warp; a lane whose match was saved makes none (R458). Each thread then
waits inside the instruction. -/
def State.sendWaitcmp (s : State) (b : Bundle) (g : GNum) (n : ANum) (sys : Bool) (c : WCond) (b64 : Bool) : State :=
  let size := if b64 then 8 else 4
  let group := s.nextId
  let t := b.parts.foldl (fun t (wi, w, ls) =>
    let ps := ls.flatMap fun l => match w.threads[l]? with
      | some th =>
        let a := th.ar n.toNat
        (accParts b.u a l 0 a.ptr.toNat size 0 0 []).map fun p => match th.matched with
          | some (v, time) => { p with st := .done, data := natBytes size v, time := time }
          | none => p
      | none => []
    let vals := ls.filterMap fun l => (w.threads[l]?).map fun th => (l, bytesNat (groupBytes th g.toNat size))
    t.addOp (b.wid wi) none true (gGroup g (size / 4)) fun tag id =>
      { MemOp.plain (b.wid wi) b.g.core b.pc (.waitcmp g.toNat c b64 vals) ls ps id with
        group := group, tag := tag, mask := (tag.map tagMask).getD 0, scope := if sys then .sys else .dev
        acq := true }) s
  b.ordered.foldl (fun t (wi, l, _) => t.modThread (b.wid wi) l fun x => { x with busy := some group }) t
def execWaitcmp (g : GNum) (n : ANum) (sys : Bool) (c : WCond) (b64 : Bool) : State → Host.Outcome State Fault Refusal :=
  issueStd (.waitcmp g n sys c b64) fun b s =>
    let k := if b64 then 2 else 1
    match b.outHits s (atomCheck n (4 * k) false) with
    | some (code, hits) => .bad code hits
    | none =>
      let stashed (x : LaneCtx) : LaneOut :=
        let p := (x.th.ar n.toNat).ptr.toNat
        if (b.u.resolve (x.th.ar n.toNat) p).1 == .stash then .bad 0x17 p 7 else .ok []
      match b.outHits s stashed with
      | some (code, hits) => .bad code hits
      | none =>
        let tiles (w : Warp) (ls : List Nat) : List Nat := (ls.flatMap fun l => match w.threads[l]? with
          | some t => regionTiles b.u.cfg t.lastRegion
          | none => []).eraseDups
        if b.ckptWaits s Thread.lastRegion || !b.mayGo s none (fun t => t.maskOf [.a n.toNat]) then .wait
        else
          match b.parts.findSome? fun (wi, w, ls) => forceTiles s b wi w ls (tiles w ls) with
          | some t => .hold t
          | none =>
            let t := s.writeCkpt b Thread.lastRegion ((List.range k).map (g.toNat + ·)) [n.toNat] true
            .done (t.sendWaitcmp b g n sys c b64)

/-! ### PREF (R456) -/

/-- The lines of one lane's span, as far as they lie in aN and in a local window outside a stash. -/
def prefParts (u : Placed) (a : AReg) (l : Nat) (ea : Int) (len : Nat) : List Part :=
  let lo := max (ea - ea % 256) a.base.toNat
  let hi := min (ea - ea % 256 + len) (a.limit.toNat + 1)
  if !a.valid || hi ≤ lo then []
  else (accParts u a l 0 lo (hi - lo).toNat 0 0 []).filter fun p => p.space == .local
def execPref (n : ANum) (off : BitVec 10) (sz : BitVec 3) (pol : Policy) : State → Host.Outcome State Fault Refusal :=
  issueStd (.pref n off sz pol) fun b s =>
    let t := b.parts.foldl (fun t (wi, w, ls) =>
      let ps := ls.flatMap fun l => match w.threads[l]? with
        | some th =>
          let a := th.ar n.toNat
          prefParts b.u a l (a.ptr.toNat + 256 * immValue b.hints off) (256 * 2 ^ sz.toNat)
        | none => []
      if ps = [] then t
      else t.newOp fun id => { MemOp.plain (b.wid wi) b.g.core b.pc .pref ls ps id with group := s.nextId, pol := pol }) s
    .done ((t.retire b false sameThread).stay b)

end Sys2Proof.Machine
end

