-- ==== Sys2Proof/Machine/Layout.lean ====
section
/-! DEFINITION. Layout records and handles: their fields, spans, checks, streams and bytes (R277, R279 to R285, R305 to
R307), and the stash windows that they meet (R452 to R455). -/

namespace Sys2Proof.Machine

/-! ### Records (R279 to R282) -/

/-- A layout record as it is read; D0', D1', D2' are counts. -/
structure Lay where
  kind : Nat
  elem : Nat
  space : Nat
  win : Nat
  base : Nat
  crc : Nat
  d0 : Nat
  d1 : Nat
  d2 : Nat
  s1 : Nat
  s2 : Nat
  soff : Nat
  cap : Nat
  lines : Nat
  iw : Nat
  coloff : Nat
  ncols : Nat
  nrows : Nat
  nnz : Nat
  deriving DecidableEq, Repr
def layOf (r : BitVec 512) : Lay :=
  let v := r.toNat
  ⟨bitsOf v 88 8, bitsOf v 80 6, bitsOf v 76 2, bitsOf v 72 4, bitsOf v 0 72, bitsOf v 96 32,
   bitsOf v 128 16 + 1, bitsOf v 144 16 + 1, bitsOf v 160 16 + 1, bitsOf v 192 40, bitsOf v 232 40, bitsOf v 272 32,
   bitsOf v 160 40, bitsOf v 128 32, if bitOf v 264 then 2 else 4, bitsOf v 224 40, bitsOf v 192 32, bitsOf v 160 32,
   bitsOf v 128 32⟩
def Lay.dense (l : Lay) : Bool := l.kind == 1
def Lay.cline (l : Lay) : Bool := l.kind == 2
def Lay.sparse (l : Lay) : Bool := l.kind == 3 || l.kind == 4
/-- The element format of a DENSE record. -/
def Lay.el (l : Lay) : Elem := (elemOf l.elem).getD (.float fp32)
def Lay.w (l : Lay) : Nat := l.el.width
def Lay.mx (l : Lay) : Bool := l.dense && isMxCode l.elem
/-- Elements, rows, bytes of a row, bytes of the stream, blocks of an MX layout (R284). -/
def Lay.n (l : Lay) : Nat := l.d0 * l.d1 * l.d2
def Lay.rows (l : Lay) : Nat := l.d1 * l.d2
def Lay.rowBytes (l : Lay) : Nat := l.d0 * l.w / 8
/-- The bytes that a row names, a last one in part among them (R283). -/
def Lay.rowSpan (l : Lay) : Nat := (l.d0 * l.w + 7) / 8
def Lay.stream (l : Lay) : Nat := (l.n * l.w + 7) / 8
def Lay.blocks (l : Lay) : Nat := if l.mx then l.n / 32 else 0
/-- The offset from BASE of row r and of scale b. -/
def Lay.rowOff (l : Lay) (r : Nat) : Nat := r % l.d1 * l.s1 + r / l.d1 * l.s2
def Lay.scaleOff (l : Lay) (b : Nat) : Nat := 64 * l.soff + b
/-- The offset of stream byte x. -/
def Lay.byteOff (l : Lay) (x : Nat) : Nat := l.rowOff (x / l.rowBytes) + x % l.rowBytes
/-- The spans of R283: offset from BASE and length. -/
def Lay.spans (l : Lay) : List (Nat × Nat) :=
  if l.dense then
    ((List.range l.rows).map fun r => (l.rowOff r, l.rowSpan)) ++ (if l.blocks = 0 then [] else [(l.scaleOff 0, l.blocks)])
  else if l.cline then [(0, l.cap)]
  else if l.kind = 3 then [(0, l.nnz * l.iw), (l.coloff, l.nnz * l.iw)]
  else [(0, (l.nrows + 1) * l.iw), (l.coloff, l.nnz * l.iw)]

/-! ### Checks (R306) -/

/-- A reserved field is nonzero, or a field that the record's kind or space leaves zero. -/
def layReserved (r : BitVec 512) : Bool :=
  let v := r.toNat
  let l := layOf r
  bitsOf v 86 2 != 0 || bitsOf v 78 2 != 0 || (l.space == 1 && (l.win != 0 || bitsOf v 32 40 != 0)) ||
  (if l.dense then bitsOf v 304 208 != 0 || bitsOf v 176 16 != 0
   else l.elem != 0 ||
    (if l.cline then bitsOf v 200 312 != 0 else if l.sparse then bitsOf v 265 247 != 0 else false))
/-- Whether a SPACE 1 span breaks the bounds or the stash rule of R168. -/
def Lay.spadBad (l : Lay) (u : Placed) : Bool :=
  l.spans.any fun (o, n) => n > 0 && u.spadBad (l.base + o) n
/-- The lowest check code that a record fails, in its unit; a DENSE record whose row does not start on a byte, as a `.layout` may make
one, is refused with code 6 (R306, R308). -/
def layCheck (u : Placed) (r : BitVec 512) : Option Nat :=
  let l := layOf r
  let win := (u.windows[l.win]?).filter (·.used)
  if layReserved r then some 1
  else if l.kind = 0 || l.kind > 4 || l.space > 1 || (l.dense && (elemOf l.elem).isNone) then some 2
  else if l.space = 0 &&
      (match win with
       | some w => l.spans.any fun (o, n) => n > 0 && !within (l.base + o) n w.base w.length
       | none => false) then some 3
  else if l.space = 0 && !((win.map (·.r)).getD false) then some 4
  else if l.space = 1 && l.spadBad u then some 5
  else if l.dense && (l.d0 * l.w % 8 != 0 || (l.mx && l.d0 % 32 != 0)) then some 6
  else if (l.cline && (l.cap = 0 || l.lines = 0)) || (l.sparse && (l.nrows = 0 || l.ncols = 0)) then some 8
  else none
/-- The handle that a record loads (R277, R305). -/
def handleOf (u : Placed) (r : BitVec 512) (vtime : Nat) : Handle :=
  let l := layOf r
  if l.space = 1 then ⟨r, .spad, l.base, true, true, vtime⟩
  else
    match u.windows[l.win]? with
    | some w => ⟨r, w.space, w.ibase + (l.base - w.base), w.r, w.w, vtime⟩
    | none => ⟨r, .local, l.base, false, false, vtime⟩

/-! ### Where a layout's bytes lie -/

/-- The pieces of n bytes at an offset from BASE: space, address, length, offset. -/
def handlePlaces (u : Placed) (h : Handle) (off n : Nat) : List (Space × Nat × Nat × Nat) :=
  let va := (layOf h.record).base
  if h.space == .spad then (lineParts (h.base + off) n).map fun (a, m) => (.spad, a, m, off + (a - (h.base + off)))
  else
    (splitAt 256 (n / 256 + 2) (va + off) n).flatMap fun (v, m) =>
      match u.stashAt v with
      | some _ => [(.stash, v, m, v - va)]
      | none => (lineParts (h.base + (v - va)) m).map fun (a, k) => (h.space, a, k, a - h.base)
/-- The parts that read spans of source number `src`. -/
def readParts (u : Placed) (h : Handle) (src off n : Nat) : List Part :=
  (handlePlaces u h off n).map fun (sp, a, m, o) => ⟨src, 0, sp, a, m, o, [], [], .sent, 0, 0⟩
/-- The parts that write bytes at an offset. -/
def writeParts (u : Placed) (h : Handle) (off : Nat) (bs : List Byte) (carried : Nat) : List Part :=
  (handlePlaces u h off bs.length).map fun (sp, a, m, o) =>
    ⟨0, 0, sp, a, m, o, (bs.drop (o - off)).take m, [], .sent, 0, carried⟩
/-- Handle n of a workgroup. -/
def State.handle (s : State) (unit wg n : Nat) : Option Handle :=
  ((s.wg? unit wg).bind fun g => g.handles[n]?).join
/-- The handles that an operation uses: those it copied, or those it will copy. -/
def State.channelHandles (s : State) (c : Channel) : List Handle :=
  if c.copied then c.dstH.toList ++ c.srcH.filterMap id
  else (c.dst :: c.srcs).filterMap fun n => s.handle c.w.unit c.w.wg n
/-- Whether a SPACE 1 handle's span meets scratchpad bytes. -/
def Handle.onSpad (h : Handle) (off len : Nat) : Bool :=
  h.space == .spad && (layOf h.record).spans.any fun (o, n) => n > 0 && overlaps (h.base + o) n off len

/-! ### Stash windows (R452 to R455) -/

def spanLen (a : AReg) : Nat := a.limit.toNat + 1 - a.base.toNat
/-- The cause with which SMAP of aN at a scratchpad offset fails, with the address or offset to report (R452, R455; the
order of the checks is assumption 32). -/
def smapCause (u : Placed) (stash : List Stash) (a : AReg) (off : Nat) : Option (Nat × Nat) :=
  let win := u.windows[a.win]?
  let ok := a.valid && !a.arg && 8 ≤ a.win && ((win.map fun w => w.range && w.w && w.used).getD false)
  if !ok then some (1, a.base.toNat)
  else if a.base.toNat % 256 != 0 || spanLen a % 256 != 0 || spanLen a > 2 ^ 21 then some (2, a.base.toNat)
  else if off % 256 != 0 || off + spanLen a > u.cfg.spadSize then some (3, off)
  else if stash.any fun st => overlaps st.vbase st.length a.base.toNat (spanLen a) then some (4, a.base.toNat)
  else if stash.any fun st => overlaps st.soff st.length off (spanLen a) then some (4, off)
  else if stash.length ≥ 8 then some (5, a.base.toNat)
  else none
/-- Binds the window of aN. -/
def smapBind (u : Placed) (stash : List Stash) (a : AReg) (off : Nat) : List Stash :=
  match u.windows[a.win]? with
  | some w => stash ++ [⟨a.base.toNat, w.ibase + (a.base.toNat - w.base), spanLen a, off, w.space, [], [], []⟩]
  | none => stash
/-- Binds for the lanes of an issue one after another; the first lane that fails faults alone. -/
def smapAll (u : Placed) (ts : List (Nat × Nat × AReg × Nat)) (stash : List Stash) :
    List Stash × Option (Nat × Nat × Nat × Nat) :=
  match ts with
  | [] => (stash, none)
  | (wi, l, a, off) :: rest =>
    match smapCause u stash a off with
    | some (c, d0) => (stash, some (wi, l, c, d0))
    | none => smapAll u rest (smapBind u stash a off)
/-- An operation of the unit that holds a channel and whose SPACE 1 span overlaps scratchpad bytes (R452). -/
def State.channelOn (s : State) (unit off len : Nat) : Bool :=
  s.channels.any fun c => c.w.unit == unit && (s.channelHandles c).any fun h => h.onSpad off len
def execSmap (n : ANum) (g : GNum) : State → Host.Outcome State Fault Refusal :=
  issueStd (.smap n g) fun b s =>
    let ts := b.lanes.map fun (wi, _, l, t) => (wi, l, t.ar n.toNat, (t.gr g.toNat).val.toNat)
    match smapAll b.u ts b.u.stash with
    | (_, some (wi, l, c, d0)) => .bad 0x17 [⟨wi, [l], d0, c, []⟩]
    | (stash, none) =>
      if ts.any fun (_, _, a, off) => s.channelOn b.u.id off (spanLen a) then .wait
      else
        let t := s.modUnit b.u.id fun u => { u with stash := stash }
        .done ((t.retire b true sameThread).stay b)
/-- The windows that the lanes name; a lane that names none faults with cause 6. -/
def Bundle.named (b : Bundle) (n : ANum) : List Stash × List Hit :=
  let find (t : Thread) : Option Stash := b.u.stashAt (t.ar n.toNat).ptr.toNat
  ((b.lanes.filterMap fun (_, _, _, t) => find t).eraseDups,
   b.parts.filterMap fun (wi, w, ls) =>
     match ls.filter fun l => ((w.threads[l]?).map fun t => (find t).isNone).getD false with
     | [] => none
     | l :: rest => some ⟨wi, l :: rest, (((w.threads[l]?).map fun t => (t.ar n.toNat).ptr.toNat).getD 0), 6, []⟩)
/-- The bound windows that lanes of one warp name. -/
def Bundle.namedBy (b : Bundle) (n : ANum) (w : Warp) (ls : List Nat) : List Stash :=
  (ls.filterMap fun l => (w.threads[l]?).bind fun t => b.u.stashAt (t.ar n.toNat).ptr.toNat).eraseDups
/-- Writes windows back as stores of each warp that names them, which update their core's L1 (R406); the lines become clean (R453). Each window's bytes go in the
operation of the first warp that names it, for whose ack the other warps that name it wait, and take its GWCT. -/
def State.flushStash (s : State) (b : Bundle) (n : ANum) (sts : List Stash) (unbind : Bool) : State :=
  let (t, _) := b.parts.foldl (fun (x : State × List (Nat × Nat)) (part : Nat × Warp × List Nat) =>
    let (t, sent) := x
    let (wi, w, ls) := part
    let mine := b.namedBy n w ls
    let news := mine.filter fun st => !sent.any (·.1 == st.vbase)
    let olds := (sent.filter fun y => mine.any (·.vbase == y.1)).map (·.2)
    let id := t.nextId
    let ps := news.flatMap (stashParts b.u)
    let t := t.addOp (b.wid wi) (some .st) false [] fun _ id =>
      { MemOp.plain (b.wid wi) b.g.core b.pc (.sflush (mine.map (·.vbase)) unbind) ls ps id with
        group := s.nextId, waitSt := olds }
    let t := t.storeL1 b.g.core false id ps
    (t, sent ++ news.map fun st => (st.vbase, id))) (s, [])
  let clean (st : Stash) : Stash := if sts.any (·.vbase == st.vbase) then { st with dirty := [] } else st
  t.modUnit b.u.id fun u => { u with stash := u.stash.map clean }
/-- Accesses of the cluster to a window's span that have not arrived. -/
def State.stashBusy (s : State) (u : Placed) (st : Stash) : Bool :=
  s.ops.any fun o => o.w.unit == u.id && o.parts.any fun p =>
    p.space == .stash && p.st == .sent && overlaps p.addr p.n st.vbase st.length
/-- A write-back of a window begins once every access to it that is under way has arrived (assumption 33). -/
def flushBody (n : ANum) (unbind : Bool) (b : Bundle) (s : State) : Res :=
  match b.named n with
  | (_, h :: hs) => .bad 0x17 (h :: hs)
  | (sts, []) =>
    if !b.mayGo s (some .st) (fun _ => 0) || sts.any (fun st => s.unbinding b.u st.vbase || s.stashBusy b.u st) then .wait
    else .done (((s.flushStash b n sts unbind).retire b unbind sameThread).stay b)
def execSunmap (n : ANum) : State → Host.Outcome State Fault Refusal := issueStd (.sunmap n) (flushBody n true)
def execSflush (n : ANum) : State → Host.Outcome State Fault Refusal := issueStd (.sflush n) (flushBody n false)

end Sys2Proof.Machine
end

