-- ==== Sys2Proof/Machine/HomeEv.lean ====
section
/-! DEFINITION. The home slices at work: the order of requests, loads served, writes and atomics applied, releases, acks
and returned values, monitors (R104 to R107, R164, R404 to R427, R437 to R448, R495, R496). -/

namespace Sys2Proof.Machine

/-! ### Which request goes first (R169, R406, R423, R496) -/

/-- Accesses of a whole warp, whose parts belong to no one thread. -/
def isTileOp : OpKind → Bool
  | .tld _ | .tst | .loop _ => true
  | _ => false
def Part.inSpad (p : Part) : Bool := p.space == .spad || p.space == .stash
def Part.far (p : Part) : Bool := match p.space with | .host | .peer _ => true | _ => false
/-- A release to the host or a peer that waits at its core for the clearance (R423). -/
def coreHeld (o : MemOp) (p : Part) : Bool := o.rel && !o.cleared && p.far && p.st == .sent
/-- Part q, number j of o', goes before part p, number i of o: it was issued before it, or in the same issue by a lower lane
(R98, R162, R439). -/
def earlier (o : MemOp) (i : Nat) (p : Part) (o' : MemOp) (j : Nat) (q : Part) : Bool :=
  if o'.group == o.group then q.lane < p.lane || (q.lane == p.lane && (o'.id < o.id || (o'.id == o.id && j < i)))
  else o'.id < o.id
def OpKind.isAtomic : OpKind → Bool
  | .atom .. | .cas .. => true
  | _ => false
/-- Operations whose parts are reads served like loads. -/
def OpKind.isRead : OpKind → Bool
  | .load .. | .lds .. | .aldp .. | .tld _ | .xlr _ | .loop _ | .xread .. | .pref => true
  | _ => false
/-- Operations whose parts are plain writes. -/
def OpKind.isWrite : OpKind → Bool
  | .store | .sts | .tst | .sflush .. | .xfer .. => true
  | _ => false
/-- An earlier part that a part waits for: from one core, in one superblock; in the scratchpad, of one issue or one thread. A read waits
too for an atomic on its bytes that its slice holds behind another access, and that is no held release itself (R162, R423). -/
def ahead (o : MemOp) (p : Part) (o' : MemOp) (q : Part) : Bool :=
  o'.core == o.core &&
  (if p.inSpad then q.st == .sent && q.inSpad &&
    (o'.group == o.group || (o'.w == o.w && (q.lane == p.lane || isTileOp o.kind || isTileOp o'.kind)))
   else q.space == p.space &&
    ((q.st == .sent && q.addr / 1024 == p.addr / 1024 && !coreHeld o' q) ||
     (q.st == .held && o'.kind.isAtomic && o'.cleared && o.kind.isRead && overlaps q.addr q.n p.addr p.n)))
def State.anyPart (s : State) (f : MemOp → Nat → Part → Bool) : Bool :=
  s.ops.any fun o => (o.parts.zipIdx).any fun (q, j) => f o j q
def State.blocked (s : State) (o : MemOp) (i : Nat) (p : Part) : Bool :=
  s.anyPart fun o' j q => earlier o i p o' j q && ahead o p o' q
/-- A write waits behind a held release of its warp to the same 256-byte line until that has been applied, or behind a write that
does (R423). -/
def State.behind (s : State) (o : MemOp) (i : Nat) (p : Part) : Bool :=
  s.anyPart fun o' j q => earlier o i p o' j q && o'.w == o.w && q.space == p.space && q.addr / 256 == p.addr / 256 &&
    (q.st == .held || (o'.rel && q.far && q.st == .sent))
/-- Part i of an operation. -/
def State.part? (s : State) (op i : Nat) : Option (MemOp × Part) := (s.op? op).bind fun o => (o.parts[i]?).map fun p => (o, p)
def State.setPart (s : State) (op i : Nat) (f : Part → Part) : State := s.modOp op fun o => { o with parts := modAt o.parts i f }
def State.ctxOf (s : State) (o : MemOp) : Nat := ((s.unit? o.w.unit).map (·.ctx)).getD 0
/-- The party a write belongs to (R391): its warp, or an engine. -/
def MemOp.party (o : MemOp) : Option WarpId := match o.kind with | .xfer .. => none | _ => some o.w

/-! ### Stash lines (R407) -/

/-- A line made ready: its V, or a wait, or a fault of the fill. -/
inductive Filled
  | ok (s : State) (st : Stash) (v : Nat)
  | busy
  | bad (code addr det1 : Nat)
  deriving DecidableEq, Repr
def Placed.setStash (u : Placed) (st : Stash) : Placed :=
  { u with stash := u.stash.map fun x => if x.vbase == st.vbase then st else x }
/-- The bytes of a line and its poisoned 8-byte units, by address; or a wait or a fault of its translation. -/
inductive LineRes
  | ok (bs : List Byte) (bad : List Nat)
  | busy
  | bad (code addr det1 : Nat)
  deriving DecidableEq, Repr
/-- Reads a line for a stash window: a poisoned unit of it does not stop the fill (R407, R495). -/
def State.lineFor (s : State) (ctx : Nat) (sp : Space) (a : Nat) : LineRes :=
  match sp with
  | .host => .ok (memRead s.home.host a 256) (s.home.hostPoison.filter fun u => overlaps u 8 a 256)
  | .peer k => .ok (memRead (peerMem s.home k) a 256)
      ((s.home.peerErrs.filter fun (n, u) => n == k && overlaps u 8 a 256).map (·.2))
  | _ => (lineParts a 256).foldl (fun r (x, n) =>
      match r with
      | .ok bs us => match s.translate ctx x false with
        | .ok pa => .ok (bs ++ memRead s.home.mem pa n)
            (us ++ (s.home.poison.filter fun u => overlaps u 8 pa n).map fun u => x + u - pa)
        | .busy => .busy
        | .bad c ad d => .bad c ad d
      | r => r) (.ok [] [])
/-- Whether a write or an atomic that a core sent to a line of memory before an operation has still to be performed: the operation's
fill of the line comes after it (R406, R407). -/
def State.lineBusy (s : State) (o : MemOp) (sp : Space) (a : Nat) : Bool :=
  s.ops.any fun x => x.core == o.core && x.id < o.id && (x.kind.isWrite || x.kind.isAtomic) &&
    x.parts.any fun q => q.space == sp && (q.st == .sent || q.st == .held) && overlaps q.addr q.n a 256
/-- Fills the line of a stash window at a virtual address on its first touch, which is an operation's. The poison of its units stays
with them. -/
def State.fillLine (s : State) (o : MemOp) (u : Placed) (st : Stash) (va : Nat) : Filled :=
  let ln := (va - st.vbase) / 256
  match natGet st.lines ln with
  | v + 1 => .ok s st v
  | 0 =>
    let a := st.ibase + 256 * ln
    if s.lineBusy o st.space a then .busy
    else match s.lineFor u.ctx st.space a with
    | .busy => .busy
    | .bad c a d => .bad c a d
    | .ok bs bad =>
      let v := if st.space == .local then visOf s.home a 256 else 0
      let st' := { st with lines := natSet st.lines ln (v + 1), poison := st.poison ++ bad.map (· - st.ibase) }
      .ok ((s.cacheWalk u.ctx a).modUnit u.id fun u =>
        { u.setStash st' with spad := memWrite u.spad (st.soff + 256 * ln) bs }) st' v
/-- The first byte of a span of a window that lies in a poisoned unit, as an intermediate address. -/
def Stash.poisonAt (st : Stash) (va n : Nat) : Option Nat :=
  let o := va - st.vbase
  match st.poison.filter fun x => overlaps x 8 o n with
  | [] => none
  | x :: xs => some (st.ibase + max o (xs.foldl min x))
/-- The unit and bound window of a stash part; none while the window is being unbound. -/
def State.stashOf (s : State) (o : MemOp) (p : Part) : Option (Placed × Stash) :=
  (s.unit? o.w.unit).bind fun u => if s.unbinding u p.addr then none else (u.stashAt p.addr).map fun st => (u, st)
/-- Writes the bytes of a stash part and marks them dirty. A poisoned unit that is written whole loses its poison; one written in
part keeps it and its bytes, and the first byte not written is reported (R495). -/
def State.stashWrite (s : State) (u : Placed) (st : Stash) (va : Nat) (bs : List Byte) : State × Option Nat :=
  let o := va - st.vbase
  let n := bs.length
  let stuck (i : Nat) : Bool := st.poison.any fun x => overlaps x 8 (o + i) 1 && !within x 8 o n
  let put := (bs.zipIdx).filter fun (_, i) => !stuck i
  let st' := { st with
    dirty := put.foldl (fun m (_, i) => natSet m (o + i) 1) st.dirty
    poison := st.poison.filter fun x => !within x 8 o n }
  (s.modUnit u.id fun u =>
     { u.setStash st' with spad := put.foldl (fun m (b, i) => memSet m (st.soff + o + i) b) u.spad },
   ((List.range n).find? stuck).map fun i => st.ibase + o + i)

/-! ### LOAD_SERVE (R164, R405, R410, R495) -/

/-- The leases a slice grants (R410). -/
def leaseTicks (c : Nat) : Nat := match c with | 0 => 0 | 1 => 32 | 2 => 128 | 3 => 512 | _ => 2048
/-- Reads that fill L1; a LOOP node's read is granted no lease (R410). -/
def MemOp.fills (o : MemOp) : Bool :=
  o.pol != .byp && match o.kind with | .load .. | .aldp .. | .tld _ | .pref => true | _ => false
/-- The blocks that fit in L1's 256 KiB, from the head on. -/
def keepBlocks : Nat → List L1Block → List L1Block
  | _, [] => []
  | room, k :: ks => if k.data.length ≤ room then k :: keepBlocks (room - k.data.length) ks else []
/-- The order in which blocks are evicted: those filled under .STRM, then .NORM, then .KEEP (R163). -/
def evictRank : Policy → Nat
  | .strm => 0 | .norm | .byp => 1 | .keep => 2
/-- The blocks that stay when blocks are chosen for eviction: a block goes only when no block of an earlier rank would stay. -/
def afterEvict (bases : List Nat) (ks : List L1Block) : List L1Block :=
  ks.filter fun k => !(bases.contains k.base &&
    ks.all fun j => evictRank k.pol ≤ evictRank j.pol || bases.contains j.base)
/-- Fills a block that covers a part: the slice grants a lease and raises Emax; the block replaces those it overlaps and holds the
core's own stores that have not been applied (R405, R410, R415). Its V is answered; a block with a poisoned unit is not filled. -/
def State.fillBlock (s : State) (o : MemOp) (p : Part) (c : ServeChoice) : Option (State × Nat) :=
  let first := min c.chunk.toNat (p.addr % 256 / 32)
  let last := max (min 7 (c.chunk.toNat + c.chunks.toNat)) ((p.addr % 256 + p.n - 1) / 32)
  let base := p.addr / 256 * 256 + 32 * first
  let len := 32 * (last - first + 1)
  match s.readLocal (s.ctxOf o) base len with
  | .ok bs =>
    let v := visOf s.home base len
    let e := s.clockOf (.slice base) + leaseTicks c.lease.toNat
    let mine := s.storedBytes false o.core .local base len
    let blk : L1Block := ⟨base, overlay bs mine.1, e, v, o.pol, mine.2⟩
    let apart (ks : List L1Block) : List L1Block := ks.filter fun k => !overlaps k.base k.data.length base len
    let room (ks : List L1Block) : List L1Block :=
      blk :: sortKey (fun k => 2 - evictRank k.pol) (afterEvict c.evict (apart ks))
    let line := p.addr / 256
    let s := { s with home := { s.home with emax := natSet s.home.emax line (max (natGet s.home.emax line) e) } }
    some (s.modCore o.core fun k => { k with l1 := keepBlocks 262144 (room k.l1) }, v)
  | _ => none
/-- A read answered at its slice, at the host or a peer, or in the scratchpad. -/
def State.serve (s : State) (o : MemOp) (i : Nat) (p : Part) (c : ServeChoice) : State :=
  let done (s : State) (bs : List Byte) (time : Nat) : State :=
    s.setPart o.id i fun q => { q with st := .done, data := overlay bs q.fwd, time := time }
  let failed (code a d : Nat) : State := s.setPart o.id i fun q => { q with st := .failed code a d }
  match p.space with
  | .host | .peer _ => match s.readSpan 0 p.space p.addr p.n with
    | .ok bs => done s bs 0
    | .busy => s
    | .bad code a d => failed code a d
  | .spad => done s (memRead (((s.unit? o.w.unit).map (·.spad)).getD []) p.addr p.n) 0
  | .stash =>
    match s.stashOf o p with
    | none => s
    | some (u, st) =>
      match s.fillLine o u st p.addr with
      | .busy => s
      | .bad code a d => failed code a d
      | .ok s' st v =>
        match st.poisonAt p.addr p.n with
        | some a => s'.setPart o.id i fun q => { q with st := .failed 0x11 a 0 }
        | none => done s' (memRead (((s'.unit? u.id).map (·.spad)).getD []) (st.soff + (p.addr - st.vbase)) p.n) v
  | .local =>
    match s.readLocal (s.ctxOf o) p.addr p.n with
    | .busy => s
    | .bad code a d => failed code a d
    | .ok bs =>
      let s := s.cacheWalk (s.ctxOf o) p.addr
      match if o.fills then s.fillBlock o p c else none with
      | some (s', v) => done s' bs v
      | none => done s bs (visOf s.home p.addr p.n)
def execLoadServe (op part : Nat) (c : ServeChoice) (s : State) : Host.Outcome State Fault Refusal :=
  match s.part? op part with
  | some (o, p) => .next (if o.kind.isRead && p.st == .sent && !s.blocked o part p then s.serve o part p c else s)
  | none => .next s

/-! ### STORE_APPLY and the releases (R411, R423) -/

/-- Applies a write where it goes; a write to a page on the move or to a block that the host holds waits. -/
def State.applyWrite (s : State) (o : MemOp) (i : Nat) (p : Part) : State :=
  let done (s : State) (g : Nat) : State := (s.setPart o.id i fun q => { q with st := .done, time := g }).progress o.party
  match p.space with
  | .host | .peer _ => match s.writeSpan 0 p.space p.addr p.data 0 with
    | (s', _, none) => s'.setPart o.id i fun q => { q with st := .done }
    | (s', _, some (code, a, d)) => s'.setPart o.id i fun q => { q with st := .failed code a d }
  | .spad => done (s.modUnit o.w.unit fun u => { u with spad := memWrite u.spad p.addr p.data }) 0
  | .stash =>
    match s.stashOf o p with
    | none => s
    | some (u, st) =>
      match s.fillLine o u st p.addr with
      | .busy => s
      | .bad code a d => s.setPart o.id i fun q => { q with st := .failed code a d }
      | .ok s' st _ => match s'.stashWrite u st p.addr p.data with
        | (s', none) => done s' 0
        | (s', some a) => (s'.setPart o.id i fun q => { q with st := .failed 0x11 a 0 }).progress o.party
  | .local =>
    match s.writeLocal (s.ctxOf o) p.addr p.data p.carried o.tclear with
    | .wait s' => s'
    | .ok s' g none => done s' g
    | .ok s' g (some (code, a, d)) =>
      (s'.setPart o.id i fun q => { q with st := .failed code a d, time := g }).progress o.party
/-- A slice applies a write as it arrives, or holds it: a release until its clearance, and a write behind one. A stash window holds
nothing (assumption 31). -/
def execStoreApply (op part : Nat) (s : State) : Host.Outcome State Fault Refusal :=
  match s.part? op part with
  | some (o, p) =>
    if !o.kind.isWrite || p.st != .sent || s.blocked o part p then .next s
    else if o.rel && !o.cleared && p.space != .stash then
      .next (if p.space == .local then s.setPart op part fun q => { q with st := .held } else s)
    else if s.behind o part p then .next (s.setPart op part fun q => { q with st := .held })
    else .next (s.applyWrite o part p)
  | none => .next s

/-! ### ATOMIC_APPLY (R413, R438 to R444) -/

/-- The new value of an ATOM on w bits, from the old one and the operand (R441). -/
def atomNew (op : AtomOp) (w m v : Nat) : Nat :=
  let sg (x : Nat) : Int := intOfCode w true x
  match op with
  | .iadd => (m + v) % 2 ^ w
  | .imin32 => if sg v < sg m then v else m
  | .imax32 => if sg m < sg v then v else m
  | .iminN => min m v
  | .imaxN => max m v
  | .and_ => m &&& v
  | .or_ => m ||| v
  | .xor_ => m ^^^ v
  | .exch => v
  | .fadd32 => toFmt fp32 .rne false ((decodeF fp32 m).add (decodeF fp32 v))
  | .fadd64 => toFmt fp64 .rne false ((decodeF fp64 m).add (decodeF fp64 v))
  | .fmin32 => match pickFirst false (decodeF fp32 m) (decodeF fp32 v) with | none => 0x7FC00000 | some true => m | some false => v
  | .fmax32 => match pickFirst true (decodeF fp32 m) (decodeF fp32 v) with | none => 0x7FC00000 | some true => m | some false => v
/-- What an atomic writes over the old bytes: none when a CAS fails. -/
def atomWrite (k : OpKind) (p : Part) (old : List Byte) : Option (List Byte) :=
  let n := old.length
  match k with
  | .atom _ op .. => some (natBytes n (atomNew op (8 * n) (bytesNat old) (bytesNat p.data)))
  | .cas .. => if old == p.data.take n then some ((p.data.drop n).take n) else none
  | _ => none
/-- The bytes of one atomic access: all of them in one line, but for a tangent whose stride lays it across two (R443). -/
def MemOp.pieces (o : MemOp) (p : Part) : List Part := o.parts.filter fun q => q.lane == p.lane && q.tang == p.tang
def MemOp.setAccess (o : MemOp) (p : Part) (f : Part → Part) : MemOp :=
  { o with parts := o.parts.map fun q => if q.lane == p.lane && q.tang == p.tang then f q else q }
/-- The offsets of a part's bytes that lie among the bytes of other parts. -/
def Part.under (p : Part) (qs : List Part) : List Nat :=
  (List.range p.n).filter fun i => qs.any fun q => q.space == p.space && overlaps (p.addr + i) 1 q.addr q.n
/-- What a part of another operation is once an atomic of its core has been performed on some bytes: of a store issued before the
atomic these bytes are forwarded no longer, and a load issued after it that waits keeps of its forwarded bytes those of stores issued
in between (R162, R406). -/
def State.pastAtomic (s : State) (o : MemOp) (qs : List Part) (x : MemOp) (p : Part) : Part :=
  if x.core != o.core || p.space == .stash || p.space == .spad then p
  else if x.kind.isStore && x.id < o.id && p.st == .done then { p with fwd := (p.under qs).foldl (fun m i => natSet m i 1) p.fwd }
  else if x.kind.isRead && o.id < x.id && p.st == .sent then
    let between (a : Nat) : Bool := s.ops.any fun y => y.core == o.core && y.kind.isStore && o.id < y.id && y.id < x.id &&
      y.parts.any fun q => q.space == p.space && overlaps q.addr q.n a 1
    { p with fwd := (p.under qs).foldl (fun m i => if between (p.addr + i) then m else natSet m i 0) p.fwd }
  else p
/-- The atomic has acted: its old value returns, its core drops the blocks it overlaps and forwards older bytes no longer, and its
digest counts what it wrote, in a checkpoint written since its issue too (R394). -/
def State.atomDone (s : State) (o : MemOp) (p : Part) (old : List Byte) (new : Option (List Byte)) (g : Nat) : State :=
  let s := s.modOp o.id fun x => x.setAccess p fun q => { q with st := .done, data := old, time := g }
  let s := { s with ops := s.ops.map fun x => { x with parts := x.parts.map (s.pastAtomic o (o.pieces p) x) } }
  let s := if p.space == .local then
      s.modCore o.core fun c => (o.pieces p).foldl (fun c q => c.l1Drop q.addr q.n) c
    else s
  match new with
  | none => s
  | some bs =>
    let det := ((s.unit? o.w.unit).map (·.cfg.det)).getD 0
    let d := digestUnit (p.off % 16) (p.off / 16) bs
    let late (c : WarpCkpt) : WarpCkpt := if o.id < c.before then { c with digest := c.digest + BitVec.ofNat 64 d } else c
    let s := if det = 0 then s else s.modWarp o.w fun w => { w.addDigest d with ckpt := w.ckpt.map late }
    if p.far then s else s.progress o.party
/-- Reads or writes the pieces of an access at the host, a peer, a stash window or the home slices. -/
inductive Got
  | ok (s : State) (old : List Byte)
  | wait (s : State)
  | bad (s : State) (code addr det1 : Nat)
  deriving DecidableEq, Repr
def State.readPiece (s : State) (o : MemOp) (q : Part) : Got :=
  match q.space with
  | .spad => .wait s
  | .stash =>
    match s.stashOf o q with
    | none => .wait s
    | some (u, st) =>
      match s.fillLine o u st q.addr with
      | .busy => .wait s
      | .bad code a d => .bad s code a d
      | .ok s' st _ =>
        match st.poisonAt q.addr q.n with
        | some a => .bad s' 0x11 a 0
        | none => .ok s' (memRead (((s'.unit? u.id).map (·.spad)).getD []) (st.soff + (q.addr - st.vbase)) q.n)
  | sp =>
    if sp == .local && s.home.hostLines.contains (q.addr / 256) then
      .wait { s with home := { s.home with snooped := natSet s.home.snooped (q.addr / 256) 1 } }
    else match s.readSpan (s.ctxOf o) sp q.addr q.n with
      | .ok bs => .ok (s.cacheSpan (s.ctxOf o) sp q.addr q.n) bs
      | .busy => .wait s
      | .bad code a d => .bad s code a d
def State.writePiece (s : State) (o : MemOp) (q : Part) (bs : List Byte) : WriteRes :=
  match q.space with
  | .stash => match s.stashOf o q with
    | none => .wait s
    | some (u, st) => let (s', bad) := s.stashWrite u st q.addr bs
                      .ok s' 0 (bad.map fun a => (0x11, a, 0))
  | .local => s.writeLocal (s.ctxOf o) q.addr bs q.carried o.tclear
  | sp => let (s', _, bad) := s.writeSpan 0 sp q.addr bs 0
          .ok s' 0 bad
/-- Performs one atomic access in one step where its window puts it: every piece is read, and then every piece is written. -/
def State.applyAtomic (s : State) (o : MemOp) (p : Part) : State :=
  let qs := o.pieces p
  let failed (s : State) (code a d : Nat) : State := s.modOp o.id fun x => x.setAccess p fun q => { q with st := .failed code a d }
  let rd := qs.foldl (fun r q => match r with
    | .ok s bs => (match s.readPiece o q with | .ok s' cs => .ok s' (bs ++ cs) | x => x)
    | x => x) (Got.ok s [])
  match rd with
  | .wait s' => s'
  | .bad s' code a d => failed s' code a d
  | .ok s' old =>
    match atomWrite o.kind p old with
    | none =>
      let g := maxOf (qs.map fun q => if q.space == .local then
        gwctOf s'.home (s'.clockOf (.slice q.addr)) q.addr q.n q.carried o.tclear else 0)
      s'.atomDone o p old none g
    | some bs =>
      let wr := qs.foldl (fun (r : WriteRes × List Byte) q => match r with
        | (.ok s g none, bs) => (match s.writePiece o q (bs.take q.n) with
          | .ok s' g' bad => (.ok s' (max g g') bad, bs.drop q.n)
          | .wait _ => (.wait s', bs))
        | r => r) (WriteRes.ok s' 0 none, bs)
      match wr.1 with
      | .wait t => t
      | .ok t g none => t.atomDone o p old (some bs) g
      | .ok t _ (some (code, a, d)) => failed t code a d
/-- Lanes of one issue act in ascending order, each with its primal before its tangents: no earlier access of the issue is still
to be performed (R439). -/
def State.firstLeft (s : State) (o : MemOp) (i : Nat) (p : Part) : Bool :=
  !s.anyPart fun o' j q => o'.group == o.group && earlier o i p o' j q && (q.st == .sent || q.st == .held) &&
    !(o'.id == o.id && q.lane == p.lane && q.tang == p.tang)
/-- No piece of an atomic access waits for an earlier request of its core, or behind a held release. -/
def State.accessFree (s : State) (o : MemOp) (p : Part) : Bool :=
  (o.parts.zipIdx).all fun (q, j) => q.lane != p.lane || q.tang != p.tang || (!s.blocked o j q && !s.behind o j q)
def execAtomicApply (op part : Nat) (s : State) : Host.Outcome State Fault Refusal :=
  match s.part? op part with
  | some (o, p) =>
    if !o.kind.isAtomic || p.st != .sent || s.blocked o part p then .next s
    else if o.rel && !o.cleared && p.space != .stash then
      .next (if p.space == .local then s.setPart op part fun q => { q with st := .held } else s)
    else if s.behind o part p then .next (s.setPart op part fun q => { q with st := .held })
    else if !s.accessFree o p || !s.firstLeft o part p then .next s
    else .next (s.applyAtomic o p)
  | none => .next s
/-- The warp sends the clearance of a release once its condition holds (R423, R499). -/
def execReleaseClearance (op : Nat) (s : State) : Host.Outcome State Fault Refusal :=
  match s.op? op with
  | some o =>
    if o.rel && !o.cleared && s.clear o.w (o.scope == .sys) o.id then
      .next ((s.modOp op fun o => { o with
        cleared := true, tclear := ((s.warp? o.w).map (·.gwct)).getD 0 }).progress (some o.w))
    else .next s
  | none => .next s
/-- The slice applies an access that it held: a cleared release, or a write that has waited behind one. -/
def execReleaseApply (op part : Nat) (s : State) : Host.Outcome State Fault Refusal :=
  match s.part? op part with
  | some (o, p) =>
    if p.st != .held || !o.cleared || s.behind o part p then .next s
    else if o.kind.isAtomic then .next (if s.accessFree o p && s.firstLeft o part p then s.applyAtomic o p else s)
    else .next (s.applyWrite o part p)
  | none => .next s

/-! ### Memory-side faults on their way (R357, R358) -/

def Part.failing (p : Part) : Bool := match p.st with | .failed .. => true | _ => false
def Part.settled (p : Part) : Bool := match p.st with | .done | .failed .. => true | _ => false
def MemOp.settled (o : MemOp) : Bool := o.parts.all Part.settled
/-- Operations whose parts belong to no one lane. -/
def OpKind.whole : OpKind → Bool
  | .tld _ | .tst | .sflush .. | .xread .. | .xfer .. | .loop _ => true
  | _ => false
/-- The lanes that have a faulting part, in ascending order. -/
def MemOp.badLanes (o : MemOp) : List Nat :=
  if o.kind.whole then (if o.parts.any Part.failing then o.lanes else [])
  else o.lanes.filter fun l => o.parts.any fun p => p.lane == l && p.failing
/-- The first fault of an operation's parts that belong to a lane: code, address, detail. -/
def MemOp.firstFault (o : MemOp) (lane : Nat) : Option (Nat × Nat × Nat) :=
  o.parts.findSome? fun p => if o.kind.whole || p.lane == lane then
    (match p.st with | .failed c a d => some (c, a, d) | _ => none) else none
/-- Operations of the Transfer engine (R298). -/
def OpKind.ofEngine : OpKind → Bool
  | .xlr _ | .xread .. | .xfer .. => true
  | _ => false
/-- Sends the fault of an operation's faulting parts to its core: the details are the lowest faulting lane's, and each lane's address
goes with them (R357). -/
def State.sendFault (s : State) (o : MemOp) (lanes : List Nat) : State :=
  match lanes with
  | [] => s
  | l :: _ => match o.firstFault l with
    | some (code, a, d) =>
      s.queueFault o.group o.kind.ofEngine o.w o.pc code a d lanes
        (lanes.filterMap fun l => (o.firstFault l).map fun x => (l, x.2.1))
    | none => s
/-- The faults of one issue that are on their way: one for each of its warps that has a faulting lane (R500). -/
def State.faultsOf (s : State) (f : ImpFault) : List ImpFault := s.home.faults.filter fun x => x.group == f.group && x.w.unit == f.w.unit
/-- Whether an operation of an issue may still fault. -/
def State.groupOpen (s : State) (group : Nat) : Bool := s.ops.any fun o => o.group == group && !o.returned
/-- Memory-side faults of an issue reach its core, all of them at once, and end the task: a record for each warp, in ascending warp
slot (R358, R365, R500). -/
def execImpreciseFault (fid : Nat) (s : State) : Host.Outcome State Fault Refusal :=
  match s.home.faults.find? (·.id == fid) with
  | none => .next s
  | some f =>
    if s.groupOpen f.group then .next s
    else
      let fs := sortKey (fun x => ((s.warp? x.w).map (·.slot)).getD 0) (s.faultsOf f)
      let s := { s with home := { s.home with faults := s.home.faults.filter fun x => !fs.any (·.id == x.id) } }
      match s.unit? f.w.unit with
      | some u =>
        if u.state == .running || u.state == .stopping then
          .next (s.takeHits f.w.unit f.w.wg false f.pc (fs.map fun x =>
            (x.code, ⟨x.w.warp, x.lanes, x.det0.toNat, x.det1.toNat, x.vals⟩)))
        else .next s
      | none => .next s

/-! ### LOAD_RETURN (R104 to R107, R164, R169, R422, R440) -/

/-- The bytes of one access, put together. -/
def assemble (ps : List Part) : Nat := sumOf (ps.map fun p => bytesNat p.data * 2 ^ (8 * p.off))
def MemOp.laneParts (o : MemOp) (lane tang : Nat) : List Part := o.parts.filter fun p => p.lane == lane && p.tang == tang
/-- Sign extension of the narrow signed sizes (R78). -/
def extendSize (sz : Size) (v : Nat) : Nat :=
  match sz with
  | .s8 => intCode 32 (intOfCode 8 true v)
  | .s16 => intCode 32 (intOfCode 16 true v)
  | _ => v
/-- The register group that a returned value writes: k words with their shadows. -/
def groupWrites (c : LaunchCfg) (dst k : Nat) (mask : Mask) (val : Nat) (tangs : Nat → Option Nat) : List RegWrite :=
  (List.range k).map fun i =>
    .g (dst + i) (BitVec.ofNat 32 (val / 2 ^ (32 * i)))
      ((List.range c.d).map fun j => match tangs j with
        | some v => BitVec.ofNat 32 (v / 2 ^ (32 * i))
        | none => 0) mask
/-- The writes of one lane of a returning load, LDS, ATOM or CAS. -/
def MemOp.laneWrites (o : MemOp) (c : LaunchCfg) (l : Nat) : List RegWrite :=
  let ps := o.laneParts l 0
  match o.kind with
  | .load dst sz _ =>
    groupWrites c dst sz.group o.mask (extendSize sz (assemble ps)) fun j =>
      match o.laneParts l (j + 1) with | [] => none | qs => some (assemble qs)
  | .lds dst sz _ =>
    groupWrites c dst sz.group (BitVec.ofNat 8 (((ps.head?).map (·.carried)).getD 0)) (extendSize sz (assemble ps)) fun j =>
      match o.laneParts l (j + 1) with | [] => none | qs => some (assemble qs)
  | .atom dst _ b64 _ =>
    groupWrites c dst (if b64 then 2 else 1) o.mask (((ps.head?).map fun p => bytesNat p.data).getD 0) fun j =>
      ((o.laneParts l (j + 1)).head?).map fun p => bytesNat p.data
  | .cas dst b64 =>
    groupWrites c dst (if b64 then 2 else 1) o.mask (((ps.head?).map fun p => bytesNat p.data).getD 0) fun _ => none
  | _ => []
/-- The registers whose scoreboard entries a returning operation clears. -/
def OpKind.resultRegs : OpKind → List RegName
  | .load dst sz _ | .lds dst sz _ => (List.range sz.group).map fun i => .g (dst + i)
  | .atom dst _ b64 _ | .cas dst b64 | .waitcmp dst _ b64 _ => (List.range (if b64 then 2 else 1)).map fun i => .g (dst + i)
  | .aldp n _ => [.a n]
  | _ => []
/-- Whether the loads' tag still waits for acks of stores it was forwarded from. -/
def State.forwarding (s : State) (o : MemOp) : Bool := o.waitSt.any fun k => s.ops.any (·.id == k)
/-- Whether a lane of an acquire waits for the visibility time too (R422). -/
def MemOp.timed (o : MemOp) (l : Nat) : Bool :=
  match o.scope with
  | .warp | .core => false
  | .clus => !o.parts.any fun p => p.lane == l && p.inSpad
  | _ => true
/-- The lanes of an acquire go on: those that wait for the value alone, or all, with the visibility time of those that wait for
it. -/
def State.acquired (s : State) (o : MemOp) (all : Bool) (time : Nat) : State :=
  if !o.acq then s
  else o.lanes.foldl (fun s l => if o.timed l && !all then s else s.modThread o.w l fun t => { t with
    acq := t.acq.filter (· != o.id), acqTime := if o.timed l then max t.acqTime time else t.acqTime }) s
/-- The visibility times that a warp, or an engine whose clock is behind its core's (R26), still has to reach, with one more (R299,
R424). -/
def Warp.see (w : Warp) (now id time : Nat) : Warp :=
  { w with seen := natSet (w.seen.filter fun x => now < x.2 + 4) id (if now < time + 4 then time else 0) }
/-- A returned operation's tag takes its time, its acquire is done, and the operation ends. -/
def State.land (s : State) (o : MemOp) : State :=
  let time := max (maxOf (o.parts.map (·.time))) o.tclear
  let now := s.now o.core
  let s := s.modWarp o.w fun w => { w.see now o.id time with tags := match o.tag with
    | some t => landTag w.tags t time
    | none => w.tags }
  (s.acquired o true time).dropOp o.id
/-- The value of an operation has arrived: the part times of host and peer reads are the arrival (R31, R33); the tag lands
now, or with the last ack it waits for (R406). -/
def State.arrived (s : State) (o : MemOp) : State :=
  let now := s.now o.core
  let o := { o with returned := true, parts := o.parts.map fun p => if p.far then { p with time := now } else p }
  let s := (s.modOp o.id fun _ => o).acquired o false 0
  if s.forwarding o then s else s.land o
/-- The returned value is written in every lane without a faulting part; `ld` falls. -/
def State.returnLanes (s : State) (o : MemOp) : State :=
  let bad := o.badLanes
  let cfg := (s.unit? o.w.unit).map (·.cfg)
  let ws := o.lanes.filterMap fun l =>
    if bad.contains l then none else cfg.map fun c => (l, o.laneWrites c l)
  let s := s.sendFault o bad
  let s := s.modWarp o.w fun w => ((w.applyWrites ws).clearSb o.kind.resultRegs).addCounter .ld false
  let s := if o.kind.isAtomic then
      s.joinGwct o.w (maxOf (o.parts.map fun p => if p.space == .local then p.time else 0))
    else s
  s.arrived o
/-- The first window in use whose span holds a pointer (R167). -/
def windowAt (ws : List Window) (p : Nat) : Option Nat :=
  (List.range 16).find? fun m => ((ws[m]?).map fun w => w.used && w.base ≤ p && p < w.base + w.length).getD false
def ptrOf (b128 : Bool) (v : Nat) : Nat := if b128 then v % 2 ^ 72 else v
/-- The pointer that a lane of an ALDP has loaded. -/
def MemOp.pointer (o : MemOp) (b128 : Bool) (l : Nat) : Nat := ptrOf b128 (assemble (o.laneParts l 0))
/-- The address registers that lanes of an ALDP write: each pointer with the window that holds it (R167). -/
def MemOp.ptrWrites (o : MemOp) (u : Placed) (n : Nat) (b128 : Bool) (ls : List Nat) : List (Nat × List RegWrite) :=
  ls.map fun l =>
    let r := deriveWindow u.windows ((windowAt u.windows (o.pointer b128 l)).getD 0)
    let am : Mask := BitVec.ofNat 8 ((((o.laneParts l 0).head?).map (·.carried)).getD 0)
    (l, [RegWrite.a n { r with ptr := BitVec.ofNat 72 (o.pointer b128 l), mask := o.mask ||| am }])
/-- All pointers of an ALDP have arrived: each is matched, or the issue faults; then it retires (R167). -/
def State.returnPtrs (s : State) (o : MemOp) (n : Nat) (b128 : Bool) : State :=
  let group := s.ops.filter (·.group == o.group)
  match s.bundleOf o.w.unit o.w.wg (s.groupLanes o) with
  | none => s
  | some b =>
    let hits := group.filterMap fun x => match x.lanes.filter fun l => (windowAt b.u.windows (x.pointer b128 l)).isNone with
      | [] => none
      | l :: ls => some (⟨x.w.warp, l :: ls, x.pointer b128 l, 0, (l :: ls).map fun l => (l, x.pointer b128 l)⟩ : Hit)
    if hits != [] then s.takeFault o.w.unit o.w.wg 0x05 true o.pc hits
    else
      let s := group.foldl (fun s x =>
        (s.modWarp x.w fun w => ((w.applyWrites (x.ptrWrites b.u n b128 x.lanes)).clearSb [.a n]).addCounter .ld false).arrived x) s
      (s.retire b false fun _ _ t => { t with busy := none }).stay b
/-- Every monitor of a WAITCMP's issue has matched: it writes the values and retires (R427, R446). -/
def State.returnWait (s : State) (o : MemOp) (dst : Nat) (b64 : Bool) : State :=
  let group := s.ops.filter (·.group == o.group)
  match s.bundleOf o.w.unit o.w.wg (s.groupLanes o) with
  | none => s
  | some b =>
    let s := group.foldl (fun s x =>
      let ws := x.lanes.map fun l =>
        (l, groupWrites b.u.cfg dst (if b64 then 2 else 1) x.mask (assemble (x.laneParts l 0)) fun _ => none)
      (s.modWarp x.w fun w => (w.applyWrites ws).clearSb x.kind.resultRegs).arrived x) s
    let times := group.map fun x => (x.w, x.lanes, maxOf (x.parts.map fun p => if p.far then s.now x.core else p.time))
    let s := times.foldl (fun s (w, ls, time) => ls.foldl (fun s l => s.modThread w l fun t =>
      { t with acqTime := max t.acqTime time }) s) s
    let s := s.renewTurn b o.group
    (s.retire b true fun _ _ t => { t with busy := none, parked := none, matched := none }).stay b
/-- Faults of an operation whose thread waits inside the instruction: the operations of the issue go. The lanes of an ALDP without a
faulting part are written (R357). -/
def State.groupFault (s : State) (o : MemOp) : State :=
  let group := s.ops.filter (·.group == o.group)
  let s := group.foldl (fun s x =>
    let s := s.sendFault x x.badLanes
    match x.kind, s.unit? x.w.unit with
    | .aldp n b128, some u =>
      let good := x.lanes.filter fun l => !x.badLanes.contains l && (windowAt u.windows (x.pointer b128 l)).isSome
      s.modWarp x.w fun w => ((w.applyWrites (x.ptrWrites u n b128 good)).clearSb [.a n]).addCounter .ld false
    | _, _ => s) s
  { s with ops := s.ops.filter (·.group != o.group) }
def MemOp.ready (o : MemOp) (clk : Nat) : Bool := o.settled && o.due ≤ clk && !o.returned
def execLoadReturn (op : Nat) (s : State) : Host.Outcome State Fault Refusal :=
  match s.op? op with
  | none => .next s
  | some o =>
    let group := s.ops.filter (·.group == o.group)
    if !o.ready s.clk then .next s
    else
      match o.kind with
      | .load .. | .lds .. | .atom .. | .cas .. => .next (s.returnLanes o)
      | .pref => .next (s.dropOp op)
      | .aldp n b128 =>
        if !group.all (·.ready s.clk) then .next s
        else if group.any (·.badLanes != []) then .next (s.groupFault o)
        else .next (s.returnPtrs o n b128)
      | .waitcmp dst _ b64 _ =>
        if group.any (·.badLanes != []) then .next (s.groupFault o)
        else if !group.all (·.ready s.clk) || !s.mayRetire o.w then .next s
        else .next (s.returnWait o dst b64)
      | _ => .next s
/-- A timed tag whose time has passed is free (R107). -/
def execTagFree (w : WarpId) (tag : Nat) (s : State) : Host.Outcome State Fault Refusal :=
  match (s.warp? w).bind fun x => x.tags[tag]? with
  | some (.timed v) =>
    .next (if v ≤ s.now (s.coreOf w) then s.modWarp w fun x => { x with tags := modAt x.tags tag fun _ => .free } else s)
  | _ => .next s

/-! ### STORE_ACK (R106, R171, R406, R412, R453) -/

/-- A store's ack raises the V of the resident blocks that it updated (R412). -/
def Core.raiseV (c : Core) (op g : Nat) : Core :=
  { c with l1 := c.l1.map fun k =>
    if k.upd.contains op then { k with v := max k.v g, upd := k.upd.filter (· != op) } else k }
/-- Loads that were forwarded bytes of an acked store, and the write-backs of other warps that named its windows, take its GWCT. -/
def State.ackForwards (s : State) (id g : Nat) : State :=
  let take (o : MemOp) : MemOp :=
    if o.waitSt.contains id && (o.kind.isRead || o.kind.counter == some .ld || o.kind.counter == some .st) then
      { o with waitSt := o.waitSt.filter (· != id), tclear := max o.tclear g }
    else o
  let s := { s with ops := s.ops.map take }
  (s.ops.filter fun o => o.returned && o.waitSt == []).foldl State.land s
/-- A SUNMAP's windows are unbound once its write-back is acked: the operation that carries a window's bytes is acked first of those
that name it. -/
def State.unbind (s : State) (o : MemOp) : State :=
  match o.kind with
  | .sflush vs true => s.modUnit o.w.unit fun u => { u with stash := u.stash.filter fun st => !vs.contains st.vbase }
  | _ => s
def execStoreAck (op : Nat) (s : State) : Host.Outcome State Fault Refusal :=
  match s.op? op with
  | none => .next s
  | some o =>
    if o.kind.counter != some .st || !o.ready s.clk || o.waitSt != [] then .next s
    else
      let g := max (maxOf (o.parts.map fun p => if p.space == .local then p.time else 0)) (if o.rel then 0 else o.tclear)
      let s := s.modCore o.core (·.raiseV op g)
      let s := (s.modWarp o.w fun w => w.addCounter .st false).joinGwct o.w g
      let s := s.sendFault o o.badLanes
      .next (((s.dropOp op).ackForwards op g).unbind o)

/-! ### MONITOR_ARM and WAITCMP_POLL (R427, R438, R446, R448) -/

/-- Marks a lane as parked. -/
def State.park (s : State) (o : MemOp) (l : Nat) : State :=
  s.modThread o.w l fun t => { t with parked := some (t.parked.getD (s.now o.core)) }
/-- Monitors armed in the slice of an address (R448, R496). -/
def State.armedAt (s : State) (a : Nat) : Nat :=
  sumOf (s.ops.map fun o => (o.parts.filter fun q =>
    q.st == .armed false && (q.addr / 1024 == a / 1024 || Config.sliceOf (q.addr / 1024) == Config.sliceOf (a / 1024))).length)
/-- The slice compares and, when the condition fails, arms a monitor in the same step: in overflow mode when none of its 256
is free, which the monitors armed there tell, whatever the event says (assumption 54). -/
def execMonitorArm (op part : Nat) (_ : Bool) (s : State) : Host.Outcome State Fault Refusal :=
  match s.part? op part with
  | some (o, p) =>
    match o.kind with
    | .waitcmp _ c _ vals =>
      if p.space != .local || p.st != .sent || s.blocked o part p then .next s
      else
        match s.readLocal (s.ctxOf o) p.addr p.n with
        | .busy => .next s
        | .bad code a d => .next (s.setPart op part fun q => { q with st := .failed code a d })
        | .ok bs =>
          let s := s.cacheWalk (s.ctxOf o) p.addr
          if wcondHolds c (bytesNat bs) (waitVal vals p.lane) then
            .next (s.setPart op part fun q => { q with st := .done, data := bs, time := visOf s.home p.addr p.n })
          else
            let full := s.armedAt p.addr ≥ Config.sliceMonitors
            .next ((s.setPart op part fun q => { q with st := .armed full }).park o p.lane)
    | _ => .next s
  | none => .next s
/-- The core reads the bytes of a host or peer word again, 256 ticks of its clock after it last did. -/
def execWaitcmpPoll (op part : Nat) (s : State) : Host.Outcome State Fault Refusal :=
  match s.part? op part with
  | some (o, p) =>
    match o.kind with
    | .waitcmp _ c _ vals =>
      if !p.far || p.st != .sent || p.time > s.now o.core then .next s
      else
        match s.readSpan 0 p.space p.addr p.n with
        | .ok bs =>
          if wcondHolds c (bytesNat bs) (waitVal vals p.lane) then
            .next (s.setPart op part fun q => { q with st := .done, data := bs, time := 0 })
          else .next ((s.setPart op part fun q => { q with time := s.now o.core + 256 }).park o p.lane)
        | .bad code a d => .next (s.setPart op part fun q => { q with st := .failed code a d })
        | .busy => .next s
    | _ => .next s
  | none => .next s

end Sys2Proof.Machine
end

