-- ==== Sys2Proof/Machine/XferOps.lean ====
section
/-! DEFINITION. What each chunk of a Transfer engine operation reads and writes: the transforms, XRED's tree, compressed
lines, sparse walks, checked streams (R284 to R296, R310). -/

namespace Sys2Proof.Machine

/-! ### Bytes read so far -/

/-- A source byte by source number and offset from BASE; none while it has not been read. -/
abbrev Src := Nat → Nat → Option Byte
/-- A span of a source: number, offset, length. -/
abbrev Span := Nat × Nat × Nat
def spanRead (g : Src) (x : Span) : Bool := (List.range x.2.2).all fun i => (g x.1 (x.2.1 + i)).isSome
def spanBytes (g : Src) (src off n : Nat) : List Byte := (List.range n).map fun i => (g src (off + i)).getD 0
/-- The little-endian value of n bytes of a source. -/
def spanNat (g : Src) (src off n : Nat) : Nat := bytesNat (spanBytes g src off n)
/-- What a chunk comes to: bytes it still needs, its writes, or the error that stops the operation before it. -/
inductive ChunkRes
  | need (xs : List Span)
  | write (ws : List (Nat × List Byte))
  /-- the operation will end with OVERFLOW of the line: its bytes are written, and posted when it lands only as said (R292) -/
  | over (ws : List (Nat × List Byte)) (line : Nat) (posts : Bool)
  | stop (kind extent chunk : Nat)
  deriving DecidableEq, Repr
/-- Writes once every span is read. -/
def whenRead (g : Src) (xs : List Span) (ws : List (Nat × List Byte)) : ChunkRes :=
  if xs.all (spanRead g) then .write ws else .need (xs.filter fun x => !spanRead g x)

/-! ### Elements of DENSE layouts (R284, R287) -/

/-- The bytes of element n: offset and length. -/
def Lay.elemSpan (l : Lay) (n : Nat) : Nat × Nat :=
  let bit := l.w * (n % l.d0)
  (l.rowOff (n / l.d0) + bit / 8, (bit % 8 + l.w + 7) / 8)
def Lay.elemCode (l : Lay) (g : Src) (src n : Nat) : Nat :=
  let (o, k) := l.elemSpan n
  spanNat g src o k / 2 ^ (l.w * (n % l.d0) % 8) % 2 ^ l.w
def Lay.scaleOf (l : Lay) (g : Src) (src n : Nat) : Nat := spanNat g src (l.scaleOff (n / 32)) 1
def Lay.value (l : Lay) (g : Src) (src n : Nat) : FVal :=
  if l.mx then mxVal l.el (l.scaleOf g src n) (l.elemCode g src n) else elemVal l.el (l.elemCode g src n)
/-- The spans an element needs. -/
def Lay.elemNeeds (l : Lay) (src n : Nat) : List Span :=
  (src, l.elemSpan n) :: (if l.mx then [(src, l.scaleOff (n / 32), 1)] else [])
/-- The elements that have bits in stream bytes [256k, 256k + 256). -/
def Lay.chunkElems (l : Lay) (k : Nat) : List Nat :=
  let lo := 2048 * k / l.w
  let hi := min l.n ((2048 * (k + 1) + l.w - 1) / l.w)
  (List.range (hi - lo)).map (lo + ·)
/-- The blocks whose first element starts in the chunk. -/
def Lay.chunkBlocks (l : Lay) (k : Nat) : List Nat :=
  let b := 4 * l.w
  let lo := (256 * k + b - 1) / b
  let hi := min l.blocks ((256 * (k + 1) + b - 1) / b)
  (List.range (hi - lo)).map (lo + ·)
/-- The stream bytes of a chunk, from the code of each element. -/
def Lay.chunkBytes (l : Lay) (k : Nat) (code : Nat → Nat) : List Byte :=
  let es := l.chunkElems k
  match es with
  | [] => []
  | e :: _ =>
    let v := es.foldl (fun a n => a + code n * 2 ^ (l.w * (n - e))) 0
    natBytes (min 256 (l.stream - 256 * k)) (v / 2 ^ (2048 * k - l.w * e))
/-- Stream bytes at their offsets in the layout, one write for each run in a row. -/
def Lay.streamWrites (l : Lay) (x : Nat) (bs : List Byte) : List (Nat × List Byte) :=
  (splitAt l.rowBytes (bs.length / l.rowBytes + 2) x bs.length).map fun (y, m) => (l.byteOff y, (bs.drop (y - x)).take m)
/-- The scale writes of a chunk. -/
def Lay.scaleWrites (l : Lay) (k : Nat) (scale : Nat → Nat) : List (Nat × List Byte) :=
  match l.chunkBlocks k with
  | [] => []
  | b :: bs => [(l.scaleOff b, (b :: bs).map fun n => BitVec.ofNat 8 (scale n))]
/-- A DENSE chunk from its elements' codes and its blocks' scales. -/
def Lay.chunkWrites (l : Lay) (k : Nat) (code scale : Nat → Nat) : List (Nat × List Byte) :=
  l.streamWrites (256 * k) (l.chunkBytes k code) ++ (if l.mx then l.scaleWrites k scale else [])

/-! ### XCP (R287) -/

/-- The block of 32 source values that begins a run of a row, packed (R200). -/
def packRun (dst src : Lay) (g : Src) (b : Nat) : Nat × List Nat :=
  let (x, codes, _) := packBlock dst.elem dst.el ((List.range 32).map fun i => (src.value g 0 (32 * b + i), .rne))
  (x, codes)
/-- The source element of a destination element. -/
def xcpSource (t : Xform) (dst : Lay) (n : Nat) : Nat :=
  match t with
  | .transpose =>
    let i0 := n % dst.d0
    let i1 := n / dst.d0 % dst.d1
    i1 + dst.d1 * (i0 + dst.d0 * (n / dst.d0 / dst.d1))
  | _ => n
/-- Chunk k of an XCP between DENSE layouts. -/
def xcpChunk (t : Xform) (dst src : Lay) (g : Src) (k : Nat) : ChunkRes :=
  let es := dst.chunkElems k
  match t with
  | .mxpack =>
    let bs := ((es.map (· / 32)) ++ dst.chunkBlocks k).eraseDups
    let needs := bs.flatMap fun b => (List.range 32).flatMap fun i => src.elemNeeds 0 (32 * b + i)
    let packed := bs.map fun b => (b, packRun dst src g b)
    let run (b : Nat) : Nat × List Nat := ((packed.find? (·.1 == b)).map (·.2)).getD (0, [])
    whenRead g needs (dst.chunkWrites k (fun n => ((run (n / 32)).2[n % 32]?).getD 0) fun b => (run b).1)
  | .copy =>
    let needs := (es.map fun n => (0, src.elemSpan n)) ++
      (if dst.mx then (dst.chunkBlocks k).map fun b => (0, src.scaleOff b, 1) else [])
    whenRead g needs (dst.chunkWrites k (fun n => src.elemCode g 0 n) fun b => spanNat g 0 (src.scaleOff b) 1)
  | .transpose =>
    whenRead g (es.map fun n => (0, src.elemSpan (xcpSource t dst n)))
      (dst.chunkWrites k (fun n => src.elemCode g 0 (xcpSource t dst n)) fun _ => 0)
  | _ =>
    whenRead g (es.flatMap fun n => src.elemNeeds 0 n)
      (dst.chunkWrites k (fun n => (toElem dst.el .rne true true (src.value g 0 n)).1) fun _ => 0)
/-- The handles meet a transform's requirements (R287, R310). -/
def xcpShape (t : Xform) (dst src : Lay) : Bool :=
  match t with
  | .copy => dst.dense && src.dense && dst.elem == src.elem && dst.n == src.n && (!dst.mx || dst.d0 == src.d0)
  | .transpose =>
    dst.dense && src.dense && dst.elem == src.elem && !dst.mx && dst.d0 == src.d1 && dst.d1 == src.d0 && dst.d2 == src.d2
  | .convert => dst.dense && src.dense && !dst.mx && !src.mx && dst.n == src.n
  | .mxpack => dst.dense && src.dense && !src.mx && !src.el.isInt && dst.mx && dst.d0 == src.d0 && dst.n == src.n
  | .mxunpack => dst.dense && src.dense && src.mx && !dst.mx && dst.d0 == src.d0 && dst.n == src.n
  | .expand => dst.dense && src.cline && dst.stream == 256 * src.lines
  | .compact => dst.cline && src.dense && src.stream == 256 * dst.lines

/-! ### XRED (R289, R290) -/

def redWidth (l : Lay) : Bool := l.dense && !l.mx && !l.el.isInt && l.w ≤ 32
/-- One level of the tree over codes of fp32; an absent leaf is none. -/
def sumLevel : List (Option Nat) → List (Option Nat)
  | x :: y :: t =>
    (match x, y with
     | some a, some b => some (toFmt fp32 .rne false ((decodeF fp32 a).add (decodeF fp32 b)))
     | some a, none => some a
     | none, b => b) :: sumLevel t
  | t => t
def sumTree : Nat → List (Option Nat) → List (Option Nat)
  | 0, v => v
  | n + 1, v => sumTree n (sumLevel v)
def xredShape (dst : Lay) (srcs : List Lay) : Bool :=
  dst.dense && !dst.mx && !dst.el.isInt && srcs.all redWidth && dst.n == maxOf (srcs.map Lay.n)
def xredChunk (dst : Lay) (srcs : List Lay) (g : Src) (k : Nat) : ChunkRes :=
  let present (n : Nat) : List (Nat × Lay) := (srcs.zipIdx).filterMap fun (l, i) => if n < l.n then some (i, l) else none
  let needs := (dst.chunkElems k).flatMap fun n => (present n).map fun (i, l) => (i, l.elemSpan n)
  let code (n : Nat) : Nat :=
    let leaves := (srcs.zipIdx).map fun (l, i) => if n < l.n then some (toFmt fp32 .rne false (l.value g i n)) else none
    match ((sumTree 4 leaves)[0]?).join with
    | some c => (toElem dst.el .rne true true (decodeF fp32 c)).1
    | none => 0
  whenRead g needs (dst.chunkWrites k code fun _ => 0)

/-! ### Compressed lines (R291 to R293) -/

/-- The payload length of a line's header; none when the header is malformed. -/
def linePayload (h : Nat) : Option Nat :=
  match h with | 0 => some 0 | 1 => some 4 | 2 => some 68 | 3 => some 132 | 4 => some 256 | _ => none
/-- The 256 bytes of a line from its header and payload. -/
def lineDecode (h : Nat) (pay : List Byte) : List Byte :=
  let b := bytesNat (pay.take 4)
  match h with
  | 0 => List.replicate 256 0
  | 1 => (List.range 64).flatMap fun _ => natBytes 4 b
  | 2 => (List.range 64).flatMap fun i =>
      natBytes 4 (intCode 32 (b + intOfCode 8 true (bytesNat ((pay.drop (4 + i)).take 1))))
  | 3 => (List.range 64).flatMap fun i =>
      natBytes 4 (intCode 32 (b + intOfCode 16 true (bytesNat ((pay.drop (4 + 2 * i)).take 2))))
  | _ => pay
/-- The first mode that represents a line of 64 words (R292). -/
def lineEncode (ws : List Nat) : List Byte :=
  let b := (ws.head?).getD 0
  let ds := ws.map fun w => intOfCode 32 true (w + 2 ^ 32 - b)
  let fits (lim : Int) : Bool := ds.all fun d => -lim ≤ d && d < lim
  if ws.all (· == 0) then [0]
  else if ws.all (· == b) then 1 :: natBytes 4 b
  else if fits 128 then 2 :: natBytes 4 b ++ ds.flatMap fun d => natBytes 1 (intCode 8 d)
  else if fits 32768 then 3 :: natBytes 4 b ++ ds.flatMap fun d => natBytes 2 (intCode 16 d)
  else 4 :: ws.flatMap fun w => natBytes 4 w
/-- The place of line k of a stream, from the headers before it: spans still needed, a malformed line, or its offset. -/
inductive LineAt
  | need (x : Span)
  | bad (line : Nat)
  | at_ (off : Nat)
  deriving DecidableEq, Repr
def lineAt (src : Lay) (g : Src) : Nat → LineAt
  | 0 => .at_ 0
  | k + 1 =>
    match lineAt src g k with
    | .at_ o =>
      if o + 1 > src.cap then .bad k
      else
        match g 0 o with
        | none => .need (0, o, 1)
        | some h =>
          match linePayload h.toNat with
          | none => .bad k
          | some n => if o + 1 + n > src.cap then .bad k else .at_ (o + 1 + n)
    | x => x
def expandChunk (dst src : Lay) (g : Src) (k : Nat) : ChunkRes :=
  match lineAt src g k with
  | .need x => .need [x]
  | .bad j => .stop 2 (256 * j) j
  | .at_ o =>
    match lineAt src g (k + 1) with
    | .need x => .need [x]
    | .bad _ => .stop 2 (256 * k) k
    | .at_ e =>
      let h := spanNat g 0 o 1
      whenRead g (if e > o + 1 then [(0, o + 1, e - o - 1)] else [])
        (dst.streamWrites (256 * k) (lineDecode h (spanBytes g 0 (o + 1) (e - o - 1))))
/-- The spans of source line i, and its words. -/
def Lay.lineNeeds (l : Lay) (i : Nat) : List Span :=
  (splitAt l.rowBytes (256 / l.rowBytes + 2) (256 * i) 256).map fun (y, m) => (0, l.byteOff y, m)
def Lay.lineWords (l : Lay) (g : Src) (i : Nat) : List Nat :=
  (List.range 64).map fun j => bytesNat ((List.range 4).map fun t => (g 0 (l.byteOff (256 * i + 4 * j + t))).getD 0)
/-- Encodes lines i, i + 1, … from a place in the output until byte `stop` is reached: the bytes of lines that fit, the
line that does not fit, or the line still to be read. A line that remains when the span is full does not fit. -/
def compactFrom (src : Lay) (g : Src) (cap stop : Nat) : Nat → Nat → List Byte → List Byte × Option Nat × List Span
  | 0, _, out => (out, none, [])
  | fuel + 1, i, out =>
    if out.length ≥ stop then (out, if out.length ≥ cap then some i else none, [])
    else
      let needs := (src.lineNeeds i).filter fun x => !spanRead g x
      if needs != [] then (out, none, needs)
      else
        let e := lineEncode (src.lineWords g i)
        if out.length + e.length > cap then (out, some i, [])
        else compactFrom src g cap stop fuel (i + 1) (out ++ e)
/-- Chunk k of a COMPACT. When the line that does not fit would start at BASE + CAP and CAP is a multiple of 256, every chunk posts its
bytes and the error event posts none, after the last of them: its error falls in the phase that is then current (R292, R297;
assumption 111). -/
def compactChunk (dst src : Lay) (g : Src) (k : Nat) : ChunkRes :=
  let stop := min dst.cap (256 * (k + 1))
  match compactFrom src g dst.cap stop dst.lines 0 [] with
  | (_, _, x :: xs) => .need (x :: xs)
  | (out, over_, []) =>
    let bs := (List.range (stop - 256 * k)).map fun i => (out[256 * k + i]?).getD 0
    match over_ with
    | some j => .over [(256 * k, bs)] j (k < out.length / 256)
    | none => .write [(256 * k, bs)]

/-! ### XWALK (R83, R295, R296) -/

/-- The walk's range of entries. -/
def walkRange (e i p : Nat) : Nat × Nat := if p = 0 then (0, 0) else (i * e / p, (i + 1) * e / p)
def Lay.ptrSpan (l : Lay) (i : Nat) : Span := (0, l.iw * i, l.iw)
def Lay.colSpan (l : Lay) (e : Nat) : Span := (0, l.coloff + l.iw * e, l.iw)
def Lay.idx (_ : Lay) (g : Src) (x : Span) : Nat := spanNat g x.1 x.2.1 x.2.2
/-- The row of entry e of a CSR layout: the last row whose pointer is at most e (assumption 34). -/
def Lay.csrRow (l : Lay) (g : Src) (e : Nat) : Option Nat :=
  ((List.range l.nrows).filter fun r => l.idx g (l.ptrSpan r) ≤ e).getLast?
/-- Whether a CSR layout's row pointers never fall and end at E. -/
def Lay.csrOk (l : Lay) (g : Src) : Bool :=
  ((List.range l.nrows).all fun r => l.idx g (l.ptrSpan r) ≤ l.idx g (l.ptrSpan (r + 1))) && l.idx g (l.ptrSpan l.nrows) == l.nnz
/-- The spans whose bytes give the indices of an entry. -/
def Lay.entryNeeds (l : Lay) (e : Nat) : List Span :=
  if l.kind = 3 then [(0, l.iw * e, l.iw), l.colSpan e]
  else ((List.range (l.nrows + 1)).map l.ptrSpan) ++ [l.colSpan e]
def Lay.entry (l : Lay) (g : Src) (e : Nat) : Option Nat × Nat :=
  (if l.kind = 3 then some (l.idx g (0, l.iw * e, l.iw)) else l.csrRow g e, l.idx g (l.colSpan e))
/-- A gathered row, or column, of the dense source (source 1). -/
def gatherNeeds (act : WalkAct) (src : Lay) (row col : Nat) : List Span :=
  match act with
  | .coord => []
  | .gatherRow =>
    (1, src.rowOff row, src.rowBytes) :: (if src.mx then [(1, src.scaleOff (row * (src.d0 / 32)), src.d0 / 32)] else [])
  | .gatherCol => (List.range src.rows).map fun t => (1, src.elemSpan (t * src.d0 + col))
def gatherWrites (act : WalkAct) (dst src : Lay) (g : Src) (k row col : Nat) : List (Nat × List Byte) :=
  match act with
  | .coord => dst.streamWrites (8 * k) (natBytes 4 row ++ natBytes 4 col)
  | .gatherRow =>
    (dst.rowOff k, spanBytes g 1 (src.rowOff row) src.rowBytes) ::
      (if src.mx then [(dst.scaleOff (k * (src.d0 / 32)), spanBytes g 1 (src.scaleOff (row * (src.d0 / 32))) (src.d0 / 32))] else [])
  | .gatherCol =>
    let v := (List.range src.rows).foldl (fun a t => a + src.elemCode g 1 (t * src.d0 + col) * 2 ^ (src.w * t)) 0
    [(dst.rowOff k, natBytes dst.rowBytes v)]
/-- Bytes of one entry's output (R310). -/
def walkEntryBytes (act : WalkAct) (dst : Lay) : Nat :=
  match act with
  | .coord => 8
  | _ => if dst.dense then dst.rowBytes + (if dst.mx then dst.d0 / 32 else 0) else 0
def walkShape (act : WalkAct) (sp dst : Lay) (src : Option Lay) (count : Nat) : Bool :=
  sp.sparse && dst.dense &&
  match act, src with
  | .coord, _ => dst.elem == 0x08 && dst.n ≥ 2 * count
  | .gatherRow, some s => s.dense && dst.elem == s.elem && dst.d0 == s.d0 && dst.rows ≥ count
  | .gatherCol, some s => s.dense && !s.mx && dst.elem == s.elem && dst.d0 == s.rows && dst.rows ≥ count
  | _, none => false
/-- The check of a CSR layout's row pointers with which a walk begins (R296). -/
def csrCheck (sp : Lay) (g : Src) : ChunkRes :=
  match ((List.range (sp.nrows + 1)).map sp.ptrSpan).filter fun x => !spanRead g x with
  | [] => if sp.csrOk g then .write [] else .stop 5 0 0
  | xs => .need xs
def walkChunk (act : WalkAct) (sp dst src : Lay) (g : Src) (start k : Nat) : ChunkRes :=
  let e := start + k
  let post := walkEntryBytes act dst
  let idx := (sp.entryNeeds e).filter fun x => !spanRead g x
  if idx != [] then .need idx
  else if sp.kind = 4 && !sp.csrOk g then .stop 5 0 0
  else
    match sp.entry g e with
    | (none, _) => .stop 5 (post * k) k
    | (some row, col) =>
      let out := match act with
        | .coord => false | .gatherRow => row ≥ src.rows | .gatherCol => col ≥ src.d0
      if row ≥ sp.nrows || col ≥ sp.ncols || out then .stop 5 (post * k) k
      else whenRead g (gatherNeeds act src row col) (gatherWrites act dst src g k row col)

/-! ### A whole operation -/

def Lay.empty : Lay := layOf 0
def Channel.lay (c : Channel) (i : Nat) : Lay := (((c.srcH[i]?).join).map fun h => layOf h.record).getD Lay.empty
def Channel.dstLay (c : Channel) : Lay := (c.dstH.map fun h => layOf h.record).getD Lay.empty
/-- The walk's entries. -/
def Channel.range (c : Channel) : Nat × Nat :=
  match c.kind with
  | .xwalk _ i p => if (c.lay 0).sparse then walkRange (c.lay 0).nnz i p else (0, 0)
  | _ => (0, 0)
def Channel.count (c : Channel) : Nat := c.range.2 - c.range.1
/-- B (R310): each figure from the handle that holds it, 0 where it cannot be formed. -/
def Channel.bytes (c : Channel) : Nat :=
  let d := c.dstLay
  if c.dstH.isNone then 0
  else
    match c.kind with
    | .xcp .expand => if (c.lay 0).cline then 256 * (c.lay 0).lines else 0
    | .xcp .compact => if d.cline then d.cap else 0
    | .xcp _ | .xred _ => if d.dense then d.stream + d.blocks else 0
    | .xwalk act _ p => if p = 0 then 0 else c.count * walkEntryBytes act d
/-- The handles meet the operation's requirements. -/
def Channel.shape (c : Channel) : Bool :=
  let all (n : Nat) : Bool := (List.range n).all fun i => ((c.srcH[i]?).join).isSome
  c.dstH.isSome &&
  match c.kind with
  | .xcp t => all 1 && xcpShape t c.dstLay (c.lay 0)
  | .xred n => all n && xredShape c.dstLay ((List.range n).map c.lay)
  | .xwalk act _ _ => all 1 && walkShape act (c.lay 0) c.dstLay (((c.srcH[1]?).join).map fun h => layOf h.record) c.count
/-- The number of chunks (R285). -/
def Channel.chunkCount (c : Channel) : Nat :=
  match c.kind with
  | .xcp .compact => (c.dstLay.cap + 255) / 256
  | .xwalk .. => c.count
  | _ => (c.dstLay.stream + 255) / 256
/-- A walk of a CSR layout, which checks the row pointers even for an empty range (R296). -/
def Channel.csr (c : Channel) : Bool := match c.kind with | .xwalk .. => (c.lay 0).kind == 4 | _ => false
/-- Chunk k of an operation from what it has read. -/
def Channel.chunk (c : Channel) (g : Src) (k : Nat) : ChunkRes :=
  match c.kind with
  | .xcp .expand => expandChunk c.dstLay (c.lay 0) g k
  | .xcp .compact => compactChunk c.dstLay (c.lay 0) g k
  | .xcp t => xcpChunk t c.dstLay (c.lay 0) g k
  | .xred n => xredChunk c.dstLay ((List.range n).map c.lay) g k
  | .xwalk act _ _ => walkChunk act (c.lay 0) c.dstLay (c.lay 1) g c.range.1 k
/-- The bytes that chunk k posts. -/
def Channel.chunkBytes (c : Channel) (k : Nat) : Nat :=
  match c.kind with
  | .xcp .compact => min 256 (c.dstLay.cap - 256 * k)
  | .xwalk act _ _ => walkEntryBytes act c.dstLay
  | .xcp .expand => min 256 (c.dstLay.stream - 256 * k)
  | _ => min 256 (c.dstLay.stream - 256 * k) + (if c.dstLay.mx then (c.dstLay.chunkBlocks k).length else 0)
/-- The spans that every operation of the kind reads, known when it starts; EXPAND and XWALK find theirs as they go. -/
def Channel.firstReads (c : Channel) : List Span :=
  match c.kind with
  | .xcp .expand | .xwalk .. => []
  | .xcp _ => (c.lay 0).spans.map fun (o, n) => (0, o, n)
  | .xred n => (List.range n).flatMap fun i => (c.lay i).spans.map fun (o, m) => (i, o, m)
/-- The bytes of chunk k's writes that belong to the stream, and the scales after them (R294). -/
def Channel.split (c : Channel) (k : Nat) (ws : List (Nat × List Byte)) : List Byte × List Byte :=
  let all := ws.flatMap (·.2)
  match c.kind with
  | .xcp .compact | .xwalk .. => (all, [])
  | _ => (all.take (min 256 (c.dstLay.stream - 256 * k)), all.drop (min 256 (c.dstLay.stream - 256 * k)))
/-- CRC-32C of the whole destination stream, from what the operation has read. -/
def Channel.streamCrc (c : Channel) (g : Src) : Nat :=
  let outs := (List.range c.chunks).map fun k => match c.chunk g k with
    | .write ws => c.split k ws
    | _ => ([], [])
  (crc32c (2 ^ 32 - 1) ((outs.flatMap (·.1)) ++ (outs.flatMap (·.2)))) ^^^ (2 ^ 32 - 1)

end Sys2Proof.Machine
end

