-- ==== Sys2Proof/Machine/XferIns.lean ====
section
/-! DEFINITION. The Transfer engine's instructions at issue, and its events: a handle loaded, a channel started, a chunk
committed and landed (R276 to R278, R297 to R314). -/

namespace Sys2Proof.Machine

/-! ### XLR (R305, R306) -/

/-- The record's address: the offset counts 64-byte records. -/
def xlrEa (n : ANum) (off : BitVec 10) (c : LaneCtx) : Int := (c.th.ar n.toNat).ptr.toNat + 64 * immValue c.hints off
def execXlr (l : LNum) (n : ANum) (off : BitVec 10) : State → Host.Outcome State Fault Refusal :=
  issueStd (.xlr l n off) fun b s =>
    let chk (c : LaneCtx) : LaneOut :=
      let ea := xlrEa n off c
      if (c.th.ar n.toNat).allows ea 64 true false && ea % 64 == 0 then .ok [] else .bad 0x04 (BitVec.ofInt 64 ea).toNat 0
    match b.outHits s chk with
    | some (code, hits) => .bad code hits
    | none =>
      let acc (wi : Nat) (w : Warp) (ln : Nat) (t : Thread) : List Part :=
        accParts b.u (t.ar n.toNat) ln 0 (xlrEa n off (b.laneCtx s wi w ln t)) 64 0 0 []
      let held := b.lanes.any fun (wi, w, ln, t) => s.heldUp b.u ((acc wi w ln t).map fun p => (p.space, p.addr, p.n))
      if !b.mayGo s (some .xf) (fun t => t.maskOf [.a n.toNat]) || held then .wait
      else
        let t := b.parts.foldl (fun t (wi, w, ls) =>
          let ps := ls.flatMap fun ln => match w.threads[ln]? with
            | some th => s.loadAccess b.g.core .byp (acc wi w ln th)
            | none => []
          t.addOp (b.wid wi) (some .xf) false [] fun _ id =>
            { MemOp.plain (b.wid wi) b.g.core b.pc (.xlr l.toNat) ls ps id with
              group := s.nextId, pol := .byp, waitSt := s.forwarders b.g.core ps }) s
        .done ((t.retire b false sameThread).stay b)
/-- An imprecise fault of an engine, with a check code. -/
def State.layoutFault (s : State) (group : Nat) (w : WarpId) (pc : VAddr) (lanes : List Nat) (check : Nat) : State :=
  s.queueFault group true w pc 0x0D check 0 lanes (lanes.map fun l => (l, check))
/-- An XLR that is still outstanding on a handle of a workgroup, issued before operation k. -/
def State.xlrBefore (s : State) (unit wg l k : Nat) : Bool :=
  s.ops.any fun o => o.w.unit == unit && o.w.wg == wg && o.group < k && o.kind == .xlr l
/-- An operation issued before operation k that has not yet copied a handle of its workgroup (R307). -/
def State.copyBefore (s : State) (unit wg l k : Nat) : Bool :=
  s.channels.any fun c => c.w.unit == unit && c.w.wg == wg && c.op < k && !c.copied && (c.dst :: c.srcs).contains l
/-- The records that an XLR's lanes have read: lane, record, visibility time. -/
def State.records (s : State) (o : MemOp) : List (Nat × BitVec 512 × Nat) :=
  (o.lanes.filter fun ln => !o.badLanes.contains ln).map fun ln =>
    let ps := o.laneParts ln 0
    (ln, BitVec.ofNat 512 (assemble ps), max o.tclear (maxOf (ps.map fun p => if p.far then s.now o.core else p.time)))
/-- The lanes of an XLR's operation whose records fail a check, with the code. -/
def State.badRecords (s : State) (u : Placed) (o : MemOp) : List (Nat × Nat) :=
  (s.records o).filterMap fun (ln, r, _) => (layCheck u r).map fun c => (ln, c)
/-- An operation of an XLR takes effect: each lane's record is checked and loads the handle, in ascending order. A record of the issue
that fails a check is reported in place of faults of the memory (R306, R314). -/
def State.loadHandles (s : State) (u : Placed) (l : Nat) (anyBad : Bool) (o : MemOp) : State :=
  let bad := s.badRecords u o
  let s := (s.records o).foldl (fun s (_, r, v) => if (layCheck u r).isSome then s
    else s.modWg o.w.unit o.w.wg fun g => { g with handles := modAt g.handles l fun _ => some (handleOf u r v) }) s
  match bad with
  | [] => if anyBad then s else s.sendFault o o.badLanes
  | (_, c) :: _ => s.layoutFault o.group o.w o.pc ((bad.filter fun (x : Nat × Nat) => x.2 == c).map fun (x : Nat × Nat) => x.1) c
/-- The record reads of an XLR issue have returned: they take effect in ascending thread index, and `xf` falls in each of its warps
(R302). It waits for the XLRs of its handle issued before it, and for the operations issued before it to copy that handle (R307). -/
def execXlrComplete (op : Nat) (s : State) : Host.Outcome State Fault Refusal :=
  match s.op? op with
  | none => .next s
  | some o =>
    match o.kind with
    | .xlr l =>
      let group := s.ops.filter (·.group == o.group)
      if !group.all (fun x => x.ready s.clk && x.waitSt == []) || s.xlrBefore o.w.unit o.w.wg l o.group ||
          s.copyBefore o.w.unit o.w.wg l o.group then .next s
      else
        match s.unit? o.w.unit with
        | none => .next { s with ops := s.ops.filter (·.group != o.group) }
        | some u =>
          let anyBad := group.any fun x => s.badRecords u x != []
          .next (group.foldl (fun s x =>
            ((s.loadHandles u l anyBad x).modWarp x.w fun w => w.addCounter .xf false).dropOp x.id) s)
    | _ => .next s

/-! ### XCP, XRED and XWALK at issue (R276, R302, R309) -/

/-- What one thread asks of the engine. -/
structure XferAsk where
  kind : XferKind
  dst : Nat
  srcs : List Nat
  mask : Mask
  deriving DecidableEq, Repr
def State.freeChannels (s : State) (pcl : Nat) : List Nat :=
  (List.range 8).filter fun n => !s.channels.any fun c => c.pcl == pcl && c.ch == n
/-- The pending LOOP nodes that an operation's writes could overlap are forced first; with the destination's XLR still
outstanding, every LOOP is (R225, assumption 35). -/
def forceForXfer (s : State) (b : Bundle) (ask : Thread → XferAsk) : Option State :=
  let dsts (w : Warp) (ls : List Nat) : List Nat := (ls.filterMap fun l => (w.threads[l]?).map fun t => (ask t).dst).eraseDups
  let isLoop (n : Node) : Bool := match n.kind with | .loop _ => true | _ => false
  match b.parts.findSome? fun (wi, w, ls) =>
      if (dsts w ls).any fun d => s.xlrBefore b.u.id b.wg d s.nextId then
        (w.graph.find? isLoop).map fun n => s.askEval b.g.core (reqOf s b wi w ls false false (some n.dst))
      else none with
  | some t => some t
  | none =>
    if b.parts.all fun (_, w, _) => !w.graph.any isLoop then none
    else forceLoops s b (b.parts.map fun (wi, w, ls) => (wi, (dsts w ls).flatMap fun d =>
      match s.handle b.u.id b.wg d with
      | some h => (layOf h.record).spans.flatMap fun (o, n) => (handlePlaces b.u h o n).map fun (sp, a, m, _) => (sp, a, m)
      | none => []))
/-- Gives a thread the lowest free channel of its cluster's engine. -/
def State.grant (s : State) (b : Bundle) (op wi l : Nat) (bar : Nat) (chk : Bool) (x : XferAsk) : State :=
  match s.freeChannels b.u.pcl with
  | [] => s
  | n :: _ =>
    let c : Channel := ⟨b.u.pcl, n, op, b.wid wi, l, b.pc, x.kind, x.dst, x.srcs, bar, chk, x.mask, false, false, none, [],
      0, 0, 0, 0, none, 0, 0, b.parts.map (·.1), 0⟩
    { s with channels := s.channels ++ [c] }.modThread (b.wid wi) l fun y => { y with granted := true }
/-- An issue takes channels in ascending thread index and retires when every thread has had one; `xf` rises in each of its warps. -/
def xferBody (bar : Nat) (chk : Bool) (ask : Thread → XferAsk) (b : Bundle) (s : State) : Res :=
  let begun := b.lanes.any fun (_, _, _, t) => t.granted
  if (s.freeChannels b.u.pcl = [] && b.lanes.any fun (_, _, _, t) => !t.granted) ||
      (!begun && b.parts.any fun (_, w, _) => w.xf ≥ 62) then .wait
  else
    match if begun then none else forceForXfer s b ask with
    | some t => .hold t
    | none =>
      let op := b.fenceBound s
      let t := if begun then s
        else b.parts.foldl (fun t (wi, _, _) => t.modWarp (b.wid wi) fun w => w.addCounter .xf true)
          { s.markFence b with nextId := s.nextId + 1 }
      let t := b.lanes.foldl (fun t (wi, _, l, th) => if th.granted then t else t.grant b op wi l bar chk (ask th)) t
      let all := b.lanes.all fun (wi, _, l, _) => ((t.thread? (b.wid wi) l).map (·.granted)).getD true
      if all then .done ((t.retire b true sameThread).stay b) else .hold t
def execXcp (dst src : LNum) (b : BNum) (t : Xform) (chk : Bool) : State → Host.Outcome State Fault Refusal :=
  issueStd (.xcp dst src b t chk) (xferBody b.toNat chk fun _ => ⟨.xcp t, dst.toNat, [src.toNat], 0⟩)
def execXred (dst first : LNum) (nm2 : BitVec 4) (b : BNum) (chk : Bool) : State → Host.Outcome State Fault Refusal :=
  issueStd (.xred dst first nm2 b chk) (xferBody b.toNat chk fun _ =>
    ⟨.xred (nm2.toNat + 2), dst.toNat, (List.range (nm2.toNat + 2)).map (first.toNat + ·), 0⟩)
/-- The walk word (R83): a bad one is kept as a count of 0 participants. COORD ignores the dense handle (R296). -/
def walkAsk (sp : LNum) (g : GNum) (act : WalkAct) (t : Thread) : XferAsk :=
  let v := (t.gr g.toNat).val.toNat
  let i := bitsOf v 8 8
  let p := bitsOf v 16 8
  let bad := v ≥ 2 ^ 24 || i ≥ p
  ⟨.xwalk act i (if bad then 0 else p), bitsOf v 4 4, sp.toNat :: (if act == .coord then [] else [bitsOf v 0 4]), (t.gr g.toNat).mask⟩
def execXwalk (sp : LNum) (g : GNum) (b : BNum) (act : WalkAct) (chk : Bool) : State → Host.Outcome State Fault Refusal :=
  issueStd (.xwalk sp g b act chk) (xferBody b.toNat chk (walkAsk sp g act))
/-- XSTAT reads the last-phase record (R313). -/
def Placed.bar (u : Placed) (wg n : Nat) : Barrier := ((u.wgs[barWg wg n]?).bind fun g => g.bars[n]?).getD Barrier.zero
def xstatWord (r : ErrRec) (sel : Nat) : Word :=
  match sel with
  | 0 => r.kind.zeroExtend 32
  | 1 => r.extent.truncate 32
  | 2 => (r.extent >>> 32).truncate 32
  | _ => r.chunk
def execXstat (d : GNum) (b : BNum) (sel : BitVec 2) : State → Host.Outcome State Fault Refusal :=
  aluIssue (.xstat d b sel) (some 4) fun c => c.put d [] (xstatWord (c.unit.bar c.wgi b.toNat).lastErr sel.toNat)

/-! ### Channels at work (R286, R297 to R299, R309 to R311) -/

/-- The name under which a channel's requests are ordered. -/
def engineCore (pcl ch : Nat) : Nat := 4096 + 8 * pcl + ch
def State.channel? (s : State) (pcl ch : Nat) : Option Channel := s.channels.find? fun c => c.pcl == pcl && c.ch == ch
def State.setChannel (s : State) (c : Channel) : State :=
  { s with channels := s.channels.map fun x => if x.pcl == c.pcl && x.ch == c.ch then c else x }
/-- The operations that carry a channel's reads and writes. -/
def Channel.owns (c : Channel) (o : MemOp) : Bool :=
  o.w == c.w && (o.kind == .xread c.pcl c.ch || o.kind.writes c.pcl c.ch)
def Channel.writing (c : Channel) (o : MemOp) : Bool := o.w == c.w && o.kind.writes c.pcl c.ch
/-- The number of the chunk that an operation writes. -/
def MemOp.chunkNo (o : MemOp) : Nat := match o.kind with | .xfer _ _ k => k | _ => 0
/-- A channel is free again; its reads go with it, and the GWCT of what it has written joins its warp's (R297). -/
def State.closeChannel (s : State) (c : Channel) : State :=
  let t : State := { s with
    channels := s.channels.filter fun x => !(x.pcl == c.pcl && x.ch == c.ch)
    ops := s.ops.filter fun o => !(o.w == c.w && o.kind == .xread c.pcl c.ch) }
  t.joinGwct c.w c.gwct
/-- An operation is complete: its channel is free, and `xf` falls in each warp of its issue with the
last operation of the issue (R302). -/
def State.xferDone (s : State) (c : Channel) : State :=
  let s := s.closeChannel c
  let ids := c.warps.map fun wi => ({ c.w with warp := wi } : WarpId)
  let more := s.channels.any (·.op == c.op) || ids.any fun id =>
    ((s.warp? id).map fun w => w.threads.any fun t => t.fenceAt == some c.op && !t.granted).getD false
  if more then s else ids.foldl (fun s id => s.modWarp id fun w => w.addCounter .xf false) s
/-- Posts bytes at the operation's barrier object, with a time or an error (R174, R297, R312). -/
def State.postBytes (s : State) (c : Channel) (n time : Nat) (err : Option (Nat × Nat × Nat)) : State :=
  s.barEvent c.w.unit c.w.wg c.bar none fun x =>
    let x := { x with bytes := x.bytes - BitVec.ofNat 64 n, time := BitVec.ofNat 64 (max x.time.toNat time) }
    match err with
    | some (kind, extent, chunk) =>
      if x.curErr.kind == 0 then
        { x with curErr := ⟨BitVec.ofNat 32 chunk, BitVec.ofNat 64 extent, BitVec.ofNat 8 kind⟩ }
      else x
    | none => x
/-- The error event, once every committed chunk has landed: with the time of the chunks that were written and not posted (R292,
R311). -/
def State.errorEvent (s : State) (c : Channel) : State :=
  (s.postBytes c (c.total - c.posted) c.late c.err).xferDone c
/-- Copies a channel's handles and makes the checks of R309 and R310. -/
def Channel.copy (c : Channel) (s : State) (u : Placed) : Channel :=
  let hs (n : Nat) : Option Handle := s.handle c.w.unit c.w.wg n
  let c := { c with copied := true, dstH := hs c.dst, srcH := c.srcs.map hs }
  let all := c.dstH.toList ++ c.srcH.filterMap id
  let stash := all.any fun h => u.stash.any fun st => h.onSpad st.soff st.length
  let walk := match c.kind with | .xwalk _ _ 0 => true | _ => false
  let err := if stash then some (7, 0, 0) else if walk then some (6, 0, 0) else if !c.shape then some (4, 0, 0) else none
  { c with total := c.bytes, err := err, chunks := if err.isSome then 0 else c.chunkCount }
/-- The condition of R299, with the times of its handles (R305) and, for a walk, of the mask of its participant word (R309). -/
def State.xferMayStart (s : State) (c : Channel) : Bool :=
  let now := s.clockOf (.transfer c.pcl)
  !((s.unacked c.w true).any (· < c.op)) && ((s.warp? c.w).map (·.gwct)).getD 0 ≤ now && s.loadTimesBy c.w c.op now &&
  ((s.warp? c.w).map fun w => visReached w.tags c.mask now).getD true &&
  (c.dstH.toList ++ c.srcH.filterMap id).all fun h => h.vtime ≤ now
/-- The parts that read spans of a channel's sources. -/
def Channel.reads (c : Channel) (u : Placed) (xs : List Span) : List Part :=
  xs.flatMap fun (i, o, n) => match (c.srcH[i]?).join with
    | some h => if n = 0 then [] else readParts u h i o n
    | none => []
/-- Where parts go. -/
def placesOf (ps : List Part) : List (Space × Nat × Nat) := ps.map fun p => (p.space, p.addr, p.n)
/-- A channel's next step before its chunks: it copies its handles, and later begins its reads. An operation that a check stops has no
chunk, and its error event comes in the order of the events at its object (R175, R312; `execChunkLand`). A walk of no entries has no
last chunk at which a check could compare (R294; assumption 112). -/
def execChannelStart (pcl ch : Nat) (s : State) : Host.Outcome State Fault Refusal :=
  match s.channel? pcl ch with
  | none => .next s
  | some c =>
    match s.unit? c.w.unit with
    | none => .next (s.closeChannel c)
    | some u =>
      if c.started then .next s
      else if !c.copied then
        if (c.dst :: c.srcs).any fun l => s.xlrBefore c.w.unit c.w.wg l c.op then .next s
        else
          let c := c.copy s u
          if ((c.dstH.map fun h => !h.w).getD false) then .next ((s.closeChannel c).layoutFault s.nextId c.w c.pc [c.lane] 7)
          else if c.err.isSome then .next (s.setChannel { c with started := true })
          else .next (s.setChannel c)
      else if !s.xferMayStart c then .next s
      else if c.chunks = 0 && !c.csr then .next (s.xferDone c)
      else
        let ps := c.reads u c.firstReads
        if s.heldUp u (placesOf ps) then .next s
        else
          let vis := ((s.warp? c.w).bind fun w => visTime w.tags c.mask).getD 0
          let s := s.setChannel { c with started := true, vis := vis }
          .next (s.newOp fun id => MemOp.plain c.w (engineCore pcl ch) c.pc (.xread pcl ch) [c.lane] ps id)
/-- What a channel has read, and whose time has passed. -/
def Channel.source (c : Channel) (s : State) : Src := fun i o =>
  ((s.ops.filter fun x => x.w == c.w && x.kind == .xread c.pcl c.ch).flatMap (·.parts)).findSome? fun p =>
    if p.lane == i && p.off ≤ o && o < p.off + p.n && p.st == .done && p.time ≤ s.clockOf (.transfer c.pcl) then p.data[o - p.off]?
    else none
/-- Contiguous runs of a chunk's writes (R393). -/
def runsOf (ws : List (Nat × List Byte)) : List (Nat × List Byte) :=
  (ws.foldl (fun rs (o, bs) => match rs with
    | (a, xs) :: t => if o = a + xs.length then (a, xs ++ bs) :: t else (o, bs) :: rs
    | [] => [(o, bs)]) []).reverse
/-- The digest of a chunk's writes into memory. -/
def chunkDigest (u : Placed) (h : Handle) (ws : List (Nat × List Byte)) : Nat :=
  let l := layOf h.record
  if h.space == .spad then 0
  else sumOf ((runsOf ws).map fun (o, bs) =>
    digestUnit l.win (l.base + o - ((u.windows[l.win]?).map (·.base)).getD 0) bs)
/-- The bytes of parts, later over earlier, as parts that each hold a whole run of a 256-byte line: what a chunk writes of an aligned
8-byte unit is written in one step (R286). -/
def runParts (carried : Nat) (ps : List Part) : List Part :=
  ((ps.map (·.space)).eraseDups).flatMap fun sp =>
    let img := (ps.filter (·.space == sp)).foldl (fun (m : NatMap) p =>
      (p.data.zipIdx).foldl (fun m (b, i) => natSet m (p.addr + i) (b.toNat + 1)) m) []
    (dirtyRuns img).reverse.flatMap fun (a, n) => (lineParts a n).map fun (x, k) =>
      ⟨0, 0, sp, x, k, 0, (List.range k).map fun i => BitVec.ofNat 8 (natGet img (x + i) - 1), [], .sent, 0, carried⟩
/-- Commits the next chunk: its writes leave (R286), with the times of what they depend on (R418). They wait while a window that they
write to is being unbound (R453). -/
def State.commitChunk (s : State) (c : Channel) (u : Placed) (ws : List (Nat × List Byte)) (err : Option (Nat × Nat × Nat)) :
    State :=
  match c.dstH with
  | none => s
  | some h =>
    let carried := max c.vis (maxOf ((s.ops.filter fun x => x.w == c.w && x.kind == .xread c.pcl c.ch).flatMap fun x =>
      x.parts.map fun p => if p.time ≤ s.clockOf (.transfer c.pcl) then p.time else 0))
    let ps := runParts carried (ws.flatMap fun (o, bs) => writeParts u h o bs carried)
    if s.heldUp u (placesOf ps) then s
    else
      let s := s.newOp fun id =>
        MemOp.plain c.w (engineCore c.pcl c.ch) c.pc (.xfer c.pcl c.ch c.written) [c.lane] ps id
      let s := if u.cfg.det = 0 then s else
        s.modUnit u.id fun u => { u with engDigest := u.engDigest + BitVec.ofNat 64 (chunkDigest u h ws) }
      s.setChannel { c with written := c.written + 1, err := err }
/-- Further reads that the next chunk needs and that have not begun; they too wait for a window that is being unbound. -/
def State.moreReads (s : State) (c : Channel) (u : Placed) (xs : List Span) : State :=
  let parts := (s.ops.filter fun o => o.w == c.w && o.kind == .xread c.pcl c.ch).flatMap (·.parts)
  let asked (x : Span) : Bool := (List.range x.2.2).all fun i =>
    parts.any fun p => p.lane == x.1 && p.off ≤ x.2.1 + i && x.2.1 + i < p.off + p.n
  match xs.filter fun x => !asked x with
  | [] => s
  | ys =>
    let ps := c.reads u ys
    if s.heldUp u (placesOf ps) then s
    else { s with ops := s.ops.map fun o =>
      { o with parts := if o.w == c.w && o.kind == .xread c.pcl c.ch then o.parts ++ ps else o.parts } }
/-- A chunk's stores are acked and its bytes posted; those of a chunk that OVERFLOW holds back, and of the last chunk of a checked
operation whose CRC differs, are posted by the error event, which takes their time too (R292, R294, R297, R311). -/
def State.landChunk (s : State) (c : Channel) (o : MemOp) : State :=
  let k := o.chunkNo
  let g := maxOf (o.parts.map fun p => if p.space == .local then p.time else 0)
  let time := maxOf (o.parts.map fun p => if p.space == .local then p.time else s.clockOf (.transfer c.pcl))
  let c := { c with gwct := max c.gwct g }
  let n := c.chunkBytes k
  let kept := match c.chunk (c.source s) k with | .over _ _ posts => !posts | _ => false
  let s := s.dropOp o.id
  if kept then s.setChannel { c with late := max c.late time }
  else if c.chk && c.err.isNone && k + 1 = c.chunks && c.streamCrc (c.source s) != c.dstLay.crc then
    s.setChannel { c with err := some (1, c.total, c.chunks - 1), late := max c.late time }
  else (s.postBytes c n time none).setChannel { c with posted := c.posted + n }
/-- Whether a written chunk may land: of a checked operation, the last one lands after all the others. -/
def Channel.mayLand (c : Channel) (s : State) (o : MemOp) : Bool :=
  o.settled && (!c.chk || c.err.isSome || o.chunkNo + 1 < c.chunks || !s.ops.any fun x => c.writing x && x.id != o.id)
/-- A channel of a lower number has an event at the same object: a chunk that may land, or its error event (R175, R312). -/
def State.landAhead (s : State) (c : Channel) : Bool :=
  s.channels.any fun x => x.ch < c.ch && x.started && x.w.unit == c.w.unit && x.bar == c.bar &&
    barWg x.w.wg x.bar == barWg c.w.wg c.bar &&
    ((s.ops.any fun o => x.writing o && x.mayLand s o) || (x.err.isSome && !s.ops.any x.writing))
/-- What a channel does next: the check with which a CSR walk begins, or its next chunk. -/
def Channel.next (c : Channel) (g : Src) : ChunkRes :=
  if c.chunks = 0 then csrCheck (c.lay 0) g else c.chunk g c.written
/-- Chunks that an ended operation had committed on a channel end as they are acked, and their GWCT joins their warp's (R297, R436). -/
def State.dropOrphans (s : State) (pcl ch : Nat) (mine : MemOp → Bool) : State :=
  (s.ops.filter fun o => o.kind.writes pcl ch && o.settled && !mine o).foldl (fun s o =>
    (s.joinGwct o.w (maxOf (o.parts.map fun p => if p.space == .local then p.time else 0))).dropOp o.id) s
/-- A channel's step: a chunk lands, the next one is committed, or the operation ends. -/
def execChunkLand (pcl ch : Nat) (s : State) : Host.Outcome State Fault Refusal :=
  match s.channel? pcl ch with
  | none => .next (s.dropOrphans pcl ch fun _ => false)
  | some c =>
    let s := s.dropOrphans pcl ch c.writing
    match s.unit? c.w.unit with
    | none => .next (s.closeChannel c)
    | some u =>
      if !c.started then .next s
      else
        match s.ops.find? fun o => c.owns o && o.parts.any Part.failing with
        | some o => .next (((s.sendFault o [c.lane]).closeChannel c))
        | none =>
          match s.ops.find? fun o => c.writing o && c.mayLand s o with
          | some o => .next (if s.landAhead c then s else s.landChunk c o)
          | none =>
            let over_ := match c.err with | some (3, _, _) => true | _ => false
            let more := c.written < c.chunks || (c.chunks = 0 && c.csr)
            match if more && (c.err.isNone || over_) then some (c.next (c.source s)) else none with
            | some (.need xs) => .next (s.moreReads c u xs)
            | some (.over ws line _) => .next (s.commitChunk c u ws (some (3, c.dstLay.cap, line)))
            | some (.stop kind extent chunk) =>
              .next (s.setChannel { c with err := some (kind, extent, chunk), chunks := c.written })
            | some (.write ws) => .next (if c.chunks = 0 then s.xferDone c else s.commitChunk c u ws c.err)
            | none =>
            if s.ops.any c.writing then .next s
            else if c.err.isSome then .next (if s.landAhead c then s else s.errorEvent c)
            else .next (s.xferDone c)

end Sys2Proof.Machine
end

