-- ==== Sys2Proof/Machine/Matrix.lean ====
section
/-! DEFINITION. The Matrix engine's instructions (R206 to R224, R236, R237, R242 to R271, R501): every one is
warp-collective, and its body runs once its live threads have arrived. -/

namespace Sys2Proof.Machine

/-! ### What every body shares (R210, R212, R221, R271) -/

/-- The body of a tile instruction: warp, live lanes and the thread of the lowest live lane. -/
def tileBody (f : Nat → Warp → List Nat → Thread → Bundle → State → Res) (b : Bundle) (s : State) : Res :=
  match b.parts with
  | (wi, w, l :: ls) :: _ =>
    match w.threads[l]? with
    | some t => f wi w (l :: ls) t b s
    | none => .wait
  | _ => .wait
def Warp.conf (w : Warp) (c : LaunchCfg) (m : Nat) : Option TCfg := (w.tile m).conf c
/-- TILE_SHAPE or ILLEGAL for the whole warp. -/
def Bundle.shapeBad (b : Bundle) (i : Instr) : Res := .bad 0x0B (b.hits ((encode i).getD 0) 0)
/-- Whether a tile of an append is under evaluation (R221). -/
def State.tilesBusy (s : State) (b : Bundle) (wi : Nat) (w : Warp) (ms : List Nat) : Bool :=
  ms.any fun m => (s.core b.g.core).evaluating (b.wid wi) w m
/-- A tile instruction is dual with TAN, or under launch-wide dual mode when its destination is floating (R237). -/
def Bundle.dualTile (b : Bundle) (td : TCfg) : Bool := b.u.cfg.tt > 0 && (b.hints.tan || (b.u.cfg.dual && !td.elem.isInt))
/-- An instruction that appends a node. -/
structure Append where
  td : Nat
  ops : List Nat
  slot : SlotNum
  /-- the shape rule, from the destination's configuration -/
  ok : LaunchCfg → Warp → Thread → TCfg → Bool
  kind : Thread → NodeKind
  extra : Thread → Mask
  /-- whether the node rounds by SR -/
  sr : LaunchCfg → Bool
  canDual : Bool
/-- A node whose evaluation reads memory: it is appended once the acquires before it are done (R220, R422, R426; assumption 52). -/
def NodeKind.loads : NodeKind → Bool
  | .loop _ => true
  | _ => false
def appendBody (i : Instr) (a : Append) : Bundle → State → Res :=
  tileBody fun wi w ls t b s =>
    let c := b.u.cfg
    match w.conf c a.td with
    | none => b.shapeBad i
    | some td =>
      if !a.ok c w t td then b.shapeBad i
      else if s.tilesBusy b wi w (a.td :: a.ops) || ((a.kind t).loads && !b.acqDone s) then .wait
      else
        let dual := a.canDual && b.dualTile td
        match makeRoom s b wi w ls dual with
        | some t => .hold t
        | none => .done (s.modWarp (b.wid wi) fun x =>
            appendNode x (a.kind t) a.td a.ops a.slot dual b.pc (a.extra t) (if a.sr c then td.rows * td.cols else 0))
def noExtra (_ : Thread) : Mask := 0
def noSr (_ : LaunchCfg) : Bool := false
/-- The slot's rounding is SR. -/
def slotSr (f : SlotNum) (c : LaunchCfg) : Bool := ((c.slot f).map (·.sr)).getD false
/-- The logical shape of a configured operand through a port (R243). -/
def portShape (t : TCfg) (col : Bool) : Nat × Nat := if col then (t.cols, t.rows) else (t.rows, t.cols)
def Warp.shape (w : Warp) (c : LaunchCfg) (m : Nat) (col : Bool) : Option (Nat × Nat) := (w.conf c m).map fun t => portShape t col

/-! ### TCFG (R207, R208, R249) -/

/-- What TCFG finds in a configuration word: an unset slot, a bad shape, or the configuration. -/
inductive CfgWord | unset | bad | ok
  deriving DecidableEq, Repr
def cfgWord (c : LaunchCfg) (v : Nat) : CfgWord :=
  match c.tcfg v with
  | none => .unset
  | some t => if tcfgOk v t then .ok else .bad
def bodyTcfg (m : MNum) (g : GNum) : Bundle → State → Res :=
  tileBody fun wi w ls t b s =>
    let v := (t.gr g.toNat).val
    match cfgWord b.u.cfg v.toNat with
    | .unset => .bad 0x01 (b.hits ((encode (.tcfg m g)).getD 0) 0)
    | .bad => b.shapeBad (.tcfg m g)
    | .ok =>
      match forceReaders s b wi w ls m.toNat with
      | some t => .hold t
      | none => .done (s.modWarp (b.wid wi) fun x =>
          eagerWrite x m.toNat fun y => { Tile.fresh with cfg := some v, ver := y.ver })
def execTcfg (m : MNum) (g : GNum) : State → Host.Outcome State Fault Refusal := collIssue (.tcfg m g) false (bodyTcfg m g)

/-! ### Tile loads and stores (R250 to R254) -/

/-- A tile access to memory is dual with TAN or under launch-wide dual mode. With D = 0 a stride maps no tangent span (R180), and the
tangent at T + S is reached through the window's own linear map (assumption 86). -/
def Bundle.dualTileMem (b : Bundle) : Bool := b.u.cfg.tt > 0 && (b.hints.tan || b.u.cfg.dual)
/-- The first byte of a span that an address register refuses. -/
def AReg.firstBad (a : AReg) (va : Int) (n : Nat) (rd wr : Bool) : Option Int :=
  if !a.valid || va < a.base.toNat || (rd && !a.r) || (wr && !a.w) then some va
  else if va + n - 1 > a.limit.toNat then some (max va (a.limit.toNat + 1))
  else none
/-- The first byte of a scratchpad span that breaks the bounds or the stash rule (R168). -/
def Placed.firstSpadBad (u : Placed) (x n : Nat) : Option Nat :=
  (List.range n).findSome? fun i => if u.spadBad (x + i) 1 then some (x + i) else none
/-- The parts of a tile access in memory: spans of the tile and, k strides on, of its tangent. -/
def tileParts (u : Placed) (a : AReg) (lane tang : Nat) (sp : List (Int × Nat × Nat)) (carried : Nat) (data : Nat → Nat → List Byte) :
    List Part :=
  sp.flatMap fun (va, n, off) => accParts u a lane tang va n off carried (data off n)
def spadTileParts (lane tang : Nat) (sp : List (Int × Nat × Nat)) (data : Nat → Nat → List Byte) : List Part :=
  sp.map fun (x, n, off) => ⟨lane, tang, .spad, x.toNat, n, off, data off n, [], .sent, 0, 0⟩
/-- The bytes of a tile's image at a place: data, then scales from `scaleOff` on. -/
def imageBytes (d sc : Memory) (off n : Nat) : List Byte := if off < scaleOff then memRead d off n else memRead sc (off - scaleOff) n
/-- Spans moved by a number of bytes. -/
def shiftSpans (d : Nat) (sp : List (Int × Nat × Nat)) : List (Int × Nat × Nat) := sp.map fun (a, n, o) => (a + d, n, o)
/-- Begins a tile load: its operation, both counters, and the new version in flight. -/
def State.beginTileLoad (s : State) (b : Bundle) (wi m : Nat) (ls : List Nat) (ps : List Part) (tagged : Bool) (mask : Mask) :
    State :=
  let id := s.nextId
  let t := s.addOp (b.wid wi) (some .ld) tagged [] fun tag id =>
    { MemOp.plain (b.wid wi) b.g.core b.pc (.tld m) ls ps id with
      tag := tag, mask := (tag.map tagMask).getD 0 ||| mask
      waitSt := s.forwarders b.g.core ps
      due := if ps.all (·.st == .done) then s.clk + 32 else 0 }
  let mk := ((t.op? id).map (·.mask)).getD mask
  t.modWarp (b.wid wi) fun w => (eagerWrite w m fun y =>
    { y with data := [], scales := [], shData := [], shScales := [], mask := mk, inflight := some id }).addCounter .tl true
def bodyTld (m : MNum) (n : ANum) (off pitch : GNum) : Bundle → State → Res :=
  tileBody fun wi w ls t b s =>
    match w.conf b.u.cfg m.toNat with
    | none => b.shapeBad (.tld m n off pitch)
    | some tc =>
      let a := t.ar n.toNat
      let start : Int := (a.ptr.toNat + (t.gr off.toNat).val.toNat : Nat)
      let sp := tileSpans tc start (t.gr pitch.toNat).val
      match sp.findSome? fun (va, k, _) => a.firstBad va k true false with
      | some x => .bad 0x04 (b.addrHits (BitVec.ofInt 64 x).toNat)
      | none =>
        let mask := t.maskOf [.a n.toNat, .g off.toNat, .g pitch.toNat]
        let lane := (ls.head?).getD 0
        let ps := tileParts b.u a lane 0 sp 0 (fun _ _ => []) ++
          (if b.dualTileMem && b.u.stride a > 0 then tileParts b.u a lane 1 (shiftSpans (b.u.stride a) sp) 0 fun _ _ => [] else [])
        let held := ps.any fun p => (p.space == .local && s.fillPending b.g.core p.addr p.n) ||
          (p.space == .stash && s.unbinding b.u p.addr)
        if !b.mayGo s (some .ld) (fun _ => 0) || w.tl ≥ 62 || !visReached w.tags mask (s.now b.g.core) || held then .wait
        else
          match forceReaders s b wi w ls m.toNat with
          | some t => .hold t
          | none => .done (s.beginTileLoad b wi m.toNat ls (s.loadAccess b.g.core .norm ps) true mask)
def execTld (m : MNum) (n : ANum) (off pitch : GNum) : State → Host.Outcome State Fault Refusal :=
  collIssue (.tld m n off pitch) false (bodyTld m n off pitch)
/-- Begins a tile store. -/
def State.beginTileStore (s : State) (b : Bundle) (wi : Nat) (ls : List Nat) (ps : List Part) (digest : Nat) : State :=
  let t := s.addOp (b.wid wi) (some .st) false [] fun _ id => MemOp.plain (b.wid wi) b.g.core b.pc .tst ls ps id
  let t := if b.u.cfg.det = 0 then t else t.modWarp (b.wid wi) (·.addDigest digest)
  t.storeL1 b.g.core false s.nextId ps
def bodyTst (m : MNum) (n : ANum) (off pitch : GNum) : Bundle → State → Res :=
  tileBody fun wi w ls t b s =>
    match w.conf b.u.cfg m.toNat with
    | none => b.shapeBad (.tst m n off pitch)
    | some tc =>
      let a := t.ar n.toNat
      let start : Int := (a.ptr.toNat + (t.gr off.toNat).val.toNat : Nat)
      let sp := tileSpans tc start (t.gr pitch.toNat).val
      match sp.findSome? fun (va, k, _) => a.firstBad va k false true with
      | some x => .bad 0x04 (b.addrHits (BitVec.ofInt 64 x).toNat)
      | none =>
        match forceTile s b wi w ls m.toNat with
        | some t => .hold t
        | none =>
          let tile := w.tile m.toNat
          let mask := tile.mask ||| t.maskOf [.a n.toNat, .g off.toNat, .g pitch.toNat]
          let lane := (ls.head?).getD 0
          let dual := b.dualTileMem && b.u.stride a > 0
          let sp' := shiftSpans (b.u.stride a) sp
          match carriedTime w mask with
          | none => .wait
          | some carried =>
            let ps := tileParts b.u a lane 0 sp carried (imageBytes tile.data tile.scales) ++
              (if dual then tileParts b.u a lane 1 sp' carried (imageBytes tile.shData tile.shScales) else [])
            let places := ps.map fun p => (p.space, p.addr, p.n)
            if !b.mayGo s (some .st) (fun _ => 0) || s.heldUp b.u places then .wait
            else
              match forceLoops s b [(wi, places)] with
              | some t => .hold t
              | none =>
                -- one store unit for each row (R393)
                let unit (d : Memory) (x : Int × Nat × Nat) : Nat :=
                  if x.2.2 < scaleOff then b.u.storeUnit a x.1.toNat (memRead d x.2.2 x.2.1) else 0
                let digest := sumOf (sp.map (unit tile.data)) + (if dual then sumOf (sp'.map (unit tile.shData)) else 0)
                .done (s.beginTileStore b wi ls ps digest)
def execTst (m : MNum) (n : ANum) (off pitch : GNum) : State → Host.Outcome State Fault Refusal :=
  collIssue (.tst m n off pitch) false (bodyTst m n off pitch)
/-- Tile accesses to the scratchpad are dual under launch-wide dual mode alone (R254). -/
def Bundle.dualTileSpad (b : Bundle) : Bool := b.u.cfg.tt > 0 && b.u.cfg.dual
def bodyTlds (m : MNum) (addr pitch : GNum) : Bundle → State → Res :=
  tileBody fun wi w ls t b s =>
    match w.conf b.u.cfg m.toNat with
    | none => b.shapeBad (.tlds m addr pitch)
    | some tc =>
      let sp := tileSpans tc (t.gr addr.toNat).val.toNat (t.gr pitch.toNat).val
      match sp.findSome? fun (x, k, _) => b.u.firstSpadBad x.toNat k with
      | some x => .bad 0x04 (b.addrHits x)
      | none =>
        let lane := (ls.head?).getD 0
        let ps := spadTileParts lane 0 sp (fun _ _ => []) ++
          (if b.dualTileSpad then spadTileParts lane 1 (shiftSpans b.u.cfg.spadSize sp) fun _ _ => [] else [])
        if !b.mayGo s (some .ld) (fun _ => 0) || w.tl ≥ 62 then .wait
        else
          match forceReaders s b wi w ls m.toNat with
          | some t => .hold t
          | none => .done (s.beginTileLoad b wi m.toNat ls ps false (t.maskOf [.g addr.toNat, .g pitch.toNat]))
def execTlds (m : MNum) (addr pitch : GNum) : State → Host.Outcome State Fault Refusal :=
  collIssue (.tlds m addr pitch) false (bodyTlds m addr pitch)
def bodyTsts (m : MNum) (addr pitch : GNum) : Bundle → State → Res :=
  tileBody fun wi w ls t b s =>
    match w.conf b.u.cfg m.toNat with
    | none => b.shapeBad (.tsts m addr pitch)
    | some tc =>
      let sp := tileSpans tc (t.gr addr.toNat).val.toNat (t.gr pitch.toNat).val
      match sp.findSome? fun (x, k, _) => b.u.firstSpadBad x.toNat k with
      | some x => .bad 0x04 (b.addrHits x)
      | none =>
        match forceTile s b wi w ls m.toNat with
        | some t => .hold t
        | none =>
          let tile := w.tile m.toNat
          let lane := (ls.head?).getD 0
          let ps := spadTileParts lane 0 sp (imageBytes tile.data tile.scales) ++
            (if b.dualTileSpad then
              spadTileParts lane 1 (shiftSpans b.u.cfg.spadSize sp) (imageBytes tile.shData tile.shScales)
             else [])
          if !b.mayGo s (some .st) (fun _ => 0) then .wait
          else .done (s.beginTileStore b wi ls ps 0)
def execTsts (m : MNum) (addr pitch : GNum) : State → Host.Outcome State Fault Refusal :=
  collIssue (.tsts m addr pitch) false (bodyTsts m addr pitch)

/-! ### TMMA and TMLOOP (R255 to R258) -/

/-- An operand of a TMMA: an element tile of the slot's ELEM and SCALE with k along its rows when it is MX, or an
accumulator tile; integers only with integers. -/
def mmaOperand (s : SlotCfg) (td t : TCfg) (kAlongRow : Bool) : Bool :=
  (t.acc || (t.elem == s.elem && t.scale == s.scale)) && t.elem.isInt == td.elem.isInt && (t.scale != 1 || kAlongRow)
def mmaOk (a b : MNum) (f : SlotNum) (bc ac : Bool) (c : LaunchCfg) (w : Warp) (_ : Thread) (td : TCfg) : Bool :=
  match c.slot f, w.conf c a.toNat, w.conf c b.toNat with
  | some s, some ta, some tb =>
    let (m, k) := portShape ta ac
    let (k', n) := portShape tb bc
    td.acc && td.elem == (if s.accInt then .int 32 true else .float fp32) && mmaOperand s td ta !ac && mmaOperand s td tb bc &&
      k == k' && m == td.rows && n == td.cols
  | _, _, _ => false
def bodyTmma (td ta tb : MNum) (f : SlotNum) (ov : IOvr) (bc ac : Bool) : Bundle → State → Res :=
  appendBody (.tmma td ta tb f ov bc ac)
    ⟨td.toNat, [ta.toNat, tb.toNat, td.toNat], f, mmaOk ta tb f bc ac, fun _ => .mma ov bc ac, noExtra, noSr, true⟩
def execTmma (td ta tb : MNum) (f : SlotNum) (ov : IOvr) (bc ac : Bool) : State → Host.Outcome State Fault Refusal :=
  collIssue (.tmma td ta tb f ov bc ac) false (bodyTmma td ta tb f ov bc ac)
/-- The control quad and address registers of a TMLOOP. -/
def loopArgsOf (aA aB : ANum) (q : GNum) (t : Thread) : LoopArgs :=
  let g (k : Nat) : Nat := (t.gr (q.toNat + k)).val.toNat
  ⟨t.ar aA.toNat, t.ar aB.toNat, (t.gr q.toNat).val, (t.gr (q.toNat + 1)).val,
   (BitVec.ofNat 16 (bitsOf (g 2) 16 16)).toInt, (BitVec.ofNat 16 (bitsOf (g 2) 0 16)).toInt,
   bitsOf (g 3) 24 8 + 1, bitsOf (g 3) 21 3 + 1, t.maskOf [.a aA.toNat, .a aB.toNat]⟩
def loopOk (q : GNum) (_ : LaunchCfg) (_ : Warp) (t : Thread) (td : TCfg) : Bool :=
  td.acc && bitsOf (t.gr (q.toNat + 3)).val.toNat 0 21 == 0
def bodyTmloop (m : MNum) (aA aB : ANum) (q : GNum) : Bundle → State → Res :=
  appendBody (.tmloop m aA aB q)
    ⟨m.toNat, [m.toNat], 0, loopOk q, fun t => .loop (loopArgsOf aA aB q t), fun t => t.maskOf [.a aA.toNat, .a aB.toNat],
     noSr, true⟩
def execTmloop (m : MNum) (aA aB : ANum) (q : GNum) : State → Host.Outcome State Fault Refusal :=
  collIssue (.tmloop m aA aB q) false (bodyTmloop m aA aB q)

/-! ### Elementwise nodes (R259 to R265) -/

/-- The shape of B for a form of shape M × N. -/
def bShape (br : Bcast) (m n : Nat) : Nat × Nat :=
  match br with | .full => (m, n) | .row => (1, n) | .col => (m, 1)
def binOk (a b : MNum) (br : Bcast) (bc ac : Bool) (c : LaunchCfg) (w : Warp) (_ : Thread) (td : TCfg) : Bool :=
  w.shape c a.toNat ac == some (td.rows, td.cols) && w.shape c b.toNat bc == some (bShape br td.rows td.cols)
def unOk (a : MNum) (ac : Bool) (c : LaunchCfg) (w : Warp) (_ : Thread) (td : TCfg) : Bool :=
  w.shape c a.toNat ac == some (td.rows, td.cols)
def bodyTadd (td ta tb : MNum) (f : SlotNum) (sub : Bool) (br : Bcast) (bc ac : Bool) : Bundle → State → Res :=
  appendBody (.tadd td ta tb f sub br bc ac)
    ⟨td.toNat, [ta.toNat, tb.toNat], f, binOk ta tb br bc ac, fun _ => .add sub br bc ac, noExtra, slotSr f, true⟩
def execTadd (td ta tb : MNum) (f : SlotNum) (sub : Bool) (br : Bcast) (bc ac : Bool) :
    State → Host.Outcome State Fault Refusal := collIssue (.tadd td ta tb f sub br bc ac) false (bodyTadd td ta tb f sub br bc ac)
def bodyTemul (td ta tb : MNum) (f : SlotNum) (br : Bcast) (bc ac : Bool) : Bundle → State → Res :=
  appendBody (.temul td ta tb f br bc ac)
    ⟨td.toNat, [ta.toNat, tb.toNat], f, binOk ta tb br bc ac, fun _ => .emul br bc ac, noExtra, slotSr f, true⟩
def execTemul (td ta tb : MNum) (f : SlotNum) (br : Bcast) (bc ac : Bool) : State → Host.Outcome State Fault Refusal :=
  collIssue (.temul td ta tb f br bc ac) false (bodyTemul td ta tb f br bc ac)
def bodyTscl (td ta tb : MNum) (f : SlotNum) (pcol bc ac : Bool) : Bundle → State → Res :=
  appendBody (.tscl td ta tb f pcol bc ac)
    ⟨td.toNat, [ta.toNat, tb.toNat], f, binOk ta tb (if pcol then .row else .col) bc ac, fun _ => .scale pcol bc ac, noExtra,
     slotSr f, true⟩
def execTscl (td ta tb : MNum) (f : SlotNum) (pcol bc ac : Bool) : State → Host.Outcome State Fault Refusal :=
  collIssue (.tscl td ta tb f pcol bc ac) false (bodyTscl td ta tb f pcol bc ac)
def bodyTsclPow (td ta : MNum) (f : SlotNum) (n : BitVec 6) (ac : Bool) : Bundle → State → Res :=
  appendBody (.tsclPow td ta f n ac) ⟨td.toNat, [ta.toNat], f, unOk ta ac, fun _ => .scalePow n ac, noExtra, slotSr f, true⟩
def execTsclPow (td ta : MNum) (f : SlotNum) (n : BitVec 6) (ac : Bool) : State → Host.Outcome State Fault Refusal :=
  collIssue (.tsclPow td ta f n ac) false (bodyTsclPow td ta f n ac)
def ttrOk (a : MNum) (c : LaunchCfg) (w : Warp) (_ : Thread) (td : TCfg) : Bool :=
  match w.conf c a.toNat with
  | some ta => td.acc == ta.acc && td.elem == ta.elem && td.scale == ta.scale && ta.scale != 1 && td.rows == ta.cols && td.cols == ta.rows
  | none => false
def bodyTtr (td ta : MNum) : Bundle → State → Res :=
  appendBody (.ttr td ta) ⟨td.toNat, [ta.toNat], 0, ttrOk ta, fun _ => .transpose, noExtra, noSr, true⟩
def execTtr (td ta : MNum) : State → Host.Outcome State Fault Refusal := collIssue (.ttr td ta) false (bodyTtr td ta)
def bodyTcvt (td ta : MNum) (f : SlotNum) (r : Rnd) (ac : Bool) : Bundle → State → Res :=
  appendBody (.tcvt td ta f r ac) ⟨td.toNat, [ta.toNat], f, unOk ta ac, fun _ => .convert r ac, noExtra, fun _ => r == .sr, true⟩
def execTcvt (td ta : MNum) (f : SlotNum) (r : Rnd) (ac : Bool) : State → Host.Outcome State Fault Refusal :=
  collIssue (.tcvt td ta f r ac) false (bodyTcvt td ta f r ac)
def bodyTact (td ta : MNum) (f : SlotNum) (fn : ActFn) (ac : Bool) : Bundle → State → Res :=
  appendBody (.tact td ta f fn ac) ⟨td.toNat, [ta.toNat], f, unOk ta ac, fun _ => .act fn ac, noExtra, slotSr f, true⟩
def execTact (td ta : MNum) (f : SlotNum) (fn : ActFn) (ac : Bool) : State → Host.Outcome State Fault Refusal :=
  collIssue (.tact td ta f fn ac) false (bodyTact td ta f fn ac)
def rsumOk (a : MNum) (ac : Bool) (c : LaunchCfg) (w : Warp) (_ : Thread) (td : TCfg) : Bool :=
  (w.shape c a.toNat ac).map (·.1) == some td.rows && td.cols == 1
def bodyTrsum (td ta : MNum) (f : SlotNum) (addto ac : Bool) : Bundle → State → Res :=
  appendBody (.trsum td ta f addto ac)
    ⟨td.toNat, ta.toNat :: (if addto then [td.toNat] else []), f, rsumOk ta ac, fun _ => .rsum addto ac, noExtra, slotSr f, true⟩
def execTrsum (td ta : MNum) (f : SlotNum) (addto ac : Bool) : State → Host.Outcome State Fault Refusal :=
  collIssue (.trsum td ta f addto ac) false (bodyTrsum td ta f addto ac)
def bodyTzero (td : MNum) : Bundle → State → Res :=
  appendBody (.tzero td) ⟨td.toNat, [], 0, fun _ _ _ _ => true, fun _ => .zero, noExtra, noSr, false⟩
def execTzero (td : MNum) : State → Host.Outcome State Fault Refusal := collIssue (.tzero td) false (bodyTzero td)

/-! ### TEVAL, TDROP (R217, R221, R265) -/

/-- TEVAL asks for the closure of the tile's pending version and counts it in `tl`; an evaluated version changes nothing. -/
def bodyTeval (td : MNum) : Bundle → State → Res :=
  tileBody fun wi w ls _ b s =>
    if (w.conf b.u.cfg td.toNat).isNone then b.shapeBad (.teval td)
    else
      let v := (td.toNat, (w.tile td.toNat).ver)
      if !w.graph.any fun n => n.dst == v then .done s
      else if w.tl ≥ 62 then .wait
      else .done ((s.askEval b.g.core (reqOf s b wi w ls false true (some v))).modWarp (b.wid wi) fun x => x.addCounter .tl true)
def execTeval (td : MNum) : State → Host.Outcome State Fault Refusal := collIssue (.teval td) false (bodyTeval td)
/-- TDROP leaves zero data and zero scales (of the scales the manual does not speak; assumption 87). -/
def bodyTdrop (td : MNum) : Bundle → State → Res :=
  tileBody fun wi w ls _ b s =>
    if (w.conf b.u.cfg td.toNat).isNone then b.shapeBad (.tdrop td)
    else
      match forceReaders s b wi w ls td.toNat with
      | some t => .hold t
      | none => .done (s.modWarp (b.wid wi) fun x =>
          eagerWrite x td.toNat fun y => { Tile.fresh with cfg := y.cfg, ver := y.ver })
def execTdrop (td : MNum) : State → Host.Outcome State Fault Refusal := collIssue (.tdrop td) false (bodyTdrop td)

/-! ### TRD, TWR, TSTAT (R267 to R270) -/

/-- The index word: RAW, SCL, row, column. -/
structure TIdx where
  raw : Bool
  scl : Bool
  row : Nat
  col : Nat
  deriving DecidableEq, Repr
def tidx (v : Nat) : TIdx := ⟨bitOf v 31, bitOf v 30, bitsOf v 8 6, bitsOf v 0 8⟩
/-- Whether an index word names an element, or a scale, of a tile. -/
def tidxOk (t : TCfg) (v : Nat) : Bool :=
  let x := tidx v
  bitsOf v 14 16 == 0 &&
  if x.scl then
    if t.scale = 1 then x.row < t.rows && x.col < t.blocks else t.scale == 2 && x.row == 0 && x.col == 0
  else x.row < t.rows && x.col < t.cols
/-- The lanes whose index word fails. -/
def Bundle.idxBad (b : Bundle) (wi : Nat) (w : Warp) (ls : List Nat) (t : TCfg) (g : GNum) (word : Nat) : List Hit :=
  match ls.filter fun l => !tidxOk t (((w.threads[l]?).map fun th => (th.gr g.toNat).val.toNat).getD 0) with
  | [] => []
  | bs => let _ := b; [⟨wi, bs, word, 0, []⟩]
/-- What TRD reads. -/
def tileRead (t : TCfg) (y : Tile) (v : Nat) : Word :=
  let x := tidx v
  if x.scl then BitVec.ofNat 32 (if t.scale = 1 then scaleAt y.scales x.row x.col else tileScale y.scales)
  else if x.raw then BitVec.ofNat 32 (codeAt t y.data x.row x.col)
  else match t.elem with
    | .int w sg => BitVec.ofInt 32 (intOfCode w sg (codeAt t y.data x.row x.col))
    | _ => BitVec.ofNat 32 (toFmt fp32 .rne false (elemAt t y.data y.scales x.row x.col))
def bodyTrd (d : GNum) (m : MNum) (idx : GNum) : Bundle → State → Res :=
  tileBody fun wi w ls _ b s =>
    match w.conf b.u.cfg m.toNat with
    | none => b.shapeBad (.trd d m idx)
    | some tc =>
      match b.idxBad wi w ls tc idx ((encode (.trd d m idx)).getD 0) with
      | h :: hs => .bad 0x0B (h :: hs)
      | [] =>
        match forceTile s b wi w ls m.toNat with
        | some t => .hold t
        | none =>
          let y := w.tile m.toNat
          .done (s.pendColl b (ls.filterMap fun l => (w.threads[l]?).map fun th =>
            (l, [.g d.toNat (tileRead tc y (th.gr idx.toNat).val.toNat) (zeroSh b.u.cfg) (y.mask ||| (th.gr idx.toNat).mask)])))
def execTrd (d : GNum) (m : MNum) (idx : GNum) : State → Host.Outcome State Fault Refusal :=
  collIssue (.trd d m idx) false (bodyTrd d m idx)
/-- Writes the code of element j of row i. -/
def setCode (t : TCfg) (d : Memory) (i j code : Nat) : Memory :=
  let bit := t.width * j
  let a := i * t.rowb + bit / 8
  let n := (t.width + bit % 8 + 7) / 8
  let old := bytesNat (memRead d a n)
  let keep := old - old / 2 ^ (bit % 8) % 2 ^ t.width * 2 ^ (bit % 8)
  memWrite d a (natBytes n (keep + code % 2 ^ t.width * 2 ^ (bit % 8)))
/-- The scale factor of an element (R244). -/
def scaleFactor (t : TCfg) (y : Tile) (i j : Nat) : FVal :=
  if t.scale = 1 then mxVal (.int 8 false) (scaleAt y.scales i (j / 32)) 1
  else if t.scale = 2 then decodeF fp32 (tileScale y.scales) else .one
/-- What TWR writes for one lane. -/
def tileWrite (t : TCfg) (sat isat : Bool) (y : Tile) (v : Nat) (g : Word) : Tile :=
  let x := tidx v
  if x.scl then
    { y with scales := if t.scale = 1 then memSet y.scales (8 * x.row + x.col) (g.truncate 8)
                       else memWrite y.scales 0 (natBytes 4 g.toNat) }
  else
    let code := if x.raw then g.toNat
      else match t.elem with
        | .int w sg => intCode w (intRange w sg isat g.toInt)
        | e => (toElem e .rne sat isat ((decodeF fp32 g.toNat).div (scaleFactor t y x.row x.col))).1
    { y with data := setCode t y.data x.row x.col code }
/-- The lanes of a TWR act in ascending order: a value lane divides by the scale that a lower lane has written (R269; assumption 107). -/
def bodyTwr (m : MNum) (src idx : GNum) : Bundle → State → Res :=
  tileBody fun wi w ls _ b s =>
    match w.conf b.u.cfg m.toNat with
    | none => b.shapeBad (.twr m src idx)
    | some tc =>
      match b.idxBad wi w ls tc idx ((encode (.twr m src idx)).getD 0) with
      | h :: hs => .bad 0x0B (h :: hs)
      | [] =>
        match forceTile s b wi w ls m.toNat with
        | some t => .hold t
        | none =>
          match forceReaders s b wi w ls m.toNat with
          | some t => .hold t
          | none =>
            let sl := b.u.cfg.slot tc.slot
            let sat := (sl.map (·.sat)).getD false
            let isat := (sl.map (·.isat)).getD false
            let ths := ls.filterMap fun l => w.threads[l]?
            let mask := ths.foldl (fun k th => k ||| th.maskOf [.g src.toNat, .g idx.toNat]) (w.tile m.toNat).mask
            .done (s.modWarp (b.wid wi) fun x => eagerWrite x m.toNat fun y =>
              let z := ths.foldl (fun z th => tileWrite tc sat isat z (th.gr idx.toNat).val.toNat (th.gr src.toNat).val) y
              { z with mask := mask, shData := [], shScales := [] })
def execTwr (m : MNum) (src idx : GNum) : State → Host.Outcome State Fault Refusal :=
  collIssue (.twr m src idx) false (bodyTwr m src idx)
/-- The word TSTAT reads. Of an unconfigured tile, sel 5 reads the version as sel 4 reads 0, without TILE_SHAPE (R210, R270;
assumption 106). -/
def tstatWord (w : Warp) (m sel : Nat) : Word :=
  let v := w.mxstat.toNat
  match sel with
  | 0 => BitVec.ofNat 32 (bitsOf v 0 32)
  | 1 => BitVec.ofNat 32 (bitsOf v 32 32)
  | 4 => match (w.tile m).cfg with | some c => c ||| 0x80000000 | none => 0
  | 5 => (w.tile m).ver.zeroExtend 32
  | _ => BitVec.ofNat 32 (bitsOf v 76 8 * 2 ^ 24 + bitsOf v 72 4 * 2 ^ 8 + bitsOf v 64 8)
def bodyTstat (d : GNum) (m : MNum) (sel : BitVec 3) : Bundle → State → Res :=
  tileBody fun wi w ls _ b s =>
    let forced := if sel.toNat < 4 then
        (match forceAll s b wi w ls with
         | some t => some t
         | none => if ((s.core b.g.core).evalCur.map fun (r, _) => r.w == b.wid wi).getD false then some s else none)
      else forceTile s b wi w ls m.toNat
    match forced with
    | some t => .hold t
    | none =>
      let v := tstatWord w m.toNat sel.toNat
      let t := s.pendColl b (ls.map fun l => (l, [.g d.toNat v (zeroSh b.u.cfg) 0]))
      .done (if sel.toNat = 3 then t.modWarp (b.wid wi) fun x => { x with mxstat := 0 } else t)
def execTstat (d : GNum) (m : MNum) (sel : BitVec 3) : State → Host.Outcome State Fault Refusal :=
  collIssue (.tstat d m sel) false (bodyTstat d m sel)

/-! ### COLLECTIVE_EXECUTE (R100) -/

/-- The body of a collective instruction. -/
def collBody (i : Instr) : Option (Bundle → State → Res) :=
  match i with
  | .shflIdx d a b _ => some (bodyShflIdx d a b)
  | .shflUp d a b _ => some (bodyShflUp d a b)
  | .shflDown d a b _ => some (bodyShflDown d a b)
  | .shflXor d a b _ => some (bodyShflXor d a b)
  | .voteAny p q _ => some (bodyVoteAny p q)
  | .voteAll p q _ => some (bodyVoteAll p q)
  | .voteBallot d p _ => some (bodyVoteBallot d p)
  | .lreduce d a op => some (bodyLreduce d a op)
  | .region k => some (bodyRegion k)
  | .tcfg m g => some (bodyTcfg m g)
  | .tld m n o p => some (bodyTld m n o p)
  | .tst m n o p => some (bodyTst m n o p)
  | .tlds m a p => some (bodyTlds m a p)
  | .tsts m a p => some (bodyTsts m a p)
  | .tmma td ta tb f ov bc ac => some (bodyTmma td ta tb f ov bc ac)
  | .tmloop m aA aB q => some (bodyTmloop m aA aB q)
  | .tadd td ta tb f sub br bc ac => some (bodyTadd td ta tb f sub br bc ac)
  | .temul td ta tb f br bc ac => some (bodyTemul td ta tb f br bc ac)
  | .tscl td ta tb f pc bc ac => some (bodyTscl td ta tb f pc bc ac)
  | .tsclPow td ta f n ac => some (bodyTsclPow td ta f n ac)
  | .ttr td ta => some (bodyTtr td ta)
  | .tcvt td ta f r ac => some (bodyTcvt td ta f r ac)
  | .tact td ta f fn ac => some (bodyTact td ta f fn ac)
  | .trsum td ta f x ac => some (bodyTrsum td ta f x ac)
  | .tzero td => some (bodyTzero td)
  | .teval td => some (bodyTeval td)
  | .tdrop td => some (bodyTdrop td)
  | .trd d m i => some (bodyTrd d m i)
  | .twr m g i => some (bodyTwr m g i)
  | .tstat d m sel => some (bodyTstat d m sel)
  | _ => none
/-- A waiting collective of a warp is tried again: what it waited for may have come, or a thread may have exited. -/
def execCollectiveExecute (w : WarpId) (s : State) : Host.Outcome State Fault Refusal :=
  match ((s.warp? w).bind (·.arrival)).bind fun a => collBody a.instr with
  | some f => .next (s.collective w false f)
  | none => .next s

end Sys2Proof.Machine
end

