-- ==== Sys2Proof/Machine/MatrixEv.lean ====
section
/-! DEFINITION. Evaluations from start to end, and tile loads that land (R106, R219 to R221, R225, R226, R232 to R236, R240,
R251, R257, R258). -/

namespace Sys2Proof.Machine

/-! ### EVAL_START (R220, R225, R226, R235, R236) -/

/-- Takes the request at the head of a core's queue. -/
def Core.popEval (c : Core) (cur : Option (EvalReq × List Node)) : Core := { c with evalQ := c.evalQ.drop 1, evalCur := cur }
/-- A fault of an evaluation: precise at the forcing instruction, and after TEVAL at the next instruction boundary (R234,
R235). An address is the value of each of its lanes (R357, R498). -/
def State.evalFault (s : State) (r : EvalReq) (code det0 det1 : Nat) : State :=
  let vals := if code = 0x0C then [] else r.lanes.map fun l => (l, det0)
  s.takeFault r.w.unit r.w.wg code (!r.teval) r.force [⟨r.w.warp, r.lanes, det0, det1, vals⟩]
/-- An evaluation has ended: TEVAL's count falls, and a warp whose threads have all exited drops its graph (R106, R221,
R240). -/
def endEval (r : EvalReq) (w : Warp) : Warp := dropGraph (if r.teval then w.addCounter .tl false else w)
/-- The accesses of a LOOP node. -/
def Node.accs (n : Node) (u : Placed) (w : Warp) : List LoopAcc :=
  match n.kind with
  | .loop l =>
    match (w.tile n.dst.1).conf u.cfg with
    | some t => loopAccs u t l n.dual
    | none => []
  | _ => []
/-- The parts that read a LOOP's operands: `lane` holds 2 × step + operand. -/
def loopParts (u : Placed) (xs : List LoopAcc) : List Part :=
  xs.flatMap fun x => accParts u x.a (2 * x.step + x.operand) x.tang x.va x.n x.off 0 []
/-- A tag taken by a LOOP joins the mask of its version and of every version that comes from it (R236). -/
def spreadTag (tag : Mask) : List Node → List (Nat × BitVec 16) → List Node × List (Nat × BitVec 16)
  | [], vs => ([], vs)
  | n :: ns, vs =>
    if vs.contains n.dst || n.ops.any vs.contains then
      let (ms, out) := spreadTag tag ns (n.dst :: vs)
      ({ n with mask := n.mask ||| tag } :: ms, out)
    else
      let (ms, out) := spreadTag tag ns vs
      (n :: ms, out)
def Warp.spread (w : Warp) (tag : Mask) (v : Nat × BitVec 16) : Warp :=
  let (g, vs) := spreadTag tag w.graph [v]
  { w with graph := g, tiles := (w.tiles.zipIdx).map fun (t, i) => if vs.contains (i, t.ver) then { t with mask := t.mask ||| tag } else t }
/-- Sends the reads of one LOOP node. -/
def State.sendLoop (s : State) (r : EvalReq) (core : Nat) (u : Placed) (w : Warp) (n : Node) : State :=
  let ps := s.loadAccess core .norm (loopParts u (n.accs u w))
  let id := s.nextId
  let t := s.addOp r.w none true [] fun tag id =>
    { MemOp.plain r.w core n.origin (.loop n.dst) r.lanes ps id with
      tag := tag, mask := (tag.map tagMask).getD 0, waitSt := s.forwarders core ps }
  t.modWarp r.w fun x => x.spread (((t.op? id).map (·.mask)).getD 0) n.dst
/-- Whether the reads of a LOOP wait: for its address taint, for a fill in flight, for a window being unbound. -/
def State.loopWaits (s : State) (core : Nat) (u : Placed) (w : Warp) (n : Node) : Bool :=
  match n.kind with
  | .loop l =>
    !visReached w.tags l.mask (s.now core) || (loopParts u (n.accs u w)).any fun p =>
      (p.space == .local && s.fillPending core p.addr p.n) || (p.space == .stash && s.unbinding u p.addr)
  | _ => false
/-- The engine of a core starts the first closure of its queue: the reads of its LOOP nodes leave. Their primal addresses are checked,
their tangents' are not (R166), and the fault names the first read that fails (R498). -/
def execEvalStart (core : Nat) (s : State) : Host.Outcome State Fault Refusal :=
  let c := s.core core
  match c.evalCur, c.evalQ with
  | none, r :: _ =>
    match s.unit? r.w.unit, s.warp? r.w with
    | some u, some w =>
      match r.members w with
      | [] => .next ((s.modCore core (·.popEval none)).modWarp r.w (endEval r))
      | cl =>
        if cl.any (s.loopWaits core u w) then .next s
        else
          match cl.findSome? fun n => (n.accs u w).findSome? fun x =>
              if x.tang = 0 && !x.a.allows x.va x.n true false then some (n.origin.toNat, (BitVec.ofInt 64 x.va).toNat) else none with
          | some (origin, a) => .next ((s.modCore core (·.popEval none)).evalFault r 0x04 a origin)
          | none =>
            let s := s.modCore core (·.popEval (some (r, cl)))
            .next ((cl.filter fun n => match n.kind with | .loop _ => true | _ => false).foldl
              (fun s n => s.sendLoop r core u w n) s)
    | _, _ => .next (s.modCore core (·.popEval none))
  | _, _ => .next s

/-! ### EVAL_COMPLETE (R202 to R205, R219, R221, R232 to R236) -/

/-- The reads of the LOOP nodes of an evaluation. -/
def State.loopOps (s : State) (r : EvalReq) : List MemOp :=
  s.ops.filter fun o => o.w == r.w && !o.returned && (match o.kind with | .loop _ => true | _ => false)
/-- The bytes that LOOP nodes have read. -/
def loopImages (os : List MemOp) (v : Nat × BitVec 16) (step operand tang : Nat) : Memory × Memory :=
  let ps := (os.filter fun o => o.kind == .loop v).flatMap fun o => o.laneParts (2 * step + operand) tang
  ps.foldl (fun (d, sc) p =>
    if p.off < scaleOff then (memWrite d p.off p.data, sc) else (d, memWrite sc (p.off - scaleOff) p.data)) ([], [])
/-- A LOOP's faulting part: code and address. -/
def MemOp.failure (o : MemOp) : Option (Nat × Nat) :=
  o.parts.findSome? fun p => match p.st with | .failed c a _ => some (c, a) | _ => none
/-- Whether a tile of a member is still being loaded. -/
def Node.loading (n : Node) (w : Warp) : Bool := (n.dst :: n.ops).any fun v => (w.tile v.1).inflight.isSome
/-- The tiles written, the nodes gone, MXSTAT updated. -/
def closeEval (r : EvalReq) (cl : List Node) (w' : Warp) (reps : List Report) (w : Warp) : Warp :=
  endEval r (Warp.dropDead { w with
    tiles := (w.tiles.zipIdx).map fun (t, i) =>
      if cl.any fun n => n.dst.1 == i then { t with
        data := (w'.tile i).data, scales := (w'.tile i).scales
        shData := (w'.tile i).shData, shScales := (w'.tile i).shScales } else t
    graph := w.graph.filter fun n => !cl.any fun m => m.dst == n.dst
    mxstat := reps.foldl mxReport w.mxstat })
/-- The evaluation under way ends: its results, its events, its fault. -/
def execEvalComplete (core : Nat) (s : State) : Host.Outcome State Fault Refusal :=
  match (s.core core).evalCur with
  | none => .next s
  | some (r, cl) =>
    match s.unit? r.w.unit, s.warp? r.w with
    | some u, some w =>
      let os := s.loopOps r
      if !os.all (·.ready s.clk) || cl.any fun n => n.loading w then .next s
      else
        let s := s.modCore core fun c => { c with evalCur := none }
        let s := os.foldl (fun s o => s.arrived o) s
        match os.findSome? fun o => o.failure.map fun f => (o.pc.toNat, f) with
        | some (origin, code, a) => .next (s.evalFault r code a origin)
        | none =>
          let v : EvalEnv := ⟨u, r.w.wg, r.w.warp, loopImages os⟩
          let (w', reps) := evalClosure v w cl r.graph u.cfg.reassoc
          let s := s.modWarp r.w (closeEval r cl w' reps)
          match reps with
          | e :: _ => .next (if u.cfg.mxtrap then s.evalFault r 0x0C e.origin.toNat (mxDet1 e) else s)
          | [] => .next s
    | _, _ => .next (s.modCore core fun c => { c with evalCur := none })

/-! ### TILE_LOAD_LANDED (R106, R251, R253) -/

/-- Lays the bytes of a tile load into its tile. -/
def landTile (o : MemOp) (m : Nat) (w : Warp) : Warp :=
  let bytes (tang : Nat) (sc : Bool) : Memory :=
    (o.parts.filter fun p => p.tang == tang && (decide (p.off ≥ scaleOff) == sc)).foldl
      (fun (d : Memory) p => memWrite d (if sc then p.off - scaleOff else p.off) p.data) []
  w.setTile m fun t =>
    if t.inflight == some o.id then
      { t with data := bytes 0 false, scales := bytes 0 true, shData := bytes 1 false, shScales := bytes 1 true, inflight := none }
    else t
/-- Every byte of a TLD or TLDS has come: the tile is written and both counters fall. -/
def execTileLoadLanded (op : Nat) (s : State) : Host.Outcome State Fault Refusal :=
  match s.op? op with
  | none => .next s
  | some o =>
    match o.kind with
    | .tld m =>
      if !o.ready s.clk then .next s
      else
        let s := s.sendFault o o.badLanes
        let s := s.modWarp o.w fun w => dropGraph ((if o.parts.any Part.failing then w else landTile o m w).addCounter .ld false
          |>.addCounter .tl false)
        .next (s.arrived o)
    | _ => .next s

end Sys2Proof.Machine
end

