-- ==== Sys2Proof/Machine/TaskIns.lean ====
section
/-! DEFINITION. The task instructions at their issue, and the operations they send at the Task engine (R368 to R379, R398,
R399). -/

namespace Sys2Proof.Machine

/-! ### Jobs and chains of a unit -/

def State.workOf (s : State) (u : Placed) : Option Work := s.work? u.work
/-- The job of a task of a GAIN job. -/
def State.gainJob (s : State) (u : Placed) : Option (Work × JobCfg) :=
  (s.workOf u).bind fun w => match w.job with
    | some j => if j.gainMode then some (w, j) else none
    | none => none
def State.inJob (s : State) (u : Placed) : Bool := ((s.workOf u).map (·.job.isSome)).getD false

/-! ### When a task operation takes effect (R370, R398) -/

/-- A task release waits for its warp's earlier stores and loads and for the latest GWCT (R370, R499). An operation whose warp is
gone keeps the warp's latest GWCT in `tclear`, and `returned` says so. -/
def State.taskReady (s : State) (o : MemOp) : Bool :=
  if o.returned then o.tclear ≤ s.clockOf .task
  else match s.unit? o.w.unit with
    | some u => u.cfg.det != 2 && s.clear o.w true o.id
    | none => false
/-- Sends one operation for each warp of an issue, which retires and ends its region (R156, R369). -/
def sendTask (kind : Nat → Warp → List Nat → OpKind) (b : Bundle) (s : State) : Res :=
  let t := b.parts.foldl (fun t (wi, w, ls) =>
    t.newOp fun id => { MemOp.plain (b.wid wi) b.g.core b.pc (kind wi w ls) ls [] id with group := s.nextId }) s
  .done ((t.retire b true sameThread).stay b)
/-- One item for each lane of a warp. -/
def laneItems {α : Type} (w : Warp) (ls : List Nat) (f : Nat → Thread → α) : List α :=
  ls.filterMap fun l => (w.threads[l]?).map (f l)
def lastOr {α : Type} (x : α) (xs : List α) : α := (xs.getLast?).getD x

/-! ### JSUB (R372, R398, R399) -/

def jsubEa (n : ANum) (off : BitVec 10) (c : LaneCtx) : Int := (c.th.ar n.toNat).ptr.toNat + 64 * immValue c.hints off
/-- The identifier of a unit's JSUB number k in deterministic mode (R399). -/
def jsubId (u : Placed) (k : Nat) : Nat := u.launchid.toNat % 2 ^ 32 * 2 ^ 32 + u.idx % 2 ^ 16 * 2 ^ 16 + k % 2 ^ 16
/-- Numbers the threads of an issue in ascending lane order, from a count on (R368). -/
def numberLanes (ps : List (Nat × Warp × List Nat)) (k : Nat) : List (Nat × Nat × Nat) :=
  ((sortKey (·.2) (ps.flatMap fun (wi, _, ls) => ls.map fun l => (wi, l))).zipIdx).map fun ((wi, l), i) => (wi, l, k + i)
def execJsub (g : GNum) (n : ANum) (off : BitVec 10) : State → Host.Outcome State Fault Refusal :=
  issueStd (.jsub g n off) fun b s =>
    let chk (c : LaneCtx) : LaneOut :=
      if (c.th.ar n.toNat).allows (jsubEa n off c) 128 true true && jsubEa n off c % 64 == 0 then .ok []
      else .bad 0x04 (BitVec.ofInt 64 (jsubEa n off c)).toNat 0
    match b.outHits s chk with
    | some (code, hits) => .bad code hits
    | none =>
      let ids := numberLanes b.parts b.u.jsubs
      let idOf (wi l : Nat) : Nat := match ids.find? fun (w, x, _) => w == wi && x == l with
        | some (_, _, k) => jsubId b.u k
        | none => 0
      let t := b.parts.foldl (fun (t : State) (part : Nat × Warp × List Nat) =>
        let (wi, w, ls) := part
        let card := laneItems w ls fun l th =>
          (l, (jsubEa n off (b.laneCtx s wi w l th)).toNat, if b.u.cfg.det = 0 then 0 else idOf wi l + 1)
        let t := t.newOp fun id =>
          { MemOp.plain (b.wid wi) b.g.core b.pc (.jsub b.u.queue b.u.ctx g.toNat card) ls [] id with group := s.nextId }
        -- verify mode writes the identifier at once; otherwise the register waits for the submission
        t.modWarp (b.wid wi) fun x =>
          if b.u.cfg.det = 2 then pendWarp b.pc none .known (ls.map fun l =>
            (l, LaneOut.ok [.g g.toNat (BitVec.ofNat 32 (idOf wi l)) (zeroSh b.u.cfg) 0])) x
          else x.setSb [.g g.toNat] b.pc) s
      let t := t.modUnit b.u.id fun u => { u with jsubs := u.jsubs + ids.length }
      .done ((t.retire b true sameThread).stay b)

/-! ### GAINADD, GAINSET, GAINGET (R371, R374, R375) -/

/-- The TASK_ARG checks of a record index. -/
def State.gainCheck (s : State) (b : Bundle) (i : GNum) (c : LaneCtx) : LaneOut :=
  match s.gainJob b.u with
  | none => .bad 0x16 (c.g i).toNat 1
  | some (_, j) => if (c.g i).toNat ≥ j.count then .bad 0x16 (c.g i).toNat 2 else .ok []
def gainBody (set : Bool) (i v : GNum) (b : Bundle) (s : State) : Res :=
  match b.outHits s (s.gainCheck b i) with
  | some (code, hits) => .bad code hits
  | none => sendTask (fun _ w ls => .gain set b.u.work b.u.idx
      (laneItems w ls fun l t => (l, (t.gr i.toNat).val.toNat, (t.gr v.toNat).val))) b s
def execGainadd (i v : GNum) : State → Host.Outcome State Fault Refusal := issueStd (.gainadd i v) (gainBody false i v)
def execGainset (i v : GNum) : State → Host.Outcome State Fault Refusal := issueStd (.gainset i v) (gainBody true i v)
/-- Requests a value for each lane: its write takes the value that stands when the request arrives. The requests of an issue are
answered in ascending lane order (R368, R461). -/
def askLanes (d : GNum) (src : Thread → PendSrc) (b : Bundle) (s : State) : Res :=
  let t := b.parts.foldl (fun (t : State) (part : Nat × Warp × List Nat) =>
    let (wi, w, ls) := part
    t.modWarp (b.wid wi) fun x =>
      let asks : List PendWrite := laneItems w ls fun l th => 
        ⟨b.pc, none, src th, [(l, [.g d.toNat 0 (zeroSh b.u.cfg) 0])], s.nextId⟩
      { x.setSb [.g d.toNat] b.pc with pend := x.pend ++ asks }) { s with nextId := s.nextId + 1 }
  .done ((t.retire b false sameThread).stay b)
def execGainget (d i : GNum) : State → Host.Outcome State Fault Refusal :=
  issueStd (.gainget d i) fun b s =>
    match b.outHits s (s.gainCheck b i) with
    | some (code, hits) => .bad code hits
    | none => askLanes d (fun t => .gain (t.gr i.toNat).val.toNat) b s

/-! ### RESADD, RESGET (R376, R377) -/

def execResadd (v : GNum) : State → Host.Outcome State Fault Refusal :=
  issueStd (.resadd v) fun b s =>
    match b.outHits s fun c => if s.inJob b.u then .ok [] else .bad 0x16 (c.g v).toNat 3 with
    | some (code, hits) => .bad code hits
    | none => sendTask (fun _ w ls => .resadd b.u.work (laneItems w ls fun l t => (l, (t.gr v.toNat).val))) b s
def execResget (d : GNum) (k : BitVec 3) : State → Host.Outcome State Fault Refusal :=
  issueStd (.resget d k) fun b s =>
    if s.inJob b.u then askLanes d (fun _ => .resid k.toNat) b s else .bad 0x16 (b.hits k.toNat 3)

/-! ### ORDWAIT, ORDPOST (R378, R379) -/

/-- The chain's counter and time. -/
def State.chain (s : State) (u : Placed) : Nat × Nat := ((s.workOf u).map fun w => (w.chainC, w.chainT)).getD (0, 0)
/-- A thread waits in ORDWAIT; a bundle waits for each of its lanes. -/
def execOrdwait (p : GNum) : State → Host.Outcome State Fault Refusal :=
  issueStd (.ordwait p) fun b s =>
    let (c, time) := s.chain b.u
    if (b.lanes.all fun (_, _, _, t) => (t.gr p.toNat).val.toNat ≤ c) && time ≤ s.now b.g.core then
      .done ((s.retire b false fun _ _ t => { t with parked := none, ordPos := none }).stay b)
    else
      .hold (b.lanes.foldl (fun s (wi, _, l, _) => s.modThread (b.wid wi) l fun t =>
        { t with parked := some (t.parked.getD (s.now b.g.core)), ordPos := some (t.gr p.toNat).val.toNat }) s)
/-- The counter after posts. -/
def afterPosts (c : Nat) (ps : List Nat) : Nat := ps.foldl (fun c p => if p = c then c + 1 else c) c
/-- c′: the counter once every earlier post of a warp has taken effect. -/
def State.chainOf (s : State) (u : Placed) (w : WarpId) : Nat :=
  afterPosts (s.chain u).1 ((s.ops.filter (·.w == w)).flatMap fun o => match o.kind with
    | .ordpost _ ps => ps.map (·.2)
    | _ => [])
/-- The lanes of a warp whose post is ahead of c′, each counted after those before it. -/
def postsAhead : Nat → List (Nat × Nat) → List (Nat × Nat)
  | _, [] => []
  | c, (l, p) :: ps => if c < p then (l, p) :: postsAhead c ps else postsAhead (if p = c then c + 1 else c) ps
def execOrdpost (p : GNum) : State → Host.Outcome State Fault Refusal :=
  issueStd (.ordpost p) fun b s =>
    let posts (w : Warp) (ls : List Nat) : List (Nat × Nat) := laneItems w ls fun l t => (l, (t.gr p.toNat).val.toNat)
    match b.parts.filterMap fun (wi, w, ls) => match postsAhead (s.chainOf b.u (b.wid wi)) (posts w ls) with
        | [] => none
        | (l, q) :: rest => some (⟨wi, l :: rest.map (·.1), q, 4, (l, q) :: rest⟩ : Hit) with
    | h :: hs => .bad 0x16 (h :: hs)
    | [] => sendTask (fun _ w ls => .ordpost b.u.work (posts w ls)) b s

/-! ### What the operations do at the Task engine -/

/-- A gain revised by one update (R374). -/
def gainNew (set : Bool) (g v : Word) : Word :=
  let x := decodeF fp32 v.toNat
  let y := decodeF fp32 g.toNat
  if set then (if x.isNan then 0x7FC00000 else v)
  else if x.isNan || y.isNan then 0x7FC00000
  else BitVec.ofNat 32 (toFmt fp32 .rne false (y.add x))
/-- One update at a record's Sett: buffered while the task runs; a GAINSET of the issuing task on itself is its re-arm value. -/
def gainUpdate (set own : Bool) (v : Word) (r : GainRec) : GainRec :=
  if own && set then { r with rearm := some (gainNew true r.gain v) }
  else if own || r.running then { r with buffer := r.buffer ++ [(set, v)] }
  else { r with gain := gainNew set r.gain v }
/-- A task's gain at its end: its re-arm value, or 0 after a fault or without one, then its buffered updates (R343). -/
def gainRetire (faulted : Bool) (r : GainRec) : GainRec :=
  { r with
    gain := r.buffer.foldl (fun g (set, v) => gainNew set g v) (if faulted then 0 else r.rearm.getD 0)
    running := false, rearm := none, buffer := [] }
def State.modGain (s : State) (work i : Nat) (f : GainRec → GainRec) : State :=
  s.modWork work fun w => { w with gains := modAt w.gains i f }
/-- M of R376, in units of 2^−64. -/
def residMax : Int := 2 ^ 127 - 1
/-- An addend in units of 2^−64; an infinity is past every bound. -/
def residAddend : FVal → Int
  | .fin s m e => roundInt .rne s m (e + 64)
  | .inf s => if s then -(2 ^ 200) else 2 ^ 200
  | .nan => 0
/-- One addition to the residual (R376). -/
def residAdd (w : Work) (v : Word) : Work :=
  let x := decodeF fp32 v.toNat
  if x.isNan then { w with sat := true, nan := true }
  else
    let r := w.resid + residAddend x
    if r > residMax then { w with resid := residMax, sat := true }
    else if r < -residMax then { w with resid := -residMax, sat := true }
    else { w with resid := r }
/-- One post at the chain (R378). -/
def chainPost (p g : Nat) (w : Work) : Work := if w.chainC = p then { w with chainC := p + 1, chainT := g } else w
/-- The words of RESGET (R377). -/
def residWord (w : Work) (k : Nat) : Word :=
  if k < 4 then BitVec.ofNat 32 ((BitVec.ofInt 128 w.resid).toNat / 2 ^ (32 * k))
  else BitVec.ofNat 32 ((if w.sat then 1 else 0) + (if w.nan then 2 else 0))
/-- An operation with its first item taken; with none left it is gone. -/
def State.popItem (s : State) (o : MemOp) (k : OpKind) (more : Bool) : State :=
  if more then s.modOp o.id fun x => { x with kind := k } else s.dropOp o.id
/-- The latest GWCT of an operation's warp. -/
def State.opGwct (s : State) (o : MemOp) : Nat := if o.returned then o.tclear else ((s.warp? o.w).map (·.gwct)).getD 0
/-- An earlier operation of the same warp that must take effect first: updates and posts apply in issue order. -/
def State.firstOf (s : State) (o : MemOp) (same : OpKind → Bool) : Bool := !s.ops.any fun x => x.w == o.w && x.id < o.id && same x.kind
/-- The first item of a task operation takes effect. -/
def State.takeEffect (s : State) (o : MemOp) : State :=
  match o.kind with
  | .gain set work idx ((_, i, v) :: rest) =>
    ((s.modGain work i (gainUpdate set (idx == i) v)).popItem o (.gain set work idx rest) (rest != [])).progress (some o.w)
  | .resadd work ((_, v) :: rest) => (s.modWork work fun w => residAdd w v).popItem o (.resadd work rest) (rest != [])
  | .ordpost work ((_, p) :: rest) =>
    ((s.modWork work (chainPost p (s.opGwct o))).popItem o (.ordpost work rest) (rest != [])).progress (some o.w)
  | .gain .. | .resadd .. | .ordpost .. => s.dropOp o.id
  | _ => s
def isGainOp : OpKind → Bool | .gain .. => true | _ => false
def isResidOp : OpKind → Bool | .resadd .. => true | _ => false
def isPostOp : OpKind → Bool | .ordpost .. => true | _ => false
/-- The lane of an operation's first item. -/
def OpKind.itemLane : OpKind → Nat
  | .gain _ _ _ ((l, _) :: _) | .resadd _ ((l, _) :: _) | .ordpost _ ((l, _) :: _) | .jsub _ _ _ ((l, _) :: _) => l
  | _ => 0
/-- The place of an operation's first item in the order of R343: die, cluster and core, which a core's number gives, warp, lane. -/
def State.place343 (s : State) (o : MemOp) : Nat :=
  1024 * o.core + 32 * (((s.warp? o.w).map (·.slot)).getD o.w.warp) + o.kind.itemLane
/-- The threads of one issue act in ascending lane order: no item of a lower lane of the issue has still to act (R368). -/
def State.laneFirst (s : State) (o : MemOp) : Bool :=
  !s.ops.any fun x => x.group == o.group && x.id != o.id && x.kind.itemLane < o.kind.itemLane
/-- In deterministic mode the updates of a task of a GAIN job apply at its retirement (R400). -/
def State.gainTime (s : State) (o : MemOp) : Bool :=
  match s.unit? o.w.unit with
  | some u => u.cfg.det == 0 || (s.gainJob u).isNone || u.wgs.all fun g => g.warps.all (·.live == [])
  | none => true
/-- An update that may apply now, as far as its own warp goes. -/
def State.updateReady (s : State) (kind : OpKind → Bool) (o : MemOp) : Bool :=
  kind o.kind && s.taskReady o && s.gainTime o && s.firstOf o kind
/-- Gain updates that may apply in one clk apply in the order of R343, those of one issue too (assumption 100). -/
def State.updateFirst (s : State) (o : MemOp) : Bool :=
  !s.ops.any fun x => s.place343 x < s.place343 o && s.updateReady isGainOp x
def State.applyUpdate (s : State) (kind first : MemOp → Bool) (op : Nat) : State :=
  match s.op? op with
  | some o => if kind o && first o then s.takeEffect o else s
  | none => s
def execGainUpdateApply (op : Nat) (s : State) : Host.Outcome State Fault Refusal :=
  .next (s.applyUpdate (s.updateReady isGainOp) s.updateFirst op)
/-- RESADDs are additions in arrival order, those of one issue in ascending lane order (R368, R376). -/
def execResidualUpdateApply (op : Nat) (s : State) : Host.Outcome State Fault Refusal :=
  .next (s.applyUpdate (s.updateReady isResidOp) s.laneFirst op)
def State.postReady (s : State) (o : MemOp) : Bool := isPostOp o.kind && s.taskReady o && s.firstOf o isPostOp
def execOrdpostEffect (op : Nat) (s : State) : Host.Outcome State Fault Refusal :=
  match s.op? op with
  | some o => .next (if s.postReady o && s.laneFirst o then s.takeEffect o else s)
  | none => .next s

end Sys2Proof.Machine
end

