-- ==== Sys2Proof/Machine/LaneEv.lean ====
section
/-! DEFINITION. The Lane engine's own steps: fetching, filing and ageing, delayed register writes, the deferral and order
limits, deterministic turns, and the lease clock (R25, R26, R92 to R97, R104, R105, R158, R385 to R391, R477, R479). -/

namespace Sys2Proof.Machine

/-! ### Fetching (R57, R95, R479) -/

/-- What stands at a PC: a word, a word not yet fetched, or nothing of the kernel. -/
inductive Fetched
  | word (w : Nat)
  | wait
  | outside
  deriving DecidableEq, Repr
/-- What a fetch at a PC finds. Of a kernel whose CODESIZE is no multiple of 4, which R54 does not check, the last word has the bytes
that the code has, and zeros above them (assumption 103). -/
def Placed.fetch (u : Placed) (pc : VAddr) : Fetched :=
  let off := pc.toNat - u.cfg.entry.toNat
  if !u.cfg.inCode pc.toNat then .outside
  else match u.fetched with
    | none => .word (bytesNat (memRead u.code off 4))
    | some xs => if xs.contains off then .word (bytesNat (memRead u.code off 4)) else .wait
/-- The threads of a unit that wait at a PC: the first warp that has some. -/
def Placed.waitingAt (u : Placed) (pc : VAddr) : Option (Nat × Nat × List Nat) :=
  ((u.wgs.zipIdx).flatMap fun (g, gi) => (g.warps.zipIdx).map fun (w, wi) =>
    (gi, wi, w.live.filter fun l => ((w.threads[l]?).map fun t => t.pc == pc).getD false)).find? fun (_, _, ls) => ls != []
/-- The code and details of a read of code that fails: of one that no map entry holds (code 0) those of its cause, and of an
uncorrectable error the address that is fetched as origin (R358, R367, R495; assumption 40). -/
def State.codeFault (s : State) (ctx origin code a d : Nat) : Nat × Nat × Nat :=
  if code = 0x11 then (0x11, a, origin)
  else if code != 0 then (code, a, d)
  else match s.mapPoison ctx with
    | some pa => (0x11, pa, origin)
    | none => (0x12, a, 0)
/-- A word of a kernel too large for the instruction buffer arrives; a read that fails ends the task (assumption 40). -/
def execFetchComplete (unit addr : Nat) (s : State) : Host.Outcome State Fault Refusal :=
  match s.unit? unit with
  | none => .next s
  | some u =>
    let off := addr - u.cfg.entry.toNat
    match u.fetched with
    | none => .next s
    | some xs =>
      if !u.cfg.inCode addr || off % 4 != 0 then .next s
      else
        let failed (x : Nat × Nat × Nat) : State :=
          match u.waitingAt (BitVec.ofNat 72 addr) with
          | some (gi, wi, ls) => s.takeFault unit gi x.1 false (BitVec.ofNat 72 addr) [⟨wi, ls, x.2.1 % 2 ^ 64, x.2.2, []⟩]
          | none => s
        match s.mapAddr u.ctx addr 4 with
        | none => .next (failed (s.codeFault u.ctx addr 0 addr 0))
        | some (sp, a) => match s.readSpan u.ctx sp a 4 with
          | .ok bs => .next ((s.cacheSpan u.ctx sp a 4).modUnit unit fun u => { u with code := memWrite u.code off bs, fetched := some (off :: xs) })
          | .busy => .next s
          | .bad code a d => .next (failed (s.codeFault u.ctx addr code a d))

/-! ### Filing and forming (R92 to R95, R155) -/

/-- A thread of a port's queue that can be filed: its time has come and it is not stopped (R465). -/
def State.filable (s : State) (f : Filing) : Bool :=
  decide (f.due ≤ s.clk) && ((s.thread? ⟨f.unit, f.wg, f.warp⟩ f.lane).map fun t => !t.exited && !t.halted).getD false
/-- The order of threads that reach a filing point: clk, warp slot, lane (R94). -/
def State.filingRank (s : State) (f : Filing) : Nat :=
  1024 * f.due + 32 * (((s.warp? ⟨f.unit, f.wg, f.warp⟩).map (·.slot)).getD 0) + f.lane
/-- The thread that a port files next: once in a clk, and while a slot is empty, the thread that has waited longest in the filing
queue; else the first of those that have reached a filing point (R94). -/
def State.nextFiling (s : State) (p : Port) : Option Filing :=
  let ready := p.queue.filter s.filable
  let queued := if decide (p.served ≤ s.clk) && p.slots.any (·.isNone) then ready.filter (·.waiting) else []
  (queued ++ sortKey s.filingRank (ready.filter (!·.waiting))).head?
def execThreadFiling (core port : Nat) (s : State) : Host.Outcome State Fault Refusal :=
  match (s.core core).ports[port]?.bind s.nextFiling with
  | none => .next s
  | some f =>
    .next ((s.modCore core fun c => { c with ports := modAt c.ports port fun p => { p with
      queue := p.queue.filter (· != f), served := if f.waiting then s.clk + 1 else p.served } }).fileNow core port
        { f with waiting := false })
/-- A unit in deterministic mode. -/
def State.isDet (s : State) (unit : Nat) : Bool := ((s.unit? unit).map (·.cfg.det != 0)).getD false
/-- A bin forms by ageing, 16 clk after its oldest entry, or because exits have left it full; in deterministic mode no bin ages
(R387). -/
def execBinAged (core port slot : Nat) (s : State) : Host.Outcome State Fault Refusal :=
  match (((s.core core).ports[port]?).bind fun p => p.slots[slot]?).join with
  | none => .next s
  | some x =>
    let y := if x.formed || s.isDet x.unit then x
      else if x.filed + 16 ≤ s.clk then { x with formed := true, aged := true }
      else s.formFull port x
    .next (s.modCore core fun c => { c with ports := modAt c.ports port fun p => { p with
      slots := modAt p.slots slot fun _ => some y } })

/-! ### Choosing a bundle (R96, R387) -/

/-- The lanes of a slot, by ascending warp and lane. -/
def Slot.parts (x : Slot) : List (Nat × List Nat) :=
  let ws := (List.range 32).filter fun w => x.entries.any (·.1 == w)
  ws.map fun w => (w, (List.range 32).filter fun l => x.entries.contains (w, l))
def State.leadSlot (s : State) (x : Slot) : Nat :=
  ((x.parts.filterMap fun (w, _) => (s.warp? ⟨x.unit, x.wg, w⟩).map (·.slot)).foldl min 32)
/-- The bundles of a port in the order of R96: first those formed from aged bins that have not issued, oldest first; then the
others by the rotating pointer and by when they last issued. Units in deterministic mode issue by turns (R387). -/
def State.portOrder (s : State) (p : Port) : List Slot :=
  let bs := p.slots.filterMap fun x => x.bind fun b =>
    if b.formed && decide (b.ready ≤ s.clk) && !s.isDet b.unit then some b else none
  let first := bs.filter fun b => b.aged && b.issued.isNone
  let rest := bs.filter fun b => !(b.aged && b.issued.isNone)
  let rank (b : Slot) : Nat := (s.leadSlot b + 32 - p.ptr) % 32
  sortKey (·.filed) first ++ sortKey rank (sortKey (fun b => (b.issued.map (· + 1)).getD 0) rest)
/-- The pointer after a bundle that it chose has issued (R96). -/
def State.advance (s : State) (core port : Nat) (x : Slot) : State :=
  if x.aged && x.issued.isNone then s
  else s.modCore core fun c => { c with ports := modAt c.ports port fun p => { p with ptr := (s.leadSlot x + 2) % 32 } }
/-- The bins of a warp on its core, with their lanes of the warp. -/
def State.binsOf (s : State) (w : WarpId) : List (List Nat) :=
  (s.core (s.coreOf w)).ports.flatMap fun p => p.slots.filterMap fun x => x.bind fun b =>
    match (List.range 32).filter fun l => b.unit == w.unit && b.wg == w.wg && b.entries.contains (w.warp, l) with
    | [] => none
    | ls => some ls
/-- The lanes by which the owner of a turn goes on: the formed or unformed bin whose lowest lane is least (R387). -/
def State.turnLanes (s : State) (w : WarpId) : List Nat :=
  ((sortKey (fun ls => (ls[0]?).getD 32) (s.binsOf w)).head?).getD []
/-- The bin of a lane may issue in this clk (R479). -/
def State.binReady (s : State) (w : WarpId) (l : Nat) : Bool :=
  (s.core (s.coreOf w)).ports.all fun p => p.slots.all fun x => (x.map fun b =>
    decide (b.ready ≤ s.clk) || b.unit != w.unit || b.wg != w.wg || !b.entries.contains (w.warp, l)).getD true
/-- Threads of a warp wait in the filing queue (R94). -/
def State.queued (s : State) (w : WarpId) : Bool :=
  (s.core (s.coreOf w)).ports.any fun p => p.queue.any fun f => f.unit == w.unit && f.wg == w.wg && f.warp == w.warp && f.waiting
/-- Threads of a warp have reached a filing point and are not filed yet (R387). -/
def State.filing (s : State) (w : WarpId) : Bool :=
  (s.core (s.coreOf w)).ports.any fun p => p.queue.any fun f => f.unit == w.unit && f.wg == w.wg && f.warp == w.warp && !f.waiting
/-- The instruction at a bundle's PC. -/
def Bundle.instr (b : Bundle) : Option Instr :=
  match b.u.fetch b.pc with
  | .word w => decode w
  | _ => none

/-! ### What an issue costs its port (R101 to R103, R116; assumption 97) -/

/-- The tangent clks of an issue: D for an instruction that computes tangents, and for a zero-tangent one that carries TAN. -/
def Bundle.dualClks (b : Bundle) (i : Instr) : Nat :=
  let all (dual : Bool) : Nat := if dual then b.u.cfg.d else 0
  match i with
  | .ld _ _ _ sz _ | .st _ _ _ sz _ | .ldx _ _ _ sz _ | .stx _ _ _ sz _ => all (b.dualMem sz)
  | .lds _ _ sz _ | .sts _ _ sz _ => all (b.dualSpad sz)
  | .atom _ _ _ op _ _ => all ((op == .fadd32 || op == .fadd64) && (b.hints.tan || b.u.cfg.dual))
  | _ => max (b.tangentClks i) (all (b.hints.tan && i.takesTanLane))
/-- Whether a port of a core can issue: its last issue is over. -/
def State.portFree (s : State) (core port : Nat) : Bool :=
  !(s.core core).issues.any fun x => x.port == port && s.clk < x.until_
/-- Notes an issue that has gone on from s to t: the clks that it takes of its port, and its bundle's operand latch. Hint words take
one clk and are not counted for the latch. -/
def State.noteIssue (s t : State) (port : Nat) (b : Bundle) : State :=
  match b.instr with
  | none => t
  | some i =>
    let latch := ((((s.core b.g.core).ports.flatMap fun p => p.slots.filterMap fun x => x).find? (slotHas b)).map (·.latch)).getD []
    let (bank, dual) := if i.isHint then (0, 0) else (i.bankClks b.u.cfg latch, b.dualClks i)
    let x : Issued :=
      { port := port, unit := b.u.id, wg := b.wg, parts := b.parts.map fun (wi, _, ls) => (wi, ls), pc := b.pc, clk := s.clk
        bank := bank, until_ := s.clk + 1 + bank + dual }
    let t := t.modCore b.g.core fun c => { c with issues := c.issues ++ [x] }
    if i.isHint then t else t.modSlots b fun x => some { x with latch := i.relatch b.u.cfg latch }

/-! ### IDEM_DEFER and ORDER_STALL (R158, R391) -/

/-- Raises one code of the shared checks when the lanes' next instruction would raise it. -/
def State.limitFault (s : State) (w : WarpId) (lanes : List Nat) (code : Nat) : State :=
  match s.bundleOf w.unit w.wg [(w.warp, lanes)] with
  | some b =>
    if !b.idle then s
    else match b.instr.bind b.early with
      | some (c, hits) => if c = code then s.takeFault w.unit w.wg code true b.pc hits else s
      | none => s
  | none => s
def execIdemDefer (w : WarpId) (lane : Nat) (s : State) : Host.Outcome State Fault Refusal := .next (s.limitFault w [lane] 0x06)
def execOrderStall (w : WarpId) (s : State) : Host.Outcome State Fault Refusal :=
  match s.unit? w.unit with
  | some u => .next (if u.owner == w then s.limitFault w (s.turnLanes w) 0x15 else s)
  | none => .next s

/-! ### Delayed register writes (R104, R105, R375, R377, R461) -/

/-- A workgroup is stopped once every live thread has reached its boundary (R66, R464). -/
def Workgroup.halted (g : Workgroup) : Bool :=
  g.warps.any (fun w => w.live != []) && g.warps.all fun w => w.threads.all fun t => t.exited || t.halted
/-- A workgroup that has stopped, some lanes of which may be under way in a step (R466, R467). -/
def Workgroup.stands (g : Workgroup) : Bool :=
  g.warps.any (fun w => w.live != []) && g.warps.all fun w => w.threads.all fun t => t.exited || t.halted || t.step
def State.namedUnit (s : State) (ctx : Nat) : Option Placed :=
  s.units.find? fun u => u.ctx == ctx && u.state == .running && u.idx == s.watchWord ctx 0x12
/-- DBGSTAT (R460): the named workgroup, its named lane, the stopped workgroups of the context. -/
def State.dbgstat (s : State) (ctx : Nat) : Nat :=
  let v := s.watchWord ctx 0x13
  let g := (s.namedUnit ctx).bind fun u => u.wgs[v % 4]?
  let stopped := (g.map Workgroup.halted).getD false
  let stepping := ((g.bind fun g => (g.warps[bitsOf v 2 5]?)).bind fun w => w.threads[bitsOf v 7 5]?).map (·.step)
  let turn := ((s.namedUnit ctx).map (·.stepTurn)).getD false
  let all := sumOf ((s.units.filter (·.ctx == ctx)).map fun u => (u.wgs.filter Workgroup.halted).length)
  (if stopped then 1 else 0) + (if stepping.getD false || turn then 2 else 0) + min all 65535 * 256
/-- The word of a system register. -/
def State.sysWord (s : State) (ctx sel : Nat) : Nat := if sel = 0x14 then s.dbgstat ctx else s.watchWord ctx sel
/-- The value that a pending write takes now; none when it was known at issue. -/
def State.pendValue (s : State) (u : Placed) : PendSrc → Option Word
  | .known => none
  | .gain i => some ((((s.workOf u).bind fun w => w.gains[i]?).map (·.gain)).getD 0)
  | .resid k => some (((s.workOf u).map (residWord · k)).getD 0)
  | .sysreg sel => some (BitVec.ofNat 32 (s.sysWord u.ctx sel))
def setValue (v : Option Word) (w : RegWrite) : RegWrite :=
  match v, w with
  | some x, .g n _ sh m => .g n x sh m
  | _, w => w
/-- The lanes of one issue whose requests are answered in ascending order: none lower is still to be answered (R368, R461). -/
def Placed.lanesBefore (u : Placed) (p : PendWrite) : Bool :=
  let lane (q : PendWrite) : Nat := ((q.writes.head?).map (·.1)).getD 0
  p.group != 0 && u.wgs.any fun g => g.warps.any fun w => w.pend.any fun q => q.group == p.group && lane q < lane p
/-- Write number idx of a warp's pending writes is made; a register's entry is cleared with its last pending write. -/
def execLaneWriteCompletion (w : WarpId) (idx : Nat) (s : State) : Host.Outcome State Fault Refusal :=
  match s.unit? w.unit, (s.warp? w).bind fun x => x.pend[idx]? with
  | some u, some p =>
    if ((p.due.map fun d => decide (s.clk < d)).getD false) || u.lanesBefore p then .next s
    else
      let v := s.pendValue u p.src
      let ws := p.writes.map fun (l, rs) => (l, rs.map (setValue v))
      .next (s.modWarp w fun x =>
        let left := x.pend.eraseIdx idx
        let regs := (p.writes.flatMap fun (_, rs) => rs.map RegWrite.reg).filter fun r =>
          !left.any fun q => q.writes.any fun (_, rs) => rs.any fun k => k.reg == r
        { (x.applyWrites ws).clearSb regs with pend := left })
  | _, _ => .next s

/-! ### Deterministic turns (R385, R386, R390, R468; a turn's end stands in `execDetTurn`) -/

/-- The instruction, whose registers have their values, would wait for one of the reasons of R386. -/
def State.turnWait (s : State) (b : Bundle) (i : Instr) : Bool :=
  !b.pending (i.waitRegs b.u.cfg) && match i with
  | .barWait n g =>
    let x := s.bar b.u.id b.wg n.toNat
    !s.expecting b && b.lanes.any fun (_, _, _, t) => !barPassed x g t
  | .ordwait p => b.lanes.any fun (_, _, _, t) => decide ((s.chain b.u).1 < (t.gr p.toNat).val.toNat)
  | _ => false
/-- A monitor's compare has been made: at its slice, or by its core at a host's or a peer's word, which it then reads again. -/
def Part.compared (p : Part) : Bool := p.st != .sent || (p.far && p.time != 0)
/-- A thread waits in WAITCMP on an unmatched monitor, every compare of the issue having been made; other waits inside an instruction
are for the warp's own operations. -/
def State.monitorWait (s : State) (t : Thread) : Bool :=
  match t.busy with
  | some k =>
    let os := s.ops.filter fun o => o.group == k && (match o.kind with | .waitcmp .. => true | _ => false)
    os.any (!·.settled) && os.all fun o => o.parts.all Part.compared
  | none => false
/-- Live lanes of a warp have arrived at a collective, and others have not (R386). -/
def Warp.arrivalPends (w : Warp) : Bool :=
  match w.arrival with
  | some a => w.live.any fun l => !a.lanes.contains l
  | none => false
/-- The owner has nothing left to issue in its turn: it has exited, has retired Q instructions, waits in a way that R386 names, or
takes its turns empty until its saved point (R390). Its waits for its own operations, and for its threads to be filed, stay
inside the turn, for want of an empty slot too (R94, R401; assumption 114). -/
def State.turnOver (s : State) (u : Placed) (w : Warp) : Bool :=
  if w.live = [] || w.resumeAt.isSome || u.turnCount ≥ u.cfg.quantum then true
  else if s.filing u.owner then false
  else
    match s.turnLanes u.owner with
    | [] => !s.queued u.owner && (w.arrival.isNone || w.arrivalPends)
    | ls =>
      match s.bundleOf u.id u.owner.wg [(u.owner.warp, ls)] with
      | some b => b.lanes.any (fun (_, _, _, t) => s.monitorWait t) || (b.instr.map (s.turnWait b)).getD false
      | none => true
/-- The owner's operations are done (R386). -/
def State.drained (s : State) (id : WarpId) (w : Warp) : Bool :=
  w.ld == 0 && w.st == 0 && w.xf == 0 && w.tl == 0 && (s.unacked id true) == [] && w.gwct ≤ s.now (s.coreOf id) &&
    !s.ops.any fun o => o.w == id && (match o.kind with | .expect .. => true | _ => false)
/-- The next turn: a warp whose saved point it is goes on from its offset (R390). -/
def Placed.nextTurn (u : Placed) : Placed :=
  let v := { u with turn := u.turn + 1, turnCount := 0 }
  match (u.wgs[v.owner.wg]?).bind fun g => g.warps[v.owner.warp]? with
  | some w =>
    match w.resumeAt with
    | some (σ, o) =>
      if σ ≤ v.turn then { v with
        turnCount := o
        wgs := modAt v.wgs v.owner.wg fun g => { g with
          warps := modAt g.warps v.owner.warp fun w => { w with resumeAt := none } } }
      else v
    | none => v
  | none => v
/-- Stops every thread of a unit at the end of a turn, with the dumps asked for (R468). -/
def haltUnit (u : Placed) : Placed :=
  { u with
    stopAt := false, stepTurn := false, dumps := []
    wgs := u.wgs.map fun g => { g with warps := g.warps.map fun w => { w with
      threads := w.threads.map fun t => { t with stopped := !t.exited } } } }
/-- A thread stands between a hint and the instruction it modifies (R66). -/
def Placed.hinted (u : Placed) : Bool := u.wgs.any fun g => g.warps.any fun w => w.threads.any fun t => !t.exited && t.hints != Hints.none
def Placed.anyStopped (u : Placed) : Bool := u.wgs.any fun g => g.warps.any fun w => w.threads.any fun t => !t.exited && t.stopped
/-- A stop or step dump of one warp: every live lane; its entry has CODE 0 and names the warp (R470, assumption 44). -/
def State.stopDump (s : State) (u : Placed) (kind wg warp : Nat) (pc : VAddr) (code : Nat) : State :=
  match s.warp? ⟨u.id, wg, warp⟩ with
  | none => s
  | some w =>
    let r := unitRecord u wg 0 false 0 ⟨warp, w.live, 0, 0, []⟩
    (s.capture ⟨u.ctx, kind, u.launchid, u.idx, pc, BitVec.ofNat 10 code, wg, [], 0, 0, false⟩
      [⟨u.queue, some r, ⟨u.id, wg, warp⟩, w.live, [], [], []⟩]).1
/-- The dumps that a unit's stop has left to take. -/
def State.takeDumps (s : State) (u : Placed) (ds : List (Nat × Nat × Nat × VAddr × Nat)) : State :=
  ds.foldl (fun s (kind, g, wi, pc, code) => s.stopDump u kind g wi pc code) s
/-! ### The lease clock (R25, R26, R414) -/

/-- The context and the intermediate address of a host physical span, by the HDM decoders (R29). -/
def State.hdmFind (s : State) (hpa n : Nat) : Option (Nat × Nat) :=
  ((s.home.hdm ++ Config.hdmDecoders).find? fun (b, l, _, _) => within hpa n b l).map fun (b, _, ia, ctx) => (ctx, ia + (hpa - b))
/-- A time has passed at the slices of a host access (R414). -/
def State.hdmPassed (s : State) (hpa n v : Nat) : Bool :=
  match s.hdmFind hpa n with
  | some (_, ia) => (lineParts ia n).all fun (a, _) => decide (v ≤ s.clockOf (.slice a))
  | none => decide (v ≤ s.tick)
/-- One tick. A copy of the clock never goes back and stays at most 4 ticks behind, as far as `lag` says for each core and each of
the other engines (R26). Held host accesses whose time has passed return. -/
def execLeaseClockTick (lag : ClockLag) (s : State) : Host.Outcome State Fault Refusal :=
  let tick := s.tick + 1
  let copy (c : Core) (b : Nat) : Core := { c with clock := max c.clock (tick - min b 4) }
  let slip (m : NatMap) (e : Nat × Nat) : NatMap := natSet m e.1 (min (min e.2 4) (natGet s.lags e.1 + 1))
  let t : State := { s with
    tick := tick
    phase := s.phase - 9
    lags := lag.engines.foldl slip []
    cores := (s.cores.zipIdx).map fun (c, i) => copy c ((lag.cores[i]?).getD 0) }
  let due (r : Nat × List Byte × Nat) : Bool := t.hdmPassed r.1 (max 1 r.2.1.length) r.2.2
  let back := (t.home.hdmReads.filter due).map fun (a, bs, _) => (a, bs, false)
  .next { t with home := { t.home with
    hdmReads := t.home.hdmReads.filter (!due ·), hdmDone := t.home.hdmDone ++ back } }

end Sys2Proof.Machine
end

