-- ==== Sys2Proof/Machine/Launch.lean ====
section
/-! DEFINITION. Records that the Task engine reads: kernel headers, launch records, windows, job cards and task records, with
their checks (R2, R52 to R54, R89, R170, R178 to R180, R191, R192, R211, R222, R224, R324 to R329, R333 to R335, R349, R381,
R396, R497). -/

namespace Sys2Proof.Machine

/-! ### Reading virtual spans -/

/-- Reads a span through a context's map; code 0 when no entry holds it. -/
def State.readVA (s : State) (ctx va n : Nat) : ReadRes :=
  match s.mapAddr ctx va n with
  | none => .bad 0 va 0
  | some (sp, a) => s.readSpan ctx sp a n
/-- The entries by which a virtual span was translated stay in the slices' caches (R353). -/
def State.cacheVA (s : State) (ctx va n : Nat) : State :=
  match s.mapAddr ctx va n with
  | none => s
  | some (sp, a) => s.cacheSpan ctx sp a n
def State.cacheRecs (s : State) (ctx : Nat) (spans : List (Nat × Nat)) : State :=
  spans.foldl (fun s (va, n) => s.cacheVA ctx va n) s
/-- A record: its value, a page on the move, or unreadable. -/
inductive Rec
  | val (v : Nat)
  | busy
  | bad
  deriving DecidableEq, Repr
def State.readRec (s : State) (ctx va n : Nat) : Rec :=
  match s.readVA ctx va n with
  | .ok bs => .val (bytesNat bs)
  | .busy => .busy
  | .bad .. => .bad

/-! ### Kernel headers (R52 to R54) -/

/-- D of a DCODE. -/
def dcode (c : Nat) : Nat := match c with | 0 => 0 | 1 => 1 | 2 => 2 | _ => 4
/-- Whether a header passes R54, its hash apart. -/
def headerOk (h : Nat) : Bool :=
  let warps := bitsOf h 205 6
  let gregs := bitsOf h 168 8
  let glimit := bitsOf h 153 6
  bitsOf h 256 256 == 0 && bitsOf h 192 13 == 0 && bitsOf h 128 18 == 0 && bitsOf h 165 3 < 4 &&
  8 ≤ gregs && gregs ≤ 128 && gregs % 8 == 0 && 1 ≤ warps && warps ≤ 32 && bitsOf h 159 5 ≤ 16 && 1 ≤ glimit && glimit ≤ 32 &&
  bitsOf h 218 6 ≤ 32 && bitsOf h 211 7 ≤ 16 && bitsOf h 224 32 ≤ 524288 && bitsOf h 224 32 % 256 == 0
def regionOk (h e : Nat) : Bool :=
  bitsOf e 168 88 == 0 && bitsOf e 0 128 < 2 ^ bitsOf h 168 8 && bitsOf e 144 16 < 2 ^ bitsOf h 159 5
def regionOf (e : Nat) : RegionEntry :=
  ⟨BitVec.ofNat 128 e, BitVec.ofNat 8 (e / 2 ^ 128), BitVec.ofNat 8 (e / 2 ^ 136), BitVec.ofNat 16 (e / 2 ^ 144),
   BitVec.ofNat 8 (e / 2 ^ 160)⟩
/-- The region table of a header at an address. -/
def State.regionTable (s : State) (ctx va h : Nat) : List Rec :=
  (List.range (bitsOf h 176 16)).map fun k => s.readRec ctx (va + bitsOf h 64 32 + 32 * k) 32

/-! ### Windows and ranges (R179, R180, R325, R336, R349) -/

/-- The layout of R325. -/
structure Win where
  base : Nat
  length : Nat
  r : Bool
  w : Bool
  tstride : Nat
  res : Nat
  deriving DecidableEq, Repr
def winOf (v : Nat) : Win := ⟨bitsOf v 0 72, bitsOf v 72 40, bitOf v 112, bitOf v 113, bitsOf v 114 6, bitsOf v 120 8⟩
def Win.stride (x : Win) : Nat := if x.tstride = 0 then 0 else 2 ^ x.tstride
/-- The primal span and the tangent spans (R180). -/
def Win.spans (x : Win) (d : Nat) : List (Nat × Nat) :=
  (x.base, x.length) :: (if x.tstride = 0 then [] else (List.range d).map fun k => (x.base + (k + 1) * x.stride, x.length))
def Window.unused : Window := ⟨false, 0, 0, false, false, 0, .local, 0, false⟩
/-- Resolves a window through the address map. -/
def State.resolveWin (s : State) (ctx d : Nat) (range : Bool) (x : Win) : Option Window :=
  (s.mapOf ctx (x.spans d)).map fun e =>
    ⟨true, x.base, x.length, x.r, x.w, x.stride, e.space, e.ibase + (x.base - e.vbase), range⟩
/-- The windows of a record of R325 that names some; none when one cannot be resolved. -/
def State.resolveAll (s : State) (ctx d : Nat) (xs : List Win) : Option (List Window) :=
  let ws := xs.map fun x => if x.length = 0 then some Window.unused else s.resolveWin ctx d false x
  if ws.all (·.isSome) then some (ws.filterMap id) else none
/-- What verify mode refuses in the windows of one task (R396). -/
def verifyBad (xs : List Win) : Bool :=
  let us := xs.filter (·.length != 0)
  us.any (fun x => x.r && x.w) ||
    us.any fun x => us.any fun y => x.r && y.w && overlaps x.base x.length y.base y.length

/-! ### Launch records (R191, R192, R324, R326) -/

def slotOk (w : Nat) : Bool :=
  let code := w % 64
  let scale := bitsOf w 6 2
  let acc := bitsOf w 10 3
  w == 0 || (bitsOf w 14 50 == 0 && (elemOf code).isSome && acc < 2 && scale < 3 && (isMxCode code == (scale == 1)) &&
    ((((elemOf code).map Elem.isInt).getD false) == (acc == 1)))
def recWins (r : Nat) : List Win := (List.range 8).map fun n => winOf (bitsOf r (1024 + 128 * n) 128)
/-- Clusters of the grid and workgroups of a cluster. -/
def recGrid (r : Nat) : Nat × Nat × Nat := (bitsOf r 72 16 + 1, bitsOf r 88 16 + 1, bitsOf r 104 16 + 1)
def recCsize (r : Nat) : Nat := bitsOf r 120 2 + 1
/-- The checks of a record that a launch and a job share. -/
def recordOk (r : Nat) : Bool :=
  bitsOf r 241 271 == 0 && bitsOf r 141 3 == 0 && bitsOf r 136 2 < 3 && bitsOf r 123 6 ≤ 32 &&
  !(bitOf r 130 && bitsOf r 131 3 ≥ 4) &&
  ((recWins r).zipIdx).all (fun (x, n) =>
    if x.length = 0 then bitsOf r (1024 + 128 * n) 128 == 0 else x.tstride ≤ 40 && x.res == 0) &&
  (List.range 8).all (fun n => slotOk (bitsOf r (512 + 64 * n) 64)) &&
  !(bitsOf r 136 2 != 0 && bitsOf r 144 32 > 65536) && !(bitsOf r 136 2 == 2 && verifyBad (recWins r))
/-- The checks of a launch alone. -/
def gridOk (r : Nat) : Bool :=
  let (x, y, z) := recGrid r
  bitsOf r 0 72 % 64 == 0 && x * y * z * recCsize r ≤ 2 ^ 32
/-- What a launch fixes, from its record, its header and its regions; `entry` is the header's address plus 64. -/
def cfgOf (r h entry : Nat) (regions : List RegionEntry) (csize : Nat) : LaunchCfg where
  entry := BitVec.ofNat 72 entry
  codesize := bitsOf h 96 32
  gregs := bitsOf h 168 8
  warps := bitsOf h 205 6
  d := if bitOf r 130 then dcode (bitsOf r 131 3) else dcode (bitsOf h 165 3)
  tt := if bitOf r 134 then bitsOf r 135 1 else bitsOf h 164 1
  tiles := bitsOf h 159 5
  glimit := if bitsOf r 123 6 = 0 then bitsOf h 153 6 else bitsOf r 123 6
  preload := BitVec.ofNat 7 (h / 2 ^ 146)
  spad := bitsOf h 224 32
  bars := bitsOf h 218 6
  lhandles := bitsOf h 211 7
  regions := regions
  slots := (List.range 8).map fun n => BitVec.ofNat 64 (r / 2 ^ (512 + 64 * n))
  dual := bitOf r 129
  det := bitsOf r 136 2
  quantum := if bitsOf r 144 32 = 0 then 64 else bitsOf r 144 32
  seed := BitVec.ofNat 64 (r / 2 ^ 176)
  priority := bitsOf r 138 3
  mxtrap := bitOf r 240
  reassoc := bitOf r 122
  csize := csize
/-- R170 and R178. -/
def dualOk (c : LaunchCfg) : Bool := !c.dual || (c.d > 0 && (1 + c.d) * c.spad ≤ Config.spadBytes)

/-! ### Resources of a workgroup (R89, R211, R224, R329) -/

def LaunchCfg.rows (c : LaunchCfg) : Nat := c.warps * c.gregs * (1 + c.d)
def LaunchCfg.tileNeed (c : LaunchCfg) : Nat := c.warps * c.tiles * (1 + c.tt)
def LaunchCfg.nodeNeed (c : LaunchCfg) : Nat := if c.det = 0 then 0 else c.warps * c.limit
def LaunchCfg.spadNeed (c : LaunchCfg) : Nat := if c.dual then (1 + c.d) * c.spad else c.spad
/-- The first budget that a workgroup breaks on an empty core. -/
def LaunchCfg.overBudget (c : LaunchCfg) : Option (Nat × Nat) :=
  if c.rows > Config.regRows then some (0x22, c.rows)
  else if c.tileNeed > Config.coreTiles then some (0x23, c.tileNeed)
  else if c.nodeNeed > Config.graphPool then some (0x24, c.nodeNeed)
  else none

/-! ### Checking a launch (R326) and a job's launch record (R335) -/

/-- What the checks give: a page on the move, a failure with its DET0, or what the launch fixes. -/
inductive Checked
  | busy
  | bad (code det0 : Nat)
  | ok (c : LaunchCfg) (ws : List Window)
  deriving DecidableEq, Repr
/-- Checks a record with the header at an address; `fail` is the code of the checks without one of their own. A region table entry
that cannot be read fails as an unreadable header does (assumption 89). Windows that alone fail, since the address map is poisoned, fail
as a read of poison does, with the address of the unit (R356, R495; assumption 79). -/
def State.checkLaunch (s : State) (ctx r head fail : Nat) (job : Bool) : Checked :=
  match s.readRec ctx head 64 with
  | .busy => .busy
  | .bad => .bad fail 0
  | .val h =>
    if bitsOf h 0 64 != Config.encHash then .bad 0x20 (bitsOf h 0 64)
    else
      let table := s.regionTable ctx head h
      if table.any (· == .busy) then .busy
      else
        let es := table.map fun x => match x with | .val v => some v | _ => none
        let c := cfgOf r h (head + 64) (es.map fun e => regionOf (e.getD 0)) (if job then 1 else recCsize r)
        let ws := s.resolveAll ctx c.d (recWins r)
        let ok := headerOk h && es.all (fun e => (e.map (regionOk h)).getD false) && recordOk r && (job || gridOk r) &&
          (s.ctx ctx).slots.toNat != 0 && dualOk c
        if !ok then .bad fail 0
        else
          match ws with
          | none => (match s.mapPoison ctx with | some a => .bad 0x11 a | none => .bad fail 0)
          | some ws =>
            match c.overBudget with
            | some (code, n) => .bad code n
            | none => .ok c (ws ++ List.replicate 8 Window.unused)
/-- The record of a launch or job, with record or card v, that fails its checks. An uncorrectable error has no instruction as its
origin: DET1 holds the kernel's entry (assumption 79). -/
def beginFault (code : Nat) (id : BitVec 64) (det0 v : Nat) : Record :=
  plainRecord code id det0 (if code = 0x11 then bitsOf v 0 72 + 64 else 0)
/-- What the checks read beside the record or card itself: the header and its region table, and of a job its launch record. -/
def State.checkSpans (s : State) (ctx v : Nat) (job : Bool) : List (Nat × Nat) :=
  let head := bitsOf v 0 72
  let h := match s.readRec ctx head 64 with | .val h => h | _ => 0
  (head, 64) :: (head + bitsOf h 64 32, 32 * bitsOf h 176 16) :: if job then [(bitsOf v 72 72, 256)] else []

/-! ### Job cards (R333, R335) -/

def cardJob (card v : Nat) : JobCfg where
  card := card
  gainMode := bitsOf v 264 2 == 1
  count := bitsOf v 216 32
  recbase := bitsOf v 144 72
  recsize := bitsOf v 248 16
  goff := bitsOf v 282 16
  minchunk := bitsOf v 266 16
  maxcl := bitsOf v 298 16
  tol := bitsOf v 768 128
/-- The enabled dies by stack number (R341). -/
def State.dies (s : State) : List Nat := (List.range 16).filter fun d => s.amc.enmask.getLsbD d
/-- The records homed on the first of n dies, which has the most (R341). -/
def homeCount (count n : Nat) : Nat :=
  let m := (count + 63) / 64
  64 * ((m + n - 1) / n) - (if count % 64 != 0 && (m - 1) % n == 0 then 64 - count % 64 else 0)
/-- The checks of the card itself. -/
def State.cardOk (s : State) (v : Nat) : Bool :=
  let j := cardJob 0 v
  let n := max 1 s.dies.length
  bitsOf v 586 22 == 0 && bitsOf v 314 262 == 0 && bitsOf v 264 2 < 2 && j.count != 0 && j.recsize ≥ 8 && j.recsize % 8 == 0 &&
  (j.gainMode || j.minchunk != 0) && j.recbase % 8 == 0 && bitsOf v 0 72 % 64 == 0 && bitsOf v 72 72 % 64 == 0 &&
  bitsOf v 640 128 == 0 && bitsOf v 608 32 == 0 && bitsOf v 576 10 == 0 &&
  (!j.gainMode || (j.goff % 8 == 0 && 8 ≤ j.goff && j.goff + 8 ≤ j.recsize &&
homeCount j.count n ≤ 65536))

/-! ### Loading windows at a placement (R349) -/

/-- Windows w0-w7 as a placement loads them: a page on the move, a failure, poison at an address, or the windows. -/
inductive Loaded
  | busy
  | bad
  | poison (a : Nat)
  | ok (ws : List Window)
  deriving DecidableEq, Repr
/-- Reloads windows w0-w7 of a launch or job from its launch record. -/
def State.launchWins (s : State) (w : Work) : Loaded :=
  let lost : Loaded := match s.mapPoison w.ctx with | some a => .poison a | none => .bad
  match s.readVA w.ctx (w.record + 128) 128 with
  | .busy => .busy
  | .bad code a _ => if code = 0x11 then .poison a else if code = 0 then lost else .bad
  | .ok bs =>
    let v := bytesNat bs
    match s.resolveAll w.ctx w.cfg.d ((List.range 8).map fun n => winOf (bitsOf v (128 * n) 128)) with
    | some ws => .ok ws
    | none => lost
/-- Whether they cannot be loaded, and the poison that was read. -/
def Loaded.failed : Loaded → Option (Option Nat)
  | .bad => some none
  | .poison a => some (some a)
  | _ => none

/-! ### Task records (R334 to R336, R396, R497) -/

/-- A task record as it is read. -/
structure TaskRec where
  mig : Bool
  user : Word
  ranges : List Win
  deriving DecidableEq, Repr
def JobCfg.recAt (j : JobCfg) (i : Nat) : Nat := j.recbase + i * j.recsize
/-- Reads the header and the ranges of a record and checks them (R335); none when the record fails. -/
def State.taskRec (s : State) (w : Work) (j : JobCfg) (i : Nat) : Option TaskRec :=
  match s.readRec w.ctx (j.recAt i) 8 with
  | .val h =>
    let n := bitsOf h 60 3
    if n > 4 || bitsOf h 32 28 != 0 || 8 + 16 * n > j.recsize || (j.gainMode && 8 + 16 * n > j.goff) then none
    else
      let rs := (List.range n).map fun k => s.readRec w.ctx (j.recAt i + 8 + 16 * k) 16
      let ws := rs.map fun r => match r with | .val v => some (winOf v) | _ => none
      if ws.any fun x => (x.map fun x => x.res != 0 || x.length == 0 || !(x.r || x.w) || x.tstride > 40).getD true then none
      else some ⟨bitOf h 63, BitVec.ofNat 32 h, ws.filterMap id⟩
  | _ => none
/-- Whether the reads of a task's dispatch must wait for a migration. -/
def State.taskBusy (s : State) (w : Work) (j : JobCfg) (i : Nat) : Bool :=
  s.readRec w.ctx (j.recAt i) (min j.recsize 72) == .busy || s.launchWins w == .busy
/-- Bytes of arguments: address and length. -/
def TaskRec.args (t : TaskRec) (j : JobCfg) (i : Nat) : Nat × Nat :=
  (j.recAt i + 8 + 16 * t.ranges.length, j.recsize - (8 + 16 * t.ranges.length))
/-- In verify mode the windows of a task and of its launch break R396. -/
def State.taskClash (s : State) (w : Work) (t : TaskRec) : Bool :=
  let own := match s.launchWins w with | .ok xs => xs | _ => []
  w.cfg.det == 2 && verifyBad (own.map (fun x => ⟨x.base, x.length, x.r, x.w, 0, 0⟩) ++ t.ranges)
/-- What a task's dispatch loads: its windows and its argument span; none when a span is in no map entry, or in verify mode
when the windows break R396. -/
def State.taskLoad (s : State) (w : Work) (j : JobCfg) (i : Nat) (t : TaskRec) :
    Option (List Window × Option (Nat × Nat × Space × Nat)) :=
  let ws := t.ranges.map (s.resolveWin w.ctx w.cfg.d true)
  let own := match s.launchWins w with | .ok xs => some xs | _ => none
  let (a, n) := t.args j i
  let arg := if n = 0 then some none else (s.mapOf w.ctx [(a, n)]).map fun e => some (a, a + n - 1, e.space, e.ibase + (a - e.vbase))
  if s.taskClash w t then none
  else match arg with
    | none => none
    | some g =>
      if own.isSome && ws.all (·.isSome) then
        some (own.getD [] ++ ws.filterMap id ++ List.replicate (8 - ws.length) Window.unused, g)
      else none
/-- The poison by which a task with a sound record cannot be loaded: of its launch record or of the address map (R356, R495). A record
that cannot be read is TASK_INVALID (R323). -/
def State.taskPoison (s : State) (w : Work) (j : JobCfg) (i : Nat) : Option Nat :=
  (s.taskRec w j i).bind fun t => match s.launchWins w with
    | .poison a => some a
    | .ok _ => if s.taskClash w t then none else s.mapPoison w.ctx
    | _ => none
/-- What a placement reads of a launch or job: the windows of its launch record, and a small kernel's code. -/
def placeSpans (w : Work) : List (Nat × Nat) :=
  [(w.record + 128, 128), (w.cfg.entry.toNat, if w.cfg.codesize > 16384 then 0 else w.cfg.codesize)]
/-- And of a task its record. -/
def taskSpan (j : JobCfg) (i : Nat) : Nat × Nat := (j.recAt i, min j.recsize 72)

end Sys2Proof.Machine
end

