-- ==== Sys2Proof/Machine/Place.lean ====
section
/-! DEFINITION. Placement: the free resources of a core, the physical cluster that takes a unit, its save slot, and the state
its threads start with (R86, R88, R90, R92, R172, R206, R224, R328 to R330, R361, R383, R469, R475, R479). -/

namespace Sys2Proof.Machine

/-! ### Resources (R12, R329) -/

/-- Whether a unit holds its cores. -/
def Placed.onCore (u : Placed) : Bool := u.state != .saved
/-- What a retired workgroup of a restored cluster has for its core, and a warp whose threads had all exited for its slot (R111). -/
def noCore : Nat := 1024
def noSlot : Nat := 32
/-- A launch as far as it takes resources for n warps. -/
def LaunchCfg.forWarps (c : LaunchCfg) (n : Nat) : LaunchCfg := { c with warps := n }
/-- The workgroups on a core, with the launch as far as they take its resources: for the warps that have a slot. -/
def State.onCore (s : State) (core : Nat) : List (LaunchCfg × Workgroup) :=
  s.units.flatMap fun u => if u.onCore then (u.wgs.filter (·.core == core)).map fun g =>
      (u.cfg.forWarps (g.warps.filter (·.slot != noSlot)).length, g)
    else []
/-- Free warp slots of a core, ascending. -/
def State.freeSlots (s : State) (core : Nat) : List Nat :=
  let used := (s.onCore core).flatMap fun (_, g) => g.warps.map (·.slot)
  (List.range Config.warpSlots).filter fun k => !used.contains k
/-- Whether a workgroup fits on a core. Entries of the graph pool are a resource in deterministic mode only: those that the core's warps
neither reserve nor hold beyond their reserve (R224, R329; assumption 90). -/
def State.fits (s : State) (c : LaunchCfg) (core : Nat) : Bool :=
  let on := s.onCore core
  let sum (f : LaunchCfg → Nat) : Nat := sumOf (on.map fun (k, _) => f k)
  decide ((s.freeSlots core).length ≥ c.warps) && decide (sum (·.rows) + c.rows ≤ Config.regRows) &&
  decide (sum (·.tileNeed) + c.tileNeed ≤ Config.coreTiles) && decide (sum (·.spadNeed) + c.spadNeed ≤ Config.spadBytes) &&
  decide (sum (·.bars) + c.bars ≤ Config.coreBars) && decide (sum (·.lhandles) + c.lhandles ≤ Config.coreHandles) &&
  (c.det == 0 || decide (s.poolTaken core + c.nodeNeed ≤ Config.graphPool))
/-- The cores of a physical cluster that fit one workgroup each, lowest first. -/
def State.fitting (s : State) (c : LaunchCfg) (pcl : Nat) : List Nat :=
  ((List.range Config.clusterCores).map (4 * pcl + ·)).filter (s.fits c)
def State.takes (s : State) (c : LaunchCfg) (pcl : Nat) : Bool := (s.fitting c pcl).length ≥ c.csize
/-- Every physical cluster of the enabled dies in the order of R330: cluster 0 of each die, then cluster 1, and so on. -/
def State.allClusters (s : State) : List Nat :=
  (List.range Config.dieClusters).flatMap fun k => s.dies.map fun d => Config.dieClusters * d + k
/-- The place of a cluster in that order over 16 dies. -/
def clusterRank (pcl : Nat) : Nat := pcl % Config.dieClusters * 16 + pcl / Config.dieClusters
/-- The same order, starting after the cluster last used. -/
def State.visit (s : State) : List Nat :=
  match s.lastPcl with
  | none => s.allClusters
  | some p =>
    (s.allClusters.filter fun q => decide (clusterRank p < clusterRank q)) ++
      s.allClusters.filter fun q => decide (clusterRank q ≤ clusterRank p)
/-- The physical cluster that takes a cluster of a grid. -/
def State.choose (s : State) (c : LaunchCfg) : Option Nat := s.visit.find? (s.takes c)
/-- The lowest free save slot of a context; the manual fixes no choice (assumption 41). -/
def State.freeSave (s : State) (ctx : Nat) : Option Nat :=
  let used := (s.units.filter (·.ctx == ctx)).map (·.saveSlot)
  (List.range (s.ctx ctx).slots.toNat).find? fun k => !used.contains k

/-! ### The state at dispatch (R86, R88, R90, R206, R497) -/

def GReg.zero (c : LaunchCfg) : GReg := ⟨0, zeroSh c, 0⟩
/-- The argument register of a task. -/
def argReg (arg : Option (Nat × Nat × Space × Nat)) : AReg :=
  match arg with
  | none => AReg.zero
  | some (b, l, sp, _) =>
    let peer := match sp with | .peer _ => 16 | _ => 0
    ⟨BitVec.ofNat 72 b, BitVec.ofNat 72 b, BitVec.ofNat 72 l,
     BitVec.ofNat 32 (1 + 4 + peer + (if sp == .host then 32 else 0) + 64), 0⟩
/-- The preloaded registers of a thread. -/
def preload (u : Placed) (job : Bool) (wg warp lane : Nat) (n : Nat) : GReg :=
  let v : Option Nat := match n with
    | 1 => some (32 * warp + lane)
    | 2 => some (if job then u.idx else u.idx * u.cfg.csize + wg)
    | 3 => some u.idx
    | 4 => some (if job then 0 else wg)
    | 5 => some (if job then u.idx else 0)
    | 6 => some u.launchid.toNat
    | _ => none
  match v with
  | some x => if n ≥ 1 && u.cfg.preload.getLsbD (n - 1) then ⟨BitVec.ofNat 32 x, zeroSh u.cfg, 0⟩ else GReg.zero u.cfg
  | none => GReg.zero u.cfg
def freshThread (u : Placed) (job : Bool) (wg warp lane : Nat) : Thread where
  pc := u.cfg.entry
  g := (List.range u.cfg.gregs).map (preload u job wg warp lane)
  p := (List.range 7).map fun _ => ⟨false, 0⟩
  a := (List.range 8).map fun n =>
    if n = 0 && u.cfg.preload.getLsbD 6 then (if job then argReg u.arg else deriveWindow u.windows 0) else AReg.zero
  draws := 0
  hints := Hints.none
  clkHi := 0
  retHi := 0
  exited := false
  defer := none
  ckpt := none
  busy := none
  acq := []
  acqTime := 0
  stopped := false
  step := false
  stepDone := false
  fenceAt := none
  granted := false
  parked := none
  barWait := none
  ordPos := none
  matched := none
  barSeen := false
def freshWarp (u : Placed) (job : Bool) (wg warp slot : Nat) : Warp where
  threads := (List.range 32).map (freshThread u job wg warp)
  tags := List.replicate 8 .free
  ld := 0
  st := 0
  xf := 0
  tl := 0
  sb := []
  pend := []
  arrival := none
  retired := 0
  gwct := 0
  seen := []
  tiles := List.replicate u.cfg.tiles Tile.fresh
  graph := []
  mxstat := 0
  digest := 0
  slot := slot
  ckpt := none
  stall := 0
  resumeAt := none
def freshWg (u : Placed) (job : Bool) (wg core : Nat) (slots : List Nat) : Workgroup where
  core := core
  warps := (List.range u.cfg.warps).map fun w => freshWarp u job wg w ((slots[w]?).getD 0)
  bars := List.replicate 32 Barrier.zero
  handles := List.replicate u.cfg.lhandles none

/-! ### Committing a unit (R330, R469, R475, R479) -/

/-- What a unit is placed for. -/
structure PlaceArgs where
  work : Work
  idx : Nat
  windows : List Window
  arg : Option (Nat × Nat × Space × Nat)
  user : Word
  cores : List Nat
  pcl : Nat
  slot : Nat
  rerun : Bool
  deriving DecidableEq, Repr
/-- Starts the samplers of a core for a context whose first warp is dispatched there (R469). -/
def State.startSampler (s : State) (ctx core : Nat) : State :=
  let v := s.watchWord ctx 0
  if !bitOf v 31 || bitsOf v 0 24 = 0 then s
  else s.modCore core fun c =>
    if c.samplers.any (·.ctx == ctx) then c else { c with samplers := c.samplers ++ [⟨ctx, s.clk, s.clk, 31, []⟩] }
/-- Files every live thread of a unit by its PC; their bundles issue from the next clk on (R479). -/
def State.fileUnit (s : State) (id : Nat) : State :=
  match s.unit? id with
  | none => s
  | some u => (u.wgs.zipIdx).foldl (fun s (g, gi) =>
      let ts := (g.warps.zipIdx).flatMap fun (w, wi) => w.live.map fun l => (wi, l)
      (s.file id gi g.core ts s.clk (s.clk + 1) false).startSampler u.ctx g.core) s
/-- The unit that a placement makes. -/
def unitOf (s : State) (a : PlaceArgs) : Placed :=
  let u : Placed :=
    { id := s.nextId, work := a.work.id, idx := a.idx, ctx := a.work.ctx, queue := a.work.queue, launchid := a.work.launchid
      cfg := a.work.cfg, wgs := [], windows := a.windows, arg := a.arg, code := [], spad := [], stash := [], pcl := a.pcl
      state := .running, arming := false, committed := s.nextId, user := a.user, engDigest := 0, jsubs := 0, turn := 0, turnCount := 0
      preemptReq := false, saveSlot := a.slot, rerun := a.rerun, faulted := false, swapped := false, gwct := 0
      fetched := some [], stopAt := false, stepTurn := false, dumps := [] }
  { u with wgs := (a.cores.zipIdx).map fun (core, j) => freshWg u a.work.job.isSome j core (s.freeSlots core) }
/-- The code of a small kernel can be loaded now: none of its pages is on the move. -/
def State.codeReady (s : State) (ctx : Nat) (c : LaunchCfg) : Bool :=
  decide (c.codesize > 16384) || s.readVA ctx c.entry.toNat c.codesize != .busy
/-- Loads a small kernel's whole code before its first warp is dispatched; a read that fails ends the unit, with the entry as the
origin of an uncorrectable error (assumption 40). -/
def State.loadCode (s : State) (u : Placed) : State :=
  if u.cfg.codesize > 16384 then s
  else
    match s.readVA u.ctx u.cfg.entry.toNat u.cfg.codesize with
    | .ok bs => s.modUnit u.id fun u => { u with code := memWrite [] 0 bs, fetched := none }
    | .busy => s
    | .bad code a d =>
      let x := s.codeFault u.ctx u.cfg.entry.toNat code a d
      s.takeFault u.id 0 x.1 false u.cfg.entry [⟨0, List.range 32, x.2.1 % 2 ^ 64, x.2.2, []⟩]
/-- Whether a unit stood on one of some cores. -/
def Placed.coresMeet (u : Placed) (cores : List Nat) : Bool := u.wgs.any fun g => cores.contains g.core
/-- Commits a placement: the unit exists, its PLACE record is made, its threads are filed. -/
def State.commit (s : State) (a : PlaceArgs) : State :=
  let u := unitOf s a
  let s := { s with nextId := s.nextId + 1, units := s.units ++ [u], left := s.left.filter (!·.coresMeet a.cores) }
  let s := s.trace taskSrc u.ctx 2 (traceBits (s.clockOf .task) 0 u.idx 0 u.ctx 0 0 0 3)
  ((s.loadCode u).fileUnit u.id)

end Sys2Proof.Machine
end

