-- ==== Sys2Proof/Machine/Sched.lean ====
section
/-! DEFINITION. What may be placed or dispatched next: curve ranks, the reorder window, conflicts of declared ranges,
residency holds, gains, priorities (R320, R328, R331, R332, R337, R339, R341 to R345, R354, R355, R382 to R384, R397, R400,
R425, R449). -/

namespace Sys2Proof.Machine

/-! ### Positions (R332, R382, R384) -/

/-- The key of a cluster on the Hilbert curve of side 2^b: one level for each bit of the side, of which a level reads only the
lower bits again. -/
def curveKey : Nat → Nat → Nat → Nat → Nat
  | 0, _, _, d => d
  | b + 1, u, t, d =>
    let s := 2 ^ b
    let n := 2 ^ (b + 1)
    let rx := if bitOf u b then 1 else 0
    let ry := if bitOf t b then 1 else 0
    let d := d + s * s * ((3 * rx) ^^^ ry)
    let (u, t) := if ry = 0 then
        (let (u, t) := if rx = 1 then (n - 1 - u % n, n - 1 - t % n) else (u % n, t % n); (t, u))
      else (u % n, t % n)
    curveKey b u t d
/-- log2 of the smallest power of two that is at least k. -/
def ceilLog (k : Nat) : Nat := ((List.range (k + 1)).find? fun b => 2 ^ b ≥ k).getD 0
/-- Virtual cluster indices by curve rank. -/
def curveOrder (g : Nat × Nat × Nat) : List Nat :=
  let (x, y, z) := g
  let w := y * z
  if w = 1 then List.range x
  else
    let b := ceilLog (max x w)
    sortKey (fun v => curveKey b (v % x) (v / x) 0) (List.range (x * w))
/-- The virtual index of a position, and the position of an index. -/
def Work.virt (w : Work) (p : Nat) : Nat :=
  if w.job.isNone && w.cfg.det != 0 then ((curveOrder w.grid)[p]?).getD p else p
def Work.posOf (w : Work) (v : Nat) : Nat :=
  if w.job.isNone && w.cfg.det != 0 then (curveOrder w.grid).idxOf v else v
def PosState.isPublished : PosState → Bool | .published _ => true | _ => false
def PosState.isFinished : PosState → Bool | .finished .. => true | _ => false
/-- The oldest unpublished position. -/
def Work.oldest (w : Work) : Nat := w.pos.findIdx fun p => !p.isPublished
/-- The reorder window. -/
def Work.admits (w : Work) (n : Nat) : Bool := n < w.oldest + 256
def Work.setPos (w : Work) (n : Nat) (p : PosState) : Work := { w with pos := modAt w.pos n fun _ => p }
def Work.unitsOf (w : Work) (s : State) : List Placed := s.units.filter (·.work == w.id)
/-- A position that waits to be run again, and its second run, stop every other dispatch (R397). -/
def State.rerunning (s : State) (w : Work) : Bool := w.pos.any (· == .rerun) || (w.unitsOf s).any (·.rerun)
/-- A second run may start: everything else of the launch or job has retired (R397). -/
def State.rerunReady (s : State) (w : Work) : Bool :=
  w.pos.any (· == .rerun) && w.unitsOf s == [] && !(s.ctx w.ctx).held

/-! ### Conflicts (R337) -/

/-- A range: base, length, written. -/
abbrev Range := Nat × Nat × Bool
def conflicting (a b : List Range) : Bool :=
  a.any fun (x, n, w) => b.any fun (y, m, v) => (w || v) && overlaps x n y m
def unitRanges (u : Placed) : List Range := (u.windows.filter fun x => x.used && x.range).map fun x => (x.base, x.length, x.w)
/-- The ranges of a task: of its unit when it is placed, else of its record. -/
def State.rangesOf (s : State) (w : Work) (j : JobCfg) (i : Nat) : List Range :=
  match (w.unitsOf s).find? (·.idx == i) with
  | some u => unitRanges u
  | none => ((s.taskRec w j i).map fun t => t.ranges.map fun x => (x.base, x.length, x.w)).getD []
/-- Every conflicting earlier task of an ORDERED job has been published. -/
def State.depsMet (s : State) (w : Work) (j : JobCfg) (t : Nat) : Bool :=
  let rs := s.rangesOf w j t
  (List.range t).all fun u => ((w.pos[u]?).map PosState.isPublished).getD true || !conflicting rs (s.rangesOf w j u)
/-- A conflicting task of a GAIN job runs. -/
def State.clash (s : State) (w : Work) (j : JobCfg) (t : Nat) : Bool :=
  let rs := s.rangesOf w j t
  (w.unitsOf s).any fun u => conflicting rs (unitRanges u)

/-! ### Residency holds (R354, R355) -/

/-- Local spans of windows with their tangents, and of an argument span. -/
def holdSpans (d : Nat) (ws : List Window) (arg : Option (Nat × Nat × Space × Nat)) : List (Nat × Nat) :=
  ((ws.filter fun x => x.used && x.space == .local).flatMap fun x =>
    (x.ibase, x.length) :: (if x.stride = 0 then [] else (List.range d).map fun k => (x.ibase + (k + 1) * x.stride, x.length))) ++
  match arg with
  | some (b, l, .local, a) => [(a, l + 1 - b)]
  | _ => []
/-- What a request meets at its next page; a table that is poisoned with the address whose walk has read it. -/
inductive HoldRes
  | done (s : State) (held : List Nat)
  | missing (s : State) (held : List Nat) (ia : Nat)
  | busy (s : State) (held : List Nat)
  | invalid (s : State) (held : List Nat)
  | poisoned (s : State) (held : List Nat) (ia : Nat)
  deriving DecidableEq, Repr
/-- The hold on the page of an address that a request already has. -/
def State.ownHold (s : State) (ctx : Nat) (held : List Nat) (ia : Nat) : Option Hold :=
  s.home.holds.find? fun h => h.ctx == ctx && held.contains h.ia && h.ia ≤ ia && ia < h.ia + 2 ^ h.log
/-- Takes a hold on a page; a pin of it becomes the hold's. -/
def State.addHold (s : State) (ctx ia log leaf : Nat) : State :=
  let base := ia / 2 ^ log * 2 ^ log
  let hs := s.home.holds
  let hs := if hs.any fun h => h.ctx == ctx && h.ia == base && h.log == log then
      hs.map fun h => if h.ctx == ctx && h.ia == base && h.log == log then { h with count := h.count + 1 } else h
    else hs ++ [⟨ctx, base, log, BitVec.ofNat 64 leaf, 1, false⟩]
  { s with home := { s.home with holds := hs, pins := s.home.pins.filter fun h => !h.covers ctx ia } }
/-- Holds the pages of spans, one after another, until one is missing, on the move, or invalid. -/
def State.holdFrom (s : State) (ctx : Nat) : Nat → List (Nat × Nat) → List Nat → HoldRes
  | 0, _, held => .done s held
  | _, [], held => .done s held
  | fuel + 1, (a, n) :: rest, held =>
    if n = 0 then s.holdFrom ctx fuel rest held
    else
      let next (s : State) (base log : Nat) (held : List Nat) : HoldRes :=
        let stop := base + 2 ^ log
        if a + n ≤ stop then s.holdFrom ctx fuel rest held else s.holdFrom ctx fuel ((stop, a + n - stop) :: rest) held
      match s.ownHold ctx held a with
      | some h => next s h.ia h.log held
      | none =>
        match s.pinOf ctx a with
        | some h => next (s.addHold ctx a h.log h.leaf.toNat) h.ia h.log (h.ia :: held)
        | none =>
          match s.walk ctx a with
          | .page p =>
            if bitOf p.leaf 54 then .busy s held
            else
              let base := a / 2 ^ p.log * 2 ^ p.log
              next ((s.cacheWalk ctx a).addHold ctx a p.log p.leaf) base p.log (base :: held)
          | .missing => .missing s held a
          | .invalid _ => .invalid s held
          | .poisoned _ => .poisoned s held a
def State.hold (s : State) (ctx : Nat) (spans : List (Nat × Nat)) (held : List Nat) : HoldRes :=
  s.holdFrom ctx (sumOf (spans.map fun (_, n) => n / 4096 + 3) + spans.length) spans held
/-- Releases the pages of a request. A page that is no longer held translates by its pinned leaf until an invalidation covers it; one
that was invalidated while it was held by the tables (R353, R355). -/
def State.release (s : State) (ctx : Nat) (held : List Nat) : State :=
  let less (hs : List Hold) (a : Nat) : List Hold :=
    hs.map fun h => if h.ctx == ctx && h.ia == a && h.count > 0 then { h with count := h.count - 1 } else h
  let hs := held.foldl less s.home.holds
  { s with home := { s.home with
      holds := hs.filter (·.count > 0), pins := s.home.pins ++ hs.filter fun h => h.count == 0 && !h.stale } }
def Work.req (w : Work) (who : Option Nat) : Req := (w.reqs.find? (·.who == who)).getD ⟨who, [], none, false⟩
def Work.setReq (w : Work) (r : Req) : Work := { w with reqs := r :: w.reqs.filter (·.who != r.who) }
/-- Ends a request and releases its pages. -/
def State.dropReq (s : State) (work : Nat) (who : Option Nat) : State :=
  match s.work? work with
  | none => s
  | some w => (s.release w.ctx (w.req who).held).modWork work fun w => { w with reqs := w.reqs.filter (·.who != who) }
/-- What a task's request covers. -/
def State.taskSpans (s : State) (w : Work) (j : JobCfg) (i : Nat) : Option (List (Nat × Nat)) :=
  ((s.taskRec w j i).bind fun t => s.taskLoad w j i t).map fun (ws, arg) => holdSpans w.cfg.d (ws.drop 8) arg
/-- A task's hold waits for RETRY or for a migration (R354). -/
def State.holdWaits (s : State) (w : Work) (j : JobCfg) (i : Nat) : Bool :=
  let r := w.req (some i)
  r.waiting || s.taskBusy w j i ||
    (match s.taskSpans w j i with
     | some spans => (match s.hold w.ctx spans r.held with | .busy .. => true | _ => false)
     | none => false)

/-! ### Gains (R341, R342, R344, R400) -/

/-- Where a record is homed at first. -/
def State.homeDie (s : State) (r : Nat) : Nat := (s.dies[r / 64 % max 1 s.dies.length]?).getD 0
def gainPositive (g : Word) : Bool :=
  let x := decodeF fp32 g.toNat
  !x.isNan && x.cmp .zero == .gt
def gainGt (a b : Word) : Bool := (decodeF fp32 a.toNat).cmp (decodeF fp32 b.toNat) == .gt
/-- Tasks of positive gain that are not running, on the dies given. -/
def Work.gainWaiting (w : Work) (on : Nat → Bool) : List Nat :=
  (w.gains.zipIdx).filterMap fun (g, i) => if on g.home && !g.running && gainPositive g.gain then some i else none
/-- Those that may be dispatched now. -/
def State.gainCands (s : State) (w : Work) (j : JobCfg) (on : Nat → Bool) : List Nat :=
  if w.stopped != 0 || (w.cfg.det != 0 && w.gains.any (·.running)) then []
  else (w.gainWaiting on).filter fun i => !s.clash w j i && !s.holdWaits w j i
/-- The choice of R342: the largest gain, ties to the lower index. -/
def Work.bestGain (w : Work) (is : List Nat) : Option Nat :=
  let g (i : Nat) : Word := ((w.gains[i]?).map (·.gain)).getD 0
  is.foldl (fun b i => match b with
    | some k => if gainGt (g i) (g k) then some i else some k
    | none => some i) none

/-! ### What is ready, and who goes first (R320, R331, R397) -/

/-- A swapped-out unit is placeable again (R379, R449). -/
def State.awake (s : State) (u : Placed) : Bool :=
  !u.swapped ||
  s.ops.any (fun o => o.w.unit == u.id && (match o.kind with | .waitcmp .. => true | _ => false) && o.parts.any fun p => p.st == .done) ||
  u.wgs.any fun g => g.warps.any fun w => w.threads.any fun t => !t.exited && (t.ordPos.map fun p => decide (p ≤ (s.chain u).1)).getD false
/-- A saved unit may be restored (R362, R425). -/
def State.restorable (s : State) (u : Placed) : Bool :=
  u.state == .saved && !(s.ctx u.ctx).held && s.awake u && u.gwct ≤ s.clockOf .task
/-- Every cluster of each earlier launch of the queue has been placed (R320). -/
def State.earlierPlaced (s : State) (w : Work) : Bool :=
  ((s.queue w.queue).packets.takeWhile (·.work != some w.id)).all fun p => p.type != 1 ||
    (p.started && (match p.work.bind s.work? with
      | some v => v.job.isSome || v.finished || !v.pos.any fun x => x == .waiting || x == .holding
      | none => true))
/-- A launch may place unplaced clusters: resident, not held, none of its saved clusters in front. -/
def State.gridOpen (s : State) (w : Work) : Bool :=
  w.job.isNone && !w.finished && w.winResident && !(s.ctx w.ctx).held && !s.rerunning w && s.earlierPlaced w &&
    !(w.unitsOf s).any s.restorable
/-- The next virtual cluster outside deterministic mode. -/
def State.gridNext (s : State) (w : Work) : Option Nat :=
  if !s.gridOpen w || w.cfg.det != 0 then none
  else (w.pos.findIdx? fun p => p == .waiting).bind fun n => if w.admits n then some n else none
/-- The ranks of the next wave in deterministic mode (R383). -/
def State.waveNext (s : State) (w : Work) : Option (Nat × List Nat) :=
  if !s.gridOpen w || w.cfg.det = 0 then none
  else
    let a := w.waveA.getD (min w.pos.length (Config.dieClusters * s.dies.length))
    let lo := w.wave * a
    let ranks := (List.range a).map (lo + ·) |>.filter fun r => decide (r < w.pos.length)
    let done (p : PosState) : Bool := p.isPublished || p.isFinished
    if ranks = [] || !ranks.all w.admits || !(w.pos.take lo).all done || !ranks.all (fun r => w.pos[r]? == some .waiting) then none
    else some (a, ranks)
/-- The entry that an owner may pop from a deque: the bottom one, its dependencies met, inside the window (R339). -/
def State.dequeNext (s : State) (w : Work) (j : JobCfg) (pcl : Nat) : Option Nat :=
  if w.finished || (s.ctx w.ctx).held || s.rerunning w then none
  else ((w.deques.find? (·.1 == pcl)).bind fun d => d.2.head?).bind fun t =>
    if w.admits t && s.depsMet w j t && !s.holdWaits w j t then some t else none
/-- Whether a launch or job has a cluster or task ready to place or dispatch. -/
def State.workReady (s : State) (w : Work) : Bool :=
  (w.unitsOf s).any s.restorable || s.rerunReady w ||
  match w.job with
  | none => (s.gridNext w).isSome || (s.waveNext w).isSome
  | some j =>
    if j.gainMode then !w.finished && !(s.ctx w.ctx).held && !s.rerunning w && s.gainCands w j (fun _ => true) != []
    else w.deques.any fun d => (s.dequeNext w j d.1).isSome
/-- Nothing of higher priority is ready. -/
def State.topPriority (s : State) (w : Work) : Bool :=
  s.works.all fun v => v.cfg.priority ≤ w.cfg.priority || !s.workReady v
/-- Launches of equal priority from different queues take turns, in ascending queue number. -/
def State.itsTurn (s : State) (w : Work) : Bool :=
  let p := w.cfg.priority
  let qs := (s.works.filter fun v => v.job.isNone && v.cfg.priority == p && s.workReady v).map (·.queue)
  let last := natGet s.turns p
  let next := match (List.range 32).find? fun q => decide (last ≤ q) && qs.contains q with
    | some q => some q
    | none => (List.range 32).find? qs.contains
  next == some w.queue
def State.tookTurn (s : State) (w : Work) : State :=
  if w.job.isSome then s else { s with turns := natSet s.turns w.cfg.priority (w.queue + 1) }

end Sys2Proof.Machine
end

