-- ==== Sys2Proof/Machine/TaskEv.lean ====
section
/-! DEFINITION. The Task engine's front end and distributor: doorbells, packets, breakpoints, launches and jobs accepted and
started, completion signals, JSUB's submissions, residency requests, and the placement of grids (R317 to R336, R354, R355,
R372, R382 to R384, R399, R462, R463, R469, R480). -/

namespace Sys2Proof.Machine

/-! ### Doorbell and reset (R317, R323, R366) -/

def execTail (q : BitVec 5) (v : Word) (s : State) : Host.Outcome State Fault Refusal :=
  .next (s.modQueue q.toNat fun x => { x with tail := v })
/-- Unread packets are discarded, a packet that a breakpoint holds among them; records of the fault ring count from 1 again. -/
def execReset (q : BitVec 5) (s : State) : Host.Outcome State Fault Refusal :=
  let s := s.modQueue q.toNat fun x => { x with head := x.tail, halted := false, seq := 0 }
  .next (if s.watch.feOp.isNone && s.watch.feQueue == q then { s with watch := { s.watch with fePass := false } } else s)

/-! ### Starting a packet's work (R326, R327, R333, R335, R341) -/

/-- A launch or job under way. -/
def newWork (id q ctx : Nat) (launchid : BitVec 64) (record : Nat) (c : LaunchCfg) (ws : List Window) : Work where
  id := id
  launchid := launchid
  queue := q
  ctx := ctx
  cfg := c
  grid := (1, 1, 1)
  record := record
  windows := ws
  winResident := false
  pos := []
  job := none
  gains := []
  resid := 0
  sat := false
  nan := false
  faults := 0
  stopped := 0
  dealt := 0
  deques := []
  chainC := 0
  chainT := 0
  waveA := none
  wave := 0
  reqs := []
  child := false
  finished := false
  gwct := 0
  ending := 0
  lost := none
/-- What starting a launch or a job gives. -/
inductive Begun
  | busy
  | bad (code det0 : Nat)
  | ok (w : Work)
  deriving DecidableEq, Repr
/-- Begins the launch of a record with value r at an address. -/
def State.beginLaunch (s : State) (q ctx target r : Nat) (launchid : BitVec 64) : Begun :=
  match s.checkLaunch ctx r (bitsOf r 0 72) 0x21 false with
  | .busy => .busy
  | .bad code d => .bad code d
  | .ok c ws =>
    let (x, y, z) := recGrid r
    let w := newWork s.nextId q ctx launchid target c ws
    .ok { w with grid := (x, y, z), pos := List.replicate (x * y * z) .waiting }
/-- The checks of a card with value v (R335). -/
def State.checkJob (s : State) (ctx v : Nat) : Checked :=
  let l := s.readRec ctx (bitsOf v 72 72) 256
  let r := match l with | .val r => r | _ => 0
  if l == .busy then .busy
  else match s.checkLaunch ctx r (bitsOf v 0 72) 0x26 true with
    | .busy => .busy
    | .bad 0x20 d => .bad 0x20 d
    | x => if l == .bad || !s.cardOk v then .bad 0x26 0 else x
/-- The gain fields, which are read at the start: their spans, and their values; none for a record whose field cannot be read. -/
def gainSpans (j : JobCfg) : List (Nat × Nat) :=
  if j.gainMode then (List.range j.count).map fun i => (j.recAt i + j.goff, 8) else []

def State.readGains (s : State) (ctx : Nat) (j : JobCfg) : List Rec :=
  (List.range j.count).map fun i => s.readRec ctx (j.recAt i + j.goff) 8
/-- The clusters that a job uses (R338). -/
def State.jobClusters (s : State) (j : JobCfg) : List Nat :=
  s.allClusters.take (if j.maxcl = 0 then s.allClusters.length else j.maxcl)
/-- A job begins: gains read, run counts 0, RES0 taken. A record whose gain field cannot be read has gain 0 (its task fails, as
`State.failUnread` says). -/
def State.beginJob (s : State) (q ctx card v : Nat) (launchid : BitVec 64) (child : Bool) : Begun :=
  match s.checkJob ctx v with
  | .busy => .busy
  | .bad code d => .bad code d
  | .ok c ws =>
    let j := cardJob card v
    let gs := if j.gainMode then s.readGains ctx j else []
    if gs.any (· == .busy) then .busy
    else
      let w := newWork s.nextId q ctx launchid (bitsOf v 72 72) c ws
      let gain (r : Rec) (i : Nat) : GainRec :=
        ⟨match r with | .val g => BitVec.ofNat 32 g | _ => 0, 0, s.homeDie i, false, none, []⟩
      .ok { w with
        job := some j, pos := List.replicate j.count .waiting
        gains := (gs.zipIdx).map fun (r, i) => gain r i
        resid := (BitVec.ofNat 128 (v / 2 ^ 896)).toInt
        deques := (s.jobClusters j).map fun p => (p, []), child := child, winResident := false }
/-- USER of a task, from its record's header when that can be read; 0 for a cluster (R366). -/
def State.userAt (s : State) (w : Work) (i : Nat) : Word :=
  match w.job with
  | some j => match s.readRec w.ctx (j.recAt i) 8 with | .val h => BitVec.ofNat 32 h | _ => 0
  | none => 0
/-- The record of a task that fails its checks (R335, R500). -/
def State.taskInvalid (s : State) (w : Work) (i : Nat) : Record :=
  { plainRecord 0x27 w.launchid 0 0 with idx := i, user := s.userAt w i }
/-- The tasks of a GAIN job whose gain field could not be read fail at the start. -/
def State.failUnread (s : State) (w : Work) : State :=
  match w.job with
  | some j =>
    let bad := if j.gainMode then ((s.readGains w.ctx j).zipIdx).filterMap fun (r, i) => if r == .bad then some i else none else []
    bad.foldl (fun s i => (s.postTask w.queue (s.taskInvalid w i)).modWork w.id fun x => { x with faults := x.faults + 1 }) s
  | none => s
/-- Dispatch of a GAIN job stops when no task has positive gain and none is running (R345). -/
def Work.gainStop (w : Work) : Work :=
  match w.job with
  | some j =>
    if j.gainMode && w.stopped == 0 && !w.gains.any fun g => g.running || gainPositive g.gain then { w with stopped := 2 } else w
  | none => w
/-- The test after a task has retired (R345). -/
def Work.gainTest (w : Work) : Work :=
  match w.job with
  | some j =>
    (if j.gainMode && w.stopped == 0 && w.resid.natAbs < j.tol then { w with stopped := 1 } else w).gainStop
  | none => w
/-- Work that has begun is added. -/
def State.addWork (s : State) (w : Work) : State :=
  { s with nextId := s.nextId + 1, works := s.works ++ [w.gainStop] }.failUnread w

/-! ### Packets (R318 to R323, R463) -/

/-- Whether a packet's own work has completed: it has ended, and the GWCT of its stores has passed (R320, R436). -/
def State.packetDone (s : State) (p : Packet) : Bool :=
  p.type == 0 || p.type == 3 || (p.started &&
    ((p.work.bind s.work?).map fun w => w.finished && decide (w.gwct ≤ s.clockOf .task)).getD true)
/-- What the start of a launch, or of a job with its card at `card`, reads of memory. -/
def State.startSpans (s : State) (ctx card v : Nat) (job : Bool) : List (Nat × Nat) :=
  s.checkSpans ctx v job ++ if job then gainSpans (cardJob card v) else []
/-- Starts the packet at a place of a queue's list, from its record as it was read at acceptance (R322). A failed launch or job
completes with no work done. -/
def State.startPacket (s : State) (q i : Nat) : State :=
  let qu := s.queue q
  match qu.packets[i]? with
  | none => s
  | some p =>
    if p.started || (p.waitPrev && !(qu.packets.take i).all s.packetDone) then s
    else
      let ctx := qu.ctx.toNat
      let b := if p.type = 1 then s.beginLaunch q ctx p.target p.record.toNat p.id
        else s.beginJob q ctx p.target p.record.toNat p.id false
      let mark (s : State) (w : Option Nat) : State := s.modQueue q fun x => { x with
        packets := modAt x.packets i fun p => { p with started := true, work := w } }
      match b with
      | .busy => s
      | .bad code d => mark (s.postTask q (beginFault code p.id d p.record.toNat)) none
      | .ok w => mark ((s.addWork w).cacheRecs ctx (s.startSpans ctx p.target p.record.toNat (p.type != 1))) (some w.id)
/-- A refusal halts the queue; DET0 is the packet's index. -/
def State.refuse (s : State) (q : Nat) : State :=
  (s.postTask q (plainRecord 0x25 0 (s.queue q).head.toNat 0)).modQueue q fun x => { x with halted := true }
/-- A new launch identifier: the packet's, or the counter's (R327). -/
def State.takeId (s : State) (given : Nat) : State × BitVec 64 :=
  if given = 0 then ({ s with nextLaunch := s.nextLaunch + 1 }, s.nextLaunch) else (s, BitVec.ofNat 64 given)
/-- The lowest breakpoint that matches: the address of a launch or job, none for NOP and SIGNAL. -/
def State.bpHit (s : State) (q : Nat) (addr : Option Nat) : Option Nat :=
  s.watch.bps.findIdx? fun b => b.en && (!b.mqueue || b.queue.toNat == q) &&
    (!b.mentry || (addr.map (· == b.entry.toNat)).getD false)
/-- The front end halts at breakpoint n and holds the packet, or the job of a JSUB. -/
def State.bpHalt (s : State) (n q : Nat) (op : Option Nat) (ctx : Nat) (addr : Option Nat) : State :=
  let s := { s with watch := { s.watch with
    bps := modAt s.watch.bps n fun b => { b with hit := true }
    feHalted := true, feBp := BitVec.ofNat 3 n, feQueue := BitVec.ofNat 5 q, feOp := op, fePass := false } }
  s.trace taskSrc ctx 3 (traceBits (s.clockOf .task) (addr.getD 0) n 0 ctx 0 0 0 5)
/-- A queue with a packet that the front end may read. -/
def Queue.waiting (x : Queue) : Bool := x.enable && !x.halted && x.head != x.tail
/-- The queue that the front end serves next: ascending numbers, one packet each in a pass. -/
def State.nextQueue (s : State) : Option Nat :=
  let has (q : Nat) : Bool := (s.queue q).waiting
  match (List.range 32).find? fun q => decide (s.pass ≤ q) && has q with
  | some q => some q
  | none => (List.range 32).find? has
/-- The ring entry at HEAD: its address, its value (R317). -/
def State.packetAt (s : State) (q : Nat) : Nat :=
  (s.queue q).rbase.toNat * 4096 + 64 * ((s.queue q).head.toNat % 2 ^ (s.queue q).size.toNat)
def State.readPacket (s : State) (q : Nat) : Rec :=
  let qu := s.queue q
  match s.readSpan qu.ctx.toNat (if qu.host then .host else .local) (s.packetAt q) 64 with
  | .ok bs => .val (bytesNat bs)
  | .busy => .busy
  | .bad .. => .bad
def packetBad (v : Nat) : Bool := bitsOf v 0 8 > 3 || bitsOf v 10 54 != 0 || bitsOf v 336 176 != 0 || bitsOf v 64 72 % 64 != 0
/-- The Task engine and the home slices run: a start has succeeded (R487, R488). -/
def State.up (s : State) : Bool := s.amc.mode == 1 || s.amc.mode == 3
/-- Reads the packet at HEAD for an event of a packet type, and accepts, refuses or holds it. -/
def State.accept (s : State) (q type : Nat) : State :=
  let qu := s.queue q
  let ctx := qu.ctx.toNat
  if !s.up || !qu.waiting || s.watch.feHalted || s.nextQueue != some q then s
  else if qu.size.toNat < 4 || qu.size.toNat > 20 || (qu.tail - qu.head).toNat > 2 ^ qu.size.toNat then s.refuse q
  else match s.readPacket q with
    | .busy => s
    | .bad => s.refuse q
    | .val v =>
      if packetBad v then s.refuse q
      else if bitsOf v 0 8 != type then s
      else
        let target := bitsOf v 64 72
        -- the record that TARGET names
        let r := if type = 1 then s.readRec ctx target 256 else if type = 2 then s.readRec ctx target 128 else .val 0
        match r with
        | .busy => s
        | .bad => s.refuse q
        | .val rv =>
          let addr := if type = 1 || type = 2 then some (bitsOf rv 0 72) else none
          let passed := s.watch.fePass && s.watch.feOp.isNone && s.watch.feQueue.toNat == q
          match if passed then none else s.bpHit q addr with
          | some n => s.bpHalt n q none ctx addr
          | none =>
            let s := if passed then { s with watch := { s.watch with fePass := false } } else s
            let (s, id) := if type = 1 || type = 2 then s.takeId (bitsOf v 136 64) else (s, BitVec.ofNat 64 (bitsOf v 136 64))
            let p : Packet := ⟨type, target, id, bitOf v 8, type = 0 || type = 3, none, BitVec.ofNat 2048 rv, bitsOf v 200 72,
              BitVec.ofNat 64 (v / 2 ^ 272), bitOf v 9⟩
            let t := (s.modQueue q fun x => { x with head := x.head + 1, packets := x.packets ++ [p] })
            let t := { t with pass := q + 1 }.startPacket q qu.packets.length
            (t.cacheSpan ctx (if qu.host then .host else .local) (s.packetAt q) 64).cacheRecs ctx
              (if type = 1 then [(target, 256)] else if type = 2 then [(target, 128)] else [])
/-- An event of a packet type: a packet of the type that waits for those before it starts once they have completed;
otherwise the next packet is accepted. -/
def State.packetEvent (s : State) (q type : Nat) : State :=
  let ps := (s.queue q).packets
  match ((ps.zipIdx).find? fun (p, i) => !p.started && p.type == type &&
      (!p.waitPrev || (ps.take i).all s.packetDone)).map (·.2) with
  | some i => s.startPacket q i
  | none => s.accept q type
def execNopPacket (q : BitVec 5) (s : State) : Host.Outcome State Fault Refusal := .next (s.packetEvent q.toNat 0)
def execLaunch (q : BitVec 5) (s : State) : Host.Outcome State Fault Refusal := .next (s.packetEvent q.toNat 1)
def execJob (q : BitVec 5) (s : State) : Host.Outcome State Fault Refusal := .next (s.packetEvent q.toNat 2)
def execSignal (q : BitVec 5) (s : State) : Host.Outcome State Fault Refusal := .next (s.packetEvent q.toNat 3)

/-! ### PACKET_COMPLETION (R320, R321, R469) -/

/-- A write to a local span would wait for a migration. -/
def State.spanBusy (s : State) (ctx : Nat) (sp : Space) (a n : Nat) : Bool :=
  sp == .local && (lineParts a n).any fun (pa, _) => s.translate ctx pa true == .busy
/-- A write through a context's map: a wait, or its GWCT and the cause of its failure (2 unmapped, 3 memory-side). -/
def State.writeVA (s : State) (ctx va : Nat) (bs : List Byte) (tclear : Nat) : Option (State × Nat × Option Nat) :=
  match s.mapAddr ctx va bs.length with
  | none => some (s, 0, some 2)
  | some (sp, a) =>
    if s.spanBusy ctx sp a bs.length then none
    else
      let (t, g, bad) := s.writeSpan ctx sp a bs tclear
      some (t, g, bad.map fun _ => 3)
/-- The oldest packet of a queue issues its signal and its interrupt. -/
def execPacketCompletion (q : BitVec 5) (s : State) : Host.Outcome State Fault Refusal :=
  let qu := s.queue q.toNat
  match qu.packets with
  | [] => .next s
  | p :: ps =>
    let w := p.work.bind s.work?
    if !s.packetDone p then .next s
    else
      let ctx := qu.ctx.toNat
      let signal := if p.sigaddr = 0 then some (s, 0, none)
        else if p.sigaddr % 8 != 0 then some (s, 0, some 1)
        else s.writeVA ctx p.sigaddr (natBytes 8 p.sigval.toNat) ((w.map (·.gwct)).getD 0)
      match signal with
      | none => .next s
      | some (t, _, bad) =>
        let t := match bad with
          | some cause => t.postTask q.toNat (plainRecord 0x28 p.id (p.sigaddr % 2 ^ 64) cause)
          | none => if p.sigaddr = 0 then t else t.progress none
        let t := if p.irq then t.irq q.toNat else t
        let t := t.modQueue q.toNat fun x => { x with packets := ps }
        .next { t with
          works := t.works.filter fun v => some v.id != p.work
          cores := t.cores.map fun c => { c with samplers := c.samplers.filter (·.ctx != ctx) } }

/-! ### JOB_SUBMIT (R372, R398, R399) -/

/-- Unfinished jobs of a context that JSUB submitted. -/
def State.childJobs (s : State) (ctx : Nat) : Nat := (s.works.filter fun w => w.child && w.ctx == ctx && !w.finished).length
/-- The identifier of a submitted job reaches its register; the entry clears with the operation's last lane. -/
def State.jsubWrite (s : State) (o : MemOp) (dst lane : Nat) (id : BitVec 64) (last : Bool) : State :=
  if o.returned then s
  else
    let d := ((s.unit? o.w.unit).map fun u => zeroSh u.cfg).getD []
    s.modWarp o.w fun x =>
      let y := x.applyWrites [(lane, [.g dst (BitVec.ofNat 32 id.toNat) d 0])]
      if last then y.clearSb [.g dst] else y
def isJsub : OpKind → Bool | .jsub .. => true | _ => false
/-- A submission whose release condition holds. -/
def State.submitReady (s : State) (o : MemOp) : Bool := isJsub o.kind && s.taskReady o
/-- Submits the job of an operation's first lane, after those of the lower lanes of its issue (R368). -/
def State.submit (s : State) (o : MemOp) : State :=
  match o.kind with
  | .jsub q ctx dst ((lane, ea, given) :: rest) =>
    if !s.submitReady o || !s.laneFirst o || s.watch.feHalted || s.childJobs ctx ≥ 64 then s
    else
      let card := s.readRec ctx ea 128
      let passed := s.watch.fePass && s.watch.feOp == some o.id
      let addr := match card with | .val v => some (bitsOf v 0 72) | _ => none
      if card == .busy then s
      else match if passed || addr.isNone then none else s.bpHit q addr with
        | some n => s.bpHalt n q (some o.id) ctx addr
        | none =>
          let (t, id) := if given = 0 then s.takeId 0 else (s, BitVec.ofNat 64 (given - 1))
          let b := match card with | .val v => t.beginJob q ctx ea v id true | _ => .bad 0x26 0
          let t := if passed then { t with watch := { t.watch with fePass := false, feOp := none } } else t
          let t := (t.popItem o (.jsub q ctx dst rest) (rest != [])).jsubWrite o dst lane id (rest == [])
          match b with
          | .busy => s
          | .bad code d => t.postTask q (beginFault code id d (addr.getD 0))
          | .ok w => (t.addWork w).cacheRecs ctx ((ea, 128) :: match card with
            | .val v => s.startSpans ctx ea v true
            | _ => [])
  | .jsub .. => s.dropOp o.id
  | _ => s
def execJobSubmit (op : Nat) (s : State) : Host.Outcome State Fault Refusal :=
  .next (((s.op? op).map s.submit).getD s)

/-! ### RESIDENCY_HOLD (R354, R355) -/

/-- The record of a task or a launch that cannot be made ready: of poison that was read at an address, which no instruction has caused,
with the kernel's entry in DET1 (R356, R495; assumption 79), or that of its own failure. -/
def Work.lost11 (w : Work) (r : Record) : Option Nat → Record
  | some a => { r with code := 0x11, det0 := BitVec.ofNat 64 a, det1 := BitVec.ofNat 64 w.cfg.entry.toNat }
  | none => r
/-- A task that fails before it runs: its record, its count, its pages, its gain (R335, R343). -/
def State.failTask (s : State) (w : Work) (j : JobCfg) (i : Nat) (poison : Option Nat) : State :=
  let s := (s.postTask w.queue (w.lost11 (s.taskInvalid w i) poison)).dropReq w.id (some i)
  s.modWork w.id fun x =>
    let y : Work := { x with
      faults := x.faults + 1
      pos := modAt x.pos i fun _ => if j.gainMode then .waiting else .finished 0 true 0 false 0
      gains := modAt x.gains i (gainRetire true)
      deques := x.deques.map fun (d : Nat × List Nat) => (d.1, d.2.filter (· != i)) }
    y.gainTest
/-- A launch that fails while its windows are made resident. -/
def State.failLaunch (s : State) (w : Work) (poison : Option Nat) : State :=
  ((s.postTask w.queue (w.lost11 (plainRecord 0x21 w.launchid 0 0) poison)).dropReq w.id none).modWork w.id fun x => { x with finished := true }
/-- A request goes on until its pages are held, or one is missing or on the move, or a table cannot be read or used; `bad` is told the
address whose walk has met poison. -/
def State.request (s : State) (w : Work) (who : Option Nat) (spans : List (Nat × Nat)) (ok : State → State)
    (bad : Option Nat → State → State) : State :=
  let r := w.req who
  let save (s : State) (r : Req) : State := s.modWork w.id (·.setReq r)
  if r.waiting then s
  else match s.hold w.ctx spans r.held with
    | .done t held => ok (save t { r with held := held, posted := none })
    | .busy t held => save t { r with held := held }
    | .missing t held ia =>
      let t := if r.posted == some ia then t else t.postTask w.queue (plainRecord 0x30 w.launchid ia 0)
      save t { r with held := held, posted := some ia, waiting := true }
    | .invalid t held => bad none (save t { r with held := held })
    | .poisoned t held ia => bad (some ia) (save t { r with held := held })
/-- A task whose pages may be asked for: dealt, or of positive gain and not running. -/
def Work.mayHold (w : Work) (j : JobCfg) (i : Nat) : Bool :=
  w.pos[i]? == some .waiting && w.stopped == 0 &&
    (if j.gainMode then ((w.gains[i]?).map fun g => !g.running && gainPositive g.gain).getD false
     else w.deques.any fun d => d.2.contains i)
def execResidencyHold (work idx : Nat) (s : State) : Host.Outcome State Fault Refusal :=
  match s.work? work with
  | none => .next s
  | some w =>
    match w.job with
    | none =>
      if w.winResident || w.finished then .next s
      else .next (s.request w none (holdSpans w.cfg.d (w.windows.take 8) none)
        (fun t => t.modWork work fun x => { x with winResident := true }) (fun p t => t.failLaunch w p))
    | some j =>
      match s.taskSpans w j idx with
      | none => .next s
      | some spans =>
        if !w.mayHold j idx || s.taskBusy w j idx then .next s
        else .next (s.request w (some idx) spans
          (fun t => (t.modWork work fun x => x.setPos idx .holding).cacheRecs w.ctx [taskSpan j idx])
          (fun p t => t.failTask w j idx p))

/-! ### Placing grids (R328 to R331, R382 to R384) -/

/-- Commits a cluster of a launch on a physical cluster that takes it, with its windows reloaded, when a save slot is free and no
page of its record or code is on the move (R349, R479). -/
def State.commitAt (s : State) (w : Work) (n pcl : Nat) (again : Bool) : Option State :=
  match s.launchWins w, s.freeSave w.ctx with
  | .ok ws, some slot =>
    if !s.codeReady w.ctx w.cfg then none
    else
      let t := s.commit ⟨w, w.virt n, ws ++ List.replicate 8 Window.unused, none, 0, (s.fitting w.cfg pcl).take w.cfg.csize, pcl,
        slot, again⟩
      some ((t.modWork w.id fun x => x.setPos n .placed).cacheRecs w.ctx (placeSpans w))
  | _, _ => none
def State.placeAt (s : State) (w : Work) (n pcl : Nat) : Option State := s.commitAt w n pcl false
/-- A launch whose windows cannot be loaded any more fails: what it has not placed counts as faulted (R349, assumption 91). -/
def State.failRest (s : State) (w : Work) (poison : Option Nat) : State :=
  let fail (p : PosState) : PosState := if p == .waiting || p == .rerun then .finished 0 true 0 false 0 else p
  (s.postTask w.queue (w.lost11 (plainRecord 0x21 w.launchid 0 0) poison)).modWork w.id fun x => { x with pos := x.pos.map fail }
def execClusterPlace (work : Nat) (s : State) : Host.Outcome State Fault Refusal :=
  match s.work? work with
  | none => .next s
  | some w =>
    match s.gridNext w, s.choose w.cfg with
    | some n, some pcl =>
      if !s.topPriority w || !s.itsTurn w then .next s
      else match (s.launchWins w).failed, s.placeAt w n pcl with
        | some poison, _ => .next (s.failRest w poison)
        | none, some t => .next { t.tookTurn w with lastPcl := some pcl }
        | none, none => .next s
    | _, _ => .next s
/-- The cluster of a wave's rank: its die by its place in the wave, the lowest-numbered cluster that fits. -/
def State.waveCluster (s : State) (c : LaunchCfg) (a r : Nat) : Option Nat :=
  (s.dies[r % a / Config.dieClusters]?).bind fun d =>
    ((List.range Config.dieClusters).map (Config.dieClusters * d + ·)).find? (s.takes c)
/-- Places ranks one after another; none when one cannot be placed. -/
def State.placeWave (s : State) (w : Work) (a : Nat) : List Nat → Option State
  | [] => some s
  | r :: rs => ((s.waveCluster w.cfg a r).bind (s.placeAt w r)).bind fun t => t.placeWave w a rs
def execWavePlace (work : Nat) (s : State) : Host.Outcome State Fault Refusal :=
  match s.work? work with
  | none => .next s
  | some w =>
    match s.waveNext w with
    | none => .next s
    | some (a, ranks) =>
      if !s.topPriority w || !s.itsTurn w then .next s
      else match (s.launchWins w).failed, s.placeWave w a ranks with
        | some poison, _ => .next (s.failRest w poison)
        | none, some t => .next ((t.tookTurn w).modWork work fun x => { x with waveA := some a, wave := x.wave + 1 })
        | none, none => .next s

end Sys2Proof.Machine
end

