-- ==== Sys2Proof/Machine/JobEv.lean ====
section
/-! DEFINITION. Jobs: dealing, deques and thieves, the Setts, retirement and publication with their digests, the second run of
a mismatched task, and the end of a job (R332, R334 to R346, R373, R393 to R400, R407, R454, R475, R497). -/

namespace Sys2Proof.Machine

/-! ### ORDERED dealing and stealing (R338, R339) -/

def orderedJob (w : Work) : Option JobCfg := w.job.bind fun j => if j.gainMode then none else some j
def gainModeJob (w : Work) : Option JobCfg := w.job.bind fun j => if j.gainMode then some j else none
def Work.deque (w : Work) (pcl : Nat) : Option (List Nat) := (w.deques.find? (·.1 == pcl)).map (·.2)
def Work.setDeque (w : Work) (pcl : Nat) (ts : List Nat) : Work :=
  { w with deques := w.deques.map fun (p, us) => if p == pcl then (p, ts) else (p, us) }
/-- The size of the next chunk. -/
def chunkSize (minchunk remaining a : Nat) : Nat := min (min (max minchunk ((remaining + 2 * a - 1) / (2 * a))) remaining) 4096
def execChunkDeal (work pcl : Nat) (s : State) : Host.Outcome State Fault Refusal :=
  match s.work? work with
  | none => .next s
  | some w =>
    match orderedJob w, w.deque pcl with
    | some j, some [] =>
      let n := chunkSize j.minchunk (j.count - w.dealt) w.deques.length
      if w.finished || n = 0 then .next s
      else .next (s.modWork work fun x =>
        { (x.setDeque pcl ((List.range n).map (x.dealt + ·))) with dealt := x.dealt + n })
    | _, _ => .next s
/-- Commits a task as one workgroup on a core of a cluster (R336). -/
def State.dispatchTask (s : State) (w : Work) (j : JobCfg) (i pcl : Nat) (again : Bool) : Option State :=
  match s.taskRec w j i, s.fitting w.cfg pcl, s.freeSave w.ctx with
  | some t, core :: _, some slot =>
    if !s.codeReady w.ctx w.cfg then none
    else (s.taskLoad w j i t).map fun (ws, arg) =>
      ((s.commit ⟨w, i, ws, arg, t.user, [core], pcl, slot, again⟩).modWork w.id fun x => x.setPos i .placed).cacheRecs w.ctx
        (taskSpan j i :: placeSpans w)
  | _, _, _ => none
/-- A record about to be dispatched fails its checks (R335, R396, R497). -/
def State.taskBad (s : State) (w : Work) (j : JobCfg) (i : Nat) : Bool :=
  match s.taskRec w j i with
  | some t => !s.taskBusy w j i && (s.taskLoad w j i t).isNone
  | none => !s.taskBusy w j i
def execDequePop (work pcl : Nat) (s : State) : Host.Outcome State Fault Refusal :=
  match s.work? work with
  | none => .next s
  | some w =>
    match orderedJob w, s.dequeNext w ((w.job).getD (cardJob 0 0)) pcl with
    | some j, some t =>
      if !s.topPriority w then .next s
      else if s.taskBad w j t then .next (s.failTask w j t (s.taskPoison w j t))
      else if w.pos[t]? != some .holding then .next s
      else match s.dispatchTask w j t pcl false with
        | some s' => .next (s'.modWork work fun x => x.setDeque pcl (((x.deque pcl).getD []).drop 1))
        | none => .next s
    | _, _ => .next s
/-- Whether a record has MIG. -/
def State.mig (s : State) (w : Work) (j : JobCfg) (i : Nat) : Bool :=
  match s.readRec w.ctx (j.recAt i) 8 with
  | .val h => bitOf h 63
  | _ => false
/-- Entries that a thief takes from the top of a deque, lowest first. -/
def State.takeTop (s : State) (w : Work) (j : JobCfg) (cross : Bool) (ts : List Nat) : List Nat :=
  let half := ((ts.reverse).take ((ts.length + 1) / 2))
  ((if cross then half.takeWhile (s.mig w j) else half)).reverse
/-- The victims of a thief in the order it tries them: its die's fullest deque alone when its die holds an entry, else the
deques of the other dies. -/
def Work.victims (w : Work) (pcl : Nat) : List (Nat × List Nat) :=
  let full := w.deques.filter fun d => d.2 != []
  let order (ds : List (Nat × List Nat)) : List (Nat × List Nat) := sortKey (fun d => 4096 - d.2.length) (sortKey (·.1) ds)
  let die (p : Nat) : Nat := p / Config.dieClusters
  match order (full.filter fun d => die d.1 == die pcl) with
  | d :: _ => [d]
  | [] => order full
/-- The owner of a deque reaches for its last entry in this clk: it takes it before a thief. -/
def State.ownerTakes (s : State) (w : Work) (j : JobCfg) (pcl : Nat) (ts : List Nat) : Bool :=
  ts.length == 1 && s.topPriority w && s.takes w.cfg pcl &&
    ((s.dequeNext w j pcl).map fun t => w.pos[t]? == some .holding).getD false
def execDequeSteal (work pcl : Nat) (s : State) : Host.Outcome State Fault Refusal :=
  match s.work? work with
  | none => .next s
  | some w =>
    match orderedJob w, w.deque pcl with
    | some j, some [] =>
      if w.finished || w.dealt < j.count then .next s
      else
        let found := (w.victims pcl).findSome? fun (p, ts) =>
          match if s.ownerTakes w j p ts then [] else s.takeTop w j (p / Config.dieClusters != pcl / Config.dieClusters) ts with
          | [] => none
          | us => some (p, ts.take (ts.length - us.length), us)
        match found with
        | some (p, left, us) => .next (s.modWork work fun x => (x.setDeque p left).setDeque pcl us)
        | none => .next s
    | _, _ => .next s

/-! ### GAIN dispatch (R341, R342, R344, R400) -/

/-- The cluster of a die whose lowest core can take a task of a job. -/
def State.dieCluster (s : State) (w : Work) (die : Nat) : Option Nat :=
  let free := (w.deques.map (·.1)).filter fun p => p / Config.dieClusters == die && s.takes w.cfg p
  free.foldl (fun b p => match b with | some q => some (min p q) | none => some p) none
/-- An update of a job's tasks that its Setts may apply now: they apply those first, then test, then dispatch (R342). -/
def State.updatesDue (s : State) (w : Work) : Bool :=
  s.ops.any fun o => match o.kind with
    | .gain _ work _ _ => work == w.id && s.updateReady isGainOp o
    | .resadd work _ => work == w.id && s.updateReady isResidOp o && s.laneFirst o
    | _ => false
/-- Whether a job may dispatch a task now. -/
def State.gainOpen (s : State) (w : Work) : Bool :=
  !w.finished && !s.updatesDue w && w.stopped == 0 && !(s.ctx w.ctx).held && !s.rerunning w && s.topPriority w
/-- Dispatches record i on a die, which is its home from then on. -/
def State.gainDispatch (s : State) (w : Work) (j : JobCfg) (i die : Nat) : State :=
  if s.taskBad w j i then s.failTask w j i (s.taskPoison w j i)
  else if w.pos[i]? != some .holding then s
  else match (s.dieCluster w die).bind fun pcl => s.dispatchTask w j i pcl false with
    | some t => t.modGain w.id i fun g => { g with runs := g.runs + 1, running := true, home := die }
    | none => s
def execSettDispatch (work die : Nat) (s : State) : Host.Outcome State Fault Refusal :=
  match s.work? work with
  | none => .next s
  | some w =>
    match gainModeJob w with
    | none => .next s
    | some j =>
      let best := w.bestGain (s.gainCands w j fun d => w.cfg.det != 0 || d == die)
      match best with
      | some i =>
        if s.gainOpen w && (s.dieCluster w die).isSome && ((w.gains[i]?).map (·.home)) == some die then
          .next (s.gainDispatch w j i die)
        else .next s
      | none => .next s
/-- The die with the most waiting tasks, ties to the lower stack number. -/
def State.busiest (s : State) (w : Work) : Option Nat :=
  s.dies.foldl (fun b d => match b with
    | some e => if (w.gainWaiting (· == e)).length < (w.gainWaiting (· == d)).length then some d else some e
    | none => some d) none
def execGainSteal (work die : Nat) (s : State) : Host.Outcome State Fault Refusal :=
  match s.work? work with
  | none => .next s
  | some w =>
    match gainModeJob w, s.busiest w with
    | some j, some from_ =>
      if w.cfg.det != 0 || from_ == die || !s.gainOpen w || (s.dieCluster w die).isNone || s.gainCands w j (· == die) != [] then
        .next s
      else match w.bestGain ((s.gainCands w j (· == from_)).filter (s.mig w j)) with
        | some i => .next (s.gainDispatch w j i die)
        | none => .next s
    | _, _ => .next s

/-! ### RETIREMENT_PUBLISH (R154, R332, R343, R345, R365, R394 to R398, R407, R454) -/

/-- Operations that do not hold up their unit's retirement: in verify mode the updates wait for the publication. -/
def OpKind.detaches (det : Nat) : OpKind → Bool
  | .jsub .. | .ordpost .. | .pref => true
  | .gain .. | .resadd .. => det == 2
  | _ => false
/-- Everything of a unit has ended: its threads, its counters, its operations, the faults on their way to it, and no dump waits to
capture its registers (R154, R365, R477). -/
def State.unitDone (s : State) (u : Placed) : Bool :=
  (u.state == .running || u.state == .ended) &&
  u.wgs.all (fun g => g.warps.all fun w => w.live == [] &&
    (u.state == .ended || (w.ld == 0 && w.st == 0 && w.xf == 0 && w.tl == 0))) &&
  s.ops.all (fun o => o.w.unit != u.id || o.kind.detaches u.cfg.det) && !s.channels.any (·.w.unit == u.id) &&
  s.cores.all (fun c => !c.evalQ.any (·.w.unit == u.id) && !((c.evalCur.map (·.1.w.unit == u.id)).getD false)) &&
  (u.state == .ended || !s.home.faults.any (·.w.unit == u.id)) &&
  !s.watch.dumpQ.any fun d => d.entries.any (·.w.unit == u.id)
def Placed.digest (u : Placed) : Nat :=
  (u.wgs.foldl (fun d g => g.warps.foldl (fun d w => d + w.digest) d) u.engDigest).toNat
def Placed.maxGwct (u : Placed) : Nat := max u.gwct (maxOf (u.wgs.flatMap fun g => g.warps.map (·.gwct)))
/-- Takes a unit off its cores. -/
def State.clearUnit (s : State) (id : Nat) : State :=
  { s with
    units := s.units.filter (·.id != id)
    home := { s.home with faults := s.home.faults.filter (·.w.unit != id) }
    cores := s.cores.map fun c => { c with ports := c.ports.map fun p => { p with
      slots := p.slots.map fun sl => if (sl.map (·.unit == id)).getD false then none else sl
      queue := p.queue.filter (·.unit != id) } } }
/-- The operations that outlive a unit keep their warp's GWCT; outside verify mode they may then take effect. -/
def State.detachOps (s : State) (u : Placed) : State :=
  { s with ops := (s.ops.filter fun o => o.w.unit != u.id || o.kind != .pref).map fun o =>
      if o.w.unit == u.id then { o with returned := u.cfg.det != 2, tclear := ((s.warp? o.w).map (·.gwct)).getD o.tclear } else o }
/-- A position has retired: what is to be published of it. -/
def Placed.outcome (u : Placed) (faulted : Bool) (digest : Nat) : PosState := .finished u.id faulted digest u.rerun u.maxGwct
/-- PREEMPTED is set when every cluster of a context is saved: at a save, and when the last that is not saved leaves (R363). -/
def State.notePreempted (s : State) (c : Nat) : State :=
  let us := s.units.filter (·.ctx == c)
  if us.all (·.state == .saved) && ((s.ctx c).held || us != []) then s.modCtx c fun x => { x with preempted := true } else s
/-- A unit leaves its cores for good, and its position has an outcome. -/
def State.leaveCores (s : State) (w : Work) (n : Nat) (u : Placed) (faulted : Bool) (digest : Nat) : State :=
  let s := ((s.detachOps u).clearUnit u.id).modWork w.id fun x =>
    { (x.setPos n (u.outcome faulted digest)) with gwct := max x.gwct u.maxGwct }
  { s with left := s.left ++ [u] }.notePreempted u.ctx
/-- The unit at a position retires: once its stash is written back it leaves its cores. -/
def State.finishUnit (s : State) (w : Work) (n : Nat) (u : Placed) : State :=
  if u.stash.any (·.dirty != []) then s.writeBackAll u.id
  else s.leaveCores w n u u.faulted u.digest
/-- Where the digest of a logical index stands (R395). -/
def State.digestAddr (s : State) (w : Work) (i : Nat) : Nat :=
  let c := s.ctx w.ctx
  c.save.toNat * 4096 + Config.slotBytes * c.slots.toNat + 2 ^ 26 * w.queue + 8 * (i % 2 ^ 23)
/-- In verify mode the operations of a unit that is published take effect, or are discarded (R398). -/
def State.deferred (s : State) (w : Work) (n unit : Nat) (keep : Bool) : State :=
  let mine (o : MemOp) : Bool := unit != 0 && o.w.unit == unit
  let s' := if !keep then s else (s.ops.filter mine).foldl (fun (s : State) (o : MemOp) => match o.kind with
    | .gain set _ _ upd => upd.foldl (fun (s : State) (x : Nat × Nat × Word) =>
        s.modGain w.id x.2.1 (gainUpdate set (n == x.2.1) x.2.2)) s
    | .resadd _ vals => s.modWork w.id fun x => vals.foldl (fun x (_, v) => residAdd x v) x
    | .ordpost _ ps => s.modWork w.id fun x => ps.foldl (fun x (_, p) => chainPost p o.tclear x) x
    | _ => s) s
  { s' with ops := (s'.ops.filter fun o => !mine o || (keep && isJsub o.kind)).map fun o =>
      if mine o then { o with returned := true } else o }
/-- A task's retirement reaches its Sett (R343, R345). -/
def Work.gainPublish (n : Nat) (faulted : Bool) (w : Work) : Work :=
  { (w.setPos n .waiting) with gains := modAt w.gains n (gainRetire faulted) }.gainTest
/-- A position is published: dependants are released, pages given back, a launch with its last position ends. -/
def State.publish (s : State) (w : Work) (n unit : Nat) (faulted : Bool) : State :=
  let s := if w.cfg.det = 2 then s.deferred w n unit true else s
  let s := s.trace taskSrc w.ctx 2 (traceBits (s.clockOf .task) 0 (w.virt n) 0 w.ctx 0 0 0 4)
  let s := (s.progress none).dropReq w.id (some n)
  let s := s.modWork w.id fun x =>
    let x := if faulted && unit != 0 then { x with faults := x.faults + 1 } else x
    let x := if (gainModeJob x).isSome then x.gainPublish n faulted else x.setPos n (.published faulted)
    if x.job.isNone && x.pos.all PosState.isPublished then { x with finished := true } else x
  if ((s.work? w.id).map fun x => x.job.isNone && x.finished).getD false then s.dropReq w.id none else s
/-- A position that its digest ends as faulted: its record, its publication. An uncorrectable error of the entry has no instruction as
its origin: DET1 holds the kernel's entry (assumption 63). -/
def State.digestFault (s : State) (w : Work) (n unit code det0 det1 : Nat) : State :=
  let r : Record := { plainRecord code w.launchid det0 det1 with idx := w.virt n, user := s.userAt w n }
  (s.postTask w.queue r).publish w n unit true
/-- The updates of a position's unit are still to be applied, or in a GAIN job those of its tasks that arrive now (R342, R343); in verify
mode the publication itself applies the unit's (R398). -/
def State.updatesLeft (s : State) (w : Work) (unit : Nat) : Bool :=
  (w.cfg.det != 2 && s.ops.any fun o => o.w.unit == unit && unit != 0 && (isGainOp o.kind || isResidOp o.kind)) ||
    ((gainModeJob w).isSome && s.updatesDue w)
/-- Publishes a finished position once every lower one is, its stores' GWCT has passed and its updates have been applied (R332, R343,
R426), with its digest stored or compared; a digest whose entry is poisoned ends it with MEM_UNCORR (R495, assumption 63). -/
def State.publishAt (s : State) (w : Work) (n unit : Nat) (faulted : Bool) (digest : Nat) (again : Bool) (gwct : Nat) : State :=
  let a := s.digestAddr w (w.virt n)
  if (gainModeJob w).isNone && w.oldest != n || s.clockOf .task < gwct || s.updatesLeft w unit then s
  else if w.cfg.det = 0 || faulted then s.publish w n unit faulted
  else if w.cfg.det = 1 then
    ({ s with home := (writePhys s.home a (natBytes 8 digest)).1 }.publish w n unit false)
  else
    let stored := bytesNat (memRead s.home.mem a 8)
    if (poisonedIn s.home a 8).isSome then (s.deferred w n unit false).digestFault w n unit 0x11 a w.cfg.entry.toNat
    else if stored = digest then s.publish w n unit false
    else
      let s := s.deferred w n unit false
      if again then s.digestFault w n unit 0x14 stored digest
      else s.modWork w.id fun x => x.setPos n .rerun
def execRetirementPublish (work idx : Nat) (s : State) : Host.Outcome State Fault Refusal :=
  match s.work? work with
  | none => .next s
  | some w =>
    match w.pos[idx]? with
    | some .placed =>
      match (w.unitsOf s).find? (·.idx == w.virt idx) with
      | some u => .next (if s.unitDone u then s.finishUnit w idx u else s)
      | none => .next s
    | some (.finished unit faulted digest again gwct) => .next (s.publishAt w idx unit faulted digest again gwct)
    | _ => .next s

/-! ### VERIFY_RERUN (R397) -/

/-- The second run of a position, alone: a cluster of a grid is placed in its launch's turn as any other, a task on the first cluster of
its job that takes it (R330, R331). -/
def execVerifyRerun (work idx : Nat) (s : State) : Host.Outcome State Fault Refusal :=
  match s.work? work with
  | none => .next s
  | some w =>
    if w.pos[idx]? != some .rerun || w.unitsOf s != [] || (s.ctx w.ctx).held || !s.topPriority w then .next s
    else
      match w.job with
      | none =>
        if !s.itsTurn w then .next s
        else match (s.launchWins w).failed, (s.choose w.cfg).bind fun pcl => (s.commitAt w idx pcl true).map fun t => (t, pcl) with
          | some poison, _ => .next (s.failRest w poison)
          | none, some (t, pcl) => .next { t.tookTurn w with lastPcl := some pcl }
          | none, none => .next s
      | some j =>
        if s.taskBad w j idx then .next (s.failTask w j idx (s.taskPoison w j idx))
        else match ((w.deques.map (·.1)).find? (s.takes w.cfg)).bind fun pcl => s.dispatchTask w j idx pcl true with
          | some t => .next t
          | none => .next s

/-! ### JOB_END (R340, R346, R373) -/

/-- The lowest address whose write failed, with its cause. -/
def lowerLoss (l : Option (Nat × Nat)) (a : Nat) (cause : Option Nat) : Option (Nat × Nat) :=
  match cause, l with
  | none, l => l
  | some c, none => some (a, c)
  | some c, some (b, d) => if a < b then some (a, c) else some (b, d)
/-- Writes fields one after another; none while one must wait for a migration. -/
def State.writeFields (s : State) (w : Work) (tclear : Nat) : List (Nat × List Byte) → Option State
  | [] => some s
  | (a, bs) :: rest =>
    match s.writeVA w.ctx a bs tclear with
    | none => none
    | some (t, g, bad) =>
      let t := (t.modWork w.id fun x => { x with gwct := max x.gwct g, lost := lowerLoss x.lost a bad })
      (if bad.isNone then t.progress none else t).writeFields w tclear rest
def gainFields (w : Work) (j : JobCfg) : List (Nat × List Byte) :=
  (w.gains.zipIdx).map fun (g, i) => (j.recAt i + j.goff, natBytes 4 g.gain.toNat ++ natBytes 4 g.runs.toNat)
def resultFields (w : Work) (j : JobCfg) : List (Nat × List Byte) :=
  [(j.card + 80, natBytes 16 (BitVec.ofInt 128 w.resid).toNat),
   (j.card + 73, natBytes 1 ((if w.sat then 1 else 0) + (if w.nan then 2 else 0))), (j.card + 76, natBytes 4 w.faults)]
/-- Whether a job's end has come, and the STOP it writes. -/
def Work.stopCode (w : Work) (j : JobCfg) : Option Nat :=
  if j.gainMode then (if w.stopped != 0 && !w.gains.any (·.running) then some w.stopped else none)
  else if w.pos.all PosState.isPublished then some 3 else none
/-- A job ends: it writes gains and results, then STOP, then completes once the GWCT of its writes has passed. -/
def execJobEnd (work : Nat) (s : State) : Host.Outcome State Fault Refusal :=
  match s.work? work with
  | none => .next s
  | some w =>
    match w.job, w.job.bind w.stopCode with
    | some j, some stop =>
      if w.finished then .next s
      else if w.ending = 0 then
        match s.writeFields w 0 ((if j.gainMode then gainFields w j else []) ++ resultFields w j) with
        | some t => .next (t.modWork work fun x => { x with ending := 1 })
        | none => .next s
      else if w.ending = 1 then
        match s.writeFields w w.gwct [(j.card + 72, natBytes 1 stop)] with
        | some t =>
          let lost := ((t.work? work).bind (·.lost))
          let t := match lost with
            | some (a, c) => t.postTask w.queue (plainRecord 0x29 w.launchid (a % 2 ^ 64) c)
            | none => t
          .next (t.modWork work fun x => { x with ending := 2 })
        | none => .next s
      else if s.clockOf .task < w.gwct then .next s
      else
        let t := w.reqs.foldl (fun (t : State) (r : Req) => t.dropReq work r.who) s
        .next (if w.child then { t with works := t.works.filter (·.id != work) }
          else t.modWork work fun x => { x with finished := true })
    | _, _ => .next s

end Sys2Proof.Machine
end

