-- ==== Sys2Proof/Machine/Preempt.lean ====
section
/-! DEFINITION. Pre-emption, saving, restoring and swapping out; the commands of a context's register block (R27, R66, R110,
R111, R159, R278, R347, R353, R354, R359 to R364, R384, R389, R390, R394, R425, R448, R449, R458). -/

namespace Sys2Proof.Machine

/-! ### Commands of a context (R347, R353, R354, R362) -/

/-- A unit that a pre-emption may still stop. -/
def Placed.preemptable (u : Placed) : Bool := u.state == .running
/-- Asks units to stop; a pre-emption takes the place of a swap-out that has not begun (R448). -/
def State.askPreempt (s : State) (p : Placed → Bool) : State :=
  { s with units := s.units.map fun u => if p u && u.preemptable then { u with preemptReq := true, swapped := false } else u }
def execPreempt (c : BitVec 8) (s : State) : Host.Outcome State Fault Refusal :=
  .next (((s.modCtx c.toNat fun x => { x with held := true }).askPreempt (·.ctx == c.toNat)).notePreempted c.toNat)
def execResume (c : BitVec 8) (s : State) : Host.Outcome State Fault Refusal :=
  .next (s.modCtx c.toNat fun x => { x with held := false })
/-- Every waiting residency request of the context may go on. -/
def execRetry (c : BitVec 8) (s : State) : Host.Outcome State Fault Refusal :=
  .next { s with works := s.works.map fun w =>
    if w.ctx == c.toNat then { w with reqs := w.reqs.map fun r => { r with waiting := false } } else w }
/-- An invalidation begins, of the range that IVBASE and IVLOG give now. -/
def execInval (c : BitVec 8) (s : State) : Host.Outcome State Fault Refusal :=
  .next (s.modCtx c.toNat fun x => { x with invbusy := true, invs := x.invs ++ [(x.ivbase, x.ivlog)] })
/-- The slices drop the cached entries of a context whose slots cover bytes of a span, and the pins of its pages that are no longer held;
a page that is held is translated from its pinned leaf until its count is 0 (R353, R355). -/
def Home.uncache (h : Home) (ctx base n : Nat) : Home :=
  let under (x : Hold) : Bool := x.ctx == ctx && overlaps x.ia (2 ^ x.log) base n
  { h with
    tlb := h.tlb.filter fun (c, level, k, _) => c != ctx || !overlaps (k * 2 ^ (12 + 9 * level)) (2 ^ (12 + 9 * level)) base n
    pins := h.pins.filter (!under ·)
    holds := h.holds.map fun x => if under x then { x with stale := true } else x }
/-- Every home slice has dropped the cached entries of the pages of the oldest invalidation. INVBUSY clears with the last. -/
def execInvalidationDone (c : BitVec 8) (s : State) : Host.Outcome State Fault Refusal :=
  match (s.ctx c.toNat).invs with
  | [] => .next s
  | (base, log) :: rest =>
    .next ({ s with home := s.home.uncache c.toNat (base.toNat * 4096) (4096 * 2 ^ log.toNat) }.modCtx c.toNat fun y =>
      { y with invs := rest, invbusy := rest != [] })

/-! ### The victim of a pre-emption for priority (R359) -/

/-- The victim: of lowest priority below p, most recently committed. -/
def State.victim (s : State) (p : Nat) : Option Placed :=
  let cs := s.units.filter fun u => u.preemptable && u.cfg.priority < p
  cs.foldl (fun b u => match b with
    | some v =>
      if u.cfg.priority < v.cfg.priority || (u.cfg.priority == v.cfg.priority && v.committed < u.committed) then some u
      else some v
    | none => some u) none
/-! ### Stopping a unit (R66, R159, R278, R360, R390, R458) -/

def Placed.anyThread (u : Placed) (f : Thread → Bool) : Bool := u.wgs.any fun g => g.warps.any fun w => w.threads.any f
/-- A thread is in deferral; one that waits in FENCE or ORDWAIT is not (R159, R379, R451). -/
def Placed.deferring (u : Placed) (t : Thread) : Bool :=
  let fences : Bool := match u.fetch t.pc with
    | .word w => (match decode w with | some (.fence _) => true | _ => false)
    | _ => false
  !t.exited && t.defer.isSome && t.ordPos.isNone && !(t.fenceAt.isSome && fences)
/-- No live thread is in deferral, between a hint and its instruction, or inside an issue that has taken channels; a deterministic
unit stands between two turns (R66, R278, R390). -/
def Placed.stoppable (u : Placed) : Bool :=
  !u.anyThread (fun t => u.deferring t || (!t.exited && (t.hints != Hints.none || t.granted))) &&
    (u.cfg.det == 0 || u.turnCount == 0)
/-- The units that stop together with a unit: while software holds the context, all of it that is not deterministic (R159, R390,
assumption 59). -/
def State.stopSet (s : State) (u : Placed) : List Placed :=
  if u.cfg.det != 0 || !(s.ctx u.ctx).held then [u]
  else s.units.filter fun v => v.ctx == u.ctx && v.state == .running && v.cfg.det == 0
/-- Whether a unit's pre-emption takes effect now: each unit of its set may stop, and, while software holds the context, no thread of
the context is in deferral (R159). -/
def State.mayStop (s : State) (u : Placed) : Bool :=
  (s.stopSet u).all Placed.stoppable && (u.cfg.det != 0 || !(s.ctx u.ctx).held ||
    !(s.units.filter fun v => v.ctx == u.ctx && v.state == .running).any fun v => v.anyThread v.deferring)
/-- The match of a thread parked in WAITCMP: none when it is not, else its value and time when it has matched. -/
def State.parkedAt (s : State) (w : WarpId) (l : Nat) (t : Thread) : Option (Option (Nat × Nat)) :=
  t.busy.bind fun k => (s.ops.find? fun o => o.group == k && o.w == w && (match o.kind with | .waitcmp .. => true | _ => false)).map
    fun o =>
      let ps := o.laneParts l 0
      if ps.all (·.st == .done) then some (assemble ps, max (maxOf (ps.map (·.time))) o.tclear) else none
/-- A thread at the stop: what it is parked on. One whose unit has been restored, and whose compare has not been made again, stays as it
was restored (`fresh`; R458). -/
def State.stopThread (s : State) (w : WarpId) (fresh : Bool) (l : Nat) (t : Thread) : Thread :=
  match s.parkedAt w l t with
  | some m => { t with parked := some (t.parked.getD (s.now (s.coreOf w))), matched := m }
  | none =>
    if fresh && t.busy.isNone then t
    else { t with parked := if t.ordPos.isSome then t.parked else none, matched := none }
/-- The next turn of warp k of n from turn σ on. -/
def ownTurn (n k σ : Nat) : Nat := σ + (k + n - σ % n) % n
/-- A warp at the stop: in deterministic mode the rotation word of a parked warp names its next turn (R458). -/
def State.stopWarp (s : State) (u : Placed) (gi wi : Nat) (w : Warp) : Warp :=
  let id : WarpId := ⟨u.id, gi, wi⟩
  let parked := (w.threads.zipIdx).any fun (t, l) => !t.exited && (s.parkedAt id l t).isSome
  { w with
    threads := (w.threads.zipIdx).map fun (t, l) => s.stopThread id u.arming l t
    ckpt := if parked && u.cfg.det != 0 then w.ckpt.map fun c => { c with
        sigma := ownTurn (max 1 u.cfg.warps * max 1 u.wgs.length) (gi * u.cfg.warps + wi) u.turn, offset := 0 }
      else w.ckpt }
/-- Operations that a pre-emption discards. -/
def OpKind.dropped (swap : Bool) : OpKind → Bool
  | .load .. | .lds .. | .aldp .. | .tld _ | .loop _ | .pref | .arrive _ => true
  | .waitcmp .. => !swap
  | _ => false
/-- Takes a unit's threads out of their bins and ends its evaluations. -/
def State.emptyBins (s : State) (id : Nat) : State :=
  { s with cores := s.cores.map fun c => { c with
      ports := c.ports.map fun p => { p with
        slots := p.slots.map fun sl => if (sl.map (·.unit == id)).getD false then none else sl
        queue := p.queue.filter (·.unit != id) }
      evalQ := c.evalQ.filter (·.w.unit != id)
      evalCur := if (c.evalCur.map (·.1.w.unit == id)).getD false then none else c.evalCur } }
def State.stopUnit (s : State) (u : Placed) : State :=
  let s' := s.modUnit u.id fun u => { u with
    state := .stopping, stopAt := false, stepTurn := false, dumps := []
    wgs := (u.wgs.zipIdx).map fun (g, gi) => { g with warps := (g.warps.zipIdx).map fun (w, wi) => s.stopWarp u gi wi w } }
  { s' with ops := s'.ops.filter fun o => o.w.unit != u.id || !o.kind.dropped u.swapped }.emptyBins u.id

/-! ### Saving (R110, R111, R239, R360, R361, R364, R389, R394) -/

/-- What a saved unit keeps of a thread beside its slot: whether it has exited, its checkpoint, what it is parked on (R449), and of an
exited lane its draws, which tile draws go on from (R111, R196). -/
def savedThread (u : Placed) (job : Bool) (gi wi l : Nat) (t : Thread) : Thread :=
  { freshThread u job gi wi l with
    exited := t.exited, draws := if t.exited then t.draws else 0, ckpt := t.ckpt, parked := t.parked, ordPos := t.ordPos, matched := t.matched }
/-- What a saved unit keeps of a warp; of one whose threads had all exited also its digest partial and its count (R111, R394). -/
def savedWarp (u : Placed) (job : Bool) (gi wi : Nat) (w : Warp) : Warp :=
  { freshWarp u job gi wi w.slot with
    threads := (w.threads.zipIdx).map fun (t, l) => savedThread u job gi wi l t
    mxstat := w.mxstat, ckpt := w.ckpt
    digest := if w.live = [] then w.digest else 0
    retired := if w.live = [] then w.retired else 0 }
/-- The thread state of R361: exited, the monitor, the matched value and its time. -/
def Thread.saved (t : Thread) : List (Nat × List Byte) :=
  let (m, v, time) := match t.matched with
    | some (v, time) => (2, v, time)
    | none => (if t.parked.isSome && t.ordPos.isNone then 1 else 0, 0, 0)
  [(3360, natBytes 8 ((if t.exited then 1 else 0) + 2 * m) ++ natBytes 8 v ++ natBytes 8 time)]
/-- The rotation word and the digest partial of a warp part (R389, R394). -/
def WarpCkpt.saved (c : WarpCkpt) : List (Nat × List Byte) :=
  [(136, natBytes 8 (c.sigma * 2 ^ 16 + c.offset % 2 ^ 16) ++ natBytes 8 c.digest.toNat)]
/-- The bytes of a cluster's scratchpad. -/
def Placed.spadSize (u : Placed) : Nat := u.cfg.spadNeed * max 1 u.wgs.length
/-- What a save writes beside the checkpoints: the scratchpad, and each thread's state; the first MiB is a free value, whose meaning
the state keeps (assumption 43). -/
def State.saveImage (s : State) (u : Placed) : List (Nat × List Byte) :=
  (0, (Config.saveHead s.freeCtr).take (2 ^ 20)) :: (2 ^ 20, memRead u.spad 0 u.spadSize) ::
  ((u.wgs.zipIdx).flatMap fun (g, gi) => (g.warps.zipIdx).flatMap fun (w, wi) =>
    (if u.cfg.det = 0 then [] else shiftImage (warpSlot gi wi) ((w.ckpt.map WarpCkpt.saved).getD [])) ++
    (w.threads.zipIdx).flatMap fun (t, l) => shiftImage (threadSlot gi wi l) t.saved)
/-- A cluster is discarded and counts as faulted. -/
def State.discard (s : State) (u : Placed) (r : Record) : State :=
  let s := s.postTask u.queue r
  match s.workOf u with
  | some w => s.leaveCores w (w.posOf u.idx) u true 0
  | none => ((s.detachOps u).clearUnit u.id).notePreempted u.ctx
/-- The record of a unit's failure; that of a launch has INDEX 0 (R500). -/
def Placed.failRecord (u : Placed) (code det0 det1 : Nat) : Record :=
  { plainRecord code u.launchid det0 det1 with idx := if code = 0x21 then 0 else u.idx, user := u.user }
/-- A save or a restore that met a memory-side fault. -/
def State.saveFault (s : State) (u : Placed) : State :=
  (s.modCtx u.ctx fun x => { x with failed := true }).discard u (u.failRecord 0x18 (s.slotBase u % 2 ^ 64) 0x11)
/-- The unit is saved and leaves its cores, whose L1 contents go. -/
def State.saveUnit (s : State) (u : Placed) (ok : Bool) : State :=
  let img := s.saveImage u
  if !ok || s.slotBad u img then s.saveFault u
  else
    let job := ((s.workOf u).map (·.job.isSome)).getD false
    let cs := u.wgs.map (·.core)
    let g := u.maxGwct
    let t := s.detachOps u
    let t := { t.slotWrite u img with freeCtr := t.freeCtr + 1 }
    let t := t.modUnit u.id fun u => { u with
      state := .saved, preemptReq := false, gwct := g
      wgs := (u.wgs.zipIdx).map fun (w, gi) => { w with
        warps := (w.warps.zipIdx).map fun (x, wi) => savedWarp u job gi wi x } }
    let drop (c : Core) : Core := if cs.contains c.id then { c with l1 := [] } else c
    let t : State := { t with cores := t.cores.map drop }
    t.notePreempted u.ctx
/-- What a stopped unit still has under way. -/
def State.stopDone (s : State) (u : Placed) : Bool :=
  s.ops.all (fun o => o.w.unit != u.id || o.kind.detaches u.cfg.det || (match o.kind with
    | .waitcmp .. => true
    | .gain .. | .resadd .. => true
    | _ => false)) &&
  !s.channels.any (·.w.unit == u.id) && !s.home.faults.any (·.w.unit == u.id)
/-- A thread is inside WAITCMP, its compare made, or ORDWAIT since a time that lies 4,096 ticks of its core's clock back. -/
def Thread.longParked (t : Thread) (now : Nat) : Bool :=
  (t.busy.isSome || t.ordPos.isSome) && (t.parked.map fun k => decide (k + 4096 ≤ now)).getD false
/-- Every live thread has been parked for 4,096 ticks (R26, R379, R449). -/
def State.longParked (s : State) (u : Placed) : Bool :=
  u.anyThread (!·.exited) && u.wgs.all fun g => g.warps.all fun w => w.threads.all fun t => t.exited || t.longParked (s.now g.core)
/-- A stopped unit with nothing under way: it writes its stash back, then is saved; one whose threads had all exited retires. -/
def State.saveStopped (s : State) (u : Placed) (ok : Bool) : State :=
  if !u.anyThread (!·.exited) then s.modUnit u.id fun u => { u with state := .running, preemptReq := false }
  else if u.stash.any (·.dirty != []) then s.writeBackAll u.id
  else s.saveUnit u ok
/-- A pre-emption takes effect, or a stopped unit is saved. A swap-out is given up when a thread has gone on since. -/
def execPreemptionSave (unit : Nat) (ok : Bool) (s : State) : Host.Outcome State Fault Refusal :=
  match s.unit? unit with
  | none => .next s
  | some u =>
    if u.state == .running && u.preemptReq then
      if u.swapped && !s.longParked u then
        .next (s.modUnit unit fun u => { u with preemptReq := false, swapped := false })
      else .next (if s.mayStop u then (s.stopSet u).foldl State.stopUnit s else s)
    else .next (if u.state == .stopping && s.stopDone u then s.saveStopped u ok else s)

/-! ### SWAP_OUT (R379, R449) -/

def execSwapOut (unit : Nat) (s : State) : Host.Outcome State Fault Refusal :=
  match s.unit? unit with
  | none => .next s
  | some u =>
    if u.state == .running && !u.preemptReq && u.cfg.det == 0 && s.works.any s.workReady && s.longParked u then
      .next (s.modUnit unit fun u => { u with preemptReq := true, swapped := true })
    else .next s

/-! ### CLUSTER_RESTORE (R111, R362, R384, R390, R425, R449, R458) -/

/-- A g register, an address register and a predicate from a thread part of the slot (R361). -/
def State.slotG (s : State) (u : Placed) (o n : Nat) : GReg :=
  let b := s.slotRead u (o + 16 + 24 * n) 21
  let word (k : Nat) : Word := BitVec.ofNat 32 (bytesNat ((b.drop (4 * k)).take 4))
  ⟨word 0, (List.range u.cfg.d).map fun k => word (k + 1), BitVec.ofNat 8 (bytesNat (b.drop 20))⟩
def State.slotA (s : State) (u : Placed) (o n : Nat) : AReg :=
  let b := s.slotRead u (o + 3088 + 32 * n) 32
  let at_ (i k : Nat) : Nat := bytesNat ((b.drop i).take k)
  ⟨BitVec.ofNat 72 (at_ 0 9), BitVec.ofNat 72 (at_ 9 9), BitVec.ofNat 72 (at_ 18 9), BitVec.ofNat 32 (at_ 27 4),
    BitVec.ofNat 8 (at_ 31 1)⟩
def State.slotP (s : State) (u : Placed) (o n : Nat) : PReg :=
  let b := s.slotRead u (o + 3344 + 2 * n) 2
  ⟨bytesNat (b.take 1) % 2 == 1, BitVec.ofNat 8 (bytesNat (b.drop 1))⟩
/-- The instruction that stands at an address in memory. -/
def State.headInstr (s : State) (u : Placed) (pc : Nat) : Option Instr :=
  match s.readVA u.ctx pc 4 with
  | .ok bs => decode (bytesNat bs)
  | _ => none
/-- The registers that a thread part lists: its region entry's, and the operands of a WAITCMP at its head (R110, R447). -/
def State.listed (s : State) (u : Placed) (pc k : Nat) : List Nat × List Nat × List Nat :=
  let e := u.cfg.region k
  let g := onesOf e.g.toNat 128
  let a := onesOf e.a.toNat 8
  let own : List Nat × List Nat := match s.headInstr u pc with
    | some (.waitcmp g n _ _ b64) => ((List.range (if b64 then 2 else 1)).map (g.toNat + ·), [n.toNat])
    | _ => ([], [])
  ((g ++ own.1).eraseDups, (a ++ own.2).eraseDups, onesOf e.p.toNat 8)
def putAll {α : Type} (f : Nat → α) (ns : List Nat) (xs : List α) : List α := ns.foldl (fun xs n => modAt xs n fun _ => f n) xs
/-- A thread as it restarts: from its slot's thread part, or, before it has executed a REGION, from its dispatch state (R111). An exited
lane keeps its draws. In deterministic mode a thread that was parked is parked again (R458); otherwise it parks when it has compared
again (R449). -/
def State.loadThread (s : State) (u : Placed) (job : Bool) (gi wi l : Nat) (t : Thread) : Thread :=
  let o := threadSlot gi wi l
  let state := bytesNat (s.slotRead u (o + 3360) 8)
  let f : Thread := { freshThread u job gi wi l with
    exited := bitOf state 0
    draws := if bitOf state 0 then t.draws else 0
    parked := if bitsOf state 1 2 = 1 && u.cfg.det != 0 then some (s.clockOf .task) else none
    matched := if bitsOf state 1 2 = 2 && u.cfg.det != 0 then
        some (bytesNat (s.slotRead u (o + 3368) 8), bytesNat (s.slotRead u (o + 3376) 8))
      else none }
  if t.ckpt.isNone || f.exited then { f with ckpt := t.ckpt }
  else
    let pc := bytesNat (s.slotRead u o 9)
    let k := bytesNat (s.slotRead u (o + 9) 2)
    let draws := BitVec.ofNat 34 (bytesNat (s.slotRead u (o + 11) 5))
    let (gs, as, ps) := s.listed u pc k
    { f with
      pc := BitVec.ofNat 72 pc, draws := draws
      g := putAll (s.slotG u o) gs (List.replicate u.cfg.gregs (GReg.zero u.cfg))
      p := putAll (s.slotP u o) ps (List.replicate 7 ⟨false, 0⟩)
      a := putAll (s.slotA u o) as (List.replicate 8 AReg.zero)
      ckpt := some ⟨BitVec.ofNat 72 pc, k, gs.map fun n => (n, s.slotG u o n), ps.map fun n => (n, s.slotP u o n),
        as.map fun n => (n, s.slotA u o n), draws⟩ }
/-- Bytes that are not 0, as sparse memory from 0 on. -/
def loadBytes (bs : List Byte) : Memory := memWrite [] 0 bs
/-- Tile n from a warp part; the saved version is put back unchanged (R239, assumption 92). -/
def State.slotTile (s : State) (u : Placed) (o n : Nat) : Tile :=
  let t := o + 1024 + 18 * 1024 * n
  let head := s.slotRead u t 8
  let at_ (i k : Nat) : Nat := bytesNat ((head.drop i).take k)
  { Tile.fresh with
    cfg := if at_ 7 1 % 2 = 1 then some (BitVec.ofNat 32 (at_ 0 4)) else none
    ver := BitVec.ofNat 16 (at_ 4 2), mask := BitVec.ofNat 8 (at_ 6 1)
    data := loadBytes (s.slotRead u (t + 64) 8192), scales := loadBytes (s.slotRead u (t + 8256) 512)
    shData := loadBytes (s.slotRead u (t + 8768) 8192), shScales := loadBytes (s.slotRead u (t + 16960) 512) }
/-- Tag n from a warp part (assumption 17). -/
def State.slotTag (s : State) (u : Placed) (o n : Nat) : Tag :=
  let time := bytesNat (s.slotRead u (o + 16 * n + 1) 8)
  match bytesNat (s.slotRead u (o + 16 * n) 1) with
  | 1 => .inflight 0 time
  | 2 => .timed time
  | _ => .free
/-- The region entries of a warp's live threads that have a checkpoint. -/
def liveEntries (c : LaunchCfg) (ts : List Thread) : List RegionEntry :=
  ts.filterMap fun t => if t.exited then none else t.ckpt.map fun k => c.region k.k
/-- A warp as it restarts: from its slot's warp part, or from its dispatch state (R111, R389, R390). The times of its tags are those of
earlier loads, which it has still to see (R299, R424). -/
def State.loadWarp (s : State) (u : Placed) (job : Bool) (gi wi : Nat) (w : Warp) : Warp :=
  let threads := (w.threads.zipIdx).map fun (t, l) => s.loadThread u job gi wi l t
  if w.live = [] then { w with threads := threads }
  else
    let o := warpSlot gi wi
    let g : Warp := { freshWarp u job gi wi w.slot with threads := threads, mxstat := w.mxstat }
    match w.ckpt with
    | none => { g with resumeAt := if u.cfg.det = 0 then none else some (0, 0) }
    | some c =>
      let es := liveEntries u.cfg threads
      let at_ (i n : Nat) : Nat := bytesNat (s.slotRead u (o + i) n)
      let tags := putAll (s.slotTag u o) (es.flatMap fun e => onesOf e.tags.toNat 8).eraseDups g.tags
      let k : WarpCkpt := if u.cfg.det = 0 then c else { c with
        retired := BitVec.ofNat 64 (at_ 128 8), sigma := at_ 138 6, offset := at_ 136 2, digest := BitVec.ofNat 64 (at_ 144 8) }
      { g with
        ckpt := some k
        tags := tags
        seen := natSet [] 0 (maxOf (tags.map fun x => match x with | .timed v => v | _ => 0))
        tiles := putAll (s.slotTile u o) (es.flatMap fun e => onesOf e.m.toNat 16).eraseDups g.tiles
        retired := if u.cfg.det = 0 then 0 else k.retired
        digest := k.digest
        resumeAt := if u.cfg.det = 0 then none else some (k.sigma, k.offset) }
/-- A saved unit as its slot holds it. -/
def State.loadUnit (s : State) (u : Placed) : Placed :=
  let job := ((s.workOf u).map (·.job.isSome)).getD false
  { u with
    spad := loadBytes (s.slotRead u (2 ^ 20) u.spadSize)
    wgs := (u.wgs.zipIdx).map fun (g, gi) => { g with
      warps := (g.warps.zipIdx).map fun (w, wi) => s.loadWarp u job gi wi w } }
/-- The bytes of a slot that a restore reads. -/
def State.restoreSpans (s : State) (u : Placed) : List (Nat × Nat) :=
  (0, 2 ^ 20) :: (2 ^ 20, u.spadSize) ::
  ((u.wgs.zipIdx).flatMap fun (g, gi) => (g.warps.zipIdx).flatMap fun (w, wi) =>
    let o := warpSlot gi wi
    let lanes := (w.threads.zipIdx).flatMap fun (t, l) =>
      let p := threadSlot gi wi l
      let c := match t.ckpt with
        | some _ =>
          let (gs, as, ps) := s.listed u (bytesNat (s.slotRead u p 9)) (bytesNat (s.slotRead u (p + 9) 2))
          (p, 16) :: (gs.map fun n => (p + 16 + 24 * n, 21)) ++ (as.map fun n => (p + 3088 + 32 * n, 32)) ++
            ps.map fun n => (p + 3344 + 2 * n, 2)
        | none => []
      (p + 3360, 24) :: if t.exited then [] else c
    let es := liveEntries u.cfg w.threads
    lanes ++ (if w.ckpt.isNone || w.live = [] then [] else
      (if u.cfg.det = 0 then [] else [(o + 128, 24)]) ++ (es.flatMap fun e => (onesOf e.tags.toNat 8).map fun n => (o + 16 * n, 16)) ++
        es.flatMap fun e => (onesOf e.m.toNat 16).map fun n => (o + 1024 + 18 * 1024 * n, 17472)))
/-- Warps whose threads had all exited take no slot of the core, the others the lowest free ones (R92, R111). -/
def seatWarps : List Warp → List Nat → List Warp
  | [], _ => []
  | w :: ws, ks =>
    if w.live = [] then { w with slot := noSlot } :: seatWarps ws ks
    else match ks with
      | [] => { w with slot := noSlot } :: seatWarps ws []
      | k :: ks => { w with slot := k } :: seatWarps ws ks
def Workgroup.over (g : Workgroup) : Bool := g.warps.all (·.live == [])
/-- Retired workgroups take no core, the others the cores given in order (R111). -/
def State.seatWgs (s : State) : List Workgroup → List Nat → List Workgroup
  | [], _ => []
  | g :: gs, cs =>
    if g.over then { g with core := noCore, warps := seatWarps g.warps [] } :: s.seatWgs gs cs
    else match cs with
      | [] => { g with core := noCore } :: s.seatWgs gs []
      | c :: cs => { g with core := c, warps := seatWarps g.warps (s.freeSlots c) } :: s.seatWgs gs cs
/-- What a saved unit takes of a cluster's cores: one for each workgroup that has not retired, each with room for the largest of
them (assumption 67). -/
def Placed.seatCfg (u : Placed) : LaunchCfg :=
  let gs := u.wgs.filter (!·.over)
  { u.cfg.forWarps (maxOf (gs.map fun g => (g.warps.filter (·.live != [])).length)) with csize := gs.length }
/-- A unit on its new cores. -/
def State.seated (s : State) (u : Placed) (cores : List Nat) (pcl : Nat) (ws : List Window)
    (arg : Option (Nat × Nat × Space × Nat)) : Placed :=
  let v := s.loadUnit u
  { v with
    state := .running, pcl := pcl, committed := s.nextId, swapped := false, preemptReq := false, turnCount := 0
    arming := u.cfg.det != 0
    windows := ws, arg := arg
    turn := if u.cfg.det = 0 then 0 else
      ((v.wgs.flatMap fun g => g.warps.filterMap fun w => w.resumeAt.map (·.1)).min?).getD 0
    wgs := s.seatWgs v.wgs cores }
/-- The owner of the first turn goes on from its saved offset. -/
def Placed.firstTurn (u : Placed) : Placed :=
  match ((u.wgs[u.owner.wg]?).bind fun g => g.warps[u.owner.warp]?).bind (·.resumeAt) with
  | some (σ, o) =>
    if σ ≤ u.turn then { u with
      turnCount := o
      wgs := modAt u.wgs u.owner.wg fun g => { g with warps := modAt g.warps u.owner.warp fun w => { w with resumeAt := none } } }
    else u
  | none => u
/-- A restored thread that was parked and is not in its WAITCMP again. -/
def Thread.unarmed (t : Thread) : Bool := !t.exited && t.busy.isNone && (t.parked.isSome || t.matched.isSome)
/-- Such lanes of a warp, by their PC. -/
def Warp.parkedLanes (w : Warp) : List (List Nat) :=
  let at_ (l : Nat) : Option VAddr := (w.threads[l]?).bind fun t => if t.unarmed then some t.pc else none
  let ls := w.live.filter fun l => (at_ l).isSome
  ((ls.filterMap at_).eraseDups).map fun pc => ls.filter fun l => at_ l == some pc
/-- The compares of an operation's issue reach their slices at once. -/
def State.armNow (s : State) (id : Nat) : State :=
  match s.op? id with
  | some o => (List.range o.parts.length).foldl (fun s k => match execMonitorArm id k false s with
      | .next t => (match execWaitcmpPoll id k t with | .next t => t | _ => t)
      | _ => s) s
  | none => s
/-- A unit's WAITCMPs. -/
def State.waitsOf (s : State) (id : Nat) : List MemOp :=
  s.ops.filter fun o => o.w.unit == id && (match o.kind with | .waitcmp .. => true | _ => false)
/-- Lanes whose WAITCMP does not stand at their head any more, since software has changed it, are parked on nothing. -/
def Warp.unpark (w : Warp) (ls : List Nat) : Warp :=
  { w with threads := ls.foldl (fun ts l => modAt ts l fun t => { t with parked := none, matched := none }) w.threads }
/-- In deterministic mode a restored thread that was parked is in its WAITCMP again: a saved match stands, and the compare of one
without a match is made before the unit's first turn, warp by warp (R458). What a request before it or a page on the move holds up
is tried again. The checkpoint it restarted from is that of this WAITCMP (R389). -/
def State.armParked (s : State) (id : Nat) : State :=
  match s.unit? id with
  | none => s
  | some u =>
    if u.cfg.det = 0 then s
    else
      let s := (s.waitsOf id).foldl (fun s o => s.armNow o.id) s
      let sets := (u.wgs.zipIdx).flatMap fun (g, gi) => (g.warps.zipIdx).flatMap fun (w, wi) =>
        w.parkedLanes.map fun ls => (gi, wi, ls)
      sets.foldl (fun (s : State) (x : Nat × Nat × List Nat) =>
        let (gi, wi, ls) := x
        match s.bundleOf id gi [(wi, ls)] with
        | some b => (match s.headInstr u b.pc.toNat with
          | some (.waitcmp g n sys c b64) =>
            ((s.sendWaitcmp b g n sys c b64).modWarp ⟨id, gi, wi⟩ fun w => { w with
              ckpt := w.ckpt.map fun k => { k with before := s.nextId } }).armNow s.nextId
          | _ => if s.readVA u.ctx b.pc.toNat 4 == .busy then s else s.modWarp ⟨id, gi, wi⟩ (·.unpark ls))
        | none => s) s
/-- Every compare of a restored unit's parked threads has been made. -/
def State.armed (s : State) (id : Nat) : Bool :=
  ((s.unit? id).map fun u => !u.anyThread Thread.unarmed).getD true && (s.waitsOf id).all fun o => o.parts.all Part.compared
/-- Parked threads compare again; once all have, the unit's first turn begins. -/
def State.armUnit (s : State) (id : Nat) : State :=
  let t := s.armParked id
  if t.armed id then t.modUnit id fun u => { u with arming := false } else t
/-- What a restore loads into the windows of a unit: a launch's from its launch record, a task's from its records too (R349). -/
def State.reloadWins (s : State) (u : Placed) (w : Work) : Option (List Window × Option (Nat × Nat × Space × Nat)) :=
  match w.job with
  | none => match s.launchWins w with
    | .ok ws => some (ws ++ List.replicate 8 Window.unused, none)
    | _ => none
  | some j => (s.taskRec w j u.idx).bind (s.taskLoad w j u.idx)
/-- The poison by which its windows cannot be loaded again (R356, R495; assumption 79). -/
def State.reloadPoison (s : State) (u : Placed) (w : Work) : Option Nat :=
  match w.job with
  | none => (s.launchWins w).failed.join
  | some j => s.taskPoison w j u.idx
/-- Its code, the instructions at its threads' heads, or its records lie in a page on the move. -/
def State.reloadBusy (s : State) (u : Placed) (w : Work) : Bool :=
  !s.codeReady u.ctx u.cfg ||
  (u.anyThread fun t => !t.exited && (t.ckpt.map fun c => s.readVA u.ctx c.pc.toNat 4 == .busy).getD false) || match w.job with
    | none => s.launchWins w == .busy
    | some j => s.taskBusy w j u.idx
/-- Puts a saved unit on cores of a cluster. -/
def State.restoreAt (s : State) (u : Placed) (pcl : Nat) (ws : List Window) (arg : Option (Nat × Nat × Space × Nat)) : State :=
  let cores := (s.fitting u.seatCfg pcl).take u.seatCfg.csize
  let v := (s.seated u cores pcl ws arg).firstTurn
  let s := { s with
    nextId := s.nextId + 1, ops := s.ops.filter fun o => o.w.unit != u.id || !o.kind.dropped false
    left := s.left.filter (!·.coresMeet cores) }
  let s := (s.modUnit u.id fun _ => v).loadCode v
  let s := s.trace taskSrc u.ctx 2 (traceBits (s.clockOf .task) 0 u.idx 0 u.ctx 0 0 0 3)
  let s := s.modCtx u.ctx fun x => { x with preempted := false }
  let s := match s.workOf u with | some w => s.cacheRecs u.ctx (placeSpans w) | none => s
  (s.fileUnit u.id).armUnit u.id
/-- The slot of a saved unit cannot be read (R364). -/
def State.slotLost (s : State) (u : Placed) : Bool := s.slotPoisoned u (s.restoreSpans u)
/-- Restores a unit whose windows load and whose slot can be read; else it is discarded: SAVE_FAULT for its slot; for its windows the
failure of its launch or task, or MEM_UNCORR where poison was read (R349, R356, R364). -/
def State.restoreOr (s : State) (u : Placed) (w : Work) (ok : Bool) (go : List Window → Option (Nat × Nat × Space × Nat) → State) :
    State :=
  if s.reloadBusy u w then s
  else if !ok || s.slotLost u then s.saveFault u
  else match s.reloadWins u w with
    | some (ws, arg) => go ws arg
    | none => match s.reloadPoison u w with
      | some a => s.discard u (u.failRecord 0x11 a u.cfg.entry.toNat)
      | none => s.discard u (u.failRecord (if w.job.isNone then 0x21 else 0x27) 0 0)
/-- Restores a wave's saved clusters, all or none. -/
def State.restoreWave (s : State) (w : Work) (a : Nat) : List Placed → Option State
  | [] => some s
  | u :: us =>
    match s.reloadWins u w with
    | some (ws, arg) => (s.waveCluster u.seatCfg a (w.posOf u.idx)).bind fun pcl => (s.restoreAt u pcl ws arg).restoreWave w a us
    | none => none
def execClusterRestore (unit : Nat) (ok : Bool) (s : State) : Host.Outcome State Fault Refusal :=
  match s.unit? unit, (s.unit? unit).bind s.workOf with
  | some u, some w =>
    if !s.restorable u || !s.topPriority w || (w.job.isNone && !s.itsTurn w) then .next s
    else .next (s.restoreOr u w ok fun ws arg =>
      if w.job.isNone && w.cfg.det != 0 && !u.rerun then
        let us := w.unitsOf s
        if us.any s.slotLost then (us.filter s.slotLost).foldl State.saveFault s
        else if us.all s.restorable && !us.any (s.reloadBusy · w) then ((s.restoreWave w (w.waveA.getD 1) us).map (·.tookTurn w)).getD s
        else s
      else match s.choose u.seatCfg with
        | some pcl => { (s.restoreAt u pcl ws arg).tookTurn w with lastPcl := some pcl }
        | none => s)
  | _, _ => .next s

/-! ### PRIORITY_PREEMPT (R359, R384) -/

/-- A launch that is ready, and of which no cluster can be placed: of saved clusters what each still takes, a wave as a whole. -/
def State.starved (s : State) (w : Work) : Bool :=
  let us := w.unitsOf s
  if w.job.isSome then false
  else if us.any s.restorable then
    (if w.cfg.det != 0 && !us.any (·.rerun) then
      us.all (fun u => s.restorable u && !s.reloadBusy u w && !s.slotLost u && (s.reloadWins u w).isSome) &&
        (s.restoreWave w (w.waveA.getD 1) us).isNone
    else (us.filter s.restorable).all fun u => (s.choose u.seatCfg).isNone)
  else if s.rerunReady w || (s.gridNext w).isSome then (s.choose w.cfg).isNone
  else match s.waveNext w with
    | some (a, ranks) => (s.placeWave w a ranks).isNone && (s.freeSave w.ctx).isSome
    | none => false
/-- Pre-empts one cluster, with its whole wave in deterministic mode; the next only once the last has left its cores. -/
def execPriorityPreempt (work : Nat) (s : State) : Host.Outcome State Fault Refusal :=
  match s.work? work with
  | none => .next s
  | some w =>
    let under := s.units.any fun u => u.onCore && u.preemptReq
    if !s.starved w || !s.topPriority w || under then .next s
    else match s.victim w.cfg.priority with
      | some v =>
        let wave := v.cfg.det != 0 && ((s.workOf v).map (·.job.isNone)).getD false
        .next (s.askPreempt fun u => u.id == v.id || (wave && u.work == v.work))
      | none => .next s

/-! ### DET_TURN (R385, R386, R390, R458, R468) -/

/-- A turn ends, and with it, when a stop or a step waits for the end of the turn, the unit stops (R386, R468); it stops at the
end of the first turn that leaves no thread between a hint and its instruction (R66, assumption 88). Before the first
turn of a restored unit its parked threads compare again (R458). -/
def execDetTurn (unit : Nat) (s : State) : Host.Outcome State Fault Refusal :=
  match s.unit? unit with
  | none => .next s
  | some u =>
    if u.arming then .next (if u.state == .running then s.armUnit unit else s)
    else match s.warp? u.owner with
    | none => .next s
    | some w =>
      if u.cfg.det = 0 || u.state != .running || u.anyStopped || !s.turnOver u w || !s.drained u.owner w then .next s
      else
        let t := s.modUnit unit Placed.nextTurn
        .next (if (u.stopAt || u.stepTurn) && !u.hinted then (t.modUnit unit haltUnit).takeDumps u u.dumps else t)

end Sys2Proof.Machine
end

