-- ==== Sys2Proof/Machine/HomeEv2.lean ====
section
/-! DEFINITION. The home slices' other parties: the host through HDM, back-invalidation, page migration, and peers (R29 to R33,
R350 to R352, R355, R408, R409, R414, R415, R495). -/

namespace Sys2Proof.Machine

/-! ### The host (R29, R30, R414, R495) -/

/-- The context and the intermediate address of a host access, while the home slices run. -/
def State.hdmAddr (s : State) (hpa n : Nat) : Option (Nat × Nat) := if s.up then s.hdmFind hpa n else none
/-- A host access has an answer: when its time has come at its slices, or held until it has (R29, R414). -/
def State.hdmAnswer (s : State) (hpa : Nat) (bs : List Byte) (v : Nat) : State :=
  if s.hdmPassed hpa (max 1 bs.length) v then { s with home := { s.home with hdmDone := s.home.hdmDone ++ [(hpa, bs, false)] } }
  else { s with home := { s.home with hdmReads := s.home.hdmReads ++ [(hpa, bs, v)] } }
def State.hdmPoison (s : State) (hpa : Nat) : State :=
  { s with home := { s.home with hdmDone := s.home.hdmDone ++ [(hpa, [], true)] } }
/-- The lines of a span. -/
def linesOf (a n : Nat) : List Nat := (lineParts a n).map fun (p, _) => p / 256
/-- A host read takes its bytes when it arrives; the host may keep the lines in its cache. -/
def execHdmRead (hpa n : Nat) (keep : Bool) (s : State) : Host.Outcome State Fault Refusal :=
  match s.hdmAddr hpa n with
  | none => .next s
  | some (ctx, ia) =>
    match s.readSpan ctx .local ia n with
    | .busy => .next s
    | .bad .. => .next (s.hdmPoison hpa)
    | .ok bs =>
      let t := if keep then { s with home := { s.home with hostLines := (linesOf ia n ++ s.home.hostLines).eraseDups } } else s
      .next ((t.hdmAnswer hpa bs (visOf s.home ia n)).cacheSpan ctx .local ia n)
/-- A host write is applied as a store; its completion returns once its GWCT has passed. -/
def execHdmWrite (hpa : Nat) (data : List Byte) (s : State) : Host.Outcome State Fault Refusal :=
  match s.hdmAddr hpa data.length with
  | none => .next s
  | some (ctx, ia) =>
    if s.spanBusy ctx .local ia data.length then .next s
    else
      let (t, g, bad) := s.writeSpan ctx .local ia data 0
      let t := t.progress none
      .next (if bad.isSome then t.hdmPoison hpa else t.hdmAnswer hpa [] g)
/-- The host's response to a snoop: it no longer holds the block, of which the model makes one 256-byte line (assumption 93). -/
def execBackInvalidationResponse (line : Nat) (s : State) : Host.Outcome State Fault Refusal :=
  if s.home.hostLines.contains line && natGet s.home.snooped line == 1 then
    .next { s with home := { s.home with
      hostLines := s.home.hostLines.filter (· != line)
      snooped := natSet s.home.snooped line (s.clockOf (.slice (256 * line)) + 2) } }
  else .next s

/-! ### Peers (R32, R495) -/

def State.peerAnswer (s : State) (peer : Nat) (bs : List Byte) (err : Bool) : State :=
  { s with home := { s.home with peerDone := s.home.peerDone ++ [(peer, bs, err)] } }
/-- An atomic read and write of a peer: the new value from the old one, or no write. -/
def State.peerAtomic (s : State) (peer ctx a n : Nat) (f : List Byte → List Byte) : State :=
  match s.readSpan ctx .local a n with
  | .busy => s
  | .bad .. => s.peerAnswer peer [] true
  | .ok old =>
    if s.spanBusy ctx .local a n then s
    else
      let (t, _, bad) := s.writeSpan ctx .local a (f old) 0
      ((if f old = [] then t else t.progress none).peerAnswer peer (if bad.isSome then [] else old) bad.isSome).cacheSpan ctx .local a n
/-- A peer's request, in the context that it names (assumption 94), while the home slices run (R488). -/
def execPeerRequest (peer : Nat) (r : PeerReq) (s : State) : Host.Outcome State Fault Refusal :=
  if !s.up then .next s
  else match r with
  | .read ctx a n =>
    match s.readSpan ctx .local a n with
    | .busy => .next s
    | .bad .. => .next (s.peerAnswer peer [] true)
    | .ok bs => .next ((s.peerAnswer peer bs false).cacheSpan ctx .local a n)
  | .write ctx a data =>
    if s.spanBusy ctx .local a data.length then .next s
    else
      let (t, _, bad) := s.writeSpan ctx .local a data 0
      .next ((t.progress none).peerAnswer peer [] bad.isSome)
  | .atomic ctx a op data => .next (s.peerAtomic peer ctx a data.length fun old =>
      natBytes data.length (atomNew op (8 * data.length) (bytesNat old) (bytesNat data)))
  | .cas ctx a expected new => .next (s.peerAtomic peer ctx a expected.length fun old =>
      if old = expected then new.take expected.length else [])

/-! ### Page migration (R351, R352, R355, R409) -/

/-- What a migration's walk of the tables meets: a leaf with its level and slot, nothing, or what R356 calls a fault: an entry that is
poisoned, or invalid at a level. -/
inductive LeafWalk
  | leaf (level slot : Nat) (p : Page)
  | missing
  | bad (code level : Nat)
  deriving DecidableEq, Repr
def leafSlot (h : Home) (ia : Nat) : Nat → Nat → LeafWalk
  | 0, _ => .missing
  | level + 1, table =>
    let pa := table + 8 * bitsOf ia (12 + 9 * level) 9
    let e := bytesNat (memRead h.mem pa 8)
    if (poisonedIn h pa 8).isSome then .bad 0x11 0
    else if !bitOf e 63 then .missing
    else if bitOf e 62 then (match leafPage level e with | some p => .leaf level pa p | none => .bad 0x12 level)
    else if bitsOf e 52 10 != 0 || bitsOf e 0 12 != 0 || level = 0 then .bad 0x12 level
    else leafSlot h ia level (bitsOf e 12 40 * 4096)
/-- Writes a leaf into every slot that its page spans. -/
def writeLeaf (h : Home) (level slot : Nat) (p : Page) (leaf : Nat) : Home :=
  let k := 2 ^ (p.log - 12 - 9 * level)
  let first := slot / (8 * k) * (8 * k)
  (List.range k).foldl (fun h i => (writePhys h (first + 8 * i) (natBytes 8 leaf)).1) h
/-- Moves a page's bytes and its poison. -/
def moveFrame (h : Home) (src dst n : Nat) : Home :=
  let inSrc (a : Nat) : Bool := src ≤ a && a < src + n
  let inDst (a : Nat) : Bool := dst ≤ a && a < dst + n
  { h with
    mem := memWrite h.mem dst (memRead h.mem src n)
    poison := (h.poison.filter fun u => !inDst u) ++ (h.poison.filter inSrc).map fun u => u - src + dst }
/-- The slots of a table that are not 0. -/
def tableSlots (h : Home) (table : Nat) : List Nat :=
  ((h.mem.filter fun c => table ≤ c.1 && c.1 < table + 4096).map fun c => (c.1 - table) / 8).eraseDups
/-- The tables below one, and the pages they map: each page with the address of the slot that maps it. -/
def tablesFrom (h : Home) : Nat → Nat → List (Option Nat × Nat × Nat)
  | 0, _ => []
  | level + 1, table => (none, table, 4096) :: (tableSlots h table).flatMap fun k =>
      let e := bytesNat (memRead h.mem (table + 8 * k) 8)
      if !bitOf e 63 then []
      else if bitOf e 62 then ((leafPage level e).map fun p => (some (table + 8 * k), p.frame, 2 ^ p.log)).toList
      else tablesFrom h level (bitsOf e 12 40 * 4096)
/-- The physical spans in use, those of pages with their slots: every context's tables, pages, address map and save area, the sample
and trace rings, and the dump slots (R347, R350, R395, R460, R470). -/
def State.framesUsed (s : State) : List (Option Nat × Nat × Nat) :=
  ((s.ctxs.zipIdx).flatMap fun (c, n) =>
    (if c.ptroot = 0 then [] else tablesFrom s.home 5 (c.ptroot.toNat * 4096)) ++
    (if c.mapcnt = 0 then [] else [(none, c.mapbase.toNat * 4096, 32 * c.mapcnt.toNat)]) ++
    (if c.slots = 0 then [] else [(none, c.save.toNat * 4096, Config.slotBytes * c.slots.toNat + 2 ^ 31)]) ++
    [1, 9].flatMap fun k =>
      let v := s.watchWord n k
      if v = 0 then [] else [(none, s.watchWord n (k + 1) % 2 ^ 20 * 2 ^ 32 + v / 4096 * 4096, 32 * 2 ^ (v % 32))]) ++
  if s.watch.dslots = 0 then [] else [(none, s.watch.dbase.toNat * 4096, 2 ^ 20 * s.watch.dslots.toNat)]
/-- The frames of the leaves that slices hold, pinned or cached, whatever the tables say by now: each with its context and the first
intermediate address of its page (R353, R355). -/
def Home.leavesKept (h : Home) : List (Nat × Nat × Page) :=
  ((h.holds ++ h.pins).map fun x => (x.ctx, x.ia, cachedPage x.leaf)) ++
  h.tlb.filterMap fun (ctx, level, k, e) =>
    if bitOf e.toNat 62 then (leafPage level e.toNat).map fun p =>
      (ctx, k * 2 ^ (12 + 9 * level) / 2 ^ p.log * 2 ^ p.log, p)
    else none
/-- A page of a context may move: nothing else uses its frame, and nothing uses the frame it moves to (R409, assumption 95). -/
def State.mayMove (s : State) (ctx ia level slot : Nat) (p : Page) (frame : Nat) : Bool :=
  let k := 2 ^ (p.log - 12 - 9 * level)
  let first := slot / (8 * k) * (8 * k)
  let free (own : Bool) (a n : Nat) : Bool := !overlaps a n frame (2 ^ p.log) && (own || !overlaps a n p.frame (2 ^ p.log))
  s.framesUsed.all (fun (own, a, n) => free ((own.map fun x => first ≤ x && x < first + 8 * k).getD false) a n) &&
  s.home.leavesKept.all fun (c, b, q) =>
    free (c == ctx && b == ia / 2 ^ p.log * 2 ^ p.log && q.frame == p.frame && q.log == p.log) q.frame (2 ^ q.log)
/-- A hold, or a pin of another leaf than the tables', keeps a page where it is (R355). -/
def State.kept (s : State) (ctx base n leaf : Nat) : Bool :=
  let on (h : Hold) : Bool := h.ctx == ctx && overlaps h.ia (2 ^ h.log) base n
  s.home.holds.any on || s.home.pins.any fun h => on h && h.leaf.toNat != leaf
/-- A migration's walk that meets an entry that is invalid, or poisoned, posts a record: to the lowest-numbered queue of the context, as
it belongs to no launch (R356, R367; assumption 101). -/
def State.walkFault (s : State) (ctx ia code level : Nat) : State :=
  match (List.range 32).find? fun q => (s.queue q).ctx.toNat == ctx with
  | some q => s.postTask q (plainRecord code 0 ia level)
  | none => s
/-- The Home engine, while it runs, migrates a page that nothing holds to the other tier: BUSY is set, then the page moves, its leaf
names the new frame and tier, BUSY falls, and the writes that waited for it are made. -/
def execPageMigration (ctx ia frame : Nat) (s : State) : Host.Outcome State Fault Refusal :=
  if !s.up then .next s
  else match leafSlot s.home ia 5 ((s.ctx ctx).ptroot.toNat * 4096) with
  | .missing => .next s
  | .bad code level => .next (s.walkFault ctx ia code level)
  | .leaf level slot p =>
    let n := 2 ^ p.log
    let base := ia / n * n
    if s.kept ctx base n p.leaf || frame % n != 0 || !s.mayMove ctx ia level slot p frame then .next s
    else if !bitOf p.leaf 54 then .next { s with home := (writeLeaf s.home level slot p (p.leaf + 2 ^ 54)).uncache ctx base n }
    else
      let a := frame / 4096 * 2 + (2 ^ (p.log - 12) - 1)
      let tier := if bitOf p.leaf 53 then 0 else 2 ^ 53
      let leaf := p.leaf / 2 ^ 55 * 2 ^ 55 + tier + a % 2 ^ 41 * 2 ^ 12 + p.leaf % 2 ^ 12
      .next { s with home := (moveFrame (writeLeaf s.home level slot p leaf) p.frame frame n).uncache ctx base n }.flushLate

end Sys2Proof.Machine
end

