-- ==== Sys2Proof/Machine/WatchIns.lean ====
section
/-! DEFINITION. BKPT, TMARK, SYSRD and SYSWR (R460, R461, R464, R465, R468, R474, R475). -/

namespace Sys2Proof.Machine

/-- Every live thread of a workgroup stops at its next instruction boundary. -/
def stopThreads (g : Workgroup) : Workgroup :=
  { g with warps := g.warps.map fun w => { w with threads := w.threads.map fun t => { t with stopped := !t.exited } } }
/-- BKPT retires; while DBGEN is 1 it stops its workgroup, or in deterministic mode its unit at the end of the turn; each warp that
executed it has a stop dump once all have stopped. -/
def execBkpt (code : BitVec 10) : State → Host.Outcome State Fault Refusal :=
  issueStd (.bkpt code) fun b s =>
    let t := (s.retire b false sameThread).stay b
    if !bitOf (s.watchWord b.u.ctx 0x10) 0 then .done t
    else
      let asked := b.parts.map fun (wi, _, _) => (2, b.wg, wi, b.pc, code.toNat)
      let t := if b.u.cfg.det = 0 then t.modWg b.u.id b.wg stopThreads else t.modUnit b.u.id fun u => { u with stopAt := true }
      .done (t.modUnit b.u.id fun u => { u with dumps := u.dumps ++ asked })
/-- TMARK waits as FENCE.DEV does; then each live lane makes a MARK record. -/
def execTmark (g : GNum) (id : BitVec 10) : State → Host.Outcome State Fault Refusal :=
  issueStd (.tmark g id) fun b s =>
    let k := b.fenceBound s
    if !b.parts.all fun (wi, _, _) => s.fenceDone (b.wid wi) .dev k then .hold (s.markFence b)
    else
      let c := b.g.core
      let mark (t : State) (x : Nat × Warp × Nat × Thread) : State :=
        let (_, w, l, th) := x
        t.trace c b.u.ctx 0 (traceBits (s.now c) b.pc.toNat (th.gr g.toNat).val.toNat id.toNat b.u.ctx c w.slot l 1)
      .done (((b.lanes.foldl mark s).retire b false sameThread).stay b)
/-- SYSRD takes the word that stands when its request arrives. -/
def execSysrd (d : GNum) (sel : BitVec 10) : State → Host.Outcome State Fault Refusal :=
  issueStd (.sysrd d sel) (askLanes d fun _ => .sysreg sel.toNat)
/-- An issue's lanes in ascending lane order, whichever warps they belong to. -/
def Bundle.lanesUp (b : Bundle) : List (Nat × Warp × Nat × Thread) := sortKey (fun x => x.2.2.1) b.lanes
/-- SYSWR writes TRCCTL, the one word a thread may write, lane by lane; its reserved bits stay 0. -/
def execSyswr (sel : BitVec 10) (g : GNum) : State → Host.Outcome State Fault Refusal :=
  issueStd (.syswr sel g) fun b s =>
    let t := b.lanesUp.foldl (fun (t : State) (x : Nat × Warp × Nat × Thread) =>
      t.setWatchWord b.u.ctx sel.toNat ((x.2.2.2.gr g.toNat).val.toNat % 16)) s
    .done ((t.retire b false sameThread).stay b)

end Sys2Proof.Machine
end

