-- ==== Sys2Proof/Machine/WatchEv.lean ====
section
/-! DEFINITION. The host's commands and registers, the stall sampler, the trace unit and the dump engine (R5, R6, R19, R317,
R347, R460 to R478). -/

namespace Sys2Proof.Machine

/-! ### Debug commands (R465 to R468) -/

/-- Every live thread of a workgroup that is stopped may go on. -/
def resumeThreads (g : Workgroup) : Workgroup :=
  { g with warps := g.warps.map fun w => { w with threads := w.threads.map fun t => { t with stopped := false, step := false } } }
def Workgroup.anyStopped (g : Workgroup) : Bool := g.warps.any fun w => w.threads.any fun t => !t.exited && t.stopped
/-- The workgroups that a command names. -/
def State.named (s : State) (ctx : Nat) : List (Nat × Nat) :=
  let v := s.watchWord ctx 0x13
  if bitOf v 31 then
    (s.units.filter fun u => u.ctx == ctx && u.state == .running).flatMap fun u => (List.range u.wgs.length).map fun g => (u.id, g)
  else match s.namedUnit ctx with
    | some u => if v % 4 < u.wgs.length then [(u.id, v % 4)] else []
    | none => []
/-- STOP of one workgroup: its dump is taken once every thread has reached its boundary (R464, R466). -/
def State.stopWg (s : State) (id wg : Nat) : State :=
  match s.unit? id, s.wg? id wg with
  | some u, some g =>
    let t := if u.cfg.det != 0 && !g.anyStopped then s.modUnit id fun u => { u with stopAt := true }
      else s.modWg id wg stopThreads
    if u.cfg.det != 0 && g.anyStopped then t.stopDump u 2 wg 0 0 0
    else t.modUnit id fun u => { u with dumps := u.dumps ++ [(2, wg, 0, 0, 0)] }
  | _, _ => s
def execStop (c : BitVec 8) (s : State) : Host.Outcome State Fault Refusal :=
  .next ((s.named c.toNat).foldl (fun (s : State) (x : Nat × Nat) => s.stopWg x.1 x.2) s)
/-- Live threads of a workgroup that stand in no bin, no queue, no arrival set and no instruction. -/
def State.unfiled (s : State) (id wg : Nat) (g : Workgroup) : List (Nat × Nat) :=
  let ports := (s.core g.core).ports
  let filed (w l : Nat) : Bool := ports.any fun p =>
    (p.slots.any fun x => (x.map fun b => b.unit == id && b.wg == wg && b.entries.contains (w, l)).getD false) ||
    p.queue.any fun f => f.unit == id && f.wg == wg && f.warp == w && f.lane == l
  (g.warps.zipIdx).flatMap fun (w, wi) => (w.live.filter fun l =>
    ((w.threads[l]?).map fun t => t.busy.isNone).getD false &&
    !((w.arrival.map fun a => a.lanes.contains l).getD false) && !filed wi l).map fun l => (wi, l)
/-- RESUME of one workgroup; in deterministic mode of the whole unit, which stopped as one. -/
def State.resumeWg (s : State) (id wg : Nat) : State :=
  match s.unit? id, s.wg? id wg with
  | some u, some g =>
    if !g.stands then s
    else if u.cfg.det != 0 then s.modUnit id fun u => { u with wgs := u.wgs.map resumeThreads }
    else (s.modWg id wg resumeThreads).file id wg g.core (s.unfiled id wg g) s.clk s.clk false
  | _, _ => s
def execDbgResume (c : BitVec 8) (s : State) : Host.Outcome State Fault Refusal :=
  .next ((s.named c.toNat).foldl (fun (s : State) (x : Nat × Nat) => s.resumeWg x.1 x.2) s)
/-- STEP: one lane executes one instruction alone, or in deterministic mode the unit runs one turn. Lanes whose step has not ended, as
in an arrival set, do not keep another lane from being stepped (R467). -/
def execStep (c : BitVec 8) (s : State) : Host.Outcome State Fault Refusal :=
  let v := s.watchWord c.toNat 0x13
  let warp := bitsOf v 2 5
  let lane := bitsOf v 7 5
  match s.namedUnit c.toNat, (s.namedUnit c.toNat).bind fun u => u.wgs[v % 4]? with
  | some u, some g =>
    if !g.stands then .next s
    else if u.cfg.det != 0 then
      .next (s.modUnit u.id fun u => { u with
        wgs := u.wgs.map resumeThreads, stepTurn := true, dumps := [(3, v % 4, warp, 0, 0)] })
    else match (g.warps[warp]?).bind fun w => w.threads[lane]? with
      | some t =>
        if t.exited then .next s
        else
          let one (x : Slot) : Option Slot :=
            if x.unit == u.id && x.wg == v % 4 then
              match x.entries.filter (· != (warp, lane)) with
              | [] => none
              | es => some { x with entries := es }
            else some x
          let s := s.modCore g.core fun k => { k with ports := k.ports.map fun p => { p with
            slots := p.slots.map fun x => x.bind one } }
          .next (s.modThread ⟨u.id, v % 4, warp⟩ lane fun t => { t with step := true })
      | none => .next s
  | _, _ => .next s
/-- CAPTURE: a stop dump of the named warp of each stopped workgroup named. -/
def execCapture (c : BitVec 8) (s : State) : Host.Outcome State Fault Refusal :=
  let warp := bitsOf (s.watchWord c.toNat 0x13) 2 5
  .next ((s.named c.toNat).foldl (fun (s : State) (x : Nat × Nat) =>
    match s.unit? x.1, s.wg? x.1 x.2 with
    | some u, some g => if g.stands then s.stopDump u 2 x.2 warp 0 0 else s
    | _, _ => s) s)
/-- A thread that has ended its step is stopped again. -/
def endStep (t : Thread) : Thread := if t.stepDone then { t with step := false, stepDone := false, stopped := !t.exited } else t
/-- The dumps of stops whose workgroup has stopped are taken (R464, R466). -/
def State.settleStops (s : State) (u : Placed) : State :=
  let due := u.dumps.filter fun (_, g, _) => ((u.wgs[g]?).map Workgroup.halted).getD true
  if due = [] then s
  else (s.modUnit u.id fun u => { u with dumps := u.dumps.filter (!due.contains ·) }).takeDumps u due
/-- Steps that have ended: their lanes stop, and each warp concerned has one step dump (R466, R467). Stops that are complete have
their dumps. -/
def State.settle (s : State) : State :=
  let ended := s.units.flatMap fun u => (u.wgs.zipIdx).flatMap fun (g, gi) => (g.warps.zipIdx).filterMap fun (w, wi) =>
    if w.threads.any (·.stepDone) then some (u, gi, wi) else none
  let s := ended.foldl (fun (s : State) (x : Placed × Nat × Nat) =>
    let (u, gi, wi) := x
    (s.modWarp ⟨u.id, gi, wi⟩ fun w => { w with threads := w.threads.map endStep }).stopDump u 3 gi wi 0 0) s
  (s.units.filter fun u => u.cfg.det == 0 && u.dumps != []).foldl State.settleStops s

/-! ### FE_RESUME (R462, R463) -/

/-- The front end goes on, and accepts what it held without comparing it again. -/
def execFeResume (s : State) : Host.Outcome State Fault Refusal :=
  if !s.watch.feHalted then .next s
  else
    let q := s.watch.feQueue.toNat
    let s := { s with watch := { s.watch with feHalted := false, fePass := true } }
    match s.watch.feOp with
    | some op => .next (((s.op? op).map s.submit).getD s)
    | none =>
      if !(s.queue q).waiting then .next { s with watch := { s.watch with fePass := false } }
      else
        let type := match s.readPacket q with | .val v => bitsOf v 0 8 | _ => 0
        .next ({ s with pass := q }.accept q type)

/-! ### Registers of the BAR (R5, R6, R317, R347, R460, R462) -/

/-- Puts n bits of a word, from bit `from_` on, into a value from bit `at_` on. -/
def putBits {k : Nat} (x : BitVec k) (at_ n : Nat) (v from_ : Nat) : BitVec k :=
  let old := bitsOf x.toNat at_ n
  BitVec.ofNat k (x.toNat - old * 2 ^ at_ + bitsOf v from_ n * 2 ^ at_)
def queueWrite (x : Queue) (word v : Nat) : Queue :=
  match word with
  | 0 => { x with rbase := putBits x.rbase 0 20 v 12, host := bitOf v 0 }
  | 1 => { x with rbase := putBits x.rbase 20 32 v 0 }
  | 3 => { x with size := BitVec.ofNat 5 (v / 2 ^ 8), enable := bitOf v 18, ctx := BitVec.ofNat 8 (v / 2 ^ 24) }
  | 7 => { x with tail := BitVec.ofNat 32 v }
  | 8 => { x with fring := putBits (putBits x.fring 0 5 v 0) 12 20 v 12 }
  | 9 => { x with fring := putBits x.fring 32 32 v 0 }
  | _ => x
def ctxWrite (x : Ctx) (word v : Nat) : Ctx :=
  match word with
  | 8 => { x with ivlog := BitVec.ofNat 6 (v / 2 ^ 6), ivbase := putBits x.ivbase 0 20 v 12 }
  | 9 => { x with ivbase := putBits x.ivbase 20 25 v 0 }
  | 10 => { x with ptroot := putBits x.ptroot 0 20 v 12 }
  | 11 => { x with ptroot := putBits x.ptroot 20 32 v 0 }
  | 12 => { x with mapcnt := BitVec.ofNat 7 v, mapbase := putBits x.mapbase 0 20 v 12 }
  | 13 => { x with mapbase := putBits x.mapbase 20 32 v 0 }
  | 14 => { x with slots := BitVec.ofNat 12 v, save := putBits x.save 0 20 v 12 }
  | 15 => { x with save := putBits x.save 20 32 v 0 }
  | _ => x
/-- The bits that the host may write in a word of a watch block; 0 for one it may not. -/
def watchMask (sel : Nat) : Nat :=
  match sel with
  | 0x00 => 0x80FFFFFF
  | 0x01 | 0x09 => 0xFFFFF01F
  | 0x02 | 0x0A => 0x000FFFFF
  | 0x04 | 0x05 | 0x0C | 0x0D | 0x12 => 0xFFFFFFFF
  | 0x08 => 0xF
  | 0x10 => 1
  | 0x13 => 0x80000FFF
  | _ => 0
def bpWrite (b : CmdBp) (word v : Nat) : CmdBp :=
  match word with
  | 0 => { b with entry := putBits b.entry 0 32 v 0 }
  | 1 => { b with entry := putBits b.entry 32 32 v 0 }
  | 2 => { b with
      entry := putBits b.entry 64 8 v 0, queue := BitVec.ofNat 5 (v / 2 ^ 8), mqueue := bitOf v 14, mentry := bitOf v 15
      en := bitOf v 16, hit := b.hit && !bitOf v 17 }
  | _ => b
def dumpWrite (x : Watch) (word v : Nat) : Watch :=
  match word with
  | 0 => { x with dslots := BitVec.ofNat 12 v, dbase := putBits x.dbase 0 20 v 12 }
  | 1 => { x with dbase := putBits x.dbase 20 32 v 0 }
  | 3 => { x with dtail := BitVec.ofNat 32 v }
  | 4 => { x with ddrop := BitVec.ofNat 32 v }
  | _ => x
/-! What a host read of a BAR word returns: fields of RO and RW, 0 for those of WO and for reserved ones (R5, R6, R19). -/

def queueRead (x : Queue) (word : Nat) : Nat :=
  match word with
  | 0 => x.rbase.toNat % 2 ^ 20 * 2 ^ 12 + (if x.host then 1 else 0)
  | 1 => x.rbase.toNat / 2 ^ 20
  | 3 => x.ctx.toNat * 2 ^ 24 + (if x.halted then 2 ^ 19 else 0) + (if x.enable then 2 ^ 18 else 0) + x.size.toNat * 2 ^ 8
  | 6 => x.head.toNat
  | 7 => x.tail.toNat
  | 8 => x.fring.toNat % 2 ^ 32
  | 9 => x.fring.toNat / 2 ^ 32
  | _ => 0
def ctxRead (x : Ctx) (word : Nat) : Nat :=
  match word with
  | 0 => (if x.invbusy then 2 ^ 7 else 0) + (if x.failed then 2 ^ 6 else 0) + (if x.preempted then 2 ^ 5 else 0)
  | 8 => x.ivbase.toNat % 2 ^ 20 * 2 ^ 12 + x.ivlog.toNat * 2 ^ 6
  | 9 => x.ivbase.toNat / 2 ^ 20
  | 10 => x.ptroot.toNat % 2 ^ 20 * 2 ^ 12
  | 11 => x.ptroot.toNat / 2 ^ 20
  | 12 => x.mapbase.toNat % 2 ^ 20 * 2 ^ 12 + x.mapcnt.toNat
  | 13 => x.mapbase.toNat / 2 ^ 20
  | 14 => x.save.toNat % 2 ^ 20 * 2 ^ 12 + x.slots.toNat
  | 15 => x.save.toNat / 2 ^ 20
  | _ => 0
def bpRead (b : CmdBp) (word : Nat) : Nat :=
  match word with
  | 0 => b.entry.toNat % 2 ^ 32
  | 1 => b.entry.toNat / 2 ^ 32 % 2 ^ 32
  | 2 => (if b.hit then 2 ^ 17 else 0) + (if b.en then 2 ^ 16 else 0) + (if b.mentry then 2 ^ 15 else 0) +
      (if b.mqueue then 2 ^ 14 else 0) + b.queue.toNat * 2 ^ 8 + b.entry.toNat / 2 ^ 64
  | _ => 0
def feRead (x : Watch) : Nat := x.feQueue.toNat * 2 ^ 16 + x.feBp.toNat * 2 ^ 8 + (if x.feHalted then 1 else 0)
def dumpRead (x : Watch) (word : Nat) : Nat :=
  match word with
  | 0 => x.dbase.toNat % 2 ^ 20 * 2 ^ 12 + x.dslots.toNat
  | 1 => x.dbase.toNat / 2 ^ 20
  | 2 => x.dhead.toNat
  | 3 => x.dtail.toNat
  | 4 => x.ddrop.toNat
  | 5 => min x.dumpQ.length 3 * 2 + (if x.dump.isSome then 1 else 0)
  | _ => 0
/-- The word that a host read at an offset of the BAR returns. -/
def State.barWord (s : State) (o : Nat) : Word := BitVec.ofNat 32 (
  if o % 4 != 0 then 0
  else if 0x10000 ≤ o && o < 0x10800 then queueRead (s.queue ((o - 0x10000) / 0x40)) (o % 0x40 / 4)
  else if 0x20000 ≤ o && o < 0x24000 then ctxRead (s.ctx ((o - 0x20000) / 0x40)) (o % 0x40 / 4)
  else if 0x30000 ≤ o && o < 0x38000 then s.sysWord ((o - 0x30000) / 0x80) (o % 0x80 / 4)
  else if 0x40000 ≤ o && o < 0x40080 then bpRead ((s.watch.bps[(o - 0x40000) / 16]?).getD CmdBp.reset) (o % 16 / 4)
  else if o = 0x40080 then feRead s.watch
  else if 0x40100 ≤ o && o < 0x40140 then dumpRead s.watch ((o - 0x40100) / 4)
  else 0)
/-- One event after another; these meanings always answer a next state. -/
def andThen (x : Host.Outcome State Fault Refusal) (go : Bool) (f : State → Host.Outcome State Fault Refusal) :
    Host.Outcome State Fault Refusal :=
  match x with
  | .next s => if go then f s else .next s
  | y => y
def State.writeQueue (s : State) (q word v : Nat) : Host.Outcome State Fault Refusal :=
  andThen (.next (s.modQueue q fun x => queueWrite x word v)) (word == 3 && bitOf v 20) (execReset (BitVec.ofNat 5 q))
def State.writeCtx (s : State) (c word v : Nat) : Host.Outcome State Fault Refusal :=
  let n := BitVec.ofNat 8 c
  let go (i : Nat) : Bool := word == 0 && bitOf v i
  andThen (andThen (andThen (andThen (.next (s.modCtx c fun x => ctxWrite x word v)) (go 0) (execPreempt n)) (go 1) (execResume n))
    (go 2) (execRetry n)) (go 4) (execInval n)
def State.writeWatch (s : State) (c sel v : Nat) : Host.Outcome State Fault Refusal :=
  let n := BitVec.ofNat 8 c
  if sel = 0x11 then
    match v % 8 with
    | 1 => execStop n s
    | 2 => execDbgResume n s
    | 3 => execStep n s
    | 4 => execCapture n s
    | _ => .next s
  else
    let m := watchMask sel
    if m = 0 then .next s
    else
      let s := s.setWatchWord c sel (v &&& m)
      -- EN 0 or PERIOD 0 ends the context's samplers (R469)
      let off := sel = 0 && (!bitOf v 31 || bitsOf v 0 24 == 0)
      let stop (k : Core) : Core := { k with samplers := k.samplers.filter fun x => !off || x.ctx != c }
      .next { s with cores := s.cores.map stop }
def execRegisterWrite (w : BarWrite) (s : State) : Host.Outcome State Fault Refusal :=
  let o := w.off
  let v := w.val.toNat
  if o % 4 != 0 then .next s
  else if 0x10000 ≤ o && o < 0x10800 then s.writeQueue ((o - 0x10000) / 0x40) (o % 0x40 / 4) v
  else if 0x20000 ≤ o && o < 0x24000 then s.writeCtx ((o - 0x20000) / 0x40) (o % 0x40 / 4) v
  else if 0x30000 ≤ o && o < 0x38000 then s.writeWatch ((o - 0x30000) / 0x80) (o % 0x80 / 4) v
  else if 0x40000 ≤ o && o < 0x40080 then
    .next { s with watch := { s.watch with bps := modAt s.watch.bps ((o - 0x40000) / 16) fun b => bpWrite b (o % 16 / 4) v } }
  else if o = 0x40080 then (if bitOf v 1 then execFeResume s else .next s)
  else if 0x40100 ≤ o && o < 0x40140 then .next { s with watch := dumpWrite s.watch ((o - 0x40100) / 4) v }
  else .next s

/-! ### Rings (R469, R471 to R476) -/

/-- The first selector of a ring's words: samples from 0, traces from 8. -/
def ringSel (trace : Bool) : Nat := if trace then 8 else 0
def State.ringSize (s : State) (ctx : Nat) (trace : Bool) : Nat := s.watchWord ctx (ringSel trace + 1) % 32
def State.ringBase (s : State) (ctx : Nat) (trace : Bool) : Nat :=
  s.watchWord ctx (ringSel trace + 2) % 2 ^ 20 * 2 ^ 32 + s.watchWord ctx (ringSel trace + 1) / 4096 * 4096
def placeKey (ctx : Nat) (trace : Bool) : Nat := 2 * ctx + if trace then 1 else 0
/-- One more record dropped; the counter saturates. -/
def State.ringDrop (s : State) (ctx : Nat) (trace : Bool) : State :=
  s.setWatchWord ctx (ringSel trace + 5) (min (s.watchWord ctx (ringSel trace + 5) + 1) (2 ^ 32 - 1))
/-- Gives a record its place, or drops it. -/
def State.ringPlace (s : State) (ctx : Nat) (trace : Bool) (data : BitVec 256) : State :=
  let n := s.ringSize ctx trace
  let given := natGet s.watch.places (placeKey ctx trace)
  let used := (given + 2 ^ 32 - s.watchWord ctx (ringSel trace + 4)) % 2 ^ 32
  if n < 4 || n > 20 || used = 2 ^ n then s.ringDrop ctx trace
  else { s with watch := { s.watch with
    rings := s.watch.rings ++ [⟨ctx, trace, given, data, 0⟩]
    places := natSet s.watch.places (placeKey ctx trace) (given + 1) } }
/-- HEAD passes a ring's oldest record, whose write has ended. -/
def State.ringAdvance (s : State) (rec_ : Nat) (r : RingRec) : State :=
  { s with watch := { s.watch with rings := s.watch.rings.eraseIdx rec_ } }.setWatchWord r.ctx (ringSel r.trace + 3)
    (s.watchWord r.ctx (ringSel r.trace + 3) + 1)
/-- The physical address by which slices translate an intermediate one, if they do. -/
def State.physOf (s : State) (ctx ia : Nat) : Option Nat :=
  match s.pinOf ctx ia with
  | some h => some (pageAddr (cachedPage h.leaf) ia)
  | none => match s.walk ctx ia with | .page p => some (pageAddr p ia) | _ => none
/-- The largest time in a map of lines or chunks of k bytes, of those that stand on a physical span through some context's tables. -/
def State.physTime (s : State) (m : NatMap) (k pa n : Nat) : Nat :=
  maxOf (m.map fun (i, t) =>
    if (List.range s.ctxs.length).any fun c => ((s.physOf c (k * i)).map fun a => overlaps a k pa n).getD false then t else 0)
/-- The GWCT of a write that the Watch engine makes at a physical address: leases of the line and the times of its chunks, by whichever
intermediate addresses they are reached, hold it as those of any write (R411, R473). -/
def State.physGwct (s : State) (pa n : Nat) : Nat :=
  max (s.clockOf (.slice pa)) (max (s.physTime s.home.emax 256 (pa / 256 * 256) 256) (s.physTime s.home.vis 32 pa n)) + 4
/-- The write of a ring record is acked; once its GWCT has passed, HEAD passes the record. A record whose write fails counts as
dropped, and HEAD passes it when the write has ended (R473). -/
def execRingRecordWritten (rec_ : Nat) (ok : Bool) (s : State) : Host.Outcome State Fault Refusal :=
  match s.watch.rings[rec_]? with
  | none => .next s
  | some r =>
    let first := !(s.watch.rings.take rec_).any fun x => x.ctx == r.ctx && x.trace == r.trace
    if r.written = 0 then
      if ok then
        let a := s.ringBase r.ctx r.trace + 32 * (r.place % 2 ^ s.ringSize r.ctx r.trace)
        .next { s with
          home := (writePhys s.home a (natBytes 32 r.data.toNat)).1
          watch := { s.watch with rings := modAt s.watch.rings rec_ fun x => { x with written := s.physGwct a 32 + 1 } } }
      else .next (if first then (s.ringDrop r.ctx r.trace).ringAdvance rec_ r else s)
    else .next (if first && s.clockOf .watch + 1 ≥ r.written then s.ringAdvance rec_ r else s)
/-- The next trace record of a source arrives at the ring. -/
def execTraceRecord (src : Nat) (s : State) : Host.Outcome State Fault Refusal :=
  match s.watch.made.findIdx? (·.src == src) with
  | none => .next s
  | some i =>
    match s.watch.made[i]? with
    | none => .next s
    | some r =>
      .next ({ s with watch := { s.watch with made := s.watch.made.eraseIdx i } }.ringPlace r.ctx true r.data)

/-! ### The stall sampler (R469, R472) -/

/-- The bin or bundle that holds a thread. -/
def State.slotOf (s : State) (core : Nat) (id : WarpId) (l : Nat) : Option Slot :=
  ((s.core core).ports.flatMap fun p => p.slots.filterMap fun x => x).find? fun b =>
    b.unit == id.unit && b.wg == id.wg && b.entries.contains (id.warp, l)
/-- The producer of the pending register of lowest number that an instruction waits for. -/
def blameOf (w : Warp) (rs : List RegName) : Option VAddr :=
  let num (r : RegName) : Nat := match r with | .g n => n | .p n => 128 + n | .a n => 136 + n
  ((sortKey (fun e => num e.reg) (w.sb.filter fun e => rs.contains e.reg)).head?).map (·.pc)
/-- The counters that the warp would wait for before an instruction, by what it would raise (R95, R106). -/
def raised : Instr → List Counter
  | .ld .. | .ldx .. | .lds .. | .aldp .. | .ldAcq .. | .tld .. | .tlds .. | .atom .. | .cas .. => [.ld]
  | .st .. | .stx .. | .sts .. | .stRel .. | .tst .. | .tsts .. | .sflush _ | .sunmap _ => [.st]
  | .xcp .. | .xred .. | .xwalk .. | .xlr .. => [.xf]
  | .teval _ => [.tl]
  | _ => []
/-- An instruction waits for a counter: WAITC, or one whose counter is at 62. -/
def counterWait (w : Warp) : Instr → Bool
  | .waitc ld st xf tl => !(countOk w.ld ld && countOk w.st st && countOk w.xf xf && countOk w.tl tl)
  | i => (raised i).any fun k => w.counter k ≥ 62
/-- A tile of the list is in flight. -/
def tileWait (w : Warp) (ms : List Nat) : Bool := ms.any fun m => ((w.tiles[m]?).map (·.inflight.isSome)).getD false
/-- The issue that a lane is part of in this clk: of its port, or of its turn, the tangent clks included (R103, R472). -/
def Core.issuing (c : Core) (clk : Nat) (id : WarpId) (l : Nat) : Option Issued :=
  c.issues.find? fun x => x.unit == id.unit && x.wg == id.wg && x.clk ≤ clk && clk < x.until_ &&
    x.parts.any fun (w, ls) => w == id.warp && ls.contains l
/-- A thread that resolves a branch: it waits to be filed (R479). -/
def Core.resolving (c : Core) (clk : Nat) (id : WarpId) (l : Nat) : Bool :=
  c.ports.any fun p => p.queue.any fun f =>
    f.unit == id.unit && f.wg == id.wg && f.warp == id.warp && f.lane == l && !f.waiting && clk < f.due
/-- An evaluation that a lane's instruction forced, or whose end its append waits for. -/
def Core.forced (c : Core) (id : WarpId) (pc : VAddr) (l : Nat) : Bool :=
  (c.evalQ ++ (c.evalCur.map (·.1)).toList).any fun r => r.w == id && r.force == pc && r.lanes.contains l
/-- The tiles that an instruction names, or that a REGION's entry lists (R157). -/
def LaunchCfg.tilesOf (c : LaunchCfg) : Instr → List Nat
  | .region k => regionTiles c k.toNat
  | i => i.tiles
/-- A tile instruction, were it to issue, would wait for an evaluation of the warp's own graph: an append at the graph limit, another
for nodes that make or read one of its tiles (R218, R223). -/
def needsEngine (c : LaunchCfg) (w : Warp) (i : Instr) : Bool :=
  let ms := c.tilesOf i
  if i.slots != [] || (match i with | .ttr .. | .tmloop .. => true | _ => false) then
    w.graph != [] && w.pendingCount + 1 > c.limit
  else w.graph.any fun n => ms.contains n.dst.1 || n.ops.any fun o => ms.contains o.1
/-- The class of a live lane, its PC and its BLAME: the first condition of R472 that holds. A lane that has arrived at a collective
waits in the arrival set until all live lanes have arrived, and then for what the collective waits for. -/
def State.laneClass (s : State) (u : Placed) (core : Nat) (id : WarpId) (w : Warp) (l : Nat) (t : Thread) :
    Nat × Nat × Nat :=
  let c := s.core core
  let i := match u.fetch t.pc with | .word v => decode v | _ => none
  let regs := (i.map (Instr.waitRegs u.cfg)).getD []
  let inSet := (w.arrival.map fun a => a.lanes.contains l).getD false
  let placed := inSet || t.busy.isSome || u.cfg.det != 0 || ((s.slotOf core id l).map (·.formed)).getD false
  let pc := t.pc.toNat
  let tiles := (i.map u.cfg.tilesOf).getD []
  match c.issuing s.clk id l with
  | some x => (if x.clk < s.clk && s.clk ≤ x.clk + x.bank then 1 else 0, x.pc.toNat, 0)
  | none =>
    if t.halted then (2, pc, 0)
    else if u.cfg.det != 0 && u.owner != id then (12, pc, 0)
    else if c.resolving s.clk id l then (11, pc, 0)
    else if (match u.fetch t.pc with | .wait => true | _ => false) then (3, pc, 0)
    else if !placed then (11, pc, 0)
    else if t.busy.isNone && !(inSet && w.arrivalPends) && (blameOf w regs).isSome then
      (4, pc, ((blameOf w regs).map (·.toNat)).getD 0)
    else if inSet && w.arrivalPends then (5, pc, 0)
    else if (match i with
      | some (.barWait n g) =>
        let x := s.bar u.id id.wg n.toNat
        !barPassed x g t || s.now core < x.ltime.toNat
      | _ => false) then (6, pc, 0)
    else if t.busy.isNone && ((i.map (counterWait w)).getD false) then (7, pc, 0)
    else if t.parked.isSome then (8, pc, 0)
    else if c.forced id t.pc l || tiles.any fun m => c.evaluating id w m then (9, pc, 0)
    else if tileWait w tiles || ((i.map (needsEngine u.cfg w)).getD false && ((c.evalCur.map fun (r, _) => r.w != id).getD false)) then
      (10, pc, 0)
    else (12, pc, 0)
/-- The next number after `last` among those wanted, counted cyclically to n. -/
def nextCyclic (n last : Nat) (want : Nat → Bool) : Option Nat := ((List.range n).map fun k => (last + 1 + k) % n).find? want
/-- A sample record (R471). -/
def sampleBits (time pc blame ctx core warp lane cls : Nat) : BitVec 256 :=
  BitVec.ofNat 256 (time * 2 ^ 192 + pc % 2 ^ 72 * 2 ^ 120 + blame % 2 ^ 72 * 2 ^ 48 + ctx % 256 * 2 ^ 40 +
    core % 1024 * 2 ^ 30 + warp % 32 * 2 ^ 25 + lane % 32 * 2 ^ 20 + cls % 32)
/-- Warps of a context on a core. -/
def State.warpsOn (s : State) (ctx core : Nat) : List (Placed × WarpId × Warp) :=
  s.units.flatMap fun u => if u.ctx == ctx && u.onCore then
      (u.wgs.zipIdx).flatMap fun (g, gi) => if g.core == core then
          (g.warps.zipIdx).map fun (w, wi) => (u, (⟨u.id, gi, wi⟩ : WarpId), w)
        else []
    else []
/-- A sample of a context on a core: which record, and the sampler after it. -/
def State.sample (s : State) (core : Nat) (x : Sampler) : BitVec 256 × Sampler :=
  let ws := s.warpsOn x.ctx core
  let y : Sampler := { x with last := s.clk }
  let time := s.now core
  match (nextCyclic 32 x.slot fun k => ws.any fun (_, _, w) => w.slot == k).bind fun k => ws.find? fun (_, _, w) => w.slot == k with
  | none => (sampleBits time 0 0 x.ctx core 0 0 14, y)
  | some (u, id, w) =>
    let last := natGet x.lanes w.slot
    let live (l : Nat) : Bool := w.live.contains l
    match nextCyclic 32 (if last = 0 then 31 else last - 1) live with
    | none =>
      let (pc, lane) := match (s.core core).lastExit.find? (·.1 == w.slot) with
        | some (_, pc, l) => (pc.toNat, l)
        | none => (0, 0)
      (sampleBits time pc 0 x.ctx core w.slot lane 13, { y with slot := w.slot })
    | some l =>
      let (cls, pc, blame) := match w.threads[l]? with
        | some t => s.laneClass u core id w l t
        | none => (14, 0, 0)
      (sampleBits time pc blame x.ctx core w.slot l cls, { y with slot := w.slot, lanes := natSet x.lanes w.slot (l + 1) })
/-- Whether a sample of a sampler is due in this clk: one of those at t0 + k × PERIOD, and not yet taken. -/
def State.sampleDue (s : State) (x : Sampler) : Bool :=
  let v := s.watchWord x.ctx 0
  bitOf v 31 && bitsOf v 0 24 != 0 && x.last < s.clk && (s.clk - x.t0) % bitsOf v 0 24 == 0
/-- A sample is taken; the samples of one clk take their places in ascending core order (R473). -/
def execSampleTick (core : Nat) (c : BitVec 8) (s : State) : Host.Outcome State Fault Refusal :=
  match (s.core core).samplers.find? (·.ctx == c.toNat) with
  | none => .next s
  | some x =>
    let before := s.cores.any fun k => k.id < core && k.samplers.any fun z => z.ctx == c.toNat && s.sampleDue z
    if !s.sampleDue x || before then .next s
    else
      let (bits, y) := s.sample core x
      let s := s.modCore core fun k => { k with samplers := k.samplers.map fun z => if z.ctx == c.toNat then y else z }
      .next (s.ringPlace c.toNat false bits)

/-! ### Dumps (R470, R477, R478) -/

def Watch.full (w : Watch) : Bool := w.dslots.toNat = 0 || (w.dhead - w.dtail).toNat = w.dslots.toNat
/-- The record of a capture is posted; a stop or step dump has none. -/
def State.postCapture (s : State) (e : Capture) (dump : Bool) : State :=
  match e.record with
  | some r => if r.code = 0 then s else s.post e.queue r dump
  | none => s
/-- The dump engine begins a dump: the one it has captured, or the first that waits, whose warps are captured now, unless no slot is
free for it. -/
def execDumpStart (s : State) : Host.Outcome State Fault Refusal :=
  match s.watch.dump, s.watch.dumpQ with
  | some d, _ => .next { s with watch := { s.watch with dump := some { d with started := true } } }
  | none, d :: ds =>
    if s.watch.full then
      let n := s.watch.ddrop
      let s := { s with watch := { s.watch with dumpQ := ds, ddrop := if n.toNat = 2 ^ 32 - 1 then n else n + 1 } }
      .next (d.entries.foldl (fun (s : State) (e : Capture) => s.postCapture e false) s)
    else
      let now : Dump := { d with started := true, entries := s.fillCaptures 0 d.entries, time := s.clockOf .watch }
      .next { s with watch := { s.watch with dump := some now, dumpQ := ds } }
  | none, [] => .next s
/-- The header of a dump. -/
def dumpHeader (d : Dump) : Nat :=
  d.time % 2 ^ 64 * 2 ^ 448 + d.launchid.toNat * 2 ^ 384 + d.idx % 2 ^ 32 * 2 ^ 352 + d.ctx % 256 * 2 ^ 344 +
    d.kind % 256 * 2 ^ 336 + (if d.kind = 1 then d.entries.length else 0) * 2 ^ 328 + d.overflow % 2 ^ 32 * 2 ^ 296 +
    d.stoppc.toNat * 2 ^ 224 + d.bkcode.toNat * 2 ^ 214 + d.wgic % 4 * 2 ^ 212
/-- A barrier object as a dump shows it, in 64 bytes (R173; assumption 96). -/
def barImage (b : Barrier) : List Byte :=
  let rec_ (e : ErrRec) : List Byte := natBytes 4 e.chunk.toNat ++ natBytes 8 e.extent.toNat ++ natBytes 1 e.kind.toNat
  natBytes 8 b.ltime.toNat ++ natBytes 8 b.time.toNat ++ natBytes 8 b.bytes.toNat ++ natBytes 2 b.count.toNat ++
    natBytes 2 b.pending.toNat ++ natBytes 4 ((if b.err then 1 else 0) + if b.phase then 2 else 0) ++ rec_ b.curErr ++
    rec_ b.lastErr ++ natBytes 6 0
/-- What an entry shows beside the layout of R470: the value of each faulting lane, after its part, and the workgroup's barrier
objects, behind the lanes' parts (R161, R173, R357; assumption 96). -/
def Capture.extra (e : Capture) (f : Nat) : List (Nat × List Byte) :=
  (e.vals.map fun (l, v) => (4096 + 131072 * f + 4096 * l + 3384, natBytes 8 v)) ++
  [(528384 + 4096 * f, e.bars.flatMap barImage)]
/-- Writes one entry of a dump and posts its record. -/
def State.dumpEntry (s : State) (slot : Nat) (f : Nat) (e : Capture) : State :=
  let head := match e.record with
    | some r => natBytes 64 (recordBits r (if r.code = 0 then 0 else (s.queue e.queue).seq + 1) (s.clockOf .task) true)
    | none => []
  let img := (256 + 256 * f, head) :: e.image ++ e.extra f
  let home := img.foldl (fun (h : Home) (x : Nat × List Byte) => (writePhys h (slot + x.1) x.2).1) s.home
  { s with home := home }.postCapture e true
def execDumpComplete (s : State) : Host.Outcome State Fault Refusal :=
  match s.watch.dump with
  | none => .next s
  | some d =>
    if !d.started then .next s
    else
      let w := s.watch
      let slot := w.dbase.toNat * 4096 + 2 ^ 20 * (w.dhead.toNat % max 1 w.dslots.toNat)
      let s := { s with
        home := (writePhys s.home slot (natBytes 64 (dumpHeader d))).1
        watch := { w with dump := none, dhead := w.dhead + 1 } }
      .next ((d.entries.zipIdx).foldl (fun (s : State) (x : Capture × Nat) => s.dumpEntry slot x.2 x.1) s)

end Sys2Proof.Machine
end

