-- ==== Sys2Proof/Machine/Mgmt.lean ====
section
/-! DEFINITION. The Aediq management controller: starts, commands, firmware updates, attestation and soft errors (R2, R25, R482
to R495). -/

namespace Sys2Proof

/-! ### Requests to the controller (R484, R485, R493; assumption 14) -/

/-- The fields of a request's header. -/
def MgmtReq.length (r : MgmtReq) : Nat := Machine.bitsOf r.header.toNat 32 32
def MgmtReq.tag (r : MgmtReq) : Nat := Machine.bitsOf r.header.toNat 16 16
def MgmtReq.flags (r : MgmtReq) : Nat := Machine.bitsOf r.header.toNat 8 8
def MgmtReq.cmd (r : MgmtReq) : Nat := Machine.bitsOf r.header.toNat 0 8
/-- The vendor-defined type under which an interface carries management commands. -/
def mgmtType : MgmtIf → BitVec 8
  | .doe => 0x01
  | .mctp => 0x7E
/-- A request that is a management command: of the vendor-defined type, under the device's vendor identifier. -/
def MgmtReq.isCommand (r : MgmtReq) : Bool := r.type == mgmtType r.iface && r.vendor == Config.vendorId
/-- A request that is an attestation message, of the vendor and the type that its standards assign: 0x01 of vendor 0x0001 over DOE,
message type 0x05 over MCTP. -/
def MgmtReq.isSpdm (r : MgmtReq) : Bool :=
  match r.iface with
  | .doe => r.type == 0x01 && r.vendor == 0x0001
  | .mctp => r.type == 0x05
/-- A LENGTH that is not the payload's or that the command does not take, or a nonzero flag beyond its own. -/
def MgmtReq.malformed (r : MgmtReq) (flags : Nat) (len : Nat → Bool) : Bool :=
  r.length != r.payload.length || !len r.length || r.length % 4 != 0 || r.length > 4096 || r.flags / 2 ^ flags != 0

end Sys2Proof

namespace Sys2Proof.Machine

/-! ### SHA3-256 (FIPS 202), which R489 and R493 name (assumption 47) -/

/-- Lane rotation amounts, by x + 5 y. -/
def keccakRot : List Nat :=
  [0, 1, 62, 28, 27, 36, 44, 6, 55, 20, 3, 10, 43, 25, 39, 41, 45, 15, 21, 8, 18, 2, 61, 56, 14]
def keccakRc : List Nat :=
  [0x1, 0x8082, 0x800000000000808A, 0x8000000080008000, 0x808B, 0x80000001, 0x8000000080008081, 0x8000000000008009, 0x8A,
   0x88, 0x80008009, 0x8000000A] ++
  [0x8000808B, 0x800000000000008B, 0x8000000000008089, 0x8000000000008003, 0x8000000000008002, 0x8000000000000080, 0x800A,
   0x800000008000000A, 0x8000000080008081, 0x8000000000008080, 0x80000001, 0x8000000080008008]
def rotl64 (v n : Nat) : Nat := (v * 2 ^ n + v / 2 ^ (64 - n)) % 2 ^ 64
def laneAt (a : List Nat) (x y : Nat) : Nat := (a[x % 5 + 5 * (y % 5)]?).getD 0
def keccakRound (a : List Nat) (rc : Nat) : List Nat :=
  let col (x : Nat) : Nat := (List.range 5).foldl (fun v y => v ^^^ laneAt a x y) 0
  let cs := (List.range 5).map col
  let c (x : Nat) : Nat := (cs[x % 5]?).getD 0
  let t := (List.range 25).map fun i => ((a[i]?).getD 0) ^^^ c (i + 4) ^^^ rotl64 (c (i + 1)) 1
  -- lane (x, y) of the permuted state comes from (x + 3 y, x)
  let b := (List.range 25).map fun i =>
    let src := (i % 5 + 3 * (i / 5)) % 5 + 5 * (i % 5)
    rotl64 ((t[src]?).getD 0) ((keccakRot[src]?).getD 0)
  let chi := (List.range 25).map fun i =>
    laneAt b i (i / 5) ^^^ ((2 ^ 64 - 1 - laneAt b (i + 1) (i / 5)) &&& laneAt b (i + 2) (i / 5))
  modAt chi 0 fun v => v ^^^ rc
def keccakF (a : List Nat) : List Nat := keccakRc.foldl keccakRound a
/-- Absorbs blocks of 136 bytes. -/
def absorb : Nat → List Nat → List Byte → List Nat
  | 0, a, _ => a
  | k + 1, a, bs =>
    let block := bs.take 136
    let a' := (a.zipIdx).map fun (v, i) => v ^^^ (if i < 17 then bytesNat ((block.drop (8 * i)).take 8) else 0)
    absorb k (keccakF a') (bs.drop 136)
def sha3 (m : List Byte) : List Byte :=
  let z := 135 - m.length % 136
  let pad : List Byte := if z = 0 then [0x86] else [0x06] ++ List.replicate (z - 1) 0 ++ [0x80]
  let a := absorb (m.length / 136 + 1) (List.replicate 25 0) (m ++ pad)
  (a.take 4).flatMap (natBytes 8)

/-! ### Images (R489) -/

/-- The header of an image: 64 bytes at its start. -/
def FwSlot.header (x : FwSlot) : Nat := bytesNat (memRead x.image 0 64)
def FwSlot.version (x : FwSlot) : Nat := bitsOf x.header 32 32
def FwSlot.minver (x : FwSlot) : Nat := bitsOf x.header 64 32
def FwSlot.body (x : FwSlot) : List Byte := memRead x.image 2560 (bitsOf x.header 96 32)
def FwSlot.verifies (x : FwSlot) : Bool :=
  bitsOf x.header 0 32 == 0x5A4BA7F1 && bitsOf x.header 128 128 == 0 && Config.imageSigned (memRead x.image 0 2484) &&
    bytesNat (sha3 x.body) == bitsOf x.header 256 256
def Amc.slotN (a : Amc) (b : Bool) : FwSlot := (a.slots[if b then 1 else 0]?).getD ⟨[], false⟩
def Amc.modSlot (a : Amc) (b : Bool) (f : FwSlot → FwSlot) : Amc := { a with slots := modAt a.slots (if b then 1 else 0) f }

/-! ### The log ring (R483) -/

/-- Records of the 1 MiB ring: the oldest is overwritten. -/
def State.log (s : State) (source code d0 d1 : Nat) : State :=
  let l := s.amc.log ++ [Config.logRecord s.tick source code d0 d1]
  { s with amc := { s.amc with log := l.drop (l.length - 16384) } }

/-! ### MODULE_RESET (R25, R487, R488, R491) -/

/-- What outlives a module reset: the controller, and what stands outside the device. -/
def State.resetKeep (s : State) (a : Amc) : State :=
  { State.reset with
    agenda := s.agenda, nextId := s.nextId, freeCtr := s.freeCtr, amc := { a with update := none }
    home := { Home.reset with
      host := s.home.host, peers := s.home.peers, hostPoison := s.home.hostPoison, peerErrs := s.home.peerErrs } }
/-- The slot that a start runs: the activated one, else the running one; one that does not verify gives way to the other (R489,
R491). -/
def Amc.wanted (a : Amc) : Bool := if a.pending then !a.slot else a.slot
def Amc.runnable (a : Amc) : Option Bool :=
  if (a.slotN a.wanted).verifies then some a.wanted
  else if (a.slotN (!a.wanted)).verifies then some (!a.wanted)
  else none
/-- The stage that ends a start, of a stage from 2 to 6 that the hardware fails, if any (R487). -/
def Amc.failsAt (a : Amc) (failing : Option (BitVec 3)) : Option Nat :=
  if a.runnable.isNone then some 1
  else failing.bind fun k => if 2 ≤ k.toNat && k.toNat ≤ 6 then some k.toNat else none
/-- A start that begins in minimal mode (R488). -/
def Amc.minimal (a : Amc) : Bool := a.fails == 3 && !a.pending
def Amc.start (a : Amc) (failing : Option (BitVec 3)) : Amc :=
  if a.minimal then { a with mode := 2 }
  else match a.failsAt failing, a.runnable with
    | none, some b => { a with
        mode := 1, reason := 0, fails := 0, pending := false, slot := b
        fwver := BitVec.ofNat 32 (a.slotN b).version }
    | code, _ => { a with
        mode := 0, reason := BitVec.ofNat 8 (code.getD 0), pending := false
        fails := if a.fails == 3 then 3 else a.fails + 1 }
/-- What a start logs: each stage with 0 when it has passed and 1 when it has failed, then the slot that runs on when the activated
one does not (R483, R491). -/
def Amc.startLog (a : Amc) (failing : Option (BitVec 3)) : List (Nat × Nat × Nat) :=
  if a.minimal then []
  else
    let last := (a.failsAt failing).getD 7
    let stages := ((List.range 6).map (· + 1)).filterMap fun k =>
      if k < last then some (1, k, 0) else if k = last then some (1, k, 1) else none
    let reverted := a.pending && (last < 7 || a.runnable != some a.wanted)
    stages ++ if reverted then [(5, 0, if a.slot then 1 else 0)] else []
def execModuleReset (failing : Option (BitVec 3)) (s : State) : Host.Outcome State Fault Refusal :=
  .next ((s.amc.startLog failing).foldl (fun t (source, code, d) => t.log source code d 0) (s.resetKeep (s.amc.start failing)))

/-! ### Requests and responses (R484 to R486; assumption 14) -/

/-- A response's header. -/
def respHeader (length tag status cmd : Nat) : BitVec 64 :=
  BitVec.ofNat 64 (length % 2 ^ 32 * 2 ^ 32 + tag % 2 ^ 16 * 2 ^ 16 + status % 2 ^ 8 * 2 ^ 8 + cmd % 2 ^ 8)
/-- The codes of the command table (R485). -/
def knownCmd (c : Nat) : Bool := 0 < c && c < 0x0A
def State.answer (s : State) (x : MgmtResp) : State := { s with amc := { s.amc with responses := s.amc.responses ++ [x] } }
/-- The response to a command, on the interface that carried it: TAG and CMD are the request's (R484). -/
def State.respond (s : State) (r : MgmtReq) (status : Nat) (payload : List Byte) : State :=
  s.answer ⟨r.iface, r.vendor, r.type, respHeader payload.length r.tag status r.cmd, payload, none⟩
/-- A refused command changes no state beside its response and the log. -/
def State.refuseCmd (s : State) (r : MgmtReq) (status : Nat) : State := (s.respond r status []).log 2 r.cmd status 0
/-- The command of a code, with the flags and payload lengths it takes. A CMD that is unknown is refused; a request for another
command, or for none, is no event of this one and changes nothing. -/
def State.command (s : State) (r : MgmtReq) (cmd flags : Nat) (len : Nat → Bool) (go : State → State) :
    Host.Outcome State Fault Refusal :=
  .next (if !r.isCommand then s
    else if !knownCmd r.cmd then s.refuseCmd r 3
    else if r.cmd != cmd then s
    else if r.malformed flags len then s.refuseCmd r 3
    else go s)

/-! ### Commands (R485, R490, R492) -/

def Amc.statusWord (a : Amc) : Nat :=
  a.enmask.toNat * 2 ^ 48 + a.fwver.toNat * 2 ^ 16 + a.reason.toNat * 2 ^ 8 + a.mode.toNat * 2 ^ 6 + a.fails.toNat * 2 ^ 4 +
    (if a.pending then 8 else 0) + (if a.slot then 4 else 0)
def execStatus (r : MgmtReq) (s : State) : Host.Outcome State Fault Refusal :=
  s.command r 0x01 0 (· == 0) fun s => s.respond r 0 (natBytes 8 s.amc.statusWord)
/-- Update commands: BUSY while starting or when the other interface owns the update, NO_UPDATE with none open. -/
def State.updateCmd (s : State) (r : MgmtReq) (opens : Bool) (go : State → State) : State :=
  if s.amc.mode == 0 then s.refuseCmd r 1
  else match s.amc.update with
    | none => if opens then go s else s.refuseCmd r 5
    | some i => if i == r.iface then go s else s.refuseCmd r 1
def State.closeUpdate (s : State) : State :=
  { s with amc := { s.amc with update := none, mode := if s.amc.mode == 3 then 1 else s.amc.mode } }
/-- WRITE into the slot that is not running. -/
def execWrite (r : MgmtReq) (s : State) : Host.Outcome State Fault Refusal :=
  s.command r 0x02 0 (4 ≤ ·) fun s => s.updateCmd r true fun s =>
    let off := bytesNat (r.payload.take 4)
    let bs := r.payload.drop 4
    if off % 4 != 0 || off + bs.length > 2 ^ 25 then s.refuseCmd r 4
    else
      let a := s.amc.modSlot (!s.amc.slot) fun x => ⟨memWrite x.image off bs, false⟩
      (({ s with amc := { a with update := some r.iface, mode := if a.mode == 2 then 2 else 3 } }).respond r 0 []).log 3 0x02
        off bs.length
def execVerify (r : MgmtReq) (s : State) : Host.Outcome State Fault Refusal :=
  s.command r 0x03 0 (· == 0) fun s => s.updateCmd r false fun s =>
    let x := s.amc.slotN (!s.amc.slot)
    let v := x.verifies
    let s := { s with amc := s.amc.modSlot (!s.amc.slot) fun x => { x with verified := v } }
    (s.respond r 0 (natBytes 4 x.version ++ natBytes 4 (if v then 1 else 0))).log 3 0x03 x.version 0
def execActivate (r : MgmtReq) (s : State) : Host.Outcome State Fault Refusal :=
  s.command r 0x04 0 (· == 0) fun s => s.updateCmd r false fun s =>
    let x := s.amc.slotN (!s.amc.slot)
    if !x.verified || x.version < (s.amc.slotN s.amc.slot).minver then s.refuseCmd r 2
    else
      let s := { s with amc := { s.amc with pending := true } }.closeUpdate
      (s.respond r 0 []).log 3 0x04 x.version 0
def execRetryStarts (r : MgmtReq) (s : State) : Host.Outcome State Fault Refusal :=
  s.command r 0x05 0 (· == 0) fun s => { s with amc := { s.amc with fails := 0 } }.respond r 0 []
def execErrcnt (r : MgmtReq) (s : State) : Host.Outcome State Fault Refusal :=
  s.command r 0x06 1 (· == 0) fun s =>
    let t := s.respond r 0 ((List.range 7).flatMap fun k => natBytes 4 (((s.amc.counters[k]?).map (·.toNat)).getD 0))
    if bitOf r.flags 0 then { t with amc := { t.amc with counters := List.replicate 7 0 } } else t
def execSensors (r : MgmtReq) (s : State) : Host.Outcome State Fault Refusal :=
  s.command r 0x07 0 (· == 0) fun s => s.respond r 0 s.amc.sensors
def execLogread (r : MgmtReq) (s : State) : Host.Outcome State Fault Refusal :=
  s.command r 0x08 0 (· == 4) fun s =>
    s.respond r 0 (((s.amc.log.drop (bytesNat r.payload)).take 64).flatMap fun x => natBytes 64 x.toNat)
def execAbort (r : MgmtReq) (s : State) : Host.Outcome State Fault Refusal :=
  s.command r 0x09 0 (· == 0) fun s => s.updateCmd r false fun s =>
    let s := { s with amc := s.amc.modSlot (!s.amc.slot) fun x => { x with verified := false } }.closeUpdate
    (s.respond r 0 []).log 3 0x09 0 0

/-! ### Attestation (R493; assumption 14) -/

/-- The measurement blocks: the digests of the controller's firmware and of the running image, ENMASK, the encoding hash. -/
def Amc.blocks (a : Amc) : List (Nat × List Byte) :=
  [(1, sha3 Config.amcFirmware), (2, natBytes 32 (bitsOf (a.slotN a.slot).header 256 256)), (3, natBytes 2 a.enmask.toNat),
   (4, natBytes 8 Config.encHash)]
/-- The blocks that a GET_MEASUREMENTS asks for by its operation, the fourth byte of its message: none for 0, which asks for their
number, all for 0xFF, else the one of that index. -/
def Amc.askedBlocks (a : Amc) (r : MgmtReq) : List (Nat × List Byte) :=
  let op := bytesNat ((r.payload.drop 3).take 1)
  if op = 0 then [] else if op = 0xFF then a.blocks else a.blocks.filter (·.1 == op)
/-- An attestation message is answered: what the response tells, and bytes that are a free value of the request, of that and of a
counter; `code` is the request's in SPDM. -/
def State.spdm (s : State) (r : MgmtReq) (code : Nat) (about : SpdmAnswer) : State :=
  if !r.isSpdm then s
  else
    let told := match about with
      | .measurements _ bs => bs.flatMap (·.2)
      | .challenge => s.amc.blocks.flatMap (·.2)
      | _ => []
    let s := { s with freeCtr := s.freeCtr + 1 }
    s.answer ⟨r.iface, r.vendor, r.type, 0, Config.spdmPayload code (r.payload ++ told) (s.freeCtr - 1), some about⟩
def execGetVersion (r : MgmtReq) (s : State) : Host.Outcome State Fault Refusal := .next (s.spdm r 0x84 (.version 1 3))
def execGetCapabilities (r : MgmtReq) (s : State) : Host.Outcome State Fault Refusal := .next (s.spdm r 0xE1 (.capabilities false))
def execNegotiateAlgorithms (r : MgmtReq) (s : State) : Host.Outcome State Fault Refusal :=
  .next (s.spdm r 0xE3 (.algorithms [.sha3_256] [.mlDsa44]))
def execGetDigests (r : MgmtReq) (s : State) : Host.Outcome State Fault Refusal := .next (s.spdm r 0x81 .digests)
def execGetCertificate (r : MgmtReq) (s : State) : Host.Outcome State Fault Refusal := .next (s.spdm r 0x82 .certificate)
def execChallenge (r : MgmtReq) (s : State) : Host.Outcome State Fault Refusal := .next (s.spdm r 0x83 .challenge)
def execGetMeasurements (r : MgmtReq) (s : State) : Host.Outcome State Fault Refusal :=
  .next (s.spdm r 0xE0 (.measurements s.amc.blocks.length (s.amc.askedBlocks r)))
/-- Refused with UnsupportedRequest, 0x07 of SPDM's ERROR response; the refusal is logged. -/
def State.unsupported (s : State) (r : MgmtReq) (code : Nat) : State :=
  if r.isSpdm then (s.spdm r code .unsupportedRequest).log 2 code 0x07 0 else s
def execKeyExchange (r : MgmtReq) (s : State) : Host.Outcome State Fault Refusal := .next (s.unsupported r 0xE4)
def execPskExchange (r : MgmtReq) (s : State) : Host.Outcome State Fault Refusal := .next (s.unsupported r 0xE6)

/-! ### Sensors and soft errors (R11, R483, R485, R494, R495) -/

/-- New readings in the layout of SENSORS; a disabled stack reads 0x8000. -/
def execSensorRefresh (readings : List Byte) (s : State) : Host.Outcome State Fault Refusal :=
  let rails := bytesNat ((readings.drop 36).take 2)
  if readings.length != 40 + 8 * rails then .next s
  else
    let one (i : Nat) : List Byte :=
      if s.amc.enmask.getLsbD i then (readings.drop (2 * i)).take 2 else natBytes 2 0x8000
    let temps := (List.range 16).flatMap one
    .next { s with amc := { s.amc with
      sensors := temps ++ (readings.drop 32).take 6 ++ natBytes 2 0 ++ readings.drop 40 } }
/-- Counts and logs a correction, a retry or an error. -/
def State.count (s : State) (n d0 : Nat) : State :=
  { s with amc := { s.amc with counters := modAt s.amc.counters n fun v => if v.toNat = 2 ^ 32 - 1 then v else v + 1 } }.log 4 n d0 0
def execSoftErrorCorrection (counter : BitVec 2) (s : State) : Host.Outcome State Fault Refusal :=
  .next (if counter.toNat < 3 then s.count counter.toNat 0 else s)
def execFlitRetry (counter : BitVec 2) (s : State) : Host.Outcome State Fault Refusal :=
  .next (if counter.toNat < 3 then s.count (3 + counter.toNat) 0 else s)
/-- An error that cannot be corrected, counted with the address of its unit: poison falls on an 8-byte unit of the L2, or for a
device's own ECC on the 32-byte chunk that its ECC word lies in (assumption 48); on a unit of host memory, or of a peer's, whose
read then completes with an error (R356). -/
def execUncorrectableError (addr : Nat) (site : ErrSite) (s : State) : Host.Outcome State Fault Refusal :=
  let spoil (us : List Nat) : State :=
    { s with home := { s.home with poison := s.home.poison ++ us.filter fun u => !s.home.poison.contains u } }
  .next (match site with
    | .unit => (spoil [addr / 8 * 8]).count 6 addr
    | .chunk => (spoil ((List.range 4).map fun k => addr / 32 * 32 + 8 * k)).count 6 addr
    | .host => { s with home := { s.home with hostPoison := (addr / 8 * 8 :: s.home.hostPoison).eraseDups } }.count 6 addr
    | .peer n => { s with home := { s.home with peerErrs := ((n, addr / 8 * 8) :: s.home.peerErrs).eraseDups } }.count 6 addr)

end Sys2Proof.Machine
end

