-- ==== Sys2Proof/Machine/Dispatch.lean ====
section
/-! DEFINITION. One arm for each constructor of `Instr`. -/

namespace Sys2Proof.Machine

def exec (i : Instr) (s : State) : Host.Outcome State Fault Refusal :=
  match i with
  | .iadd x1 x2 x3 x4 x5 => Sys2Proof.Machine.execIadd x1 x2 x3 x4 x5 s
  | .isub x1 x2 x3 x4 x5 => Sys2Proof.Machine.execIsub x1 x2 x3 x4 x5 s
  | .iaddi x1 x2 x3 => Sys2Proof.Machine.execIaddi x1 x2 x3 s
  | .imul x1 x2 x3 x4 x5 => Sys2Proof.Machine.execImul x1 x2 x3 x4 x5 s
  | .imulhi x1 x2 x3 x4 x5 => Sys2Proof.Machine.execImulhi x1 x2 x3 x4 x5 s
  | .imad x1 x2 x3 x4 x5 => Sys2Proof.Machine.execImad x1 x2 x3 x4 x5 s
  | .imin x1 x2 x3 x4 x5 => Sys2Proof.Machine.execImin x1 x2 x3 x4 x5 s
  | .imax x1 x2 x3 x4 x5 => Sys2Proof.Machine.execImax x1 x2 x3 x4 x5 s
  | .clz x1 x2 x3 => Sys2Proof.Machine.execClz x1 x2 x3 s
  | .popc x1 x2 x3 => Sys2Proof.Machine.execPopc x1 x2 x3 s
  | .brev x1 x2 x3 => Sys2Proof.Machine.execBrev x1 x2 x3 s
  | .iabs x1 x2 x3 => Sys2Proof.Machine.execIabs x1 x2 x3 s
  | .and_ x1 x2 x3 x4 => Sys2Proof.Machine.execAnd x1 x2 x3 x4 s
  | .or_ x1 x2 x3 x4 => Sys2Proof.Machine.execOr x1 x2 x3 x4 s
  | .xor_ x1 x2 x3 x4 => Sys2Proof.Machine.execXor x1 x2 x3 x4 s
  | .andn x1 x2 x3 x4 => Sys2Proof.Machine.execAndn x1 x2 x3 x4 s
  | .shl x1 x2 x3 x4 => Sys2Proof.Machine.execShl x1 x2 x3 x4 s
  | .shr x1 x2 x3 x4 => Sys2Proof.Machine.execShr x1 x2 x3 x4 s
  | .sar x1 x2 x3 x4 => Sys2Proof.Machine.execSar x1 x2 x3 x4 s
  | .rotl x1 x2 x3 x4 => Sys2Proof.Machine.execRotl x1 x2 x3 x4 s
  | .shli x1 x2 x3 => Sys2Proof.Machine.execShli x1 x2 x3 s
  | .shri x1 x2 x3 => Sys2Proof.Machine.execShri x1 x2 x3 s
  | .sari x1 x2 x3 => Sys2Proof.Machine.execSari x1 x2 x3 s
  | .bfxN32 x1 x2 x3 x4 => Sys2Proof.Machine.execBfxN32 x1 x2 x3 x4 s
  | .bfxI32 x1 x2 x3 x4 => Sys2Proof.Machine.execBfxI32 x1 x2 x3 x4 s
  | .bfi x1 x2 x3 x4 => Sys2Proof.Machine.execBfi x1 x2 x3 x4 s
  | .icmp x1 x2 x3 x4 x5 => Sys2Proof.Machine.execIcmp x1 x2 x3 x4 x5 s
  | .plop x1 x2 x3 x4 => Sys2Proof.Machine.execPlop x1 x2 x3 x4 s
  | .mov x1 x2 x3 => Sys2Proof.Machine.execMov x1 x2 x3 s
  | .movx x1 x2 x3 x4 => Sys2Proof.Machine.execMovx x1 x2 x3 x4 s
  | .movxw x1 x2 x3 x4 => Sys2Proof.Machine.execMovxw x1 x2 x3 x4 s
  | .selP0P3 x1 x2 x3 x4 x5 => Sys2Proof.Machine.execSelP0P3 x1 x2 x3 x4 x5 s
  | .selP4P7 x1 x2 x3 x4 x5 => Sys2Proof.Machine.execSelP4P7 x1 x2 x3 x4 x5 s
  | .movi x1 x2 => Sys2Proof.Machine.execMovi x1 x2 s
  | .fadd x1 x2 x3 x4 => Sys2Proof.Machine.execFadd x1 x2 x3 x4 s
  | .fsub x1 x2 x3 x4 => Sys2Proof.Machine.execFsub x1 x2 x3 x4 s
  | .fmul x1 x2 x3 x4 => Sys2Proof.Machine.execFmul x1 x2 x3 x4 s
  | .ffma x1 x2 x3 x4 => Sys2Proof.Machine.execFfma x1 x2 x3 x4 s
  | .fmin x1 x2 x3 x4 => Sys2Proof.Machine.execFmin x1 x2 x3 x4 s
  | .fmax x1 x2 x3 x4 => Sys2Proof.Machine.execFmax x1 x2 x3 x4 s
  | .fcmp x1 x2 x3 x4 => Sys2Proof.Machine.execFcmp x1 x2 x3 x4 s
  | .frcp x1 x2 x3 => Sys2Proof.Machine.execFrcp x1 x2 x3 s
  | .frsq x1 x2 x3 => Sys2Proof.Machine.execFrsq x1 x2 x3 s
  | .fsqrt x1 x2 x3 => Sys2Proof.Machine.execFsqrt x1 x2 x3 s
  | .fexp2 x1 x2 x3 => Sys2Proof.Machine.execFexp2 x1 x2 x3 s
  | .flog2 x1 x2 x3 => Sys2Proof.Machine.execFlog2 x1 x2 x3 s
  | .fsin x1 x2 x3 => Sys2Proof.Machine.execFsin x1 x2 x3 s
  | .fcos x1 x2 x3 => Sys2Proof.Machine.execFcos x1 x2 x3 s
  | .fdiv x1 x2 x3 x4 => Sys2Proof.Machine.execFdiv x1 x2 x3 x4 s
  | .fscale x1 x2 x3 x4 => Sys2Proof.Machine.execFscale x1 x2 x3 x4 s
  | .dadd x1 x2 x3 x4 => Sys2Proof.Machine.execDadd x1 x2 x3 x4 s
  | .dmul x1 x2 x3 x4 => Sys2Proof.Machine.execDmul x1 x2 x3 x4 s
  | .dfma x1 x2 x3 x4 => Sys2Proof.Machine.execDfma x1 x2 x3 x4 s
  | .hadd2F16 x1 x2 x3 x4 => Sys2Proof.Machine.execHadd2F16 x1 x2 x3 x4 s
  | .hmul2F16 x1 x2 x3 x4 => Sys2Proof.Machine.execHmul2F16 x1 x2 x3 x4 s
  | .hfma2F16 x1 x2 x3 x4 => Sys2Proof.Machine.execHfma2F16 x1 x2 x3 x4 s
  | .hadd2Bf16 x1 x2 x3 x4 => Sys2Proof.Machine.execHadd2Bf16 x1 x2 x3 x4 s
  | .hmul2Bf16 x1 x2 x3 x4 => Sys2Proof.Machine.execHmul2Bf16 x1 x2 x3 x4 s
  | .hfma2Bf16 x1 x2 x3 x4 => Sys2Proof.Machine.execHfma2Bf16 x1 x2 x3 x4 s
  | .hmin2F16 x1 x2 x3 x4 => Sys2Proof.Machine.execHmin2F16 x1 x2 x3 x4 s
  | .hmax2F16 x1 x2 x3 x4 => Sys2Proof.Machine.execHmax2F16 x1 x2 x3 x4 s
  | .hmin2Bf16 x1 x2 x3 x4 => Sys2Proof.Machine.execHmin2Bf16 x1 x2 x3 x4 s
  | .hmax2Bf16 x1 x2 x3 x4 => Sys2Proof.Machine.execHmax2Bf16 x1 x2 x3 x4 s
  | .cvt x1 x2 x3 x4 x5 => Sys2Proof.Machine.execCvt x1 x2 x3 x4 x5 s
  | .cvtn x1 x2 x3 x4 x5 => Sys2Proof.Machine.execCvtn x1 x2 x3 x4 x5 s
  | .cvtw x1 x2 x3 x4 x5 => Sys2Proof.Machine.execCvtw x1 x2 x3 x4 x5 s
  | .shflIdx x1 x2 x3 x4 => Sys2Proof.Machine.execShflIdx x1 x2 x3 x4 s
  | .shflUp x1 x2 x3 x4 => Sys2Proof.Machine.execShflUp x1 x2 x3 x4 s
  | .shflDown x1 x2 x3 x4 => Sys2Proof.Machine.execShflDown x1 x2 x3 x4 s
  | .shflXor x1 x2 x3 x4 => Sys2Proof.Machine.execShflXor x1 x2 x3 x4 s
  | .voteAny x1 x2 x3 => Sys2Proof.Machine.execVoteAny x1 x2 x3 s
  | .voteAll x1 x2 x3 => Sys2Proof.Machine.execVoteAll x1 x2 x3 s
  | .voteBallot x1 x2 x3 => Sys2Proof.Machine.execVoteBallot x1 x2 x3 s
  | .lreduce x1 x2 x3 => Sys2Proof.Machine.execLreduce x1 x2 x3 s
  | .ader x1 x2 => Sys2Proof.Machine.execAder x1 x2 s
  | .anarrow x1 x2 x3 x4 => Sys2Proof.Machine.execAnarrow x1 x2 x3 x4 s
  | .aadv x1 x2 x3 => Sys2Proof.Machine.execAadv x1 x2 x3 s
  | .aget x1 x2 x3 x4 => Sys2Proof.Machine.execAget x1 x2 x3 x4 s
  | .aadvi x1 x2 => Sys2Proof.Machine.execAadvi x1 x2 s
  | .dget x1 x2 x3 x4 => Sys2Proof.Machine.execDget x1 x2 x3 x4 s
  | .dset x1 x2 x3 x4 => Sys2Proof.Machine.execDset x1 x2 x3 x4 s
  | .dseed x1 x2 x3 => Sys2Proof.Machine.execDseed x1 x2 x3 s
  | .sread x1 x2 => Sys2Proof.Machine.execSread x1 x2 s
  | .rand x1 => Sys2Proof.Machine.execRand x1 s
  | .ld x1 x2 x3 x4 x5 => Sys2Proof.Machine.execLd x1 x2 x3 x4 x5 s
  | .st x1 x2 x3 x4 x5 => Sys2Proof.Machine.execSt x1 x2 x3 x4 x5 s
  | .ldx x1 x2 x3 x4 x5 => Sys2Proof.Machine.execLdx x1 x2 x3 x4 x5 s
  | .stx x1 x2 x3 x4 x5 => Sys2Proof.Machine.execStx x1 x2 x3 x4 x5 s
  | .lds x1 x2 x3 x4 => Sys2Proof.Machine.execLds x1 x2 x3 x4 s
  | .sts x1 x2 x3 x4 => Sys2Proof.Machine.execSts x1 x2 x3 x4 s
  | .aldp x1 x2 x3 x4 x5 => Sys2Proof.Machine.execAldp x1 x2 x3 x4 x5 s
  | .brp x1 x2 x3 => Sys2Proof.Machine.execBrp x1 x2 x3 s
  | .bra x1 x2 x3 => Sys2Proof.Machine.execBra x1 x2 x3 s
  | .call x1 x2 x3 => Sys2Proof.Machine.execCall x1 x2 x3 s
  | .ret x1 x2 => Sys2Proof.Machine.execRet x1 x2 s
  | .brx x1 => Sys2Proof.Machine.execBrx x1 s
  | .exit x1 x2 => Sys2Proof.Machine.execExit x1 x2 s
  | .nop => Sys2Proof.Machine.execNop s
  | .reform => Sys2Proof.Machine.execReform s
  | .yield => Sys2Proof.Machine.execYield s
  | .region x1 => Sys2Proof.Machine.execRegion x1 s
  | .trap x1 => Sys2Proof.Machine.execTrap x1 s
  | .untaint x1 => Sys2Proof.Machine.execUntaint x1 s
  | .waitc x1 x2 x3 x4 => Sys2Proof.Machine.execWaitc x1 x2 x3 x4 s
  | .barInit x1 x2 => Sys2Proof.Machine.execBarInit x1 x2 s
  | .barArrive x1 => Sys2Proof.Machine.execBarArrive x1 s
  | .barExpect x1 x2 => Sys2Proof.Machine.execBarExpect x1 x2 s
  | .barWait x1 x2 => Sys2Proof.Machine.execBarWait x1 x2 s
  | .tcfg x1 x2 => Sys2Proof.Machine.execTcfg x1 x2 s
  | .tld x1 x2 x3 x4 => Sys2Proof.Machine.execTld x1 x2 x3 x4 s
  | .tst x1 x2 x3 x4 => Sys2Proof.Machine.execTst x1 x2 x3 x4 s
  | .tlds x1 x2 x3 => Sys2Proof.Machine.execTlds x1 x2 x3 s
  | .tsts x1 x2 x3 => Sys2Proof.Machine.execTsts x1 x2 x3 s
  | .tmma x1 x2 x3 x4 x5 x6 x7 => Sys2Proof.Machine.execTmma x1 x2 x3 x4 x5 x6 x7 s
  | .tmloop x1 x2 x3 x4 => Sys2Proof.Machine.execTmloop x1 x2 x3 x4 s
  | .tadd x1 x2 x3 x4 x5 x6 x7 x8 => Sys2Proof.Machine.execTadd x1 x2 x3 x4 x5 x6 x7 x8 s
  | .temul x1 x2 x3 x4 x5 x6 x7 => Sys2Proof.Machine.execTemul x1 x2 x3 x4 x5 x6 x7 s
  | .tscl x1 x2 x3 x4 x5 x6 x7 => Sys2Proof.Machine.execTscl x1 x2 x3 x4 x5 x6 x7 s
  | .tsclPow x1 x2 x3 x4 x5 => Sys2Proof.Machine.execTsclPow x1 x2 x3 x4 x5 s
  | .ttr x1 x2 => Sys2Proof.Machine.execTtr x1 x2 s
  | .tcvt x1 x2 x3 x4 x5 => Sys2Proof.Machine.execTcvt x1 x2 x3 x4 x5 s
  | .tact x1 x2 x3 x4 x5 => Sys2Proof.Machine.execTact x1 x2 x3 x4 x5 s
  | .trsum x1 x2 x3 x4 x5 => Sys2Proof.Machine.execTrsum x1 x2 x3 x4 x5 s
  | .tzero x1 => Sys2Proof.Machine.execTzero x1 s
  | .teval x1 => Sys2Proof.Machine.execTeval x1 s
  | .tdrop x1 => Sys2Proof.Machine.execTdrop x1 s
  | .trd x1 x2 x3 => Sys2Proof.Machine.execTrd x1 x2 x3 s
  | .twr x1 x2 x3 => Sys2Proof.Machine.execTwr x1 x2 x3 s
  | .tstat x1 x2 x3 => Sys2Proof.Machine.execTstat x1 x2 x3 s
  | .xlr x1 x2 x3 => Sys2Proof.Machine.execXlr x1 x2 x3 s
  | .xcp x1 x2 x3 x4 x5 => Sys2Proof.Machine.execXcp x1 x2 x3 x4 x5 s
  | .xred x1 x2 x3 x4 x5 => Sys2Proof.Machine.execXred x1 x2 x3 x4 x5 s
  | .xwalk x1 x2 x3 x4 x5 => Sys2Proof.Machine.execXwalk x1 x2 x3 x4 x5 s
  | .xstat x1 x2 x3 => Sys2Proof.Machine.execXstat x1 x2 x3 s
  | .jsub x1 x2 x3 => Sys2Proof.Machine.execJsub x1 x2 x3 s
  | .gainadd x1 x2 => Sys2Proof.Machine.execGainadd x1 x2 s
  | .gainset x1 x2 => Sys2Proof.Machine.execGainset x1 x2 s
  | .gainget x1 x2 => Sys2Proof.Machine.execGainget x1 x2 s
  | .resadd x1 => Sys2Proof.Machine.execResadd x1 s
  | .resget x1 x2 => Sys2Proof.Machine.execResget x1 x2 s
  | .ordwait x1 => Sys2Proof.Machine.execOrdwait x1 s
  | .ordpost x1 => Sys2Proof.Machine.execOrdpost x1 s
  | .atom x1 x2 x3 x4 x5 x6 => Sys2Proof.Machine.execAtom x1 x2 x3 x4 x5 x6 s
  | .cas x1 x2 x3 x4 x5 => Sys2Proof.Machine.execCas x1 x2 x3 x4 x5 s
  | .waitcmp x1 x2 x3 x4 x5 => Sys2Proof.Machine.execWaitcmp x1 x2 x3 x4 x5 s
  | .ldAcq x1 x2 x3 x4 x5 x6 => Sys2Proof.Machine.execLdAcq x1 x2 x3 x4 x5 x6 s
  | .stRel x1 x2 x3 x4 x5 x6 => Sys2Proof.Machine.execStRel x1 x2 x3 x4 x5 x6 s
  | .fence x1 => Sys2Proof.Machine.execFence x1 s
  | .smap x1 x2 => Sys2Proof.Machine.execSmap x1 x2 s
  | .sunmap x1 => Sys2Proof.Machine.execSunmap x1 s
  | .sflush x1 => Sys2Proof.Machine.execSflush x1 s
  | .pref x1 x2 x3 x4 => Sys2Proof.Machine.execPref x1 x2 x3 x4 s
  | .bkpt x1 => Sys2Proof.Machine.execBkpt x1 s
  | .tmark x1 x2 => Sys2Proof.Machine.execTmark x1 x2 s
  | .sysrd x1 x2 => Sys2Proof.Machine.execSysrd x1 x2 s
  | .syswr x1 x2 => Sys2Proof.Machine.execSyswr x1 x2 s
  | .imm x1 => Sys2Proof.Machine.execImm x1 s
  | .mod_ x1 x2 x3 x4 x5 x6 => Sys2Proof.Machine.execMod x1 x2 x3 x4 x5 x6 s
  | .tan => Sys2Proof.Machine.execTan s
  | .threadFiling x1 x2 => Sys2Proof.Machine.execThreadFiling x1 x2 s
  | .binAged x1 x2 x3 => Sys2Proof.Machine.execBinAged x1 x2 x3 s
  | .collectiveExecute x1 => Sys2Proof.Machine.execCollectiveExecute x1 s
  | .loadReturn x1 => Sys2Proof.Machine.execLoadReturn x1 s
  | .storeAck x1 => Sys2Proof.Machine.execStoreAck x1 s
  | .tagFree x1 x2 => Sys2Proof.Machine.execTagFree x1 x2 s
  | .idemDefer x1 x2 => Sys2Proof.Machine.execIdemDefer x1 x2 s
  | .orderStall x1 => Sys2Proof.Machine.execOrderStall x1 s
  | .barrierArrivalApply x1 => Sys2Proof.Machine.execBarrierArrivalApply x1 s
  | .evalStart x1 => Sys2Proof.Machine.execEvalStart x1 s
  | .evalComplete x1 => Sys2Proof.Machine.execEvalComplete x1 s
  | .tileLoadLanded x1 => Sys2Proof.Machine.execTileLoadLanded x1 s
  | .xlrComplete x1 => Sys2Proof.Machine.execXlrComplete x1 s
  | .channelStart x1 x2 => Sys2Proof.Machine.execChannelStart x1 x2 s
  | .chunkLand x1 x2 => Sys2Proof.Machine.execChunkLand x1 x2 s
  | .storeApply x1 x2 => Sys2Proof.Machine.execStoreApply x1 x2 s
  | .atomicApply x1 x2 => Sys2Proof.Machine.execAtomicApply x1 x2 s
  | .loadServe x1 x2 x3 => Sys2Proof.Machine.execLoadServe x1 x2 x3 s
  | .releaseClearance x1 => Sys2Proof.Machine.execReleaseClearance x1 s
  | .releaseApply x1 x2 => Sys2Proof.Machine.execReleaseApply x1 x2 s
  | .monitorArm x1 x2 x3 => Sys2Proof.Machine.execMonitorArm x1 x2 x3 s
  | .waitcmpPoll x1 x2 => Sys2Proof.Machine.execWaitcmpPoll x1 x2 s
  | .hdmRead x1 x2 x3 => Sys2Proof.Machine.execHdmRead x1 x2 x3 s
  | .hdmWrite x1 x2 => Sys2Proof.Machine.execHdmWrite x1 x2 s
  | .backInvalidationResponse x1 => Sys2Proof.Machine.execBackInvalidationResponse x1 s
  | .pageMigration x1 x2 x3 => Sys2Proof.Machine.execPageMigration x1 x2 x3 s
  | .impreciseFault x1 => Sys2Proof.Machine.execImpreciseFault x1 s
  | .tail x1 x2 => Sys2Proof.Machine.execTail x1 x2 s
  | .reset x1 => Sys2Proof.Machine.execReset x1 s
  | .nopPacket x1 => Sys2Proof.Machine.execNopPacket x1 s
  | .launch x1 => Sys2Proof.Machine.execLaunch x1 s
  | .job x1 => Sys2Proof.Machine.execJob x1 s
  | .signal x1 => Sys2Proof.Machine.execSignal x1 s
  | .packetCompletion x1 => Sys2Proof.Machine.execPacketCompletion x1 s
  | .jobSubmit x1 => Sys2Proof.Machine.execJobSubmit x1 s
  | .residencyHold x1 x2 => Sys2Proof.Machine.execResidencyHold x1 x2 s
  | .clusterPlace x1 => Sys2Proof.Machine.execClusterPlace x1 s
  | .wavePlace x1 => Sys2Proof.Machine.execWavePlace x1 s
  | .chunkDeal x1 x2 => Sys2Proof.Machine.execChunkDeal x1 x2 s
  | .dequePop x1 x2 => Sys2Proof.Machine.execDequePop x1 x2 s
  | .dequeSteal x1 x2 => Sys2Proof.Machine.execDequeSteal x1 x2 s
  | .settDispatch x1 x2 => Sys2Proof.Machine.execSettDispatch x1 x2 s
  | .gainSteal x1 x2 => Sys2Proof.Machine.execGainSteal x1 x2 s
  | .gainUpdateApply x1 => Sys2Proof.Machine.execGainUpdateApply x1 s
  | .residualUpdateApply x1 => Sys2Proof.Machine.execResidualUpdateApply x1 s
  | .ordpostEffect x1 => Sys2Proof.Machine.execOrdpostEffect x1 s
  | .retirementPublish x1 x2 => Sys2Proof.Machine.execRetirementPublish x1 x2 s
  | .verifyRerun x1 x2 => Sys2Proof.Machine.execVerifyRerun x1 x2 s
  | .jobEnd x1 => Sys2Proof.Machine.execJobEnd x1 s
  | .priorityPreempt x1 => Sys2Proof.Machine.execPriorityPreempt x1 s
  | .preemptionSave x1 x2 => Sys2Proof.Machine.execPreemptionSave x1 x2 s
  | .clusterRestore x1 x2 => Sys2Proof.Machine.execClusterRestore x1 x2 s
  | .swapOut x1 => Sys2Proof.Machine.execSwapOut x1 s
  | .detTurn x1 => Sys2Proof.Machine.execDetTurn x1 s
  | .preempt x1 => Sys2Proof.Machine.execPreempt x1 s
  | .resume x1 => Sys2Proof.Machine.execResume x1 s
  | .retry x1 => Sys2Proof.Machine.execRetry x1 s
  | .inval x1 => Sys2Proof.Machine.execInval x1 s
  | .invalidationDone x1 => Sys2Proof.Machine.execInvalidationDone x1 s
  | .stop x1 => Sys2Proof.Machine.execStop x1 s
  | .dbgResume x1 => Sys2Proof.Machine.execDbgResume x1 s
  | .step x1 => Sys2Proof.Machine.execStep x1 s
  | .capture x1 => Sys2Proof.Machine.execCapture x1 s
  | .feResume => Sys2Proof.Machine.execFeResume s
  | .registerWrite x1 => Sys2Proof.Machine.execRegisterWrite x1 s
  | .sampleTick x1 x2 => Sys2Proof.Machine.execSampleTick x1 x2 s
  | .ringRecordWritten x1 x2 => Sys2Proof.Machine.execRingRecordWritten x1 x2 s
  | .traceRecord x1 => Sys2Proof.Machine.execTraceRecord x1 s
  | .dumpStart => Sys2Proof.Machine.execDumpStart s
  | .dumpComplete => Sys2Proof.Machine.execDumpComplete s
  | .moduleReset x1 => Sys2Proof.Machine.execModuleReset x1 s
  | .sensorRefresh x1 => Sys2Proof.Machine.execSensorRefresh x1 s
  | .softErrorCorrection x1 => Sys2Proof.Machine.execSoftErrorCorrection x1 s
  | .flitRetry x1 => Sys2Proof.Machine.execFlitRetry x1 s
  | .uncorrectableError x1 x2 => Sys2Proof.Machine.execUncorrectableError x1 x2 s
  | .peerRequest x1 x2 => Sys2Proof.Machine.execPeerRequest x1 x2 s
  | .leaseClockTick x1 => Sys2Proof.Machine.execLeaseClockTick x1 s
  | .laneWriteCompletion x1 x2 => Sys2Proof.Machine.execLaneWriteCompletion x1 x2 s
  | .fetchComplete x1 x2 => Sys2Proof.Machine.execFetchComplete x1 x2 s
  | .status x1 => Sys2Proof.Machine.execStatus x1 s
  | .write x1 => Sys2Proof.Machine.execWrite x1 s
  | .verify x1 => Sys2Proof.Machine.execVerify x1 s
  | .activate x1 => Sys2Proof.Machine.execActivate x1 s
  | .retryStarts x1 => Sys2Proof.Machine.execRetryStarts x1 s
  | .errcnt x1 => Sys2Proof.Machine.execErrcnt x1 s
  | .sensors x1 => Sys2Proof.Machine.execSensors x1 s
  | .logread x1 => Sys2Proof.Machine.execLogread x1 s
  | .abort x1 => Sys2Proof.Machine.execAbort x1 s
  | .getVersion x1 => Sys2Proof.Machine.execGetVersion x1 s
  | .getCapabilities x1 => Sys2Proof.Machine.execGetCapabilities x1 s
  | .negotiateAlgorithms x1 => Sys2Proof.Machine.execNegotiateAlgorithms x1 s
  | .getDigests x1 => Sys2Proof.Machine.execGetDigests x1 s
  | .getCertificate x1 => Sys2Proof.Machine.execGetCertificate x1 s
  | .challenge x1 => Sys2Proof.Machine.execChallenge x1 s
  | .getMeasurements x1 => Sys2Proof.Machine.execGetMeasurements x1 s
  | .keyExchange x1 => Sys2Proof.Machine.execKeyExchange x1 s
  | .pskExchange x1 => Sys2Proof.Machine.execPskExchange x1 s

end Sys2Proof.Machine
end

