-- ==== Sys2Proof/Machine/Agenda.lean ====
section
/-! DEFINITION. The move that a step makes: an event, an issue of a core's port, the owner of a deterministic turn, a lane that
the debugger steps; and what stands on the agenda when nothing does (R57, R85, R92 to R97, R101 to R103, R175, R387, R466, R473,
R479, R480; assumptions 2 to 5). -/

namespace Sys2Proof.Machine

/-! ### Issuing (R57, R84, R85, R96) -/

/-- Fetches and decodes at the common PC of given lanes and executes what stands there. A word that is no instruction, or a PC
outside the kernel's code, raises ILLEGAL; a word not yet fetched waits. -/
def State.runAt (s : State) (unit wg : Nat) (parts : List (Nat × List Nat)) : Host.Outcome State Fault Refusal :=
  let s := { s with issue := ⟨unit, wg, parts⟩ }
  match s.bundle? with
  | none => .next s
  | some b =>
    if !b.idle then .next s
    else match b.u.fetch b.pc with
      | .wait => .next s
      | .outside => .next (s.takeFault unit wg 0x01 true b.pc (b.hits 0 0))
      | .word w =>
        match decode w with
        | none => .next (s.takeFault unit wg 0x01 true b.pc (b.hits w 0))
        | some i => exec i s
/-- What tells that an issue has gone on: retired counts, arrival sets, threads inside an instruction, the unit's stage. -/
def State.issueMark (s : State) (unit wg : Nat) (parts : List (Nat × List Nat)) :
    Option (UnitState × List (Option (BitVec 64 × Option (VAddr × List Nat) × List (Option Nat)))) :=
  (s.unit? unit).map fun u => (u.state, parts.map fun (wi, _) => (s.warp? ⟨unit, wg, wi⟩).map fun w =>
    (w.retired, w.arrival.map fun a => (a.pc, a.lanes), w.threads.map (·.busy)))
/-- Executes at the common PC of given lanes; `after` is added when the issue has gone on, `else_` when it waits. -/
def State.issueWith (s : State) (unit wg port : Nat) (parts : List (Nat × List Nat)) (after : State → State)
    (else_ : State → Host.Outcome State Fault Refusal) : Host.Outcome State Fault Refusal :=
  match s.runAt unit wg parts with
  | .next t =>
    if s.issueMark unit wg parts == t.issueMark unit wg parts then else_ t
    else
      match s.bundleOf unit wg parts with
      | some b => .next (after (s.noteIssue t port b))
      | none => .next (after t)
  | y => y
/-- A port tries its bundles in the order of R96 until one goes on. -/
def tryBundles (core port : Nat) : List Slot → State → Host.Outcome State Fault Refusal
  | [], s => .next s
  | x :: xs, s => s.issueWith x.unit x.wg port x.parts (fun t => t.advance core port x) fun t => tryBundles core port xs t
def State.issuePort (s : State) (core port : Nat) : Host.Outcome State Fault Refusal :=
  match (s.core core).ports[port]? with
  | some p => if s.portFree core port then tryBundles core port (s.portOrder p) s else .next s
  | none => .next s
/-- Lanes of one warp issue, on the port of its slot. -/
def State.issueWarp (s : State) (w : WarpId) (ls : List Nat) : Host.Outcome State Fault Refusal :=
  let port := ((s.warp? w).map (·.slot % 2)).getD 0
  if s.portFree (s.coreOf w) port then s.issueWith w.unit w.wg port [(w.warp, ls)] (fun t => t) .next else .next s
/-- The owner of a unit's turn issues (R385 to R387). -/
def State.issueTurn (s : State) (unit : Nat) : Host.Outcome State Fault Refusal :=
  match s.unit? unit with
  | none => .next s
  | some u =>
    match s.warp? u.owner with
    | none => .next s
    | some w =>
      if u.cfg.det = 0 || !s.mayRetire u.owner || w.live == [] || s.filing u.owner || s.turnLanes u.owner == [] ||
          !(s.turnLanes u.owner).all (s.binReady u.owner) then .next s
      else s.issueWarp u.owner (s.turnLanes u.owner)
/-- A lane that the debugger steps issues alone (R466). -/
def State.issueLane (s : State) (w : WarpId) (l : Nat) : Host.Outcome State Fault Refusal :=
  if ((s.thread? w l).map (·.step)).getD false then s.issueWarp w [l] else .next s

/-! ### One move -/

/-- An event row of the table has no encoding. -/
def isEvent (i : Instr) : Bool := (encode i).isNone
def State.move (s : State) : Move → Host.Outcome State Fault Refusal
  | .event i => if isEvent i then exec i s else .next s
  | .clk =>
    let next (c : Core) : Core := { c with issues := c.issues.filter fun x => s.clk + 1 < x.until_ }
    .next { s with clk := s.clk + 1, phase := s.phase + 5, cores := s.cores.map next }
  | .issue core port => s.issuePort core port
  | .turn unit => s.issueTurn unit
  | .lane w l => s.issueLane w l
/-- A move, then the steps of the debugger that it has ended. -/
def State.moveOn (s : State) (m : Move) : Host.Outcome State Fault Refusal :=
  match s.move m with
  | .next t => .next t.settle
  | y => y

/-! ### What stands on the agenda when it is empty (assumption 3) -/

/-- The events that an operation may await, in the order in which it goes on. -/
def opEvents (o : MemOp) : List Instr :=
  let parts (f : Nat → Instr) : List Instr := (List.range o.parts.length).map f
  match o.kind with
  | .load .. | .lds .. | .aldp .. | .pref => parts (fun p => .loadServe o.id p ⟨0, 0, 0, []⟩) ++ [.loadReturn o.id]
  | .store | .sts | .tst | .sflush .. =>
    [.releaseClearance o.id] ++ parts (.storeApply o.id) ++ parts (.releaseApply o.id) ++ [.storeAck o.id]
  | .atom .. | .cas .. =>
    [.releaseClearance o.id] ++ parts (.atomicApply o.id) ++ parts (.releaseApply o.id) ++ [.loadReturn o.id]
  | .waitcmp .. => parts (fun p => .monitorArm o.id p false) ++ parts (.waitcmpPoll o.id) ++ [.loadReturn o.id]
  | .tld _ => parts (fun p => .loadServe o.id p ⟨0, 0, 0, []⟩) ++ [.tileLoadLanded o.id]
  | .xlr _ => parts (fun p => .loadServe o.id p ⟨0, 0, 0, []⟩) ++ [.xlrComplete o.id]
  | .loop _ | .xread .. => parts fun p => .loadServe o.id p ⟨0, 0, 0, []⟩
  | .xfer .. => parts (.storeApply o.id)
  | .arrive _ | .expect .. => []
  | .jsub .. => [.jobSubmit o.id]
  | .gain .. => [.gainUpdateApply o.id]
  | .resadd .. => [.residualUpdateApply o.id]
  | .ordpost .. => [.ordpostEffect o.id]
def coreEvents (c : Core) : List Instr :=
  [.evalComplete c.id, .evalStart c.id] ++
  ((c.ports.zipIdx).flatMap fun (p, i) => List.replicate p.queue.length (.threadFiling c.id i) ++
    ((p.slots.zipIdx).filterMap fun (x, k) => match x with
      | some b => if b.formed then none else some (.binAged c.id i k)
      | none => none))
/-- The places of a warp's pending writes, from the last to the first, so that each is tried once; those of one issue that act in
ascending lane order are tried from their first on. -/
def pendPlaces : Nat → List PendWrite → List Nat
  | _, [] => []
  | k, p :: ps =>
    let run := (ps.takeWhile fun q => p.group != 0 && q.group == p.group).length
    -- the run's later places stand at its first one after each completion
    ((pendPlaces (k + 1) ps).map fun i => if k < i && i ≤ k + run then k else i) ++ [k]
def warpEvents (id : WarpId) (w : Warp) : List Instr :=
  (pendPlaces 0 w.pend).map (.laneWriteCompletion id) ++
  ((w.tags.zipIdx).filterMap fun (t, n) => match t with | .timed _ => some (.tagFree id n) | _ => none) ++
  (if w.arrival.isSome then [.collectiveExecute id] else [])
def queueEvents (q : Nat) (x : Queue) : List Instr :=
  let n := BitVec.ofNat 5 q
  (if x.waiting || x.packets != [] then [.launch n, .job n, .signal n, .nopPacket n] else []) ++
  (if x.packets != [] then [.packetCompletion n] else [])
def unitEvents (u : Placed) : List Instr :=
  (if u.fetched.isSome then ((u.wgs.flatMap fun g => g.warps.flatMap fun w => w.threads.filterMap fun t =>
      if t.exited then none else some t.pc.toNat).eraseDups).map (.fetchComplete u.id) else []) ++
  (if u.cfg.det = 0 then [] else [.detTurn u.id]) ++
  (if u.preemptReq || u.state == .stopping then [.preemptionSave u.id true] else []) ++
  (if u.state == .saved then [.clusterRestore u.id true] else [.swapOut u.id])
def workEvents (s : State) (w : Work) : List Instr :=
  if w.finished then []
  else
    let n := w.pos.length
    let live := (List.range n).filter fun i => match w.pos[i]? with
      | some (.finished ..) => true
      | _ => false
    let again := (List.range n).filter fun i => w.pos[i]? == some .rerun
    let fresh := (List.range n).filter fun i => w.pos[i]? == some .waiting
    live.map (.retirementPublish w.id) ++ again.map (.verifyRerun w.id) ++
    match w.job with
    | none => [.residencyHold w.id 0, .clusterPlace w.id, .wavePlace w.id, .priorityPreempt w.id]
    | some _ => fresh.map (.residencyHold w.id) ++
        w.deques.map (fun d => .chunkDeal w.id d.1) ++ w.deques.map (fun d => .dequePop w.id d.1) ++
        w.deques.map (fun d => .dequeSteal w.id d.1) ++
        (s.dies.flatMap fun d => [.settDispatch w.id d, .gainSteal w.id d]) ++ [.jobEnd w.id]
def watchEvents (w : Watch) : List Instr :=
  let n := w.rings.length
  w.made.map (fun r => .traceRecord r.src) ++ (List.range n).map (.ringRecordWritten · true) ++
  List.replicate n (.ringRecordWritten 0 true) ++
  (if w.dump.isSome || w.dumpQ != [] then [.dumpStart, .dumpComplete] else [])
/-- Bytes that land in one clk by ascending channel, then arrivals and expectations in the order of R175. -/
def State.barrierEvents (s : State) : List Instr :=
  ((sortKey (·.ch) s.channels).map fun c => .chunkLand c.pcl c.ch) ++
  (sortKey MemOp.place175 (s.ops.filter fun o => o.object.isSome)).map fun o => .barrierArrivalApply o.id
/-- Every event that something in the state may await. -/
def State.pendingEvents (s : State) : List Instr :=
  s.home.faults.map (fun f => .impreciseFault f.id) ++
  (s.home.hostLines.filter fun l => natGet s.home.snooped l == 1).map .backInvalidationResponse ++
  s.ops.flatMap opEvents ++ s.channels.map (fun c => .channelStart c.pcl c.ch) ++ s.barrierEvents ++
  s.cores.flatMap coreEvents ++ (s.warps.flatMap fun (id, w) => warpEvents id w) ++ s.units.flatMap unitEvents ++
  s.works.flatMap (workEvents s) ++ ((s.queues.zipIdx).flatMap fun (x, q) => queueEvents q x) ++
  ((s.ctxs.zipIdx).filterMap fun (c, n) => if c.invbusy then some (.invalidationDone (BitVec.ofNat 8 n)) else none) ++
  watchEvents s.watch
/-- Issues that may be tried: on a port, the owner of a deterministic turn before the other bundles (assumption 97). -/
def State.pendingIssues (s : State) : List Move :=
  (s.units.flatMap fun u => if u.cfg.det = 0 then [] else [.turn u.id]) ++
  (s.cores.flatMap fun c => (List.range c.ports.length).map (.issue c.id)) ++
  s.warps.flatMap fun (id, w) => ((w.threads.zipIdx).filter fun (t, _) => t.step).map fun (_, l) => .lane id l
/-- The samples due, which see what the clk has issued, by ascending core (R473). -/
def State.pendingSamples (s : State) : List Instr :=
  (sortKey (·.id) s.cores).flatMap fun c => c.samplers.map fun x => .sampleTick c.id (BitVec.ofNat 8 x.ctx)
/-- Retirements that the clk's issues have brought about; what they publish is done in the next clk (R480). -/
def State.pendingRetirements (s : State) : List Instr :=
  s.works.flatMap fun w => if w.finished then [] else
    ((List.range w.pos.length).filter fun i => w.pos[i]? == some .placed).map (.retirementPublish w.id)
/-- One round is one clk: the events, one issue of each port and turn, the samples, the retirements, and a tick of 1 ns in 5 of 9
clks. -/
def State.plan (s : State) : List Move :=
  s.pendingEvents.map .event ++ s.pendingIssues ++ (s.pendingSamples ++ s.pendingRetirements).map .event ++
    .clk :: if s.phase + 5 ≥ 9 then [.event (.leaseClockTick ⟨[], []⟩)] else []
/-- The next move of the agenda; an empty agenda is filled first. -/
def State.next (s : State) : Host.Outcome State Fault Refusal :=
  match s.agenda with
  | m :: ms => { s with agenda := ms }.moveOn m
  | [] => .next { s with agenda := s.plan }

/-! ### Placing an instruction where the next step fetches it (assumption 2) -/

/-- The launch of the placed word: every resource that an instruction may name. -/
def probeCfg : LaunchCfg where
  entry := 0x1000
  codesize := 4
  gregs := 128
  warps := 1
  d := 1
  tt := 1
  tiles := 16
  glimit := 16
  preload := 0
  spad := 4096
  bars := 32
  lhandles := 16
  regions := []
  slots := List.replicate 8 0
  dual := false
  det := 0
  quantum := 64
  seed := 0
  priority := 0
  mxtrap := false
  reassoc := false
  csize := 1
/-- A unit whose lane 0 stands at the word. -/
def probeUnit (id nbits w : Nat) : Placed :=
  let win : Window := ⟨true, 0x2000, 0x1000, true, true, 0, .local, 0, false⟩
  let u : Placed :=
    { id := id, work := 0, idx := 0, ctx := 0, queue := 0, launchid := 0, cfg := probeCfg, wgs := []
      windows := win :: List.replicate 15 Window.unused, arg := none, code := memWrite [] 0 (natBytes 4 (w % 2 ^ nbits))
      spad := [], stash := [], pcl := 0, state := .running, arming := false, committed := 0, user := 0, engDigest := 0, jsubs := 0, turn := 0
      turnCount := 0, preemptReq := false, saveSlot := 0, rerun := false, faulted := false, swapped := false, gwct := 0
      fetched := none, stopAt := false, stepTurn := false, dumps := [] }
  let thread (t : Thread) (l : Nat) : Thread := { t with
    exited := l != 0
    a := t.a.map fun _ => { deriveWindow u.windows 0 with ptr := 0x2000 } }
  let warp := freshWarp u false 0 0 0
  let warp := { warp with threads := (warp.threads.zipIdx).map fun (t, l) => thread t l }
  { u with wgs := [⟨0, [warp], List.replicate 32 Barrier.zero, List.replicate 16 none⟩] }
def probeSlot (id : Nat) : Slot := ⟨id, 0, 0x1000, [(0, 0)], 0, true, false, false, none, 0, []⟩
def State.probe (s : State) (nbits w : Nat) : State :=
  let id := s.nextId
  let core : Core := { Core.fresh 0 s.tick with
    ports := [⟨some (probeSlot id) :: List.replicate 63 none, [], 0, 0⟩, ⟨List.replicate 64 none, [], 1, 0⟩] }
  { s with
    nextId := id + 1
    units := s.units ++ [probeUnit id nbits w]
    cores := core :: s.cores.filter (·.id != 0)
    agenda := .issue 0 0 :: s.agenda }

end Sys2Proof.Machine
end

