-- ==== Sys2Proof/Machine/Step.lean ====
section
/-! DEFINITION. One step of the device: its agenda's next move. -/

namespace Sys2Proof.Machine

/-- One step. -/
def step (s : State) : Host.Outcome State Fault Refusal := s.next
/-- A state whose next step fetches and runs the word w (assumption 2). -/
def State.withFetchWord (s : State) (nbits w : Nat) : State := s.probe nbits w

end Sys2Proof.Machine
end

