-- ==== Sys2Proof/Safety.lean ====
section
/-! DEFINITION. What counts as a safe run, and the terms that statements use: the conditions under which an issue executes,
and the forms in which results are said. -/

namespace Sys2Proof.Machine

/-! ### Memory -/

/-- Device, host and peer memory, and the words of the watch blocks, are in canonical form. -/
def State.memWf (s : State) : Prop :=
  Memory.wf s.home.mem ∧ Memory.wf s.home.host ∧ (∀ p ∈ s.home.peers, Memory.wf p.2) ∧
    s.watch.words.Pairwise fun x y => x.1 < y.1
/-- The memories of a tile, and those of a placed unit: its code, its scratchpad, its tiles. -/
abbrev Tile.memWf (t : Tile) : Prop := Memory.wf t.data ∧ Memory.wf t.scales ∧ Memory.wf t.shData ∧ Memory.wf t.shScales
abbrev Placed.memWf (u : Placed) : Prop :=
  Memory.wf u.code ∧ Memory.wf u.spad ∧ ∀ g ∈ u.wgs, ∀ w ∈ g.warps, ∀ t ∈ w.tiles, t.memWf
/-- Every memory of a state is in canonical form: those of `memWf`, those of the placed units and of the ones that have left their cores,
and the firmware slots. -/
def State.allWf (s : State) : Prop :=
  s.memWf ∧ (∀ u ∈ s.units ++ s.left, u.memWf) ∧ ∀ x ∈ s.amc.slots, Memory.wf x.image
/-- A step that answers a next state. -/
def State.goesOn (s : State) : Prop := ∃ t, step s = .next t
/-- Every byte of device, host and peer memory reads alike in two states. -/
def State.sameMemory (s t : State) : Prop :=
  ∀ a, memGet t.home.mem a = memGet s.home.mem a ∧ memGet t.home.host a = memGet s.home.host a ∧
    ∀ n, memGet (peerMem t.home n) a = memGet (peerMem s.home n) a

/-! ### When an issue executes (R85, R95, R104, R158, R391) -/

/-- No fault of R85, of a deferral or of the order limit stands before the instruction's own. -/
def Bundle.free (b : Bundle) (i : Instr) : Bool :=
  !i.illegalIn b.u.cfg && (i.badHint b.u.cfg b.hints).isNone && (i.regOver b.u.cfg).isNone &&
    i.tiles.all (· < b.u.cfg.tiles) && b.deferHits == [] && b.stallHits == []
/-- The issue executes: its threads are idle at their common PC in a running unit, no such fault stands, and no register that
it reads or writes is pending. -/
def Bundle.ready (b : Bundle) (i : Instr) : Bool := b.idle && b.free i && !b.pending (i.waitRegs b.u.cfg)
/-- Instructions that may be warp-collective (R99): tile instructions, SHFL, VOTE, LREDUCE and REGION. -/
def collective : Instr → Bool
  | .shflIdx .. | .shflUp .. | .shflDown .. | .shflXor .. | .voteAny .. | .voteAll .. | .voteBallot .. | .lreduce .. | .tstat ..
  | .region _ => true
  | i => i.tiles != []
/-- The issue names each warp and each lane once. -/
def Bundle.proper (b : Bundle) : Bool :=
  decide (b.parts.map (·.1)).Nodup && b.parts.all fun p => decide p.2.2.Nodup

/-! ### Lane results (R105, R114 to R116) -/

/-- The instruction gives each lane the outcome `f` and its writes complete `lat` clk after the issue, D clk later when it
computes tangents; without `lat` they complete when the result returns. -/
def AluGives (i : Instr) (lat : Option Nat) (f : LaneCtx → LaneOut) : Prop :=
  ∀ (s : State) (b : Bundle), s.bundle? = some b → b.ready i = true →
    exec i s = .next (s.commitAlu b (lat.map fun n => s.clk + n + b.tangentClks i) .known f)
/-- A result without tangents: value, zero shadows, the union of the masks of the sources. -/
def LaneCtx.plain (c : LaneCtx) (d : GNum) (m : Mask) (v : Word) : LaneOut :=
  .ok [.g d.toNat v (List.replicate c.cfg.d 0) m]
/-- Bits [31:0] of an exact integer, or its clamping to the range of the type under SAT (R121). -/
def intResult (sat : Bool) (t : ITy) (v : Int) : Word :=
  match sat, t with
  | false, _ => BitVec.ofInt 32 v
  | true, .i32 => BitVec.ofInt 32 (max (-2147483648) (min 2147483647 v))
  | true, .n32 => BitVec.ofInt 32 (max 0 (min 4294967295 v))
/-- A register's value as an integer of the type (R122). -/
def asInt (t : ITy) (v : Word) : Int := match t with | .i32 => v.toInt | .n32 => (v.toNat : Int)

/-! ### Floating-point results (R118, R119, R133) -/

/-- An exact result and its exact tangents through the one rounding of R119, written with the union of the masks. -/
def LaneCtx.rounded (c : LaneCtx) (d : GNum) (m : Mask) (x : FVal) (tau : Nat → FVal) : LaneOut :=
  let r := modFloat c.mod (ovrFmt c.mod) x (if c.dual then (List.range c.cfg.d).map tau else [])
  .ok [.g d.toNat (BitVec.ofNat 32 r.1)
    (if c.dual then r.2.map (BitVec.ofNat 32) else List.replicate c.cfg.d 0) m]
/-- A pair's result in binary64 (R134). -/
def LaneCtx.rounded64 (c : LaneCtx) (d : GNum) (m : Mask) (x : FVal) (tau : Nat → FVal) : LaneOut :=
  let r := modFloat c.mod fp64 x (if c.dual then (List.range c.cfg.d).map tau else [])
  let half (k : Nat) : RegWrite := .g (d.toNat + k) (BitVec.ofNat 32 (r.1 / 2 ^ (32 * k)))
    (if c.dual then r.2.map fun y => BitVec.ofNat 32 (y / 2 ^ (32 * k)) else List.replicate c.cfg.d 0) m
  .ok [half 0, half 1]
/-- Two independent 16-bit results, half 0 in bits [15:0] (R135). -/
def LaneCtx.halves (c : LaneCtx) (f : FFmt) (d : GNum) (m : Mask) (x : Nat → FVal) (tau : Nat → Nat → FVal) : LaneOut :=
  let r (i : Nat) := modFloat c.mod f (x i) (if c.dual then (List.range c.cfg.d).map (tau i) else [])
  .ok [.g d.toNat (BitVec.ofNat 32 ((r 0).1 + 65536 * (r 1).1))
    (if c.dual then ((r 0).2.zip (r 1).2).map fun p => BitVec.ofNat 32 (p.1 + 65536 * p.2) else List.replicate c.cfg.d 0) m]

/-! ### Lanes of an issue, and lane faults -/

/-- What each lane of an issue reads. -/
def Bundle.each (b : Bundle) (s : State) : List LaneCtx :=
  b.parts.flatMap fun (wi, w, ls) => ls.filterMap fun l => (w.threads[l]?).map (b.laneCtx s wi w l)
/-- The lanes of each warp for which `bad` holds, with the details of the lowest, and each lane with its own. -/
def Bundle.hitsOf (b : Bundle) (s : State) (bad : LaneCtx → Bool) (det0 : LaneCtx → Nat) : List Hit :=
  b.parts.filterMap fun (wi, w, ls) =>
    match ls.filterMap fun l => ((w.threads[l]?).map (b.laneCtx s wi w l)).filter bad with
    | [] => none
    | c :: cs => some ⟨wi, (c :: cs).map (·.lane), det0 c, 0, (c :: cs).map fun x => (x.lane, det0 x)⟩
/-- As `AluGives`, when every lane of the issue meets `ok` and no register of `regs` is pending. -/
def AluGivesWhen (i : Instr) (lat : Option Nat) (ok : LaneCtx → Bool) (regs : LaneCtx → List RegName) (f : LaneCtx → LaneOut) :
    Prop :=
  ∀ (s : State) (b : Bundle), s.bundle? = some b → b.ready i = true →
    (∀ c ∈ b.each s, ok c = true ∧ b.pending (regs c) = false) →
    exec i s = .next (s.commitAlu b (lat.map fun n => s.clk + n + b.tangentClks i) .known f)
/-- An issue some of whose lanes do not meet `ok` takes the fault of those lanes, and nothing else happens. -/
def LanesFault (i : Instr) (code : Nat) (ok : LaneCtx → Bool) (det0 : LaneCtx → Nat) : Prop :=
  ∀ (s : State) (b : Bundle), s.bundle? = some b → b.ready i = true → (∃ c ∈ b.each s, ok c = false) →
    exec i s = .next (s.takeFault b.u.id b.wg code true b.pc (b.hitsOf s (fun c => !ok c) det0))

/-! ### Warp-collective instructions (R99, R100) -/

/-- The state once the threads of an issue have joined the arrival sets of their warps and left their bundle. -/
def State.joined (s : State) (b : Bundle) (i : Instr) : State :=
  (b.parts.foldl (fun s (wi, _, ls) => s.modWarp (b.wid wi) (arrive b i ls)) s).leave b
/-- An issue of every live lane of one warp, with none waiting, executes the collective: `b1` is the bundle of these lanes
once they have arrived, `x` their warp; no fault of the word stands, no register it reads or writes is pending, no thread is
stopped, and in deterministic mode it is the warp's turn (R385, R465). -/
def CollReady (i : Instr) (s : State) (b : Bundle) (wi : Nat) (b1 : Bundle) (x : Warp) : Prop :=
  s.bundle? = some b ∧ b.idle = true ∧ (∃ w, b.parts = [(wi, w, w.live)] ∧ w.arrival = none) ∧
    (s.joined b i).bundleOf b.u.id b.wg [(wi, x.live)] = some b1 ∧ b1.parts = [(wi, x, x.live)] ∧
    b1.u.state = .running ∧ b1.free i = true ∧ b1.pending (i.waitRegs b1.u.cfg) = false ∧
    (s.joined b i).mayRetire (b.wid wi) = true ∧ (b1.lanes.all fun (_, _, _, t) => !t.halted) = true
/-- The collective executes when `ok` holds: its warp is `eff` of what it was, past the instruction, its arrival set empty;
memory is as it was, and `post` holds of the next state. -/
def CollDoes (i : Instr) (ok : Bundle → State → Nat → Warp → Prop) (eff : Bundle → State → Nat → Warp → Warp)
    (post : Bundle → State → Nat → Warp → State → Prop) : Prop :=
  ∀ (s : State) (b : Bundle) (wi : Nat) (b1 : Bundle) (x : Warp), CollReady i s b wi b1 x → ok b1 (s.joined b i) wi x →
    ∃ t, exec i s = .next t ∧ t.home = s.home ∧ t.warp? (b.wid wi) =
      some { retireWarp b1.pc false (fun _ t => t) x.live (eff b1 (s.joined b i) wi x) with arrival := none } ∧
      post b1 (s.joined b i) wi x t
/-- A collective whose live lanes have arrived and of which `bad` holds takes the fault with these hits, and nothing else
happens. -/
def CollFaults (i : Instr) (code : Nat) (bad : Bundle → Warp → Prop) (hits : Bundle → Nat → Warp → List Hit) : Prop :=
  ∀ (s : State) (b : Bundle) (wi : Nat) (b1 : Bundle) (x : Warp), CollReady i s b wi b1 x → bad b1 x →
    exec i s = .next ((s.joined b i).takeFault b.u.id b.wg code true b.pc (hits b1 wi x))
/-- A fault of the whole warp that reports the instruction's word: TILE_SHAPE, or ILLEGAL of TCFG. -/
def WordFault (i : Instr) (code : Nat) (bad : Bundle → Warp → Prop) : Prop :=
  CollFaults i code bad fun b1 _ _ => b1.hits ((encode i).getD 0) 0
/-- The operations are those that were there. -/
def sameOps (_ : Bundle) (s : State) (_ : Nat) (_ : Warp) (t : State) : Prop := t.ops = s.ops
/-- A collective that writes registers of every live lane when its result returns (R105). -/
def CrossGives (i : Instr) (f : LaunchCfg → Warp → Nat → Thread → List RegWrite) : Prop :=
  CollDoes i (fun _ _ _ _ => True) (fun b1 _ _ x => pendWarp b1.pc none .known
    (x.live.filterMap fun l => (x.threads[l]?).map fun t => (l, LaneOut.ok (f b1.u.cfg x l t))) x) sameOps

/-! ### Tiles (R210 to R224) -/

/-- The thread of the lowest live lane, which gives a tile instruction its operands (R212). -/
def Warp.lead (w : Warp) : Option Thread := (w.live.head?).bind fun l => w.threads[l]?
/-- Nothing makes an eager write or a read of a tile wait: no load of it under way, no evaluation that holds it (R217,
R221). -/
def tileFree (b : Bundle) (s : State) (wi : Nat) (w : Warp) (m : Nat) : Prop :=
  (w.tile m).inflight = none ∧ (s.core b.g.core).evaluating (b.wid wi) w m = false
/-- Lanes whose index word names no element and no scale of the tile raise TILE_SHAPE (R267). -/
def IndexFault (i : Instr) (m : MNum) (idx : GNum) : Prop :=
  ∀ tc : TCfg,
    let bad (x : Warp) (l : Nat) : Bool := ((x.threads[l]?).map fun t => !tidxOk tc (t.gr idx.toNat).val.toNat).getD false
    CollFaults i 0x0B (fun b1 x => x.conf b1.u.cfg m.toNat = some tc ∧ x.lead.isSome ∧ x.live.any (bad x) = true)
      fun _ wi x => [⟨wi, x.live.filter (bad x), (encode i).getD 0, 0, []⟩]
/-- No pending node reads the tile (R217). -/
def unread (w : Warp) (m : Nat) : Prop := ∀ n ∈ w.graph, ∀ o ∈ n.ops, o.1 ≠ m
/-- The tile's current version is evaluated (R218). -/
def evaluated (w : Warp) (m : Nat) : Prop := ∀ n ∈ w.graph, n.dst ≠ (m, (w.tile m).ver)
/-- There is room for a node under the graph limit and in the core's pool (R222 to R224). -/
def hasRoom (b : Bundle) (s : State) (wi : Nat) (w : Warp) (dual : Bool) : Prop :=
  (w.graph = [] ∨ w.pendingCount + nodeCost dual ≤ b.u.cfg.limit) ∧
    (b.u.cfg.det ≠ 0 ∨ s.poolRoom b.g.core (b.wid wi) (nodeCost dual) = true)
/-- The instruction appends a node to its destination tile, whose shape rule `okf` holds; without a configuration, or where the
rule fails, it raises TILE_SHAPE; a LOOP, which reads memory, waits for the acquires before it (R213, R215, R422). -/
def TileAppends (i : Instr) (m : Nat) (ops : List Nat) (slot : SlotNum) (okf : LaunchCfg → Warp → Thread → TCfg → Bool)
    (kind : Thread → NodeKind) (extra : Thread → Mask) (sr : LaunchCfg → Bool) (canDual : Bool) : Prop :=
  CollDoes i
    (fun b1 s1 wi x => ∃ td t, x.conf b1.u.cfg m = some td ∧ x.lead = some t ∧ okf b1.u.cfg x t td = true ∧
      (∀ k ∈ m :: ops, (s1.core b1.g.core).evaluating (b1.wid wi) x k = false) ∧
      ((∃ l, kind t = .loop l) → b1.acqDone s1 = true) ∧
      hasRoom b1 s1 wi x (canDual && b1.dualTile td))
    (fun b1 _ _ x => match x.conf b1.u.cfg m, x.lead with
      | some td, some t => appendNode x (kind t) m ops slot (canDual && b1.dualTile td) b1.pc (extra t)
          (if sr b1.u.cfg then td.rows * td.cols else 0)
      | _, _ => x) sameOps ∧
  WordFault i 0x0B fun b1 x => x.lead.isSome ∧
    ∀ td t, x.conf b1.u.cfg m = some td → x.lead = some t → okf b1.u.cfg x t td = false

/-! ### Memory accesses (R160 to R170, R423, R437 to R450) -/

/-- The checks of R161 on `n` bytes at `va`. -/
def inReg (a : AReg) (va : Int) (n : Nat) (rd wr : Bool) : Bool :=
  a.valid && decide ((a.base.toNat : Int) ≤ va ∧ va + n - 1 ≤ a.limit.toNat) && (!rd || a.r) && (!wr || a.w)
/-- What the lanes `ls` of one warp of an issue send. -/
def sendsOf (parts : Nat → Warp → Nat → Thread → List Part) (wi : Nat) (w : Warp) (ls : List Nat) : List Part :=
  ls.flatMap fun l => match w.threads[l]? with | some t => parts wi w l t | none => []
/-- The state once each warp of an issue has its operation, `also` being done with each. -/
def State.issued (s : State) (b : Bundle) (ctr : Option Counter) (tagged : Bool) (regs : List RegName)
    (op : Nat → Warp → List Nat → Option Nat → Nat → MemOp) (also : Nat → Warp → List Nat → State → State) : State :=
  b.parts.foldl (fun t (wi, w, ls) => also wi w ls (t.addOp (b.wid wi) ctr tagged regs (op wi w ls))) s
/-- Nothing beside the operation. -/
def onlyOps (_ : Nat) (_ : Warp) (_ : List Nat) (s : State) : State := s
/-- An issue of which every lane meets `ok`, and which `ready` lets go, answers the next state `eff`. -/
def AccessDoes (i : Instr) (ok : LaneCtx → Bool) (ready : Bundle → State → Prop) (eff : Bundle → State → State) : Prop :=
  ∀ (s : State) (b : Bundle), s.bundle? = some b → b.ready i = true → b.proper = true → (∀ c ∈ b.each s, ok c = true) →
    ready b s → exec i s = .next (eff b s)
/-- The issue has retired and its bundle stands at the next instruction. -/
def State.past (s : State) (b : Bundle) (ends : Bool) (f : Nat → Nat → Thread → Thread) : State := (s.retire b ends f).stay b
/-- No part of a load lies among bytes of a fill under way or in a stash window being unbound (R406, R453). -/
def noFill (b : Bundle) (s : State) (parts : Nat → Warp → Nat → Thread → List Part) : Prop :=
  ∀ x ∈ b.lanes, ∀ p ∈ parts x.1 x.2.1 x.2.2.1 x.2.2.2,
    (p.space ≠ .local ∨ s.fillPending b.g.core p.addr p.n = false) ∧
    (p.space ≠ .stash ∨ s.unbinding b.u p.addr = false)
/-- The parts of an issue. -/
def Bundle.sends (b : Bundle) (parts : Nat → Warp → Nat → Thread → List Part) : List Part :=
  b.parts.flatMap fun (wi, w, ls) => sendsOf parts wi w ls
/-- Slices hold a release of cluster, device or system scope that has bytes outside stash windows (R423, log 31). -/
def slicesHold (rel : Bool) (sc : Scope) (ps : List Part) : Bool :=
  rel && (sc == .clus || sc == .dev || sc == .sys) && (ps.isEmpty || ps.any (·.space != .stash))
/-- A release that no slice holds, or that has bytes in a stash window, is ready at its issue (R423, log 31). -/
def releaseGoes (b : Bundle) (s : State) (rel : Bool) (sc : Scope) (ps : List Part) : Prop :=
  rel = true → (slicesHold rel sc ps = false ∨ ∃ p ∈ ps, p.space = .stash) → b.relReady s sc = true
/-- No store of the issue reaches a stash window being unbound, or bytes that a pending LOOP of its warp reads (R225, R453). -/
def storesFree (b : Bundle) (s : State) (parts : Nat → Warp → Nat → Thread → List Part) : Prop :=
  ∀ x ∈ b.parts, s.heldUp b.u (placesOf (sendsOf parts x.1 x.2.1 x.2.2)) = false ∧
    ∀ n ∈ x.2.1.graph, loopHit b.u x.2.1 n (placesOf (sendsOf parts x.1 x.2.1 x.2.2)) = false
/-- The number of the operation that a warp of the issue adds. -/
def opNumber (b : Bundle) (s : State) (wi : Nat) : Nat := s.nextId + (b.parts.map (·.1)).idxOf wi

/-! ### Issues that change warps, and collectives as equations -/

/-- Each warp of an issue changed by `f`, which sees its index, what it was at the issue, its lanes and what it is. -/
def State.eachWarp (s : State) (b : Bundle) (f : Nat → Warp → List Nat → Warp → Warp) : State :=
  b.parts.foldl (fun t (wi, w, ls) => t.modWarp (b.wid wi) (f wi w ls)) s
/-- An issue that needs no register: it executes although registers are pending (R155, R63). -/
def OpenDoes (i : Instr) (eff : Bundle → State → State) : Prop :=
  ∀ (s : State) (b : Bundle), s.bundle? = some b → b.idle = true → b.free i = true → b.proper = true →
    exec i s = .next (eff b s)
/-- The collective answers the state `eff` gives, retired, its arrival set empty and its live threads filed. -/
def CollAnswers (i : Instr) (ok : Bundle → State → Nat → Warp → Prop) (eff : Bundle → State → Nat → Warp → State) : Prop :=
  ∀ (s : State) (b : Bundle) (wi : Nat) (b1 : Bundle) (x : Warp), CollReady i s b wi b1 x → ok b1 (s.joined b i) wi x →
    exec i s = .next ((((eff b1 (s.joined b i) wi x).retire b1 false sameThread).modWarp (b.wid wi) fun y =>
      { y with arrival := none }).file b.u.id b.wg b1.g.core (x.live.map fun l => (wi, l)) (s.clk + 1) (s.clk + 1) false)

/-! ### Events -/

/-- The event answers a next state of which `post` holds. -/
def Does (i : Instr) (s : State) (post : State → Prop) : Prop := ∃ t, exec i s = .next t ∧ post t
/-- Part `i` of operation `op` of `t` stands in the stage `st` with the time given. -/
def partAt (t : State) (op i : Nat) (st : PartSt) (time : Nat) : Prop :=
  ∃ o p, t.part? op i = some (o, p) ∧ p.st = st ∧ p.time = time
/-- Part `i` of `op` is a request that nothing before it holds up (R406, R423, R496). -/
def arrives (s : State) (op i : Nat) (o : MemOp) (p : Part) : Prop :=
  s.part? op i = some (o, p) ∧ p.st = .sent ∧ s.blocked o i p = false
/-- The bytes from `a` on are those given, and every other byte of device memory is as it was. -/
def wrote (s t : State) (a : Nat) (bs : List Byte) : Prop :=
  ∀ x, memGet t.home.mem x = if a ≤ x ∧ x < a + bs.length then (bs[x - a]?).getD 0 else memGet s.home.mem x
/-- R411's GWCT of a write of `n` bytes at `ia`, by its slice's copy of the lease clock (R26). -/
def gwct (s : State) (ia n carried tclear : Nat) : Nat :=
  (max (s.clockOf (.slice ia)) (max (natGet s.home.emax (ia / 256)) (max (maxOf ((chunksOf ia n).map (natGet s.home.vis))) (max carried tclear)))) + 4
/-- A write of one line may be applied at `pa`: its page is there and writable, the host does not cache its block and has not
just answered a snoop of it, and no poison is met (R30, R411, R495). -/
def writable (s : State) (ctx ia n pa : Nat) : Prop :=
  s.memWf ∧ 0 < n ∧ s.translate ctx ia true = .ok pa ∧ ia / 256 ∉ s.home.hostLines ∧ natGet s.home.snooped (ia / 256) < 2 ∧
    ∀ u ∈ s.home.poison, overlaps u 8 pa n = false

/-! ### The Task engine -/

/-- The front end serves queue `q` next: a start has succeeded, the queue has a packet to read and is not halted, no
breakpoint halts the front end or is set, every packet before has started (R317, R318, R462, R487). -/
def serves (s : State) (q : Nat) : Prop :=
  (s.amc.mode = 1 ∨ s.amc.mode = 3) ∧ (s.queue q).enable = true ∧ (s.queue q).halted = false ∧
    (s.queue q).head ≠ (s.queue q).tail ∧ s.nextQueue = some q ∧ s.watch.feHalted = false ∧ s.watch.fePass = false ∧
    (∀ b ∈ s.watch.bps, b.en = false) ∧ ∀ p ∈ (s.queue q).packets, p.started = true
/-- The packet at HEAD of a ring of a size that R317 allows reads `v`. -/
def atHead (s : State) (q v : Nat) : Prop :=
  4 ≤ (s.queue q).size.toNat ∧ (s.queue q).size.toNat ≤ 20 ∧
    ((s.queue q).tail - (s.queue q).head).toNat ≤ 2 ^ (s.queue q).size.toNat ∧ s.readPacket q = .val v
/-- A packet's bytes are of no type, or a field that must be 0 is not, or its TARGET is no multiple of 64 (R319, R321). -/
def malformed (v : Nat) : Bool :=
  decide (v % 2 ^ 8 > 3) || decide (v / 2 ^ 10 % 2 ^ 54 ≠ 0) || decide (v / 2 ^ 336 % 2 ^ 176 ≠ 0) || decide (v / 2 ^ 64 % 2 ^ 72 % 64 ≠ 0)
/-- The packet of R319 with its launch identifier and what stands at its TARGET. -/
def packetOf (v : Nat) (id : BitVec 64) (started : Bool) (work : Option Nat) (r : BitVec 2048) : Packet :=
  ⟨v % 2 ^ 8, v / 2 ^ 64 % 2 ^ 72, id, v / 2 ^ 8 % 2 == 1, started, work, r, v / 2 ^ 200 % 2 ^ 72, BitVec.ofNat 64 (v / 2 ^ 272),
    v / 2 ^ 9 % 2 == 1⟩
/-- The launch identifier of a packet: its own, or the counter's (R327). -/
def launchId (s : State) (v : Nat) : BitVec 64 :=
  if v / 2 ^ 136 % 2 ^ 64 = 0 then s.nextLaunch else BitVec.ofNat 64 (v / 2 ^ 136)
/-- The code of a kernel small enough to be loaded whole can be read (R479). -/
def codeReads (s : State) (c : LaunchCfg) (ctx : Nat) : Prop :=
  c.codesize ≤ 16384 → ∃ bs, s.readVA ctx c.entry.toNat c.codesize = .ok bs
/-- A unit is placed in its dispatch state, its code loaded; nothing else of the units and of memory changes, though slices may keep
the table entries that they have read (R86, R88, R90, R206, R330, R353, R479). -/
def seats (s t : State) (a : PlaceArgs) : Prop :=
  t.home = { s.home with tlb := t.home.tlb } ∧ t.nextId = s.nextId + 1 ∧ t.units.length = s.units.length + 1 ∧
    (∀ v ∈ s.units, v.id ≠ s.nextId → v ∈ t.units) ∧
    ∃ code fetched, t.units.getLast? = some { unitOf s a with code := code, fetched := fetched }

end Sys2Proof.Machine
end

