-- ==== Sys2Proof/Certificates/Slice0/Obligations.lean ====
section
/-! DEFINITION. The statements for the provers. Each says what an instruction, an event or a step does; the rules of the
spec that it formalises stand in its docstring. -/

open Sys2Proof Sys2Proof.Machine

/-! ### Integer, logic, shift, bit-field, predicate, select and move instructions (R121 to R128) -/

/-- R122, R123: IADD, ISUB, IADDI, IMUL, IMULHI and IMAD. Each form executes when its issue is ready; the exact integer is
wrapped, or clamped under SAT; IMULHI is bits [63:32] of the exact product. -/
def Obligations.IntegerArithmetic : Prop :=
  ∀ (d a b : GNum) (h : BitVec 2) (t : ITy) (imm : BitVec 11),
    AluGives (.iadd d a b h t) (some 4) (fun c => c.plain d (c.gm a ||| c.gm b)
      (intResult c.mod.sat t (asInt t (c.g a) + asInt t (c.g b)))) ∧
    AluGives (.isub d a b h t) (some 4) (fun c => c.plain d (c.gm a ||| c.gm b)
      (intResult c.mod.sat t (asInt t (c.g a) - asInt t (c.g b)))) ∧
    AluGives (.iaddi d a imm) (some 4) (fun c => c.plain d (c.gm a)
      (if c.mod.ovr = some .n32 then
        intResult c.mod.sat .n32 ((c.g a).toNat + ((match c.hints.imm with
          | none => imm.toNat | some p => p.toNat * 2048 + imm.toNat) % 4294967296 : Nat))
       else intResult c.mod.sat .i32 ((c.g a).toInt + (BitVec.ofInt 32 (match c.hints.imm with
          | none => imm.toInt | some p => (p ++ imm).toInt)).toInt))) ∧
    AluGives (.imul d a b h t) (some 4) (fun c => c.plain d (c.gm a ||| c.gm b)
      (intResult c.mod.sat t (asInt t (c.g a) * asInt t (c.g b)))) ∧
    AluGives (.imulhi d a b h t) (some 4) (fun c => c.plain d (c.gm a ||| c.gm b)
      ((BitVec.ofInt 64 (asInt t (c.g a) * asInt t (c.g b))).extractLsb' 32 32)) ∧
    AluGives (.imad d a b h t) (some 4) (fun c => c.plain d (c.gm a ||| c.gm b ||| c.gm d)
      (intResult c.mod.sat t (asInt t (c.g a) * asInt t (c.g b) + asInt t (c.g d))))

/-- R124: IMIN, IMAX, CLZ, POPC, BREV and IABS. -/
def Obligations.MinMaxCounts : Prop :=
  ∀ (d a b : GNum) (h : BitVec 2) (t : ITy),
    AluGives (.imin d a b h t) (some 4) (fun c => c.plain d (c.gm a ||| c.gm b)
      (BitVec.ofInt 32 (min (asInt t (c.g a)) (asInt t (c.g b))))) ∧
    AluGives (.imax d a b h t) (some 4) (fun c => c.plain d (c.gm a ||| c.gm b)
      (BitVec.ofInt 32 (max (asInt t (c.g a)) (asInt t (c.g b))))) ∧
    AluGives (.clz d a h) (some 4) (fun c => c.plain d (c.gm a)
      (BitVec.ofNat 32 ((List.range 32).findIdx fun i => (c.g a).getLsbD (31 - i)))) ∧
    AluGives (.popc d a h) (some 4) (fun c => c.plain d (c.gm a)
      (BitVec.ofNat 32 ((List.range 32).countP fun i => (c.g a).getLsbD i))) ∧
    AluGives (.brev d a h) (some 4) (fun c => c.plain d (c.gm a) (c.g a).reverse) ∧
    AluGives (.iabs d a h) (some 4) (fun c => c.plain d (c.gm a) (BitVec.ofInt 32 (c.g a).toInt.natAbs))

/-- R125: logic and shifts; the register forms take the amount as unsigned 32 bits, the immediate forms 0 to 31. -/
def Obligations.LogicAndShifts : Prop :=
  ∀ (d a b : GNum) (h : BitVec 2) (n : BitVec 5),
    AluGives (.and_ d a b h) (some 4) (fun c => c.plain d (c.gm a ||| c.gm b) (c.g a &&& c.g b)) ∧
    AluGives (.or_ d a b h) (some 4) (fun c => c.plain d (c.gm a ||| c.gm b) (c.g a ||| c.g b)) ∧
    AluGives (.xor_ d a b h) (some 4) (fun c => c.plain d (c.gm a ||| c.gm b) (c.g a ^^^ c.g b)) ∧
    AluGives (.andn d a b h) (some 4) (fun c => c.plain d (c.gm a ||| c.gm b) (c.g a &&& ~~~(c.g b))) ∧
    AluGives (.shl d a b h) (some 4) (fun c => c.plain d (c.gm a ||| c.gm b) (c.g a <<< (c.g b).toNat)) ∧
    AluGives (.shr d a b h) (some 4) (fun c => c.plain d (c.gm a ||| c.gm b) (c.g a >>> (c.g b).toNat)) ∧
    AluGives (.sar d a b h) (some 4) (fun c => c.plain d (c.gm a ||| c.gm b) ((c.g a).sshiftRight (c.g b).toNat)) ∧
    AluGives (.rotl d a b h) (some 4) (fun c => c.plain d (c.gm a ||| c.gm b) ((c.g a).rotateLeft (c.g b).toNat)) ∧
    AluGives (.shli d a n) (some 4) (fun c => c.plain d (c.gm a) (c.g a <<< n.toNat)) ∧
    AluGives (.shri d a n) (some 4) (fun c => c.plain d (c.gm a) (c.g a >>> n.toNat)) ∧
    AluGives (.sari d a n) (some 4) (fun c => c.plain d (c.gm a) ((c.g a).sshiftRight n.toNat))

/-- R126: BFX and BFI, for a field that ends within the word (what the encoding admits). -/
def Obligations.BitFields : Prop :=
  ∀ (d a : GNum) (pos wm1 : BitVec 5), pos.toNat + wm1.toNat + 1 ≤ 32 →
    AluGives (.bfxN32 d a pos wm1) (some 4) (fun c => c.plain d (c.gm a)
      (((c.g a).extractLsb' pos.toNat (wm1.toNat + 1)).setWidth 32)) ∧
    AluGives (.bfxI32 d a pos wm1) (some 4) (fun c => c.plain d (c.gm a)
      (((c.g a).extractLsb' pos.toNat (wm1.toNat + 1)).signExtend 32)) ∧
    AluGives (.bfi d a pos wm1) (some 4) (fun c => c.plain d (c.gm a ||| c.gm d)
      (BitVec.ofFnLE (fun i : Fin 32 => if pos.toNat ≤ i.val ∧ i.val ≤ pos.toNat + wm1.toNat
        then (c.g a).getLsbD (i.val - pos.toNat) else (c.g d).getLsbD i.val)))

/-- R127, R128: ICMP, PLOP, MOV, MOVI and SEL. p7 reads true. -/
def Obligations.PredicatesAndMoves : Prop :=
  ∀ (pd pa pb : PNum) (lut : BitVec 4) (d a b : GNum) (h n : BitVec 2) (t : ITy) (cond : ICond) (imm : BitVec 11),
    AluGives (.icmp pd a b t cond) (some 4) (fun c => .ok [.p pd.toNat (match cond with
      | .eq => c.g a == c.g b | .ne => c.g a != c.g b
      | .lt => decide (asInt t (c.g a) < asInt t (c.g b)) | .le => decide (asInt t (c.g a) ≤ asInt t (c.g b))
      | .gt => decide (asInt t (c.g a) > asInt t (c.g b)) | .ge => decide (asInt t (c.g a) ≥ asInt t (c.g b)))
      (c.gm a ||| c.gm b)]) ∧
    AluGives (.plop pd pa pb lut) (some 4) (fun c => .ok [.p pd.toNat
      (lut.getLsbD (2 * (c.pred pa).toNat + (c.pred pb).toNat))
      ((c.th.pr pa.toNat).mask ||| (c.th.pr pb.toNat).mask)]) ∧
    AluGives (.mov d a h) (some 4) (fun c => .ok [.g d.toNat (c.g a) (c.th.gr a.toNat).sh (c.gm a)]) ∧
    AluGives (.movi d imm) (some 4) (fun c => c.plain d 0 (BitVec.ofInt 32 (match c.hints.imm with
      | none => imm.toInt | some p => (p ++ imm).toInt))) ∧
    AluGives (.selP0P3 d a b h n) (some 4) (fun c =>
      let r := if (c.th.pr n.toNat).val then c.th.gr a.toNat else c.th.gr b.toNat
      .ok [.g d.toNat r.val r.sh (c.gm a ||| c.gm b ||| (c.th.pr n.toNat).mask)]) ∧
    AluGives (.selP4P7 d a b h n) (some 4) (fun c =>
      let r := if (c.th.pr (4 + n.toNat)).val then c.th.gr a.toNat else c.th.gr b.toNat
      .ok [.g d.toNat r.val r.sh (c.gm a ||| c.gm b ||| (c.th.pr (4 + n.toNat)).mask)])

/-- R128: MOVX and MOVXW, whose index is added to a register number; a sum at or beyond GREGS raises REG_INDEX. -/
def Obligations.IndexedMoves : Prop :=
  ∀ (d a b : GNum) (h : BitVec 2),
    AluGivesWhen (.movx d a b h) (some 4) (fun c => decide (b.toNat + (c.g a).toNat < c.cfg.gregs))
      (fun c => [.g (b.toNat + (c.g a).toNat)])
      (fun c => let r := c.th.gr (b.toNat + (c.g a).toNat); .ok [.g d.toNat r.val r.sh (c.gm a ||| r.mask)]) ∧
    LanesFault (.movx d a b h) 0x03 (fun c => decide (b.toNat + (c.g a).toNat < c.cfg.gregs))
      (fun c => b.toNat + (c.g a).toNat) ∧
    AluGivesWhen (.movxw d a b h) (some 4) (fun c => decide (d.toNat + (c.g a).toNat < c.cfg.gregs))
      (fun c => [.g (d.toNat + (c.g a).toNat)])
      (fun c => .ok [.g (d.toNat + (c.g a).toNat) (c.g b) (c.th.gr b.toNat).sh (c.gm a ||| c.gm b)]) ∧
    LanesFault (.movxw d a b h) 0x03 (fun c => decide (d.toNat + (c.g a).toNat < c.cfg.gregs))
      (fun c => d.toNat + (c.g a).toNat)

/-! ### Floating point (R118 to R140) -/

/-- R129, R130, R131, R133: FADD, FSUB, FMUL, FFMA, FDIV, FSCALE, FMIN, FMAX and FCMP: the exact result and its exact tangents
go through the one rounding of R119. -/
def Obligations.Fp32Arithmetic : Prop :=
  ∀ (d a b : GNum) (pd : PNum) (h : BitVec 2) (cond : FCond),
    AluGives (.fadd d a b h) (some 4) (fun c => c.rounded d (c.gm a ||| c.gm b) ((c.f a).add (c.f b))
      fun k => (c.ft a k).add (c.ft b k)) ∧
    AluGives (.fsub d a b h) (some 4) (fun c => c.rounded d (c.gm a ||| c.gm b) ((c.f a).sub (c.f b))
      fun k => (c.ft a k).sub (c.ft b k)) ∧
    AluGives (.fmul d a b h) (some 4) (fun c => c.rounded d (c.gm a ||| c.gm b) ((c.f a).mul (c.f b))
      fun k => ((c.ft a k).mul (c.f b)).add ((c.f a).mul (c.ft b k))) ∧
    AluGives (.ffma d a b h) (some 4) (fun c => c.rounded d (c.gm a ||| c.gm b ||| c.gm d)
      (((c.f a).mul (c.f b)).add (c.f d))
      fun k => (((c.ft a k).mul (c.f b)).add ((c.f a).mul (c.ft b k))).add (c.ft d k)) ∧
    AluGives (.fdiv d a b h) (some 12) (fun c => c.rounded d (c.gm a ||| c.gm b) ((c.f a).div (c.f b))
      fun k => rnd32 ((rnd32 ((c.ft a k).sub ((rnd32 ((c.f a).div (c.f b))).mul (c.ft b k)))).div (c.f b))) ∧
    AluGives (.fscale d a b h) (some 4) (fun c => c.rounded d (c.gm a ||| c.gm b) ((c.f a).scale (c.g b).toInt)
      fun k => (c.ft a k).scale (c.g b).toInt) ∧
    AluGives (.fmin d a b h) (some 4) (fun c =>
      let first : Bool := (c.f b).isNan || (!(c.f a).isNan && !(c.f b).below (c.f a))
      c.rounded d (c.gm a ||| c.gm b) (if (c.f a).isNan && (c.f b).isNan then .nan else if first then c.f a else c.f b)
        fun k => if (c.f a).isNan && (c.f b).isNan then .zero else if first then c.ft a k else c.ft b k) ∧
    AluGives (.fmax d a b h) (some 4) (fun c =>
      let first : Bool := (c.f b).isNan || (!(c.f a).isNan && !(c.f a).below (c.f b))
      c.rounded d (c.gm a ||| c.gm b) (if (c.f a).isNan && (c.f b).isNan then .nan else if first then c.f a else c.f b)
        fun k => if (c.f a).isNan && (c.f b).isNan then .zero else if first then c.ft a k else c.ft b k) ∧
    AluGives (.fcmp pd a b cond) (some 4) (fun c => .ok [.p pd.toNat
      (let x := c.f a; let y := c.f b; let nans := x.isNan || y.isNan
       match cond with
       | .unord => nans | .ord => !nans | .ne => nans || x.cmp y != .eq | .eq => !nans && x.cmp y == .eq
       | .lt => !nans && x.cmp y == .lt | .le => !nans && x.cmp y != .gt
       | .gt => !nans && x.cmp y == .gt | .ge => !nans && x.cmp y != .lt)
      (c.gm a ||| c.gm b)]) ∧
    ∀ (x y : Bool) (e f : Int), (FVal.fin x 0 e).cmp (.fin y 0 f) = .eq

/-- R132, R133: the transcendentals complete 12 clk after issue; y is the rounded primal without MOD. -/
def Obligations.Fp32Functions : Prop :=
  ∀ (d a : GNum) (h : BitVec 2),
    AluGives (.frcp d a h) (some 12) (fun c => let y := rnd32 (FVal.one.div (c.f a))
      c.rounded d (c.gm a) (FVal.one.div (c.f a)) fun k => rnd32 ((c.ft a k).neg.mul (rnd32 (y.mul y)))) ∧
    AluGives (.frsq d a h) (some 12) (fun c => let y := rnd32 (frsqF (c.f a))
      c.rounded d (c.gm a) (frsqF (c.f a)) fun k =>
        rnd32 ((FVal.fin true 1 (-1)).mul (rnd32 ((c.ft a k).mul (rnd32 (y.mul (rnd32 (y.mul y)))))))) ∧
    AluGives (.fsqrt d a h) (some 12) (fun c => let y := rnd32 (fsqrtF (c.f a))
      c.rounded d (c.gm a) (fsqrtF (c.f a)) fun k => rnd32 ((c.ft a k).div (rnd32 ((FVal.fin false 1 1).mul y)))) ∧
    AluGives (.fexp2 d a h) (some 12) (fun c => let y := rnd32 (fexp2F (c.f a))
      c.rounded d (c.gm a) (fexp2F (c.f a)) fun k => rnd32 ((rnd32 (y.mul (c.ft a k))).mul (fof 0x3F317218))) ∧
    AluGives (.flog2 d a h) (some 12) (fun c =>
      c.rounded d (c.gm a) (flog2F (c.f a)) fun k => rnd32 ((c.ft a k).div (rnd32 ((c.f a).mul (fof 0x3F317218))))) ∧
    AluGives (.fsin d a h) (some 12) (fun c =>
      c.rounded d (c.gm a) (fsinF (c.f a)) fun k => rnd32 ((c.ft a k).mul (rnd32 (fcosF (c.f a))))) ∧
    AluGives (.fcos d a h) (some 12) (fun c =>
      c.rounded d (c.gm a) (fcosF (c.f a)) fun k => rnd32 ((c.ft a k).neg.mul (rnd32 (fsinF (c.f a)))))

/-- R134: DADD, DMUL and DFMA compute in binary64 on g pairs and complete when their result returns. -/
def Obligations.Fp64Arithmetic : Prop :=
  ∀ (d a b : GNum) (h : BitVec 2),
    let v (c : LaneCtx) (n : GNum) : FVal := decodeF fp64 (c.th.pair n.toNat)
    let t (c : LaneCtx) (n : GNum) (k : Nat) : FVal := decodeF fp64 (c.th.pairSh n.toNat k)
    let m (c : LaneCtx) (n : GNum) : Mask := (c.th.gr n.toNat).mask ||| (c.th.gr (n.toNat + 1)).mask
    AluGives (.dadd d a b h) none (fun c => c.rounded64 d (m c a ||| m c b) ((v c a).add (v c b))
      fun k => (t c a k).add (t c b k)) ∧
    AluGives (.dmul d a b h) none (fun c => c.rounded64 d (m c a ||| m c b) ((v c a).mul (v c b))
      fun k => ((t c a k).mul (v c b)).add ((v c a).mul (t c b k))) ∧
    AluGives (.dfma d a b h) none (fun c => c.rounded64 d (m c a ||| m c b ||| m c d) (((v c a).mul (v c b)).add (v c d))
      fun k => (((t c a k).mul (v c b)).add ((v c a).mul (t c b k))).add (t c d k))

/-- R135: each half of a packed instruction is the FP32 instruction of the same name, rounded once to its own type. -/
def Obligations.PackedHalves : Prop :=
  ∀ (d a b : GNum) (h : BitVec 2),
    let v (f : FFmt) (c : LaneCtx) (n : GNum) (i : Nat) : FVal := decodeF f (bitsOf (c.g n).toNat (16 * i) 16)
    let t (f : FFmt) (c : LaneCtx) (n : GNum) (i k : Nat) : FVal := decodeF f (bitsOf (c.sh n k).toNat (16 * i) 16)
    let add (f : FFmt) (c : LaneCtx) : LaneOut := c.halves f d (c.gm a ||| c.gm b) (fun i => (v f c a i).add (v f c b i))
      fun i k => (t f c a i k).add (t f c b i k)
    let mul (f : FFmt) (c : LaneCtx) : LaneOut := c.halves f d (c.gm a ||| c.gm b) (fun i => (v f c a i).mul (v f c b i))
      fun i k => ((t f c a i k).mul (v f c b i)).add ((v f c a i).mul (t f c b i k))
    let fma (f : FFmt) (c : LaneCtx) : LaneOut := c.halves f d (c.gm a ||| c.gm b ||| c.gm d)
      (fun i => ((v f c a i).mul (v f c b i)).add (v f c d i))
      fun i k => (((t f c a i k).mul (v f c b i)).add ((v f c a i).mul (t f c b i k))).add (t f c d i k)
    let pick (max : Bool) (f : FFmt) (c : LaneCtx) : LaneOut := c.halves f d (c.gm a ||| c.gm b)
      (fun i => if (v f c a i).isNan && (v f c b i).isNan then .nan
        else if (v f c b i).isNan || (!(v f c a i).isNan &&
          !(if max then (v f c a i).below (v f c b i) else (v f c b i).below (v f c a i))) then v f c a i else v f c b i)
      fun i k => if (v f c a i).isNan && (v f c b i).isNan then .zero
        else if (v f c b i).isNan || (!(v f c a i).isNan &&
          !(if max then (v f c a i).below (v f c b i) else (v f c b i).below (v f c a i))) then t f c a i k else t f c b i k
    AluGives (.hadd2F16 d a b h) (some 4) (add fp16) ∧ AluGives (.hadd2Bf16 d a b h) (some 4) (add bf16) ∧
    AluGives (.hmul2F16 d a b h) (some 4) (mul fp16) ∧ AluGives (.hmul2Bf16 d a b h) (some 4) (mul bf16) ∧
    AluGives (.hfma2F16 d a b h) (some 4) (fma fp16) ∧ AluGives (.hfma2Bf16 d a b h) (some 4) (fma bf16) ∧
    AluGives (.hmin2F16 d a b h) (some 4) (pick false fp16) ∧ AluGives (.hmin2Bf16 d a b h) (some 4) (pick false bf16) ∧
    AluGives (.hmax2F16 d a b h) (some 4) (pick true fp16) ∧ AluGives (.hmax2Bf16 d a b h) (some 4) (pick true bf16)

/-- R137 to R140: CVT, CVTN and CVTW. A conversion between floating-point types converts each tangent with its primal's
rounding and without SAT; an SR conversion takes one draw for each element; the masks of every source join. -/
def Obligations.Conversions : Prop :=
  ∀ (d a : GNum) (r : Rnd) (dst src : LTy) (f : SlotNum),
    AluGives (.cvt d a r dst src) (some 4) (fun c =>
      let md := c.rmode r 0
      let v := convertLane dst src md c.mod.sat (c.th.bitsOfTy src a.toNat)
      let ts := (List.range c.cfg.d).map fun k => convertLane dst src md false (c.th.shOfTy src a.toNat k)
      let m := if src = .f64 then (c.th.gr a.toNat).mask ||| (c.th.gr (a.toNat + 1)).mask else c.gm a
      let tans := c.dual && (ltyFmt dst).isSome && (ltyFmt src).isSome && dst != src
      { LaneOut.ok ((List.range (if dst = .f64 then 2 else 1)).map fun i =>
          .g (d.toNat + i) (BitVec.ofNat 32 (v / 2 ^ (32 * i)))
            (if tans then ts.map fun t => BitVec.ofNat 32 (t / 2 ^ (32 * i)) else List.replicate c.cfg.d 0) m) with
        draws := if r = .sr then 1 else 0 }) ∧
    AluGives (.cvtn d a r (.slot f) src) (some 4) (fun c =>
      match c.cfg.slot f with
      | none => .ok []
      | some sl =>
        let n := (packCount sl.elem.width).getD 0
        let pack (md : Bool) (x : Nat → Nat) : Word := BitVec.ofNat 32 (packCodes sl.elem.width ((List.range n).map fun i =>
          (toElem sl.elem (c.rmode r i) (if md then sl.sat || c.mod.sat else false) (sl.isat || c.mod.sat)
            (ltyVal src (x i))).1))
        { LaneOut.ok [.g d.toNat (pack true fun i => (c.th.gr (a.toNat + i)).val.toNat)
            (if c.dual && !sl.elem.isInt && (ltyFmt src).isSome then
              (List.range c.cfg.d).map fun k => pack false fun i => c.th.shOfTy src (a.toNat + i) k
             else List.replicate c.cfg.d 0)
            (c.th.maskOf (gRange a.toNat n))] with draws := if r = .sr then n else 0 }) ∧
    AluGives (.cvtw d a r dst (.slot f)) (some 4) (fun c =>
      match c.cfg.slot f with
      | none => .ok []
      | some sl =>
        let w := sl.elem.width
        let n := (packCount w).getD 0
        let part (md : Bool) (i x : Nat) : Word := BitVec.ofNat 32
          (toLty dst (c.rmode r i) (md && c.mod.sat) (elemVal sl.elem (bitsOf x (w * i) w)))
        { LaneOut.ok ((List.range n).map fun i => .g (d.toNat + i) (part true i (c.g a).toNat)
            (if c.dual && !sl.elem.isInt && (ltyFmt dst).isSome then
              (List.range c.cfg.d).map fun k => part false i (c.sh a k).toNat
             else List.replicate c.cfg.d 0) (c.gm a)) with draws := if r = .sr then n else 0 })

/-! ### Address registers, tangent moves, special values (R144 to R150) -/

/-- R144 to R147: ADER, ANARROW, AADV, AADVI and AGET; a range or a pointer that leaves the register's span raises
ADDR_LIMIT, and so does a register that has not been derived, but for ADER and AGET. -/
def Obligations.AddressRegisters : Prop :=
  ∀ (n : ANum) (m : WNum) (g off len d : GNum) (h : BitVec 2) (imm : BitVec 11) (part : BitVec 4),
    let reg (c : LaneCtx) : AReg := c.th.ar n.toNat
    let nb (c : LaneCtx) : Nat := (reg c).ptr.toNat + (c.g off).toNat
    let sz (c : LaneCtx) : Nat := (c.g len).toNat % 2 ^ 30
    let narrowOk (c : LaneCtx) : Bool := (reg c).valid && decide (sz c ≠ 0) &&
      decide (nb c + sz c - 1 ≤ (reg c).limit.toNat)
    let dest (c : LaneCtx) (x : Int) : Int := (reg c).ptr.toNat + x
    let imms (c : LaneCtx) : Int := match c.hints.imm with | none => imm.toInt | some p => (p ++ imm).toInt
    let inside (c : LaneCtx) (p : Int) : Bool := (reg c).valid && decide (((reg c).base.toNat : Int) ≤ p) &&
      decide (p ≤ ((reg c).limit.toNat : Int))
    AluGives (.ader n m) (some 4) (fun c => .ok [.a n.toNat (match c.windows[m.toNat]? with
      | some w => if w.used then ⟨BitVec.ofNat 72 w.base, BitVec.ofNat 72 w.base, BitVec.ofNat 72 (w.base + w.length - 1),
          windowPerm m.toNat w, 0⟩ else ⟨0, 0, 0, 0, 0⟩
      | none => ⟨0, 0, 0, 0, 0⟩)]) ∧
    AluGivesWhen (.anarrow n off len h) (some 4) narrowOk (fun _ => []) (fun c => .ok [.a n.toNat
      ⟨BitVec.ofNat 72 (nb c), BitVec.ofNat 72 (nb c), BitVec.ofNat 72 (nb c + sz c - 1),
       (if (c.g len).getLsbD 30 then ~~~(1 : Word) else BitVec.allOnes 32) &&&
         ((if (c.g len).getLsbD 31 then ~~~(2 : Word) else BitVec.allOnes 32) &&& (reg c).perm),
       (reg c).mask ||| c.gm off ||| c.gm len⟩]) ∧
    LanesFault (.anarrow n off len h) 0x04 narrowOk nb ∧
    AluGivesWhen (.aadv n g h) (some 4) (fun c => inside c (dest c (c.g g).toInt)) (fun _ => []) (fun c => .ok [.a n.toNat
      { reg c with ptr := BitVec.ofInt 72 (dest c (c.g g).toInt), mask := (reg c).mask ||| c.gm g }]) ∧
    LanesFault (.aadv n g h) 0x04 (fun c => inside c (dest c (c.g g).toInt))
      (fun c => (BitVec.ofInt 64 (dest c (c.g g).toInt)).toNat) ∧
    AluGivesWhen (.aadvi n imm) (some 4) (fun c => inside c (dest c (imms c))) (fun _ => []) (fun c => .ok [.a n.toNat
      { reg c with ptr := BitVec.ofInt 72 (dest c (imms c)) }]) ∧
    LanesFault (.aadvi n imm) 0x04 (fun c => inside c (dest c (imms c))) (fun c => (BitVec.ofInt 64 (dest c (imms c))).toNat) ∧
    AluGives (.aget d n part h) (some 4) (fun c => c.plain d (reg c).mask (match part.toNat with
      | 0 => (reg c).ptr.extractLsb' 0 32 | 1 => (reg c).ptr.extractLsb' 32 32
      | 2 => ((reg c).ptr.extractLsb' 64 8).setWidth 32
      | 3 => (reg c).base.extractLsb' 0 32 | 4 => (reg c).base.extractLsb' 32 32
      | 5 => ((reg c).base.extractLsb' 64 8).setWidth 32
      | 6 => (reg c).limit.extractLsb' 0 32 | 7 => (reg c).limit.extractLsb' 32 32
      | 8 => ((reg c).limit.extractLsb' 64 8).setWidth 32
      | _ => (reg c).perm))

/-- R148: DGET, DSET and DSEED. -/
def Obligations.TangentMoves : Prop :=
  ∀ (d a : GNum) (k h : BitVec 2),
    AluGives (.dget d a k h) (some 4) (fun c => c.plain d (c.gm a) (c.sh a k.toNat)) ∧
    AluGives (.dset d a k h) (some 4) (fun c => .ok [.gSh d.toNat k.toNat (c.g a) (c.gm d ||| c.gm a)]) ∧
    AluGives (.dseed d k h) (some 4) (fun c => .ok [.gShAll d.toNat
      ((List.range c.cfg.d).map fun i => if i = k.toNat then 0x3F800000 else 0)])

/-- R149, R150: SREAD by its selector, the clock being the reader's copy (the retired count in deterministic mode), and RAND,
which takes one draw. -/
def Obligations.SpecialValues : Prop :=
  ∀ (d : GNum) (sel : BitVec 10),
    (sel.toNat ≤ 0xB → AluGives (.sread d sel) (some 4) (fun c =>
      let clock := if c.cfg.det = 0 then c.now else c.warp.retired.toNat
      { c.plain d 0 (match sel.toNat with
          | 0x0 => BitVec.ofNat 32 clock
          | 0x1 => c.th.clkHi
          | 0x2 => BitVec.ofNat 32 c.lane
          | 0x3 => BitVec.ofNat 32 c.wi
          | 0x4 => BitVec.ofNat 32 c.cfg.warps
          | 0x5 => BitVec.ofNat 32 (maskOf c.warp.live)
          | 0x6 => c.th.draws.extractLsb' 0 32
          | 0x7 => (c.th.draws.extractLsb' 32 2).setWidth 32
          | 0x8 => BitVec.ofNat 32 (c.cfg.d + 8 * c.cfg.tt)
          | 0x9 => BitVec.ofNat 32 ((if c.cfg.dual then 1 else 0) + (if c.cfg.det != 0 then 2 else 0) +
              (if c.cfg.det = 2 then 4 else 0) + (if c.cfg.reassoc then 8 else 0))
          | 0xA => c.warp.retired.extractLsb' 0 32
          | _ => c.th.retHi) with
        latch := match sel.toNat with
          | 0x0 => some (false, BitVec.ofNat 32 (clock / 2 ^ 32))
          | 0xA => some (true, c.warp.retired.extractLsb' 32 32)
          | _ => none })) ∧
    AluGives (.rand d) (some 4) (fun c => { c.plain d 0 (BitVec.ofNat 32
      (philox c.cfg.seed.toNat c.unit.launchid.toNat (c.unit.idx * c.cfg.csize + c.wgi) (32 * c.wi + c.lane)
        c.th.draws.toNat)) with draws := 1 })

/-! ### Warp-collective instructions (R99, R100, R141 to R143) -/

/-- R141 to R143: SHFL, VOTE and LREDUCE, executed once for the warp. A source lane of SHFL that is not live is replaced by
the lane itself; LREDUCE combines the live lanes by the tree of R143. -/
def Obligations.CrossLane : Prop :=
  ∀ (d a b : GNum) (pd pa : PNum) (h : BitVec 2) (op : RedOp),
    let shfl (src : Nat → Nat → Nat) (_ : LaunchCfg) (w : Warp) (l : Nat) (t : Thread) : List RegWrite :=
      let n := src l (t.gr b.toNat).val.toNat
      let r := match (if n ∈ w.live then w.threads[n]? else none) with
        | some u => u.gr a.toNat
        | none => t.gr a.toNat
      [.g d.toNat r.val r.sh (r.mask ||| (t.gr b.toNat).mask)]
    let holds (w : Warp) (l : Nat) : Bool := ((w.threads[l]?).map fun t => (t.pr pa.toNat).val).getD false
    let masks (w : Warp) (f : Thread → Mask) : Mask :=
      (w.live.filterMap fun l => (w.threads[l]?).map f).foldl (· ||| ·) 0
    CrossGives (.shflIdx d a b h) (shfl fun _ x => x % 32) ∧
    CrossGives (.shflUp d a b h) (shfl fun l x => if x ≤ l then l - x else l) ∧
    CrossGives (.shflDown d a b h) (shfl fun l x => if l + x ≤ 31 then l + x else l) ∧
    CrossGives (.shflXor d a b h) (shfl fun l x => l ^^^ (x % 32)) ∧
    CrossGives (.voteAny pd pa h) (fun _ w _ _ => [.p pd.toNat (w.live.any (holds w)) (masks w fun t => (t.pr pa.toNat).mask)]) ∧
    CrossGives (.voteAll pd pa h) (fun _ w _ _ => [.p pd.toNat (w.live.all (holds w)) (masks w fun t => (t.pr pa.toNat).mask)]) ∧
    CrossGives (.voteBallot d pa h) (fun c w _ _ => [.g d.toNat
      (BitVec.ofFnLE fun n : Fin 32 => decide (n.val ∈ w.live) && holds w n.val) (List.replicate c.d 0)
      (masks w fun t => (t.pr pa.toNat).mask)]) ∧
    CrossGives (.lreduce d a op) (fun c w _ _ =>
      let leaf (l : Nat) : Option (Word × List Word) := if l ∈ w.live then (w.threads[l]?).map fun t =>
        ((t.gr a.toNat).val, if redIsFloat op then (t.gr a.toNat).sh else List.replicate c.d 0) else none
      let pairs (v : Nat → Option (Word × List Word)) (j : Nat) : Option (Word × List Word) :=
        match v (2 * j), v (2 * j + 1) with
        | some x, some y => some (redPair op x y)
        | some x, none => some x
        | none, y => y
      let r := (pairs (pairs (pairs (pairs (pairs leaf)))) 0).getD (0, List.replicate c.d 0)
      [.g d.toNat r.1 r.2 (masks w fun t => (t.gr a.toNat).mask)])

/-! ### Tiles (R206 to R224, R242 to R271) -/

/-- R213, R215, R255 to R265: every instruction that appends a node, with its shape rule, whose breach raises TILE_SHAPE, and its
operands, kind, slot and taint. -/
def Obligations.TileNodes : Prop :=
  ∀ (d a b : MNum) (f : SlotNum) (ov : IOvr) (bc ac sub pcol addto : Bool) (br : Bcast) (n : BitVec 6) (r : Rnd) (fn : ActFn)
    (aA aB : ANum) (q : GNum),
    let shape (m : MNum) (col : Bool) (c : LaunchCfg) (w : Warp) : Option (Nat × Nat) :=
      (w.conf c m.toNat).map fun t => if col then (t.cols, t.rows) else (t.rows, t.cols)
    let like (m : MNum) (col : Bool) (c : LaunchCfg) (w : Warp) (_ : Thread) (td : TCfg) : Bool :=
      shape m col c w == some (td.rows, td.cols)
    let pair (br : Bcast) (c : LaunchCfg) (w : Warp) (t : Thread) (td : TCfg) : Bool :=
      like a ac c w t td && shape b bc c w ==
        some (match br with | .full => (td.rows, td.cols) | .row => (1, td.cols) | .col => (td.rows, 1))
    let bySlot (c : LaunchCfg) : Bool := ((c.slot f).map (·.sr)).getD false
    TileAppends (.tmma d a b f ov bc ac) d.toNat [a.toNat, b.toNat, d.toNat] f (mmaOk a b f bc ac)
      (fun _ => .mma ov bc ac) (fun _ => 0) (fun _ => false) true ∧
    TileAppends (.tmloop d aA aB q) d.toNat [d.toNat] 0 (fun _ _ t td => td.acc && (t.gr (q.toNat + 3)).val.toNat % 2 ^ 21 == 0)
      (fun t => .loop (loopArgsOf aA aB q t)) (fun t => (t.ar aA.toNat).mask ||| (t.ar aB.toNat).mask) (fun _ => false) true ∧
    TileAppends (.tadd d a b f sub br bc ac) d.toNat [a.toNat, b.toNat] f (pair br)
      (fun _ => .add sub br bc ac) (fun _ => 0) bySlot true ∧
    TileAppends (.temul d a b f br bc ac) d.toNat [a.toNat, b.toNat] f (pair br)
      (fun _ => .emul br bc ac) (fun _ => 0) bySlot true ∧
    TileAppends (.tscl d a b f pcol bc ac) d.toNat [a.toNat, b.toNat] f (pair (if pcol then .row else .col))
      (fun _ => .scale pcol bc ac) (fun _ => 0) bySlot true ∧
    TileAppends (.tsclPow d a f n ac) d.toNat [a.toNat] f (like a ac) (fun _ => .scalePow n ac) (fun _ => 0) bySlot true ∧
    TileAppends (.ttr d a) d.toNat [a.toNat] 0 (fun c w _ td => match w.conf c a.toNat with
        | some ta => td.acc == ta.acc && td.elem == ta.elem && td.scale == ta.scale && ta.scale != 1 && td.rows == ta.cols &&
            td.cols == ta.rows
        | none => false)
      (fun _ => .transpose) (fun _ => 0) (fun _ => false) true ∧
    TileAppends (.tcvt d a f r ac) d.toNat [a.toNat] f (like a ac) (fun _ => .convert r ac) (fun _ => 0) (fun _ => r == .sr) true ∧
    TileAppends (.tact d a f fn ac) d.toNat [a.toNat] f (like a ac) (fun _ => .act fn ac) (fun _ => 0) bySlot true ∧
    TileAppends (.trsum d a f addto ac) d.toNat (if addto then [a.toNat, d.toNat] else [a.toNat]) f
      (fun c w _ td => (shape a ac c w).map (·.1) == some td.rows && td.cols == 1)
      (fun _ => .rsum addto ac) (fun _ => 0) bySlot true ∧
    TileAppends (.tzero d) d.toNat [] 0 (fun _ _ _ _ => true) (fun _ => .zero) (fun _ => 0) (fun _ => false) false

/-- R196, R213, R215, R216, R236, R246: what an append leaves: the destination's version one higher, the node last in the graph with
its operands' versions as they stood, and its taint the union of theirs; no other tile's data, version or configuration changes. A
node of n elements that rounds by SR keeps the draw count of every lane as it stood, and lane l's count grows by the number of
elements e < n with e mod 32 = l; without SR (n = 0) no count changes. -/
def Obligations.NodeAppended : Prop :=
  ∀ (w : Warp) (kind : NodeKind) (m : Nat) (ops : List Nat) (slot : SlotNum) (dual : Bool) (pc : VAddr) (extra : Mask)
    (n : Nat),
    m < w.tiles.length →
    let w' := appendNode w kind m ops slot dual pc extra n
    (w'.tile m).ver = (w.tile m).ver + 1 ∧ (w'.tile m).data = (w.tile m).data ∧ (w'.tile m).cfg = (w.tile m).cfg ∧
    (∀ k, k ≠ m → w'.tile k = w.tile k) ∧
    (w'.tile m).mask = ops.foldl (fun k o => k ||| (w.tile o).mask) extra ∧
    w'.graph.getLast? = some ⟨kind, (m, (w.tile m).ver + 1), ops.map fun o => (o, (w.tile o).ver), slot, dual, pc,
      ops.foldl (fun k o => k ||| (w.tile o).mask) extra, if n = 0 then [] else w.threads.map (·.draws)⟩ ∧
    w'.threads.length = w.threads.length ∧
    (∀ l t, l < 32 → w.threads[l]? = some t → w'.threads[l]? =
      some { t with draws := t.draws + BitVec.ofNat 34 ((List.range n).countP fun e => e % 32 == l) }) ∧
    (∀ y ∈ w'.graph.dropLast, y ∈ w.graph) ∧
    (∀ y ∈ w.graph, y.dst.1 ≠ m → y.dst.2 = (w.tile y.dst.1).ver → y ∈ w'.graph)

/-- R217, R249, R265, R269: TCFG, TDROP and TWR write a tile eagerly once no pending node reads it: the new version has zero
data (TCFG, TDROP), or each live lane's element written in turn (TWR). A configuration word of an unset slot raises ILLEGAL;
one that R208 refuses, a tile without a configuration and an index that names no element raise TILE_SHAPE. -/
def Obligations.TileEagerWrites : Prop :=
  ∀ (m : MNum) (g idx : GNum),
    CollDoes (.tcfg m g)
      (fun b1 s1 wi x => unread x m.toNat ∧ tileFree b1 s1 wi x m.toNat ∧
        ∃ t, x.lead = some t ∧ cfgWord b1.u.cfg (t.gr g.toNat).val.toNat = .ok)
      (fun _ _ _ x => match x.lead with
        | some t => eagerWrite x m.toNat fun y => ⟨some (t.gr g.toNat).val, [], [], y.ver, 0, [], [], none⟩
        | none => x) sameOps ∧
    CollDoes (.tdrop m)
      (fun b1 s1 wi x => unread x m.toNat ∧ tileFree b1 s1 wi x m.toNat ∧ (x.conf b1.u.cfg m.toNat).isSome)
      (fun _ _ _ x => eagerWrite x m.toNat fun y => ⟨y.cfg, [], [], y.ver, 0, [], [], none⟩) sameOps ∧
    CollDoes (.twr m g idx)
      (fun b1 s1 wi x => unread x m.toNat ∧ evaluated x m.toNat ∧ tileFree b1 s1 wi x m.toNat ∧
        ∃ tc, x.conf b1.u.cfg m.toNat = some tc ∧
          ∀ l ∈ x.live, ∀ t, x.threads[l]? = some t → tidxOk tc (t.gr idx.toNat).val.toNat = true)
      (fun b1 _ _ x => match x.conf b1.u.cfg m.toNat with
        | some tc =>
          let sl := b1.u.cfg.slot tc.slot
          let ths := x.live.filterMap fun l => x.threads[l]?
          eagerWrite x m.toNat fun y =>
            { ths.foldl (fun z t => tileWrite tc ((sl.map (·.sat)).getD false) ((sl.map (·.isat)).getD false) z
                (t.gr idx.toNat).val.toNat (t.gr g.toNat).val) y with
              mask := ths.foldl (fun k t => k ||| ((t.gr g.toNat).mask ||| (t.gr idx.toNat).mask)) (x.tile m.toNat).mask
              shData := [], shScales := [] }
        | none => x) sameOps ∧
    (∀ y ∈ [(CfgWord.unset, 0x01), (.bad, 0x0B)], WordFault (.tcfg m g) y.2 fun b1 x =>
      ∃ t, x.lead = some t ∧ cfgWord b1.u.cfg (t.gr g.toNat).val.toNat = y.1) ∧
    (∀ i ∈ [Instr.tdrop m, .twr m g idx], WordFault i 0x0B fun b1 x => x.conf b1.u.cfg m.toNat = none ∧ x.lead.isSome) ∧
    IndexFault (.twr m g idx) m idx

/-- R221, R234, R267, R270: TEVAL counts the closure of a pending version in `tl` and queues its evaluation without a stall;
TRD gives each live lane the element that its index names, with the tile's taint; TSTAT gives the word selected, and
selector 3 clears MXSTAT. TEVAL and TRD of a tile without a configuration and an index that names no element raise
TILE_SHAPE. -/
def Obligations.TileReads : Prop :=
  ∀ (d idx : GNum) (m : MNum) (sel : BitVec 3),
    CollDoes (.teval m)
      (fun b1 _ _ x => (x.conf b1.u.cfg m.toNat).isSome ∧ x.lead.isSome ∧ ¬ evaluated x m.toNat ∧ x.tl < 62)
      (fun _ _ _ x => { x with tl := x.tl + 1 })
      (fun b1 s1 wi x t => t.ops = s1.ops ∧ (t.core b1.g.core).evalQ =
        insertReq ⟨b1.wid wi, b1.pc, false, some (m.toNat, (x.tile m.toNat).ver), true, x.live, s1.clk, x.slot, x.graph⟩
          (s1.core b1.g.core).evalQ) ∧
    (∀ i ∈ [Instr.teval m, .trd d m idx], WordFault i 0x0B fun b1 x => x.conf b1.u.cfg m.toNat = none ∧ x.lead.isSome) ∧
    IndexFault (.trd d m idx) m idx ∧
    CollDoes (.teval m) (fun b1 _ _ x => (x.conf b1.u.cfg m.toNat).isSome ∧ x.lead.isSome ∧ evaluated x m.toNat)
      (fun _ _ _ x => x) sameOps ∧
    CollDoes (.trd d m idx)
      (fun b1 s1 wi x => x.lead.isSome ∧ evaluated x m.toNat ∧ tileFree b1 s1 wi x m.toNat ∧
        ∃ tc, x.conf b1.u.cfg m.toNat = some tc ∧
          ∀ l ∈ x.live, ∀ t, x.threads[l]? = some t → tidxOk tc (t.gr idx.toNat).val.toNat = true)
      (fun b1 _ _ x => match x.conf b1.u.cfg m.toNat with
        | some tc => pendWarp b1.pc none .known (x.live.filterMap fun l => (x.threads[l]?).map fun t =>
            (l, .ok [.g d.toNat (tileRead tc (x.tile m.toNat) (t.gr idx.toNat).val.toNat) (List.replicate b1.u.cfg.d 0)
              ((x.tile m.toNat).mask ||| (t.gr idx.toNat).mask)])) x
        | none => x) sameOps ∧
    CollDoes (.tstat d m sel)
      (fun b1 s1 wi x => x.lead.isSome ∧
        if sel.toNat < 4 then x.graph = [] ∧ ∀ r cl, (s1.core b1.g.core).evalCur = some (r, cl) → r.w ≠ b1.wid wi
        else evaluated x m.toNat ∧ tileFree b1 s1 wi x m.toNat)
      (fun b1 _ _ x =>
        let y := pendWarp b1.pc none .known (x.live.map fun l =>
          (l, .ok [.g d.toNat (tstatWord x m.toNat sel.toNat) (List.replicate b1.u.cfg.d 0) 0])) x
        if sel.toNat = 3 then { y with mxstat := 0 } else y) sameOps

/-! ### Lane memory (R160 to R170, R422 to R425, R437 to R450, R456) -/

/-- R160 to R166, R405, R406, R450: LD, LDX and LD.ACQ. Each warp of the issue takes a load tag, counts in `ld`, leaves its
destination group pending and sends one operation of the parts of its lanes' accesses: the primal, and for a dual access
with a stride S > 0 tangent k at ea + (k + 1) × S. One that L1 serves completes 32 clk later, D more for a dual one. An acquire
holds up the later accesses of its threads. -/
def Obligations.LaneLoads : Prop :=
  ∀ (g x : GNum) (n : ANum) (off : BitVec 10) (off7 : BitVec 7) (sz : Size) (pol : Policy) (sc : Scope),
    let load (i : Instr) (can : Bool) (idx : List RegName) (scope : Scope) (acq : Bool) (va : LaneCtx → Int) : Prop :=
      let dual (b : Bundle) : Bool := can && (sz == .b16 || sz == .b32 || sz == .b64 || sz == .b128) && decide (b.u.cfg.d > 0) &&
        (b.hints.tan || b.u.cfg.dual)
      let accs (b : Bundle) (s : State) (wi : Nat) (w : Warp) (l : Nat) (t : Thread) : List (List Part) :=
        let a := t.ar n.toNat
        let ea := va (b.laneCtx s wi w l t)
        accParts b.u a l 0 ea sz.bytes 0 0 [] ::
          (if dual b && decide (b.u.stride a > 0) then (List.range b.u.cfg.d).map fun k =>
            accParts b.u a l (k + 1) (ea + ((k + 1) * b.u.stride a : Nat)) sz.bytes 0 0 [] else [])
      AccessDoes i (fun c => inReg (c.th.ar n.toNat) (va c) sz.bytes true false)
        (fun b s => b.mayGo s (some .ld) (fun t => t.maskOf (.a n.toNat :: idx)) = true ∧
          noFill b s fun wi w l t => (accs b s wi w l t).flatten)
        (fun b s => (s.issued b (some .ld) true (gGroup g sz.group) (fun wi w ls tag id =>
            let ps := sendsOf (fun wi w l t => (accs b s wi w l t).flatMap (s.loadAccess b.g.core pol)) wi w ls
            { MemOp.plain (b.wid wi) b.g.core b.pc (.load g.toNat sz (dual b)) ls ps id with
              group := s.nextId, tag := tag, mask := (tag.map tagMask).getD 0, pol := pol, scope := scope, acq := acq
              waitSt := s.forwarders b.g.core ps
              due := if ps.all (·.st == .done) then s.clk + 32 + (if dual b then b.u.cfg.d else 0) else 0 }) onlyOps).past b false
          fun wi _ t => if acq then { t with acq := opNumber b s wi :: t.acq } else t)
    load (.ld g n off sz pol) true [] .dev false (fun c => (c.th.ar n.toNat).ptr.toNat + sz.bytes * (match c.hints.imm with
      | none => off.toInt | some p => (p ++ off).toInt)) ∧
    load (.ldx g n x sz pol) true [.g x.toNat] .dev false (fun c => (c.th.ar n.toNat).ptr.toNat + (c.g x).toInt) ∧
    load (.ldAcq g n sc off7 sz pol) false [] sc true (fun c => (c.th.ar n.toNat).ptr.toNat + sz.bytes * off7.toInt)

/-- R160 to R166, R393, R412, R423, R450: ST, STX and ST.REL. Each warp counts in `st` and sends one operation of the bytes
of its lanes, carrying the visibility time of data, address and index; then its core's L1 follows the policy, the bytes of the
highest lane staying where lanes meet; in deterministic mode the digest grows by the CRC of each store unit. A release that its
slice holds is sent with its mark; one with bytes in a stash window waits first for what comes before it (log 31). -/
def Obligations.LaneStores : Prop :=
  ∀ (g x : GNum) (n : ANum) (off : BitVec 10) (off7 : BitVec 7) (sz : Size) (pol : Policy) (sc : Scope),
    let store (i : Instr) (can : Bool) (idx : List RegName) (scope : Scope) (rel : Bool) (va : LaneCtx → Int) : Prop :=
      let dual (b : Bundle) : Bool := can && (sz == .b16 || sz == .b32 || sz == .b64 || sz == .b128) && decide (b.u.cfg.d > 0) &&
        (b.hints.tan || b.u.cfg.dual)
      let regs := .a n.toNat :: (idx ++ gGroup g sz.group)
      let data (t : Thread) : Nat → List Byte
        | 0 => groupBytes t g.toNat sz.bytes
        | k + 1 => groupShBytes t g.toNat k sz.bytes
      let addrs (b : Bundle) (t : Thread) (ea : Int) : List (Nat × Int) :=
        (0, ea) :: (if dual b && decide (b.u.stride (t.ar n.toNat) > 0) then
          (List.range b.u.cfg.d).map fun k => (k + 1, ea + ((k + 1) * b.u.stride (t.ar n.toNat) : Nat)) else [])
      let parts (b : Bundle) (s : State) (wi : Nat) (w : Warp) (l : Nat) (t : Thread) : List Part :=
        (addrs b t (va (b.laneCtx s wi w l t))).flatMap fun (k, y) =>
          accParts b.u (t.ar n.toNat) l k y sz.bytes 0 ((visTime w.tags (t.maskOf regs)).getD 0) (data t k)
      let held (b : Bundle) (s : State) : Bool := slicesHold rel scope (b.sends (parts b s))
      AccessDoes i (fun c => inReg (c.th.ar n.toNat) (va c) sz.bytes false true)
        (fun b s => b.mayGo s (some .st) (fun _ => 0) = true ∧ b.carriedKnown (fun t => t.maskOf regs) = true ∧
          storesFree b s (parts b s) ∧ releaseGoes b s rel scope (b.sends (parts b s)))
        (fun b s => ((s.issued b (some .st) false [] (fun wi w ls _ id =>
            { MemOp.plain (b.wid wi) b.g.core b.pc .store ls (sendsOf (parts b s) wi w ls) id with
              group := s.nextId, pol := pol, scope := scope, rel := held b s, cleared := !held b s })
          (fun wi w ls t =>
            if b.u.cfg.det = 0 then t else t.modWarp (b.wid wi) (·.addDigest (sumOf (ls.flatMap fun l =>
              match w.threads[l]? with
              | some th => (addrs b th (va (b.laneCtx s wi w l th))).map fun (k, y) =>
                  b.u.storeUnit (th.ar n.toNat) y.toNat (data th k)
              | none => []))))).storeL1All b.g.core (pol == .byp)
                (opParts s.nextId (b.parts.map fun (wi, w, ls) => sendsOf (parts b s) wi w ls))).past b false sameThread)
    store (.st g n off sz pol) true [] .dev false (fun c => (c.th.ar n.toNat).ptr.toNat + sz.bytes * (match c.hints.imm with
      | none => off.toInt | some p => (p ++ off).toInt)) ∧
    store (.stx g n x sz pol) true [.g x.toNat] .dev false (fun c => (c.th.ar n.toNat).ptr.toNat + (c.g x).toInt) ∧
    store (.stRel g n sc off7 sz pol) false [] sc true (fun c => (c.th.ar n.toNat).ptr.toNat + sz.bytes * off7.toInt)

/-- R105, R167 to R170: LDS, STS and ALDP. An LDS completes 20 clk after the issue, D more when it is dual. -/
def Obligations.ScratchpadAndPointers : Prop :=
  ∀ (d a : GNum) (n m : ANum) (off : BitVec 8) (off10 : BitVec 10) (sz : Size) (b128 : Bool) (pol : Policy),
    let ea (t : Thread) : Nat := ((t.gr a.toNat).val.toNat + off.toNat * sz.bytes) % 4294967296
    let dual (b : Bundle) : Bool := (sz == .b16 || sz == .b32 || sz == .b64 || sz == .b128) && decide (b.u.cfg.d > 0) && b.u.cfg.dual
    let inside (c : LaneCtx) : Bool := decide (ea c.th + sz.bytes ≤ c.cfg.csize * c.cfg.spad) &&
      c.unit.stash.all fun st => !overlaps (ea c.th) sz.bytes st.soff st.length
    let parts (b : Bundle) (carried : Thread → Nat) (data : Thread → Nat → List Byte) (_ : Nat) (_ : Warp) (l : Nat) (t : Thread) :
        List Part :=
      (List.range (if dual b then b.u.cfg.d + 1 else 1)).map fun k =>
        ⟨l, k, .spad, ea t + k * (b.u.cfg.csize * b.u.cfg.spad), sz.bytes, 0, data t k, [], .sent, 0, carried t⟩
    let psz := if b128 then 16 else 8
    let pa (c : LaneCtx) : Int := (c.th.ar m.toNat).ptr.toNat + (psz : Nat) * (match c.hints.imm with
      | none => off10.toInt | some p => (p ++ off10).toInt)
    let pacc (b : Bundle) (s : State) (wi : Nat) (w : Warp) (l : Nat) (t : Thread) : List Part :=
      accParts b.u (t.ar m.toNat) l 0 (pa (b.laneCtx s wi w l t)) psz 0 (t.ar m.toNat).mask.toNat []
    AccessDoes (.lds d a sz off) inside (fun b s => b.mayGo s (some .ld) (fun _ => 0) = true)
      (fun b s => (s.issued b (some .ld) false (gGroup d sz.group) (fun wi w ls _ id =>
        { MemOp.plain (b.wid wi) b.g.core b.pc (.lds d.toNat sz (dual b)) ls
            (sendsOf (parts b (fun t => (t.gr a.toNat).mask.toNat) fun _ _ => []) wi w ls) id with
          group := s.nextId, due := s.clk + 20 + (if dual b then b.u.cfg.d else 0) }) onlyOps).past b false sameThread) ∧
    AccessDoes (.sts d a sz off) inside (fun b s => b.mayGo s (some .st) (fun _ => 0) = true)
      (fun b s => (s.issued b (some .st) false [] (fun wi w ls _ id =>
        { MemOp.plain (b.wid wi) b.g.core b.pc .sts ls
            (sendsOf (parts b (fun _ => 0) fun t k => match k with
              | 0 => groupBytes t d.toNat sz.bytes
              | k + 1 => groupShBytes t d.toNat k sz.bytes) wi w ls) id with
          group := s.nextId, due := s.clk + 20 }) onlyOps).past b false sameThread) ∧
    AccessDoes (.aldp n m off10 b128 pol) (fun c => inReg (c.th.ar m.toNat) (pa c) psz true false)
      (fun b s => b.mayGo s (some .ld) (fun t => (t.ar m.toNat).mask) = true ∧ noFill b s (pacc b s))
      (fun b s => b.lanes.foldl (fun t (wi, _, l, _) => t.modThread (b.wid wi) l fun x => { x with busy := some s.nextId })
        (s.issued b (some .ld) true [.a n.toNat] (fun wi w ls tag id =>
          let ps := sendsOf (fun wi w l t => s.loadAccess b.g.core pol (pacc b s wi w l t)) wi w ls
          { MemOp.plain (b.wid wi) b.g.core b.pc (.aldp n.toNat b128) ls ps id with
            group := s.nextId, tag := tag, mask := (tag.map tagMask).getD 0, pol := pol
            waitSt := s.forwarders b.g.core ps
            due := if ps.all (·.st == .done) then s.clk + 32 else 0 }) onlyOps))

/-- R437 to R444, R393: ATOM and CAS. Each warp takes a load tag, leaves the result group pending and sends its lanes'
operands; blocks of its core's L1 that they touch are dropped; the instruction ends its region. Their releases are held, and wait,
as those of stores are (log 31). -/
def Obligations.AtomicIssues : Prop :=
  ∀ (g : GNum) (n : ANum) (sc : Scope) (op : AtomOp) (b64 : Bool) (ord : Order),
    let k := if b64 then 2 else 1
    let acq := ord == .acq || ord == .ar
    let rel := ord == .rel || ord == .ar
    let atomic (i : Instr) (dual : Bundle → Bool) (kind : Bundle → OpKind) (data : Nat) (value : Thread → Nat → List Byte) : Prop :=
      let regs := .a n.toNat :: gGroup g data
      let parts (b : Bundle) (_ : Nat) (w : Warp) (l : Nat) (t : Thread) : List Part :=
        let a := t.ar n.toNat
        (0 :: (if dual b && decide (b.u.stride a > 0) then (List.range b.u.cfg.d).map (· + 1) else [])).flatMap fun j =>
          let va := a.ptr.toNat + j * b.u.stride a
          (accParts b.u a l j va (4 * k) 0 ((visTime w.tags (t.maskOf regs)).getD 0) []).map fun q =>
            { q with data := value t j, off := a.win + 16 * (va - ((b.u.windows[a.win]?).map (·.base)).getD 0) }
      let held (b : Bundle) : Bool := slicesHold rel sc (b.sends (parts b))
      AccessDoes i
        (fun c => inReg (c.th.ar n.toNat) (c.th.ar n.toNat).ptr.toNat (4 * k) true true && (c.th.ar n.toNat).ptr.toNat % (4 * k) == 0)
        (fun b s => b.mayGo s (some .ld) (fun t => (t.ar n.toNat).mask) = true ∧ b.carriedKnown (fun t => t.maskOf regs) = true ∧
          storesFree b s (parts b) ∧ releaseGoes b s rel sc (b.sends (parts b)))
        (fun b s => (s.issued b (some .ld) true (gGroup g k) (fun wi w ls tag id =>
            { MemOp.plain (b.wid wi) b.g.core b.pc (kind b) ls (sendsOf (parts b) wi w ls) id with
              group := s.nextId, tag := tag, mask := (tag.map tagMask).getD 0, scope := sc, acq := acq, rel := held b, cleared := !held b })
          (fun wi w ls t => t.modCore b.g.core fun c => (sendsOf (parts b) wi w ls).foldl (fun c q =>
            if q.space == .local then c.l1Drop q.addr q.n else c) c)).past b true
          fun wi _ t => if acq then { t with acq := opNumber b s wi :: t.acq } else t)
    let dual (b : Bundle) : Bool := (op == .fadd32 || op == .fadd64) && decide (b.u.cfg.d > 0) && (b.hints.tan || b.u.cfg.dual)
    atomic (.atom g n sc op b64 ord) dual (fun b => .atom g.toNat op b64 (dual b)) k (fun t j => match j with
      | 0 => groupBytes t g.toNat (4 * k)
      | j + 1 => groupShBytes t g.toNat j (4 * k)) ∧
    atomic (.cas g n sc b64 ord) (fun _ => false) (fun _ => .cas g.toNat b64) (2 * k) (fun t _ => groupBytes t g.toNat (8 * k))

/-- R422 to R425, R445 to R447, R456, R499: WAITCMP, PREF and FENCE. -/
def Obligations.WaitsAndPrefetch : Prop :=
  ∀ (g : GNum) (n : ANum) (sys b64 : Bool) (c : WCond) (off : BitVec 10) (sz : BitVec 3) (pol : Policy) (sc : Scope),
    let k := if b64 then 2 else 1
    let addr (c : LaneCtx) : Nat := (c.th.ar n.toNat).ptr.toNat
    AccessDoes (.waitcmp g n sys c b64)
      (fun c => inReg (c.th.ar n.toNat) (addr c) (4 * k) true false && addr c % (4 * k) == 0 &&
        (c.unit.resolve (c.th.ar n.toNat) (addr c)).1 != .stash)
      (fun b s => b.ckptWaits s Thread.lastRegion = false ∧ b.mayGo s none (fun t => (t.ar n.toNat).mask) = true ∧
        ∀ x ∈ b.lanes, regionTiles b.u.cfg x.2.2.2.lastRegion = [])
      (fun b s =>
        let s1 := s.writeCkpt b Thread.lastRegion ((List.range k).map (g.toNat + ·)) [n.toNat] true
        b.lanes.foldl (fun t (wi, _, l, _) => t.modThread (b.wid wi) l fun x => { x with busy := some s.nextId })
          (s1.issued b none true (gGroup g k) (fun wi w ls tag id =>
            let ps := sendsOf (fun _ _ l t =>
              (accParts b.u (t.ar n.toNat) l 0 (t.ar n.toNat).ptr.toNat (4 * k) 0 0 []).map fun p => match t.matched with
                | some (v, time) => { p with st := .done, data := natBytes (4 * k) v, time := time }
                | none => p) wi w ls
            { MemOp.plain (b.wid wi) b.g.core b.pc (.waitcmp g.toNat c b64
                (ls.filterMap fun l => (w.threads[l]?).map fun t => (l, bytesNat (groupBytes t g.toNat (4 * k))))) ls ps id with
              group := s.nextId, tag := tag, mask := (tag.map tagMask).getD 0, scope := if sys then .sys else .dev
              acq := true }) onlyOps)) ∧
    AccessDoes (.pref n off sz pol) (fun _ => true) (fun _ _ => True)
      (fun b s => (b.parts.foldl (fun t (wi, w, ls) =>
        let ps := sendsOf (fun _ _ l t =>
          prefParts b.u (t.ar n.toNat) l ((t.ar n.toNat).ptr.toNat + 256 * (match b.hints.imm with
            | none => off.toInt | some p => (p ++ off).toInt)) (256 * 2 ^ sz.toNat)) wi w ls
        if ps = [] then t
        else t.newOp fun id =>
          { MemOp.plain (b.wid wi) b.g.core b.pc .pref ls ps id with group := s.nextId, pol := pol }) s).past b false sameThread) ∧
    AccessDoes (.fence sc) (fun _ => true)
      (fun b s => ∀ x ∈ b.parts,
        let k := b.fenceBound s
        let w := b.wid x.1
        s.loadsDone w k = true ∧ ((sc = .clus ∨ sc = .dev ∨ sc = .sys) →
          (sc = .clus → s.arrivedAll w k = true) ∧ s.clear w (sc == .sys) k = true ∧ s.loadTimes w k = true))
      (fun b s => s.past b false sameThread)

/-! ### Control flow (R151 to R156, R171) -/

/-- R60, R93, R151 to R153: BRP, BRA, BRX, RET and CALL. Each lane that takes the branch goes to its target, the others to
the next instruction; all are filed 4 clk later; CALL writes the link of each lane that takes it. A target outside the
code raises ILLEGAL for its lanes. -/
def Obligations.Branches : Prop :=
  ∀ (p : PNum) (sense : Bool) (g a : GNum) (cond : BraCond) (off : BitVec 21) (off11 : BitVec 11),
    let branch (i : Instr) (dest : LaneCtx → Option Int) (link : LaneCtx → List RegWrite) : Prop :=
      let ok (c : LaneCtx) : Bool := match dest c with
        | none => true
        | some x => decide ((c.cfg.entry.toNat : Int) ≤ x ∧ x < c.cfg.entry.toNat + c.cfg.codesize)
      AccessDoes i ok (fun _ _ => True)
        (fun b s => ((s.eachWarp b fun wi w ls x =>
          let outs := ls.filterMap fun l => (w.threads[l]?).bind fun t =>
            let c := b.laneCtx s wi w l t
            if (dest c).isSome && link c != [] then some (l, LaneOut.ok (link c)) else none
          retireWarp b.pc false (fun l t => match (w.threads[l]?).bind fun u => dest (b.laneCtx s wi w l u) with
            | some y => { t with pc := BitVec.ofInt 72 y }
            | none => t) ls (if outs = [] then x else pendWarp b.pc (some (s.clk + 4)) .known outs x)).countTurn b).dissolve b
              (s.clk + 4) false) ∧
      LanesFault i 0x01 ok (fun _ => (encode i).getD 0)
    let chosen (c : LaneCtx) : Bool := (c.th.pr p.toNat).val == sense
    let linked (c : LaneCtx) (r : GNum) : Int :=
      let v := (c.g r).toNat
      if v % 4 = 0 ∧ v < c.cfg.codesize then (c.cfg.entry.toNat + v : Nat) else -1
    branch (.brp p sense off) (fun c => if chosen c then some (c.th.pc.toNat + 4 * off.toInt) else none) (fun _ => []) ∧
    branch (.bra g cond off11) (fun c =>
      let v := c.g g
      if (match cond with | .z => v == 0 | .nz => v != 0 | .neg => v.msb | .nneg => !v.msb) then
        some (c.th.pc.toNat + 4 * (match c.hints.imm with | none => off11.toInt | some q => (q ++ off11).toInt)) else none)
      (fun _ => []) ∧
    branch (.ret p sense) (fun c => if chosen c then some (linked c 0) else none) (fun _ => []) ∧
    branch (.brx a) (fun c => some (linked c a)) (fun _ => []) ∧
    branch (.call p sense off) (fun c => if chosen c then some (c.th.pc.toNat + 4 * off.toInt) else none)
      (fun c => [.g 0 (BitVec.ofNat 32 ((c.th.pc + 4 - c.cfg.entry).toNat % 2 ^ 32)) (List.replicate c.cfg.d 0) 0])

/-- R98, R154, R155, R171, R240: EXIT, NOP, REFORM, YIELD, TRAP and WAITC. -/
def Obligations.ThreadControl : Prop :=
  ∀ (p : PNum) (sense : Bool) (code : BitVec 10) (ld st xf tl : BitVec 6),
    AccessDoes (.exit p sense) (fun _ => true) (fun _ _ => True) (fun b s =>
      let gone := b.pick fun t => (t.pr p.toNat).val == sense
      let t := s.retire b false fun wi l t =>
        if gone.parts.any fun (w, _, ls) => w == wi && ls.contains l then { t with exited := true, defer := none } else t
      let t := gone.parts.foldl (fun t (wi, w, ls) =>
        let t := t.modWarp (b.wid wi) fun x => if x.live = [] ∧ x.tl = 0 then { x with graph := [] } else x
        t.modCore b.g.core fun c =>
          let others := c.lastExit.filter (·.1 != w.slot)
          { c with lastExit := (w.slot, b.pc, (ls[0]?).getD 0) :: others }) t
      (t.leave gone).stay b) ∧
    AccessDoes .nop (fun _ => true) (fun _ _ => True) (fun b s => s.past b false sameThread) ∧
    AccessDoes .reform (fun _ => true) (fun _ _ => True) (fun b s => (s.retire b false sameThread).dissolve b (s.clk + 1) false) ∧
    AccessDoes .yield (fun _ => true) (fun _ _ => True)
      (fun b s => (s.retire b false sameThread).dissolve b (s.clk + 1) (decide (b.u.cfg.det = 0))) ∧
    AccessDoes (.trap code) (fun _ => true) (fun _ _ => True)
      (fun b s => s.takeFault b.u.id b.wg 0x09 true b.pc (b.parts.map fun (wi, _, ls) => ⟨wi, ls, code.toNat, 0, []⟩)) ∧
    AccessDoes (.waitc ld st xf tl) (fun _ => true)
      (fun b _ => ∀ x ∈ b.parts, (ld = 63 ∨ x.2.1.ld ≤ ld.toNat) ∧ (st = 63 ∨ x.2.1.st ≤ st.toNat) ∧
        (xf = 63 ∨ x.2.1.xf ≤ xf.toNat) ∧ (tl = 63 ∨ x.2.1.tl ≤ tl.toNat))
      (fun b s => s.past b false sameThread)

/-- R61 to R66, R155, R466: the hint words leave their hint pending beside those before it; UNTAINT clears the mask of the value
that its register holds. None of them waits for a register. -/
def Obligations.HintsAndUntaint : Prop :=
  ∀ (v : BitVec 25) (sat clamp neg abs : Bool) (scl : BitVec 6) (ovr : Option LTy) (d : GNum),
    let hint (i : Instr) (f : Hints → Hints) : Prop :=
      OpenDoes i fun b s => s.past b false fun _ _ t => { t with hints := f b.hints, stepDone := false }
    hint (.imm v) (fun h => ⟨some v, h.mod, h.tan⟩) ∧
    hint (.mod_ sat clamp neg abs scl ovr) (fun h => ⟨h.imm, some ⟨sat, clamp, neg, abs, scl, ovr⟩, h.tan⟩) ∧
    hint .tan (fun h => ⟨h.imm, h.mod, true⟩) ∧
    OpenDoes (.untaint d) (fun b s =>
      s.past b false fun _ _ t => { t with g := modAt t.g d.toNat fun r => { r with mask := 0 } })

/-! ### Barrier objects (R172 to R176) -/

/-- R172 to R175, R434, R465: INIT, EXPECT, ARRIVE and WAIT at their issue, each after the expectations of its threads before it; an
expectation, and an issue's arrivals once its warps' stores are acked, reach the object in their turn (`State.barAhead` is the order
of R175; in deterministic mode arrivals apply in their warp's turn). An arrival at an object whose COUNT is 0 raises ILLEGAL. A
thread of WAIT that has seen its phase waits for LTIME alone; while it waits, the object lets it see a phase that completes. -/
def Obligations.BarrierInstructions : Prop :=
  ∀ (n : BNum) (g : GNum),
    let none_ (b : Bundle) (s : State) : Prop := ∀ o ∈ s.ops, (∃ k vals, o.kind = .expect k vals) → ∀ x ∈ b.parts, o.w ≠ b.wid x.1
    let sent (b : Bundle) (s : State) (kind : Warp → List Nat → OpKind) (waits : List Nat) : State :=
      b.parts.foldl (fun t (wi, w, ls) => t.newOp fun k =>
        { MemOp.plain (b.wid wi) b.g.core b.pc (kind w ls) ls [] k with group := s.nextId, waitSt := waits }) s
    let seen (x : Barrier) (t : Thread) : Bool := t.barSeen || x.phase != (t.gr g.toNat).val.getLsbD 0
    AccessDoes (.barInit n g) (fun c => decide ((c.g g).toNat ≤ 4096)) (fun b s => none_ b s) (fun b s =>
      (b.lanes.foldl (fun t x =>
        let count := BitVec.ofNat 13 (x.2.2.2.gr g.toNat).val.toNat
        t.putBar b.u.id b.wg n.toNat ⟨0, 0, 0, count, count, false, false, ⟨0, 0, 0⟩, ⟨0, 0, 0⟩⟩) s).past b true sameThread) ∧
    AccessDoes (.barExpect n g) (fun _ => true) none_ (fun b s =>
      (sent b s (fun w ls => .expect n.toNat (ls.filterMap fun l => (w.threads[l]?).map fun t => (l, (t.gr g.toNat).val.toNat)))
        []).past b true sameThread) ∧
    AccessDoes (.barArrive n) (fun _ => true) none_
      (fun b s => b.lanes.foldl (fun t (wi, _, l, _) => t.modThread (b.wid wi) l fun x => { x with busy := some s.nextId })
        (sent b s (fun _ _ => .arrive n.toNat) (b.parts.flatMap fun x => s.storesOf (b.wid x.1)))) ∧
    AccessDoes (.barWait n g) (fun _ => true)
      (fun b s => none_ b s ∧ (s.bar b.u.id b.wg n.toNat).ltime.toNat ≤ s.now b.g.core ∧
        ∀ x ∈ b.lanes, seen (s.bar b.u.id b.wg n.toNat) x.2.2.2 = true)
      (fun b s => s.past b false sameThread) ∧
    AccessDoes (.barWait n g) (fun _ => true)
      (fun b s => none_ b s ∧ (s.now b.g.core < (s.bar b.u.id b.wg n.toNat).ltime.toNat ∨
        ∃ x ∈ b.lanes, seen (s.bar b.u.id b.wg n.toNat) x.2.2.2 = false))
      (fun b s => b.lanes.foldl (fun t (wi, _, l, th) => t.modThread (b.wid wi) l fun x =>
        { x with barSeen := seen (s.bar b.u.id b.wg n.toNat) th, barWait := some (n.toNat, (th.gr g.toNat).val.getLsbD 0) }) s) ∧
    ∀ (s : State) (o : MemOp), s.op? o.id = some o → (∀ k ∈ o.waitSt, ∀ x ∈ s.ops, x.id ≠ k) → s.barAhead o = false →
      (∀ vals, o.kind = .expect n.toNat vals → exec (.barrierArrivalApply o.id) s = .next
        (vals.foldl (fun t x => t.barEvent o.w.unit o.w.wg n.toNat (some o.w) fun y => { y with bytes := y.bytes + BitVec.ofNat 64 x.2 })
          { s with ops := s.ops.filter (·.id != o.id) })) ∧
      ∀ b, o.kind = .arrive n.toNat → s.mayRetire o.w = true →
        let s1 := { s with ops := s.ops.filter (·.group != o.group) }
        let groups := (s.ops.filter (·.group == o.group)).map fun x => (x.w.warp, x.lanes)
        s1.bundleOf o.w.unit o.w.wg groups = some b →
        ((s1.bar o.w.unit o.w.wg n.toNat).count ≠ 0 →
          exec (.barrierArrivalApply o.id) s = .next ((((groups.flatMap fun (wi, ls) => ls.map fun l => (wi, l)).foldl (fun t x =>
            t.arriveAt ⟨o.w.unit, o.w.wg, x.1⟩ n.toNat) s1).retire b true fun _ _ t => { t with busy := none }).stay b)) ∧
        ((s1.bar o.w.unit o.w.wg n.toNat).count = 0 → exec (.barrierArrivalApply o.id) s = .next
          (s1.takeFault o.w.unit o.w.wg 0x01 true o.pc (b.parts.map fun (wi, _, ls) => ⟨wi, ls, (encode (.barArrive n)).getD 0, 0, []⟩)))

/-- R173, R174, R312: after every event the object tests for completion: a completed phase moves TIME to LTIME, flips PHASE,
takes COUNT as PENDING and moves the error record; no other object of the workgroup changes. -/
def Obligations.BarrierPhases : Prop :=
  ∀ (s : State) (unit wg n : Nat) (party : Option WarpId) (f : Barrier → Barrier) (g : Workgroup),
    s.wg? unit (if n < 16 then wg else 0) = some g → n < g.bars.length →
    let x := f (s.bar unit wg n)
    (s.barEvent unit wg n party f).bar unit wg n =
      (if (x.count = 0 ∨ x.pending = 0) ∧ x.bytes = 0 then
        { x with ltime := x.time, time := 0, err := decide (x.curErr.kind ≠ 0), phase := !x.phase, pending := x.count
                 lastErr := x.curErr, curErr := ⟨0, 0, 0⟩ }
       else x) ∧
    ∀ k, k ≠ n → (k < 16 ↔ n < 16) → (s.barEvent unit wg n party f).bar unit wg k = s.bar unit wg k

/-! ### Transfer engine instructions at issue (R276, R302, R305, R309, R313) -/

/-- R276, R296, R302, R305, R313: XLR sends the reads of its records, as loads under .BYP; XCP, XRED and XWALK take the lowest free channels in
ascending thread order, one for each thread; each issue counts once in `xf` of each warp. XSTAT reads the last-phase record. -/
def Obligations.TransferIssues : Prop :=
  ∀ (d l first : LNum) (n : ANum) (off : BitVec 10) (b : BNum) (t : Xform) (chk : Bool) (nm2 : BitVec 4) (act : WalkAct)
    (g : GNum) (sel : BitVec 2),
    let addr (c : LaneCtx) : Int := (c.th.ar n.toNat).ptr.toNat + 64 * (match c.hints.imm with
      | none => off.toInt | some q => (q ++ off).toInt)
    let parts (bu : Bundle) (s : State) (wi : Nat) (w : Warp) (ln : Nat) (th : Thread) : List Part :=
      accParts bu.u (th.ar n.toNat) ln 0 (addr (bu.laneCtx s wi w ln th)) 64 0 0 []
    let channels (i : Instr) (kind : Thread → XferKind) (dst : Thread → Nat) (srcs : Thread → List Nat) (mask : Thread → Mask) : Prop :=
      ∀ (s : State) (bu : Bundle), s.bundle? = some bu → bu.ready i = true → bu.proper = true →
        (∀ x ∈ bu.parts, x.2.1.xf < 62 ∧ s.warp? (bu.wid x.1) = some x.2.1 ∧ ∀ ln ∈ x.2.2, ln < x.2.1.threads.length) →
        (∀ x ∈ bu.parts, ∀ th ∈ x.2.1.threads, th.granted = false ∧ th.fenceAt = none) →
        bu.lanes.length ≤ (s.freeChannels bu.u.pcl).length →
        forceForXfer s bu (fun th => ⟨kind th, dst th, srcs th, mask th⟩) = none →
        ∃ u, exec i s = .next u ∧ u.home = s.home ∧ u.ops = s.ops ∧
          u.channels = s.channels ++ (bu.lanes.zip (s.freeChannels bu.u.pcl)).map (fun ((wi, _, ln, th), ch) =>
            ⟨bu.u.pcl, ch, s.nextId, bu.wid wi, ln, bu.pc, kind th, dst th, srcs th, b.toNat, chk, mask th, false, false, none, [],
              0, 0, 0, 0, none, 0, 0, bu.parts.map (·.1), 0⟩) ∧
          ∀ x ∈ bu.parts, u.warp? (bu.wid x.1) =
            some (retireWarp bu.pc true (fun _ t => t) x.2.2 { x.2.1 with xf := x.2.1.xf + 1 })
    AccessDoes (.xlr l n off) (fun c => inReg (c.th.ar n.toNat) (addr c) 64 true false && addr c % 64 == 0)
      (fun bu s => bu.mayGo s (some .xf) (fun th => (th.ar n.toNat).mask) = true ∧
        ∀ x ∈ bu.lanes, s.heldUp bu.u (placesOf (parts bu s x.1 x.2.1 x.2.2.1 x.2.2.2)) = false)
      (fun bu s => (s.issued bu (some .xf) false [] (fun wi w ls _ id =>
        let ps := sendsOf (fun wi w ln th => s.loadAccess bu.g.core .byp (parts bu s wi w ln th)) wi w ls
        { MemOp.plain (bu.wid wi) bu.g.core bu.pc (.xlr l.toNat) ls ps id with
          group := s.nextId, pol := .byp, waitSt := s.forwarders bu.g.core ps })
        onlyOps).past bu false sameThread) ∧
    channels (.xcp d l b t chk) (fun _ => .xcp t) (fun _ => d.toNat) (fun _ => [l.toNat]) (fun _ => 0) ∧
    channels (.xred d first nm2 b chk) (fun _ => .xred (nm2.toNat + 2)) (fun _ => d.toNat)
      (fun _ => (List.range (nm2.toNat + 2)).map (first.toNat + ·)) (fun _ => 0) ∧
    (let word (th : Thread) : Nat := (th.gr g.toNat).val.toNat
     let field (th : Thread) (lo k : Nat) : Nat := word th / 2 ^ lo % 2 ^ k
     channels (.xwalk l g b act chk)
      (fun th => .xwalk act (field th 8 8) (if word th ≥ 2 ^ 24 ∨ field th 8 8 ≥ field th 16 8 then 0 else field th 16 8))
      (fun th => field th 4 4) (fun th => l.toNat :: (if act = .coord then [] else [field th 0 4])) (fun th => (th.gr g.toNat).mask)) ∧
    AluGives (.xstat g b sel) (some 4) (fun c =>
      let r := (((c.unit.wgs[if b.toNat < 16 then c.wgi else 0]?).bind fun x => x.bars[b.toNat]?).map (·.lastErr)).getD ⟨0, 0, 0⟩
      c.plain g 0 (if sel = 0 then BitVec.ofNat 32 r.kind.toNat else if sel = 1 then r.extent.extractLsb' 0 32
        else if sel = 2 then r.extent.extractLsb' 32 32 else r.chunk))

/-! ### Stash windows, tile memory, REGION (R157, R251 to R254, R452 to R455) -/

/-- R452 to R455: SMAP binds a window for each lane in turn; SFLUSH and SUNMAP write the named windows' dirty bytes back as
stores of each warp that names them, after which their lines are clean: the bytes go in the operation of the first warp that
names the window, for which the others wait, and update the core's L1 as a store's do (R406, R407). SMAP's first lane that fails faults alone (STASH, causes 1 to 5), and nothing is
bound; lanes that name no bound window fault with cause 6. -/
def Obligations.StashInstructions : Prop :=
  ∀ (n : ANum) (g : GNum),
    let bindOk (u : Placed) (st : List Stash) (a : AReg) (off : Nat) : Bool :=
      let len := a.limit.toNat + 1 - a.base.toNat
      a.valid && !a.arg && decide (8 ≤ a.win) && ((u.windows[a.win]?).map fun w => w.range && w.w && w.used).getD false &&
        decide (a.base.toNat % 256 = 0 ∧ len % 256 = 0 ∧ len ≤ 2 ^ 21 ∧ off % 256 = 0 ∧ off + len ≤ u.cfg.csize * u.cfg.spad ∧
          st.length < 8) &&
        st.all fun x => !overlaps x.vbase x.length a.base.toNat len && !overlaps x.soff x.length off len
    let bind (u : Placed) (st : List Stash) (a : AReg) (off : Nat) : List Stash :=
      match u.windows[a.win]? with
      | some w => st ++ [⟨a.base.toNat, w.ibase + (a.base.toNat - w.base), a.limit.toNat + 1 - a.base.toNat, off, w.space, [], [], []⟩]
      | none => st
    let off (t : Thread) : Nat := (t.gr g.toNat).val.toNat
    let bound (b : Bundle) (xs : List (Nat × Warp × Nat × Thread)) : List Stash :=
      xs.foldl (fun st x => bind b.u st (x.2.2.2.ar n.toNat) (off x.2.2.2)) b.u.stash
    let named (b : Bundle) : List Stash := (b.lanes.filterMap fun x => b.u.stashAt (x.2.2.2.ar n.toNat).ptr.toNat).eraseDups
    -- the windows that the lanes of one warp name, and those that no warp before it names
    let mine (b : Bundle) (w : Warp) (ls : List Nat) : List Stash := (ls.filterMap fun l => (w.threads[l]?).bind fun t =>
      b.u.stashAt (t.ar n.toNat).ptr.toNat).eraseDups
    let firsts (b : Bundle) (x : Nat × Warp × List Nat) : List Stash := (mine b x.2.1 x.2.2).filter fun st =>
      (b.parts.find? fun y => (mine b y.2.1 y.2.2).any (·.vbase == st.vbase)).map (·.1) == some x.1
    let flush (i : Instr) (unbind : Bool) : Prop :=
      AccessDoes i (fun c => (c.unit.stashAt (c.th.ar n.toNat).ptr.toNat).isSome)
        (fun b s => b.mayGo s (some .st) (fun _ => 0) = true ∧
          ∀ st ∈ named b, s.unbinding b.u st.vbase = false ∧ s.stashBusy b.u st = false)
        (fun b s =>
          let waits (wi : Nat) (w : Warp) (ls : List Nat) : List Nat :=
            ((b.parts.takeWhile (·.1 != wi)).flatMap fun x => (firsts b x).map fun st => (st.vbase, opNumber b s x.1)).filterMap
              fun y => if (mine b w ls).any (·.vbase == y.1) then some y.2 else none
          let t := s.issued b (some .st) false [] (fun wi w ls _ id =>
            { MemOp.plain (b.wid wi) b.g.core b.pc (.sflush ((mine b w ls).map (·.vbase)) unbind) ls
                ((firsts b (wi, w, ls)).flatMap (stashParts b.u)) id with
              group := s.nextId, waitSt := waits wi w ls })
            (fun wi w ls t => t.storeL1 b.g.core false (opNumber b s wi) ((firsts b (wi, w, ls)).flatMap (stashParts b.u)))
          (t.modUnit b.u.id fun u =>
            let clean (st : Stash) : Stash := if (named b).any (·.vbase == st.vbase) then { st with dirty := [] } else st
            { u with stash := u.stash.map clean }).past b unbind sameThread)
    let lost (b : Bundle) (w : Warp) (l : Nat) : Option Nat := (w.threads[l]?).bind fun t =>
      if (b.u.stashAt (t.ar n.toNat).ptr.toNat).isNone then some (t.ar n.toNat).ptr.toNat else none
    (∀ (s : State) (b : Bundle), s.bundle? = some b →
      (b.ready (.smap n g) = true → ∀ k x c d0, b.lanes[k]? = some x →
        (∀ j y, j < k → b.lanes[j]? = some y →
          bindOk b.u (bound b (b.lanes.take j)) (y.2.2.2.ar n.toNat) (off y.2.2.2) = true) →
        smapCause b.u (bound b (b.lanes.take k)) (x.2.2.2.ar n.toNat) (off x.2.2.2) = some (c, d0) →
        exec (.smap n g) s = .next (s.takeFault b.u.id b.wg 0x17 true b.pc [⟨x.1, [x.2.2.1], d0, c, []⟩])) ∧
      ∀ i ∈ [Instr.sunmap n, .sflush n], b.ready i = true → (∃ x ∈ b.parts, ∃ l ∈ x.2.2, (lost b x.2.1 l).isSome) →
        exec i s = .next (s.takeFault b.u.id b.wg 0x17 true b.pc (b.parts.filterMap fun (wi, w, ls) =>
          match ls.filterMap fun l => (lost b w l).map fun a => (l, a) with
          | [] => none
          | (l, a) :: rest => some ⟨wi, l :: rest.map (·.1), a, 6, []⟩))) ∧
    AccessDoes (.smap n g) (fun _ => true)
      (fun b s => (∀ k, ∀ x, b.lanes[k]? = some x →
          bindOk b.u (bound b (b.lanes.take k)) (x.2.2.2.ar n.toNat) (off x.2.2.2) = true) ∧
        ∀ x ∈ b.lanes, s.channelOn b.u.id (off x.2.2.2) (spanLen (x.2.2.2.ar n.toNat)) = false)
      (fun b s => (s.modUnit b.u.id fun u => { u with stash := bound b b.lanes }).past b true sameThread) ∧
    flush (.sunmap n) true ∧ flush (.sflush n) false

/-- R217, R250 to R254, R393: TLD and TLDS leave the new version of their tile in flight and count in `ld` and `tl`; TST and
TSTS send the bytes of the evaluated tile. Rows and scales lie where R250 puts them; a dual access also reaches the
tangent's bytes. A tile without a configuration raises TILE_SHAPE; the first byte that fails the checks, rows ascending and
then scales, ADDR_LIMIT, with that address for the value of every lane (R498). -/
def Obligations.TileMemory : Prop :=
  ∀ (m : MNum) (n : ANum) (off pitch addr : GNum),
    let spans (c : LaunchCfg) (x : Warp) (start : Thread → Nat) : List (Int × Nat × Nat) := match x.conf c m.toNat, x.lead with
      | some tc, some t => tileSpans tc (start t : Nat) (t.gr pitch.toNat).val
      | _, _ => []
    let at_ (t : Thread) : Nat := (t.ar n.toNat).ptr.toNat + (t.gr off.toNat).val.toNat
    let spad (t : Thread) : Nat := (t.gr addr.toNat).val.toNat
    let moved (k : Nat) (sp : List (Int × Nat × Nat)) : List (Int × Nat × Nat) := sp.map fun (a, j, o) => (a + k, j, o)
    let dualMem (b : Bundle) (a : AReg) : Bool := decide (b.u.cfg.tt > 0) && (b.hints.tan || b.u.cfg.dual) && decide (b.u.stride a > 0)
    let dualSpad (b : Bundle) : Bool := decide (b.u.cfg.tt > 0) && b.u.cfg.dual
    let lane (x : Warp) : Nat := (x.live.head?).getD 0
    let bytes (d sc : Memory) (o k : Nat) : List Byte := if o < scaleOff then memRead d o k else memRead sc (o - scaleOff) k
    let memParts (b : Bundle) (x : Warp) (carried : Nat) (data shadow : Nat → Nat → List Byte) : List Part := match x.lead with
      | none => []
      | some t =>
        let a := t.ar n.toNat
        let one (k : Nat) (sp : List (Int × Nat × Nat)) (f : Nat → Nat → List Byte) : List Part :=
          sp.flatMap fun (va, j, o) => accParts b.u a (lane x) k va j o carried (f o j)
        one 0 (spans b.u.cfg x at_) data ++
          (if dualMem b a then one 1 (moved (b.u.stride a) (spans b.u.cfg x at_)) shadow else [])
    let spadParts (b : Bundle) (x : Warp) (data shadow : Nat → Nat → List Byte) : List Part :=
      let one (k : Nat) (sp : List (Int × Nat × Nat)) (f : Nat → Nat → List Byte) : List Part :=
        sp.map fun (y, j, o) => ⟨lane x, k, .spad, y.toNat, j, o, f o j, [], .sent, 0, 0⟩
      one 0 (spans b.u.cfg x spad) data ++
        (if dualSpad b then one 1 (moved (b.u.cfg.csize * b.u.cfg.spad) (spans b.u.cfg x spad)) shadow else [])
    let inMem (b : Bundle) (x : Warp) (rd wr : Bool) : Prop := ∃ t tc, x.lead = some t ∧ x.conf b.u.cfg m.toNat = some tc ∧
      ∀ y ∈ spans b.u.cfg x at_, inReg (t.ar n.toNat) y.1 y.2.1 rd wr = true
    let inSpad (b : Bundle) (x : Warp) : Prop := ∃ t tc, x.lead = some t ∧ x.conf b.u.cfg m.toNat = some tc ∧
      ∀ y ∈ spans b.u.cfg x spad, y.1.toNat + y.2.1 ≤ b.u.cfg.csize * b.u.cfg.spad ∧
        ∀ st ∈ b.u.stash, overlaps y.1.toNat y.2.1 st.soff st.length = false
    let none_ (_ _ : Nat) : List Byte := []
    let begun (b : Bundle) (s : State) (wi : Nat) (x : Warp) (ps : List Part) (tagged : Bool) (mask : Mask) : State :=
      let tag := if tagged then some (pickTag (freshTags x.tags (s.now (s.coreOf (b.wid wi))))) else none
      let mk := (tag.map tagMask).getD 0 ||| mask
      (s.addOp (b.wid wi) (some .ld) tagged [] fun tag id =>
        { MemOp.plain (b.wid wi) b.g.core b.pc (.tld m.toNat) x.live ps id with
          tag := tag, mask := (tag.map tagMask).getD 0 ||| mask, waitSt := s.forwarders b.g.core ps
          due := if ps.all (·.st == .done) then s.clk + 32 else 0 }).modWarp (b.wid wi) fun w =>
        let v := eagerWrite w m.toNat fun y =>
          { y with data := [], scales := [], shData := [], shScales := [], mask := mk, inflight := some s.nextId }
        { v with tl := v.tl + 1 }
    let sent (b : Bundle) (s : State) (wi : Nat) (x : Warp) (ps : List Part) (digest : Nat) : State :=
      let t := s.addOp (b.wid wi) (some .st) false [] fun _ id => MemOp.plain (b.wid wi) b.g.core b.pc .tst x.live ps id
      let t := if b.u.cfg.det = 0 then t else t.modWarp (b.wid wi) (·.addDigest digest)
      t.storeL1 b.g.core false s.nextId ps
    let regs (x : Warp) (rs : List RegName) : Mask := ((x.lead).map fun t => t.maskOf rs).getD 0
    let mreg : List RegName := [.a n.toNat, .g off.toNat, .g pitch.toNat]
    let carried (x : Warp) : Option Nat := visTime x.tags ((x.tile m.toNat).mask ||| regs x mreg)
    let stored (b : Bundle) (x : Warp) : List Part :=
      let y := x.tile m.toNat
      memParts b x ((carried x).getD 0) (bytes y.data y.scales) (bytes y.shData y.shScales)
    (∀ i ∈ [Instr.tld m n off pitch, .tst m n off pitch, .tlds m addr pitch, .tsts m addr pitch], WordFault i 0x0B fun b x =>
      x.conf b.u.cfg m.toNat = none ∧ x.lead.isSome) ∧
    (∀ i ∈ [(Instr.tld m n off pitch, true), (.tst m n off pitch, false)], ∀ va : Int, CollFaults i.1 0x04
      (fun b x => ∃ t, x.lead = some t ∧
        (spans b.u.cfg x at_).findSome? (fun y => (t.ar n.toNat).firstBad y.1 y.2.1 i.2 (!i.2)) = some va)
      fun b _ _ => b.addrHits (BitVec.ofInt 64 va).toNat) ∧
    (∀ i ∈ [Instr.tlds m addr pitch, .tsts m addr pitch], ∀ y : Nat, CollFaults i 0x04
      (fun b x => (spans b.u.cfg x spad).findSome? (fun z => b.u.firstSpadBad z.1.toNat z.2.1) = some y) fun b _ _ => b.addrHits y) ∧
    CollAnswers (.tld m n off pitch)
      (fun b s wi x => inMem b x true false ∧ b.mayGo s (some .ld) (fun _ => 0) = true ∧ x.tl < 62 ∧
        visReached x.tags (regs x mreg) (s.now b.g.core) = true ∧ unread x m.toNat ∧ tileFree b s wi x m.toNat ∧
        ∀ p ∈ memParts b x 0 none_ none_, (p.space ≠ .local ∨ s.fillPending b.g.core p.addr p.n = false) ∧
          (p.space ≠ .stash ∨ s.unbinding b.u p.addr = false))
      (fun b s wi x => begun b s wi x (s.loadAccess b.g.core .norm (memParts b x 0 none_ none_)) true (regs x mreg)) ∧
    CollAnswers (.tlds m addr pitch)
      (fun b s wi x => inSpad b x ∧ b.mayGo s (some .ld) (fun _ => 0) = true ∧ x.tl < 62 ∧ unread x m.toNat ∧ tileFree b s wi x m.toNat)
      (fun b s wi x => begun b s wi x (spadParts b x none_ none_) false (regs x [.g addr.toNat, .g pitch.toNat])) ∧
    CollAnswers (.tst m n off pitch)
      (fun b s wi x => inMem b x false true ∧ b.mayGo s (some .st) (fun _ => 0) = true ∧ evaluated x m.toNat ∧
        tileFree b s wi x m.toNat ∧ (carried x).isSome ∧ s.heldUp b.u (placesOf (stored b x)) = false ∧
        ∀ nd ∈ x.graph, loopHit b.u x nd (placesOf (stored b x)) = false)
      (fun b s wi x =>
        let y := x.tile m.toNat
        let unit (a : AReg) (d : Memory) (z : Int × Nat × Nat) : Nat :=
          if z.2.2 < scaleOff then b.u.storeUnit a z.1.toNat (memRead d z.2.2 z.2.1) else 0
        sent b s wi x (stored b x) (match x.lead with
          | none => 0
          | some t =>
            let a := t.ar n.toNat
            sumOf ((spans b.u.cfg x at_).map (unit a y.data)) + (if dualMem b a then
              sumOf ((moved (b.u.stride a) (spans b.u.cfg x at_)).map (unit a y.shData)) else 0))) ∧
    CollAnswers (.tsts m addr pitch)
      (fun b s wi x => inSpad b x ∧ b.mayGo s (some .st) (fun _ => 0) = true ∧ evaluated x m.toNat ∧ tileFree b s wi x m.toNat)
      (fun b s wi x =>
        let y := x.tile m.toNat
        sent b s wi x (spadParts b x (bytes y.data y.scales) (bytes y.shData y.shScales)) 0)

/-- R53, R110, R157, R361: REGION writes the checkpoint of its threads, and, when its entry lists tiles, it is warp-collective and
writes that of its whole warp; it waits for what the checkpoint saves. A thread keeps its part, with the registers that the entry
lists, and its deferral ends; the warp keeps its own. The parts' images are written at their places of the unit's save slot, warp by
warp, and every byte of device memory outside them is as it was; a write that leaves a poisoned unit in part raises MEM_UNCORR for
its warp (R495). -/
def Obligations.RegionCheckpoints : Prop :=
  ∀ (k : BitVec 10),
    AccessDoes (.region k) (fun _ => true)
      (fun b s => regionTiles b.u.cfg k.toNat = [] ∧ b.ckptWaits s (fun _ => k.toNat) = false)
      (fun b s => (s.writeCkpt b (fun _ => k.toNat) [] [] false).past b false sameThread) ∧
    AccessDoes (.region k) (fun _ => true)
      (fun b s => regionTiles b.u.cfg k.toNat = [] ∧ b.ckptWaits s (fun _ => k.toNat) = true) (fun _ s => s) ∧
    CollAnswers (.region k)
      (fun b s wi x => regionTiles b.u.cfg k.toNat ≠ [] ∧ b.ckptWaits s (fun _ => k.toNat) = false ∧
        ∀ m ∈ regionTiles b.u.cfg k.toNat, evaluated x m ∧ tileFree b s wi x m)
      (fun b s _ _ => s.writeCkpt b (fun _ => k.toNat) [] [] true) ∧
    ∀ (s : State) (b : Bundle) (tiles : Bool), b.proper = true → s.unit? b.u.id = some b.u →
      (∀ x ∈ b.parts, s.warp? (b.wid x.1) = some x.2.1) →
      let t := s.writeCkpt b (fun _ => k.toNat) [] [] tiles
      let e := b.u.cfg.region k.toNat
      let mine (th : Thread) : ThreadCkpt :=
        ⟨th.pc, k.toNat, ((List.range 128).filter fun n => e.g.getLsbD n).map fun n => (n, th.gr n),
          ((List.range 8).filter fun n => e.p.getLsbD n).map fun n => (n, th.pr n),
          ((List.range 8).filter fun n => e.a.getLsbD n).map fun n => (n, th.ar n), th.draws⟩
      let whole (w : Warp) (ls : List Nat) : WarpCkpt :=
        warpCkpt b.u (ls.filterMap fun l => (w.threads[l]?).map fun _ => e) tiles s.nextId w
      let image : Nat × Warp × List Nat → List (Nat × List Byte) := fun (wi, w, ls) =>
        (ls.flatMap fun l => match w.threads[l]? with
          | some th => shiftImage (threadSlot b.wg wi l) (ckptImage (mine th))
          | none => []) ++ shiftImage (warpSlot b.wg wi) (warpCkptImage (b.u.cfg.det != 0) (whole w ls) tiles)
      t.home = (b.parts.foldl (fun t x => t.slotPut b s.nextId x.1 x.2.2 (image x)) s).home ∧ t.ops = s.ops ∧
      (∀ (g wi : Nat) (ls : List Nat) (img : List (Nat × List Byte)), (s.slotPut b g wi ls img).home =
        { (s.slotWrite b.u img).home with faults := s.home.faults ++ match s.slotBadAt b.u img with
            | some a => [⟨s.nextId, g, b.wid wi, b.pc, 0x11, BitVec.ofNat 64 a, BitVec.ofNat 64 b.pc.toNat, ls, ls.map fun l => (l, a)⟩]
            | none => [] }) ∧
      (∀ a, (∀ x ∈ b.parts.flatMap image, ¬ (s.slotBase b.u + x.1 ≤ a ∧ a < s.slotBase b.u + x.1 + x.2.length)) →
        memGet t.home.mem a = memGet s.home.mem a) ∧
      ∀ wi w ls, (wi, w, ls) ∈ b.parts → ∃ w', t.warp? (b.wid wi) = some w' ∧ w'.ckpt = some (whole w ls) ∧ w'.tiles = w.tiles ∧
        (∀ l ∈ ls, ∀ th, w.threads[l]? = some th → w'.threads[l]? = some { th with defer := none, ckpt := some (mine th) }) ∧
        (∀ l, l ∉ ls → w'.threads[l]? = w.threads[l]?) ∧
        (whole w ls).retired = w.retired ∧ (whole w ls).sigma = b.u.turn ∧ (whole w ls).offset = b.u.turnCount ∧
          (whole w ls).digest = w.digest

/-! ### Task instructions (R368 to R379, R398, R399) -/

/-- R368 to R379, R398, R399: at issue JSUB, GAINADD, GAINSET, RESADD and ORDPOST send one operation for each warp, of its
lanes' operands, and end the region; the threads of JSUB are numbered in ascending lane order; GAINGET and RESGET leave a request for each lane's value; ORDWAIT ends its wait once
c ≥ p and now() ≥ T. -/
def Obligations.TaskInstructions : Prop :=
  ∀ (g i v d p : GNum) (n : ANum) (off : BitVec 10) (k : BitVec 3),
    let send (s : State) (b : Bundle) (kind : Warp → List Nat → OpKind) : State :=
      (b.parts.foldl (fun t (wi, w, ls) => t.newOp fun id =>
        { MemOp.plain (b.wid wi) b.g.core b.pc (kind w ls) ls [] id with group := s.nextId }) s).past b true sameThread
    let each {α : Type} (w : Warp) (ls : List Nat) (f : Nat → Thread → α) : List α := ls.filterMap fun l => (w.threads[l]?).map (f l)
    let ask (s : State) (b : Bundle) (r : GNum) (src : Thread → PendSrc) : State :=
      let s1 : State := { s with nextId := s.nextId + 1 }
      (s1.eachWarp b fun _ w ls x => { x with
        sb := x.sb ++ [⟨.g r.toNat, b.pc⟩]
        pend := x.pend ++ each w ls fun l t =>
          ⟨b.pc, none, src t, [(l, [.g r.toNat 0 (List.replicate b.u.cfg.d 0) 0])], s.nextId⟩ }).past b false sameThread
    let counted (s : State) (b : Bundle) : Prop := ∃ w j, s.work? b.u.work = some w ∧ w.job = some j ∧ j.gainMode = true ∧
      ∀ c ∈ b.each s, (c.g i).toNat < j.count
    let inJob (s : State) (b : Bundle) : Prop := ∃ w, s.work? b.u.work = some w ∧ w.job.isSome
    let card (c : LaneCtx) : Int := (c.th.ar n.toNat).ptr.toNat + 64 * (match c.hints.imm with
      | none => off.toInt | some q => (q ++ off).toInt)
    AccessDoes (.jsub g n off) (fun c => inReg (c.th.ar n.toNat) (card c) 128 true true && card c % 64 == 0) (fun _ _ => True)
      (fun b s =>
        let order := sortKey (·.2) (b.parts.flatMap fun (wi, _, ls) => ls.map fun l => (wi, l))
        let name (wi l : Nat) : Nat := b.u.launchid.toNat % 2 ^ 32 * 2 ^ 32 + b.u.idx % 2 ^ 16 * 2 ^ 16 +
          (b.u.jsubs + order.idxOf (wi, l)) % 2 ^ 16
        let t := b.parts.foldl (fun t (wi, w, ls) =>
          let t := t.newOp fun id => { MemOp.plain (b.wid wi) b.g.core b.pc (.jsub b.u.queue b.u.ctx g.toNat
            (each w ls fun l th => (l, (card (b.laneCtx s wi w l th)).toNat, if b.u.cfg.det = 0 then 0 else name wi l + 1))) ls [] id with
              group := s.nextId }
          t.modWarp (b.wid wi) fun x => if b.u.cfg.det = 2 then pendWarp b.pc none .known (ls.map fun l =>
              (l, LaneOut.ok [.g g.toNat (BitVec.ofNat 32 (name wi l)) (List.replicate b.u.cfg.d 0) 0])) x
            else { x with sb := x.sb ++ [⟨.g g.toNat, b.pc⟩] }) s
        (t.modUnit b.u.id fun u => { u with jsubs := u.jsubs + order.length }).past b true sameThread) ∧
    AccessDoes (.gainadd i v) (fun _ => true) (fun b s => counted s b)
      (fun b s => send s b fun w ls => .gain false b.u.work b.u.idx (each w ls fun l t => (l, (t.gr i.toNat).val.toNat, (t.gr v.toNat).val))) ∧
    AccessDoes (.gainset i v) (fun _ => true) (fun b s => counted s b)
      (fun b s => send s b fun w ls => .gain true b.u.work b.u.idx (each w ls fun l t => (l, (t.gr i.toNat).val.toNat, (t.gr v.toNat).val))) ∧
    AccessDoes (.gainget d i) (fun _ => true) (fun b s => counted s b)
      (fun b s => ask s b d fun t => .gain (t.gr i.toNat).val.toNat) ∧
    AccessDoes (.resadd v) (fun _ => true) (fun b s => inJob s b)
      (fun b s => send s b fun w ls => .resadd b.u.work (each w ls fun l t => (l, (t.gr v.toNat).val))) ∧
    AccessDoes (.resget d k) (fun _ => true) (fun b s => inJob s b) (fun b s => ask s b d fun _ => .resid k.toNat) ∧
    AccessDoes (.ordwait p) (fun _ => true)
      (fun b s => ∃ w, s.work? b.u.work = some w ∧ w.chainT ≤ s.now b.g.core ∧
        ∀ x ∈ b.lanes, (x.2.2.2.gr p.toNat).val.toNat ≤ w.chainC)
      (fun b s => s.past b false fun _ _ t => { t with parked := none, ordPos := none }) ∧
    AccessDoes (.ordpost p) (fun _ => true)
      (fun b s => ∀ x ∈ b.parts, ∀ j l, x.2.2[j]? = some l → ∀ t, x.2.1.threads[l]? = some t →
        (t.gr p.toNat).val.toNat ≤ afterPosts (s.chainOf b.u (b.wid x.1))
          ((x.2.2.take j).filterMap fun l => (x.2.1.threads[l]?).map fun t => (t.gr p.toNat).val.toNat))
      (fun b s => send s b fun w ls => .ordpost b.u.work (each w ls fun l t => (l, (t.gr p.toNat).val.toNat)))

/-- R371, R372: the precise faults of the task instructions: TASK_ARG (0x16) with causes 1 to 4, each post counted after those
of its warp's lanes before it (R378), and JSUB's ADDR_LIMIT. -/
def Obligations.TaskArguments : Prop :=
  (∀ (g : GNum) (n : ANum) (off : BitVec 10),
    let card (c : LaneCtx) : Int := (c.th.ar n.toNat).ptr.toNat + 64 * (match c.hints.imm with
      | none => off.toInt | some q => (q ++ off).toInt)
    LanesFault (.jsub g n off) 0x04 (fun c => inReg (c.th.ar n.toNat) (card c) 128 true true && card c % 64 == 0)
      fun c => (BitVec.ofInt 64 (card c)).toNat) ∧
  ∀ (s : State) (b : Bundle) (i v d : GNum) (k : BitVec 3), s.bundle? = some b → b.each s ≠ [] →
    let fault (cause : Nat) (bad : LaneCtx → Bool) (det0 : LaneCtx → Nat) : State :=
      s.takeFault b.u.id b.wg 0x16 true b.pc ((b.hitsOf s bad det0).map fun h => { h with det1 := cause })
    let isGain (w : Work) : Prop := ∃ j, w.job = some j ∧ j.gainMode = true
    (∀ x ∈ [Instr.gainadd i v, .gainset i v, .gainget d i], b.ready x = true →
      ((∀ w, s.work? b.u.work = some w → ¬ isGain w) →
        exec x s = .next (fault 1 (fun _ => true) fun c => (c.g i).toNat)) ∧
      ∀ w j, s.work? b.u.work = some w → w.job = some j → j.gainMode = true →
        (∃ c ∈ b.each s, (c.g i).toNat ≥ j.count) →
        exec x s = .next (fault 2 (fun c => decide ((c.g i).toNat ≥ j.count)) fun c => (c.g i).toNat)) ∧
    ((∀ w, s.work? b.u.work = some w → w.job = none) →
      (b.ready (.resadd v) = true → exec (.resadd v) s = .next (fault 3 (fun _ => true) fun c => (c.g v).toNat)) ∧
      (b.ready (.resget d k) = true → exec (.resget d k) s =
        .next (s.takeFault b.u.id b.wg 0x16 true b.pc (b.hits k.toNat 3)))) ∧
    let post (w : Warp) (l : Nat) : Option Nat := (w.threads[l]?).map fun t => (t.gr v.toNat).val.toNat
    let early (wi : Nat) (w : Warp) (ls : List Nat) : List (Nat × Nat) := (ls.zipIdx).filterMap fun (l, j) =>
      ((post w l).filter fun q => afterPosts (s.chainOf b.u (b.wid wi)) ((ls.take j).filterMap (post w)) < q).map fun q => (l, q)
    b.ready (.ordpost v) = true → (∃ x ∈ b.parts, early x.1 x.2.1 x.2.2 ≠ []) →
    exec (.ordpost v) s = .next (s.takeFault b.u.id b.wg 0x16 true b.pc (b.parts.filterMap fun (wi, w, ls) =>
      match early wi w ls with
      | [] => none
      | (l, q) :: rest => some ⟨wi, l :: rest.map (·.1), q, 4, (l, q) :: rest⟩))

/-! ### The Watch engine's instructions (R460, R461, R464, R465, R468, R474, R475) -/

/-- R460, R461, R464, R465, R468, R474, R475: BKPT, TMARK, SYSRD and SYSWR. A BKPT under DBGEN stops its workgroup, or its unit
at the end of the turn, and leaves one stop dump to take for each warp that executed it. -/
def Obligations.WatchInstructions : Prop :=
  ∀ (code id sel : BitVec 10) (d g : GNum),
    let past (b : Bundle) (s : State) : State := s.past b false sameThread
    let dbgen (b : Bundle) (s : State) : Prop := natGet s.watch.words (32 * b.u.ctx + 16) % 2 = 1
    AccessDoes (.bkpt code) (fun _ => true) (fun b s => ¬ dbgen b s) past ∧
    AccessDoes (.bkpt code) (fun _ => true) (fun b s => dbgen b s) (fun b s =>
      let t := if b.u.cfg.det = 0 then (past b s).modWg b.u.id b.wg fun g =>
          { g with warps := g.warps.map fun w => { w with threads := w.threads.map fun t => { t with stopped := !t.exited } } }
        else (past b s).modUnit b.u.id fun u => { u with stopAt := true }
      t.modUnit b.u.id fun u => { u with dumps := u.dumps ++ b.parts.map fun x => (2, b.wg, x.1, b.pc, code.toNat) }) ∧
    AccessDoes (.tmark g id) (fun _ => true)
      (fun b s => ∀ x ∈ b.parts, s.clear (b.wid x.1) false (b.fenceBound s) = true ∧
        s.loadTimes (b.wid x.1) (b.fenceBound s) = true)
      (fun b s => past b (if natGet s.watch.words (32 * b.u.ctx + 8) % 2 = 1 then
        { s with watch := { s.watch with made := s.watch.made ++ b.lanes.map fun (_, w, l, t) => ⟨b.g.core, b.u.ctx,
          traceBits (s.now b.g.core) b.pc.toNat (t.gr g.toNat).val.toNat id.toNat b.u.ctx b.g.core w.slot l 1⟩ } } else s)) ∧
    AccessDoes (.sysrd d sel) (fun _ => true) (fun _ _ => True) (fun b s =>
      let s1 : State := { s with nextId := s.nextId + 1 }
      past b (s1.eachWarp b fun _ w ls x => { x with
      sb := x.sb ++ [⟨.g d.toNat, b.pc⟩]
      pend := x.pend ++ ls.filterMap fun l => (w.threads[l]?).map fun _ =>
        ⟨b.pc, none, .sysreg sel.toNat, [(l, [.g d.toNat 0 (List.replicate b.u.cfg.d 0) 0])], s.nextId⟩ })) ∧
    AccessDoes (.syswr sel g) (fun _ => true) (fun _ _ => True) (fun b s => past b (b.lanesUp.foldl (fun t x =>
      t.setWatchWord b.u.ctx sel.toNat ((x.2.2.2.gr g.toNat).val.toNat % 16)) s))

/-! ### What every issue leaves, and what stands before it (R63, R84, R85, R88, R95, R102 to R107, R112, R158, R161, R365, R391) -/

/-- The frame of an issue. R63, R88, R103 to R105, R158: values computed at the issue reach no register before their
latency: each warp of the issue has one more write under way with its scoreboard entries and one more retired instruction, its
lanes stand at the next word with no hint, their deferrals count, draws and latches are taken, and nothing else of any
thread, warp, operation, memory or special register changes. R104 to R107: an access adds one operation for each warp in order,
counts in its counter, takes its tag and marks its registers pending, and changes no byte of memory and no register. -/
def Obligations.IssueEffects : Prop :=
  ∀ (s : State) (b : Bundle), s.bundle? = some b → b.proper = true →
    let rest (t : State) : Prop := t.home = s.home ∧ t.works = s.works ∧ t.watch = s.watch ∧ t.ctxs = s.ctxs ∧ t.queues = s.queues ∧
      t.amc = s.amc ∧ t.channels = s.channels ∧ t.nextLaunch = s.nextLaunch ∧ t.tick = s.tick ∧ t.irqs = s.irqs ∧
      (∀ w x, s.warp? w = some x → (w.unit ≠ b.u.id ∨ w.wg ≠ b.wg ∨ w.warp ∉ b.parts.map (·.1)) → t.warp? w = some x) ∧
      ∀ k v, s.unit? k = some v → ∃ v', t.unit? k = some v' ∧ v'.spad = v.spad ∧ v'.windows = v.windows ∧ v'.state = v.state ∧
        v'.stash = v.stash ∧ v'.wgs.map (fun g => (g.bars, g.handles)) = v.wgs.map fun g => (g.bars, g.handles)
    let passed (th : Thread) : Thread := { th with
      pc := b.pc + 4, hints := Hints.none, fenceAt := none, granted := false, barSeen := false, barWait := none, stepDone := th.step
      defer := th.defer.map fun d => { d with count := d.count + 1 } }
    (∀ (due : Option Nat) (f : LaneCtx → LaneOut),
      let t := s.commitAlu b due .known f
      rest t ∧ t.ops = s.ops ∧ t.nextId = s.nextId ∧ ∀ wi w ls, (wi, w, ls) ∈ b.parts →
        let outs := ls.filterMap fun l => (w.threads[l]?).map fun th => (l, (f (b.laneCtx s wi w l th)).writes)
        ∃ x, t.warp? (b.wid wi) = some x ∧
          x = { w with threads := x.threads, retired := w.retired + 1, stall := w.stall + 1, sb := x.sb
                       pend := w.pend ++ [⟨b.pc, due, .known, outs, 0⟩] } ∧
          (∀ r, (∃ e ∈ x.sb, e.reg = r) ↔ (∃ e ∈ w.sb, e.reg = r) ∨ (r ≠ .p 7 ∧ ∃ o ∈ outs, ∃ y ∈ o.2, y.reg = r)) ∧
          ∀ l th, w.threads[l]? = some th → (l ∉ ls → x.threads[l]? = some th) ∧ (l ∈ ls →
            let o := f (b.laneCtx s wi w l th)
            x.threads[l]? = some { passed th with
              draws := th.draws + BitVec.ofNat 34 o.draws
              clkHi := match o.latch with | some (false, v) => v | _ => th.clkHi
              retHi := match o.latch with | some (true, v) => v | _ => th.retHi })) ∧
    ∀ (ctr : Option Counter) (tagged : Bool) (regs : List RegName) (op : Nat → Warp → List Nat → Option Nat → Nat → MemOp),
      let t := (s.issued b ctr tagged regs op onlyOps).past b false sameThread
      let tag (w : Warp) : Option Nat := if tagged then some (pickTag (freshTags w.tags (s.now b.g.core))) else none
      rest t ∧ t.nextId = s.nextId + b.parts.length ∧
      t.ops = s.ops ++ (b.parts.zipIdx.map fun x => op x.1.1 x.1.2.1 x.1.2.2 (tag x.1.2.1) (s.nextId + x.2)) ∧
      ∀ wi w ls, (wi, w, ls) ∈ b.parts → ∃ x, t.warp? (b.wid wi) = some x ∧ x.retired = w.retired + 1 ∧ x.pend = w.pend ∧
        x.tiles = w.tiles ∧ x.graph = w.graph ∧ x.gwct = w.gwct ∧ x.digest = w.digest ∧ x.mxstat = w.mxstat ∧
        x.ld = w.ld + (if ctr = some .ld then 1 else 0) ∧ x.st = w.st + (if ctr = some .st then 1 else 0) ∧
        x.xf = w.xf + (if ctr = some .xf then 1 else 0) ∧ x.tl = w.tl + (if ctr = some .tl then 1 else 0) ∧
        (∀ r, (∃ e ∈ x.sb, e.reg = r) ↔ (∃ e ∈ w.sb, e.reg = r) ∨ r ∈ regs) ∧
        (tagged = false → x.tags = w.tags) ∧
        ∀ l th, w.threads[l]? = some th → (l ∉ ls → x.threads[l]? = some th) ∧ (l ∈ ls → x.threads[l]? = some (passed th))

/-- R84, R85, R95, R99, R104, R158, R161, R210, R391: what stands before an instruction, in this order: ILLEGAL, ILLEGAL_HINT,
REG_INDEX, a tile that the header does not declare, a deferral of 4,096 instructions, a stall of 2^24; an issue with a pending
register waits. A warp-collective one meets them once its warp's live threads have arrived; one at another PC than its warp's
arrival set, or with other hints, raises TILE_DIVERGE or LANE_DIVERGE (R100). REGION is one of them when its entry lists tiles, and
a k at or beyond REGIONS is ILLEGAL (R157). A lane access outside its
register's bounds or permission raises ADDR_LIMIT and nothing else happens; so does one beyond the scratchpad or in bytes of a stash window
(R168), an atomic or a monitor that is not aligned (R437), and an XLR of a record that is not (R305); a monitor of a stash
window raises STASH with cause 7 (R438, R455), and a barrier count above 4,096 ILLEGAL (R174). -/
def Obligations.IssueFaults : Prop :=
  (∀ (i : Instr) (s : State) (b : Bundle), (encode i).isSome = true → s.bundle? = some b →
    (collective i = false ∨ ∃ k, i = .region k ∧ regionTiles b.u.cfg k.toNat = []) →
    (∀ k, i = .region k → i.illegalIn b.u.cfg = decide (b.u.cfg.regions.length ≤ k.toNat)) ∧ (b.idle = false → exec i s = .next s) ∧
    (b.idle = true →
      let c := b.u.cfg
      let raises (code : Nat) (hits : List Hit) : Prop := exec i s = .next (s.takeFault b.u.id b.wg code true b.pc hits)
      let word := (encode i).getD 0
      (i.illegalIn c = true → raises 0x01 (b.hits word 0)) ∧
      (i.illegalIn c = false → ∀ h, i.badHint c b.hints = some h → raises 0x02 (b.hits h word)) ∧
      (i.illegalIn c = false → i.badHint c b.hints = none → ∀ r, i.regOver c = some r → raises 0x03 (b.hits r 0)) ∧
      (i.illegalIn c = false → i.badHint c b.hints = none → i.regOver c = none →
        (b.deferHits ≠ [] → raises 0x06 b.deferHits) ∧ (b.deferHits = [] → b.stallHits ≠ [] → raises 0x15 b.stallHits) ∧
        (b.deferHits = [] → b.stallHits = [] → (∀ d, i ≠ .untaint d) → b.pending (i.waitRegs c) = true → exec i s = .next s)))) ∧
  (∀ (i : Instr) (s : State) (b b1 : Bundle) (wi : Nat) (w x : Warp), collective i = true →
    (∀ k, i = .region k → regionTiles b.u.cfg k.toNat ≠ []) → s.bundle? = some b → b.idle = true → b.parts = [(wi, w, w.live)] → w.arrival = none →
    (s.joined b i).bundleOf b.u.id b.wg [(wi, x.live)] = some b1 → b1.parts = [(wi, x, x.live)] → b1.u.state = .running →
    let c := b1.u.cfg
    let raises (code : Nat) (hits : List Hit) : Prop :=
      exec i s = .next ((s.joined b i).takeFault b.u.id b.wg code true b.pc hits)
    let word := (encode i).getD 0
    (i.illegalIn c = true → raises 0x01 (b1.hits word 0)) ∧
    (i.illegalIn c = false → ∀ h, i.badHint c b1.hints = some h → raises 0x02 (b1.hits h word)) ∧
    (i.illegalIn c = false → i.badHint c b1.hints = none → ∀ r, i.regOver c = some r → raises 0x03 (b1.hits r 0)) ∧
    (i.illegalIn c = false → i.badHint c b1.hints = none → i.regOver c = none → ∀ m, i.tiles.find? (· ≥ c.tiles) = some m →
      raises 0x0A (b1.hits m 0))) ∧
  (∀ (i : Instr) (s : State) (b : Bundle) (wi : Nat) (w : Warp) (ls : List Nat) (a : Arrival), collective i = true →
    (∀ k, i = .region k → regionTiles b.u.cfg k.toNat ≠ []) → s.bundle? = some b → b.idle = true → b.parts = [(wi, w, ls)] →
    w.arrival = some a →
    (a.pc ≠ b.pc ∨ a.hints ≠ b.hints) →
    exec i s = .next (s.takeFault b.u.id b.wg (if i.isTile || a.instr.isTile then 0x07 else 0x08) true b.pc
      [⟨wi, ls, a.pc.toNat, 0, []⟩])) ∧
  ∀ (g x : GNum) (n : ANum) (off : BitVec 10) (off7 : BitVec 7) (sz : Size) (pol : Policy) (sc : Scope),
    let bounds (i : Instr) (rd wr : Bool) (va : LaneCtx → Int) : Prop :=
      LanesFault i 0x04 (fun c => inReg (c.th.ar n.toNat) (va c) sz.bytes rd wr) fun c => (BitVec.ofInt 64 (va c)).toNat
    let ptr (c : LaneCtx) : Int := (c.th.ar n.toNat).ptr.toNat
    let at10 (c : LaneCtx) : Int := ptr c + sz.bytes * (match c.hints.imm with | none => off.toInt | some p => (p ++ off).toInt)
    bounds (.ld g n off sz pol) true false at10 ∧ bounds (.st g n off sz pol) false true at10 ∧
    bounds (.ldx g n x sz pol) true false (fun c => ptr c + (c.g x).toInt) ∧
    bounds (.stx g n x sz pol) false true (fun c => ptr c + (c.g x).toInt) ∧
    bounds (.ldAcq g n sc off7 sz pol) true false (fun c => ptr c + sz.bytes * off7.toInt) ∧
    bounds (.stRel g n sc off7 sz pol) false true (fun c => ptr c + sz.bytes * off7.toInt) ∧
    ∀ (l : LNum) (m : BNum) (a : ANum) (off8 : BitVec 8) (op : AtomOp) (wide sys : Bool) (ord : Order) (wc : WCond),
      let at8 (c : LaneCtx) : Nat := ((c.g x).toNat + off8.toNat * sz.bytes) % 2 ^ 32
      let inSpad (c : LaneCtx) : Bool := decide (at8 c + sz.bytes ≤ c.cfg.csize * c.cfg.spad) &&
        c.unit.stash.all fun w => !overlaps (at8 c) sz.bytes w.soff w.length
      let word : Nat := if wide then 8 else 4
      let here (wr : Bool) (c : LaneCtx) : Bool := inReg (c.th.ar n.toNat) (ptr c) word true wr && ptr c % word == 0
      let ofs (k : Nat) (c : LaneCtx) : Int := ptr c + k * (match c.hints.imm with | none => off.toInt | some p => (p ++ off).toInt)
      let det (f : LaneCtx → Int) (c : LaneCtx) : Nat := (BitVec.ofInt 64 (f c)).toNat
      (∀ i ∈ [Instr.lds g x sz off8, .sts g x sz off8], LanesFault i 0x04 inSpad at8) ∧
      (∀ i ∈ [Instr.atom g n sc op wide ord, .cas g n sc wide ord], LanesFault i 0x04 (here true) (det ptr)) ∧
      LanesFault (.waitcmp g n sys wc wide) 0x04 (here false) (det ptr) ∧
      LanesFault (.aldp a n off wide pol) 0x04
        (fun c => inReg (c.th.ar n.toNat) (ofs (2 * word) c) (2 * word) true false) (det (ofs (2 * word))) ∧
      LanesFault (.xlr l n off) 0x04 (fun c => inReg (c.th.ar n.toNat) (ofs 64 c) 64 true false && ofs 64 c % 64 == 0) (det (ofs 64)) ∧
      ∀ (s : State) (b : Bundle), s.bundle? = some b →
        let stashed (c : LaneCtx) : Bool := (b.u.resolve (c.th.ar n.toNat) (c.th.ar n.toNat).ptr.toNat).1 == .stash
        let many (c : LaneCtx) : Bool := decide (4096 < (c.g x).toNat)
        (b.ready (.waitcmp g n sys wc wide) = true → (∀ c ∈ b.each s, here false c = true) → (∃ c ∈ b.each s, stashed c = true) →
          exec (.waitcmp g n sys wc wide) s = .next (s.takeFault b.u.id b.wg 0x17 true b.pc
            ((b.hitsOf s stashed fun c => (c.th.ar n.toNat).ptr.toNat).map fun h => { h with det1 := 7 }))) ∧
        (b.ready (.barInit m x) = true → (∃ c ∈ b.each s, many c = true) →
          exec (.barInit m x) s = .next (s.takeFault b.u.id b.wg 0x01 true b.pc
            ((b.hitsOf s many fun _ => (encode (.barInit m x)).getD 0).map fun h => { h with vals := [] })))

/-- R112, R365, R366, R477: a fault ends its unit: every thread of it has exited with its registers as they were, what has been
issued goes on but for the operations inside whose instruction a thread waits and the reads of an evaluation, no other unit
changes; one record for each warp that faulted, and one for each other workgroup that has not retired, is counted and raised at
once when no dump slot is free; a record's 64 bytes stand at its place of the fault ring. A unit that has ended takes no fault.
(Which operations end is the model's reading of R358 and R365: assumption 38.) -/
def Obligations.FaultsTaken : Prop :=
  ∀ (s : State) (unit wg code : Nat) (precise : Bool) (pc : VAddr) (hits : List Hit) (u : Placed), s.unit? unit = some u →
    let t := s.takeFault unit wg code precise pc hits
    let peers := ((u.wgs.zipIdx).filter fun (g, i) => i != wg && !g.retiredAll).length
    (u.state = .ended ∨ u.state = .saved → t = s) ∧ (u.state ≠ .ended → u.state ≠ .saved →
    (∀ k, k ≠ unit → t.unit? k = s.unit? k) ∧ t.works = s.works ∧ t.ctxs = s.ctxs ∧ t.tick = s.tick ∧
    t.ops.map (·.id) = (s.ops.filter fun o => o.w.unit != unit || !o.kind.endsWithUnit).map (·.id) ∧
    t.channels = s.channels ∧
    (∃ v, t.unit? unit = some v ∧ v.state = .ended ∧ v.faulted = true ∧ v.spad = u.spad ∧ v.stash = u.stash ∧
      ∀ (gi wi l : Nat) (g : Workgroup) (w : Warp) (th : Thread), u.wgs[gi]? = some g → g.warps[wi]? = some w →
        w.threads[l]? = some th → ∃ (g' : Workgroup) (w' : Warp), v.wgs[gi]? = some g' ∧ g'.warps[wi]? = some w' ∧
          w'.tiles = w.tiles ∧ w'.mxstat = w.mxstat ∧ w'.digest = w.digest ∧ w'.graph = [] ∧ w'.pend = w.pend ∧
          w'.threads[l]? = some { th with exited := true, defer := none, busy := none, parked := none, barWait := none }) ∧
    (s.watch.dslots = 0 → s.watch.dump = none → u.queue < s.queues.length →
      let n := hits.length + peers
      t.irqs = List.replicate n (32 + u.queue) ++ s.irqs ∧ (t.queue u.queue).seq = (s.queue u.queue).seq + n ∧
      ((s.queue u.queue).fring.toNat % 32 < 4 → t.home = s.home) ∧
      ∀ h pa, hits = [h] → u.wgs.length ≤ 1 → wg = 0 →
        let x := s.queue u.queue
        let size := x.fring.toNat % 32
        let a := x.fring.toNat / 2 ^ 12 * 2 ^ 12 + 64 * (x.seq % 2 ^ size)
        4 ≤ size → size ≤ 16 → x.host = false → writable s x.ctx.toNat a 64 pa → wrote s t pa (natBytes 64
          (recordBits ⟨code, precise, pc, h.lanes, h.warp, wg, u.idx, u.launchid, u.user, BitVec.ofNat 64 h.det0, BitVec.ofNat 64 h.det1⟩
            (x.seq + 1) (s.clockOf .task) false))) ∧
    (s.watch.dslots ≠ 0 → (s.watch.dhead - s.watch.dtail).toNat ≠ s.watch.dslots.toNat → s.watch.dump = none →
      s.watch.dumpQ = [] → hits.length ≤ 4 →
      t.irqs = List.replicate peers (32 + u.queue) ++ s.irqs ∧
      ∃ d, t.watch.dump = some d ∧ d.ctx = u.ctx ∧ d.kind = 1 ∧ d.idx = u.idx ∧ d.launchid = u.launchid ∧ d.time = s.clockOf .watch ∧
        d.overflow = 0 ∧ d.started = false ∧ d.entries.map (fun e => (e.record.map fun r => (r.code, r.pc, r.lanes, r.warp))) =
          hits.map fun h => some (code, pc, h.lanes, h.warp)))

/-! ### The step -/

/-- R57, R84, R95, R96, R101 to R103, R387, R466: a step makes the move at the head of the agenda: an event; an issue of a port
whose last issue is over, whose first bundle to go on it moves past; the owner of a deterministic turn; a lane that the debugger
steps. An issue that has gone on is noted at its port with the clks that it takes. An issue fetches at the common PC of its
threads and is `exec` of what `decode` reads there, in the state that says who issues; a word that is no instruction, or a PC
outside the code, raises ILLEGAL. An empty agenda is filled. -/
def Obligations.StepRunsDecoded : Prop :=
  (∀ (s : State) (m : Move) (ms : List Move) (t : State), s.agenda = m :: ms →
    let s' : State := { s with agenda := ms }
    let noted (unit wg port : Nat) (parts : List (Nat × List Nat)) : State := match s'.bundleOf unit wg parts with
      | some b => s'.noteIssue t port b
      | none => t
    let after (unit wg port : Nat) (parts : List (Nat × List Nat)) : State :=
      if s'.issueMark unit wg parts == t.issueMark unit wg parts then t else noted unit wg port parts
    (∀ i, m = .event i → encode i = none → exec i s' = .next t → step s = .next t.settle) ∧
    (∀ core port, m = .issue core port → s'.portFree core port = false → step s = .next s'.settle) ∧
    (∀ core port p x xs, m = .issue core port → s'.portFree core port = true → (s'.core core).ports[port]? = some p →
      s'.portOrder p = x :: xs → s'.runAt x.unit x.wg x.parts = .next t → s'.issueMark x.unit x.wg x.parts ≠ t.issueMark x.unit x.wg x.parts →
      step s = .next ((noted x.unit x.wg port x.parts).advance core port x).settle) ∧
    (∀ unit u w, m = .turn unit → s'.unit? unit = some u → s'.warp? u.owner = some w → u.cfg.det ≠ 0 → s'.mayRetire u.owner = true →
      w.live ≠ [] → s'.filing u.owner = false → s'.turnLanes u.owner ≠ [] →
      (∀ l ∈ s'.turnLanes u.owner, s'.binReady u.owner l = true) →
      s'.portFree (s'.coreOf u.owner) (w.slot % 2) = true →
      s'.runAt u.owner.unit u.owner.wg [(u.owner.warp, s'.turnLanes u.owner)] = .next t →
      step s = .next (after u.owner.unit u.owner.wg (w.slot % 2) [(u.owner.warp, s'.turnLanes u.owner)]).settle) ∧
    (∀ w l x th, m = .lane w l → s'.warp? w = some x → s'.thread? w l = some th → th.step = true →
      s'.portFree (s'.coreOf w) (x.slot % 2) = true → s'.runAt w.unit w.wg [(w.warp, [l])] = .next t →
      step s = .next (after w.unit w.wg (x.slot % 2) [(w.warp, [l])]).settle) ∧
    (m = .clk → step s = .next ({ s' with
      clk := s.clk + 1
      phase := s.phase + 5
      cores := s.cores.map fun c => { c with issues := c.issues.filter fun x => decide (s.clk + 1 < x.until_) } } : State).settle)) ∧
  (∀ (s : State) (unit wg : Nat) (parts : List (Nat × List Nat)) (b : Bundle),
    let s' : State := { s with issue := ⟨unit, wg, parts⟩ }
    s'.bundle? = some b → b.idle = true →
    let lo := b.u.cfg.entry.toNat
    let inside : Prop := lo ≤ b.pc.toNat ∧ b.pc.toNat < lo + b.u.cfg.codesize
    let word := bytesNat (memRead b.u.code (b.pc.toNat - lo) 4)
    (∀ i, inside → b.u.fetched = none → decode word = some i → s.runAt unit wg parts = exec i s') ∧
    (inside → b.u.fetched = none → decode word = none →
      s.runAt unit wg parts = .next (s'.takeFault unit wg 0x01 true b.pc (b.hits word 0))) ∧
    (¬ inside → s.runAt unit wg parts = .next (s'.takeFault unit wg 0x01 true b.pc (b.hits 0 0))) ∧
    (∀ xs, inside → b.u.fetched = some xs → b.pc.toNat - lo ∉ xs → s.runAt unit wg parts = .next s')) ∧
  ∀ s : State, s.agenda = [] → step s = .next { s with agenda := s.plan }

/-- R34, R365, R367: the machine never stops: whatever the state, a step answers a next state; no fault of the device and no
instruction ends a run. -/
def Obligations.EveryStepGoesOn : Prop := ∀ s : State, s.goesOn

/-! ### Encoding, reset, and the invariant of memory -/

/-- R57 to R84: the word that the encoder writes for an instruction decodes to that instruction, whatever its operands. -/
def Obligations.DecodeEncode : Prop := ∀ (i : Instr) (w : Nat), i.wellFormed = true → encode i = some w → decode w = some i

/-- R57 to R84: words written out from the layouts of R59, one of each of several families, decode to their instructions. -/
def Obligations.DecodeWords : Prop := 
  -- format A: IADD.N32 g3, g5, g7, .H1
  decode 0b0000001_0000011_0000101_0000111_01_10 = some (.iadd 3 5 7 1 .n32) ∧
  -- format I: IADDI g127, g1, −2
  decode 0b0000010_1111111_0000001_11111111110 = some (.iaddi 127 1 (BitVec.ofInt 11 (-2))) ∧
  -- format C: ICMP.LT.N32 p1, g2, g3
  decode 0b0001111_001_0000_0000010_0000011_1_010 = some (.icmp 1 2 3 .n32 .lt) ∧
  -- format M: LD.B32.BYP g4, [a2 − 3]
  decode 0b0110000_0000100_010_1111111101_010_11 = some (.ld 4 2 (BitVec.ofInt 10 (-3)) .b32 .byp) ∧
  -- format M with scope, operation and order: ATOM.FADD.F64.DEV.AR g6, [a1]
  decode 0b1110000_0000110_001_011_0001100_011_11 = some (.atom 6 1 .dev .fadd64 true .ar) ∧
  -- format B: BRP p2.T, −1
  decode 0b1000000_010_1_111111111111111111111 = some (.brp 2 true (BitVec.ofInt 21 (-1))) ∧
  -- format T: TADD m9, m10, m11, f5 with no flag
  decode 0b1010100_1001_1010_1011_101_0000000000 = some (.tadd 9 10 11 5 false .full false false) ∧
  -- format X: XCP l1, l2, b17, TRANSPOSE, CHK
  decode 0b1100001_000_0010_0001_10001_00001_1_000 = some (.xcp 1 2 17 .transpose true) ∧
  -- format W: WAITC ld 0, st 63, xf 1, tl 62
  decode 0b1000111_000000_111111_000001_111110_0 = some (.waitc 0 63 1 62) ∧
  -- format S: SYSRD g9, 0x014; FENCE.SYS
  decode 0b1111010_0001001_0000010100_00000000 = some (.sysrd 9 0x14) ∧
  decode 0b1110101_0000000_0000000100_00000000 = some (.fence .sys) ∧
  -- hint words: IMM 5; MOD.SAT.NEG with SCL −1 and OVR .F16; TAN
  decode 0b1111100_0000000000000000000000101 = some (.imm 5) ∧
  decode 0b1111101_1_0_1_0_111111_0100_00000000000 = some (.mod_ true false true false (BitVec.ofInt 6 (-1)) (some .f16)) ∧
  decode 0b1111110_0000000000000000000000000 = some .tan ∧
  -- R84: an unassigned major, a reserved size, a reserved bit of format W and of format C, an empty MOD
  decode 0 = none ∧ decode 0b0110000_0000100_010_0000000000_111_00 = none ∧ decode 0b1000111_000000_111111_000001_111110_1 = none ∧
  decode 0b0001111_001_0001_0000010_0000011_1_010 = none ∧ decode 0b1111101_0000000000000000000000000 = none

/-- R25, R317, R327, R347, R460, R462, R482: after reset the lease clock is 0, every field of the queues, the contexts and the
watch blocks is 0, the launch counter is 1, nothing is placed or under way, memory lists nothing and the controller is starting. -/
def Obligations.ResetState : Prop :=
  let s := State.reset
  s.tick = 0 ∧ s.nextLaunch = 1 ∧ s.units = [] ∧ s.ops = [] ∧ s.works = [] ∧ s.channels = [] ∧ s.queues.length = 32 ∧
    (∀ x ∈ s.queues, x = ⟨0, 0, 0, 0, false, false, 0, 0, false, 0, []⟩) ∧ s.ctxs.length = 256 ∧
    (∀ x ∈ s.ctxs, x = ⟨0, 0, 0, 0, 0, 0, 0, false, [], false, false, false⟩) ∧ s.watch.words = [] ∧ s.watch.bps.length = 8 ∧
    (∀ b ∈ s.watch.bps, b.en = false ∧ b.hit = false ∧ b.entry = 0) ∧ s.watch.dslots = 0 ∧ s.watch.dhead = 0 ∧
    s.amc.mode = 0 ∧ s.amc.fails = 0 ∧ s.amc.reason = 0 ∧ s.amc.pending = false ∧ s.home.mem = [] ∧ s.allWf

/-- The model's own invariant (assumption 1): every step keeps every memory of the state in its canonical form: device, host and peer
memory, the words of the watch blocks, the code, the scratchpads and the tiles of placed units and of those that have left their
cores, and the firmware slots. -/
def Obligations.StepKeepsMemory : Prop := ∀ s t : State, s.allWf → step s = .next t → t.allWf

/-! ### The Home engine: reads (R104 to R107, R164, R167, R404 to R410, R427, R446 to R448) -/

/-- R105 to R107, R164, R167, R356, R405, R407, R410, R427, R446, R495: LOAD_SERVE gives a part the bytes and the time of where
they lie, or its failure, its slice keeping the table entries it has read (R353); a fill leaves a leased block in L1, and a stash
window's first touch fills its line, once the core's own accesses to it are performed (R407, R452); a monitor compares as it is armed,
in overflow mode when its slice has 256 armed; a word of the host or a peer is polled. (Which block a fill makes and which blocks it evicts are the choice `c`:
assumption 9.) -/
def Obligations.HomeReads : Prop :=
  ∀ (s : State) (op i : Nat) (o : MemOp) (p : Part) (c : ServeChoice), arrives s op i o p →
    let done (t : State) (bs : List Byte) (time : Nat) : State :=
      t.setPart op i fun q => { q with st := .done, data := overlay bs q.fwd, time := time }
    (o.kind.isRead = true →
      (p.space = .host → (∀ u ∈ s.home.hostPoison, overlaps u 8 p.addr p.n = false) →
        exec (.loadServe op i c) s = .next (done s (memRead s.home.host p.addr p.n) 0)) ∧
      (∀ k, p.space = .peer k → (∀ u ∈ s.home.peerErrs, u.1 = k → overlaps u.2 8 p.addr p.n = false) →
        exec (.loadServe op i c) s = .next (done s (memRead (peerMem s.home k) p.addr p.n) 0)) ∧
      (∀ code a d, p.far = true → s.readSpan 0 p.space p.addr p.n = .bad code a d →
        exec (.loadServe op i c) s = .next (s.setPart op i fun q => { q with st := .failed code a d })) ∧
      (∀ u, p.space = .spad → s.unit? o.w.unit = some u →
        exec (.loadServe op i c) s = .next (done s (memRead u.spad p.addr p.n) 0)) ∧
      (∀ u st v, p.space = .stash → s.unit? o.w.unit = some u → u.stashAt p.addr = some st → s.unbinding u p.addr = false →
        natGet st.lines ((p.addr - st.vbase) / 256) = v + 1 → st.poisonAt p.addr p.n = none →
        exec (.loadServe op i c) s = .next (done s (memRead u.spad (st.soff + (p.addr - st.vbase)) p.n) v)) ∧
      (∀ u st bs bad, p.space = .stash → s.unit? o.w.unit = some u → u.stashAt p.addr = some st → s.unbinding u p.addr = false →
        let ln := (p.addr - st.vbase) / 256
        let v := if st.space = .local then maxOf ((chunksOf (st.ibase + 256 * ln) 256).map (natGet s.home.vis)) else 0
        let st' : Stash := { st with lines := natSet st.lines ln (v + 1), poison := st.poison ++ bad.map (· - st.ibase) }
        natGet st.lines ln = 0 → s.lineBusy o st.space (st.ibase + 256 * ln) = false → s.lineFor u.ctx st.space (st.ibase + 256 * ln) = .ok bs bad →
        Does (.loadServe op i c) s fun t => s.sameMemory t ∧
          (match st'.poisonAt p.addr p.n with
            | none => partAt t op i .done v
            | some a => partAt t op i (.failed 0x11 a 0) p.time) ∧
          t.unit? u.id = some { u.setStash st' with spad := memWrite u.spad (st.soff + 256 * ln) bs }) ∧
      (∀ bs, p.space = .local → o.fills = false → s.readLocal (s.ctxOf o) p.addr p.n = .ok bs →
        exec (.loadServe op i c) s = .next (done (s.cacheWalk (s.ctxOf o) p.addr) bs
          (maxOf ((chunksOf p.addr p.n).map (natGet s.home.vis))))) ∧
      (∀ code a d, p.space = .local → s.readLocal (s.ctxOf o) p.addr p.n = .bad code a d →
        exec (.loadServe op i c) s = .next (s.setPart op i fun q => { q with st := .failed code a d })) ∧
      (∀ bs cs, p.space = .local → o.fills = true → s.readLocal (s.ctxOf o) p.addr p.n = .ok bs →
        let s1 := s.cacheWalk (s.ctxOf o) p.addr
        let first := min c.chunk.toNat (p.addr % 256 / 32)
        let last := max (min 7 (c.chunk.toNat + c.chunks.toNat)) ((p.addr % 256 + p.n - 1) / 32)
        let base := p.addr / 256 * 256 + 32 * first
        let len := 32 * (last - first + 1)
        let e := s.clockOf (.slice base) + (if c.lease.toNat = 0 then 0 else if c.lease.toNat = 1 then 32 else if c.lease.toNat = 2 then 128
          else if c.lease.toNat = 3 then 512 else 2048)
        let v := maxOf ((chunksOf base len).map (natGet s.home.vis))
        let own := s.storedBytes false o.core .local base len
        s1.readLocal (s1.ctxOf o) base len = .ok cs →
        Does (.loadServe op i c) s fun t => partAt t op i .done v ∧ s.sameMemory t ∧
          (∃ o' q, t.part? op i = some (o', q) ∧ q.data = overlay bs p.fwd) ∧
          t.home.emax = natSet s.home.emax (p.addr / 256) (max (natGet s.home.emax (p.addr / 256)) e) ∧
          (t.core o.core).l1 = keepBlocks 262144 (⟨base, overlay cs own.1, e, v, o.pol, own.2⟩ ::
            sortKey (fun k => 2 - evictRank k.pol) (afterEvict c.evict
              ((s.core o.core).l1.filter fun k => !overlaps k.base k.data.length base len))))) ∧
    (∀ (dst : Nat) (cond : WCond) (b64 over_ : Bool) (vals : List (Nat × Nat)) (bs : List Byte),
      o.kind = .waitcmp dst cond b64 vals → p.space = .local → s.readLocal (s.ctxOf o) p.addr p.n = .ok bs →
      let s1 := s.cacheWalk (s.ctxOf o) p.addr
      let m := bytesNat bs
      let g := waitVal vals p.lane
      let holds : Bool := match cond with
        | .eq => m == g | .ne => m != g | .ge => decide (m ≥ g) | .lt => decide (m < g)
      (holds = true → exec (.monitorArm op i over_) s = .next (s1.setPart op i fun q =>
        { q with st := .done, data := bs, time := maxOf ((chunksOf p.addr p.n).map (natGet s.home.vis)) })) ∧
      (holds = false → exec (.monitorArm op i over_) s = .next ((s1.setPart op i fun q =>
        { q with st := .armed (decide (256 ≤ s.armedAt p.addr)) }).modThread o.w p.lane
          fun t => { t with parked := some (t.parked.getD (s.now o.core)) }))) ∧
    (∀ (dst : Nat) (cond : WCond) (b64 : Bool) (vals : List (Nat × Nat)) (bs : List Byte), o.kind = .waitcmp dst cond b64 vals →
      p.far = true → p.time ≤ s.now o.core → s.readSpan 0 p.space p.addr p.n = .ok bs →
      (wcondHolds cond (bytesNat bs) (waitVal vals p.lane) = true →
        exec (.waitcmpPoll op i) s = .next (s.setPart op i fun q => { q with st := .done, data := bs, time := 0 })) ∧
      (wcondHolds cond (bytesNat bs) (waitVal vals p.lane) = false →
        exec (.waitcmpPoll op i) s = .next ((s.setPart op i fun q => { q with time := s.now o.core + 256 }).modThread o.w p.lane
          fun t => { t with parked := some (t.parked.getD (s.now o.core)) })))

/-- R104 to R107, R164, R167, R413, R422, R446, R500: a load, LDS, ATOM or CAS whose parts are all served returns: each lane's
registers take their values, their scoreboard entries clear, `ld` falls, the tag takes the largest time of the parts, and the
operation is gone; an acquire lets go of its lanes, which wait further for that time where its scope asks it. An ALDP's pointers are
matched to the first window that holds them, or the issue raises HOLD_VIOLATION (0x05) for the lanes whose pointer no window holds; a
WAITCMP whose every monitor has matched writes the values and retires. A timed tag is free once its time has come. The imprecise
faults of an issue that arrive are taken together, a record for each warp. -/
def Obligations.LoadsReturn : Prop :=
  (∀ (s : State) (o : MemOp) (u : Placed) (w : Warp), s.op? o.id = some o →
    (match o.kind with | .load .. | .lds .. | .atom .. | .cas .. => True | _ => False) →
    (∀ p ∈ o.parts, p.st = .done) → o.due ≤ s.clk → o.returned = false → s.forwarding o = false →
    s.unit? o.w.unit = some u → s.warp? o.w = some w →
    let time := max (maxOf (o.parts.map fun p => if p.far then s.now o.core else p.time)) o.tclear
    let g := if o.kind.isAtomic then maxOf (o.parts.map fun p => if p.space == .local then p.time else 0) else 0
    let timed (l : Nat) : Bool := o.scope == .dev || o.scope == .sys ||
      (o.scope == .clus && o.parts.all fun p => p.lane != l || !p.inSpad)
    let written := w.applyWrites (o.lanes.map fun l => (l, o.laneWrites u.cfg l))
    Does (.loadReturn o.id) s fun t => t.home = s.home ∧ t.ops = s.ops.filter (·.id != o.id) ∧ ∃ x, t.warp? o.w = some x ∧
      (∀ l th, written.threads[l]? = some th → x.threads[l]? = some (if o.acq = true ∧ l ∈ o.lanes then { th with
        acq := th.acq.filter (· != o.id), acqTime := if timed l then max th.acqTime time else th.acqTime } else th)) ∧
      x = { written with
        threads := x.threads
        sb := w.sb.filter fun e => !o.kind.resultRegs.contains e.reg
        ld := w.ld - 1
        gwct := max w.gwct g
        seen := natSet (w.seen.filter fun y => decide (s.now o.core < y.2 + 4)) o.id (if s.now o.core < time + 4 then time else 0)
        tags := match o.tag with | some n => landTag w.tags n time | none => w.tags }) ∧
  (∀ (s : State) (o : MemOp) (b : Bundle),
    let group := s.ops.filter (·.group == o.group)
    let ready : Prop := s.op? o.id = some o ∧ s.bundleOf o.w.unit o.w.wg (group.map fun x => (x.w.warp, x.lanes)) = some b ∧
      (group.map (·.w)).Nodup ∧ ∀ x ∈ group, x.w.unit = o.w.unit ∧ x.w.wg = o.w.wg ∧ x.kind = o.kind ∧ x.lanes.Nodup ∧
        x.returned = false ∧ x.due ≤ s.clk ∧ ∀ p ∈ x.parts, p.st = .done
    (∀ (n : Nat) (b128 : Bool), o.kind = .aldp n b128 → ready →
      let ptr (x : MemOp) (l : Nat) : Nat := if b128 then assemble (x.laneParts l 0) % 2 ^ 72 else assemble (x.laneParts l 0)
      let win (x : MemOp) (l : Nat) : Option Nat := (List.range 16).find? fun m => ((b.u.windows[m]?).map fun w =>
        w.used && decide (w.base ≤ ptr x l) && decide (ptr x l < w.base + w.length)).getD false
      ((∃ x ∈ group, ∃ l ∈ x.lanes, win x l = none) → exec (.loadReturn o.id) s = .next
        (s.takeFault o.w.unit o.w.wg 0x05 true o.pc (group.filterMap fun x =>
          match x.lanes.filter fun l => (win x l).isNone with
          | [] => none
          | l :: ls => some ⟨x.w.warp, l :: ls, ptr x l, 0, (l :: ls).map fun l => (l, ptr x l)⟩))) ∧
      ((∀ x ∈ group, ∀ l ∈ x.lanes, (win x l).isSome) → Does (.loadReturn o.id) s fun t => t.home = s.home ∧
        ∀ x ∈ group, (s.forwarding x = false → x.id ∉ t.ops.map (·.id)) ∧ ∀ l ∈ x.lanes, ∀ th m, s.thread? x.w l = some th →
          win x l = some m → n < th.a.length → ∃ th', t.thread? x.w l = some th' ∧ th'.busy = none ∧ th'.pc = b.pc + 4 ∧ th'.g = th.g ∧
            th'.ar n = { deriveWindow b.u.windows m with
              ptr := BitVec.ofNat 72 (ptr x l)
              mask := x.mask ||| BitVec.ofNat 8 ((((x.laneParts l 0).head?).map (·.carried)).getD 0) })) ∧
    ∀ (dst : Nat) (c : WCond) (b64 : Bool) (vals : List (Nat × Nat)), o.kind = .waitcmp dst c b64 vals → s.op? o.id = some o →
      s.bundleOf o.w.unit o.w.wg (group.map fun x => (x.w.warp, x.lanes)) = some b → (group.map (·.w)).Nodup →
      (∀ x ∈ group, x.w.unit = o.w.unit ∧ x.w.wg = o.w.wg ∧ (∃ v, x.kind = .waitcmp dst c b64 v) ∧ x.lanes.Nodup ∧ x.waitSt = [] ∧
        x.returned = false ∧ x.due ≤ s.clk ∧ ∀ p ∈ x.parts, p.st = .done) → s.mayRetire o.w = true →
      Does (.loadReturn o.id) s fun t => (b.u.cfg.det = 0 → t.home = s.home) ∧
        ∀ x ∈ group, x.id ∉ t.ops.map (·.id) ∧
          (∀ w k, s.warp? x.w = some w → w.ckpt = some k → b.u.cfg.det ≠ 0 → k.before = o.group → ∃ w', t.warp? x.w = some w' ∧
            w'.ckpt = some { k with retired := w.retired, sigma := b.u.turn, offset := b.u.turnCount }) ∧
          ∀ l ∈ x.lanes, ∀ th, s.thread? x.w l = some th → dst + (if b64 then 1 else 0) < th.g.length → ∃ th', t.thread? x.w l = some th' ∧
            th'.busy = none ∧ th'.parked = none ∧ th'.matched = none ∧ th'.pc = b.pc + 4 ∧
            max th.acqTime (maxOf (x.parts.map fun p => if p.far then s.now x.core else p.time)) ≤ th'.acqTime ∧
            ∀ k, k < (if b64 then 2 else 1) → th'.gr (dst + k) =
              ⟨BitVec.ofNat 32 (assemble (x.laneParts l 0) / 2 ^ (32 * k)), List.replicate b.u.cfg.d 0, x.mask⟩) ∧
  (∀ (s : State) (w : WarpId) (x : Warp) (n v : Nat), s.warp? w = some x → x.tags[n]? = some (.timed v) → v ≤ s.now (s.coreOf w) →
    Does (.tagFree w n) s fun t => t.home = s.home ∧ t.warp? w = some { x with tags := modAt x.tags n fun _ => .free }) ∧
  (∀ (s : State) (f : ImpFault) (u : Placed), s.home.faults.find? (·.id == f.id) = some f → s.unit? f.w.unit = some u →
    (u.state = .running ∨ u.state = .stopping) → (∀ o ∈ s.ops, o.group = f.group → o.returned = true) →
    let fs := sortKey (fun x => ((s.warp? x.w).map (·.slot)).getD 0)
      (s.home.faults.filter fun x => x.group == f.group && x.w.unit == f.w.unit)
    let s1 : State := { s with home := { s.home with faults := s.home.faults.filter fun x => !fs.any (·.id == x.id) } }
    exec (.impreciseFault f.id) s = .next (s1.takeHits f.w.unit f.w.wg false f.pc (fs.map fun x =>
      (x.code, ⟨x.w.warp, x.lanes, x.det0.toNat, x.det1.toNat, x.vals⟩))))

/-- R30, R356, R407, R411 to R413, R423, R438 to R444, R495: STORE_APPLY and RELEASE_APPLY write exactly the bytes of the part, give
it the GWCT of R411 and raise the V of its chunks; ATOMIC_APPLY returns the old bytes and writes the new value in one step, that of a
CAS when the old one is the value expected; through a system or a peer window they act on the host's or the peer's memory, and
through a stash window on the scratchpad bytes of its line, once filled, which become dirty; a release held by its slice is applied
once cleared, and a write behind it is held too; the ack lets `st` fall and joins the GWCT. -/
def Obligations.HomeWrites : Prop :=
  (∀ (s : State) (op i : Nat) (o : MemOp) (p : Part), s.part? op i = some (o, p) → s.behind o i p = true →
    o.kind.isWrite = true → p.st = .sent → s.blocked o i p = false → (o.rel = true → o.cleared = true ∨ p.space = .stash) →
    exec (.storeApply op i) s = .next (s.setPart op i fun q => { q with st := .held })) ∧
  (∀ (s : State) (op i : Nat) (o : MemOp) (p : Part), s.part? op i = some (o, p) → s.memWf → p.st = .sent →
    s.blocked o i p = false → s.behind o i p = false → (o.rel = true → o.cleared = true ∨ p.space = .stash) →
    let sub (old new : Memory) (a : Nat) (bs : List Byte) : Prop :=
      ∀ x, memGet new x = if a ≤ x ∧ x < a + bs.length then (bs[x - a]?).getD 0 else memGet old x
    let host (t : State) (bs : List Byte) : Prop := sub s.home.host t.home.host p.addr bs ∧
      ∀ x, memGet t.home.mem x = memGet s.home.mem x ∧ ∀ k, memGet (peerMem t.home k) x = memGet (peerMem s.home k) x
    let peer (k : Nat) (t : State) (bs : List Byte) : Prop := sub (peerMem s.home k) (peerMem t.home k) p.addr bs ∧
      ∀ x, memGet t.home.mem x = memGet s.home.mem x ∧ memGet t.home.host x = memGet s.home.host x ∧
        ∀ j, j ≠ k → memGet (peerMem t.home j) x = memGet (peerMem s.home j) x
    let stash (s' : State) (st : Stash) (u : Nat) (t : State) (bs : List Byte) : Prop := s'.sameMemory t ∧
      ∃ v w, s'.unit? u = some v ∧ t.unit? u = some w ∧ sub v.spad w.spad (st.soff + (p.addr - st.vbase)) bs ∧
        ∃ x ∈ w.stash, x.vbase = st.vbase ∧ x.lines = st.lines ∧
          (∀ j, natGet x.dirty j = if p.addr - st.vbase ≤ j ∧ j < p.addr - st.vbase + bs.length then 1 else natGet st.dirty j) ∧
          ∀ y, y ∈ x.poison ↔ y ∈ st.poison ∧ within y 8 (p.addr - st.vbase) bs.length = false
    let filled (u : Placed) (st : Stash) (s' : State) (st' : Stash) (v : Nat) : Prop := p.space = .stash ∧
      s.stashOf o p = some (u, st) ∧ s.fillLine o u st p.addr = .ok s' st' v ∧
      (∀ x, s'.unit? u.id = some x → Memory.wf x.spad) ∧
      ∀ y ∈ st'.poison, overlaps y 8 (p.addr - st'.vbase) p.n = true → within y 8 (p.addr - st'.vbase) p.n = true
    (o.kind.isWrite = true → p.data.length = p.n →
      (p.space = .host → Does (.storeApply op i) s fun t => host t p.data ∧ partAt t op i .done p.time) ∧
      (∀ k, p.space = .peer k → (∀ y ∈ s.home.peerErrs, y.1 = k → overlaps y.2 8 p.addr p.n = false) →
        Does (.storeApply op i) s fun t => peer k t p.data ∧ partAt t op i .done p.time) ∧
      (∀ u st s' st' v, filled u st s' st' v → 0 < p.n →
        Does (.storeApply op i) s fun t => stash s' st' u.id t p.data ∧ partAt t op i .done 0)) ∧
    ∀ old bs : List Byte, o.kind.isAtomic = true → o.pieces p = [p] → s.accessFree o p = true → s.firstLeft o i p = true →
      bs = (atomWrite o.kind p old).getD old → bs.length = p.n → 0 < p.n →
      let gives (t : State) (time : Nat) : Prop := partAt t op i .done time ∧ ∃ o' q, t.part? op i = some (o', q) ∧ q.data = old
      (p.space = .host → s.readSpan 0 .host p.addr p.n = .ok old → Does (.atomicApply op i) s fun t => host t bs ∧ gives t 0) ∧
      (∀ k, p.space = .peer k → s.readSpan 0 (.peer k) p.addr p.n = .ok old →
        Does (.atomicApply op i) s fun t => peer k t bs ∧ gives t 0) ∧
      ∀ u st s' st' v, filled u st s' st' v → st'.poisonAt p.addr p.n = none →
        (∀ x, s'.unit? u.id = some x → memRead x.spad (st'.soff + (p.addr - st'.vbase)) p.n = old) →
        (atomWrite o.kind p old ≠ none → Does (.atomicApply op i) s fun t => stash s' st' u.id t bs ∧ gives t 0) ∧
        (atomWrite o.kind p old = none → Does (.atomicApply op i) s fun t => gives t 0 ∧ s'.sameMemory t ∧
          ∃ v w, s'.unit? u.id = some v ∧ t.unit? u.id = some w ∧ w.spad = v.spad ∧ w.stash = v.stash)) ∧
  ∀ (s : State) (op i : Nat) (o : MemOp) (p : Part) (pa : Nat), s.part? op i = some (o, p) → s.behind o i p = false →
    let g := gwct s p.addr p.n p.carried o.tclear
    let applied (t : State) (bs : List Byte) : Prop := wrote s t pa bs ∧ t.home.host = s.home.host ∧ t.home.peers = s.home.peers ∧
      partAt t op i .done g ∧ ∀ c, natGet t.home.vis c = if c ∈ chunksOf p.addr p.n then g else natGet s.home.vis c
    let local_ : Prop := p.space = .local ∧ writable s (s.ctxOf o) p.addr p.n pa
    (local_ → o.kind.isWrite = true → p.data.length = p.n → p.st = .sent → s.blocked o i p = false →
      (o.rel = true → o.cleared = true) → Does (.storeApply op i) s fun t => applied t p.data) ∧
    (o.kind.isWrite = true → p.st = .sent → s.blocked o i p = false → o.rel = true → o.cleared = false → p.space = .local →
      exec (.storeApply op i) s = .next (s.setPart op i fun q => { q with st := .held })) ∧
    (local_ → o.kind.isAtomic = false → p.data.length = p.n → p.st = .held → o.cleared = true →
      Does (.releaseApply op i) s fun t => applied t p.data) ∧
    (∀ (old : List Byte) (dst : Nat) (aop : AtomOp) (b64 dual : Bool), local_ → o.kind = .atom dst aop b64 dual → p.st = .sent →
      s.blocked o i p = false → o.pieces p = [p] → s.accessFree o p = true → s.firstLeft o i p = true →
      (o.rel = true → o.cleared = true) → s.readSpan (s.ctxOf o) .local p.addr p.n = .ok old → old.length = p.n →
      Does (.atomicApply op i) s fun t =>
        applied t (natBytes p.n (atomNew aop (8 * p.n) (bytesNat old) (bytesNat p.data))) ∧
        ∃ o' q, t.part? op i = some (o', q) ∧ q.data = old) ∧
    (∀ (old : List Byte) (dst : Nat) (b64 : Bool), local_ → o.kind = .cas dst b64 → p.st = .sent →
      s.blocked o i p = false → o.pieces p = [p] → s.accessFree o p = true → s.firstLeft o i p = true →
      (o.rel = true → o.cleared = true) → s.readSpan (s.ctxOf o) .local p.addr p.n = .ok old → old.length = p.n →
      (old ≠ p.data.take p.n → Does (.atomicApply op i) s fun t => t.home = { s.home with tlb := t.home.tlb } ∧
        partAt t op i .done g ∧ ∃ o' q, t.part? op i = some (o', q) ∧ q.data = old) ∧
      (old = p.data.take p.n → 2 * p.n ≤ p.data.length → Does (.atomicApply op i) s fun t =>
        applied t ((p.data.drop p.n).take p.n) ∧ ∃ o' q, t.part? op i = some (o', q) ∧ q.data = old)) ∧
    (∀ w, o.rel = true → o.cleared = false → s.warp? o.w = some w → s.clear o.w (o.scope == .sys) o.id = true →
      Does (.releaseClearance op) s fun t => t.home = s.home ∧
        t.op? op = some { o with cleared := true, tclear := w.gwct }) ∧
    (∀ w, o.kind.counter = some .st → (∀ q ∈ o.parts, q.st = .done) → o.due ≤ s.clk → o.returned = false → o.waitSt = [] →
      (match o.kind with | .sflush _ u => u = false | _ => True) → s.warp? o.w = some w →
      (∀ x ∈ s.ops, x.id ≠ op → op ∉ x.waitSt) → (∀ x ∈ s.ops, x.returned = false) →
      Does (.storeAck op) s fun t => t.home = s.home ∧ t.ops = s.ops.filter (·.id != op) ∧ t.warp? o.w = some { w with
        st := w.st - 1
        gwct := max w.gwct (max (maxOf (o.parts.map fun q => if q.space == .local then q.time else 0))
          (if o.rel = true then 0 else o.tclear)) })

/-! ### The host, peers and migration (R29 to R32, R351, R352, R355, R409, R414, R495) -/

/-- R29, R30, R32, R409, R414, R438, R495: HDM_READ takes bytes as they stand and answers once their V has come; HDM_WRITE and a
peer's write or atomic change exactly their bytes; a snoop is answered; a migration marks the leaf BUSY and then moves the page, or
posts a record of the table entry that its walk cannot use (R356). Neither acts while no start has succeeded (R488).
(The block of a snoop is one 256-byte line, a peer's request names its context, a page moves only to a frame that nothing
uses, and the record goes to the lowest queue of the context: the model's choices, assumptions 93 to 95 and 101.) -/
def Obligations.HostAndPeers : Prop :=
  ∀ (s : State) (hpa n peer a : Nat) (keep : Bool) (ctx ia line pa : Nat) (bs data data' : List Byte) (aop : AtomOp),
    (s.hdmAddr hpa n = some (ctx, ia) → s.readSpan ctx .local ia n = .ok bs →
      let v := maxOf ((chunksOf ia n).map (natGet s.home.vis))
      Does (.hdmRead hpa n keep) s fun t => s.sameMemory t ∧
        let passed := s.hdmPassed hpa (max 1 bs.length) v
        t.home.hdmDone = (if passed then s.home.hdmDone ++ [(hpa, bs, false)] else s.home.hdmDone) ∧
        t.home.hdmReads = if passed then s.home.hdmReads else s.home.hdmReads ++ [(hpa, bs, v)]) ∧
    (s.hdmAddr hpa data.length = some (ctx, ia) → ia % 256 + data.length ≤ 256 → s.spanBusy ctx .local ia data.length = false →
      writable s ctx ia data.length pa →
      let g := gwct s ia data.length 0 0
      Does (.hdmWrite hpa data) s fun t => wrote s t pa data ∧
        t.home.hdmReads = if s.hdmPassed hpa 1 g then s.home.hdmReads else s.home.hdmReads ++ [(hpa, [], g)]) ∧
    (line ∈ s.home.hostLines → natGet s.home.snooped line = 1 →
      let time := s.clockOf (.slice (256 * line)) + 2
      exec (.backInvalidationResponse line) s = .next { s with
        home := { s.home with hostLines := s.home.hostLines.filter (· != line), snooped := natSet s.home.snooped line time } }) ∧
    (s.up = false → ∀ r frame, exec (.peerRequest peer r) s = .next s ∧ exec (.pageMigration ctx ia frame) s = .next s) ∧
    let answer : State := { s with home := { s.home with peerDone := s.home.peerDone ++ [(peer, bs, false)] } }
    (s.up = true → s.readSpan ctx .local a n = .ok bs →
      exec (.peerRequest peer (.read ctx a n)) s = .next (answer.cacheSpan ctx .local a n)) ∧
    (s.up = true → a % 256 + data.length ≤ 256 → s.spanBusy ctx .local a data.length = false → writable s ctx a data.length pa →
      Does (.peerRequest peer (.write ctx a data)) s fun t => wrote s t pa data ∧
        t.home.peerDone = s.home.peerDone ++ [(peer, [], false)]) ∧
    (s.up = true → a % 256 + data.length ≤ 256 → s.spanBusy ctx .local a data.length = false → writable s ctx a data.length pa →
      s.readSpan ctx .local a data.length = .ok bs →
      (Does (.peerRequest peer (.atomic ctx a aop data)) s fun t =>
        wrote s t pa (natBytes data.length (atomNew aop (8 * data.length) (bytesNat bs) (bytesNat data))) ∧
        t.home.peerDone = s.home.peerDone ++ [(peer, bs, false)]) ∧
      (bs = data → data'.length = data.length → Does (.peerRequest peer (.cas ctx a data data')) s fun t =>
        wrote s t pa data' ∧ t.home.peerDone = s.home.peerDone ++ [(peer, bs, false)]) ∧
      (bs ≠ data → exec (.peerRequest peer (.cas ctx a data data')) s = .next (answer.cacheSpan ctx .local a data.length))) ∧
    (∀ code level frame, s.up = true → leafSlot s.home ia 5 ((s.ctx ctx).ptroot.toNat * 4096) = .bad code level →
      exec (.pageMigration ctx ia frame) s = .next (match (List.range 32).find? fun q => (s.queue q).ctx.toNat == ctx with
        | some q => s.postTask q (plainRecord code 0 ia level)
        | none => s)) ∧
    ∀ (level slot frame : Nat) (p : Page), s.up = true →
      leafSlot s.home ia 5 ((s.ctx ctx).ptroot.toNat * 4096) = .leaf level slot p →
      let size := 2 ^ p.log
      let base := ia / size * size
      (∀ h ∈ s.home.holds, h.ctx = ctx → overlaps h.ia (2 ^ h.log) base size = false) →
      (∀ h ∈ s.home.pins, h.ctx = ctx → overlaps h.ia (2 ^ h.log) base size = true → h.leaf.toNat = p.leaf) → frame % size = 0 →
      s.mayMove ctx ia level slot p frame = true → s.home.late = [] →
      (bitOf p.leaf 54 = false → exec (.pageMigration ctx ia frame) s =
        .next { s with home := (writeLeaf s.home level slot p (p.leaf + 2 ^ 54)).uncache ctx base size }) ∧
      (bitOf p.leaf 54 = true → Does (.pageMigration ctx ia frame) s fun t =>
        ∃ leaf, t.home = (moveFrame (writeLeaf s.home level slot p leaf) p.frame frame size).uncache ctx base size ∧
          bitOf leaf 54 = false ∧ bitOf leaf 53 = !bitOf p.leaf 53 ∧ bitsOf leaf 0 12 = bitsOf p.leaf 0 12 ∧
          bitsOf leaf 55 9 = bitsOf p.leaf 55 9)

/-! ### Events of the Lane engine (R25, R26, R92 to R97, R100, R105, R158, R386 to R391, R479) -/

/-- R25, R26, R92 to R95, R100, R105, R158, R386, R391, R466, R479: a thread is filed in the lowest bin of its key whose threads have
the hints pending that it has (R64), in the lowest empty slot, or in the filing queue; a bin forms by age or because it is full; a waiting collective is tried again; a delayed write is
made; the deferral and order limits are raised; a turn ends, and stops its unit when that is asked for; a word is fetched; the
clock ticks, and no copy of it goes back or falls more than 4 behind. -/
def Obligations.LaneEvents : Prop :=
  (∀ (s : State) (core port : Nat) (p : Port) (f : Filing) (th : Thread), (s.core core).ports[port]? = some p →
    s.nextFiling p = some f → s.thread? ⟨f.unit, f.wg, f.warp⟩ f.lane = some th →
    let fits (x : Option Slot) : Bool := match x with
      | some y => !y.formed && y.unit == f.unit && y.wg == f.wg && y.pc == th.pc && !y.entries.any (·.2 == f.lane) &&
          (!s.isDet f.unit || y.entries.all (·.1 == f.warp)) &&
          y.entries.all fun e => ((s.thread? ⟨f.unit, f.wg, e.1⟩ e.2).map (·.hints == th.hints)).getD true
      | none => false
    let place : Option Nat := match p.slots.findIdx? fits with
      | some k => some k
      | none => p.slots.findIdx? (·.isNone)
    Does (.threadFiling core port) s fun t => t.home = s.home ∧ t.units = s.units ∧ t.ops = s.ops ∧
      ∃ q, (t.core core).ports[port]? = some q ∧ q.ptr = p.ptr ∧
        (∀ k, place = some k → q.queue = p.queue.filter (· != f) ∧ (∀ j, j ≠ k → q.slots[j]? = p.slots[j]?) ∧
          ∃ x, q.slots[k]? = some (some x) ∧
            x.entries = (match p.slots[k]? with | some (some y) => y.entries | _ => []) ++ [(f.warp, f.lane)] ∧
            (p.slots[k]? = some none → x.pc = th.pc ∧ x.unit = f.unit ∧ x.wg = f.wg ∧ x.filed = s.clk)) ∧
        (place = none → q.slots = p.slots ∧ q.queue = p.queue.filter (· != f) ++ [{ f with waiting := true }])) ∧
  (∀ (s : State) (core port k : Nat) (p : Port) (x : Slot), (s.core core).ports[port]? = some p → p.slots[k]? = some (some x) →
    x.formed = false → s.isDet x.unit = false →
    let becomes (y : Slot) : Prop := Does (.binAged core port k) s fun t => t.home = s.home ∧ t.units = s.units ∧ t.ops = s.ops ∧
      ∃ q, (t.core core).ports[port]? = some q ∧ q.queue = p.queue ∧ q.slots[k]? = some (some y) ∧
        ∀ j, j ≠ k → q.slots[j]? = p.slots[j]?
    (x.filed + 16 ≤ s.clk → becomes { x with formed := true, aged := true }) ∧
    (s.clk < x.filed + 16 → x.noFull = false → s.binFull port x = true → becomes { x with formed := true })) ∧
  (∀ (s : State) (w : WarpId) (x : Warp) (a : Arrival) (b1 : Bundle) (body : Bundle → State → Res), s.warp? w = some x →
    x.arrival = some a → collBody a.instr = some body → x.live ≠ [] → (∀ l ∈ x.live, l ∈ a.lanes) →
    s.bundleOf w.unit w.wg [(w.warp, x.live)] = some b1 → s.mayRetire w = true →
    (b1.lanes.all fun (_, _, _, t) => !t.halted) = true → b1.free a.instr = true → b1.pending (a.instr.waitRegs b1.u.cfg) = false →
    (∀ t, body b1 s = .done t → exec (.collectiveExecute w) s = .next (((t.retire b1 false sameThread).modWarp w fun y =>
      { y with arrival := none }).file w.unit w.wg b1.g.core (x.live.map fun l => (w.warp, l)) (s.clk + 1) (s.clk + 1) false)) ∧
    (∀ t, body b1 s = .hold t → exec (.collectiveExecute w) s = .next t) ∧
    (body b1 s = .wait → exec (.collectiveExecute w) s = .next s) ∧
    ∀ code hits, body b1 s = .bad code hits →
      exec (.collectiveExecute w) s = .next (s.takeFault w.unit w.wg code true a.pc hits)) ∧
  (∀ (s : State) (w : WarpId) (x : Warp) (a : Arrival) (b1 : Bundle) (pd pa : PNum) (h : BitVec 2), s.warp? w = some x →
    x.arrival = some a → a.instr = .voteAny pd pa h → x.live ≠ [] → (∀ l ∈ x.live, l ∈ a.lanes) →
    s.bundleOf w.unit w.wg [(w.warp, x.live)] = some b1 → s.mayRetire w = true →
    (b1.lanes.all fun (_, _, _, t) => !t.halted) = true → b1.free a.instr = true → b1.pending (a.instr.waitRegs b1.u.cfg) = false →
    Does (.collectiveExecute w) s fun t => t.home = s.home ∧ t.ops = s.ops ∧ t.warp? w =
      some { retireWarp b1.pc false (fun _ t => t) x.live (pendWarp b1.pc none .known (x.live.filterMap fun l =>
        (x.threads[l]?).map fun _ => (l, LaneOut.ok [.p pd.toNat
          (x.live.any fun k => ((x.threads[k]?).map fun t => (t.pr pa.toNat).val).getD false)
          ((x.live.filterMap fun k => (x.threads[k]?).map fun t => (t.pr pa.toNat).mask).foldl (· ||| ·) 0)])) x) with
        arrival := none }) ∧
  (∀ (s : State) (w : WarpId) (lane : Nat) (b : Bundle) (i : Instr) (x : Warp) (t : Thread) (d : Deferral),
    s.bundleOf w.unit w.wg [(w.warp, [lane])] = some b → b.idle = true → b.instr = some i → i.illegalIn b.u.cfg = false →
    i.badHint b.u.cfg b.hints = none → i.regOver b.u.cfg = none → (∀ m ∈ i.tiles, m < b.u.cfg.tiles) →
    s.warp? w = some x → x.threads[lane]? = some t → t.defer = some d → d.count ≥ 4096 →
    exec (.idemDefer w lane) s = .next (s.takeFault w.unit w.wg 0x06 true b.pc [⟨w.warp, [lane], d.pc.toNat, 0, []⟩])) ∧
  (∀ (s : State) (w : WarpId) (u : Placed) (x : Warp) (b : Bundle) (i : Instr), s.unit? w.unit = some u → s.warp? w = some x →
    u.owner = w → u.cfg.det ≠ 0 → s.bundleOf w.unit w.wg [(w.warp, s.turnLanes w)] = some b → b.idle = true → b.instr = some i →
    i.illegalIn b.u.cfg = false → i.badHint b.u.cfg b.hints = none → i.regOver b.u.cfg = none →
    (∀ m ∈ i.tiles, m < b.u.cfg.tiles) → b.deferHits = [] → x.stall + 1 ≥ 2 ^ 24 →
    exec (.orderStall w) s = .next (s.takeFault w.unit w.wg 0x15 true b.pc [⟨w.warp, s.turnLanes w, x.retired.toNat, 0, []⟩])) ∧
  (∀ (s : State) (w : WarpId) (k : Nat) (u : Placed) (x : Warp) (p : PendWrite), s.unit? w.unit = some u → s.warp? w = some x →
    x.pend[k]? = some p → (∀ d, p.due = some d → d ≤ s.clk) → u.lanesBefore p = false →
    let value : Option Word := match p.src with
      | .known => none
      | .gain i => some ((((s.work? u.work).bind fun y => y.gains[i]?).map (·.gain)).getD 0)
      | .resid k => some (((s.work? u.work).map fun y => residWord y k).getD 0)
      | .sysreg sel => some (BitVec.ofNat 32 (if sel = 20 then s.dbgstat u.ctx else natGet s.watch.words (32 * u.ctx + sel)))
    let made (r : RegWrite) : RegWrite := match value, r with | some v, .g n _ sh m => .g n v sh m | _, r => r
    Does (.laneWriteCompletion w k) s fun t => t.home = s.home ∧ t.ops = s.ops ∧ ∃ y, t.warp? w = some y ∧
      y.threads = (x.applyWrites (p.writes.map fun (l, rs) => (l, rs.map made))).threads ∧ y.pend = x.pend.eraseIdx k ∧
      (∀ e, e ∈ y.sb ↔ e ∈ x.sb ∧ ((∀ z ∈ p.writes, ∀ r ∈ z.2, r.reg ≠ e.reg) ∨
        ∃ q ∈ x.pend.eraseIdx k, ∃ z ∈ q.writes, ∃ r ∈ z.2, r.reg = e.reg)) ∧
      y.retired = x.retired ∧ y.ld = x.ld ∧ y.st = x.st ∧ y.tags = x.tags) ∧
  (∀ (s : State) (unit addr : Nat) (u : Placed) (xs : List Nat) (sp : Space) (a : Nat) (bs : List Byte), s.unit? unit = some u →
    u.fetched = some xs → u.cfg.entry.toNat ≤ addr → addr < u.cfg.entry.toNat + u.cfg.codesize →
    (addr - u.cfg.entry.toNat) % 4 = 0 → s.mapAddr u.ctx addr 4 = some (sp, a) → s.readSpan u.ctx sp a 4 = .ok bs →
    Does (.fetchComplete unit addr) s fun t => t.home = { s.home with tlb := t.home.tlb } ∧ t.ops = s.ops ∧ t.unit? unit = some { u with
      code := memWrite u.code (addr - u.cfg.entry.toNat) bs, fetched := some ((addr - u.cfg.entry.toNat) :: xs) }) ∧
  (∀ (s : State) (u : Placed) (w : Warp), s.unit? u.id = some u → s.warp? u.owner = some w → u.cfg.det ≠ 0 → u.state = .running →
    u.anyStopped = false → u.arming = false → s.turnOver u w = true →
    w.ld = 0 → w.st = 0 → w.xf = 0 → w.tl = 0 → s.unacked u.owner true = [] → w.gwct ≤ s.now (s.coreOf u.owner) →
    (∀ o ∈ s.ops, o.w = u.owner → match o.kind with | .expect .. => False | _ => True) →
    let t := s.modUnit u.id Placed.nextTurn
    ((u.stopAt = false ∧ u.stepTurn = false) ∨ u.hinted = true → exec (.detTurn u.id) s = .next t) ∧
    (u.stopAt = true ∨ u.stepTurn = true → u.hinted = false →
      exec (.detTurn u.id) s = .next ((t.modUnit u.id haltUnit).takeDumps u u.dumps))) ∧
  (∀ (s : State) (u : Placed) (w : Warp), w.live = [] ∨ w.resumeAt.isSome = true ∨ u.turnCount ≥ u.cfg.quantum →
    s.turnOver u w = true) ∧
  (∀ u : Placed, (∀ g ∈ u.wgs, ∀ x ∈ g.warps, x.resumeAt = none) → u.nextTurn = { u with turn := u.turn + 1, turnCount := 0 }) ∧
  ∀ (s : State) (lag : ClockLag), Does (.leaseClockTick lag) s fun t =>
    t.tick = s.tick + 1 ∧ t.units = s.units ∧ t.ops = s.ops ∧ s.sameMemory t ∧
    (∀ (k : Nat) (c : Core), s.cores[k]? = some c → ∃ d, t.cores[k]? = some { c with clock := d } ∧
      c.clock ≤ d ∧ s.tick + 1 ≤ d + 4 ∧ (c.clock ≤ s.tick + 1 → d ≤ s.tick + 1)) ∧
    (∀ e, s.clockOf e ≤ t.clockOf e ∧ t.clockOf e ≤ t.tick ∧ t.tick ≤ t.clockOf e + 4) ∧
    ∀ x ∈ s.home.hdmReads, if t.hdmPassed x.1 (max 1 x.2.1.length) x.2.2 = true then (x.1, x.2.1, false) ∈ t.home.hdmDone
      else x ∈ t.home.hdmReads

/-! ### Events of the Matrix and Transfer engines -/

/-- R166, R219 to R221, R232 to R236, R251, R258, R276, R285, R286, R292, R296 to R299, R302, R305 to R307, R309 to R311, R498:
the Matrix engine takes the request at the head of its queue and sends the reads of its LOOP nodes, or faults at the first primal
read that its register does not allow; an evaluation ends with its results and its events; a tile load lands; an XLR's records load
their handle; a channel copies its handles, waits for the times of them and of its mask, starts, commits a chunk, reads on, lands a
chunk, and ends; one that a check stops starts with no chunk, and posts its error event in its turn. -/
def Obligations.EngineEvents : Prop :=
  (∀ (s : State) (core : Nat) (r : EvalReq) (rs : List EvalReq) (u : Placed) (w : Warp), (s.core core).evalCur = none →
    (s.core core).evalQ = r :: rs → s.unit? r.w.unit = some u → s.warp? r.w = some w →
    let isLoop (n : Node) : Bool := match n.kind with | .loop _ => true | _ => false
    let cl := r.members w
    let taken := s.modCore core (·.popEval (some (r, cl)))
    (cl = [] → Does (.evalStart core) s fun t => t.home = s.home ∧ t.ops = s.ops ∧ (t.core core).evalQ = rs ∧
      (t.core core).evalCur = none ∧ t.warp? r.w = some (dropGraph (if r.teval then { w with tl := w.tl - 1 } else w))) ∧
    (cl ≠ [] → (∀ n ∈ cl, s.loopWaits core u w n = false) →
      (∀ n ∈ cl, ∀ x ∈ n.accs u w, x.tang = 0 → x.a.allows x.va x.n true false = true) →
      exec (.evalStart core) s = .next ((cl.filter isLoop).foldl (fun t n => t.sendLoop r core u w n) taken)) ∧
    (cl ≠ [] → (∀ n ∈ cl, isLoop n = false) → Does (.evalStart core) s fun t => t.home = s.home ∧ t.ops = s.ops ∧
      (t.core core).evalQ = rs ∧ (t.core core).evalCur = some (r, cl) ∧ t.warp? r.w = some w) ∧
    ((∀ n ∈ cl, s.loopWaits core u w n = false) →
      (∃ n ∈ cl, ∃ x ∈ n.accs u w, x.tang = 0 ∧ x.a.allows x.va x.n true false = false) →
      ∃ n ∈ cl, ∃ x ∈ n.accs u w, x.tang = 0 ∧ x.a.allows x.va x.n true false = false ∧
        exec (.evalStart core) s = .next ((s.modCore core (·.popEval none)).takeFault r.w.unit r.w.wg
          0x04 (!r.teval) r.force [⟨r.w.warp, r.lanes, (BitVec.ofInt 64 x.va).toNat, n.origin.toNat,
            r.lanes.map fun l => (l, (BitVec.ofInt 64 x.va).toNat)⟩])) ∧
    (∀ n ∈ cl, s.loopWaits core u w n = true → exec (.evalStart core) s = .next s)) ∧
  (∀ (s : State) (core : Nat) (r : EvalReq) (cl : List Node) (u : Placed) (w : Warp), (s.core core).evalCur = some (r, cl) →
    s.unit? r.w.unit = some u → s.warp? r.w = some w → (∀ n ∈ cl, n.loading w = false) →
    (∀ o ∈ s.loopOps r, o.ready s.clk = true ∧ o.failure = none) →
    let v := evalClosure ⟨u, r.w.wg, r.w.warp, loopImages (s.loopOps r)⟩ w cl r.graph u.cfg.reassoc
    let back := (s.loopOps r).foldl (fun t o => t.arrived o) (s.modCore core fun c => { c with evalCur := none })
    let t := back.modWarp r.w (closeEval r cl v.1 v.2)
    (v.2 = [] ∨ u.cfg.mxtrap = false → exec (.evalComplete core) s = .next t) ∧
    (∀ e es, v.2 = e :: es → u.cfg.mxtrap = true → exec (.evalComplete core) s = .next (t.takeFault r.w.unit r.w.wg 0x0C
      (!r.teval) r.force [⟨r.w.warp, r.lanes, e.origin.toNat, mxDet1 e, []⟩])) ∧
    (s.loopOps r = [] → t.home = s.home ∧ t.ops = s.ops ∧ (t.core core).evalCur = none ∧
      t.warp? r.w = some (closeEval r cl v.1 v.2 w))) ∧
  (∀ (s : State) (o : MemOp) (m : Nat) (w : Warp), s.op? o.id = some o → o.kind = .tld m → (∀ p ∈ o.parts, p.st = .done) →
    o.due ≤ s.clk → o.returned = false → o.acq = false → s.forwarding o = false → s.warp? o.w = some w →
    (w.tile m).inflight = some o.id → m < w.tiles.length → w.live ≠ [] →
    let image (tang : Nat) (sc : Bool) : Memory := (o.parts.filter fun p => p.tang == tang && (decide (p.off ≥ scaleOff) == sc)).foldl
      (fun d p => memWrite d (if sc then p.off - scaleOff else p.off) p.data) []
    Does (.tileLoadLanded o.id) s fun t => t.home = s.home ∧ t.ops = s.ops.filter (·.id != o.id) ∧ ∃ y, t.warp? o.w = some y ∧
      y.ld = w.ld - 1 ∧ y.tl = w.tl - 1 ∧ (∀ k, k ≠ m → y.tile k = w.tile k) ∧ y.threads = w.threads ∧ y.graph = w.graph ∧
      y.tile m = { w.tile m with data := image 0 false, scales := image 0 true, shData := image 1 false, shScales := image 1 true
                                 inflight := none }) ∧
  (∀ (s : State) (o : MemOp) (l : Nat) (u : Placed), s.op? o.id = some o → o.kind = .xlr l →
    s.unit? o.w.unit = some u → s.xlrBefore o.w.unit o.w.wg l o.group = false → s.copyBefore o.w.unit o.w.wg l o.group = false →
    let issue := s.ops.filter (·.group == o.group)
    (∀ x ∈ issue, x.ready s.clk = true ∧ x.waitSt = []) →
    exec (.xlrComplete o.id) s = .next (issue.foldl (fun t x =>
      ((t.loadHandles u l (issue.any fun y => s.badRecords u y != []) x).modWarp x.w fun w => { w with xf := w.xf - 1 }).dropOp x.id) s) ∧
    ∀ (ln : Nat) (w : Warp) (g : Workgroup), issue = [o] → o.lanes = [ln] → (∀ p ∈ o.parts, p.st = .done) →
      s.wg? o.w.unit o.w.wg = some g → l < g.handles.length → s.warp? o.w = some w →
      let r := BitVec.ofNat 512 (assemble (o.laneParts ln 0))
      let time := max o.tclear (maxOf ((o.laneParts ln 0).map fun p => if p.far then s.now o.core else p.time))
      (layCheck u r = none → Does (.xlrComplete o.id) s fun t => t.home = s.home ∧ t.ops = s.ops.filter (·.id != o.id) ∧
        t.handle o.w.unit o.w.wg l = some (handleOf u r time) ∧ (t.warp? o.w).map (·.xf) = some (w.xf - 1)) ∧
      ∀ k, layCheck u r = some k → Does (.xlrComplete o.id) s fun t => s.sameMemory t ∧
        t.handle o.w.unit o.w.wg l = s.handle o.w.unit o.w.wg l ∧ (t.warp? o.w).map (·.xf) = some (w.xf - 1) ∧
        t.home.faults = s.home.faults ++ [⟨s.nextId, o.group, o.w, o.pc, 0x0D, BitVec.ofNat 64 k, BitVec.ofNat 64 o.pc.toNat, [ln], [(ln, k)]⟩]) ∧
  (∀ (s : State) (c : Channel) (u : Placed), s.channel? c.pcl c.ch = some c → s.unit? c.w.unit = some u → c.started = false →
    let d := c.copy s u
    (c.copied = false → (∀ l ∈ c.dst :: c.srcs, s.xlrBefore c.w.unit c.w.wg l c.op = false) →
      d.copied = true ∧ d.dstH = s.handle c.w.unit c.w.wg c.dst ∧ d.srcH = c.srcs.map (s.handle c.w.unit c.w.wg) ∧
      ((∀ h, d.dstH = some h → h.w = true) → d.err = none → exec (.channelStart c.pcl c.ch) s = .next (s.setChannel d)) ∧
      ((∀ h, d.dstH = some h → h.w = true) → d.err ≠ none →
        exec (.channelStart c.pcl c.ch) s = .next (s.setChannel { d with started := true })) ∧
      (∀ h, d.dstH = some h → h.w = false →
        exec (.channelStart c.pcl c.ch) s = .next ((s.closeChannel d).layoutFault s.nextId c.w c.pc [c.lane] 7))) ∧
    (c.copied = true → s.xferMayStart c = true → (c.chunks ≠ 0 ∨ c.csr = true) →
      (s.heldUp u (placesOf (c.reads u c.firstReads)) = true → exec (.channelStart c.pcl c.ch) s = .next s) ∧
      (s.heldUp u (placesOf (c.reads u c.firstReads)) = false → ∀ w, s.warp? c.w = some w →
        exec (.channelStart c.pcl c.ch) s =
          .next ((s.setChannel { c with started := true, vis := (visTime w.tags c.mask).getD 0 }).newOp fun id =>
            MemOp.plain c.w (engineCore c.pcl c.ch) c.pc (.xread c.pcl c.ch) [c.lane] (c.reads u c.firstReads) id))) ∧
    (∀ w, s.warp? c.w = some w → visReached w.tags c.mask (s.clockOf (.transfer c.pcl)) = false → s.xferMayStart c = false) ∧
    (c.copied = true → s.xferMayStart c = true → c.chunks = 0 → c.csr = false →
      exec (.channelStart c.pcl c.ch) s = .next (s.xferDone c)) ∧
    (c.copied = true → s.xferMayStart c = false → exec (.channelStart c.pcl c.ch) s = .next s)) ∧
  ∀ (s : State) (c : Channel) (u : Placed), s.channel? c.pcl c.ch = some c → s.unit? c.w.unit = some u → c.started = true →
    (∀ o ∈ s.ops, o.kind.writes c.pcl c.ch = true → o.w = c.w) →
    let does (t : State) : Prop := exec (.chunkLand c.pcl c.ch) s = .next t
    let lands (o : MemOp) : Bool := c.writing o && c.mayLand s o
    (∀ o, s.ops.find? (fun o => c.owns o && o.parts.any Part.failing) = some o →
      does ((s.sendFault o [c.lane]).closeChannel c)) ∧
    ((∀ o ∈ s.ops, c.owns o = true → ∀ p ∈ o.parts, p.failing = false) →
      (∀ o, s.ops.find? lands = some o → s.landAhead c = false → does (s.landChunk c o)) ∧
      ((∀ o ∈ s.ops, lands o = false) → c.written < c.chunks → c.err = none →
        (∀ ws, c.chunk (c.source s) c.written = .write ws → does (s.commitChunk c u ws none)) ∧
        (∀ xs, c.chunk (c.source s) c.written = .need xs → does (s.moreReads c u xs)) ∧
        (∀ ws line posts, c.chunk (c.source s) c.written = .over ws line posts →
          does (s.commitChunk c u ws (some (3, c.dstLay.cap, line)))) ∧
        ∀ kind extent chunk, c.chunk (c.source s) c.written = .stop kind extent chunk →
          does (s.setChannel { c with err := some (kind, extent, chunk), chunks := c.written })) ∧
      ((∀ o ∈ s.ops, lands o = false) → c.chunks = 0 → c.csr = true → c.err = none →
        (csrCheck (c.lay 0) (c.source s) = .write [] → does (s.xferDone c)) ∧
        ∀ kind extent chunk, csrCheck (c.lay 0) (c.source s) = .stop kind extent chunk →
          does (s.setChannel { c with err := some (kind, extent, chunk), chunks := c.written })) ∧
      ((∀ o ∈ s.ops, c.writing o = false) → c.written ≥ c.chunks →
        (c.err = none → (c.chunks ≠ 0 ∨ c.csr = false) → does (s.xferDone c)) ∧
        (∀ k x y, c.err = some (k, x, y) → (k ≠ 3 ∨ c.chunks ≠ 0 ∨ c.csr = false) → s.landAhead c = false → does (s.errorEvent c))))

/-! ### The Task engine's front end (R317 to R327, R333, R335, R341, R372, R399, R462) -/

/-- R317 to R323: the doorbell, the reset of a queue, NOP and SIGNAL packets accepted at HEAD, a refused packet (an unreadable ring
entry or record among the causes), and the completion of the oldest packet, which stores its signal and raises its interrupt. -/
def Obligations.Packets : Prop :=
  ∀ (s : State) (q : BitVec 5), s.queues.length = 32 →
    let x := s.queue q.toNat
    let only (t : State) (y : Queue) : Prop := t.units = s.units ∧ t.queue q.toNat = y ∧ ∀ k, k ≠ q.toNat → t.queue k = s.queue k
    (∀ v, Does (.tail q v) s fun t => t.home = s.home ∧ t.works = s.works ∧ only t { x with tail := v }) ∧
    (Does (.reset q) s fun t => t.home = s.home ∧ t.works = s.works ∧ only t { x with head := x.tail, halted := false, seq := 0 }) ∧
    (∀ v i, serves s q.toNat → atHead s q.toNat v → malformed v = false →
      (i = .nopPacket q ∧ v % 2 ^ 8 = 0 ∨ i = .signal q ∧ v % 2 ^ 8 = 3) →
      Does i s fun t => t.home = { s.home with tlb := t.home.tlb } ∧ t.works = s.works ∧ t.pass = q.toNat + 1 ∧ only t { x with
        head := x.head + 1, packets := x.packets ++ [packetOf v (BitVec.ofNat 64 (v / 2 ^ 136)) true none 0] }) ∧
    (∀ i, serves s q.toNat → (i = .nopPacket q ∨ i = .launch q ∨ i = .job q ∨ i = .signal q) →
      (x.size.toNat < 4 ∨ x.size.toNat > 20 ∨ (x.tail - x.head).toNat > 2 ^ x.size.toNat ∨
        s.readPacket q.toNat = .bad ∨ ∃ v, atHead s q.toNat v ∧ (malformed v = true ∨
          i = .launch q ∧ v % 2 ^ 8 = 1 ∧ s.readRec x.ctx.toNat (v / 2 ^ 64 % 2 ^ 72) 256 = .bad ∨
          i = .job q ∧ v % 2 ^ 8 = 2 ∧ s.readRec x.ctx.toNat (v / 2 ^ 64 % 2 ^ 72) 128 = .bad)) →
      Does i s fun t => t.works = s.works ∧ t.irqs = (32 + q.toNat) :: s.irqs ∧ only t { x with halted := true, seq := x.seq + 1 }) ∧
    ∀ (p : Packet) (ps : List Packet), x.packets = p :: ps → s.packetDone p = true →
      let irqs := if p.irq then q.toNat :: s.irqs else s.irqs
      (p.sigaddr = 0 → Does (.packetCompletion q) s fun t => t.home = s.home ∧ t.irqs = irqs ∧
        t.works = s.works.filter (fun w => some w.id != p.work) ∧ only t { x with packets := ps }) ∧
      (p.sigaddr % 8 ≠ 0 → Does (.packetCompletion q) s fun t => t.irqs = (if p.irq then [q.toNat] else []) ++ (32 + q.toNat) :: s.irqs ∧
        t.works = s.works.filter (fun w => some w.id != p.work) ∧ only t { x with packets := ps, seq := x.seq + 1 }) ∧
      ∀ a pa, p.sigaddr ≠ 0 → p.sigaddr % 8 = 0 → s.mapAddr x.ctx.toNat p.sigaddr 8 = some (.local, a) → a % 256 + 8 ≤ 256 →
        writable s x.ctx.toNat a 8 pa → Does (.packetCompletion q) s fun t => wrote s t pa (natBytes 8 p.sigval.toNat) ∧
          t.irqs = irqs ∧ t.works = s.works.filter (fun w => some w.id != p.work) ∧ t.queue q.toNat = { x with packets := ps }

/-- R319, R320, R324, R326, R327, R333, R335, R341, R372, R399: a LAUNCH or JOB packet accepted starts its work, with the
identifier of R327, when nothing makes it wait; a record that fails its checks completes with one record posted and no work
done; a packet that waits starts once every earlier one has completed; JSUB's job starts as a packet's does. -/
def Obligations.LaunchesAndJobs : Prop :=
  (∀ (s : State) (q : BitVec 5) (v rv type : Nat) (i : Instr) (checked : Checked), s.queues.length = 32 →
    serves s q.toNat → atHead s q.toNat v → malformed v = false → v % 2 ^ 8 = type → rv < 2 ^ 2048 →
    let x := s.queue q.toNat
    let made (started : Bool) (work : Option Nat) : Packet := packetOf v (launchId s v) started work (BitVec.ofNat 2048 rv)
    let target := v / 2 ^ 64 % 2 ^ 72
    (type = 1 ∧ i = .launch q ∧ s.readRec x.ctx.toNat target 256 = .val rv ∧
        s.checkLaunch x.ctx.toNat rv (rv % 2 ^ 72) 0x21 false = checked ∨
      type = 2 ∧ i = .job q ∧ s.readRec x.ctx.toNat target 128 = .val rv ∧ s.checkJob x.ctx.toNat rv = checked) →
    let took (t : State) (p : Packet) (seq : Nat) : Prop := t.units = s.units ∧
      t.nextLaunch = (if v / 2 ^ 136 % 2 ^ 64 = 0 then s.nextLaunch + 1 else s.nextLaunch) ∧
      t.queue q.toNat = { x with head := x.head + 1, packets := x.packets ++ [p], seq := seq } ∧
      ∀ k, k ≠ q.toNat → t.queue k = s.queue k
    let goes : Prop := v / 2 ^ 8 % 2 = 0 ∨ ∀ p ∈ x.packets, s.packetDone p = true
    (goes → ∀ code d, checked = .bad code d → Does i s fun t => t.works = s.works ∧
      t.irqs = (32 + q.toNat) :: s.irqs ∧ took t (made true none) (x.seq + 1)) ∧
    (goes → type = 1 → ∀ c ws, checked = .ok c ws → Does i s fun t => t.home = { s.home with tlb := t.home.tlb } ∧
      took t (made true (some s.nextId)) x.seq ∧ ∃ w, t.works = s.works ++ [w] ∧ w.id = s.nextId ∧
        w.launchid = launchId s v ∧ w.queue = q.toNat ∧ w.ctx = x.ctx.toNat ∧ w.cfg = c ∧ w.windows = ws ∧ w.job = none ∧
        w.grid = recGrid rv ∧ w.pos = List.replicate ((recGrid rv).1 * (recGrid rv).2.1 * (recGrid rv).2.2) .waiting) ∧
    (goes → type = 2 → ∀ c ws, checked = .ok c ws → (cardJob target rv).gainMode = false → Does i s fun t => t.home = { s.home with tlb := t.home.tlb } ∧
      took t (made true (some s.nextId)) x.seq ∧ ∃ w, t.works = s.works ++ [w] ∧ w.id = s.nextId ∧
        w.launchid = launchId s v ∧ w.queue = q.toNat ∧ w.cfg = c ∧ w.windows = ws ∧ w.job = some (cardJob target rv) ∧ w.gains = [] ∧
        w.pos = List.replicate (cardJob target rv).count .waiting ∧ w.dealt = 0 ∧ w.resid = (BitVec.ofNat 128 (rv / 2 ^ 896)).toInt ∧
        w.deques = (s.jobClusters (cardJob target rv)).map fun p => (p, [])) ∧
    (goes → type = 2 → ∀ c ws (g : Nat → Nat), checked = .ok c ws → (cardJob target rv).gainMode = true →
      (∀ k < (cardJob target rv).count, s.readRec x.ctx.toNat ((cardJob target rv).recAt k + (cardJob target rv).goff) 8 = .val (g k)) →
      Does i s fun t => t.home = { s.home with tlb := t.home.tlb } ∧ took t (made true (some s.nextId)) x.seq ∧ ∃ w, t.works = s.works ++ [w] ∧
        w.cfg = c ∧ w.job = some (cardJob target rv) ∧ w.stopped = (if ∃ y ∈ w.gains, gainPositive y.gain = true then 0 else 2) ∧
        w.gains = (List.range (cardJob target rv).count).map fun k => ⟨BitVec.ofNat 32 (g k), 0, s.homeDie k, false, none, []⟩) ∧
    (¬ goes → Does i s fun t => t.works = s.works ∧ t.home = { s.home with tlb := t.home.tlb } ∧ took t (made false none) x.seq)) ∧
  (∀ (s : State) (q : BitVec 5) (k : Nat) (p : Packet) (c : LaunchCfg) (ws : List Window), s.queues.length = 32 →
    (s.queue q.toNat).packets[k]? = some p → p.started = false → p.type = 1 →
    (∀ j < k, ∀ o, (s.queue q.toNat).packets[j]? = some o → o.started = true ∧ s.packetDone o = true) →
    let rv := p.record.toNat
    s.checkLaunch (s.queue q.toNat).ctx.toNat rv (rv % 2 ^ 72) 0x21 false = .ok c ws →
    Does (.launch q) s fun t => t.home = { s.home with tlb := t.home.tlb } ∧ (t.queue q.toNat).head = (s.queue q.toNat).head ∧
      (t.queue q.toNat).packets[k]? = some { p with started := true, work := some s.nextId } ∧
      ∃ w, t.works = s.works ++ [w] ∧ w.id = s.nextId ∧ w.cfg = c ∧ w.launchid = p.id) ∧
  ∀ (s : State) (o : MemOp) (q ctx dst lane ea given v : Nat) (rest : List (Nat × Nat × Nat)) (c : LaunchCfg) (ws : List Window),
    s.op? o.id = some o → o.kind = .jsub q ctx dst ((lane, ea, given) :: rest) → s.taskReady o = true →
    s.laneFirst o = true → s.watch.feHalted = false → s.watch.fePass = false → (∀ b ∈ s.watch.bps, b.en = false) → s.childJobs ctx < 64 →
    s.readRec ctx ea 128 = .val v → s.checkJob ctx v = .ok c ws → (cardJob ea v).gainMode = false →
    let id := if given = 0 then s.nextLaunch else BitVec.ofNat 64 (given - 1)
    Does (.jobSubmit o.id) s fun t => t.home = { s.home with tlb := t.home.tlb } ∧
      t.nextLaunch = (if given = 0 then s.nextLaunch + 1 else s.nextLaunch) ∧
      t.op? o.id = (if rest = [] then none else some { o with kind := .jsub q ctx dst rest }) ∧
      (∃ w, t.works = s.works ++ [w] ∧ w.child = true ∧ w.queue = q ∧ w.ctx = ctx ∧ w.job = some (cardJob ea v) ∧ w.cfg = c ∧
        w.launchid = id) ∧
      (o.returned = true → t.units = s.units) ∧
      ∀ (u : Placed) (x : Warp), o.returned = false → s.unit? o.w.unit = some u → s.warp? o.w = some x →
        let y := x.applyWrites [(lane, [.g dst (BitVec.ofNat 32 id.toNat) (List.replicate u.cfg.d 0) 0])]
        t.warp? o.w = some (if rest = [] then y.clearSb [.g dst] else y)

/-! ### Placement, dispatch and retirement (R320, R328 to R346, R354, R371, R376, R378, R382 to R384, R393 to R400) -/

/-- R90, R328 to R331, R349, R354, R382 to R384: a launch's windows are made resident before its first cluster, and loaded again at
each placement; a cluster of the launch
whose turn it is takes the lowest-numbered fitting cores of the first physical cluster after the one last used, all its
workgroups at once, in their dispatch state; a wave is placed whole or not at all. -/
def Obligations.GridPlacement : Prop :=
  ∀ (s : State) (w : Work), s.work? w.id = some w → w.job = none →
    (∀ i, w.winResident = false → w.finished = false →
      let spans := holdSpans w.cfg.d (w.windows.take 8) none
      (∀ t held, (w.req none).waiting = false → s.hold w.ctx spans (w.req none).held = .done t held →
        Does (.residencyHold w.id i) s fun u => u.home = t.home ∧ u.units = s.units ∧ ∃ x, u.work? w.id = some x ∧ x.winResident = true ∧
          x.pos = w.pos ∧ (x.req none).held = held) ∧
      (∀ t held ia, (w.req none).waiting = false → s.hold w.ctx spans (w.req none).held = .missing t held ia →
        Does (.residencyHold w.id i) s fun u => u.units.length = s.units.length ∧ ∃ x, u.work? w.id = some x ∧ x.winResident = false ∧
          (x.req none).waiting = true ∧ ((w.req none).posted ≠ some ia → u.irqs = (32 + w.queue) :: s.irqs) ∧
          ((w.req none).posted = some ia → u.irqs = s.irqs)) ∧
      ((w.req none).waiting = true → exec (.residencyHold w.id i) s = .next s)) ∧
    (∀ n pcl slot ws, s.gridNext w = some n → s.choose w.cfg = some pcl → s.topPriority w = true → s.itsTurn w = true →
      s.launchWins w = .ok ws → s.freeSave w.ctx = some slot → codeReads s w.cfg w.ctx →
      Does (.clusterPlace w.id) s fun t => t.lastPcl = some pcl ∧ t.work? w.id = some (w.setPos n .placed) ∧
        natGet t.turns w.cfg.priority = w.queue + 1 ∧
        seats s t ⟨w, w.virt n, ws ++ List.replicate 8 Window.unused, none, 0, (s.fitting w.cfg pcl).take w.cfg.csize, pcl, slot, false⟩) ∧
    (s.topPriority w = false ∨ s.itsTurn w = false ∨ s.choose w.cfg = none → exec (.clusterPlace w.id) s = .next s) ∧
    ∀ a ranks, s.waveNext w = some (a, ranks) → s.topPriority w = true → s.itsTurn w = true → (s.launchWins w).failed = none →
      ((s.placeWave w a ranks).isSome = true → Does (.wavePlace w.id) s fun t => t.units.length = s.units.length + ranks.length ∧
        ∃ x, t.work? w.id = some x ∧ x.wave = w.wave + 1 ∧ x.waveA = some a ∧ ∀ r ∈ ranks, x.pos[r]? = some .placed) ∧
      (s.placeWave w a ranks = none → exec (.wavePlace w.id) s = .next s)

/-- R335, R336, R338, R339, R341, R342, R344, R354: a chunk is dealt to an empty deque; a task's pages are held; an owner pops the
bottom entry and its task runs as one workgroup with its ranges as windows; a thief takes the upper half of a deque; a die
dispatches its task of largest gain; an idle die takes one from the busiest. A task whose record fails its checks does not
run. -/
def Obligations.TaskDispatch : Prop :=
  ∀ (s : State) (w : Work) (j : JobCfg), s.work? w.id = some w → w.job = some j → w.finished = false →
    let seated (t : State) (i pcl slot : Nat) (r : TaskRec) (ws : List Window) (arg : Option (Nat × Nat × Space × Nat)) : Prop :=
      ∃ core cs, s.fitting w.cfg pcl = core :: cs ∧ seats s t ⟨w, i, ws, arg, r.user, [core], pcl, slot, false⟩
    let loads (i slot : Nat) (r : TaskRec) (ws : List Window) (arg : Option (Nat × Nat × Space × Nat)) : Prop :=
      s.taskRec w j i = some r ∧ s.taskLoad w j i r = some (ws, arg) ∧ s.freeSave w.ctx = some slot ∧ codeReads s w.cfg w.ctx ∧
        w.pos[i]? = some .holding
    (∀ i spans t held, s.taskSpans w j i = some spans → w.mayHold j i = true → s.taskBusy w j i = false →
      (w.req (some i)).waiting = false → s.hold w.ctx spans (w.req (some i)).held = .done t held →
      Does (.residencyHold w.id i) s fun u => u.home = { t.home with tlb := u.home.tlb } ∧ u.units = s.units ∧
        ∃ x, u.work? w.id = some x ∧ x.pos = (w.setPos i .holding).pos ∧ (x.req (some i)).held = held) ∧
    (j.gainMode = false →
      (∀ pcl, w.deque pcl = some [] → w.dealt < j.count → 0 < j.minchunk →
        let a := w.deques.length
        let n := min (min (max j.minchunk ((j.count - w.dealt + 2 * a - 1) / (2 * a))) (j.count - w.dealt)) 4096
        Does (.chunkDeal w.id pcl) s fun t => t.home = s.home ∧ t.units = s.units ∧
          t.work? w.id = some { w.setDeque pcl ((List.range n).map (w.dealt + ·)) with dealt := w.dealt + n }) ∧
      (∀ pcl i slot r ws arg, s.dequeNext w j pcl = some i → s.topPriority w = true → loads i slot r ws arg →
        s.fitting w.cfg pcl ≠ [] → Does (.dequePop w.id pcl) s fun t => seated t i pcl slot r ws arg ∧
          t.work? w.id = some ((w.setPos i .placed).setDeque pcl (((w.deque pcl).getD []).drop 1))) ∧
      (∀ pcl i, s.dequeNext w j pcl = some i → s.topPriority w = true → s.taskBad w j i = true →
        Does (.dequePop w.id pcl) s fun t => t.units.length = s.units.length ∧ t.irqs = (32 + w.queue) :: s.irqs ∧
          ∃ x, t.work? w.id = some x ∧ x.faults = w.faults + 1 ∧ x.pos = (w.setPos i (.finished 0 true 0 false 0)).pos) ∧
      ∀ pcl p ts rest, w.deque pcl = some [] → w.dealt ≥ j.count → w.victims pcl = (p, ts) :: rest → s.ownerTakes w j p ts = false →
        (p / 12 = pcl / 12 → Does (.dequeSteal w.id pcl) s fun t => t.home = s.home ∧ t.units = s.units ∧
          t.work? w.id = some ((w.setDeque p (ts.take (ts.length / 2))).setDeque pcl (ts.drop (ts.length / 2)))) ∧
        (∀ k, p / 12 ≠ pcl / 12 → (ts.getLast?).map (s.mig w j) = some true → k ≤ ts.length →
          (∀ i ∈ ts.drop k, s.mig w j i = true) → ts.length - k ≤ (ts.length + 1) / 2 →
          (ts.length - k = (ts.length + 1) / 2 ∨ (∃ i, ts[k - 1]? = some i ∧ s.mig w j i = false)) →
          Does (.dequeSteal w.id pcl) s fun t => t.home = s.home ∧ t.units = s.units ∧
            t.work? w.id = some ((w.setDeque p (ts.take k)).setDeque pcl (ts.drop k)))) ∧
    (j.gainMode = true → ∀ die pcl i slot r ws arg g, s.gainOpen w = true → s.dieCluster w die = some pcl → loads i slot r ws arg →
      s.fitting w.cfg pcl ≠ [] → w.gains[i]? = some g →
      let ran (t : State) : Prop := seated t i pcl slot r ws arg ∧
        t.work? w.id = some { w.setPos i .placed with gains := modAt w.gains i fun g => { g with runs := g.runs + 1, running := true, home := die } }
      (w.bestGain (s.gainCands w j fun d => w.cfg.det != 0 || d == die) = some i → g.home = die → Does (.settDispatch w.id die) s ran) ∧
      (∀ b, s.busiest w = some b → b ≠ die → w.cfg.det = 0 → s.gainCands w j (· == die) = [] →
        w.bestGain ((s.gainCands w j (· == b)).filter (s.mig w j)) = some i → Does (.gainSteal w.id die) s ran))

/-- R332, R340, R343 to R346, R371, R373, R376, R378, R393 to R400: GAINADD, GAINSET, RESADD and ORDPOST take effect; a unit of which
everything has ended leaves its cores; positions are published in order, with their digests; a mismatch runs again; a job
writes its results, then STOP, and ends. -/
def Obligations.TaskEnds : Prop :=
  (∀ (s : State) (o : MemOp) (work : Nat) (w : Work), s.op? o.id = some o → s.work? work = some w →
    (∀ set idx l i v rest (g : GainRec), o.kind = .gain set work idx ((l, i, v) :: rest) → s.updateReady isGainOp o = true →
      s.updateFirst o = true → w.gains[i]? = some g →
      let x := decodeF fp32 v.toNat
      let y := decodeF fp32 g.gain.toNat
      let stored : Word := if x.isNan = true then 0x7FC00000 else v
      let sum : Word := if x.isNan = true ∨ y.isNan = true then 0x7FC00000 else BitVec.ofNat 32 (toFmt fp32 .rne false (y.add x))
      let g' : GainRec := if idx = i ∧ set = true then { g with rearm := some stored }
        else if idx = i ∨ g.running = true then { g with buffer := g.buffer ++ [(set, v)] }
        else { g with gain := if set = true then stored else sum }
      Does (.gainUpdateApply o.id) s fun t => t.home = s.home ∧ t.work? work = some { w with gains := modAt w.gains i fun _ => g' } ∧
        t.op? o.id = if rest = [] then none else some { o with kind := .gain set work idx rest }) ∧
    (∀ l v rest, o.kind = .resadd work ((l, v) :: rest) → s.updateReady isResidOp o = true → s.laneFirst o = true →
      (decodeF fp32 v.toNat).isNan = false →
      let r := w.resid + residAddend (decodeF fp32 v.toNat)
      Does (.residualUpdateApply o.id) s fun t => t.home = s.home ∧ t.units = s.units ∧ t.work? work = some { w with
        resid := max (-(2 ^ 127 - 1)) (min (2 ^ 127 - 1) r), sat := w.sat || decide (r > 2 ^ 127 - 1 ∨ r < -(2 ^ 127 - 1)) } ∧
        t.op? o.id = if rest = [] then none else some { o with kind := .resadd work rest }) ∧
    (∀ l v rest, o.kind = .resadd work ((l, v) :: rest) → s.updateReady isResidOp o = true → s.laneFirst o = true →
      (decodeF fp32 v.toNat).isNan = true → Does (.residualUpdateApply o.id) s fun t => t.work? work = some { w with sat := true, nan := true }) ∧
    ∀ l p rest, o.kind = .ordpost work ((l, p) :: rest) → s.postReady o = true → s.laneFirst o = true →
      Does (.ordpostEffect o.id) s fun t => t.home = s.home ∧
        t.work? work = some (if w.chainC = p then { w with chainC := p + 1, chainT := s.opGwct o } else w) ∧
        t.op? o.id = if rest = [] then none else some { o with kind := .ordpost work rest }) ∧
  (∀ (s : State) (w : Work) (n : Nat), s.work? w.id = some w →
    (∀ u, w.pos[n]? = some .placed → (w.unitsOf s).find? (·.idx == w.virt n) = some u → s.unitDone u = true →
      (∀ x ∈ u.stash, x.dirty = []) → Does (.retirementPublish w.id n) s fun t => t.home.mem = s.home.mem ∧
        t.units = s.units.filter (·.id != u.id) ∧ ∃ x, t.work? w.id = some x ∧ x.gwct = max w.gwct u.maxGwct ∧
          x.pos = (w.setPos n (.finished u.id u.faulted u.digest u.rerun u.maxGwct)).pos ∧
          ((s.ctx u.ctx).held = true → u.ctx < s.ctxs.length → (∀ v ∈ s.units, v.ctx = u.ctx → v.id = u.id ∨ v.state = .saved) →
            (t.ctx u.ctx).preempted = true)) ∧
    (∀ unit faulted d again time, w.pos[n]? = some (.finished unit faulted d again time) →
      let entry := s.digestAddr w (w.virt n)
      let clean : Prop := ∀ p ∈ s.home.poison, overlaps p 8 entry 8 = false
      let due : Prop := w.oldest = n ∧ w.job = none ∧ time ≤ s.clockOf .task ∧ s.updatesLeft w unit = false
      (w.oldest ≠ n → w.job.all (·.gainMode == false) = true → exec (.retirementPublish w.id n) s = .next s) ∧
      (s.clockOf .task < time → exec (.retirementPublish w.id n) s = .next s) ∧
      (s.updatesLeft w unit = true → exec (.retirementPublish w.id n) s = .next s) ∧
      (due → w.cfg.det = 0 → Does (.retirementPublish w.id n) s fun t => t.home.mem = s.home.mem ∧
        ∃ x, t.work? w.id = some x ∧ x.pos = (w.setPos n (.published faulted)).pos ∧
          (x.finished = true ↔ w.finished = true ∨ ∀ p ∈ (w.setPos n (.published faulted)).pos, p.isPublished = true) ∧
          x.faults = if faulted = true ∧ unit ≠ 0 then w.faults + 1 else w.faults) ∧
      (due → w.cfg.det = 1 → faulted = false → s.memWf → (∀ p ∈ s.home.poison, p % 8 = 0) →
        Does (.retirementPublish w.id n) s fun t => wrote s t entry (natBytes 8 d)) ∧
      (due → w.cfg.det = 2 → faulted = false → clean → bytesNat (memRead s.home.mem entry 8) = d →
        Does (.retirementPublish w.id n) s fun t => t.home.mem = s.home.mem ∧
          ∃ x, t.work? w.id = some x ∧ x.pos = (w.setPos n (.published false)).pos) ∧
      (due → w.cfg.det = 2 → faulted = false → clean → again = false → bytesNat (memRead s.home.mem entry 8) ≠ d →
        Does (.retirementPublish w.id n) s fun t => t.home = s.home ∧ t.work? w.id = some (w.setPos n .rerun)) ∧
      (due → w.cfg.det = 2 → faulted = false → (¬ clean ∨ (again = true ∧ bytesNat (memRead s.home.mem entry 8) ≠ d)) →
        Does (.retirementPublish w.id n) s fun t => t.irqs = (32 + w.queue) :: s.irqs ∧
          ∃ x, t.work? w.id = some x ∧ x.pos = (w.setPos n (.published true)).pos)) ∧
    (∀ pcl slot ws, s.launchWins w = .ok ws → w.job = none → w.pos[n]? = some .rerun → w.unitsOf s = [] → (s.ctx w.ctx).held = false → s.topPriority w = true →
      s.itsTurn w = true → s.choose w.cfg = some pcl → s.freeSave w.ctx = some slot → codeReads s w.cfg w.ctx →
      Does (.verifyRerun w.id n) s fun t => t.work? w.id = some (w.setPos n .placed) ∧ t.lastPcl = some pcl ∧
        natGet t.turns w.cfg.priority = w.queue + 1 ∧
        seats s t ⟨w, w.virt n, ws ++ List.replicate 8 Window.unused, none, 0, (s.fitting w.cfg pcl).take w.cfg.csize, pcl, slot, true⟩)) ∧
  ∀ (s : State) (w : Work) (j : JobCfg) (stop : Nat), s.work? w.id = some w → w.job = some j → w.finished = false →
    w.stopCode j = some stop →
    (∀ t, w.ending = 0 → s.writeFields w 0 ((if j.gainMode then gainFields w j else []) ++ resultFields w j) = some t →
      Does (.jobEnd w.id) s fun r => r.home = t.home ∧ ∃ x, r.work? w.id = some x ∧ x.ending = 1) ∧
    (∀ a pa, w.ending = 1 → w.lost = none → s.mapAddr w.ctx (j.card + 72) 1 = some (.local, a) → writable s w.ctx a 1 pa →
      Does (.jobEnd w.id) s fun r => wrote s r pa [BitVec.ofNat 8 stop] ∧ ∃ x, r.work? w.id = some x ∧ x.ending = 2 ∧ x.lost = none) ∧
    (w.ending = 2 → w.gwct ≤ s.clockOf .task → w.reqs = [] → Does (.jobEnd w.id) s fun r => r.home = s.home ∧ r.units = s.units ∧
      (w.child = false → r.work? w.id = some { w with finished := true }) ∧ (w.child = true → r.work? w.id = none))

/-! ### Pre-emption (R27, R110, R111, R347, R353, R354, R359 to R364, R379, R384, R425, R449) -/

/-- R347, R353, R354, R359 to R364, R379, R425, R449: the commands of a context's block; a starved launch pre-empts the
cluster of lowest priority placed last; parked units are swapped out; a pre-empted unit stops, is saved and restarts at its
region heads; it is restored whole on other cores. -/
def Obligations.Preemption : Prop :=
  (∀ (s : State) (c : BitVec 8), s.ctxs.length = 256 →
    let x := s.ctx c.toNat
    let only (t : State) (y : Ctx) : Prop := t.ops = s.ops ∧ t.ctx c.toNat = y ∧ ∀ k, k ≠ c.toNat → t.ctx k = s.ctx k
    let asked (u : Placed) : Placed := { u with preemptReq := true, swapped := false }
    (Does (.preempt c) s fun t => t.home = s.home ∧ t.works = s.works ∧
      only t { x with held := true, preempted := x.preempted || decide (∀ u ∈ s.units, u.ctx = c.toNat → u.state = .saved) } ∧
      t.units = s.units.map fun u => if u.ctx = c.toNat ∧ u.state = .running then asked u else u) ∧
    (Does (.resume c) s fun t => t.home = s.home ∧ t.works = s.works ∧ t.units = s.units ∧ only t { x with held := false }) ∧
    (Does (.retry c) s fun t => t.home = s.home ∧ t.units = s.units ∧ only t x ∧ t.works = s.works.map fun w =>
      if w.ctx = c.toNat then { w with reqs := w.reqs.map fun r => { r with waiting := false } } else w) ∧
    (Does (.inval c) s fun t => t.home = s.home ∧ t.units = s.units ∧ only t { x with invbusy := true, invs := x.invs ++ [(x.ivbase, x.ivlog)] }) ∧
    (x.invs = [] → exec (.invalidationDone c) s = .next s) ∧
    (∀ base log rest, x.invs = (base, log) :: rest → Does (.invalidationDone c) s fun t => t.units = s.units ∧
      only t { x with invs := rest, invbusy := rest != [] } ∧ s.sameMemory t ∧
      (∀ ctx level k leaf, (ctx, level, k, leaf) ∈ t.home.tlb ↔ (ctx, level, k, leaf) ∈ s.home.tlb ∧ (ctx ≠ c.toNat ∨
        overlaps (k * 2 ^ (12 + 9 * level)) (2 ^ (12 + 9 * level)) (base.toNat * 4096) (4096 * 2 ^ log.toNat) = false)) ∧
      let under (h : Hold) : Prop := h.ctx = c.toNat ∧ overlaps h.ia (2 ^ h.log) (base.toNat * 4096) (4096 * 2 ^ log.toNat) = true
      (∀ h, h ∈ t.home.pins ↔ h ∈ s.home.pins ∧ ¬ under h) ∧
      ∀ (k : Nat) (h : Hold), s.home.holds[k]? = some h → (under h → t.home.holds[k]? = some { h with stale := true }) ∧
        (¬ under h → t.home.holds[k]? = some h))) ∧
  (∀ (s : State) (w : Work) (v : Placed), s.work? w.id = some w → s.starved w = true → s.topPriority w = true →
    (∀ u ∈ s.units, u.state = .saved ∨ u.preemptReq = false) → v ∈ s.units → v.state = .running → v.cfg.priority < w.cfg.priority →
    (∀ u ∈ s.units, u.state = .running → u.cfg.priority < w.cfg.priority →
      u = v ∨ v.cfg.priority < u.cfg.priority ∨ (v.cfg.priority = u.cfg.priority ∧ u.committed < v.committed)) →
    (v.cfg.det = 0 → Does (.priorityPreempt w.id) s fun t => t.home = s.home ∧ t.works = s.works ∧ t.ctxs = s.ctxs ∧
      t.units = s.units.map fun u => if u.id = v.id ∧ u.state = .running then { u with preemptReq := true, swapped := false } else u) ∧
    (v.cfg.det ≠ 0 → (∃ y, s.work? v.work = some y ∧ y.job = none) → Does (.priorityPreempt w.id) s fun t => t.home = s.home ∧
      t.units = s.units.map fun u =>
        if (u.id = v.id ∨ u.work = v.work) ∧ u.state = .running then { u with preemptReq := true, swapped := false } else u)) ∧
  (∀ (s : State) (u : Placed), s.unit? u.id = some u → u.state = .running → u.preemptReq = false → u.cfg.det = 0 →
    (∃ w ∈ s.works, s.workReady w = true) → (∃ g ∈ u.wgs, ∃ w ∈ g.warps, ∃ t ∈ w.threads, t.exited = false) →
    ((∀ g ∈ u.wgs, ∀ w ∈ g.warps, ∀ t ∈ w.threads, t.exited = true ∨
        ((t.busy ≠ none ∨ t.ordPos ≠ none) ∧ ∃ k, t.parked = some k ∧ k + 4096 ≤ s.now g.core)) →
      Does (.swapOut u.id) s fun t => t.home = s.home ∧ t.ops = s.ops ∧ t.unit? u.id = some { u with preemptReq := true, swapped := true }) ∧
    ((∃ g ∈ u.wgs, ∃ w ∈ g.warps, ∃ t ∈ w.threads, t.exited = false ∧ (t.parked = none ∨ t.busy = none ∧ t.ordPos = none)) →
      exec (.swapOut u.id) s = .next s)) ∧
  (∀ (s : State) (u : Placed), s.unit? u.id = some u →
    (∀ ok, u.state = .running → u.preemptReq = true → (u.swapped = false ∨ s.longParked u = true) →
      (s.mayStop u = true → Does (.preemptionSave u.id ok) s fun t => t.home = s.home ∧
        (∀ o, o ∈ t.ops ↔ o ∈ s.ops ∧ ∀ v ∈ s.stopSet u, o.w.unit ≠ v.id ∨ o.kind.dropped v.swapped = false) ∧
        (∀ v ∈ s.stopSet u, (t.unit? v.id).map (·.state) = some .stopping) ∧
        ∃ v, t.unit? u.id = some v ∧ v.state = .stopping ∧ v.spad = u.spad ∧ v.stash = u.stash ∧ v.saveSlot = u.saveSlot) ∧
      (s.mayStop u = false → exec (.preemptionSave u.id ok) s = .next s)) ∧
    (∀ ok, u.state = .running → u.preemptReq = true → u.swapped = true → s.longParked u = false →
      Does (.preemptionSave u.id ok) s fun t => t.home = s.home ∧ t.ops = s.ops ∧
        t.unit? u.id = some { u with preemptReq := false, swapped := false }) ∧
    (∀ ok, u.state = .stopping → s.stopDone u = true → u.anyThread (!·.exited) = false →
      Does (.preemptionSave u.id ok) s fun t => t.home = s.home ∧ t.unit? u.id = some { u with state := .running, preemptReq := false }) ∧
    (∀ w : Work, u.state = .stopping → s.stopDone u = true → u.anyThread (!·.exited) = true → (∀ x ∈ u.stash, x.dirty = []) →
      s.work? u.work = some w →
      (s.slotBad u (s.saveImage u) = false → Does (.preemptionSave u.id true) s fun t =>
        t.home = (s.slotWrite u (s.saveImage u)).home ∧ (∀ c ∈ t.cores, c.id ∈ u.wgs.map (·.core) → c.l1 = []) ∧
        (t.ctx u.ctx).preempted = ((s.ctx u.ctx).preempted ||
          decide (u.ctx < s.ctxs.length ∧ ∀ x ∈ s.units, x.ctx = u.ctx → x.id = u.id ∨ x.state = .saved)) ∧
        ∃ v, t.unit? u.id = some v ∧ v.state = .saved ∧ v.preemptReq = false ∧ v.swapped = u.swapped ∧ v.gwct = u.maxGwct ∧
          ∀ (gi wi l : Nat) (g : Workgroup) (x : Warp) (th : Thread), u.wgs[gi]? = some g → g.warps[wi]? = some x → x.threads[l]? = some th →
            ∃ (g' : Workgroup) (x' : Warp) (th' : Thread), v.wgs[gi]? = some g' ∧ g'.warps[wi]? = some x' ∧ x'.threads[l]? = some th' ∧ g'.bars = g.bars ∧
              g'.handles = g.handles ∧ x'.mxstat = x.mxstat ∧ x'.ckpt = x.ckpt ∧ x'.graph = [] ∧ x'.sb = [] ∧ x'.gwct = 0 ∧
              x'.digest = (if x.live = [] then x.digest else 0) ∧ th'.hints = Hints.none ∧ th'.exited = th.exited ∧ th'.ckpt = th.ckpt ∧
              th'.parked = th.parked ∧ th'.ordPos = th.ordPos ∧ th'.matched = th.matched ∧ (th.exited = true → th'.draws = th.draws)) ∧
      Does (.preemptionSave u.id false) s fun t => t.irqs = (32 + u.queue) :: s.irqs ∧ t.unit? u.id = none ∧
        (u.ctx < s.ctxs.length → (t.ctx u.ctx).failed = true) ∧
        ∃ x, t.work? u.work = some x ∧ x.pos = (w.setPos (w.posOf u.idx) (.finished u.id true 0 u.rerun u.maxGwct)).pos)) ∧
  ∀ (s : State) (u : Placed) (w : Work), s.unit? u.id = some u → s.work? u.work = some w → s.restorable u = true →
    s.topPriority w = true → (w.job = none → s.itsTurn w = true) → s.reloadBusy u w = false →
    (s.slotPoisoned u (s.restoreSpans u) = true → Does (.clusterRestore u.id true) s fun t => t.irqs = (32 + u.queue) :: s.irqs ∧
      t.unit? u.id = none ∧ (u.ctx < s.ctxs.length → (t.ctx u.ctx).failed = true)) ∧
    (s.slotPoisoned u (s.restoreSpans u) = false → s.reloadWins u w = none → Does (.clusterRestore u.id true) s fun t =>
      t.irqs = (32 + u.queue) :: s.irqs ∧ t.unit? u.id = none) ∧
    ∀ ws arg, s.slotPoisoned u (s.restoreSpans u) = false → s.reloadWins u w = some (ws, arg) →
      (∀ pcl, (w.job.isSome = true ∨ w.cfg.det = 0) → u.cfg.det = 0 → codeReads s u.cfg u.ctx → s.choose u.seatCfg = some pcl →
        Does (.clusterRestore u.id true) s fun t => t.home = { s.home with tlb := t.home.tlb } ∧ t.lastPcl = some pcl ∧
          (∀ o, o ∈ t.ops ↔ o ∈ s.ops ∧ (o.w.unit ≠ u.id ∨ o.kind.dropped false = false)) ∧
          (u.ctx < s.ctxs.length → (t.ctx u.ctx).preempted = false) ∧
          ∃ v, t.unit? u.id = some v ∧ v.state = .running ∧ v.pcl = pcl ∧ v.swapped = false ∧ v.preemptReq = false ∧
            v.committed = s.nextId ∧ v.windows = ws ∧ v.arg = arg ∧ v.spad = memWrite [] 0 (s.slotRead u (2 ^ 20) u.spadSize) ∧
            ∀ (gi : Nat) (g : Workgroup), u.wgs[gi]? = some g → ∃ g' : Workgroup, v.wgs[gi]? = some g' ∧ g'.bars = g.bars ∧
              g'.handles = g.handles ∧ (g'.core = noCore ∨ g'.core ∈ (s.fitting u.seatCfg pcl).take u.seatCfg.csize) ∧
              ∀ (wi : Nat) (x : Warp), g.warps[wi]? = some x → ∃ x' : Warp, g'.warps[wi]? = some x' ∧ x'.mxstat = x.mxstat ∧
                (x.live ≠ [] → x.ckpt ≠ none → (∀ n < u.cfg.tiles, (∃ e ∈ liveEntries u.cfg x'.threads, e.m.getLsbD n = true) →
                  x'.tiles[n]? = some (s.slotTile u (warpSlot gi wi) n))) ∧
                ∀ (l : Nat) (th : Thread), x.threads[l]? = some th → ∃ th' : Thread, x'.threads[l]? = some th' ∧
                  let o := threadSlot gi wi l
                  let pc := bytesNat (s.slotRead u o 9)
                  let regs := s.listed u pc (bytesNat (s.slotRead u (o + 9) 2))
                  th'.exited = (bytesNat (s.slotRead u (o + 3360) 8) % 2 == 1) ∧ th'.hints = Hints.none ∧ th'.matched = none ∧
                  (th.ckpt = none → th'.pc = u.cfg.entry ∧ th'.draws = (if th'.exited = true then th.draws else 0) ∧
                    th'.g = (List.range u.cfg.gregs).map (preload u w.job.isSome gi wi l)) ∧
                  (th.ckpt ≠ none → th'.exited = false → th'.pc = BitVec.ofNat 72 pc ∧
                    th'.draws = BitVec.ofNat 34 (bytesNat (s.slotRead u (o + 11) 5)) ∧
                    (∀ n < u.cfg.gregs, th'.g[n]? = some (if n ∈ regs.1 then s.slotG u o n else GReg.zero u.cfg)) ∧
                    (∀ n < 8, th'.a[n]? = some (if n ∈ regs.2.1 then s.slotA u o n else AReg.zero)) ∧
                    ∀ n < 7, th'.p[n]? = some (if n ∈ regs.2.2 then s.slotP u o n else ⟨false, 0⟩))) ∧
      (w.cfg.det ≠ 0 → w.job = none → u.rerun = false →
        ((∃ v ∈ w.unitsOf s, s.slotPoisoned v (s.restoreSpans v) = true) → Does (.clusterRestore u.id true) s fun t =>
          ∀ v ∈ w.unitsOf s, s.slotPoisoned v (s.restoreSpans v) = true → t.unit? v.id = none) ∧
        ((∀ v ∈ w.unitsOf s, s.slotPoisoned v (s.restoreSpans v) = false) → (∀ v ∈ w.unitsOf s, s.reloadBusy v w = false) →
        (∀ t, (∀ v ∈ w.unitsOf s, s.restorable v = true) → s.restoreWave w (w.waveA.getD 1) (w.unitsOf s) = some t →
          exec (.clusterRestore u.id true) s = .next (t.tookTurn w)) ∧
        ((∃ v ∈ w.unitsOf s, s.restorable v = false) ∨ s.restoreWave w (w.waveA.getD 1) (w.unitsOf s) = none →
          exec (.clusterRestore u.id true) s = .next s))) ∧
      (s.choose u.seatCfg = none → (w.job.isSome = true ∨ w.cfg.det = 0) → exec (.clusterRestore u.id true) s = .next s)

/-! ### The Watch engine's events (R5, R6, R317, R347, R460 to R478) -/

/-- R5, R6, R317, R460 to R478: the debug commands act on the named workgroup; FE_RESUME accepts the held packet; a register
write changes the fields that the host may write; samples and trace records take ring places and are written there; dumps
start and end. -/
def Obligations.WatchEvents : Prop :=
  (∀ (s : State) (c : BitVec 8) (u : Placed) (g : Workgroup), s.namedUnit c.toNat = some u →
    let v := s.watchWord c.toNat 0x13
    v / 2 ^ 31 % 2 = 0 → s.unit? u.id = some u → u.wgs[v % 4]? = some g → u.cfg.det = 0 →
    let dumped (t : State) (warp : Nat) : Prop := ∀ w, g.warps[warp]? = some w → s.watch.dump = none → s.watch.dumpQ = [] →
      s.watch.dslots ≠ 0 → (s.watch.dhead - s.watch.dtail).toNat ≠ s.watch.dslots.toNat → ∃ d, t.watch.dump = some d ∧
        d.ctx = c.toNat ∧ d.kind = 2 ∧ d.idx = u.idx ∧ d.launchid = u.launchid ∧ d.stoppc = 0 ∧ d.wgic = v % 4 ∧ d.entries.length = 1
    Does (.stop c) s (fun t => t.home = s.home ∧ t.ops = s.ops ∧ t.watch = s.watch ∧
      (t.unit? u.id).map (·.dumps) = some (u.dumps ++ [(2, v % 4, 0, 0, 0)]) ∧ t.wg? u.id (v % 4) = some { g with
        warps := g.warps.map fun w => { w with threads := w.threads.map fun t => { t with stopped := !t.exited } } }) ∧
    (g.stands = true → Does (.dbgResume c) s fun t => t.home = s.home ∧ t.ops = s.ops ∧ t.wg? u.id (v % 4) = some { g with
      warps := g.warps.map fun w => { w with threads := w.threads.map fun t => { t with stopped := false, step := false } } }) ∧
    (g.stands = true → Does (.capture c) s fun t => t.home = s.home ∧ t.units = s.units ∧ t.ops = s.ops ∧
      dumped t (v / 4 % 32)) ∧
    (g.stands = true → ∀ th, s.thread? ⟨u.id, v % 4, v / 4 % 32⟩ (v / 2 ^ 7 % 32) = some th → th.exited = false →
      Does (.step c) s fun t => t.home = s.home ∧ t.ops = s.ops ∧
        t.thread? ⟨u.id, v % 4, v / 4 % 32⟩ (v / 2 ^ 7 % 32) = some { th with step := true }) ∧
    (g.stands = false → exec (.dbgResume c) s = .next s ∧ exec (.capture c) s = .next s ∧ exec (.step c) s = .next s)) ∧
  (∀ (s : State) (c : BitVec 8) (u : Placed) (g : Workgroup), s.namedUnit c.toNat = some u →
    let v := s.watchWord c.toNat 0x13
    v / 2 ^ 31 % 2 = 0 → s.unit? u.id = some u → u.wgs[v % 4]? = some g → u.cfg.det ≠ 0 →
    let go (g : Workgroup) : Workgroup := { g with
      warps := g.warps.map fun w => { w with threads := w.threads.map fun t => { t with stopped := false, step := false } } }
    let only (t : State) (v : Placed) : Prop := t.home = s.home ∧ t.ops = s.ops ∧ t.watch = s.watch ∧ t.unit? u.id = some v
    (g.anyStopped = false → Does (.stop c) s fun t => only t { u with stopAt := true, dumps := u.dumps ++ [(2, v % 4, 0, 0, 0)] }) ∧
    (g.stands = true → Does (.dbgResume c) s fun t => only t { u with wgs := u.wgs.map go }) ∧
    (g.stands = true → Does (.step c) s fun t =>
      only t { u with wgs := u.wgs.map go, stepTurn := true, dumps := [(3, v % 4, v / 4 % 32, 0, 0)] })) ∧
  (∀ (s : State) (v : Nat), let q := s.watch.feQueue.toNat
    s.queues.length = 32 → s.watch.feHalted = true → s.watch.feOp = none → (s.amc.mode = 1 ∨ s.amc.mode = 3) →
    (s.queue q).waiting = true → atHead s q v → malformed v = false →
    (v % 2 ^ 8 = 0 ∨ v % 2 ^ 8 = 3 ∨ (v % 2 ^ 8 = 1 ∧ ∃ r, s.readRec (s.queue q).ctx.toNat (v / 2 ^ 64 % 2 ^ 72) 256 = .val r) ∨
      (v % 2 ^ 8 = 2 ∧ ∃ r, s.readRec (s.queue q).ctx.toNat (v / 2 ^ 64 % 2 ^ 72) 128 = .val r)) →
    Does .feResume s fun t => t.watch.feHalted = false ∧ t.watch.fePass = false ∧ t.watch.bps = s.watch.bps ∧
      (t.queue q).head = (s.queue q).head + 1) ∧
  (∀ (s : State) (w : BarWrite), s.queues.length = 32 → s.ctxs.length = 256 →
    let v := w.val.toNat
    let keeps (t : State) : Prop := t.home = s.home ∧ t.units = s.units ∧ t.ops = s.ops ∧ t.works = s.works
    (∀ q, q < 32 → w.off = 0x10000 + 0x40 * q + 28 → Does (.registerWrite w) s fun t => keeps t ∧
      t.queue q = { s.queue q with tail := w.val } ∧ ∀ k, k ≠ q → t.queue k = s.queue k) ∧
    (∀ q, q < 32 → w.off = 0x10000 + 0x40 * q + 12 → v / 2 ^ 20 % 2 = 0 → Does (.registerWrite w) s fun t => keeps t ∧
      t.queue q = { s.queue q with size := BitVec.ofNat 5 (v / 2 ^ 8), enable := v / 2 ^ 18 % 2 == 1, ctx := BitVec.ofNat 8 (v / 2 ^ 24) }) ∧
    (∀ c, c < 256 → w.off = 0x20000 + 0x40 * c + 56 → Does (.registerWrite w) s fun t => keeps t ∧
      (t.ctx c).slots.toNat = v % 2 ^ 12 ∧ (t.ctx c).save.toNat = (s.ctx c).save.toNat / 2 ^ 20 * 2 ^ 20 + v / 2 ^ 12) ∧
    (∀ c, c < 256 → w.off = 0x20000 + 0x40 * c → v % 32 = 0b00010 → Does (.registerWrite w) s fun t => keeps t ∧ (t.ctx c).held = false) ∧
    (∀ c, c < 256 → w.off = 0x30000 + 0x80 * c + 4 * 0x12 → s.memWf → Does (.registerWrite w) s fun t => keeps t ∧
      t.watchWord c 0x12 = v ∧ ∀ k, k ≠ 32 * c + 0x12 → natGet t.watch.words k = natGet s.watch.words k) ∧
    (∀ n b, w.off = 0x40008 + 16 * n → s.watch.bps[n]? = some b → n < 8 → Does (.registerWrite w) s fun t => keeps t ∧
      ∃ b', t.watch.bps[n]? = some b' ∧ b'.en = (v / 2 ^ 16 % 2 == 1) ∧ b'.mentry = (v / 2 ^ 15 % 2 == 1) ∧
        b'.mqueue = (v / 2 ^ 14 % 2 == 1) ∧ b'.queue = BitVec.ofNat 5 (v / 2 ^ 8) ∧ b'.hit = (b.hit && v / 2 ^ 17 % 2 == 0)) ∧
    (w.off = 0x4010C → Does (.registerWrite w) s fun t => keeps t ∧ t.watch = { s.watch with dtail := w.val }) ∧
    (∀ c, c < 256 → w.off = 0x30000 + 0x80 * c → (v / 2 ^ 31 % 2 = 0 ∨ v % 2 ^ 24 = 0) → Does (.registerWrite w) s fun t => keeps t ∧
      ∀ k ∈ t.cores, ∀ z ∈ k.samplers, z.ctx ≠ c) ∧
    ((w.off % 4 ≠ 0 ∨ w.off < 0x10000 ∨ w.off ≥ 0x40140) → exec (.registerWrite w) s = .next s)) ∧
  (∀ (s : State), s.barWord 0x40080 = BitVec.ofNat 32 (s.watch.feQueue.toNat * 2 ^ 16 + s.watch.feBp.toNat * 2 ^ 8 +
      (if s.watch.feHalted = true then 1 else 0)) ∧ s.barWord 0x40108 = s.watch.dhead ∧ s.barWord 0x4010C = s.watch.dtail ∧
    (∀ q, q < 32 → let x := s.queue q
      s.barWord (0x10000 + 0x40 * q + 24) = x.head ∧ s.barWord (0x10000 + 0x40 * q + 28) = x.tail ∧
      (s.barWord (0x10000 + 0x40 * q + 12)).toNat = x.ctx.toNat * 2 ^ 24 + (if x.halted = true then 2 ^ 19 else 0) +
        (if x.enable = true then 2 ^ 18 else 0) + x.size.toNat * 2 ^ 8) ∧
    ∀ c, c < 256 → let x := s.ctx c
      (s.barWord (0x20000 + 0x40 * c)).toNat = (if x.invbusy = true then 2 ^ 7 else 0) + (if x.failed = true then 2 ^ 6 else 0) +
        if x.preempted = true then 2 ^ 5 else 0) ∧
  (∀ (s : State) (core : Nat) (c : BitVec 8) (x : Sampler), (s.core core).samplers.find? (·.ctx == c.toNat) = some x →
    let period := s.watchWord c.toNat 0 % 2 ^ 24
    let given := natGet s.watch.places (2 * c.toNat)
    let n := s.watchWord c.toNat 1 % 32
    (s.watchWord c.toNat 0 / 2 ^ 31 % 2 = 1 → period ≠ 0 → x.last < s.clk → (s.clk - x.t0) % period = 0 → 4 ≤ n → n ≤ 20 →
      (∀ k ∈ s.cores, k.id < core → ∀ z ∈ k.samplers, z.ctx = c.toNat → s.sampleDue z = false) →
      (given + 2 ^ 32 - s.watchWord c.toNat 4) % 2 ^ 32 ≠ 2 ^ n → Does (.sampleTick core c) s fun t => t.home = s.home ∧
        t.units = s.units ∧ ∃ d : BitVec 256, t.watch.rings = s.watch.rings ++ [⟨c.toNat, false, given, d, 0⟩] ∧
          natGet t.watch.places (2 * c.toNat) = given + 1 ∧ d.toNat / 2 ^ 40 % 2 ^ 8 = c.toNat ∧ d.toNat / 2 ^ 30 % 2 ^ 10 = core % 2 ^ 10 ∧
          d.toNat / 2 ^ 192 = s.now core % 2 ^ 64 ∧ (s.warpsOn c.toNat core = [] → d.toNat % 2 ^ 5 = 14)) ∧
    (period = 0 ∨ s.clk ≤ x.last ∨ (s.clk - x.t0) % period ≠ 0 ∨
        (∃ k ∈ s.cores, k.id < core ∧ ∃ z ∈ k.samplers, z.ctx = c.toNat ∧ s.sampleDue z = true) →
      exec (.sampleTick core c) s = .next s)) ∧
  (∀ (s : State) (r : RingRec) (rs : List RingRec), s.watch.rings = r :: rs → s.memWf →
    let passed (t : State) : Prop := t.watch.rings = rs ∧
      t.watchWord r.ctx ((if r.trace then 8 else 0) + 3) = (s.watchWord r.ctx ((if r.trace then 8 else 0) + 3) + 1) % 2 ^ 32
    let sel := if r.trace then 8 else 0
    let a := s.watchWord r.ctx (sel + 2) % 2 ^ 20 * 2 ^ 32 + s.watchWord r.ctx (sel + 1) / 2 ^ 12 * 2 ^ 12 +
      32 * (r.place % 2 ^ (s.watchWord r.ctx (sel + 1) % 32))
    (r.written = 0 → (∀ p ∈ s.home.poison, p % 8 = 0) → Does (.ringRecordWritten 0 true) s fun t => wrote s t a (natBytes 32 r.data.toNat) ∧
      t.watch = { s.watch with rings := { r with written := s.physGwct a 32 + 1 } :: rs }) ∧
    (r.written = 0 → Does (.ringRecordWritten 0 false) s fun t => t.home = s.home ∧ passed t ∧
      t.watchWord r.ctx (sel + 5) = min (s.watchWord r.ctx (sel + 5) + 1) (2 ^ 32 - 1)) ∧
    ∀ ok, r.written ≠ 0 → (r.written ≤ s.clockOf .watch + 1 → Does (.ringRecordWritten 0 ok) s fun t => t.home = s.home ∧ passed t) ∧
      (s.clockOf .watch + 1 < r.written → exec (.ringRecordWritten 0 ok) s = .next s)) ∧
  (∀ (s : State) (r : TraceRec) (rs : List TraceRec), s.watch.made = r :: rs →
    let given := natGet s.watch.places (2 * r.ctx + 1)
    let n := s.watchWord r.ctx 9 % 32
    let full := n < 4 ∨ n > 20 ∨ (given + 2 ^ 32 - s.watchWord r.ctx 12) % 2 ^ 32 = 2 ^ n
    Does (.traceRecord r.src) s fun t => t.home = s.home ∧ t.units = s.units ∧ t.watch.made = rs ∧
      (¬ full → t.watch.rings = s.watch.rings ++ [⟨r.ctx, true, given, r.data, 0⟩]) ∧
      (full → t.watch.rings = s.watch.rings ∧ (s.watchWord r.ctx 13 < 2 ^ 32 - 1 → t.watchWord r.ctx 13 = s.watchWord r.ctx 13 + 1))) ∧
  (∀ (s : State) (d : Dump) (ds : List Dump), s.watch.dump = none → s.watch.dumpQ = d :: ds →
    (s.watch.dslots ≠ 0 → (s.watch.dhead - s.watch.dtail).toNat ≠ s.watch.dslots.toNat → Does .dumpStart s fun t =>
      t.home = s.home ∧ t.irqs = s.irqs ∧ t.watch = { s.watch with dumpQ := ds, dump := some { d with
        started := true, entries := s.fillCaptures 0 d.entries, time := s.clockOf .watch } }) ∧
    (s.watch.dslots = 0 → s.watch.ddrop ≠ 0xFFFFFFFF → Does .dumpStart s fun t => t.watch.dump = none ∧ t.watch.dumpQ = ds ∧
      t.watch.ddrop = s.watch.ddrop + 1)) ∧
  ∀ (s : State) (d : Dump), s.watch.dump = some d →
    (d.started = false → Does .dumpStart s fun t => t.home = s.home ∧ t.units = s.units ∧
      t.watch = { s.watch with dump := some { d with started := true } }) ∧
    (d.started = false → exec .dumpComplete s = .next s) ∧
    (d.started = true → Does .dumpComplete s fun t =>
    t.watch = { s.watch with dump := none, dhead := s.watch.dhead + 1 } ∧ t.units = s.units ∧
    t.irqs = ((d.entries.filterMap fun e => (e.record.filter (·.code != 0)).map fun _ => 32 + e.queue).reverse) ++ s.irqs ∧
    let slot := s.watch.dbase.toNat * 4096 + 2 ^ 20 * (s.watch.dhead.toNat % max 1 s.watch.dslots.toNat)
    s.memWf → d.entries = [] → (∀ p ∈ s.home.poison, overlaps p 8 slot 64 = false) → wrote s t slot (natBytes 64 (dumpHeader d)))

/-! ### The management controller (R2, R11, R25, R482 to R495) -/

/-- R482, R484 to R486, R488, R490, R492 to R494: a request of the vendor-defined type answers once, on its interface, under its TAG
and CMD, with LENGTH and STATUS in the header's places; its payload and its effect are those of its row; a refused command, one
whose CMD no row has among them, changes nothing beside its response and the log; an attestation request is answered with what its
row tells, the two of secure sessions refused. -/
def Obligations.ManagementCommands : Prop :=
  ∀ (s : State) (r : MgmtReq),
    let h := r.header.toNat
    let tag := h / 2 ^ 16 % 2 ^ 16
    let flags := h / 2 ^ 8 % 2 ^ 8
    let ours : Prop := r.vendor = Config.vendorId ∧ (r.iface = .doe ∧ r.type = 0x01 ∨ r.iface = .mctp ∧ r.type = 0x7E)
    let rows : List (Instr × Nat) := [(.status r, 1), (.write r, 2), (.verify r, 3), (.activate r, 4), (.retryStarts r, 5),
      (.errcnt r, 6), (.sensors r, 7), (.logread r, 8), (.abort r, 9)]
    let kept (t : State) : Prop := t.home = s.home ∧ t.units = s.units ∧ t.queues = s.queues ∧ t.works = s.works
    let answers (t : State) (cmd status : Nat) (payload : List Byte) : Prop := t.amc.responses = s.amc.responses ++
      [⟨r.iface, r.vendor, r.type, BitVec.ofNat 64 (payload.length * 2 ^ 32 + tag * 2 ^ 16 + status * 2 ^ 8 + cmd), payload, none⟩] ∧
      kept t
    let refuses (i : Instr) (cmd status : Nat) : Prop := Does i s fun t => answers t cmd status [] ∧
      t.amc = { s.amc with responses := t.amc.responses, log := t.amc.log } ∧ t.amc.log.getLast? ≠ none
    let other : Bool := !s.amc.slot
    let x := s.amc.slotN other
    let plain (cmd : Nat) : Prop := ours ∧ r.payload = [] ∧ h = tag * 2 ^ 16 + cmd
    let owned : Prop := s.amc.mode ≠ 0 ∧ s.amc.update = some r.iface
    (plain 1 → Does (.status r) s fun t => t.amc.log = s.amc.log ∧ answers t 1 0 (natBytes 8 (s.amc.enmask.toNat * 2 ^ 48 +
      s.amc.fwver.toNat * 2 ^ 16 + s.amc.reason.toNat * 2 ^ 8 + s.amc.mode.toNat * 2 ^ 6 + s.amc.fails.toNat * 2 ^ 4 +
      (if s.amc.pending then 8 else 0) + (if s.amc.slot then 4 else 0)))) ∧
    (∀ off bs, ours → r.payload = natBytes 4 off ++ bs → off < 2 ^ 32 → r.payload.length % 4 = 0 → r.payload.length ≤ 4096 →
      h = r.payload.length * 2 ^ 32 + tag * 2 ^ 16 + 2 → s.amc.mode ≠ 0 → (s.amc.update = none ∨ s.amc.update = some r.iface) →
      (off % 4 = 0 → off + bs.length ≤ 2 ^ 25 → Does (.write r) s fun t => answers t 2 0 [] ∧ t.amc.update = some r.iface ∧
        t.amc.slotN s.amc.slot = s.amc.slotN s.amc.slot ∧ t.amc.mode = (if s.amc.mode = 2 then 2 else 3) ∧
        (s.amc.slots.length = 2 → t.amc.slotN other = ⟨memWrite x.image off bs, false⟩)) ∧
      (off % 4 ≠ 0 ∨ off + bs.length > 2 ^ 25 → refuses (.write r) 2 4)) ∧
    (plain 3 → owned → Does (.verify r) s fun t => answers t 3 0 (natBytes 4 x.version ++ natBytes 4 (if x.verifies then 1 else 0)) ∧
      (s.amc.slots.length = 2 → t.amc.slotN other = { x with verified := x.verifies })) ∧
    (plain 4 → owned →
      (x.verified = true → (s.amc.slotN s.amc.slot).minver ≤ x.version → Does (.activate r) s fun t => answers t 4 0 [] ∧
        t.amc.pending = true ∧ t.amc.update = none ∧ t.amc.mode = (if s.amc.mode = 3 then 1 else s.amc.mode) ∧ t.amc.slot = s.amc.slot) ∧
      (x.verified = false ∨ x.version < (s.amc.slotN s.amc.slot).minver → refuses (.activate r) 4 2)) ∧
    (plain 9 → owned → Does (.abort r) s fun t => answers t 9 0 [] ∧ t.amc.update = none ∧ t.amc.pending = s.amc.pending ∧
      (s.amc.slots.length = 2 → t.amc.slotN other = { x with verified := false })) ∧
    (∀ i cmd, (i, cmd) ∈ [(Instr.verify r, 3), (.activate r, 4), (.abort r, 9)] → plain cmd →
      (s.amc.mode ≠ 0 → s.amc.update = none → refuses i cmd 5) ∧
      (s.amc.mode = 0 ∨ (∃ k, s.amc.update = some k ∧ k ≠ r.iface) → refuses i cmd 1)) ∧
    (plain 5 → Does (.retryStarts r) s fun t => answers t 5 0 [] ∧ t.amc.fails = 0 ∧ t.amc.pending = s.amc.pending) ∧
    (∀ f, ours → r.payload = [] → f < 2 → h = tag * 2 ^ 16 + f * 2 ^ 8 + 6 → s.amc.counters.length = 7 →
      Does (.errcnt r) s fun t => answers t 6 0 (s.amc.counters.flatMap fun c => natBytes 4 c.toNat) ∧
        t.amc.counters = if f = 1 then List.replicate 7 0 else s.amc.counters) ∧
    (plain 7 → Does (.sensors r) s fun t => answers t 7 0 s.amc.sensors) ∧
    (∀ k, ours → k < 2 ^ 32 → r.payload = natBytes 4 k → h = 4 * 2 ^ 32 + tag * 2 ^ 16 + 8 → Does (.logread r) s fun t =>
      answers t 8 0 (((s.amc.log.drop k).take 64).flatMap fun x => natBytes 64 x.toNat)) ∧
    (∀ i cmd, (i, cmd) ∈ rows →
      (ours → h % 2 ^ 8 = cmd → (h / 2 ^ 32 ≠ r.payload.length ∨ flags ≥ 2 ∨ (cmd ≠ 6 ∧ flags ≠ 0) ∨
        (cmd = 2 ∧ (r.payload.length < 4 ∨ r.payload.length > 4096 ∨ r.payload.length % 4 ≠ 0)) ∨
        (cmd = 8 ∧ r.payload.length ≠ 4) ∨ (cmd ≠ 2 ∧ cmd ≠ 8 ∧ r.payload ≠ [])) → refuses i cmd 3) ∧
      (ours → h % 2 ^ 8 = 0 ∨ h % 2 ^ 8 > 9 → refuses i (h % 2 ^ 8) 3) ∧
      (¬ ours ∨ 0 < h % 2 ^ 8 ∧ h % 2 ^ 8 ≤ 9 ∧ h % 2 ^ 8 ≠ cmd → exec i s = .next s)) ∧
    let blocks : List (Nat × List Byte) := [(1, sha3 Config.amcFirmware),
      (2, natBytes 32 (bytesNat (memRead (s.amc.slotN s.amc.slot).image 0 64) / 2 ^ 256 % 2 ^ 256)), (3, natBytes 2 s.amc.enmask.toNat),
      (4, natBytes 8 Config.encHash)]
    let op := bytesNat ((r.payload.drop 3).take 1)
    let told (t : State) (about : SpdmAnswer) : Prop := (∃ payload, t.amc.responses = s.amc.responses ++
      [⟨r.iface, r.vendor, r.type, 0, payload, some about⟩]) ∧ kept t
    (r.iface = .doe ∧ r.type = 0x01 ∧ r.vendor = 0x0001 ∨ r.iface = .mctp ∧ r.type = 0x05 →
      (∀ i about, (i, about) ∈ [(Instr.getVersion r, SpdmAnswer.version 1 3), (.getCapabilities r, .capabilities false),
          (.negotiateAlgorithms r, .algorithms [.sha3_256] [.mlDsa44]), (.getDigests r, .digests), (.getCertificate r, .certificate),
          (.challenge r, .challenge), (.getMeasurements r, .measurements 4 (if op = 0 then [] else if op = 0xFF then blocks
            else blocks.filter fun b => b.1 == op))] →
        Does i s fun t => told t about ∧ t.amc = { s.amc with responses := t.amc.responses }) ∧
      ∀ i, i ∈ [Instr.keyExchange r, .pskExchange r] → Does i s fun t => told t .unsupportedRequest ∧
        t.amc = { s.amc with responses := t.amc.responses, log := t.amc.log } ∧ t.amc.log.getLast? ≠ none)

/-- R2, R25, R327, R485, R487, R488, R491, R494, R495: a module reset leaves the reset state and starts the device; a start that
fails counts; FAILS 3 enters minimal mode; sensors are refreshed; corrections are counted; poison falls on its unit. -/
def Obligations.DeviceEvents : Prop :=
  ∀ s : State,
    let cleared (t : State) : Prop := t.tick = 0 ∧ t.units = [] ∧ t.works = [] ∧ t.ops = [] ∧ t.queues = State.reset.queues ∧
      t.ctxs = State.reset.ctxs ∧ t.nextLaunch = 1 ∧ t.watch = Watch.reset ∧ t.amc.enmask = s.amc.enmask ∧ t.home.host = s.home.host ∧
      t.amc.pending = false
    let want : Bool := if s.amc.pending then !s.amc.slot else s.amc.slot
    (¬ (s.amc.fails = 3 ∧ s.amc.pending = false) → (s.amc.slotN want).verifies = true →
      Does (.moduleReset none) s (fun t => cleared t ∧ t.amc.mode = 1 ∧ t.amc.reason = 0 ∧ t.amc.fails = 0 ∧ t.amc.slot = want ∧
        t.amc.fwver = BitVec.ofNat 32 (s.amc.slotN want).version ∧ t.amc.log.length = min 16384 (s.amc.log.length + 6)) ∧
      ∀ k : BitVec 3, 2 ≤ k.toNat → k.toNat ≤ 6 → Does (.moduleReset (some k)) s fun t => cleared t ∧ t.amc.mode = 0 ∧
        t.amc.reason = BitVec.ofNat 8 k.toNat ∧ t.amc.slot = s.amc.slot ∧
        t.amc.log.length = min 16384 (s.amc.log.length + k.toNat + if s.amc.pending = true then 1 else 0) ∧
        t.amc.fails = if s.amc.fails = 3 then 3 else s.amc.fails + 1) ∧
    (∀ f, ¬ (s.amc.fails = 3 ∧ s.amc.pending = false) → (s.amc.slotN true).verifies = false → (s.amc.slotN false).verifies = false →
      Does (.moduleReset f) s fun t => cleared t ∧ t.amc.mode = 0 ∧ t.amc.reason = 1 ∧ t.amc.slot = s.amc.slot ∧
        t.amc.fails = if s.amc.fails = 3 then 3 else s.amc.fails + 1) ∧
    (∀ f, s.amc.fails = 3 → s.amc.pending = false → Does (.moduleReset f) s fun t => cleared t ∧ t.amc.mode = 2 ∧
      t.amc.reason = s.amc.reason ∧ t.amc.fails = 3) ∧
    (∀ bs : List Byte, bs.length = 40 + 8 * bytesNat ((bs.drop 36).take 2) → Does (.sensorRefresh bs) s fun t => t.home = s.home ∧
      t.amc.sensors.length = bs.length ∧ t.amc.sensors.drop 40 = bs.drop 40 ∧ ∀ n < 16, (t.amc.sensors.drop (2 * n)).take 2 =
        if s.amc.enmask.getLsbD n then (bs.drop (2 * n)).take 2 else [0x00, 0x80]) ∧
    (∀ (i : Instr) (n : Nat) (c : Word), s.amc.counters[n]? = some c → s.amc.counters.length = 7 →
      ((n < 3 ∧ i = .softErrorCorrection (BitVec.ofNat 2 n)) ∨ (3 ≤ n ∧ n < 6 ∧ i = .flitRetry (BitVec.ofNat 2 (n - 3)))) →
      Does i s fun t => t.home = s.home ∧ t.units = s.units ∧ t.amc.log.length = min 16384 (s.amc.log.length + 1) ∧
        t.amc.counters[n]? = some (if c = 0xFFFFFFFF then c else c + 1) ∧ ∀ k, k ≠ n → t.amc.counters[k]? = s.amc.counters[k]?) ∧
    ∀ (a : Nat) (site : ErrSite), Does (.uncorrectableError a site) s fun t => t.home.mem = s.home.mem ∧ t.units = s.units ∧
      (∀ u, u ∈ t.home.poison ↔ u ∈ s.home.poison ∨ match site with
        | .unit => u = a / 8 * 8
        | .chunk => u % 8 = 0 ∧ u / 32 = a / 32
        | _ => False) ∧
      (∀ u, u ∈ t.home.hostPoison ↔ u ∈ s.home.hostPoison ∨ (site = .host ∧ u = a / 8 * 8)) ∧
      (∀ n u, (n, u) ∈ t.home.peerErrs ↔ (n, u) ∈ s.home.peerErrs ∨ (site = .peer n ∧ u = a / 8 * 8)) ∧
      ∀ c, s.amc.counters[6]? = some c → t.amc.counters[6]? = some (if c = 0xFFFFFFFF then c else c + 1)
end

