-- ==== Sys2Proof/Laws/Issue.lean ====
section
/-! SUPPORT. What the shared operations of an issue can do. -/

namespace Sys2Proof.Machine

theorem early_none {b : Bundle} {i : Instr} (h : b.free i = true) : b.early i = none := by
  simp only [Bundle.free, Bool.and_eq_true, Bool.not_eq_true', Option.isNone_iff_eq_none, List.all_eq_true,
    decide_eq_true_eq, beq_iff_eq] at h
  obtain ⟨⟨⟨⟨⟨h1, h2⟩, h3⟩, h4⟩, h5⟩, h6⟩ := h
  have h7 : i.tiles.find? (fun x => decide (x ≥ b.u.cfg.tiles)) = none := by
    rw [List.find?_eq_none]; intro x hx; have := h4 x hx; simp; omega
  simp only [Bundle.early, h1, h2, h3, h7, h5, h6]; simp

theorem bundle_cfg {s : State} {b : Bundle} (h : s.bundle? = some b) : s.issueCfg = some b.u.cfg := by
  unfold State.bundle? State.bundleOf at h
  unfold State.issueCfg
  cases hu : s.unit? s.issue.unit with
  | none => simp [hu] at h
  | some u =>
    simp only [hu] at h
    cases hg : u.wgs[s.issue.wg]? with
    | none => simp [hg] at h
    | some g =>
      simp only [hg] at h
      split at h
      · simp only [Option.map_eq_some_iff] at h
        obtain ⟨t, _, rfl⟩ := h; rfl
      · cases h

theorem issueStd_ready {s : State} {b : Bundle} {i : Instr} {body : Bundle → State → Res} (hb : s.bundle? = some b)
    (hr : b.ready i = true) : issueStd i body s = match body b s with
      | .done t => .next t
      | .wait => .next s
      | .hold t => .next t
      | .bad code hits => .next (s.takeFault b.u.id b.wg code true b.pc hits) := by
  simp only [Bundle.ready, Bool.and_eq_true, Bool.not_eq_true'] at hr
  obtain ⟨⟨h1, h2⟩, h3⟩ := hr
  simp only [issueStd, issueOn, hb, h1, early_none h2, bundle_cfg hb, Option.map_some, Option.getD_some, h3]
  simp only [Bool.not_true, Bool.false_eq_true, if_false]
  all_goals cases body b s <;> rfl

theorem mem_each {b : Bundle} {s : State} {wi : Nat} {w : Warp} {ls : List Nat} {l : Nat} {t : Thread}
    (hp : (wi, w, ls) ∈ b.parts) (hl : l ∈ ls) (ht : w.threads[l]? = some t) : b.laneCtx s wi w l t ∈ b.each s := by
  simp only [Bundle.each, List.mem_flatMap, List.mem_filterMap]
  exact ⟨_, hp, l, hl, by simp [ht]⟩

theorem mem_outs {b : Bundle} {s : State} {f : LaneCtx → LaneOut} {wi : Nat} {w : Warp} {ls : List Nat} {x : Nat × LaneOut}
    (hp : (wi, w, ls) ∈ b.parts) (hx : x ∈ b.outs s f wi w ls) : ∃ c ∈ b.each s, x = (c.lane, f c) := by
  simp only [Bundle.outs, List.mem_filterMap, Option.map_eq_some_iff] at hx
  obtain ⟨l, hl, t, ht, rfl⟩ := hx
  exact ⟨_, mem_each hp hl ht, rfl⟩

/-- Two outcomes that write, draw and latch alike on every lane of an issue are committed alike. -/
theorem commitAlu_congr {s : State} {b : Bundle} {due : Option Nat} {src : PendSrc} {f g : LaneCtx → LaneOut}
    (h : ∀ c ∈ b.each s, (f c).writes = (g c).writes ∧ (f c).draws = (g c).draws ∧ (f c).latch = (g c).latch) :
    s.commitAlu b due src f = s.commitAlu b due src g := by
  have key : ∀ (wi : Nat) (w : Warp) (ls : List Nat), (wi, w, ls) ∈ b.parts →
      (∀ (t : State), t.modWarp (b.wid wi) (fun x => retireWarp b.pc false (outOf (b.outs s f wi w ls)) ls
        (pendWarp b.pc due src (b.outs s f wi w ls) x)) =
       t.modWarp (b.wid wi) (fun x => retireWarp b.pc false (outOf (b.outs s g wi w ls)) ls
        (pendWarp b.pc due src (b.outs s g wi w ls) x))) := by
    intro wi w ls hp t
    have h1 : (b.outs s f wi w ls).map (fun x => (x.1, x.2.writes)) = (b.outs s g wi w ls).map (fun x => (x.1, x.2.writes)) := by
      simp only [Bundle.outs, List.map_filterMap]
      apply List.filterMap_congr
      intro l hl
      cases ht : w.threads[l]? with
      | none => rfl
      | some th => simp [(h _ (mem_each hp hl ht)).1]
    have h2 : ∀ l th, outOf (b.outs s f wi w ls) l th = outOf (b.outs s g wi w ls) l th := by
      intro l th
      unfold outOf
      have : ((b.outs s f wi w ls).find? (·.1 == l)).map (fun x => (x.2.draws, x.2.latch)) =
          ((b.outs s g wi w ls).find? (·.1 == l)).map (fun x => (x.2.draws, x.2.latch)) := by
        simp only [Bundle.outs, List.find?_filterMap, Option.map_bind]
        have hp' : (fun a => (Option.map (fun t => (a, f (b.laneCtx s wi w a t))) w.threads[a]?).any fun x => x.1 == l) =
            (fun a => (Option.map (fun t => (a, g (b.laneCtx s wi w a t))) w.threads[a]?).any fun x => x.1 == l) := by
          funext a; cases w.threads[a]? <;> rfl
        rw [hp']
        cases hf : ls.find? _ with
        | none => rfl
        | some k =>
          have hk := List.mem_of_find?_eq_some hf
          cases ht : w.threads[k]? with
          | none => simp [ht]
          | some th' =>
            have := h _ (mem_each hp hk ht)
            simp [ht, this.2.1, this.2.2]
      cases hf : (b.outs s f wi w ls).find? (·.1 == l) <;> cases hg : (b.outs s g wi w ls).find? (·.1 == l) <;>
        simp [hf, hg] at this ⊢
      rename_i x y
      obtain ⟨x1, x2⟩ := x; obtain ⟨y1, y2⟩ := y
      simp only at this
      simp only [outThread, this.1, this.2]
    have h2' : outOf (b.outs s f wi w ls) = outOf (b.outs s g wi w ls) := by funext l th; exact h2 l th
    have h3 : ∀ x, pendWarp b.pc due src (b.outs s f wi w ls) x = pendWarp b.pc due src (b.outs s g wi w ls) x := by
      intro x
      have h1' : (b.outs s f wi w ls).map (fun (l, o) => (l, o.writes)) = (b.outs s g wi w ls).map (fun (l, o) => (l, o.writes)) := h1
      simp only [pendWarp, h1']
    congr 1
    funext x
    rw [h2', h3]
  unfold State.commitAlu
  dsimp only
  congr 2
  have : ∀ ps : List (Nat × Warp × List Nat), (∀ p ∈ ps, p ∈ b.parts) → ∀ t : State,
      ps.foldl (fun t (x : Nat × Warp × List Nat) => t.modWarp (b.wid x.1) (fun y => retireWarp b.pc false
        (outOf (b.outs s f x.1 x.2.1 x.2.2)) x.2.2 (pendWarp b.pc due src (b.outs s f x.1 x.2.1 x.2.2) y))) t =
      ps.foldl (fun t (x : Nat × Warp × List Nat) => t.modWarp (b.wid x.1) (fun y => retireWarp b.pc false
        (outOf (b.outs s g x.1 x.2.1 x.2.2)) x.2.2 (pendWarp b.pc due src (b.outs s g x.1 x.2.1 x.2.2) y))) t := by
    intro ps
    induction ps with
    | nil => intros; rfl
    | cons p ps ih =>
      intro hm t
      simp only [List.foldl_cons]
      rw [key p.1 p.2.1 p.2.2 (hm p List.mem_cons_self), ih fun q hq => hm q (List.mem_cons_of_mem _ hq)]
  exact this b.parts (fun _ h => h) s

theorem laneFaults_outs {b : Bundle} {s : State} {f : LaneCtx → LaneOut} (wi : Nat) (w : Warp) (ls : List Nat) :
    laneFaults (b.outs s f wi w ls) = (ls.filterMap fun l => (w.threads[l]?).map (b.laneCtx s wi w l)).filterMap
      fun c => (f c).fault.map fun y => (c.lane, y) := by
  simp only [laneFaults, Bundle.outs, List.filterMap_filterMap]
  apply List.filterMap_congr
  intro l _
  cases w.threads[l]? <;> rfl

theorem outHits_none {b : Bundle} {s : State} {f : LaneCtx → LaneOut} (h : ∀ c ∈ b.each s, (f c).fault = none) :
    b.outHits s f = none := by
  have : (b.parts.filterMap fun p => firstHit p.1 (laneFaults (b.outs s f p.1 p.2.1 p.2.2))) = [] := by
    rw [List.filterMap_eq_nil_iff]
    rintro ⟨wi, w, ls⟩ hp
    have : laneFaults (b.outs s f wi w ls) = [] := by
      rw [laneFaults_outs, List.filterMap_eq_nil_iff]
      intro c hc
      rw [h c (by simp only [Bundle.each, List.mem_flatMap]; exact ⟨_, hp, hc⟩)]
      rfl
    simp only [this, firstHit]
  simp only [Bundle.outHits, this, firstCode]

theorem outHits_bad {b : Bundle} {s : State} {f : LaneCtx → LaneOut} {code : Nat} {ok : LaneCtx → Bool} {det0 : LaneCtx → Nat}
    (hb : ∀ c, ok c = false → (f c).fault = some (code, det0 c, 0)) (hg : ∀ c, ok c = true → (f c).fault = none)
    (he : ∃ c ∈ b.each s, ok c = false) : b.outHits s f = some (code, b.hitsOf s (fun c => !ok c) det0) := by
  have hl : (b.parts.filterMap fun p => firstHit p.1 (laneFaults (b.outs s f p.1 p.2.1 p.2.2))) =
      (b.hitsOf s (fun c => !ok c) det0).map fun h => (code, h) := by
    simp only [Bundle.hitsOf, List.map_filterMap]
    apply List.filterMap_congr
    rintro ⟨wi, w, ls⟩ -
    have : laneFaults (b.outs s f wi w ls) =
        (ls.filterMap fun l => ((w.threads[l]?).map (b.laneCtx s wi w l)).filter (fun c => !ok c)).map
          fun c => (c.lane, code, det0 c, 0) := by
      rw [laneFaults_outs, List.filterMap_filterMap, List.map_filterMap]
      apply List.filterMap_congr
      intro l _
      cases w.threads[l]? with
      | none => rfl
      | some t =>
        simp only [Option.map_some, Option.bind_some]
        cases ho : ok (b.laneCtx s wi w l t) with
        | true => simp [hg _ ho, ho, Option.filter]
        | false => simp [hb _ ho, ho, Option.filter]
    simp only [this]
    cases ls.filterMap fun l => ((w.threads[l]?).map (b.laneCtx s wi w l)).filter (fun c => !ok c) with
    | nil => rfl
    | cons c cs =>
      simp [firstHit, List.filter_map, Function.comp_def]
  have hne : b.hitsOf s (fun c => !ok c) det0 ≠ [] := by
    obtain ⟨c, hc, hk⟩ := he
    simp only [Bundle.each, List.mem_flatMap, List.mem_filterMap] at hc
    obtain ⟨⟨wi, w, ls⟩, hp, l, hl, hc⟩ := hc
    intro h0
    simp only [Bundle.hitsOf, List.filterMap_eq_nil_iff] at h0
    have := h0 _ hp
    simp only at this
    split at this
    · rename_i h1
      rw [List.filterMap_eq_nil_iff] at h1
      have := h1 l hl
      simp only at hc
      rw [hc] at this
      simp [Option.filter, hk] at this
    · cases this
  simp only [Bundle.outHits, hl]
  cases hh : b.hitsOf s (fun c => !ok c) det0 with
  | nil => exact absurd hh hne
  | cons h hs => simp [firstCode, List.filter_map, Function.comp_def]

theorem alu_gives {i : Instr} {lat : Option Nat} {f g : LaneCtx → LaneOut} (he : exec i = aluIssue i lat f)
    (hg : ∀ c, f c = g c) (hf : ∀ c, (g c).fault = none) (hw : ∀ c, (g c).waits = []) : AluGives i lat g := by
  intro s b hb hr
  obtain rfl : f = g := funext hg
  rw [he]
  unfold aluIssue
  rw [issueStd_ready hb hr]
  have : (b.parts.flatMap fun (wi, w, ls) => (b.outs s f wi w ls).flatMap fun (_, o) => o.waits) = [] := by
    rw [List.flatMap_eq_nil_iff]; rintro ⟨wi, w, ls⟩ -
    rw [List.flatMap_eq_nil_iff]; rintro ⟨l, o⟩ ho
    simp only [Bundle.outs, List.mem_filterMap, Option.map_eq_some_iff, Prod.mk.injEq] at ho
    obtain ⟨l', -, t, -, rfl, rfl⟩ := ho
    exact hw _
  simp only [this, outHits_none fun c _ => hf c]
  have : b.pending [] = false := by simp [Bundle.pending]
  simp [this]

theorem pending_flatMap {α : Type} {b : Bundle} {xs : List α} {f : α → List RegName} (h : ∀ x ∈ xs, b.pending (f x) = false) :
    b.pending (xs.flatMap f) = false := by
  simp only [Bundle.pending, List.any_eq_false, List.mem_flatMap, Bool.not_eq_true] at h ⊢
  rintro ⟨wi, w, ls⟩ hp r ⟨x, hx, hr⟩
  simpa using h x hx _ hp r hr

theorem alu_gives_when {i : Instr} {lat : Option Nat} {f g : LaneCtx → LaneOut} {ok : LaneCtx → Bool} {regs : LaneCtx → List RegName}
    (he : exec i = aluIssue i lat f)
    (hg : ∀ c, ok c = true → (f c).writes = (g c).writes ∧ (f c).draws = (g c).draws ∧ (f c).latch = (g c).latch)
    (hf : ∀ c, ok c = true → (f c).fault = none) (hw : ∀ c, ok c = true → (f c).waits = regs c) :
    AluGivesWhen i lat ok regs g := by
  intro s b hb hr hok
  rw [he]
  unfold aluIssue
  rw [issueStd_ready hb hr]
  have hp : b.pending (b.parts.flatMap fun (wi, w, ls) => (b.outs s f wi w ls).flatMap fun (_, o) => o.waits) = false := by
    apply pending_flatMap; rintro ⟨wi, w, ls⟩ hp
    apply pending_flatMap; rintro x hx
    obtain ⟨c, hc, rfl⟩ := mem_outs hp hx
    simp only [hw c (hok c hc).1, (hok c hc).2]
  rw [outHits_none fun c hc => hf c (hok c hc).1]
  simp only [hp, Bool.false_eq_true, if_false]
  rw [commitAlu_congr fun c hc => hg c (hok c hc).1]

theorem lanes_fault {i : Instr} {lat : Option Nat} {f : LaneCtx → LaneOut} {code : Nat} {ok : LaneCtx → Bool} {det0 : LaneCtx → Nat}
    (he : exec i = aluIssue i lat f)
    (hb : ∀ c, ok c = false → (f c).fault = some (code, det0 c, 0)) (hg : ∀ c, ok c = true → (f c).fault = none) :
    LanesFault i code ok det0 := by
  intro s b hs hr hex
  rw [he]
  unfold aluIssue
  rw [issueStd_ready hs hr]
  simp only [outHits_bad hb hg hex]

end Sys2Proof.Machine
end

