-- ==== Sys2Proof/Laws/State.lean ====
section
/-! SUPPORT. What each update of the state leaves alone, and what a lookup finds after it. -/

namespace Sys2Proof.Machine

/-! ### modUnit -/

@[simp] theorem modUnit_agenda (s : State) (id : Nat) (f : Placed → Placed) : (s.modUnit id f).agenda = s.agenda := rfl
@[simp] theorem modUnit_issue (s : State) (id : Nat) (f : Placed → Placed) : (s.modUnit id f).issue = s.issue := rfl
@[simp] theorem modUnit_tick (s : State) (id : Nat) (f : Placed → Placed) : (s.modUnit id f).tick = s.tick := rfl
@[simp] theorem modUnit_clk (s : State) (id : Nat) (f : Placed → Placed) : (s.modUnit id f).clk = s.clk := rfl
@[simp] theorem modUnit_phase (s : State) (id : Nat) (f : Placed → Placed) : (s.modUnit id f).phase = s.phase := rfl
@[simp] theorem modUnit_nextId (s : State) (id : Nat) (f : Placed → Placed) : (s.modUnit id f).nextId = s.nextId := rfl
@[simp] theorem modUnit_cores (s : State) (id : Nat) (f : Placed → Placed) : (s.modUnit id f).cores = s.cores := rfl
@[simp] theorem modUnit_ops (s : State) (id : Nat) (f : Placed → Placed) : (s.modUnit id f).ops = s.ops := rfl
@[simp] theorem modUnit_channels (s : State) (id : Nat) (f : Placed → Placed) : (s.modUnit id f).channels = s.channels := rfl
@[simp] theorem modUnit_home (s : State) (id : Nat) (f : Placed → Placed) : (s.modUnit id f).home = s.home := rfl
@[simp] theorem modUnit_queues (s : State) (id : Nat) (f : Placed → Placed) : (s.modUnit id f).queues = s.queues := rfl
@[simp] theorem modUnit_ctxs (s : State) (id : Nat) (f : Placed → Placed) : (s.modUnit id f).ctxs = s.ctxs := rfl
@[simp] theorem modUnit_works (s : State) (id : Nat) (f : Placed → Placed) : (s.modUnit id f).works = s.works := rfl
@[simp] theorem modUnit_nextLaunch (s : State) (id : Nat) (f : Placed → Placed) : (s.modUnit id f).nextLaunch = s.nextLaunch := rfl
@[simp] theorem modUnit_lastPcl (s : State) (id : Nat) (f : Placed → Placed) : (s.modUnit id f).lastPcl = s.lastPcl := rfl
@[simp] theorem modUnit_turns (s : State) (id : Nat) (f : Placed → Placed) : (s.modUnit id f).turns = s.turns := rfl
@[simp] theorem modUnit_pass (s : State) (id : Nat) (f : Placed → Placed) : (s.modUnit id f).pass = s.pass := rfl
@[simp] theorem modUnit_watch (s : State) (id : Nat) (f : Placed → Placed) : (s.modUnit id f).watch = s.watch := rfl
@[simp] theorem modUnit_amc (s : State) (id : Nat) (f : Placed → Placed) : (s.modUnit id f).amc = s.amc := rfl
@[simp] theorem modUnit_irqs (s : State) (id : Nat) (f : Placed → Placed) : (s.modUnit id f).irqs = s.irqs := rfl
@[simp] theorem modUnit_freeCtr (s : State) (id : Nat) (f : Placed → Placed) : (s.modUnit id f).freeCtr = s.freeCtr := rfl
@[simp] theorem modUnit_lags (s : State) (id : Nat) (f : Placed → Placed) : (s.modUnit id f).lags = s.lags := rfl
@[simp] theorem modUnit_left (s : State) (id : Nat) (f : Placed → Placed) : (s.modUnit id f).left = s.left := rfl

/-! ### modWg -/

@[simp] theorem modWg_agenda (s : State) (id wg : Nat) (f : Workgroup → Workgroup) : (s.modWg id wg f).agenda = s.agenda := rfl
@[simp] theorem modWg_issue (s : State) (id wg : Nat) (f : Workgroup → Workgroup) : (s.modWg id wg f).issue = s.issue := rfl
@[simp] theorem modWg_tick (s : State) (id wg : Nat) (f : Workgroup → Workgroup) : (s.modWg id wg f).tick = s.tick := rfl
@[simp] theorem modWg_clk (s : State) (id wg : Nat) (f : Workgroup → Workgroup) : (s.modWg id wg f).clk = s.clk := rfl
@[simp] theorem modWg_phase (s : State) (id wg : Nat) (f : Workgroup → Workgroup) : (s.modWg id wg f).phase = s.phase := rfl
@[simp] theorem modWg_nextId (s : State) (id wg : Nat) (f : Workgroup → Workgroup) : (s.modWg id wg f).nextId = s.nextId := rfl
@[simp] theorem modWg_cores (s : State) (id wg : Nat) (f : Workgroup → Workgroup) : (s.modWg id wg f).cores = s.cores := rfl
@[simp] theorem modWg_ops (s : State) (id wg : Nat) (f : Workgroup → Workgroup) : (s.modWg id wg f).ops = s.ops := rfl
@[simp] theorem modWg_channels (s : State) (id wg : Nat) (f : Workgroup → Workgroup) : (s.modWg id wg f).channels = s.channels := rfl
@[simp] theorem modWg_home (s : State) (id wg : Nat) (f : Workgroup → Workgroup) : (s.modWg id wg f).home = s.home := rfl
@[simp] theorem modWg_queues (s : State) (id wg : Nat) (f : Workgroup → Workgroup) : (s.modWg id wg f).queues = s.queues := rfl
@[simp] theorem modWg_ctxs (s : State) (id wg : Nat) (f : Workgroup → Workgroup) : (s.modWg id wg f).ctxs = s.ctxs := rfl
@[simp] theorem modWg_works (s : State) (id wg : Nat) (f : Workgroup → Workgroup) : (s.modWg id wg f).works = s.works := rfl
@[simp] theorem modWg_nextLaunch (s : State) (id wg : Nat) (f : Workgroup → Workgroup) : (s.modWg id wg f).nextLaunch = s.nextLaunch := rfl
@[simp] theorem modWg_lastPcl (s : State) (id wg : Nat) (f : Workgroup → Workgroup) : (s.modWg id wg f).lastPcl = s.lastPcl := rfl
@[simp] theorem modWg_turns (s : State) (id wg : Nat) (f : Workgroup → Workgroup) : (s.modWg id wg f).turns = s.turns := rfl
@[simp] theorem modWg_pass (s : State) (id wg : Nat) (f : Workgroup → Workgroup) : (s.modWg id wg f).pass = s.pass := rfl
@[simp] theorem modWg_watch (s : State) (id wg : Nat) (f : Workgroup → Workgroup) : (s.modWg id wg f).watch = s.watch := rfl
@[simp] theorem modWg_amc (s : State) (id wg : Nat) (f : Workgroup → Workgroup) : (s.modWg id wg f).amc = s.amc := rfl
@[simp] theorem modWg_irqs (s : State) (id wg : Nat) (f : Workgroup → Workgroup) : (s.modWg id wg f).irqs = s.irqs := rfl
@[simp] theorem modWg_freeCtr (s : State) (id wg : Nat) (f : Workgroup → Workgroup) : (s.modWg id wg f).freeCtr = s.freeCtr := rfl
@[simp] theorem modWg_lags (s : State) (id wg : Nat) (f : Workgroup → Workgroup) : (s.modWg id wg f).lags = s.lags := rfl
@[simp] theorem modWg_left (s : State) (id wg : Nat) (f : Workgroup → Workgroup) : (s.modWg id wg f).left = s.left := rfl

/-! ### modWarp -/

@[simp] theorem modWarp_agenda (s : State) (w : WarpId) (f : Warp → Warp) : (s.modWarp w f).agenda = s.agenda := rfl
@[simp] theorem modWarp_issue (s : State) (w : WarpId) (f : Warp → Warp) : (s.modWarp w f).issue = s.issue := rfl
@[simp] theorem modWarp_tick (s : State) (w : WarpId) (f : Warp → Warp) : (s.modWarp w f).tick = s.tick := rfl
@[simp] theorem modWarp_clk (s : State) (w : WarpId) (f : Warp → Warp) : (s.modWarp w f).clk = s.clk := rfl
@[simp] theorem modWarp_phase (s : State) (w : WarpId) (f : Warp → Warp) : (s.modWarp w f).phase = s.phase := rfl
@[simp] theorem modWarp_nextId (s : State) (w : WarpId) (f : Warp → Warp) : (s.modWarp w f).nextId = s.nextId := rfl
@[simp] theorem modWarp_cores (s : State) (w : WarpId) (f : Warp → Warp) : (s.modWarp w f).cores = s.cores := rfl
@[simp] theorem modWarp_ops (s : State) (w : WarpId) (f : Warp → Warp) : (s.modWarp w f).ops = s.ops := rfl
@[simp] theorem modWarp_channels (s : State) (w : WarpId) (f : Warp → Warp) : (s.modWarp w f).channels = s.channels := rfl
@[simp] theorem modWarp_home (s : State) (w : WarpId) (f : Warp → Warp) : (s.modWarp w f).home = s.home := rfl
@[simp] theorem modWarp_queues (s : State) (w : WarpId) (f : Warp → Warp) : (s.modWarp w f).queues = s.queues := rfl
@[simp] theorem modWarp_ctxs (s : State) (w : WarpId) (f : Warp → Warp) : (s.modWarp w f).ctxs = s.ctxs := rfl
@[simp] theorem modWarp_works (s : State) (w : WarpId) (f : Warp → Warp) : (s.modWarp w f).works = s.works := rfl
@[simp] theorem modWarp_nextLaunch (s : State) (w : WarpId) (f : Warp → Warp) : (s.modWarp w f).nextLaunch = s.nextLaunch := rfl
@[simp] theorem modWarp_lastPcl (s : State) (w : WarpId) (f : Warp → Warp) : (s.modWarp w f).lastPcl = s.lastPcl := rfl
@[simp] theorem modWarp_turns (s : State) (w : WarpId) (f : Warp → Warp) : (s.modWarp w f).turns = s.turns := rfl
@[simp] theorem modWarp_pass (s : State) (w : WarpId) (f : Warp → Warp) : (s.modWarp w f).pass = s.pass := rfl
@[simp] theorem modWarp_watch (s : State) (w : WarpId) (f : Warp → Warp) : (s.modWarp w f).watch = s.watch := rfl
@[simp] theorem modWarp_amc (s : State) (w : WarpId) (f : Warp → Warp) : (s.modWarp w f).amc = s.amc := rfl
@[simp] theorem modWarp_irqs (s : State) (w : WarpId) (f : Warp → Warp) : (s.modWarp w f).irqs = s.irqs := rfl
@[simp] theorem modWarp_freeCtr (s : State) (w : WarpId) (f : Warp → Warp) : (s.modWarp w f).freeCtr = s.freeCtr := rfl
@[simp] theorem modWarp_lags (s : State) (w : WarpId) (f : Warp → Warp) : (s.modWarp w f).lags = s.lags := rfl
@[simp] theorem modWarp_left (s : State) (w : WarpId) (f : Warp → Warp) : (s.modWarp w f).left = s.left := rfl

/-! ### modThread -/

@[simp] theorem modThread_agenda (s : State) (w : WarpId) (l : Nat) (f : Thread → Thread) : (s.modThread w l f).agenda = s.agenda := rfl
@[simp] theorem modThread_issue (s : State) (w : WarpId) (l : Nat) (f : Thread → Thread) : (s.modThread w l f).issue = s.issue := rfl
@[simp] theorem modThread_tick (s : State) (w : WarpId) (l : Nat) (f : Thread → Thread) : (s.modThread w l f).tick = s.tick := rfl
@[simp] theorem modThread_clk (s : State) (w : WarpId) (l : Nat) (f : Thread → Thread) : (s.modThread w l f).clk = s.clk := rfl
@[simp] theorem modThread_phase (s : State) (w : WarpId) (l : Nat) (f : Thread → Thread) : (s.modThread w l f).phase = s.phase := rfl
@[simp] theorem modThread_nextId (s : State) (w : WarpId) (l : Nat) (f : Thread → Thread) : (s.modThread w l f).nextId = s.nextId := rfl
@[simp] theorem modThread_cores (s : State) (w : WarpId) (l : Nat) (f : Thread → Thread) : (s.modThread w l f).cores = s.cores := rfl
@[simp] theorem modThread_ops (s : State) (w : WarpId) (l : Nat) (f : Thread → Thread) : (s.modThread w l f).ops = s.ops := rfl
@[simp] theorem modThread_channels (s : State) (w : WarpId) (l : Nat) (f : Thread → Thread) : (s.modThread w l f).channels = s.channels := rfl
@[simp] theorem modThread_home (s : State) (w : WarpId) (l : Nat) (f : Thread → Thread) : (s.modThread w l f).home = s.home := rfl
@[simp] theorem modThread_queues (s : State) (w : WarpId) (l : Nat) (f : Thread → Thread) : (s.modThread w l f).queues = s.queues := rfl
@[simp] theorem modThread_ctxs (s : State) (w : WarpId) (l : Nat) (f : Thread → Thread) : (s.modThread w l f).ctxs = s.ctxs := rfl
@[simp] theorem modThread_works (s : State) (w : WarpId) (l : Nat) (f : Thread → Thread) : (s.modThread w l f).works = s.works := rfl
@[simp] theorem modThread_nextLaunch (s : State) (w : WarpId) (l : Nat) (f : Thread → Thread) : (s.modThread w l f).nextLaunch = s.nextLaunch := rfl
@[simp] theorem modThread_lastPcl (s : State) (w : WarpId) (l : Nat) (f : Thread → Thread) : (s.modThread w l f).lastPcl = s.lastPcl := rfl
@[simp] theorem modThread_turns (s : State) (w : WarpId) (l : Nat) (f : Thread → Thread) : (s.modThread w l f).turns = s.turns := rfl
@[simp] theorem modThread_pass (s : State) (w : WarpId) (l : Nat) (f : Thread → Thread) : (s.modThread w l f).pass = s.pass := rfl
@[simp] theorem modThread_watch (s : State) (w : WarpId) (l : Nat) (f : Thread → Thread) : (s.modThread w l f).watch = s.watch := rfl
@[simp] theorem modThread_amc (s : State) (w : WarpId) (l : Nat) (f : Thread → Thread) : (s.modThread w l f).amc = s.amc := rfl
@[simp] theorem modThread_irqs (s : State) (w : WarpId) (l : Nat) (f : Thread → Thread) : (s.modThread w l f).irqs = s.irqs := rfl
@[simp] theorem modThread_freeCtr (s : State) (w : WarpId) (l : Nat) (f : Thread → Thread) : (s.modThread w l f).freeCtr = s.freeCtr := rfl
@[simp] theorem modThread_lags (s : State) (w : WarpId) (l : Nat) (f : Thread → Thread) : (s.modThread w l f).lags = s.lags := rfl
@[simp] theorem modThread_left (s : State) (w : WarpId) (l : Nat) (f : Thread → Thread) : (s.modThread w l f).left = s.left := rfl

/-! ### joinGwct -/

@[simp] theorem joinGwct_agenda (s : State) (w : WarpId) (v : Nat) : (s.joinGwct w v).agenda = s.agenda := rfl
@[simp] theorem joinGwct_issue (s : State) (w : WarpId) (v : Nat) : (s.joinGwct w v).issue = s.issue := rfl
@[simp] theorem joinGwct_tick (s : State) (w : WarpId) (v : Nat) : (s.joinGwct w v).tick = s.tick := rfl
@[simp] theorem joinGwct_clk (s : State) (w : WarpId) (v : Nat) : (s.joinGwct w v).clk = s.clk := rfl
@[simp] theorem joinGwct_phase (s : State) (w : WarpId) (v : Nat) : (s.joinGwct w v).phase = s.phase := rfl
@[simp] theorem joinGwct_nextId (s : State) (w : WarpId) (v : Nat) : (s.joinGwct w v).nextId = s.nextId := rfl
@[simp] theorem joinGwct_cores (s : State) (w : WarpId) (v : Nat) : (s.joinGwct w v).cores = s.cores := rfl
@[simp] theorem joinGwct_ops (s : State) (w : WarpId) (v : Nat) : (s.joinGwct w v).ops = s.ops := rfl
@[simp] theorem joinGwct_channels (s : State) (w : WarpId) (v : Nat) : (s.joinGwct w v).channels = s.channels := rfl
@[simp] theorem joinGwct_home (s : State) (w : WarpId) (v : Nat) : (s.joinGwct w v).home = s.home := rfl
@[simp] theorem joinGwct_queues (s : State) (w : WarpId) (v : Nat) : (s.joinGwct w v).queues = s.queues := rfl
@[simp] theorem joinGwct_ctxs (s : State) (w : WarpId) (v : Nat) : (s.joinGwct w v).ctxs = s.ctxs := rfl
@[simp] theorem joinGwct_works (s : State) (w : WarpId) (v : Nat) : (s.joinGwct w v).works = s.works := rfl
@[simp] theorem joinGwct_nextLaunch (s : State) (w : WarpId) (v : Nat) : (s.joinGwct w v).nextLaunch = s.nextLaunch := rfl
@[simp] theorem joinGwct_lastPcl (s : State) (w : WarpId) (v : Nat) : (s.joinGwct w v).lastPcl = s.lastPcl := rfl
@[simp] theorem joinGwct_turns (s : State) (w : WarpId) (v : Nat) : (s.joinGwct w v).turns = s.turns := rfl
@[simp] theorem joinGwct_pass (s : State) (w : WarpId) (v : Nat) : (s.joinGwct w v).pass = s.pass := rfl
@[simp] theorem joinGwct_watch (s : State) (w : WarpId) (v : Nat) : (s.joinGwct w v).watch = s.watch := rfl
@[simp] theorem joinGwct_amc (s : State) (w : WarpId) (v : Nat) : (s.joinGwct w v).amc = s.amc := rfl
@[simp] theorem joinGwct_irqs (s : State) (w : WarpId) (v : Nat) : (s.joinGwct w v).irqs = s.irqs := rfl
@[simp] theorem joinGwct_freeCtr (s : State) (w : WarpId) (v : Nat) : (s.joinGwct w v).freeCtr = s.freeCtr := rfl
@[simp] theorem joinGwct_lags (s : State) (w : WarpId) (v : Nat) : (s.joinGwct w v).lags = s.lags := rfl
@[simp] theorem joinGwct_left (s : State) (w : WarpId) (v : Nat) : (s.joinGwct w v).left = s.left := rfl

/-! ### progress -/

@[simp] theorem progress_agenda (s : State) (p : Option WarpId) : (s.progress p).agenda = s.agenda := rfl
@[simp] theorem progress_issue (s : State) (p : Option WarpId) : (s.progress p).issue = s.issue := rfl
@[simp] theorem progress_tick (s : State) (p : Option WarpId) : (s.progress p).tick = s.tick := rfl
@[simp] theorem progress_clk (s : State) (p : Option WarpId) : (s.progress p).clk = s.clk := rfl
@[simp] theorem progress_phase (s : State) (p : Option WarpId) : (s.progress p).phase = s.phase := rfl
@[simp] theorem progress_nextId (s : State) (p : Option WarpId) : (s.progress p).nextId = s.nextId := rfl
@[simp] theorem progress_cores (s : State) (p : Option WarpId) : (s.progress p).cores = s.cores := rfl
@[simp] theorem progress_ops (s : State) (p : Option WarpId) : (s.progress p).ops = s.ops := rfl
@[simp] theorem progress_channels (s : State) (p : Option WarpId) : (s.progress p).channels = s.channels := rfl
@[simp] theorem progress_home (s : State) (p : Option WarpId) : (s.progress p).home = s.home := rfl
@[simp] theorem progress_queues (s : State) (p : Option WarpId) : (s.progress p).queues = s.queues := rfl
@[simp] theorem progress_ctxs (s : State) (p : Option WarpId) : (s.progress p).ctxs = s.ctxs := rfl
@[simp] theorem progress_works (s : State) (p : Option WarpId) : (s.progress p).works = s.works := rfl
@[simp] theorem progress_nextLaunch (s : State) (p : Option WarpId) : (s.progress p).nextLaunch = s.nextLaunch := rfl
@[simp] theorem progress_lastPcl (s : State) (p : Option WarpId) : (s.progress p).lastPcl = s.lastPcl := rfl
@[simp] theorem progress_turns (s : State) (p : Option WarpId) : (s.progress p).turns = s.turns := rfl
@[simp] theorem progress_pass (s : State) (p : Option WarpId) : (s.progress p).pass = s.pass := rfl
@[simp] theorem progress_watch (s : State) (p : Option WarpId) : (s.progress p).watch = s.watch := rfl
@[simp] theorem progress_amc (s : State) (p : Option WarpId) : (s.progress p).amc = s.amc := rfl
@[simp] theorem progress_irqs (s : State) (p : Option WarpId) : (s.progress p).irqs = s.irqs := rfl
@[simp] theorem progress_freeCtr (s : State) (p : Option WarpId) : (s.progress p).freeCtr = s.freeCtr := rfl
@[simp] theorem progress_lags (s : State) (p : Option WarpId) : (s.progress p).lags = s.lags := rfl
@[simp] theorem progress_left (s : State) (p : Option WarpId) : (s.progress p).left = s.left := rfl

/-! ### modCore -/

@[simp] theorem modCore_agenda (s : State) (id : Nat) (f : Core → Core) : (s.modCore id f).agenda = s.agenda := by unfold State.modCore; split <;> rfl
@[simp] theorem modCore_issue (s : State) (id : Nat) (f : Core → Core) : (s.modCore id f).issue = s.issue := by unfold State.modCore; split <;> rfl
@[simp] theorem modCore_tick (s : State) (id : Nat) (f : Core → Core) : (s.modCore id f).tick = s.tick := by unfold State.modCore; split <;> rfl
@[simp] theorem modCore_clk (s : State) (id : Nat) (f : Core → Core) : (s.modCore id f).clk = s.clk := by unfold State.modCore; split <;> rfl
@[simp] theorem modCore_phase (s : State) (id : Nat) (f : Core → Core) : (s.modCore id f).phase = s.phase := by unfold State.modCore; split <;> rfl
@[simp] theorem modCore_nextId (s : State) (id : Nat) (f : Core → Core) : (s.modCore id f).nextId = s.nextId := by unfold State.modCore; split <;> rfl
@[simp] theorem modCore_units (s : State) (id : Nat) (f : Core → Core) : (s.modCore id f).units = s.units := by unfold State.modCore; split <;> rfl
@[simp] theorem modCore_ops (s : State) (id : Nat) (f : Core → Core) : (s.modCore id f).ops = s.ops := by unfold State.modCore; split <;> rfl
@[simp] theorem modCore_channels (s : State) (id : Nat) (f : Core → Core) : (s.modCore id f).channels = s.channels := by unfold State.modCore; split <;> rfl
@[simp] theorem modCore_home (s : State) (id : Nat) (f : Core → Core) : (s.modCore id f).home = s.home := by unfold State.modCore; split <;> rfl
@[simp] theorem modCore_queues (s : State) (id : Nat) (f : Core → Core) : (s.modCore id f).queues = s.queues := by unfold State.modCore; split <;> rfl
@[simp] theorem modCore_ctxs (s : State) (id : Nat) (f : Core → Core) : (s.modCore id f).ctxs = s.ctxs := by unfold State.modCore; split <;> rfl
@[simp] theorem modCore_works (s : State) (id : Nat) (f : Core → Core) : (s.modCore id f).works = s.works := by unfold State.modCore; split <;> rfl
@[simp] theorem modCore_nextLaunch (s : State) (id : Nat) (f : Core → Core) : (s.modCore id f).nextLaunch = s.nextLaunch := by unfold State.modCore; split <;> rfl
@[simp] theorem modCore_lastPcl (s : State) (id : Nat) (f : Core → Core) : (s.modCore id f).lastPcl = s.lastPcl := by unfold State.modCore; split <;> rfl
@[simp] theorem modCore_turns (s : State) (id : Nat) (f : Core → Core) : (s.modCore id f).turns = s.turns := by unfold State.modCore; split <;> rfl
@[simp] theorem modCore_pass (s : State) (id : Nat) (f : Core → Core) : (s.modCore id f).pass = s.pass := by unfold State.modCore; split <;> rfl
@[simp] theorem modCore_watch (s : State) (id : Nat) (f : Core → Core) : (s.modCore id f).watch = s.watch := by unfold State.modCore; split <;> rfl
@[simp] theorem modCore_amc (s : State) (id : Nat) (f : Core → Core) : (s.modCore id f).amc = s.amc := by unfold State.modCore; split <;> rfl
@[simp] theorem modCore_irqs (s : State) (id : Nat) (f : Core → Core) : (s.modCore id f).irqs = s.irqs := by unfold State.modCore; split <;> rfl
@[simp] theorem modCore_freeCtr (s : State) (id : Nat) (f : Core → Core) : (s.modCore id f).freeCtr = s.freeCtr := by unfold State.modCore; split <;> rfl
@[simp] theorem modCore_lags (s : State) (id : Nat) (f : Core → Core) : (s.modCore id f).lags = s.lags := by unfold State.modCore; split <;> rfl
@[simp] theorem modCore_left (s : State) (id : Nat) (f : Core → Core) : (s.modCore id f).left = s.left := by unfold State.modCore; split <;> rfl

/-! ### modOp -/

@[simp] theorem modOp_agenda (s : State) (id : Nat) (f : MemOp → MemOp) : (s.modOp id f).agenda = s.agenda := rfl
@[simp] theorem modOp_issue (s : State) (id : Nat) (f : MemOp → MemOp) : (s.modOp id f).issue = s.issue := rfl
@[simp] theorem modOp_tick (s : State) (id : Nat) (f : MemOp → MemOp) : (s.modOp id f).tick = s.tick := rfl
@[simp] theorem modOp_clk (s : State) (id : Nat) (f : MemOp → MemOp) : (s.modOp id f).clk = s.clk := rfl
@[simp] theorem modOp_phase (s : State) (id : Nat) (f : MemOp → MemOp) : (s.modOp id f).phase = s.phase := rfl
@[simp] theorem modOp_nextId (s : State) (id : Nat) (f : MemOp → MemOp) : (s.modOp id f).nextId = s.nextId := rfl
@[simp] theorem modOp_units (s : State) (id : Nat) (f : MemOp → MemOp) : (s.modOp id f).units = s.units := rfl
@[simp] theorem modOp_cores (s : State) (id : Nat) (f : MemOp → MemOp) : (s.modOp id f).cores = s.cores := rfl
@[simp] theorem modOp_channels (s : State) (id : Nat) (f : MemOp → MemOp) : (s.modOp id f).channels = s.channels := rfl
@[simp] theorem modOp_home (s : State) (id : Nat) (f : MemOp → MemOp) : (s.modOp id f).home = s.home := rfl
@[simp] theorem modOp_queues (s : State) (id : Nat) (f : MemOp → MemOp) : (s.modOp id f).queues = s.queues := rfl
@[simp] theorem modOp_ctxs (s : State) (id : Nat) (f : MemOp → MemOp) : (s.modOp id f).ctxs = s.ctxs := rfl
@[simp] theorem modOp_works (s : State) (id : Nat) (f : MemOp → MemOp) : (s.modOp id f).works = s.works := rfl
@[simp] theorem modOp_nextLaunch (s : State) (id : Nat) (f : MemOp → MemOp) : (s.modOp id f).nextLaunch = s.nextLaunch := rfl
@[simp] theorem modOp_lastPcl (s : State) (id : Nat) (f : MemOp → MemOp) : (s.modOp id f).lastPcl = s.lastPcl := rfl
@[simp] theorem modOp_turns (s : State) (id : Nat) (f : MemOp → MemOp) : (s.modOp id f).turns = s.turns := rfl
@[simp] theorem modOp_pass (s : State) (id : Nat) (f : MemOp → MemOp) : (s.modOp id f).pass = s.pass := rfl
@[simp] theorem modOp_watch (s : State) (id : Nat) (f : MemOp → MemOp) : (s.modOp id f).watch = s.watch := rfl
@[simp] theorem modOp_amc (s : State) (id : Nat) (f : MemOp → MemOp) : (s.modOp id f).amc = s.amc := rfl
@[simp] theorem modOp_irqs (s : State) (id : Nat) (f : MemOp → MemOp) : (s.modOp id f).irqs = s.irqs := rfl
@[simp] theorem modOp_freeCtr (s : State) (id : Nat) (f : MemOp → MemOp) : (s.modOp id f).freeCtr = s.freeCtr := rfl
@[simp] theorem modOp_lags (s : State) (id : Nat) (f : MemOp → MemOp) : (s.modOp id f).lags = s.lags := rfl
@[simp] theorem modOp_left (s : State) (id : Nat) (f : MemOp → MemOp) : (s.modOp id f).left = s.left := rfl

/-! ### dropOp -/

@[simp] theorem dropOp_agenda (s : State) (id : Nat) : (s.dropOp id).agenda = s.agenda := rfl
@[simp] theorem dropOp_issue (s : State) (id : Nat) : (s.dropOp id).issue = s.issue := rfl
@[simp] theorem dropOp_tick (s : State) (id : Nat) : (s.dropOp id).tick = s.tick := rfl
@[simp] theorem dropOp_clk (s : State) (id : Nat) : (s.dropOp id).clk = s.clk := rfl
@[simp] theorem dropOp_phase (s : State) (id : Nat) : (s.dropOp id).phase = s.phase := rfl
@[simp] theorem dropOp_nextId (s : State) (id : Nat) : (s.dropOp id).nextId = s.nextId := rfl
@[simp] theorem dropOp_units (s : State) (id : Nat) : (s.dropOp id).units = s.units := rfl
@[simp] theorem dropOp_cores (s : State) (id : Nat) : (s.dropOp id).cores = s.cores := rfl
@[simp] theorem dropOp_channels (s : State) (id : Nat) : (s.dropOp id).channels = s.channels := rfl
@[simp] theorem dropOp_home (s : State) (id : Nat) : (s.dropOp id).home = s.home := rfl
@[simp] theorem dropOp_queues (s : State) (id : Nat) : (s.dropOp id).queues = s.queues := rfl
@[simp] theorem dropOp_ctxs (s : State) (id : Nat) : (s.dropOp id).ctxs = s.ctxs := rfl
@[simp] theorem dropOp_works (s : State) (id : Nat) : (s.dropOp id).works = s.works := rfl
@[simp] theorem dropOp_nextLaunch (s : State) (id : Nat) : (s.dropOp id).nextLaunch = s.nextLaunch := rfl
@[simp] theorem dropOp_lastPcl (s : State) (id : Nat) : (s.dropOp id).lastPcl = s.lastPcl := rfl
@[simp] theorem dropOp_turns (s : State) (id : Nat) : (s.dropOp id).turns = s.turns := rfl
@[simp] theorem dropOp_pass (s : State) (id : Nat) : (s.dropOp id).pass = s.pass := rfl
@[simp] theorem dropOp_watch (s : State) (id : Nat) : (s.dropOp id).watch = s.watch := rfl
@[simp] theorem dropOp_amc (s : State) (id : Nat) : (s.dropOp id).amc = s.amc := rfl
@[simp] theorem dropOp_irqs (s : State) (id : Nat) : (s.dropOp id).irqs = s.irqs := rfl
@[simp] theorem dropOp_freeCtr (s : State) (id : Nat) : (s.dropOp id).freeCtr = s.freeCtr := rfl
@[simp] theorem dropOp_lags (s : State) (id : Nat) : (s.dropOp id).lags = s.lags := rfl
@[simp] theorem dropOp_left (s : State) (id : Nat) : (s.dropOp id).left = s.left := rfl

/-! ### newOp -/

@[simp] theorem newOp_agenda (s : State) (o : Nat → MemOp) : (s.newOp o).agenda = s.agenda := rfl
@[simp] theorem newOp_issue (s : State) (o : Nat → MemOp) : (s.newOp o).issue = s.issue := rfl
@[simp] theorem newOp_tick (s : State) (o : Nat → MemOp) : (s.newOp o).tick = s.tick := rfl
@[simp] theorem newOp_clk (s : State) (o : Nat → MemOp) : (s.newOp o).clk = s.clk := rfl
@[simp] theorem newOp_phase (s : State) (o : Nat → MemOp) : (s.newOp o).phase = s.phase := rfl
@[simp] theorem newOp_units (s : State) (o : Nat → MemOp) : (s.newOp o).units = s.units := rfl
@[simp] theorem newOp_cores (s : State) (o : Nat → MemOp) : (s.newOp o).cores = s.cores := rfl
@[simp] theorem newOp_channels (s : State) (o : Nat → MemOp) : (s.newOp o).channels = s.channels := rfl
@[simp] theorem newOp_home (s : State) (o : Nat → MemOp) : (s.newOp o).home = s.home := rfl
@[simp] theorem newOp_queues (s : State) (o : Nat → MemOp) : (s.newOp o).queues = s.queues := rfl
@[simp] theorem newOp_ctxs (s : State) (o : Nat → MemOp) : (s.newOp o).ctxs = s.ctxs := rfl
@[simp] theorem newOp_works (s : State) (o : Nat → MemOp) : (s.newOp o).works = s.works := rfl
@[simp] theorem newOp_nextLaunch (s : State) (o : Nat → MemOp) : (s.newOp o).nextLaunch = s.nextLaunch := rfl
@[simp] theorem newOp_lastPcl (s : State) (o : Nat → MemOp) : (s.newOp o).lastPcl = s.lastPcl := rfl
@[simp] theorem newOp_turns (s : State) (o : Nat → MemOp) : (s.newOp o).turns = s.turns := rfl
@[simp] theorem newOp_pass (s : State) (o : Nat → MemOp) : (s.newOp o).pass = s.pass := rfl
@[simp] theorem newOp_watch (s : State) (o : Nat → MemOp) : (s.newOp o).watch = s.watch := rfl
@[simp] theorem newOp_amc (s : State) (o : Nat → MemOp) : (s.newOp o).amc = s.amc := rfl
@[simp] theorem newOp_irqs (s : State) (o : Nat → MemOp) : (s.newOp o).irqs = s.irqs := rfl
@[simp] theorem newOp_freeCtr (s : State) (o : Nat → MemOp) : (s.newOp o).freeCtr = s.freeCtr := rfl
@[simp] theorem newOp_lags (s : State) (o : Nat → MemOp) : (s.newOp o).lags = s.lags := rfl
@[simp] theorem newOp_left (s : State) (o : Nat → MemOp) : (s.newOp o).left = s.left := rfl

/-! ### modWork -/

@[simp] theorem modWork_agenda (s : State) (id : Nat) (f : Work → Work) : (s.modWork id f).agenda = s.agenda := rfl
@[simp] theorem modWork_issue (s : State) (id : Nat) (f : Work → Work) : (s.modWork id f).issue = s.issue := rfl
@[simp] theorem modWork_tick (s : State) (id : Nat) (f : Work → Work) : (s.modWork id f).tick = s.tick := rfl
@[simp] theorem modWork_clk (s : State) (id : Nat) (f : Work → Work) : (s.modWork id f).clk = s.clk := rfl
@[simp] theorem modWork_phase (s : State) (id : Nat) (f : Work → Work) : (s.modWork id f).phase = s.phase := rfl
@[simp] theorem modWork_nextId (s : State) (id : Nat) (f : Work → Work) : (s.modWork id f).nextId = s.nextId := rfl
@[simp] theorem modWork_units (s : State) (id : Nat) (f : Work → Work) : (s.modWork id f).units = s.units := rfl
@[simp] theorem modWork_cores (s : State) (id : Nat) (f : Work → Work) : (s.modWork id f).cores = s.cores := rfl
@[simp] theorem modWork_ops (s : State) (id : Nat) (f : Work → Work) : (s.modWork id f).ops = s.ops := rfl
@[simp] theorem modWork_channels (s : State) (id : Nat) (f : Work → Work) : (s.modWork id f).channels = s.channels := rfl
@[simp] theorem modWork_home (s : State) (id : Nat) (f : Work → Work) : (s.modWork id f).home = s.home := rfl
@[simp] theorem modWork_queues (s : State) (id : Nat) (f : Work → Work) : (s.modWork id f).queues = s.queues := rfl
@[simp] theorem modWork_ctxs (s : State) (id : Nat) (f : Work → Work) : (s.modWork id f).ctxs = s.ctxs := rfl
@[simp] theorem modWork_nextLaunch (s : State) (id : Nat) (f : Work → Work) : (s.modWork id f).nextLaunch = s.nextLaunch := rfl
@[simp] theorem modWork_lastPcl (s : State) (id : Nat) (f : Work → Work) : (s.modWork id f).lastPcl = s.lastPcl := rfl
@[simp] theorem modWork_turns (s : State) (id : Nat) (f : Work → Work) : (s.modWork id f).turns = s.turns := rfl
@[simp] theorem modWork_pass (s : State) (id : Nat) (f : Work → Work) : (s.modWork id f).pass = s.pass := rfl
@[simp] theorem modWork_watch (s : State) (id : Nat) (f : Work → Work) : (s.modWork id f).watch = s.watch := rfl
@[simp] theorem modWork_amc (s : State) (id : Nat) (f : Work → Work) : (s.modWork id f).amc = s.amc := rfl
@[simp] theorem modWork_irqs (s : State) (id : Nat) (f : Work → Work) : (s.modWork id f).irqs = s.irqs := rfl
@[simp] theorem modWork_freeCtr (s : State) (id : Nat) (f : Work → Work) : (s.modWork id f).freeCtr = s.freeCtr := rfl
@[simp] theorem modWork_lags (s : State) (id : Nat) (f : Work → Work) : (s.modWork id f).lags = s.lags := rfl
@[simp] theorem modWork_left (s : State) (id : Nat) (f : Work → Work) : (s.modWork id f).left = s.left := rfl

/-! ### modQueue -/

@[simp] theorem modQueue_agenda (s : State) (q : Nat) (f : Queue → Queue) : (s.modQueue q f).agenda = s.agenda := rfl
@[simp] theorem modQueue_issue (s : State) (q : Nat) (f : Queue → Queue) : (s.modQueue q f).issue = s.issue := rfl
@[simp] theorem modQueue_tick (s : State) (q : Nat) (f : Queue → Queue) : (s.modQueue q f).tick = s.tick := rfl
@[simp] theorem modQueue_clk (s : State) (q : Nat) (f : Queue → Queue) : (s.modQueue q f).clk = s.clk := rfl
@[simp] theorem modQueue_phase (s : State) (q : Nat) (f : Queue → Queue) : (s.modQueue q f).phase = s.phase := rfl
@[simp] theorem modQueue_nextId (s : State) (q : Nat) (f : Queue → Queue) : (s.modQueue q f).nextId = s.nextId := rfl
@[simp] theorem modQueue_units (s : State) (q : Nat) (f : Queue → Queue) : (s.modQueue q f).units = s.units := rfl
@[simp] theorem modQueue_cores (s : State) (q : Nat) (f : Queue → Queue) : (s.modQueue q f).cores = s.cores := rfl
@[simp] theorem modQueue_ops (s : State) (q : Nat) (f : Queue → Queue) : (s.modQueue q f).ops = s.ops := rfl
@[simp] theorem modQueue_channels (s : State) (q : Nat) (f : Queue → Queue) : (s.modQueue q f).channels = s.channels := rfl
@[simp] theorem modQueue_home (s : State) (q : Nat) (f : Queue → Queue) : (s.modQueue q f).home = s.home := rfl
@[simp] theorem modQueue_ctxs (s : State) (q : Nat) (f : Queue → Queue) : (s.modQueue q f).ctxs = s.ctxs := rfl
@[simp] theorem modQueue_works (s : State) (q : Nat) (f : Queue → Queue) : (s.modQueue q f).works = s.works := rfl
@[simp] theorem modQueue_nextLaunch (s : State) (q : Nat) (f : Queue → Queue) : (s.modQueue q f).nextLaunch = s.nextLaunch := rfl
@[simp] theorem modQueue_lastPcl (s : State) (q : Nat) (f : Queue → Queue) : (s.modQueue q f).lastPcl = s.lastPcl := rfl
@[simp] theorem modQueue_turns (s : State) (q : Nat) (f : Queue → Queue) : (s.modQueue q f).turns = s.turns := rfl
@[simp] theorem modQueue_pass (s : State) (q : Nat) (f : Queue → Queue) : (s.modQueue q f).pass = s.pass := rfl
@[simp] theorem modQueue_watch (s : State) (q : Nat) (f : Queue → Queue) : (s.modQueue q f).watch = s.watch := rfl
@[simp] theorem modQueue_amc (s : State) (q : Nat) (f : Queue → Queue) : (s.modQueue q f).amc = s.amc := rfl
@[simp] theorem modQueue_irqs (s : State) (q : Nat) (f : Queue → Queue) : (s.modQueue q f).irqs = s.irqs := rfl
@[simp] theorem modQueue_freeCtr (s : State) (q : Nat) (f : Queue → Queue) : (s.modQueue q f).freeCtr = s.freeCtr := rfl
@[simp] theorem modQueue_lags (s : State) (q : Nat) (f : Queue → Queue) : (s.modQueue q f).lags = s.lags := rfl
@[simp] theorem modQueue_left (s : State) (q : Nat) (f : Queue → Queue) : (s.modQueue q f).left = s.left := rfl

/-! ### modCtx -/

@[simp] theorem modCtx_agenda (s : State) (c : Nat) (f : Ctx → Ctx) : (s.modCtx c f).agenda = s.agenda := rfl
@[simp] theorem modCtx_issue (s : State) (c : Nat) (f : Ctx → Ctx) : (s.modCtx c f).issue = s.issue := rfl
@[simp] theorem modCtx_tick (s : State) (c : Nat) (f : Ctx → Ctx) : (s.modCtx c f).tick = s.tick := rfl
@[simp] theorem modCtx_clk (s : State) (c : Nat) (f : Ctx → Ctx) : (s.modCtx c f).clk = s.clk := rfl
@[simp] theorem modCtx_phase (s : State) (c : Nat) (f : Ctx → Ctx) : (s.modCtx c f).phase = s.phase := rfl
@[simp] theorem modCtx_nextId (s : State) (c : Nat) (f : Ctx → Ctx) : (s.modCtx c f).nextId = s.nextId := rfl
@[simp] theorem modCtx_units (s : State) (c : Nat) (f : Ctx → Ctx) : (s.modCtx c f).units = s.units := rfl
@[simp] theorem modCtx_cores (s : State) (c : Nat) (f : Ctx → Ctx) : (s.modCtx c f).cores = s.cores := rfl
@[simp] theorem modCtx_ops (s : State) (c : Nat) (f : Ctx → Ctx) : (s.modCtx c f).ops = s.ops := rfl
@[simp] theorem modCtx_channels (s : State) (c : Nat) (f : Ctx → Ctx) : (s.modCtx c f).channels = s.channels := rfl
@[simp] theorem modCtx_home (s : State) (c : Nat) (f : Ctx → Ctx) : (s.modCtx c f).home = s.home := rfl
@[simp] theorem modCtx_queues (s : State) (c : Nat) (f : Ctx → Ctx) : (s.modCtx c f).queues = s.queues := rfl
@[simp] theorem modCtx_works (s : State) (c : Nat) (f : Ctx → Ctx) : (s.modCtx c f).works = s.works := rfl
@[simp] theorem modCtx_nextLaunch (s : State) (c : Nat) (f : Ctx → Ctx) : (s.modCtx c f).nextLaunch = s.nextLaunch := rfl
@[simp] theorem modCtx_lastPcl (s : State) (c : Nat) (f : Ctx → Ctx) : (s.modCtx c f).lastPcl = s.lastPcl := rfl
@[simp] theorem modCtx_turns (s : State) (c : Nat) (f : Ctx → Ctx) : (s.modCtx c f).turns = s.turns := rfl
@[simp] theorem modCtx_pass (s : State) (c : Nat) (f : Ctx → Ctx) : (s.modCtx c f).pass = s.pass := rfl
@[simp] theorem modCtx_watch (s : State) (c : Nat) (f : Ctx → Ctx) : (s.modCtx c f).watch = s.watch := rfl
@[simp] theorem modCtx_amc (s : State) (c : Nat) (f : Ctx → Ctx) : (s.modCtx c f).amc = s.amc := rfl
@[simp] theorem modCtx_irqs (s : State) (c : Nat) (f : Ctx → Ctx) : (s.modCtx c f).irqs = s.irqs := rfl
@[simp] theorem modCtx_freeCtr (s : State) (c : Nat) (f : Ctx → Ctx) : (s.modCtx c f).freeCtr = s.freeCtr := rfl
@[simp] theorem modCtx_lags (s : State) (c : Nat) (f : Ctx → Ctx) : (s.modCtx c f).lags = s.lags := rfl
@[simp] theorem modCtx_left (s : State) (c : Nat) (f : Ctx → Ctx) : (s.modCtx c f).left = s.left := rfl

/-! ### irq -/

@[simp] theorem irq_agenda (s : State) (v : Nat) : (s.irq v).agenda = s.agenda := rfl
@[simp] theorem irq_issue (s : State) (v : Nat) : (s.irq v).issue = s.issue := rfl
@[simp] theorem irq_tick (s : State) (v : Nat) : (s.irq v).tick = s.tick := rfl
@[simp] theorem irq_clk (s : State) (v : Nat) : (s.irq v).clk = s.clk := rfl
@[simp] theorem irq_phase (s : State) (v : Nat) : (s.irq v).phase = s.phase := rfl
@[simp] theorem irq_nextId (s : State) (v : Nat) : (s.irq v).nextId = s.nextId := rfl
@[simp] theorem irq_units (s : State) (v : Nat) : (s.irq v).units = s.units := rfl
@[simp] theorem irq_cores (s : State) (v : Nat) : (s.irq v).cores = s.cores := rfl
@[simp] theorem irq_ops (s : State) (v : Nat) : (s.irq v).ops = s.ops := rfl
@[simp] theorem irq_channels (s : State) (v : Nat) : (s.irq v).channels = s.channels := rfl
@[simp] theorem irq_home (s : State) (v : Nat) : (s.irq v).home = s.home := rfl
@[simp] theorem irq_queues (s : State) (v : Nat) : (s.irq v).queues = s.queues := rfl
@[simp] theorem irq_ctxs (s : State) (v : Nat) : (s.irq v).ctxs = s.ctxs := rfl
@[simp] theorem irq_works (s : State) (v : Nat) : (s.irq v).works = s.works := rfl
@[simp] theorem irq_nextLaunch (s : State) (v : Nat) : (s.irq v).nextLaunch = s.nextLaunch := rfl
@[simp] theorem irq_lastPcl (s : State) (v : Nat) : (s.irq v).lastPcl = s.lastPcl := rfl
@[simp] theorem irq_turns (s : State) (v : Nat) : (s.irq v).turns = s.turns := rfl
@[simp] theorem irq_pass (s : State) (v : Nat) : (s.irq v).pass = s.pass := rfl
@[simp] theorem irq_watch (s : State) (v : Nat) : (s.irq v).watch = s.watch := rfl
@[simp] theorem irq_amc (s : State) (v : Nat) : (s.irq v).amc = s.amc := rfl
@[simp] theorem irq_freeCtr (s : State) (v : Nat) : (s.irq v).freeCtr = s.freeCtr := rfl
@[simp] theorem irq_lags (s : State) (v : Nat) : (s.irq v).lags = s.lags := rfl
@[simp] theorem irq_left (s : State) (v : Nat) : (s.irq v).left = s.left := rfl

/-! ### setWatchWord -/

@[simp] theorem setWatchWord_agenda (s : State) (c sel v : Nat) : (s.setWatchWord c sel v).agenda = s.agenda := rfl
@[simp] theorem setWatchWord_issue (s : State) (c sel v : Nat) : (s.setWatchWord c sel v).issue = s.issue := rfl
@[simp] theorem setWatchWord_tick (s : State) (c sel v : Nat) : (s.setWatchWord c sel v).tick = s.tick := rfl
@[simp] theorem setWatchWord_clk (s : State) (c sel v : Nat) : (s.setWatchWord c sel v).clk = s.clk := rfl
@[simp] theorem setWatchWord_phase (s : State) (c sel v : Nat) : (s.setWatchWord c sel v).phase = s.phase := rfl
@[simp] theorem setWatchWord_nextId (s : State) (c sel v : Nat) : (s.setWatchWord c sel v).nextId = s.nextId := rfl
@[simp] theorem setWatchWord_units (s : State) (c sel v : Nat) : (s.setWatchWord c sel v).units = s.units := rfl
@[simp] theorem setWatchWord_cores (s : State) (c sel v : Nat) : (s.setWatchWord c sel v).cores = s.cores := rfl
@[simp] theorem setWatchWord_ops (s : State) (c sel v : Nat) : (s.setWatchWord c sel v).ops = s.ops := rfl
@[simp] theorem setWatchWord_channels (s : State) (c sel v : Nat) : (s.setWatchWord c sel v).channels = s.channels := rfl
@[simp] theorem setWatchWord_home (s : State) (c sel v : Nat) : (s.setWatchWord c sel v).home = s.home := rfl
@[simp] theorem setWatchWord_queues (s : State) (c sel v : Nat) : (s.setWatchWord c sel v).queues = s.queues := rfl
@[simp] theorem setWatchWord_ctxs (s : State) (c sel v : Nat) : (s.setWatchWord c sel v).ctxs = s.ctxs := rfl
@[simp] theorem setWatchWord_works (s : State) (c sel v : Nat) : (s.setWatchWord c sel v).works = s.works := rfl
@[simp] theorem setWatchWord_nextLaunch (s : State) (c sel v : Nat) : (s.setWatchWord c sel v).nextLaunch = s.nextLaunch := rfl
@[simp] theorem setWatchWord_lastPcl (s : State) (c sel v : Nat) : (s.setWatchWord c sel v).lastPcl = s.lastPcl := rfl
@[simp] theorem setWatchWord_turns (s : State) (c sel v : Nat) : (s.setWatchWord c sel v).turns = s.turns := rfl
@[simp] theorem setWatchWord_pass (s : State) (c sel v : Nat) : (s.setWatchWord c sel v).pass = s.pass := rfl
@[simp] theorem setWatchWord_amc (s : State) (c sel v : Nat) : (s.setWatchWord c sel v).amc = s.amc := rfl
@[simp] theorem setWatchWord_irqs (s : State) (c sel v : Nat) : (s.setWatchWord c sel v).irqs = s.irqs := rfl
@[simp] theorem setWatchWord_freeCtr (s : State) (c sel v : Nat) : (s.setWatchWord c sel v).freeCtr = s.freeCtr := rfl
@[simp] theorem setWatchWord_lags (s : State) (c sel v : Nat) : (s.setWatchWord c sel v).lags = s.lags := rfl
@[simp] theorem setWatchWord_left (s : State) (c sel v : Nat) : (s.setWatchWord c sel v).left = s.left := rfl
/-! ### Lookups after an update -/

theorem modAt_getElem? {α : Type} (xs : List α) (n k : Nat) (f : α → α) :
    (modAt xs n f)[k]? = if k = n then (xs[k]?).map f else xs[k]? := by
  induction xs generalizing n k with
  | nil => simp [modAt]
  | cons x xs ih =>
    cases n with
    | zero => cases k <;> simp [modAt]
    | succ n => cases k with
      | zero => simp [modAt]
      | succ k => simp [modAt, ih]
@[simp] theorem modAt_length {α : Type} (xs : List α) (n : Nat) (f : α → α) : (modAt xs n f).length = xs.length := by
  induction xs generalizing n with
  | nil => rfl
  | cons x xs ih => cases n <;> simp [modAt, ih]

theorem unit?_id {s : State} {id : Nat} {u : Placed} (h : s.unit? id = some u) : u.id = id := by
  have := List.find?_some h
  simpa using this
/-- A unit is found changed after its own update, and as it was after another's. -/
theorem unit?_modUnit (s : State) (id k : Nat) (f : Placed → Placed) (hf : ∀ u, (f u).id = u.id) :
    (s.modUnit id f).unit? k = (s.unit? k).map fun u => if u.id == id then f u else u := by
  unfold State.unit? State.modUnit
  simp only
  induction s.units with
  | nil => rfl
  | cons u us ih =>
    have : (if (u.id == id) = true then f u else u).id = u.id := by split <;> simp [hf]
    simp only [List.map_cons, List.find?_cons, this]
    cases h : u.id == k
    · exact ih
    · rfl
@[simp] theorem unit?_modCore (s : State) (c k : Nat) (f : Core → Core) : (s.modCore c f).unit? k = s.unit? k := by
  simp [State.unit?]
@[simp] theorem warp?_modCore (s : State) (c : Nat) (f : Core → Core) (w : WarpId) : (s.modCore c f).warp? w = s.warp? w := by
  simp [State.warp?, State.wg?]
/-- A warp is found changed after its own update. -/
theorem warp?_modWarp_self (s : State) (w : WarpId) (f : Warp → Warp) : (s.modWarp w f).warp? w = (s.warp? w).map f := by
  unfold State.warp? State.wg? State.modWarp State.modWg
  rw [unit?_modUnit]
  rotate_left
  · intro u; rfl
  cases h : s.unit? w.unit with
  | none => rfl
  | some u =>
    simp only [Option.map_some, unit?_id h, beq_self_eq_true, if_true, Option.bind_some, modAt_getElem?]
    cases u.wgs[w.wg]? with
    | none => rfl
    | some g => simp [modAt_getElem?]
/-- Another warp is found as it was. -/
theorem warp?_modWarp_other (s : State) (w v : WarpId) (f : Warp → Warp) (h : v ≠ w) : (s.modWarp w f).warp? v = s.warp? v := by
  unfold State.warp? State.wg? State.modWarp State.modWg
  rw [unit?_modUnit]
  rotate_left
  · intro u; rfl
  cases hu : s.unit? v.unit with
  | none => rfl
  | some u =>
    simp only [Option.map_some, Option.bind_some, unit?_id hu]
    by_cases h1 : v.unit = w.unit
    · simp only [h1, beq_self_eq_true, if_true, modAt_getElem?]
      by_cases h2 : v.wg = w.wg
      · simp only [h2, if_true]
        cases u.wgs[w.wg]? with
        | none => rfl
        | some g =>
          simp only [Option.map_some, Option.bind_some, modAt_getElem?]
          have h3 : v.warp ≠ w.warp := by
            intro h3; apply h; cases v; cases w; simp_all
          simp [h3]
      · simp [h2]
    · have : (v.unit == w.unit) = false := by simpa using h1
      simp [this]

end Sys2Proof.Machine
end

