-- ==== Sys2Proof/Laws/Coll.lean ====
section
/-! SUPPORT. What the shared operations of an issue leave alone, and how a warp-collective instruction goes through. -/

namespace Sys2Proof.Machine

@[simp] theorem home_modSlots (s : State) (b : Bundle) (f : Slot → Option Slot) : (s.modSlots b f).home = s.home := by
  simp [State.modSlots]
@[simp] theorem home_leave (s : State) (b : Bundle) : (s.leave b).home = s.home := by simp [State.leave]
@[simp] theorem warp?_modSlots (s : State) (b : Bundle) (f : Slot → Option Slot) (w : WarpId) : (s.modSlots b f).warp? w = s.warp? w := by
  simp [State.modSlots]
@[simp] theorem warp?_leave (s : State) (b : Bundle) (w : WarpId) : (s.leave b).warp? w = s.warp? w := by simp [State.leave]
@[simp] theorem warp?_stay (s : State) (b : Bundle) (w : WarpId) : (s.stay b).warp? w = s.warp? w := by simp [State.stay]
@[simp] theorem home_stay (s : State) (b : Bundle) : (s.stay b).home = s.home := by simp [State.stay]
@[simp] theorem home_countTurn (s : State) (b : Bundle) : (s.countTurn b).home = s.home := by
  unfold State.countTurn; split <;> simp
@[simp] theorem warp?_countTurn (s : State) (b : Bundle) (w : WarpId) : (s.countTurn b).warp? w = s.warp? w := by
  unfold State.countTurn
  split
  · rfl
  · unfold State.warp? State.wg?
    rw [unit?_modUnit]
    rotate_left
    · intro u; rfl
    cases s.unit? w.unit with
    | none => rfl
    | some u => simp only [Option.map_some, Option.bind_some]; split <;> rfl
theorem foldl_frame {α : Type} (f : State → α → State) (hf : ∀ s a, (f s a).home = s.home ∧ ∀ w, (f s a).warp? w = s.warp? w) :
    ∀ (xs : List α) (s : State), (xs.foldl f s).home = s.home ∧ ∀ w, (xs.foldl f s).warp? w = s.warp? w
  | [], _ => ⟨rfl, fun _ => rfl⟩
  | x :: xs, s => by
    obtain ⟨h1, h2⟩ := foldl_frame f hf xs (f s x)
    obtain ⟨h3, h4⟩ := hf s x
    exact ⟨h1.trans h3, fun w => (h2 w).trans (h4 w)⟩
theorem fileNow_frame (s : State) (core port : Nat) (f : Filing) :
    (s.fileNow core port f).home = s.home ∧ ∀ w, (s.fileNow core port f).warp? w = s.warp? w := by
  unfold State.fileNow; dsimp only; split
  · exact ⟨modCore_home .., fun _ => by simp⟩
  · exact ⟨rfl, fun _ => rfl⟩
theorem file_frame (s : State) (u wg core : Nat) (ts : List (Nat × Nat)) (due rdy : Nat) (nf : Bool) :
    (s.file u wg core ts due rdy nf).home = s.home ∧ ∀ w, (s.file u wg core ts due rdy nf).warp? w = s.warp? w := by
  unfold State.file
  refine foldl_frame _ (fun s a => ?_) _ s
  dsimp only; split
  · exact fileNow_frame ..
  · exact ⟨modCore_home .., fun _ => by simp⟩
@[simp] theorem home_file (s : State) (u wg core : Nat) (ts : List (Nat × Nat)) (due rdy : Nat) (nf : Bool) :
    (s.file u wg core ts due rdy nf).home = s.home := (file_frame ..).1
@[simp] theorem warp?_file (s : State) (u wg core : Nat) (ts : List (Nat × Nat)) (due rdy : Nat) (nf : Bool) (w : WarpId) :
    (s.file u wg core ts due rdy nf).warp? w = s.warp? w := (file_frame ..).2 w
@[simp] theorem arrive_live (b : Bundle) (i : Instr) (ls : List Nat) (w : Warp) : (arrive b i ls w).live = w.live := rfl

theorem bundleOf_u {s : State} {u wg : Nat} {ls} {b : Bundle} (h : s.bundleOf u wg ls = some b) : b.u.id = u ∧ b.wg = wg ∧
    (∀ p ∈ b.parts, (s.wg? u wg).bind (fun g => g.warps[p.1]?) = some p.2.1) := by
  unfold State.bundleOf at h
  cases hu : s.unit? u with
  | none => simp [hu] at h
  | some un =>
    simp only [hu] at h
    cases hg : un.wgs[wg]? with
    | none => simp [hg] at h
    | some g =>
      simp only [hg] at h
      split at h
      · simp only [Option.map_eq_some_iff] at h
        obtain ⟨t, _, rfl⟩ := h
        refine ⟨unit?_id hu, rfl, ?_⟩
        rintro ⟨wi, w, l⟩ hp
        simp only [List.mem_filterMap, Option.map_eq_some_iff] at hp
        obtain ⟨⟨wi', l'⟩, _, w', hw, h1⟩ := hp
        cases h1
        simp [State.wg?, hu, hg, hw]
      · cases h
theorem warp?_of_bundleOf {s : State} {u wg : Nat} {ls} {b : Bundle} (h : s.bundleOf u wg ls = some b) {wi : Nat} {w : Warp} {l : List Nat}
    (hp : (wi, w, l) ∈ b.parts) : s.warp? (b.wid wi) = some w := by
  obtain ⟨h1, h2, h3⟩ := bundleOf_u h
  have := h3 _ hp
  simp only [State.warp?, Bundle.wid, h1, h2]
  exact this

theorem find?_mod_id (cs : List Core) (id k : Nat) (f : Core → Core) (hf : ∀ c, (f c).id = c.id) :
    (cs.map fun c => if c.id == id then f c else c).find? (·.id == k) = (cs.find? (·.id == k)).map fun c => if c.id == id then f c else c := by
  induction cs with
  | nil => rfl
  | cons u us ih =>
    have : (if (u.id == id) = true then f u else u).id = u.id := by split <;> simp [hf]
    simp only [List.map_cons, List.find?_cons, this]
    cases h : u.id == k
    · exact ih
    · rfl
/-- A core is found changed after its own update, and as it was after another's. -/
theorem core_modCore (s : State) (id k : Nat) (f : Core → Core) (hf : ∀ c, (f c).id = c.id) :
    (s.modCore id f).core k = if k = id then f (s.core k) else s.core k := by
  unfold State.modCore State.core
  split
  · rename_i h
    simp only [find?_mod_id _ _ _ _ hf]
    cases hk : s.cores.find? (·.id == k) with
    | none =>
      have : k ≠ id := by
        rintro rfl
        rw [List.find?_eq_none] at hk
        simp only [List.any_eq_true] at h
        obtain ⟨c, hc, h1⟩ := h
        exact hk c hc h1
      simp [this]
    | some c =>
      have : c.id = k := by simpa using List.find?_some hk
      simp only [Option.map_some, Option.getD_some, this]
      by_cases h1 : k = id <;> simp [h1]
  · rename_i h
    simp only [List.any_eq_true, not_exists, not_and, Bool.not_eq_true] at h
    simp only [List.find?_append]
    by_cases h1 : k = id
    · subst h1
      have h2 : s.cores.find? (·.id == k) = none := by
        rw [List.find?_eq_none]; intro c hc; simp [h c hc]
      simp [h2, hf, Core.fresh]
    · have : ((f (Core.fresh id s.tick)).id == k) = false := by
        rw [hf]; simp [Core.fresh]; omega
      simp [h1, List.find?_cons, this]
@[simp] theorem core_modUnit (s : State) (id k : Nat) (f : Placed → Placed) : (s.modUnit id f).core k = s.core k := rfl
@[simp] theorem core_modWarp (s : State) (w : WarpId) (k : Nat) (f : Warp → Warp) : (s.modWarp w f).core k = s.core k := rfl
@[simp] theorem core_countTurn (s : State) (b : Bundle) (k : Nat) : (s.countTurn b).core k = s.core k := by
  unfold State.countTurn; split <;> rfl
@[simp] theorem ops_countTurn (s : State) (b : Bundle) : (s.countTurn b).ops = s.ops := by
  unfold State.countTurn; split <;> simp
@[simp] theorem ops_modSlots (s : State) (b : Bundle) (f : Slot → Option Slot) : (s.modSlots b f).ops = s.ops := by
  simp [State.modSlots]
theorem foldl_keeps {α β : Type} (g : State → β) (f : State → α → State) (hf : ∀ s a, g (f s a) = g s) :
    ∀ (xs : List α) (s : State), g (xs.foldl f s) = g s
  | [], _ => rfl
  | x :: xs, s => (foldl_keeps g f hf xs (f s x)).trans (hf s x)
@[simp] theorem ops_fileNow (s : State) (core port : Nat) (f : Filing) : (s.fileNow core port f).ops = s.ops := by
  unfold State.fileNow; dsimp only; split <;> simp
@[simp] theorem ops_file (s : State) (u wg core : Nat) (ts : List (Nat × Nat)) (due rdy : Nat) (nf : Bool) :
    (s.file u wg core ts due rdy nf).ops = s.ops := by
  unfold State.file
  refine foldl_keeps _ _ (fun s a => ?_) _ s
  dsimp only; split <;> simp
theorem evalQ_modPorts (s : State) (id k : Nat) (f : Core → Core) (hid : ∀ c, (f c).id = c.id) (hq : ∀ c, (f c).evalQ = c.evalQ) :
    ((s.modCore id f).core k).evalQ = (s.core k).evalQ := by
  rw [core_modCore _ _ _ _ hid]; split <;> simp [hq]
@[simp] theorem evalQ_fileNow (s : State) (core port : Nat) (f : Filing) (k : Nat) :
    ((s.fileNow core port f).core k).evalQ = (s.core k).evalQ := by
  unfold State.fileNow; dsimp only; split
  · exact evalQ_modPorts _ _ _ _ (fun _ => rfl) fun _ => rfl
  · rfl
@[simp] theorem evalQ_file (s : State) (u wg core : Nat) (ts : List (Nat × Nat)) (due rdy : Nat) (nf : Bool) (k : Nat) :
    ((s.file u wg core ts due rdy nf).core k).evalQ = (s.core k).evalQ := by
  unfold State.file
  refine foldl_keeps (fun s => (s.core k).evalQ) _ (fun s a => ?_) _ s
  dsimp only; split
  · simp
  · exact evalQ_modPorts _ _ _ _ (fun _ => rfl) fun _ => rfl

theorem early_none' {b : Bundle} {i : Instr} (h : b.free i = true) : b.early i = none := early_none h

/-- A collective whose live lanes have all arrived and that goes through. -/
theorem collective_done {s : State} {w : WarpId} {ends : Bool} {body : Bundle → State → Res} {x : Warp} {a : Arrival} {b1 : Bundle} {t : State}
    (hx : s.warp? w = some x) (ha : x.arrival = some a) (hl : x.live ≠ []) (hall : ∀ l ∈ x.live, l ∈ a.lanes)
    (hb : s.bundleOf w.unit w.wg [(w.warp, x.live)] = some b1) (hs : b1.u.state = .running) (hf : b1.free a.instr = true)
    (hp : b1.pending (a.instr.waitRegs b1.u.cfg) = false) (hm : s.mayRetire w = true)
    (hh : (b1.lanes.all fun (_, _, _, t) => !t.halted) = true) (hd : body b1 s = .done t) :
    s.collective w ends body = ((t.retire b1 ends sameThread).modWarp w fun y => { y with arrival := none }).file
      w.unit w.wg b1.g.core (x.live.map fun l => (w.warp, l)) (s.clk + 1) (s.clk + 1) false := by
  unfold State.collective
  have h1 : (x.live.any fun l => !a.lanes.contains l) = false := by
    simp only [List.any_eq_false]; intro l hl; simp [hall l hl]
  have h2 : (b1.lanes.any fun (_, _, _, t) => t.halted) = false := by
    rw [List.any_eq_false]; intro y hy; have := List.all_eq_true.mp hh y hy; simpa using this
  simp only [hx, ha, hl, h1, decide_false, Bool.or_self, Bool.false_eq_true, if_false, hb, hm, h2, Bool.not_true, early_none hf, hp, hd]

theorem coll_does {i : Instr} {body : Bundle → State → Res} {ok : Bundle → State → Nat → Warp → Prop}
    {eff : Bundle → State → Nat → Warp → Warp} {post : Bundle → State → Nat → Warp → State → Prop} (he : exec i = collIssue i false body)
    (hbody : ∀ b1 s1 wi x, s1.warp? (b1.wid wi) = some x → b1.parts = [(wi, x, x.live)] → x.live ≠ [] → ok b1 s1 wi x →
      ∃ t, body b1 s1 = .done t ∧ t.home = s1.home ∧ t.warp? (b1.wid wi) = some (eff b1 s1 wi x) ∧
        ∀ t', t'.ops = t.ops → (∀ c, (t'.core c).evalQ = (t.core c).evalQ) → post b1 s1 wi x t') : CollDoes i ok eff post := by
  rintro s b wi b1 x ⟨hb, hid, ⟨w, hparts, harr⟩, hb1, hp1, hrun, hfree, hpend, hmay, hnh⟩ hok
  have hwid : b1.wid wi = b.wid wi := by
    obtain ⟨h1, h2, -⟩ := bundleOf_u hb1
    simp [Bundle.wid, h1, h2]
  have hw : s.warp? (b.wid wi) = some w := warp?_of_bundleOf (l := w.live) hb (by rw [hparts]; simp)
  have hx : (s.joined b i).warp? (b.wid wi) = some x := by
    rw [← hwid]; exact warp?_of_bundleOf (l := x.live) hb1 (by rw [hp1]; simp)
  have hxa : x = arrive b i w.live w := by
    unfold State.joined at hx
    simp only [warp?_leave, hparts, List.foldl_cons, List.foldl_nil, warp?_modWarp_self, hw, Option.map_some, Option.some.injEq] at hx
    exact hx.symm
  have hxl : x.live = w.live := by subst hxa; rfl
  have hne : w.live ≠ [] := by
    intro h0
    have := hb
    unfold State.bundle? State.bundleOf at this
    split at this
    · cases this
    · split at this
      · cases this
      · dsimp only at this
        split at this
        · rename_i hh
          simp only [Option.map_eq_some_iff] at this
          obtain ⟨t, _, rfl⟩ := this
          simp only at hparts
          rw [hparts] at hh
          simp [h0] at hh
        · cases this
  obtain ⟨t, hd, hh, hwt, hpost⟩ := hbody b1 (s.joined b i) wi x (by rw [hwid]; exact hx) hp1 (by rw [hxl]; exact hne) hok
  have hxarr : x.arrival = some ⟨b.pc, b.hints, i, w.live⟩ := by
    rw [hxa]; simp [arrive, harr]
  have hcoll := collective_done (w := b.wid wi) (ends := false) hx hxarr (by rw [hxl]; exact hne) (by rw [hxl]; intro l hl; exact hl) hb1 hrun hfree hpend hmay hnh hd
  refine ⟨((t.retire b1 false sameThread).modWarp (b.wid wi) fun y => { y with arrival := none }).file
      (b.wid wi).unit (b.wid wi).wg b1.g.core (x.live.map fun l => ((b.wid wi).warp, l)) ((s.joined b i).clk + 1) ((s.joined b i).clk + 1) false, ?_, ?_, ?_, ?_⟩
  · rw [he]
    unfold collIssue
    have hdv : b.diverge i = ([], false) := by simp [Bundle.diverge, hparts, harr]
    simp only [hb, hid, hdv, Bool.not_true, Bool.false_eq_true, if_false]
    have hjo : (b.parts.foldl (fun s (x : Nat × Warp × List Nat) => s.modWarp (b.wid x.1) (arrive b i x.2.2)) s).leave b = s.joined b i := rfl
    rw [hparts] at hjo ⊢
    simp only [List.foldl_cons, List.foldl_nil] at hjo ⊢
    rw [hjo, hcoll]
  · simp only [home_file, modWarp_home, State.retire, hp1, List.foldl_cons, List.foldl_nil, home_countTurn, hh]
    simp [State.joined, hparts]
  · simp only [warp?_file, warp?_modWarp_self, State.retire, hp1, List.foldl_cons, List.foldl_nil, warp?_countTurn, ← hwid, hwt]
    rfl
  · apply hpost
    · simp [State.retire, hp1]
    · intro c
      simp [State.retire, hp1]
end Sys2Proof.Machine
end

