-- ==== Sys2Proof/Laws/Memory.lean ====
section
/-! SUPPORT. The laws of memory: every operation keeps the canonical form, a read after a write gives what was written, and
a write leaves every other place alone. -/

namespace Sys2Proof.Machine

/-! ### Bytes -/

theorem memGet_absent {m : Memory} {a : Nat} (h : ∀ c ∈ m, a < c.1) : memGet m a = 0 := by
  cases m with
  | nil => rfl
  | cons c t =>
    obtain ⟨b, w⟩ := c
    have : a < b := h _ List.mem_cons_self
    simp [memGet, this, Nat.ne_of_lt this]

/-- The keys of a memory after a write are the old ones and perhaps the one written. -/
theorem mem_memSet {m : Memory} {a : Nat} {v : Byte} {c : Nat × Byte} (h : c ∈ memSet m a v) : c ∈ m ∨ (c = (a, v) ∧ v ≠ 0) := by
  induction m with
  | nil =>
    simp only [memSet] at h
    split at h
    · exact absurd h List.not_mem_nil
    · exact .inr ⟨List.mem_singleton.1 h, ‹_›⟩
  | cons x t ih =>
    obtain ⟨b, w⟩ := x
    simp only [memSet] at h
    split at h
    · split at h
      · exact .inl h
      · rcases List.mem_cons.1 h with rfl | h
        · exact .inr ⟨rfl, ‹_›⟩
        · exact .inl h
    · split at h
      · split at h
        · exact .inl (List.mem_cons_of_mem _ h)
        · rcases List.mem_cons.1 h with rfl | h
          · exact .inr ⟨rfl, ‹_›⟩
          · exact .inl (List.mem_cons_of_mem _ h)
      · rcases List.mem_cons.1 h with rfl | h
        · exact .inl List.mem_cons_self
        · rcases ih h with h | h
          · exact .inl (List.mem_cons_of_mem _ h)
          · exact .inr h

theorem memSet_wf {m : Memory} (a : Nat) (v : Byte) (h : Memory.wf m) : Memory.wf (memSet m a v) := by
  refine ⟨?_, fun c hc => ?_⟩
  · obtain ⟨hs, -⟩ := h
    induction m with
    | nil => simp only [memSet]; split <;> simp
    | cons x t ih =>
      obtain ⟨b, w⟩ := x
      rw [List.pairwise_cons] at hs
      simp only [memSet]
      split
      · rename_i hab
        split
        · exact List.pairwise_cons.2 hs
        · refine List.pairwise_cons.2 ⟨fun c hc => ?_, List.pairwise_cons.2 hs⟩
          rcases List.mem_cons.1 hc with rfl | hc
          · exact hab
          · exact Nat.lt_trans hab (hs.1 c hc)
      · split
        · rename_i hab
          subst hab
          split
          · exact hs.2
          · exact List.pairwise_cons.2 ⟨hs.1, hs.2⟩
        · refine List.pairwise_cons.2 ⟨fun c hc => ?_, ih hs.2⟩
          rcases mem_memSet hc with hc | ⟨rfl, -⟩
          · exact hs.1 c hc
          · simp only; omega
  · rcases mem_memSet hc with hc | ⟨rfl, h0⟩
    · exact h.2 c hc
    · exact h0

/-- A read after a write: the byte written at its place, what was there elsewhere. -/
theorem memGet_memSet {m : Memory} (h : Memory.wf m) (a x : Nat) (v : Byte) :
    memGet (memSet m a v) x = if x = a then v else memGet m x := by
  obtain ⟨hs, -⟩ := h
  induction m with
  | nil =>
    simp only [memSet]
    split
    · rename_i h0; subst h0; simp [memGet]
    · simp [memGet]
  | cons y t ih =>
    obtain ⟨b, w⟩ := y
    rw [List.pairwise_cons] at hs
    have habs : ∀ z, z ≤ b → memGet t z = 0 := fun z hz => memGet_absent fun c hc => by have := hs.1 c hc; simp only at this; omega
    simp only [memSet]
    split
    · rename_i hab
      split
      · rename_i h0; subst h0
        by_cases hx : x = a
        · subst hx; simp [memGet, hab, Nat.ne_of_lt hab]
        · simp [hx]
      · by_cases hx : x = a
        · simp [memGet, hx]
        · by_cases hlt : x < a
          · have : x < b := by omega
            simp [memGet, hx, hlt, this, Nat.ne_of_lt this]
          · simp [memGet, hx, hlt]
    · split
      · rename_i h1 h2
        subst h2
        split
        · rename_i h0; subst h0
          by_cases hx : x = a
          · subst hx; simp [habs]
          · by_cases hlt : x < a
            · simp [memGet, hx, hlt, habs x (by omega)]
            · simp [memGet, hx, hlt]
        · by_cases hx : x = a <;> simp [memGet, hx]
      · by_cases hx : x = b
        · have : x ≠ a := by omega
          simp [memGet, hx]; intro hh; omega
        · by_cases hlt : x < b
          · have : x ≠ a := by omega
            simp [memGet, hx, hlt, this]
          · simp [memGet, hx, hlt, ih hs.2]

theorem memWrite_wf {m : Memory} (a : Nat) (bs : List Byte) (h : Memory.wf m) : Memory.wf (memWrite m a bs) := by
  induction bs generalizing m a with
  | nil => exact h
  | cons b bs ih => exact ih _ (memSet_wf a b h)

/-- What bytes read as after several are written upward from `a`. -/
theorem memGet_memWrite {m : Memory} (h : Memory.wf m) (a x : Nat) (bs : List Byte) :
    memGet (memWrite m a bs) x = if a ≤ x ∧ x < a + bs.length then (bs[x - a]?).getD 0 else memGet m x := by
  induction bs generalizing m a with
  | nil => simp [memWrite]
  | cons b bs ih =>
    rw [memWrite, ih (memSet_wf a b h), memGet_memSet h]
    by_cases h1 : x = a
    · subst h1; simp
    · by_cases h2 : a + 1 ≤ x ∧ x < a + 1 + bs.length
      · have : x - a = x - (a + 1) + 1 := by omega
        rw [if_pos h2, if_pos (by simp only [List.length_cons]; omega), this, List.getElem?_cons_succ]
      · rw [if_neg h2, if_neg h1, if_neg (by simp only [List.length_cons]; omega)]

theorem length_memRead (m : Memory) (a n : Nat) : (memRead m a n).length = n := by
  induction n generalizing a with
  | zero => rfl
  | succ n ih => simp [memRead, ih]

theorem getElem_memRead (m : Memory) (a n i : Nat) : (memRead m a n)[i]? = if i < n then some (memGet m (a + i)) else none := by
  induction n generalizing a i with
  | zero => simp [memRead]
  | succ n ih =>
    cases i with
    | zero => simp [memRead]
    | succ i => simp only [memRead, List.getElem?_cons_succ, ih, Nat.add_lt_add_iff_right]; congr 2; congr 1; omega

/-! ### Sparse maps -/

theorem mem_natSet {m : NatMap} {a v : Nat} {c : Nat × Nat} (h : c ∈ natSet m a v) : c ∈ m ∨ (c = (a, v) ∧ v ≠ 0) := by
  induction m with
  | nil =>
    simp only [natSet] at h
    split at h
    · exact absurd h List.not_mem_nil
    · exact .inr ⟨List.mem_singleton.1 h, ‹_›⟩
  | cons x t ih =>
    obtain ⟨b, w⟩ := x
    simp only [natSet] at h
    split at h
    · split at h
      · exact .inl h
      · rcases List.mem_cons.1 h with rfl | h
        · exact .inr ⟨rfl, ‹_›⟩
        · exact .inl h
    · split at h
      · split at h
        · exact .inl (List.mem_cons_of_mem _ h)
        · rcases List.mem_cons.1 h with rfl | h
          · exact .inr ⟨rfl, ‹_›⟩
          · exact .inl (List.mem_cons_of_mem _ h)
      · rcases List.mem_cons.1 h with rfl | h
        · exact .inl List.mem_cons_self
        · rcases ih h with h | h
          · exact .inl (List.mem_cons_of_mem _ h)
          · exact .inr h

/-- A write to a sparse map keeps its keys rising. -/
theorem natSet_sorted {m : NatMap} (a v : Nat) (hs : m.Pairwise fun x y => x.1 < y.1) :
    (natSet m a v).Pairwise fun x y => x.1 < y.1 := by
  induction m with
  | nil => simp only [natSet]; split <;> simp
  | cons x t ih =>
    obtain ⟨b, w⟩ := x
    rw [List.pairwise_cons] at hs
    simp only [natSet]
    split
    · rename_i hab
      split
      · exact List.pairwise_cons.2 hs
      · refine List.pairwise_cons.2 ⟨fun c hc => ?_, List.pairwise_cons.2 hs⟩
        rcases List.mem_cons.1 hc with rfl | hc
        · exact hab
        · exact Nat.lt_trans hab (hs.1 c hc)
    · split
      · rename_i hab
        subst hab
        split
        · exact hs.2
        · exact List.pairwise_cons.2 ⟨hs.1, hs.2⟩
      · refine List.pairwise_cons.2 ⟨fun c hc => ?_, ih hs.2⟩
        rcases mem_natSet hc with hc | ⟨rfl, -⟩
        · exact hs.1 c hc
        · simp only; omega

theorem natGet_absent {m : NatMap} {a : Nat} (h : ∀ c ∈ m, a < c.1) : natGet m a = 0 := by
  cases m with
  | nil => rfl
  | cons c t =>
    obtain ⟨b, w⟩ := c
    have : a < b := h _ List.mem_cons_self
    simp [natGet, this, Nat.ne_of_lt this]

theorem natGet_natSet {m : NatMap} (hs : m.Pairwise fun x y => x.1 < y.1) (a x v : Nat) :
    natGet (natSet m a v) x = if x = a then v else natGet m x := by
  induction m with
  | nil =>
    simp only [natSet]
    split
    · rename_i h0; subst h0; simp [natGet]
    · simp [natGet]
  | cons y t ih =>
    obtain ⟨b, w⟩ := y
    rw [List.pairwise_cons] at hs
    have habs : ∀ z, z ≤ b → natGet t z = 0 := fun z hz => natGet_absent fun c hc => by have := hs.1 c hc; simp only at this; omega
    simp only [natSet]
    split
    · rename_i hab
      split
      · rename_i h0; subst h0
        by_cases hx : x = a
        · subst hx; simp [natGet, hab, Nat.ne_of_lt hab]
        · simp [hx]
      · by_cases hx : x = a
        · simp [natGet, hx]
        · by_cases hlt : x < a
          · have : x < b := by omega
            simp [natGet, hx, hlt, this, Nat.ne_of_lt this]
          · simp [natGet, hx, hlt]
    · split
      · rename_i h1 h2
        subst h2
        split
        · rename_i h0; subst h0
          by_cases hx : x = a
          · subst hx; simp [habs]
          · by_cases hlt : x < a
            · simp [natGet, hx, hlt, habs x (by omega)]
            · simp [natGet, hx, hlt]
        · by_cases hx : x = a <;> simp [natGet, hx]
      · by_cases hx : x = b
        · have : x ≠ a := by omega
          simp [natGet, hx]; intro hh; omega
        · by_cases hlt : x < b
          · have : x ≠ a := by omega
            simp [natGet, hx, hlt, this]
          · simp [natGet, hx, hlt, ih hs.2]

/-! ### Physical memory -/

theorem foldl_wf {α : Type} (f : Memory → α → Memory) (hf : ∀ m a, Memory.wf m → Memory.wf (f m a)) (xs : List α) {m : Memory}
    (h : Memory.wf m) : Memory.wf (xs.foldl f m) := by
  induction xs generalizing m with
  | nil => exact h
  | cons x xs ih => exact ih (hf m x h)

theorem writePhys_wf {h : Home} (pa : Nat) (bs : List Byte) (hw : Memory.wf h.mem) : Memory.wf (writePhys h pa bs).1.mem := by
  unfold writePhys
  exact foldl_wf _ (fun m x hm => by dsimp only; split; exact hm; exact memSet_wf _ _ hm) _ hw
@[simp] theorem writePhys_host (h : Home) (pa : Nat) (bs : List Byte) : (writePhys h pa bs).1.host = h.host := rfl
@[simp] theorem writePhys_peers (h : Home) (pa : Nat) (bs : List Byte) : (writePhys h pa bs).1.peers = h.peers := rfl

/-- Where no poison is met, physical bytes written read back, and every other byte is as it was. -/
theorem writePhys_get {h : Home} {pa : Nat} {bs : List Byte} (hw : Memory.wf h.mem)
    (hp : ∀ u ∈ h.poison, overlaps u 8 pa bs.length = false) (x : Nat) :
    memGet (writePhys h pa bs).1.mem x = if pa ≤ x ∧ x < pa + bs.length then (bs[x - pa]?).getD 0 else memGet h.mem x := by
  have key : ∀ (l : List Byte) (k : Nat) (m : Memory), k + l.length ≤ bs.length →
      (l.zipIdx k).foldl (fun m (x : Byte × Nat) =>
        if (h.poison.any fun u => overlaps u 8 (pa + x.2) 1 && !within u 8 pa bs.length) = true then m else memSet m (pa + x.2) x.1) m =
      memWrite m (pa + k) l := by
    intro l
    induction l with
    | nil => intros; rfl
    | cons b l ih =>
      intro k m hk
      simp only [List.length_cons] at hk
      have h0 : (h.poison.any fun u => overlaps u 8 (pa + k) 1 && !within u 8 pa bs.length) = false := by
        rw [List.any_eq_false]
        intro u hu
        have := hp u hu
        simp only [overlaps, Bool.and_eq_false_iff, decide_eq_false_iff_not] at this
        simp only [overlaps, Bool.and_eq_true, decide_eq_true_eq, Bool.not_eq_true', not_and]
        omega
      simp only [List.zipIdx_cons, List.foldl_cons, h0, Bool.false_eq_true, if_false, memWrite]
      rw [ih (k + 1) _ (by omega)]
      rfl
  have := key bs 0 h.mem (by omega)
  have heq : (writePhys h pa bs).1.mem = memWrite h.mem pa bs := this
  rw [heq, memGet_memWrite hw]

/-! ### What the shared operations keep -/

/-- The canonical form speaks of the three memories and the words of the watch blocks alone. -/
theorem memWf_congr {s t : State} (h : s.memWf) (hh : t.home = s.home) (hw : t.watch.words = s.watch.words) : t.memWf := by
  unfold State.memWf at h ⊢; rwa [hh, hw]
theorem memWf_of_mem {s t : State} (h : s.memWf) (hm : Memory.wf t.home.mem) (hh : t.home.host = s.home.host)
    (hp : t.home.peers = s.home.peers) (hw : t.watch.words = s.watch.words) : t.memWf :=
  ⟨hm, by rw [hh]; exact h.2.1, by rw [hp]; exact h.2.2.1, by rw [hw]; exact h.2.2.2⟩
theorem peerMem_wf {s : State} (h : s.memWf) (n : Nat) : Memory.wf (peerMem s.home n) := by
  unfold peerMem
  cases hf : s.home.peers.find? (·.1 == n) with
  | none => exact ⟨List.Pairwise.nil, fun _ hc => absurd hc List.not_mem_nil⟩
  | some p => exact h.2.2.1 p (List.mem_of_find?_eq_some hf)
theorem setWatchWord_memWf {s : State} (h : s.memWf) (ctx sel v : Nat) : (s.setWatchWord ctx sel v).memWf :=
  ⟨h.1, h.2.1, h.2.2.1, natSet_sorted _ _ h.2.2.2⟩
theorem foldl_memWf {α : Type} (f : State → α → State) (hf : ∀ s a, s.memWf → (f s a).memWf) (xs : List α) {s : State}
    (h : s.memWf) : (xs.foldl f s).memWf := by
  induction xs generalizing s with
  | nil => exact h
  | cons x xs ih => exact ih (hf s x h)
@[simp] theorem monitorsAfter_home (s : State) (ia n : Nat) : (s.monitorsAfter ia n).home = s.home := rfl
@[simp] theorem monitorsAfter_watch (s : State) (ia n : Nat) : (s.monitorsAfter ia n).watch = s.watch := rfl
@[simp] theorem keepEntry_mem (h : Home) (c l k e : Nat) : (h.keepEntry c l k e).mem = h.mem := by
  unfold Home.keepEntry; split <;> rfl
@[simp] theorem keepEntry_host (h : Home) (c l k e : Nat) : (h.keepEntry c l k e).host = h.host := by
  unfold Home.keepEntry; split <;> rfl
@[simp] theorem keepEntry_peers (h : Home) (c l k e : Nat) : (h.keepEntry c l k e).peers = h.peers := by
  unfold Home.keepEntry; split <;> rfl
/-- A walk that is cached leaves every memory and the watch blocks as they are. -/
theorem cacheWalk_frame (s : State) (ctx ia : Nat) : (s.cacheWalk ctx ia).home.mem = s.home.mem ∧
    (s.cacheWalk ctx ia).home.host = s.home.host ∧ (s.cacheWalk ctx ia).home.peers = s.home.peers ∧
    (s.cacheWalk ctx ia).watch = s.watch := by
  unfold State.cacheWalk
  split
  · exact ⟨rfl, rfl, rfl, rfl⟩
  · split
    · rename_i es _
      have key (es : List (Nat × Nat)) (h : Home) : ∀ (g : Home → Nat × Nat → Home), (∀ h e, (g h e).mem = h.mem ∧ (g h e).host = h.host ∧ (g h e).peers = h.peers) →
          (es.foldl g h).mem = h.mem ∧ (es.foldl g h).host = h.host ∧ (es.foldl g h).peers = h.peers := by
        intro g hg
        induction es generalizing h with
        | nil => exact ⟨rfl, rfl, rfl⟩
        | cons e es ih =>
          obtain ⟨a1, a2, a3⟩ := ih (g h e)
          obtain ⟨b1, b2, b3⟩ := hg h e
          exact ⟨a1.trans b1, a2.trans b2, a3.trans b3⟩
      obtain ⟨k1, k2, k3⟩ := key es s.home _ fun h e => ⟨keepEntry_mem .., keepEntry_host .., keepEntry_peers ..⟩
      exact ⟨k1, k2, k3, rfl⟩
    · exact ⟨rfl, rfl, rfl, rfl⟩
/-- Whatever a write at its slice answers, the memories stay canonical. -/
theorem writeLocal_memWf {s t : State} (h : s.memWf) {ctx ia : Nat} {bs : List Byte} {k c : Nat}
    (ht : (∃ g b, s.writeLocal ctx ia bs k c = .ok t g b) ∨ s.writeLocal ctx ia bs k c = .wait t) : t.memWf := by
  unfold State.writeLocal at ht
  dsimp only at ht
  split at ht
  · simp only [WriteRes.ok.injEq, reduceCtorEq, or_false] at ht
    obtain ⟨_, _, rfl, _⟩ := ht; exact h
  · split at ht
    · simp only [WriteRes.wait.injEq, reduceCtorEq, exists_false, false_or] at ht
      subst ht; exact h
    · split at ht
      · simp only [WriteRes.wait.injEq, reduceCtorEq, exists_false, false_or] at ht
        subst ht; exact h
      · simp only [WriteRes.ok.injEq, reduceCtorEq, or_false] at ht
        obtain ⟨_, _, rfl, _⟩ := ht; exact h
      · simp only [WriteRes.ok.injEq, reduceCtorEq, or_false] at ht
        obtain ⟨_, _, rfl, _⟩ := ht
        obtain ⟨c1, c2, c3, c4⟩ := cacheWalk_frame (({ s with home := _ } : State).monitorsAfter ia bs.length) ctx ia
        exact memWf_of_mem h (by rw [c1]; exact writePhys_wf _ _ h.1) c2 c3 (by rw [c4]; rfl)
theorem writeSpan_memWf {s : State} (h : s.memWf) (ctx : Nat) (sp : Space) (a : Nat) (bs : List Byte) (c : Nat) :
    (s.writeSpan ctx sp a bs c).1.memWf := by
  unfold State.writeSpan
  split
  · exact ⟨h.1, memWrite_wf _ _ h.2.1, h.2.2⟩
  · split
    · exact h
    · refine ⟨h.1, h.2.1, fun q hq => ?_, h.2.2.2⟩
      simp only [setPeer, List.mem_cons, List.mem_filter] at hq
      rcases hq with rfl | ⟨hq, -⟩
      · exact memWrite_wf _ _ (peerMem_wf h _)
      · exact h.2.2.1 q hq
  · have key : ∀ (xs : List (Nat × Nat)) (x : State × Nat × Option (Nat × Nat × Nat)), x.1.memWf →
        (xs.foldl (fun (x : State × Nat × Option (Nat × Nat × Nat)) (y : Nat × Nat) =>
          match ({ x.1 with home := { x.1.home with hostLines := x.1.home.hostLines.filter (· != y.1 / 256) } } : State).writeLocal
            ctx y.1 ((bs.drop (y.1 - a)).take y.2) 0 c with
          | .ok s' g' b => (s', max x.2.1 g', if x.2.2.isNone then b else x.2.2)
          | .wait s' => ({ s' with home := { s'.home with
              late := s'.home.late ++ [(ctx, y.1, (bs.drop (y.1 - a)).take y.2)] } }, x.2.1, x.2.2)) x).1.memWf := by
      intro xs
      induction xs with
      | nil => intro x hx; exact hx
      | cons y ys ih =>
        intro x hx
        refine ih _ ?_
        have hx' : ({ x.1 with home := { x.1.home with hostLines := x.1.home.hostLines.filter (· != y.1 / 256) } } : State).memWf := hx
        dsimp only
        split
        · rename_i heq; exact writeLocal_memWf hx' (.inl ⟨_, _, heq⟩)
        · rename_i heq; have hw := writeLocal_memWf hx' (.inr heq); exact memWf_of_mem hw hw.1 rfl rfl rfl
    exact key _ (s, 0, none) h
theorem post_memWf {s : State} (h : s.memWf) (q : Nat) (r : Record) (d : Bool) : (s.post q r d).memWf := by
  unfold State.post
  dsimp only
  split
  · have h' : (s.modQueue q fun x => { x with seq := (s.queue q).seq + 1 }).memWf := h
    exact writeSpan_memWf h' ..
  · exact h
theorem trace_memWf {s : State} (h : s.memWf) (src ctx bit : Nat) (d : BitVec 256) : (s.trace src ctx bit d).memWf := by
  unfold State.trace; split <;> exact h
theorem capture_memWf {s : State} (h : s.memWf) (d : Dump) (new : List Capture) : (s.capture d new).1.memWf := by
  unfold State.capture
  dsimp only
  split <;> repeat' split
  all_goals exact h
theorem traceFault_memWf {s : State} (h : s.memWf) (u : Placed) (w : WarpId) (code : Nat) (pc : VAddr) (lane : Nat) :
    (s.traceFault u w code pc lane).memWf := by
  unfold State.traceFault; exact trace_memWf h ..
theorem peerFaults_memWf {s : State} (h : s.memWf) (u : Placed) (wg code : Nat) : (s.peerFaults u wg code).memWf := by
  unfold State.peerFaults
  refine foldl_memWf _ (fun s g hs => ?_) _ h
  exact traceFault_memWf (post_memWf hs ..) ..
/-- Taking faults keeps the canonical form. -/
theorem takeHits_memWf {s : State} (h : s.memWf) (unit wg : Nat) (precise : Bool) (pc : VAddr) (hits : List (Nat × Hit)) :
    (s.takeHits unit wg precise pc hits).memWf := by
  unfold State.takeHits
  split
  · exact h
  · split
    · exact h
    · dsimp only
      have ends (s : State) (hs : s.memWf) : (s.endUnit unit).memWf := memWf_congr hs rfl rfl
      exact ends _ (peerFaults_memWf (foldl_memWf _ (fun s x hs => traceFault_memWf hs ..) hits
        (foldl_memWf _ (fun s x hs => post_memWf hs ..) _ (capture_memWf h _ _))) ..)
theorem takeFault_memWf {s : State} (h : s.memWf) (unit wg code : Nat) (precise : Bool) (pc : VAddr) (hits : List Hit) :
    (s.takeFault unit wg code precise pc hits).memWf := takeHits_memWf h ..

/-! ### Caching table entries (R353) -/

/-- Keeping the entries of a walk, of a span or of records changes only what the slices cache. -/
def State.caches (s t : State) : Prop := ∃ c, t = { s with home := { s.home with tlb := c } }
theorem caches_refl (s : State) : s.caches s := ⟨s.home.tlb, rfl⟩
theorem caches_trans {s t r : State} (h : s.caches t) (k : t.caches r) : s.caches r := by
  obtain ⟨c, rfl⟩ := h; obtain ⟨d, rfl⟩ := k; exact ⟨d, rfl⟩
theorem caches_foldl {α : Type} (f : State → α → State) (hf : ∀ (s : State) (a : α), s.caches (f s a)) :
    ∀ (xs : List α) (s : State), s.caches (xs.foldl f s)
  | [], s => caches_refl s
  | x :: xs, s => caches_trans (hf s x) (caches_foldl f hf xs (f s x))
theorem keepEntry_tlb (h : Home) (ctx level k e : Nat) : ∃ c, h.keepEntry ctx level k e = { h with tlb := c } := by
  unfold Home.keepEntry; split
  · exact ⟨h.tlb, rfl⟩
  · exact ⟨_, rfl⟩
theorem cacheWalk_caches (s : State) (ctx ia : Nat) : s.caches (s.cacheWalk ctx ia) := by
  unfold State.cacheWalk
  split
  · exact caches_refl s
  · split
    · rename_i es _
      suffices key : ∀ (xs : List (Nat × Nat)) (h : Home), ∃ c,
          xs.foldl (fun h (x : Nat × Nat) => h.keepEntry ctx x.1 (slotNo x.1 ia) x.2) h = { h with tlb := c } by
        obtain ⟨c, hc⟩ := key es s.home
        exact ⟨c, by rw [← hc]⟩
      intro xs
      induction xs with
      | nil => exact fun h => ⟨h.tlb, rfl⟩
      | cons x xs ih =>
        intro h
        obtain ⟨c, hc⟩ := keepEntry_tlb h ctx x.1 (slotNo x.1 ia) x.2
        obtain ⟨d, hd⟩ := ih { h with tlb := c }
        exact ⟨d, by simp only [List.foldl_cons, hc, hd]⟩
    · exact caches_refl s
theorem cacheSpan_caches (s : State) (ctx : Nat) (sp : Space) (a n : Nat) : s.caches (s.cacheSpan ctx sp a n) := by
  unfold State.cacheSpan
  split
  · exact caches_foldl _ (fun s (x : Nat × Nat) => cacheWalk_caches s ctx x.1) _ s
  · exact caches_refl s
theorem cacheVA_caches (s : State) (ctx va n : Nat) : s.caches (s.cacheVA ctx va n) := by
  unfold State.cacheVA
  split
  · exact caches_refl s
  · exact cacheSpan_caches ..
theorem cacheRecs_caches (s : State) (ctx : Nat) (spans : List (Nat × Nat)) : s.caches (s.cacheRecs ctx spans) :=
  caches_foldl _ (fun s (x : Nat × Nat) => cacheVA_caches s ctx x.1 x.2) _ s

end Sys2Proof.Machine
end

