-- ==== Sys2Proof/Laws/PerInstr.lean ====
section
/-! SUPPORT. The round trip of each constructor: the word that the encoder writes decodes to the instruction it was written
from. -/

namespace Sys2Proof

theorem bF_of {n w lo : Nat} (x : BitVec n) (h : nF n w lo = x.toNat) : bF n w lo = x := by
  apply BitVec.eq_of_toNat_eq
  simpa [bF, nF] using h
theorem tF_of {w lo : Nat} (b : Bool) (h : nF 1 w lo = bit b) : tF w lo = b := by
  unfold tF
  rw [h]
  cases b <;> rfl
theorem bit_lt (b : Bool) : bit b < 2 ^ 1 := by cases b <;> decide

theorem ActFn.ofCode_code (x : ActFn) : ActFn.ofCode x.code = some x := by cases x <;> rfl
theorem ActFn.code_lt (x : ActFn) : x.code < 2 ^ 3 := by cases x <;> decide
theorem AtomOp.ofCode_code (x : AtomOp) : AtomOp.ofCode x.code = some x := by cases x <;> rfl
theorem AtomOp.code_lt (x : AtomOp) : x.code < 2 ^ 4 := by cases x <;> decide
theorem Bcast.ofCode_code (x : Bcast) : Bcast.ofCode x.code = some x := by cases x <;> rfl
theorem Bcast.code_lt (x : Bcast) : x.code < 2 ^ 2 := by cases x <;> decide
theorem BraCond.ofCode_code (x : BraCond) : BraCond.ofCode x.code = some x := by cases x <;> rfl
theorem BraCond.code_lt (x : BraCond) : x.code < 2 ^ 2 := by cases x <;> decide
theorem FCond.ofCode_code (x : FCond) : FCond.ofCode x.code = x := by cases x <;> rfl
theorem FCond.code_lt (x : FCond) : x.code < 2 ^ 3 := by cases x <;> decide
theorem ICond.ofCode_code (x : ICond) : ICond.ofCode x.code = some x := by cases x <;> rfl
theorem ICond.code_lt (x : ICond) : x.code < 2 ^ 3 := by cases x <;> decide
theorem IOvr.ofCode_code (x : IOvr) : IOvr.ofCode x.code = some x := by cases x <;> rfl
theorem IOvr.code_lt (x : IOvr) : x.code < 2 ^ 2 := by cases x <;> decide
theorem ITy.ofCode_code (x : ITy) : ITy.ofCode x.code = x := by cases x <;> rfl
theorem ITy.code_lt (x : ITy) : x.code < 2 ^ 1 := by cases x <;> decide
theorem Order.ofCode_code (x : Order) : Order.ofCode x.code = x := by cases x <;> rfl
theorem Order.code_lt (x : Order) : x.code < 2 ^ 2 := by cases x <;> decide
theorem Policy.ofCode_code (x : Policy) : Policy.ofCode x.code = x := by cases x <;> rfl
theorem Policy.code_lt (x : Policy) : x.code < 2 ^ 2 := by cases x <;> decide
theorem RedOp.ofCode_code (x : RedOp) : RedOp.ofCode x.code = some x := by cases x <;> rfl
theorem RedOp.code_lt (x : RedOp) : x.code < 2 ^ 4 := by cases x <;> decide
theorem Rnd.ofCode_code (x : Rnd) : Rnd.ofCode x.code = some x := by cases x <;> rfl
theorem Rnd.code_lt (x : Rnd) : x.code < 2 ^ 3 := by cases x <;> decide
theorem Scope.ofCode_code (x : Scope) : Scope.ofCode x.code = some x := by cases x <;> rfl
theorem Scope.code_lt (x : Scope) : x.code < 2 ^ 3 := by cases x <;> decide
theorem Size.ofCode_code (x : Size) : Size.ofCode x.code = some x := by cases x <;> rfl
theorem Size.code_lt (x : Size) : x.code < 2 ^ 3 := by cases x <;> decide
theorem WCond.ofCode_code (x : WCond) : WCond.ofCode x.code = x := by cases x <;> rfl
theorem WCond.code_lt (x : WCond) : x.code < 2 ^ 2 := by cases x <;> decide
theorem WalkAct.ofCode_code (x : WalkAct) : WalkAct.ofCode x.code = some x := by cases x <;> rfl
theorem WalkAct.code_lt (x : WalkAct) : x.code < 2 ^ 2 := by cases x <;> decide
theorem Xform.ofCode_code (x : Xform) : Xform.ofCode x.code = some x := by cases x <;> rfl
theorem Xform.code_lt (x : Xform) : x.code < 2 ^ 3 := by cases x <;> decide
theorem LTy.code_lt (x : LTy) : x.code < 2 ^ 4 := by
  cases x with
  | slot f => have := f.isLt; simp only [LTy.code]; omega
  | _ => decide
theorem LTy.ofCode_code (x : LTy) : LTy.ofCode x.code = some x := by
  cases x with
  | slot f => revert f; decide
  | _ => rfl
theorem ovrCode_lt (x : Option LTy) : ovrCode x < 2 ^ 4 := by
  cases x with
  | none => decide
  | some t => exact t.code_lt
theorem ovrOfCode_code (x : Option LTy) : ovrOfCode (ovrCode x) = some x := by
  cases x with
  | none => rfl
  | some t =>
    have h : LTy.code t ≠ 0 := by cases t <;> simp [LTy.code]
    simp [ovrOfCode, ovrCode, h, LTy.ofCode_code]
theorem b64OfCode_code (b : Bool) : b64OfCode (b64Code b) = some b := by cases b <;> rfl
theorem b64Code_lt (b : Bool) : b64Code b < 2 ^ 3 := by cases b <;> decide
theorem b128OfCode_code (b : Bool) : b128OfCode (b128Code b) = some b := by cases b <;> rfl
theorem b128Code_lt (b : Bool) : b128Code b < 2 ^ 3 := by cases b <;> decide
theorem sysOfCode_code (b : Bool) : sysOfCode (sysCode b) = some b := by cases b <;> rfl
theorem sysCode_lt (b : Bool) : sysCode b < 2 ^ 3 := by cases b <;> decide

/-! ### What each major decodes to -/

theorem decRaw_1 (w : Nat) (m : nF 7 w 25 = 1) : decRaw w =
    if nF 1 w 0 = 0 then
      some (.iadd (gF w 18) (gF w 11) (gF w 4) (bF 2 w 2) (ITy.ofCode (nF 1 w 1)))
    else if nF 1 w 0 = 1 then
      some (.isub (gF w 18) (gF w 11) (gF w 4) (bF 2 w 2) (ITy.ofCode (nF 1 w 1)))
    else none := by
  unfold decRaw decInt
  rw [m]
  rfl
theorem decRaw_2 (w : Nat) (m : nF 7 w 25 = 2) : decRaw w =
    some (.iaddi (gF w 18) (gF w 11) (bF 11 w 0)) := by
  unfold decRaw decInt
  rw [m]
  rfl
theorem decRaw_3 (w : Nat) (m : nF 7 w 25 = 3) : decRaw w =
    if nF 1 w 0 = 0 then
      some (.imul (gF w 18) (gF w 11) (gF w 4) (bF 2 w 2) (ITy.ofCode (nF 1 w 1)))
    else if nF 1 w 0 = 1 then
      some (.imulhi (gF w 18) (gF w 11) (gF w 4) (bF 2 w 2) (ITy.ofCode (nF 1 w 1)))
    else none := by
  unfold decRaw decInt
  rw [m]
  rfl
theorem decRaw_4 (w : Nat) (m : nF 7 w 25 = 4) : decRaw w =
    if nF 1 w 0 = 0 then
      some (.imad (gF w 18) (gF w 11) (gF w 4) (bF 2 w 2) (ITy.ofCode (nF 1 w 1)))
    else none := by
  unfold decRaw decInt
  rw [m]
  rfl
theorem decRaw_5 (w : Nat) (m : nF 7 w 25 = 5) : decRaw w =
    if nF 1 w 0 = 0 then
      some (.imin (gF w 18) (gF w 11) (gF w 4) (bF 2 w 2) (ITy.ofCode (nF 1 w 1)))
    else if nF 1 w 0 = 1 then
      some (.imax (gF w 18) (gF w 11) (gF w 4) (bF 2 w 2) (ITy.ofCode (nF 1 w 1)))
    else none := by
  unfold decRaw decInt
  rw [m]
  rfl
theorem decRaw_6 (w : Nat) (m : nF 7 w 25 = 6) : decRaw w =
    if nF 7 w 4 = 0 ∧ nF 2 w 0 = 0 then
      some (.clz (gF w 18) (gF w 11) (bF 2 w 2))
    else if nF 7 w 4 = 0 ∧ nF 2 w 0 = 1 then
      some (.popc (gF w 18) (gF w 11) (bF 2 w 2))
    else if nF 7 w 4 = 0 ∧ nF 2 w 0 = 2 then
      some (.brev (gF w 18) (gF w 11) (bF 2 w 2))
    else if nF 7 w 4 = 0 ∧ nF 2 w 0 = 3 then
      some (.iabs (gF w 18) (gF w 11) (bF 2 w 2))
    else none := by
  unfold decRaw decInt
  rw [m]
  rfl
theorem decRaw_7 (w : Nat) (m : nF 7 w 25 = 7) : decRaw w =
    if nF 2 w 0 = 0 then
      some (.and_ (gF w 18) (gF w 11) (gF w 4) (bF 2 w 2))
    else if nF 2 w 0 = 1 then
      some (.or_ (gF w 18) (gF w 11) (gF w 4) (bF 2 w 2))
    else if nF 2 w 0 = 2 then
      some (.xor_ (gF w 18) (gF w 11) (gF w 4) (bF 2 w 2))
    else if nF 2 w 0 = 3 then
      some (.andn (gF w 18) (gF w 11) (gF w 4) (bF 2 w 2))
    else none := by
  unfold decRaw decInt
  rw [m]
  rfl
theorem decRaw_8 (w : Nat) (m : nF 7 w 25 = 8) : decRaw w =
    if nF 2 w 0 = 0 then
      some (.shl (gF w 18) (gF w 11) (gF w 4) (bF 2 w 2))
    else if nF 2 w 0 = 1 then
      some (.shr (gF w 18) (gF w 11) (gF w 4) (bF 2 w 2))
    else if nF 2 w 0 = 2 then
      some (.sar (gF w 18) (gF w 11) (gF w 4) (bF 2 w 2))
    else if nF 2 w 0 = 3 then
      some (.rotl (gF w 18) (gF w 11) (gF w 4) (bF 2 w 2))
    else none := by
  unfold decRaw decInt
  rw [m]
  rfl
theorem decRaw_9 (w : Nat) (m : nF 7 w 25 = 9) : decRaw w =
    if nF 6 w 5 = 0 then
      some (.shli (gF w 18) (gF w 11) (bF 5 w 0))
    else none := by
  unfold decRaw decInt
  rw [m]
  rfl
theorem decRaw_10 (w : Nat) (m : nF 7 w 25 = 10) : decRaw w =
    if nF 6 w 5 = 0 then
      some (.shri (gF w 18) (gF w 11) (bF 5 w 0))
    else none := by
  unfold decRaw decInt
  rw [m]
  rfl
theorem decRaw_11 (w : Nat) (m : nF 7 w 25 = 11) : decRaw w =
    if nF 6 w 5 = 0 then
      some (.sari (gF w 18) (gF w 11) (bF 5 w 0))
    else none := by
  unfold decRaw decInt
  rw [m]
  rfl
theorem decRaw_12 (w : Nat) (m : nF 7 w 25 = 12) : decRaw w =
    if nF 1 w 10 = 0 then
      some (.bfxN32 (gF w 18) (gF w 11) (bF 5 w 0) (bF 5 w 5))
    else none := by
  unfold decRaw decInt
  rw [m]
  rfl
theorem decRaw_13 (w : Nat) (m : nF 7 w 25 = 13) : decRaw w =
    if nF 1 w 10 = 0 then
      some (.bfxI32 (gF w 18) (gF w 11) (bF 5 w 0) (bF 5 w 5))
    else none := by
  unfold decRaw decInt
  rw [m]
  rfl
theorem decRaw_14 (w : Nat) (m : nF 7 w 25 = 14) : decRaw w =
    if nF 1 w 10 = 0 then
      some (.bfi (gF w 18) (gF w 11) (bF 5 w 0) (bF 5 w 5))
    else none := by
  unfold decRaw decInt
  rw [m]
  rfl
theorem decRaw_15 (w : Nat) (m : nF 7 w 25 = 15) : decRaw w =
    if nF 4 w 18 = 0 then
      (ICond.ofCode (nF 3 w 0)).map fun x0 => (.icmp (bF 3 w 22) (gF w 11) (gF w 4) (ITy.ofCode (nF 1 w 3)) x0)
    else none := by
  unfold decRaw decInt
  rw [m]
  rfl
theorem decRaw_16 (w : Nat) (m : nF 7 w 25 = 16) : decRaw w =
    if nF 4 w 18 = 0 ∧ nF 4 w 14 = 0 ∧ nF 4 w 7 = 0 then
      some (.plop (bF 3 w 22) (bF 3 w 11) (bF 3 w 4) (bF 4 w 0))
    else none := by
  unfold decRaw decInt
  rw [m]
  rfl
theorem decRaw_17 (w : Nat) (m : nF 7 w 25 = 17) : decRaw w =
    if nF 7 w 4 = 0 ∧ nF 2 w 0 = 0 then
      some (.mov (gF w 18) (gF w 11) (bF 2 w 2))
    else if nF 2 w 0 = 1 then
      some (.movx (gF w 18) (gF w 11) (gF w 4) (bF 2 w 2))
    else if nF 2 w 0 = 2 then
      some (.movxw (gF w 18) (gF w 11) (gF w 4) (bF 2 w 2))
    else none := by
  unfold decRaw decInt
  rw [m]
  rfl
theorem decRaw_18 (w : Nat) (m : nF 7 w 25 = 18) : decRaw w =
    some (.selP0P3 (gF w 18) (gF w 11) (gF w 4) (bF 2 w 2) (bF 2 w 0)) := by
  unfold decRaw decInt
  rw [m]
  rfl
theorem decRaw_19 (w : Nat) (m : nF 7 w 25 = 19) : decRaw w =
    some (.selP4P7 (gF w 18) (gF w 11) (gF w 4) (bF 2 w 2) (bF 2 w 0)) := by
  unfold decRaw decInt
  rw [m]
  rfl
theorem decRaw_20 (w : Nat) (m : nF 7 w 25 = 20) : decRaw w =
    if nF 7 w 11 = 0 then
      some (.movi (gF w 18) (bF 11 w 0))
    else none := by
  unfold decRaw decInt
  rw [m]
  rfl
theorem decRaw_21 (w : Nat) (m : nF 7 w 25 = 21) : decRaw w =
    if nF 2 w 0 = 0 then
      some (.fadd (gF w 18) (gF w 11) (gF w 4) (bF 2 w 2))
    else if nF 2 w 0 = 1 then
      some (.fsub (gF w 18) (gF w 11) (gF w 4) (bF 2 w 2))
    else none := by
  unfold decRaw decFp
  rw [m]
  rfl
theorem decRaw_22 (w : Nat) (m : nF 7 w 25 = 22) : decRaw w =
    if nF 2 w 0 = 0 then
      some (.fmul (gF w 18) (gF w 11) (gF w 4) (bF 2 w 2))
    else none := by
  unfold decRaw decFp
  rw [m]
  rfl
theorem decRaw_23 (w : Nat) (m : nF 7 w 25 = 23) : decRaw w =
    if nF 2 w 0 = 0 then
      some (.ffma (gF w 18) (gF w 11) (gF w 4) (bF 2 w 2))
    else none := by
  unfold decRaw decFp
  rw [m]
  rfl
theorem decRaw_24 (w : Nat) (m : nF 7 w 25 = 24) : decRaw w =
    if nF 2 w 0 = 0 then
      some (.fmin (gF w 18) (gF w 11) (gF w 4) (bF 2 w 2))
    else if nF 2 w 0 = 1 then
      some (.fmax (gF w 18) (gF w 11) (gF w 4) (bF 2 w 2))
    else none := by
  unfold decRaw decFp
  rw [m]
  rfl
theorem decRaw_25 (w : Nat) (m : nF 7 w 25 = 25) : decRaw w =
    if nF 4 w 18 = 0 ∧ nF 1 w 3 = 0 then
      some (.fcmp (bF 3 w 22) (gF w 11) (gF w 4) (FCond.ofCode (nF 3 w 0)))
    else none := by
  unfold decRaw decFp
  rw [m]
  rfl
theorem decRaw_26 (w : Nat) (m : nF 7 w 25 = 26) : decRaw w =
    if nF 7 w 4 = 0 ∧ nF 2 w 0 = 0 then
      some (.frcp (gF w 18) (gF w 11) (bF 2 w 2))
    else if nF 7 w 4 = 0 ∧ nF 2 w 0 = 1 then
      some (.frsq (gF w 18) (gF w 11) (bF 2 w 2))
    else if nF 7 w 4 = 0 ∧ nF 2 w 0 = 2 then
      some (.fsqrt (gF w 18) (gF w 11) (bF 2 w 2))
    else if nF 7 w 4 = 0 ∧ nF 2 w 0 = 3 then
      some (.fexp2 (gF w 18) (gF w 11) (bF 2 w 2))
    else none := by
  unfold decRaw decFp
  rw [m]
  rfl
theorem decRaw_27 (w : Nat) (m : nF 7 w 25 = 27) : decRaw w =
    if nF 7 w 4 = 0 ∧ nF 2 w 0 = 0 then
      some (.flog2 (gF w 18) (gF w 11) (bF 2 w 2))
    else if nF 7 w 4 = 0 ∧ nF 2 w 0 = 1 then
      some (.fsin (gF w 18) (gF w 11) (bF 2 w 2))
    else if nF 7 w 4 = 0 ∧ nF 2 w 0 = 2 then
      some (.fcos (gF w 18) (gF w 11) (bF 2 w 2))
    else none := by
  unfold decRaw decFp
  rw [m]
  rfl
theorem decRaw_28 (w : Nat) (m : nF 7 w 25 = 28) : decRaw w =
    if nF 2 w 0 = 0 then
      some (.fdiv (gF w 18) (gF w 11) (gF w 4) (bF 2 w 2))
    else none := by
  unfold decRaw decFp
  rw [m]
  rfl
theorem decRaw_29 (w : Nat) (m : nF 7 w 25 = 29) : decRaw w =
    if nF 2 w 0 = 0 then
      some (.fscale (gF w 18) (gF w 11) (gF w 4) (bF 2 w 2))
    else none := by
  unfold decRaw decFp
  rw [m]
  rfl
theorem decRaw_30 (w : Nat) (m : nF 7 w 25 = 30) : decRaw w =
    if nF 2 w 0 = 0 then
      some (.dadd (gF w 18) (gF w 11) (gF w 4) (bF 2 w 2))
    else if nF 2 w 0 = 1 then
      some (.dmul (gF w 18) (gF w 11) (gF w 4) (bF 2 w 2))
    else if nF 2 w 0 = 2 then
      some (.dfma (gF w 18) (gF w 11) (gF w 4) (bF 2 w 2))
    else none := by
  unfold decRaw decFp
  rw [m]
  rfl
theorem decRaw_31 (w : Nat) (m : nF 7 w 25 = 31) : decRaw w =
    if nF 2 w 0 = 0 then
      some (.hadd2F16 (gF w 18) (gF w 11) (gF w 4) (bF 2 w 2))
    else if nF 2 w 0 = 1 then
      some (.hmul2F16 (gF w 18) (gF w 11) (gF w 4) (bF 2 w 2))
    else if nF 2 w 0 = 2 then
      some (.hfma2F16 (gF w 18) (gF w 11) (gF w 4) (bF 2 w 2))
    else none := by
  unfold decRaw decFp
  rw [m]
  rfl
theorem decRaw_32 (w : Nat) (m : nF 7 w 25 = 32) : decRaw w =
    if nF 2 w 0 = 0 then
      some (.hadd2Bf16 (gF w 18) (gF w 11) (gF w 4) (bF 2 w 2))
    else if nF 2 w 0 = 1 then
      some (.hmul2Bf16 (gF w 18) (gF w 11) (gF w 4) (bF 2 w 2))
    else if nF 2 w 0 = 2 then
      some (.hfma2Bf16 (gF w 18) (gF w 11) (gF w 4) (bF 2 w 2))
    else none := by
  unfold decRaw decFp
  rw [m]
  rfl
theorem decRaw_33 (w : Nat) (m : nF 7 w 25 = 33) : decRaw w =
    if nF 2 w 0 = 0 then
      some (.hmin2F16 (gF w 18) (gF w 11) (gF w 4) (bF 2 w 2))
    else if nF 2 w 0 = 1 then
      some (.hmax2F16 (gF w 18) (gF w 11) (gF w 4) (bF 2 w 2))
    else none := by
  unfold decRaw decFp
  rw [m]
  rfl
theorem decRaw_34 (w : Nat) (m : nF 7 w 25 = 34) : decRaw w =
    if nF 2 w 0 = 0 then
      some (.hmin2Bf16 (gF w 18) (gF w 11) (gF w 4) (bF 2 w 2))
    else if nF 2 w 0 = 1 then
      some (.hmax2Bf16 (gF w 18) (gF w 11) (gF w 4) (bF 2 w 2))
    else none := by
  unfold decRaw decFp
  rw [m]
  rfl
theorem decRaw_35 (w : Nat) (m : nF 7 w 25 = 35) : decRaw w =
    (Rnd.ofCode (nF 3 w 8)).bind fun x0 => (LTy.ofCode (nF 4 w 4)).bind fun x1 => (LTy.ofCode (nF 4 w 0)).map fun x2 => (.cvt (gF w 18) (gF w 11) x0 x1 x2) := by
  unfold decRaw decFp
  rw [m]
  rfl
theorem decRaw_36 (w : Nat) (m : nF 7 w 25 = 36) : decRaw w =
    (Rnd.ofCode (nF 3 w 8)).bind fun x0 => (LTy.ofCode (nF 4 w 4)).bind fun x1 => (LTy.ofCode (nF 4 w 0)).map fun x2 => (.cvtn (gF w 18) (gF w 11) x0 x1 x2) := by
  unfold decRaw decFp
  rw [m]
  rfl
theorem decRaw_37 (w : Nat) (m : nF 7 w 25 = 37) : decRaw w =
    (Rnd.ofCode (nF 3 w 8)).bind fun x0 => (LTy.ofCode (nF 4 w 4)).bind fun x1 => (LTy.ofCode (nF 4 w 0)).map fun x2 => (.cvtw (gF w 18) (gF w 11) x0 x1 x2) := by
  unfold decRaw decFp
  rw [m]
  rfl
theorem decRaw_38 (w : Nat) (m : nF 7 w 25 = 38) : decRaw w =
    if nF 2 w 0 = 0 then
      some (.shflIdx (gF w 18) (gF w 11) (gF w 4) (bF 2 w 2))
    else if nF 2 w 0 = 1 then
      some (.shflUp (gF w 18) (gF w 11) (gF w 4) (bF 2 w 2))
    else if nF 2 w 0 = 2 then
      some (.shflDown (gF w 18) (gF w 11) (gF w 4) (bF 2 w 2))
    else if nF 2 w 0 = 3 then
      some (.shflXor (gF w 18) (gF w 11) (gF w 4) (bF 2 w 2))
    else none := by
  unfold decRaw decCross
  rw [m]
  rfl
theorem decRaw_39 (w : Nat) (m : nF 7 w 25 = 39) : decRaw w =
    if nF 4 w 21 = 0 ∧ nF 4 w 14 = 0 ∧ nF 7 w 4 = 0 ∧ nF 2 w 0 = 0 then
      some (.voteAny (bF 3 w 18) (bF 3 w 11) (bF 2 w 2))
    else if nF 4 w 21 = 0 ∧ nF 4 w 14 = 0 ∧ nF 7 w 4 = 0 ∧ nF 2 w 0 = 1 then
      some (.voteAll (bF 3 w 18) (bF 3 w 11) (bF 2 w 2))
    else if nF 4 w 14 = 0 ∧ nF 7 w 4 = 0 ∧ nF 2 w 0 = 2 then
      some (.voteBallot (gF w 18) (bF 3 w 11) (bF 2 w 2))
    else none := by
  unfold decRaw decCross
  rw [m]
  rfl
theorem decRaw_40 (w : Nat) (m : nF 7 w 25 = 40) : decRaw w =
    if nF 3 w 8 = 0 then
      (RedOp.ofCode (nF 8 w 0)).map fun x0 => (.lreduce (gF w 18) (gF w 11) x0)
    else none := by
  unfold decRaw decCross
  rw [m]
  rfl
theorem decRaw_41 (w : Nat) (m : nF 7 w 25 = 41) : decRaw w =
    if nF 4 w 21 = 0 ∧ nF 3 w 15 = 0 ∧ nF 11 w 0 = 0 then
      some (.ader (bF 3 w 18) (bF 4 w 11))
    else if nF 4 w 21 = 0 ∧ nF 2 w 0 = 1 then
      some (.anarrow (bF 3 w 18) (gF w 11) (gF w 4) (bF 2 w 2))
    else if nF 4 w 21 = 0 ∧ nF 7 w 4 = 0 ∧ nF 2 w 0 = 2 then
      some (.aadv (bF 3 w 18) (gF w 11) (bF 2 w 2))
    else if nF 4 w 14 = 0 ∧ nF 3 w 8 = 0 ∧ nF 2 w 0 = 3 then
      some (.aget (gF w 18) (bF 3 w 11) (bF 4 w 4) (bF 2 w 2))
    else none := by
  unfold decRaw decCross
  rw [m]
  rfl
theorem decRaw_42 (w : Nat) (m : nF 7 w 25 = 42) : decRaw w =
    if nF 4 w 21 = 0 ∧ nF 7 w 11 = 0 then
      some (.aadvi (bF 3 w 18) (bF 11 w 0))
    else none := by
  unfold decRaw decCross
  rw [m]
  rfl
theorem decRaw_43 (w : Nat) (m : nF 7 w 25 = 43) : decRaw w =
    if nF 5 w 6 = 0 ∧ nF 2 w 0 = 0 then
      some (.dget (gF w 18) (gF w 11) (bF 2 w 4) (bF 2 w 2))
    else if nF 5 w 6 = 0 ∧ nF 2 w 0 = 1 then
      some (.dset (gF w 18) (gF w 11) (bF 2 w 4) (bF 2 w 2))
    else if nF 7 w 11 = 0 ∧ nF 5 w 6 = 0 ∧ nF 2 w 0 = 2 then
      some (.dseed (gF w 18) (bF 2 w 4) (bF 2 w 2))
    else none := by
  unfold decRaw decCross
  rw [m]
  rfl
theorem decRaw_44 (w : Nat) (m : nF 7 w 25 = 44) : decRaw w =
    if nF 8 w 0 = 0 then
      some (.sread (gF w 18) (bF 10 w 8))
    else if nF 10 w 8 = 0 ∧ nF 8 w 0 = 1 then
      some (.rand (gF w 18))
    else none := by
  unfold decRaw decCross
  rw [m]
  rfl
theorem decRaw_48 (w : Nat) (m : nF 7 w 25 = 48) : decRaw w =
    (Size.ofCode (nF 3 w 2)).map fun x0 => (.ld (gF w 18) (bF 3 w 15) (bF 10 w 5) x0 (Policy.ofCode (nF 2 w 0))) := by
  unfold decRaw decMem
  rw [m]
  rfl
theorem decRaw_49 (w : Nat) (m : nF 7 w 25 = 49) : decRaw w =
    (Size.ofCode (nF 3 w 2)).map fun x0 => (.st (gF w 18) (bF 3 w 15) (bF 10 w 5) x0 (Policy.ofCode (nF 2 w 0))) := by
  unfold decRaw decMem
  rw [m]
  rfl
theorem decRaw_50 (w : Nat) (m : nF 7 w 25 = 50) : decRaw w =
    if nF 3 w 12 = 0 then
      (Size.ofCode (nF 3 w 2)).map fun x0 => (.ldx (gF w 18) (bF 3 w 15) (gF w 5) x0 (Policy.ofCode (nF 2 w 0)))
    else none := by
  unfold decRaw decMem
  rw [m]
  rfl
theorem decRaw_51 (w : Nat) (m : nF 7 w 25 = 51) : decRaw w =
    if nF 3 w 12 = 0 then
      (Size.ofCode (nF 3 w 2)).map fun x0 => (.stx (gF w 18) (bF 3 w 15) (gF w 5) x0 (Policy.ofCode (nF 2 w 0)))
    else none := by
  unfold decRaw decMem
  rw [m]
  rfl
theorem decRaw_52 (w : Nat) (m : nF 7 w 25 = 52) : decRaw w =
    (Size.ofCode (nF 3 w 8)).map fun x0 => (.lds (gF w 18) (gF w 11) x0 (bF 8 w 0)) := by
  unfold decRaw decMem
  rw [m]
  rfl
theorem decRaw_53 (w : Nat) (m : nF 7 w 25 = 53) : decRaw w =
    (Size.ofCode (nF 3 w 8)).map fun x0 => (.sts (gF w 18) (gF w 11) x0 (bF 8 w 0)) := by
  unfold decRaw decMem
  rw [m]
  rfl
theorem decRaw_54 (w : Nat) (m : nF 7 w 25 = 54) : decRaw w =
    if nF 4 w 21 = 0 then
      (b128OfCode (nF 3 w 2)).map fun x0 => (.aldp (bF 3 w 18) (bF 3 w 15) (bF 10 w 5) x0 (Policy.ofCode (nF 2 w 0)))
    else none := by
  unfold decRaw decMem
  rw [m]
  rfl
theorem decRaw_64 (w : Nat) (m : nF 7 w 25 = 64) : decRaw w =
    some (.brp (bF 3 w 22) (tF w 21) (bF 21 w 0)) := by
  unfold decRaw decCtl
  rw [m]
  rfl
theorem decRaw_65 (w : Nat) (m : nF 7 w 25 = 65) : decRaw w =
    (BraCond.ofCode (nF 7 w 11)).map fun x0 => (.bra (gF w 18) x0 (bF 11 w 0)) := by
  unfold decRaw decCtl
  rw [m]
  rfl
theorem decRaw_66 (w : Nat) (m : nF 7 w 25 = 66) : decRaw w =
    some (.call (bF 3 w 22) (tF w 21) (bF 21 w 0)) := by
  unfold decRaw decCtl
  rw [m]
  rfl
theorem decRaw_67 (w : Nat) (m : nF 7 w 25 = 67) : decRaw w =
    if nF 21 w 0 = 0 then
      some (.ret (bF 3 w 22) (tF w 21))
    else none := by
  unfold decRaw decCtl
  rw [m]
  rfl
theorem decRaw_68 (w : Nat) (m : nF 7 w 25 = 68) : decRaw w =
    if nF 7 w 18 = 0 ∧ nF 11 w 0 = 0 then
      some (.brx (gF w 11))
    else none := by
  unfold decRaw decCtl
  rw [m]
  rfl
theorem decRaw_69 (w : Nat) (m : nF 7 w 25 = 69) : decRaw w =
    if nF 21 w 0 = 0 then
      some (.exit (bF 3 w 22) (tF w 21))
    else none := by
  unfold decRaw decCtl
  rw [m]
  rfl
theorem decRaw_70 (w : Nat) (m : nF 7 w 25 = 70) : decRaw w =
    if nF 17 w 8 = 0 ∧ nF 8 w 0 = 0 then
      some .nop
    else if nF 17 w 8 = 0 ∧ nF 8 w 0 = 1 then
      some .reform
    else if nF 17 w 8 = 0 ∧ nF 8 w 0 = 2 then
      some .yield
    else if nF 7 w 18 = 0 ∧ nF 8 w 0 = 3 then
      some (.region (bF 10 w 8))
    else if nF 7 w 18 = 0 ∧ nF 8 w 0 = 4 then
      some (.trap (bF 10 w 8))
    else if nF 10 w 8 = 0 ∧ nF 8 w 0 = 5 then
      some (.untaint (gF w 18))
    else none := by
  unfold decRaw decCtl
  rw [m]
  rfl
theorem decRaw_71 (w : Nat) (m : nF 7 w 25 = 71) : decRaw w =
    if nF 1 w 0 = 0 then
      some (.waitc (bF 6 w 19) (bF 6 w 13) (bF 6 w 7) (bF 6 w 1))
    else none := by
  unfold decRaw decCtl
  rw [m]
  rfl
theorem decRaw_72 (w : Nat) (m : nF 7 w 25 = 72) : decRaw w =
    if nF 2 w 23 = 0 ∧ nF 11 w 0 = 0 then
      some (.barInit (bF 5 w 18) (gF w 11))
    else if nF 2 w 23 = 0 ∧ nF 18 w 0 = 1 then
      some (.barArrive (bF 5 w 18))
    else if nF 2 w 23 = 0 ∧ nF 11 w 0 = 2 then
      some (.barExpect (bF 5 w 18) (gF w 11))
    else if nF 2 w 23 = 0 ∧ nF 11 w 0 = 3 then
      some (.barWait (bF 5 w 18) (gF w 11))
    else none := by
  unfold decRaw decCtl
  rw [m]
  rfl
theorem decRaw_80 (w : Nat) (m : nF 7 w 25 = 80) : decRaw w =
    if nF 3 w 22 = 0 ∧ nF 11 w 0 = 0 then
      some (.tcfg (bF 4 w 18) (gF w 11))
    else none := by
  unfold decRaw decMat
  rw [m]
  rfl
theorem decRaw_81 (w : Nat) (m : nF 7 w 25 = 81) : decRaw w =
    if nF 4 w 0 = 0 then
      some (.tld (bF 4 w 21) (bF 3 w 18) (gF w 11) (gF w 4))
    else if nF 4 w 0 = 1 then
      some (.tst (bF 4 w 21) (bF 3 w 18) (gF w 11) (gF w 4))
    else if nF 3 w 18 = 0 ∧ nF 4 w 0 = 2 then
      some (.tlds (bF 4 w 21) (gF w 11) (gF w 4))
    else if nF 3 w 18 = 0 ∧ nF 4 w 0 = 3 then
      some (.tsts (bF 4 w 21) (gF w 11) (gF w 4))
    else none := by
  unfold decRaw decMat
  rw [m]
  rfl
theorem decRaw_82 (w : Nat) (m : nF 7 w 25 = 82) : decRaw w =
    if nF 6 w 4 = 0 then
      (IOvr.ofCode (nF 2 w 2)).map fun x0 => (.tmma (bF 4 w 21) (bF 4 w 17) (bF 4 w 13) (bF 3 w 10) x0 (tF w 1) (tF w 0))
    else none := by
  unfold decRaw decMat
  rw [m]
  rfl
theorem decRaw_83 (w : Nat) (m : nF 7 w 25 = 83) : decRaw w =
    if nF 4 w 11 = 0 ∧ nF 4 w 0 = 0 then
      some (.tmloop (bF 4 w 21) (bF 3 w 18) (bF 3 w 15) (gF w 4))
    else none := by
  unfold decRaw decMat
  rw [m]
  rfl
theorem decRaw_84 (w : Nat) (m : nF 7 w 25 = 84) : decRaw w =
    if nF 5 w 5 = 0 then
      (Bcast.ofCode (nF 2 w 2)).map fun x0 => (.tadd (bF 4 w 21) (bF 4 w 17) (bF 4 w 13) (bF 3 w 10) (tF w 4) x0 (tF w 1) (tF w 0))
    else none := by
  unfold decRaw decMat
  rw [m]
  rfl
theorem decRaw_85 (w : Nat) (m : nF 7 w 25 = 85) : decRaw w =
    if nF 6 w 4 = 0 then
      (Bcast.ofCode (nF 2 w 2)).map fun x0 => (.temul (bF 4 w 21) (bF 4 w 17) (bF 4 w 13) (bF 3 w 10) x0 (tF w 1) (tF w 0))
    else none := by
  unfold decRaw decMat
  rw [m]
  rfl
theorem decRaw_86 (w : Nat) (m : nF 7 w 25 = 86) : decRaw w =
    if nF 7 w 3 = 0 then
      some (.tscl (bF 4 w 21) (bF 4 w 17) (bF 4 w 13) (bF 3 w 10) (tF w 2) (tF w 1) (tF w 0))
    else if nF 4 w 13 = 0 ∧ nF 1 w 9 = 1 ∧ nF 2 w 1 = 0 then
      some (.tsclPow (bF 4 w 21) (bF 4 w 17) (bF 3 w 10) (bF 6 w 3) (tF w 0))
    else none := by
  unfold decRaw decMat
  rw [m]
  rfl
theorem decRaw_87 (w : Nat) (m : nF 7 w 25 = 87) : decRaw w =
    if nF 17 w 0 = 0 then
      some (.ttr (bF 4 w 21) (bF 4 w 17))
    else none := by
  unfold decRaw decMat
  rw [m]
  rfl
theorem decRaw_88 (w : Nat) (m : nF 7 w 25 = 88) : decRaw w =
    if nF 4 w 13 = 0 ∧ nF 6 w 4 = 0 then
      (Rnd.ofCode (nF 3 w 0)).map fun x0 => (.tcvt (bF 4 w 21) (bF 4 w 17) (bF 3 w 10) x0 (tF w 3))
    else none := by
  unfold decRaw decMat
  rw [m]
  rfl
theorem decRaw_89 (w : Nat) (m : nF 7 w 25 = 89) : decRaw w =
    if nF 4 w 13 = 0 ∧ nF 5 w 5 = 0 then
      (ActFn.ofCode (nF 4 w 0)).map fun x0 => (.tact (bF 4 w 21) (bF 4 w 17) (bF 3 w 10) x0 (tF w 4))
    else none := by
  unfold decRaw decMat
  rw [m]
  rfl
theorem decRaw_90 (w : Nat) (m : nF 7 w 25 = 90) : decRaw w =
    if nF 4 w 13 = 0 ∧ nF 8 w 2 = 0 then
      some (.trsum (bF 4 w 21) (bF 4 w 17) (bF 3 w 10) (tF w 1) (tF w 0))
    else none := by
  unfold decRaw decMat
  rw [m]
  rfl
theorem decRaw_91 (w : Nat) (m : nF 7 w 25 = 91) : decRaw w =
    if nF 21 w 0 = 0 then
      some (.tzero (bF 4 w 21))
    else if nF 21 w 0 = 1 then
      some (.teval (bF 4 w 21))
    else if nF 21 w 0 = 2 then
      some (.tdrop (bF 4 w 21))
    else none := by
  unfold decRaw decMat
  rw [m]
  rfl
theorem decRaw_92 (w : Nat) (m : nF 7 w 25 = 92) : decRaw w =
    if nF 3 w 15 = 0 ∧ nF 4 w 0 = 0 then
      some (.trd (gF w 18) (bF 4 w 11) (gF w 4))
    else if nF 3 w 22 = 0 ∧ nF 4 w 0 = 1 then
      some (.twr (bF 4 w 18) (gF w 11) (gF w 4))
    else if nF 3 w 15 = 0 ∧ nF 4 w 7 = 0 ∧ nF 4 w 0 = 2 then
      some (.tstat (gF w 18) (bF 4 w 11) (bF 3 w 4))
    else none := by
  unfold decRaw decMat
  rw [m]
  rfl
theorem decRaw_96 (w : Nat) (m : nF 7 w 25 = 96) : decRaw w =
    if nF 3 w 22 = 0 ∧ nF 5 w 0 = 0 then
      some (.xlr (bF 4 w 18) (bF 3 w 15) (bF 10 w 5))
    else none := by
  unfold decRaw decEng
  rw [m]
  rfl
theorem decRaw_97 (w : Nat) (m : nF 7 w 25 = 97) : decRaw w =
    if nF 3 w 22 = 0 ∧ nF 3 w 0 = 0 then
      (Xform.ofCode (nF 5 w 4)).map fun x0 => (.xcp (bF 4 w 14) (bF 4 w 18) (bF 5 w 9) x0 (tF w 3))
    else none := by
  unfold decRaw decEng
  rw [m]
  rfl
theorem decRaw_98 (w : Nat) (m : nF 7 w 25 = 98) : decRaw w =
    if nF 3 w 22 = 0 ∧ nF 1 w 8 = 0 ∧ nF 3 w 0 = 0 then
      some (.xred (bF 4 w 14) (bF 4 w 18) (bF 4 w 4) (bF 5 w 9) (tF w 3))
    else none := by
  unfold decRaw decEng
  rw [m]
  rfl
theorem decRaw_99 (w : Nat) (m : nF 7 w 25 = 99) : decRaw w =
    if nF 3 w 0 = 0 then
      (WalkAct.ofCode (nF 5 w 4)).map fun x0 => (.xwalk (bF 4 w 14) (gF w 18) (bF 5 w 9) x0 (tF w 3))
    else none := by
  unfold decRaw decEng
  rw [m]
  rfl
theorem decRaw_100 (w : Nat) (m : nF 7 w 25 = 100) : decRaw w =
    if nF 5 w 13 = 0 ∧ nF 6 w 2 = 0 then
      some (.xstat (gF w 18) (bF 5 w 8) (bF 2 w 0))
    else none := by
  unfold decRaw decEng
  rw [m]
  rfl
theorem decRaw_104 (w : Nat) (m : nF 7 w 25 = 104) : decRaw w =
    if nF 5 w 0 = 0 then
      some (.jsub (gF w 18) (bF 3 w 15) (bF 10 w 5))
    else none := by
  unfold decRaw decEng
  rw [m]
  rfl
theorem decRaw_105 (w : Nat) (m : nF 7 w 25 = 105) : decRaw w =
    if nF 7 w 18 = 0 ∧ nF 4 w 0 = 0 then
      some (.gainadd (gF w 11) (gF w 4))
    else if nF 7 w 18 = 0 ∧ nF 4 w 0 = 1 then
      some (.gainset (gF w 11) (gF w 4))
    else if nF 11 w 0 = 2 then
      some (.gainget (gF w 18) (gF w 11))
    else none := by
  unfold decRaw decEng
  rw [m]
  rfl
theorem decRaw_106 (w : Nat) (m : nF 7 w 25 = 106) : decRaw w =
    if nF 7 w 18 = 0 ∧ nF 11 w 0 = 0 then
      some (.resadd (gF w 11))
    else if nF 7 w 11 = 0 ∧ nF 4 w 7 = 0 ∧ nF 4 w 0 = 1 then
      some (.resget (gF w 18) (bF 3 w 4))
    else none := by
  unfold decRaw decEng
  rw [m]
  rfl
theorem decRaw_107 (w : Nat) (m : nF 7 w 25 = 107) : decRaw w =
    if nF 7 w 18 = 0 ∧ nF 11 w 0 = 0 then
      some (.ordwait (gF w 11))
    else if nF 7 w 18 = 0 ∧ nF 11 w 0 = 1 then
      some (.ordpost (gF w 11))
    else none := by
  unfold decRaw decEng
  rw [m]
  rfl
theorem decRaw_112 (w : Nat) (m : nF 7 w 25 = 112) : decRaw w =
    (Scope.ofCode (nF 3 w 12)).bind fun x0 => (AtomOp.ofCode (nF 7 w 5)).bind fun x1 => (b64OfCode (nF 3 w 2)).map fun x2 => (.atom (gF w 18) (bF 3 w 15) x0 x1 x2 (Order.ofCode (nF 2 w 0))) := by
  unfold decRaw decHome
  rw [m]
  rfl
theorem decRaw_113 (w : Nat) (m : nF 7 w 25 = 113) : decRaw w =
    if nF 7 w 5 = 0 then
      (Scope.ofCode (nF 3 w 12)).bind fun x0 => (b64OfCode (nF 3 w 2)).map fun x1 => (.cas (gF w 18) (bF 3 w 15) x0 x1 (Order.ofCode (nF 2 w 0)))
    else none := by
  unfold decRaw decHome
  rw [m]
  rfl
theorem decRaw_114 (w : Nat) (m : nF 7 w 25 = 114) : decRaw w =
    if nF 5 w 5 = 0 ∧ nF 2 w 0 = 0 then
      (sysOfCode (nF 3 w 12)).bind fun x0 => (b64OfCode (nF 3 w 2)).map fun x1 => (.waitcmp (gF w 18) (bF 3 w 15) x0 (WCond.ofCode (nF 2 w 10)) x1)
    else none := by
  unfold decRaw decHome
  rw [m]
  rfl
theorem decRaw_115 (w : Nat) (m : nF 7 w 25 = 115) : decRaw w =
    (Scope.ofCode (nF 3 w 12)).bind fun x0 => (Size.ofCode (nF 3 w 2)).map fun x1 => (.ldAcq (gF w 18) (bF 3 w 15) x0 (gF w 5) x1 (Policy.ofCode (nF 2 w 0))) := by
  unfold decRaw decHome
  rw [m]
  rfl
theorem decRaw_116 (w : Nat) (m : nF 7 w 25 = 116) : decRaw w =
    (Scope.ofCode (nF 3 w 12)).bind fun x0 => (Size.ofCode (nF 3 w 2)).map fun x1 => (.stRel (gF w 18) (bF 3 w 15) x0 (gF w 5) x1 (Policy.ofCode (nF 2 w 0))) := by
  unfold decRaw decHome
  rw [m]
  rfl
theorem decRaw_117 (w : Nat) (m : nF 7 w 25 = 117) : decRaw w =
    if nF 7 w 18 = 0 ∧ nF 7 w 11 = 0 ∧ nF 8 w 0 = 0 then
      (Scope.ofCode (nF 3 w 8)).map fun x0 => (.fence x0)
    else none := by
  unfold decRaw decHome
  rw [m]
  rfl
theorem decRaw_118 (w : Nat) (m : nF 7 w 25 = 118) : decRaw w =
    if nF 7 w 18 = 0 ∧ nF 4 w 14 = 0 ∧ nF 4 w 0 = 0 then
      some (.smap (bF 3 w 11) (gF w 4))
    else if nF 7 w 18 = 0 ∧ nF 4 w 14 = 0 ∧ nF 11 w 0 = 1 then
      some (.sunmap (bF 3 w 11))
    else if nF 7 w 18 = 0 ∧ nF 4 w 14 = 0 ∧ nF 11 w 0 = 2 then
      some (.sflush (bF 3 w 11))
    else none := by
  unfold decRaw decHome
  rw [m]
  rfl
theorem decRaw_119 (w : Nat) (m : nF 7 w 25 = 119) : decRaw w =
    if nF 7 w 18 = 0 then
      some (.pref (bF 3 w 15) (bF 10 w 5) (bF 3 w 2) (Policy.ofCode (nF 2 w 0)))
    else none := by
  unfold decRaw decHome
  rw [m]
  rfl
theorem decRaw_120 (w : Nat) (m : nF 7 w 25 = 120) : decRaw w =
    if nF 7 w 18 = 0 ∧ nF 8 w 0 = 0 then
      some (.bkpt (bF 10 w 8))
    else none := by
  unfold decRaw decHome
  rw [m]
  rfl
theorem decRaw_121 (w : Nat) (m : nF 7 w 25 = 121) : decRaw w =
    if nF 8 w 0 = 0 then
      some (.tmark (gF w 18) (bF 10 w 8))
    else none := by
  unfold decRaw decHome
  rw [m]
  rfl
theorem decRaw_122 (w : Nat) (m : nF 7 w 25 = 122) : decRaw w =
    if nF 8 w 0 = 0 then
      some (.sysrd (gF w 18) (bF 10 w 8))
    else none := by
  unfold decRaw decHome
  rw [m]
  rfl
theorem decRaw_123 (w : Nat) (m : nF 7 w 25 = 123) : decRaw w =
    if nF 8 w 0 = 0 then
      some (.syswr (bF 10 w 8) (gF w 18))
    else none := by
  unfold decRaw decHome
  rw [m]
  rfl
theorem decRaw_124 (w : Nat) (m : nF 7 w 25 = 124) : decRaw w =
    some (.imm (bF 25 w 0)) := by
  unfold decRaw decHome
  rw [m]
  rfl
theorem decRaw_125 (w : Nat) (m : nF 7 w 25 = 125) : decRaw w =
    if nF 11 w 0 = 0 then
      (ovrOfCode (nF 4 w 11)).map fun x0 => (.mod_ (tF w 24) (tF w 23) (tF w 22) (tF w 21) (bF 6 w 15) x0)
    else none := by
  unfold decRaw decHome
  rw [m]
  rfl
theorem decRaw_126 (w : Nat) (m : nF 7 w 25 = 126) : decRaw w =
    if nF 25 w 0 = 0 then
      some .tan
    else none := by
  unfold decRaw decHome
  rw [m]
  rfl

namespace Laws.RoundTrip

/-- The word of a well-formed instruction decodes to it. -/
def Statement (i : Instr) : Prop := ∀ w, encode i = some w → i.wellFormed = true → decode w = some i

theorem shape_0 (w m v0 v1 v2 v3 v4 c : Nat) (b0 : v0 < 2 ^ 7) (b1 : v1 < 2 ^ 7) (b2 : v2 < 2 ^ 7) (b3 : v3 < 2 ^ 2) (b4 : v4 < 2 ^ 1) (bc : c < 2) (bm : m < 128)
    (e : w = v0 * 262144 + v1 * 2048 + v2 * 16 + v3 * 4 + v4 * 2 + c + m * 33554432) :
    nF 7 w 25 = m ∧ nF 1 w 0 = c ∧ nF 1 w 1 = v4 ∧ nF 2 w 2 = v3 ∧ nF 7 w 18 = v0 ∧ nF 7 w 11 = v1 ∧ nF 7 w 4 = v2 := by
  subst e
  unfold nF
  refine ⟨?_, ?_, ?_, ?_, ?_, ?_, ?_⟩ <;> omega
theorem shape_1 (w m v0 v1 v2 : Nat) (b0 : v0 < 2 ^ 7) (b1 : v1 < 2 ^ 7) (b2 : v2 < 2 ^ 11) (bm : m < 128)
    (e : w = v0 * 262144 + v1 * 2048 + v2 * 1 + m * 33554432) :
    nF 7 w 25 = m ∧ nF 11 w 0 = v2 ∧ nF 7 w 18 = v0 ∧ nF 7 w 11 = v1 := by
  subst e
  unfold nF
  refine ⟨?_, ?_, ?_, ?_⟩ <;> omega
theorem shape_2 (w m v0 v1 v2 c : Nat) (b0 : v0 < 2 ^ 7) (b1 : v1 < 2 ^ 7) (b2 : v2 < 2 ^ 2) (bc : c < 4) (bm : m < 128)
    (e : w = v0 * 262144 + v1 * 2048 + v2 * 4 + c + m * 33554432) :
    nF 7 w 25 = m ∧ nF 7 w 4 = 0 ∧ nF 2 w 0 = c ∧ nF 2 w 2 = v2 ∧ nF 7 w 18 = v0 ∧ nF 7 w 11 = v1 := by
  subst e
  unfold nF
  refine ⟨?_, ?_, ?_, ?_, ?_, ?_⟩ <;> omega
theorem shape_3 (w m v0 v1 v2 v3 c : Nat) (b0 : v0 < 2 ^ 7) (b1 : v1 < 2 ^ 7) (b2 : v2 < 2 ^ 7) (b3 : v3 < 2 ^ 2) (bc : c < 4) (bm : m < 128)
    (e : w = v0 * 262144 + v1 * 2048 + v2 * 16 + v3 * 4 + c + m * 33554432) :
    nF 7 w 25 = m ∧ nF 2 w 0 = c ∧ nF 2 w 2 = v3 ∧ nF 7 w 18 = v0 ∧ nF 7 w 11 = v1 ∧ nF 7 w 4 = v2 := by
  subst e
  unfold nF
  refine ⟨?_, ?_, ?_, ?_, ?_, ?_⟩ <;> omega
theorem shape_4 (w m v0 v1 v2 : Nat) (b0 : v0 < 2 ^ 7) (b1 : v1 < 2 ^ 7) (b2 : v2 < 2 ^ 5) (bm : m < 128)
    (e : w = v0 * 262144 + v1 * 2048 + v2 * 1 + m * 33554432) :
    nF 7 w 25 = m ∧ nF 6 w 5 = 0 ∧ nF 5 w 0 = v2 ∧ nF 7 w 18 = v0 ∧ nF 7 w 11 = v1 := by
  subst e
  unfold nF
  refine ⟨?_, ?_, ?_, ?_, ?_⟩ <;> omega
theorem shape_5 (w m v0 v1 v2 v3 : Nat) (b0 : v0 < 2 ^ 7) (b1 : v1 < 2 ^ 7) (b2 : v2 < 2 ^ 5) (b3 : v3 < 2 ^ 5) (bm : m < 128)
    (e : w = v0 * 262144 + v1 * 2048 + v2 * 32 + v3 * 1 + m * 33554432) :
    nF 7 w 25 = m ∧ nF 1 w 10 = 0 ∧ nF 5 w 0 = v3 ∧ nF 5 w 5 = v2 ∧ nF 7 w 18 = v0 ∧ nF 7 w 11 = v1 := by
  subst e
  unfold nF
  refine ⟨?_, ?_, ?_, ?_, ?_, ?_⟩ <;> omega
theorem shape_6 (w m v0 v1 v2 v3 v4 : Nat) (b0 : v0 < 2 ^ 3) (b1 : v1 < 2 ^ 7) (b2 : v2 < 2 ^ 7) (b3 : v3 < 2 ^ 1) (b4 : v4 < 2 ^ 3) (bm : m < 128)
    (e : w = v0 * 4194304 + v1 * 2048 + v2 * 16 + v3 * 8 + v4 * 1 + m * 33554432) :
    nF 7 w 25 = m ∧ nF 4 w 18 = 0 ∧ nF 3 w 0 = v4 ∧ nF 1 w 3 = v3 ∧ nF 3 w 22 = v0 ∧ nF 7 w 11 = v1 ∧ nF 7 w 4 = v2 := by
  subst e
  unfold nF
  refine ⟨?_, ?_, ?_, ?_, ?_, ?_, ?_⟩ <;> omega
theorem shape_7 (w m v0 v1 v2 v3 : Nat) (b0 : v0 < 2 ^ 3) (b1 : v1 < 2 ^ 3) (b2 : v2 < 2 ^ 3) (b3 : v3 < 2 ^ 4) (bm : m < 128)
    (e : w = v0 * 4194304 + v1 * 2048 + v2 * 16 + v3 * 1 + m * 33554432) :
    nF 7 w 25 = m ∧ nF 4 w 18 = 0 ∧ nF 4 w 14 = 0 ∧ nF 4 w 7 = 0 ∧ nF 3 w 22 = v0 ∧ nF 3 w 11 = v1 ∧ nF 3 w 4 = v2 ∧ nF 4 w 0 = v3 := by
  subst e
  unfold nF
  refine ⟨?_, ?_, ?_, ?_, ?_, ?_, ?_, ?_⟩ <;> omega
theorem shape_8 (w m v0 v1 v2 v3 v4 : Nat) (b0 : v0 < 2 ^ 7) (b1 : v1 < 2 ^ 7) (b2 : v2 < 2 ^ 7) (b3 : v3 < 2 ^ 2) (b4 : v4 < 2 ^ 2) (bm : m < 128)
    (e : w = v0 * 262144 + v1 * 2048 + v2 * 16 + v3 * 4 + v4 * 1 + m * 33554432) :
    nF 7 w 25 = m ∧ nF 2 w 2 = v3 ∧ nF 2 w 0 = v4 ∧ nF 7 w 18 = v0 ∧ nF 7 w 11 = v1 ∧ nF 7 w 4 = v2 := by
  subst e
  unfold nF
  refine ⟨?_, ?_, ?_, ?_, ?_, ?_⟩ <;> omega
theorem shape_9 (w m v0 v1 : Nat) (b0 : v0 < 2 ^ 7) (b1 : v1 < 2 ^ 11) (bm : m < 128)
    (e : w = v0 * 262144 + v1 * 1 + m * 33554432) :
    nF 7 w 25 = m ∧ nF 7 w 11 = 0 ∧ nF 11 w 0 = v1 ∧ nF 7 w 18 = v0 := by
  subst e
  unfold nF
  refine ⟨?_, ?_, ?_, ?_⟩ <;> omega
theorem shape_10 (w m v0 v1 v2 v3 : Nat) (b0 : v0 < 2 ^ 3) (b1 : v1 < 2 ^ 7) (b2 : v2 < 2 ^ 7) (b3 : v3 < 2 ^ 3) (bm : m < 128)
    (e : w = v0 * 4194304 + v1 * 2048 + v2 * 16 + v3 * 1 + m * 33554432) :
    nF 7 w 25 = m ∧ nF 4 w 18 = 0 ∧ nF 1 w 3 = 0 ∧ nF 3 w 0 = v3 ∧ nF 3 w 22 = v0 ∧ nF 7 w 11 = v1 ∧ nF 7 w 4 = v2 := by
  subst e
  unfold nF
  refine ⟨?_, ?_, ?_, ?_, ?_, ?_, ?_⟩ <;> omega
theorem shape_11 (w m v0 v1 v2 v3 v4 : Nat) (b0 : v0 < 2 ^ 7) (b1 : v1 < 2 ^ 7) (b2 : v2 < 2 ^ 3) (b3 : v3 < 2 ^ 4) (b4 : v4 < 2 ^ 4) (bm : m < 128)
    (e : w = v0 * 262144 + v1 * 2048 + v2 * 256 + v3 * 16 + v4 * 1 + m * 33554432) :
    nF 7 w 25 = m ∧ nF 3 w 8 = v2 ∧ nF 4 w 4 = v3 ∧ nF 4 w 0 = v4 ∧ nF 7 w 18 = v0 ∧ nF 7 w 11 = v1 := by
  subst e
  unfold nF
  refine ⟨?_, ?_, ?_, ?_, ?_, ?_⟩ <;> omega
theorem shape_12 (w m v0 v1 v2 c : Nat) (b0 : v0 < 2 ^ 3) (b1 : v1 < 2 ^ 3) (b2 : v2 < 2 ^ 2) (bc : c < 4) (bm : m < 128)
    (e : w = v0 * 262144 + v1 * 2048 + v2 * 4 + c + m * 33554432) :
    nF 7 w 25 = m ∧ nF 4 w 21 = 0 ∧ nF 4 w 14 = 0 ∧ nF 7 w 4 = 0 ∧ nF 2 w 0 = c ∧ nF 3 w 18 = v0 ∧ nF 3 w 11 = v1 ∧ nF 2 w 2 = v2 ∧ nF 7 w 18 = v0 := by
  subst e
  unfold nF
  refine ⟨?_, ?_, ?_, ?_, ?_, ?_, ?_, ?_, ?_⟩ <;> omega
theorem shape_13 (w m v0 v1 v2 c : Nat) (b0 : v0 < 2 ^ 7) (b1 : v1 < 2 ^ 3) (b2 : v2 < 2 ^ 2) (bc : c < 4) (bm : m < 128)
    (e : w = v0 * 262144 + v1 * 2048 + v2 * 4 + c + m * 33554432) :
    nF 7 w 25 = m ∧ nF 4 w 14 = 0 ∧ nF 7 w 4 = 0 ∧ nF 2 w 0 = c ∧ nF 3 w 11 = v1 ∧ nF 2 w 2 = v2 ∧ nF 7 w 18 = v0 := by
  subst e
  unfold nF
  refine ⟨?_, ?_, ?_, ?_, ?_, ?_, ?_⟩ <;> omega
theorem shape_14 (w m v0 v1 v2 : Nat) (b0 : v0 < 2 ^ 7) (b1 : v1 < 2 ^ 7) (b2 : v2 < 2 ^ 4) (bm : m < 128)
    (e : w = v0 * 262144 + v1 * 2048 + v2 * 1 + m * 33554432) :
    nF 7 w 25 = m ∧ nF 3 w 8 = 0 ∧ nF 8 w 0 = v2 ∧ nF 7 w 18 = v0 ∧ nF 7 w 11 = v1 := by
  subst e
  unfold nF
  refine ⟨?_, ?_, ?_, ?_, ?_⟩ <;> omega
theorem shape_15 (w m v0 v1 c : Nat) (b0 : v0 < 2 ^ 3) (b1 : v1 < 2 ^ 4) (bc : c < 2048) (bm : m < 128)
    (e : w = v0 * 262144 + v1 * 2048 + c + m * 33554432) :
    nF 7 w 25 = m ∧ nF 4 w 21 = 0 ∧ nF 3 w 15 = 0 ∧ nF 11 w 0 = c ∧ nF 2 w 0 = c / 2 ^ 0 % 2 ^ 2 ∧ nF 7 w 4 = c / 2 ^ 4 % 2 ^ 7 ∧ nF 3 w 8 = c / 2 ^ 8 % 2 ^ 3 ∧ nF 3 w 18 = v0 ∧ nF 4 w 11 = v1 ∧ nF 2 w 2 = c / 2 ^ 2 % 2 ^ 2 ∧ nF 4 w 4 = c / 2 ^ 4 % 2 ^ 4 ∧ nF 7 w 11 = v1 ∧ nF 7 w 18 = v0 := by
  subst e
  unfold nF
  refine ⟨?_, ?_, ?_, ?_, ?_, ?_, ?_, ?_, ?_, ?_, ?_, ?_, ?_⟩ <;> omega
theorem shape_16 (w m v0 v1 v2 v3 c : Nat) (b0 : v0 < 2 ^ 3) (b1 : v1 < 2 ^ 7) (b2 : v2 < 2 ^ 7) (b3 : v3 < 2 ^ 2) (bc : c < 4) (bm : m < 128)
    (e : w = v0 * 262144 + v1 * 2048 + v2 * 16 + v3 * 4 + c + m * 33554432) :
    nF 7 w 25 = m ∧ nF 4 w 21 = 0 ∧ nF 2 w 0 = c ∧ nF 7 w 4 = v2 ∧ nF 3 w 18 = v0 ∧ nF 2 w 2 = v3 ∧ nF 7 w 11 = v1 ∧ nF 7 w 18 = v0 := by
  subst e
  unfold nF
  refine ⟨?_, ?_, ?_, ?_, ?_, ?_, ?_, ?_⟩ <;> omega
theorem shape_17 (w m v0 v1 v2 c : Nat) (b0 : v0 < 2 ^ 3) (b1 : v1 < 2 ^ 7) (b2 : v2 < 2 ^ 2) (bc : c < 4) (bm : m < 128)
    (e : w = v0 * 262144 + v1 * 2048 + v2 * 4 + c + m * 33554432) :
    nF 7 w 25 = m ∧ nF 4 w 21 = 0 ∧ nF 2 w 0 = c ∧ nF 7 w 4 = 0 ∧ nF 3 w 8 = 0 ∧ nF 3 w 18 = v0 ∧ nF 2 w 2 = v2 ∧ nF 4 w 4 = 0 ∧ nF 7 w 11 = v1 ∧ nF 7 w 18 = v0 := by
  subst e
  unfold nF
  refine ⟨?_, ?_, ?_, ?_, ?_, ?_, ?_, ?_, ?_, ?_⟩ <;> omega
theorem shape_18 (w m v0 v1 v2 v3 c : Nat) (b0 : v0 < 2 ^ 7) (b1 : v1 < 2 ^ 3) (b2 : v2 < 2 ^ 4) (b3 : v3 < 2 ^ 2) (bc : c < 4) (bm : m < 128)
    (e : w = v0 * 262144 + v1 * 2048 + v2 * 16 + v3 * 4 + c + m * 33554432) :
    nF 7 w 25 = m ∧ nF 3 w 15 = 0 ∧ nF 2 w 0 = c ∧ nF 7 w 4 = v2 ∧ nF 4 w 14 = 0 ∧ nF 3 w 8 = 0 ∧ nF 4 w 11 = v1 ∧ nF 2 w 2 = v3 ∧ nF 3 w 11 = v1 ∧ nF 4 w 4 = v2 ∧ nF 7 w 11 = v1 ∧ nF 7 w 18 = v0 := by
  subst e
  unfold nF
  refine ⟨?_, ?_, ?_, ?_, ?_, ?_, ?_, ?_, ?_, ?_, ?_, ?_⟩ <;> omega
theorem shape_19 (w m v0 v1 : Nat) (b0 : v0 < 2 ^ 3) (b1 : v1 < 2 ^ 11) (bm : m < 128)
    (e : w = v0 * 262144 + v1 * 1 + m * 33554432) :
    nF 7 w 25 = m ∧ nF 4 w 21 = 0 ∧ nF 7 w 11 = 0 ∧ nF 3 w 18 = v0 ∧ nF 11 w 0 = v1 := by
  subst e
  unfold nF
  refine ⟨?_, ?_, ?_, ?_, ?_⟩ <;> omega
theorem shape_20 (w m v0 v1 v2 v3 c : Nat) (b0 : v0 < 2 ^ 7) (b1 : v1 < 2 ^ 7) (b2 : v2 < 2 ^ 2) (b3 : v3 < 2 ^ 2) (bc : c < 4) (bm : m < 128)
    (e : w = v0 * 262144 + v1 * 2048 + v2 * 16 + v3 * 4 + c + m * 33554432) :
    nF 7 w 25 = m ∧ nF 5 w 6 = 0 ∧ nF 2 w 0 = c ∧ nF 7 w 11 = v1 ∧ nF 2 w 4 = v2 ∧ nF 2 w 2 = v3 ∧ nF 7 w 18 = v0 := by
  subst e
  unfold nF
  refine ⟨?_, ?_, ?_, ?_, ?_, ?_, ?_⟩ <;> omega
theorem shape_21 (w m v0 v1 v2 c : Nat) (b0 : v0 < 2 ^ 7) (b1 : v1 < 2 ^ 2) (b2 : v2 < 2 ^ 2) (bc : c < 4) (bm : m < 128)
    (e : w = v0 * 262144 + v1 * 16 + v2 * 4 + c + m * 33554432) :
    nF 7 w 25 = m ∧ nF 5 w 6 = 0 ∧ nF 2 w 0 = c ∧ nF 7 w 11 = 0 ∧ nF 2 w 4 = v1 ∧ nF 2 w 2 = v2 ∧ nF 7 w 18 = v0 := by
  subst e
  unfold nF
  refine ⟨?_, ?_, ?_, ?_, ?_, ?_, ?_⟩ <;> omega
theorem shape_22 (w m v0 v1 c : Nat) (b0 : v0 < 2 ^ 7) (b1 : v1 < 2 ^ 10) (bc : c < 256) (bm : m < 128)
    (e : w = v0 * 262144 + v1 * 256 + c + m * 33554432) :
    nF 7 w 25 = m ∧ nF 8 w 0 = c ∧ nF 10 w 8 = v1 ∧ nF 7 w 18 = v0 := by
  subst e
  unfold nF
  refine ⟨?_, ?_, ?_, ?_⟩ <;> omega
theorem shape_23 (w m v0 c : Nat) (b0 : v0 < 2 ^ 7) (bc : c < 262144) (bm : m < 128)
    (e : w = v0 * 262144 + c + m * 33554432) :
    nF 7 w 25 = m ∧ nF 8 w 0 = c / 2 ^ 0 % 2 ^ 8 ∧ nF 10 w 8 = c / 2 ^ 8 % 2 ^ 10 ∧ nF 7 w 18 = v0 := by
  subst e
  unfold nF
  refine ⟨?_, ?_, ?_, ?_⟩ <;> omega
theorem shape_24 (w m v0 v1 v2 v3 v4 : Nat) (b0 : v0 < 2 ^ 7) (b1 : v1 < 2 ^ 3) (b2 : v2 < 2 ^ 10) (b3 : v3 < 2 ^ 3) (b4 : v4 < 2 ^ 2) (bm : m < 128)
    (e : w = v0 * 262144 + v1 * 32768 + v2 * 32 + v3 * 4 + v4 * 1 + m * 33554432) :
    nF 7 w 25 = m ∧ nF 3 w 2 = v3 ∧ nF 2 w 0 = v4 ∧ nF 3 w 15 = v1 ∧ nF 10 w 5 = v2 ∧ nF 7 w 18 = v0 := by
  subst e
  unfold nF
  refine ⟨?_, ?_, ?_, ?_, ?_, ?_⟩ <;> omega
theorem shape_25 (w m v0 v1 v2 v3 v4 : Nat) (b0 : v0 < 2 ^ 7) (b1 : v1 < 2 ^ 3) (b2 : v2 < 2 ^ 7) (b3 : v3 < 2 ^ 3) (b4 : v4 < 2 ^ 2) (bm : m < 128)
    (e : w = v0 * 262144 + v1 * 32768 + v2 * 32 + v3 * 4 + v4 * 1 + m * 33554432) :
    nF 7 w 25 = m ∧ nF 3 w 12 = 0 ∧ nF 3 w 2 = v3 ∧ nF 2 w 0 = v4 ∧ nF 3 w 15 = v1 ∧ nF 7 w 18 = v0 ∧ nF 7 w 5 = v2 := by
  subst e
  unfold nF
  refine ⟨?_, ?_, ?_, ?_, ?_, ?_, ?_⟩ <;> omega
theorem shape_26 (w m v0 v1 v2 v3 : Nat) (b0 : v0 < 2 ^ 7) (b1 : v1 < 2 ^ 7) (b2 : v2 < 2 ^ 3) (b3 : v3 < 2 ^ 8) (bm : m < 128)
    (e : w = v0 * 262144 + v1 * 2048 + v2 * 256 + v3 * 1 + m * 33554432) :
    nF 7 w 25 = m ∧ nF 3 w 8 = v2 ∧ nF 8 w 0 = v3 ∧ nF 7 w 18 = v0 ∧ nF 7 w 11 = v1 := by
  subst e
  unfold nF
  refine ⟨?_, ?_, ?_, ?_, ?_⟩ <;> omega
theorem shape_27 (w m v0 v1 v2 v3 v4 : Nat) (b0 : v0 < 2 ^ 3) (b1 : v1 < 2 ^ 3) (b2 : v2 < 2 ^ 10) (b3 : v3 < 2 ^ 3) (b4 : v4 < 2 ^ 2) (bm : m < 128)
    (e : w = v0 * 262144 + v1 * 32768 + v2 * 32 + v3 * 4 + v4 * 1 + m * 33554432) :
    nF 7 w 25 = m ∧ nF 4 w 21 = 0 ∧ nF 3 w 2 = v3 ∧ nF 2 w 0 = v4 ∧ nF 3 w 18 = v0 ∧ nF 3 w 15 = v1 ∧ nF 10 w 5 = v2 := by
  subst e
  unfold nF
  refine ⟨?_, ?_, ?_, ?_, ?_, ?_, ?_⟩ <;> omega
theorem shape_28 (w m v0 v1 v2 : Nat) (b0 : v0 < 2 ^ 3) (b1 : v1 < 2 ^ 1) (b2 : v2 < 2 ^ 21) (bm : m < 128)
    (e : w = v0 * 4194304 + v1 * 2097152 + v2 * 1 + m * 33554432) :
    nF 7 w 25 = m ∧ nF 3 w 22 = v0 ∧ nF 21 w 0 = v2 ∧ nF 1 w 21 = v1 := by
  subst e
  unfold nF
  refine ⟨?_, ?_, ?_, ?_⟩ <;> omega
theorem shape_29 (w m v0 v1 v2 : Nat) (b0 : v0 < 2 ^ 7) (b1 : v1 < 2 ^ 2) (b2 : v2 < 2 ^ 11) (bm : m < 128)
    (e : w = v0 * 262144 + v1 * 2048 + v2 * 1 + m * 33554432) :
    nF 7 w 25 = m ∧ nF 7 w 11 = v1 ∧ nF 11 w 0 = v2 ∧ nF 7 w 18 = v0 := by
  subst e
  unfold nF
  refine ⟨?_, ?_, ?_, ?_⟩ <;> omega
theorem shape_30 (w m v0 v1 c : Nat) (b0 : v0 < 2 ^ 3) (b1 : v1 < 2 ^ 1) (bc : c < 2097152) (bm : m < 128)
    (e : w = v0 * 4194304 + v1 * 2097152 + c + m * 33554432) :
    nF 7 w 25 = m ∧ nF 21 w 0 = c ∧ nF 3 w 22 = v0 ∧ nF 1 w 21 = v1 := by
  subst e
  unfold nF
  refine ⟨?_, ?_, ?_, ?_⟩ <;> omega
theorem shape_31 (w m v0 c : Nat) (b0 : v0 < 2 ^ 7) (bc : c < 2048) (bm : m < 128)
    (e : w = v0 * 2048 + c + m * 33554432) :
    nF 7 w 25 = m ∧ nF 7 w 18 = 0 ∧ nF 11 w 0 = c ∧ nF 7 w 11 = v0 ∧ nF 4 w 7 = c / 2 ^ 7 % 2 ^ 4 ∧ nF 4 w 0 = c / 2 ^ 0 % 2 ^ 4 ∧ nF 3 w 4 = c / 2 ^ 4 % 2 ^ 3 := by
  subst e
  unfold nF
  refine ⟨?_, ?_, ?_, ?_, ?_, ?_, ?_⟩ <;> omega
theorem shape_32 (w m c : Nat)  (bc : c < 33554432) (bm : m < 128)
    (e : w = c + m * 33554432) :
    nF 7 w 25 = m ∧ nF 17 w 8 = c / 2 ^ 8 % 2 ^ 17 ∧ nF 8 w 0 = c / 2 ^ 0 % 2 ^ 8 ∧ nF 7 w 18 = c / 2 ^ 18 % 2 ^ 7 ∧ nF 10 w 8 = c / 2 ^ 8 % 2 ^ 10 ∧ nF 25 w 0 = c := by
  subst e
  unfold nF
  refine ⟨?_, ?_, ?_, ?_, ?_, ?_⟩ <;> omega
theorem shape_33 (w m v0 c : Nat) (b0 : v0 < 2 ^ 10) (bc : c < 256) (bm : m < 128)
    (e : w = v0 * 256 + c + m * 33554432) :
    nF 7 w 25 = m ∧ nF 17 w 8 = v0 ∧ nF 8 w 0 = c ∧ nF 7 w 18 = 0 ∧ nF 10 w 8 = v0 := by
  subst e
  unfold nF
  refine ⟨?_, ?_, ?_, ?_, ?_⟩ <;> omega
theorem shape_34 (w m v0 v1 v2 v3 c : Nat) (b0 : v0 < 2 ^ 6) (b1 : v1 < 2 ^ 6) (b2 : v2 < 2 ^ 6) (b3 : v3 < 2 ^ 6) (bc : c < 2) (bm : m < 128)
    (e : w = v0 * 524288 + v1 * 8192 + v2 * 128 + v3 * 2 + c + m * 33554432) :
    nF 7 w 25 = m ∧ nF 1 w 0 = c ∧ nF 6 w 19 = v0 ∧ nF 6 w 13 = v1 ∧ nF 6 w 7 = v2 ∧ nF 6 w 1 = v3 := by
  subst e
  unfold nF
  refine ⟨?_, ?_, ?_, ?_, ?_, ?_⟩ <;> omega
theorem shape_35 (w m v0 v1 c : Nat) (b0 : v0 < 2 ^ 5) (b1 : v1 < 2 ^ 7) (bc : c < 2048) (bm : m < 128)
    (e : w = v0 * 262144 + v1 * 2048 + c + m * 33554432) :
    nF 7 w 25 = m ∧ nF 2 w 23 = 0 ∧ nF 11 w 0 = c ∧ nF 5 w 18 = v0 ∧ nF 7 w 11 = v1 := by
  subst e
  unfold nF
  refine ⟨?_, ?_, ?_, ?_, ?_⟩ <;> omega
theorem shape_36 (w m v0 c : Nat) (b0 : v0 < 2 ^ 5) (bc : c < 262144) (bm : m < 128)
    (e : w = v0 * 262144 + c + m * 33554432) :
    nF 7 w 25 = m ∧ nF 2 w 23 = 0 ∧ nF 11 w 0 = c / 2 ^ 0 % 2 ^ 11 ∧ nF 18 w 0 = c ∧ nF 5 w 18 = v0 ∧ nF 7 w 11 = c / 2 ^ 11 % 2 ^ 7 := by
  subst e
  unfold nF
  refine ⟨?_, ?_, ?_, ?_, ?_, ?_⟩ <;> omega
theorem shape_37 (w m v0 v1 c : Nat) (b0 : v0 < 2 ^ 4) (b1 : v1 < 2 ^ 7) (bc : c < 2048) (bm : m < 128)
    (e : w = v0 * 262144 + v1 * 2048 + c + m * 33554432) :
    nF 7 w 25 = m ∧ nF 3 w 22 = 0 ∧ nF 11 w 0 = c ∧ nF 4 w 18 = v0 ∧ nF 7 w 11 = v1 := by
  subst e
  unfold nF
  refine ⟨?_, ?_, ?_, ?_, ?_⟩ <;> omega
theorem shape_38 (w m v0 v1 v2 v3 c : Nat) (b0 : v0 < 2 ^ 4) (b1 : v1 < 2 ^ 3) (b2 : v2 < 2 ^ 7) (b3 : v3 < 2 ^ 7) (bc : c < 16) (bm : m < 128)
    (e : w = v0 * 2097152 + v1 * 262144 + v2 * 2048 + v3 * 16 + c + m * 33554432) :
    nF 7 w 25 = m ∧ nF 4 w 0 = c ∧ nF 3 w 18 = v1 ∧ nF 4 w 21 = v0 ∧ nF 7 w 11 = v2 ∧ nF 7 w 4 = v3 := by
  subst e
  unfold nF
  refine ⟨?_, ?_, ?_, ?_, ?_, ?_⟩ <;> omega
theorem shape_39 (w m v0 v1 v2 c : Nat) (b0 : v0 < 2 ^ 4) (b1 : v1 < 2 ^ 7) (b2 : v2 < 2 ^ 7) (bc : c < 16) (bm : m < 128)
    (e : w = v0 * 2097152 + v1 * 2048 + v2 * 16 + c + m * 33554432) :
    nF 7 w 25 = m ∧ nF 4 w 0 = c ∧ nF 3 w 18 = 0 ∧ nF 4 w 21 = v0 ∧ nF 7 w 11 = v1 ∧ nF 7 w 4 = v2 := by
  subst e
  unfold nF
  refine ⟨?_, ?_, ?_, ?_, ?_, ?_⟩ <;> omega
theorem shape_40 (w m v0 v1 v2 v3 v4 v5 v6 : Nat) (b0 : v0 < 2 ^ 4) (b1 : v1 < 2 ^ 4) (b2 : v2 < 2 ^ 4) (b3 : v3 < 2 ^ 3) (b4 : v4 < 2 ^ 2) (b5 : v5 < 2 ^ 1) (b6 : v6 < 2 ^ 1) (bm : m < 128)
    (e : w = v0 * 2097152 + v1 * 131072 + v2 * 8192 + v3 * 1024 + v4 * 4 + v5 * 2 + v6 * 1 + m * 33554432) :
    nF 7 w 25 = m ∧ nF 6 w 4 = 0 ∧ nF 2 w 2 = v4 ∧ nF 4 w 21 = v0 ∧ nF 4 w 17 = v1 ∧ nF 4 w 13 = v2 ∧ nF 3 w 10 = v3 ∧ nF 1 w 1 = v5 ∧ nF 1 w 0 = v6 := by
  subst e
  unfold nF
  refine ⟨?_, ?_, ?_, ?_, ?_, ?_, ?_, ?_, ?_⟩ <;> omega
theorem shape_41 (w m v0 v1 v2 v3 c : Nat) (b0 : v0 < 2 ^ 4) (b1 : v1 < 2 ^ 3) (b2 : v2 < 2 ^ 3) (b3 : v3 < 2 ^ 7) (bc : c < 16) (bm : m < 128)
    (e : w = v0 * 2097152 + v1 * 262144 + v2 * 32768 + v3 * 16 + c + m * 33554432) :
    nF 7 w 25 = m ∧ nF 4 w 11 = 0 ∧ nF 4 w 0 = c ∧ nF 4 w 21 = v0 ∧ nF 3 w 18 = v1 ∧ nF 3 w 15 = v2 ∧ nF 7 w 4 = v3 := by
  subst e
  unfold nF
  refine ⟨?_, ?_, ?_, ?_, ?_, ?_, ?_⟩ <;> omega
theorem shape_42 (w m v0 v1 v2 v3 v4 v5 v6 v7 : Nat) (b0 : v0 < 2 ^ 4) (b1 : v1 < 2 ^ 4) (b2 : v2 < 2 ^ 4) (b3 : v3 < 2 ^ 3) (b4 : v4 < 2 ^ 1) (b5 : v5 < 2 ^ 2) (b6 : v6 < 2 ^ 1) (b7 : v7 < 2 ^ 1) (bm : m < 128)
    (e : w = v0 * 2097152 + v1 * 131072 + v2 * 8192 + v3 * 1024 + v4 * 16 + v5 * 4 + v6 * 2 + v7 * 1 + m * 33554432) :
    nF 7 w 25 = m ∧ nF 5 w 5 = 0 ∧ nF 2 w 2 = v5 ∧ nF 4 w 21 = v0 ∧ nF 4 w 17 = v1 ∧ nF 4 w 13 = v2 ∧ nF 3 w 10 = v3 ∧ nF 1 w 4 = v4 ∧ nF 1 w 1 = v6 ∧ nF 1 w 0 = v7 := by
  subst e
  unfold nF
  refine ⟨?_, ?_, ?_, ?_, ?_, ?_, ?_, ?_, ?_, ?_⟩ <;> omega
theorem shape_43 (w m v0 v1 v2 v3 v4 v5 v6 : Nat) (b0 : v0 < 2 ^ 4) (b1 : v1 < 2 ^ 4) (b2 : v2 < 2 ^ 4) (b3 : v3 < 2 ^ 3) (b4 : v4 < 2 ^ 1) (b5 : v5 < 2 ^ 1) (b6 : v6 < 2 ^ 1) (bm : m < 128)
    (e : w = v0 * 2097152 + v1 * 131072 + v2 * 8192 + v3 * 1024 + v4 * 4 + v5 * 2 + v6 * 1 + m * 33554432) :
    nF 7 w 25 = m ∧ nF 7 w 3 = 0 ∧ nF 4 w 13 = v2 ∧ nF 1 w 9 = 0 ∧ nF 4 w 21 = v0 ∧ nF 4 w 17 = v1 ∧ nF 3 w 10 = v3 ∧ nF 6 w 3 = 0 ∧ nF 1 w 2 = v4 ∧ nF 1 w 1 = v5 ∧ nF 1 w 0 = v6 := by
  subst e
  unfold nF
  refine ⟨?_, ?_, ?_, ?_, ?_, ?_, ?_, ?_, ?_, ?_, ?_⟩ <;> omega
theorem shape_44 (w m v0 v1 v2 v3 v4 : Nat) (b0 : v0 < 2 ^ 4) (b1 : v1 < 2 ^ 4) (b2 : v2 < 2 ^ 3) (b3 : v3 < 2 ^ 6) (b4 : v4 < 2 ^ 1) (bm : m < 128)
    (e : w = v0 * 2097152 + v1 * 131072 + v2 * 1024 + v3 * 8 + v4 * 1 + 512 + m * 33554432) :
    nF 7 w 25 = m ∧ nF 4 w 13 = 0 ∧ nF 1 w 9 = 1 ∧ nF 2 w 1 = 0 ∧ nF 4 w 21 = v0 ∧ nF 4 w 17 = v1 ∧ nF 3 w 10 = v2 ∧ nF 6 w 3 = v3 ∧ nF 1 w 2 = 0 ∧ nF 1 w 1 = 0 ∧ nF 1 w 0 = v4 := by
  subst e
  unfold nF
  refine ⟨?_, ?_, ?_, ?_, ?_, ?_, ?_, ?_, ?_, ?_, ?_⟩ <;> omega
theorem shape_45 (w m v0 v1 c : Nat) (b0 : v0 < 2 ^ 4) (b1 : v1 < 2 ^ 4) (bc : c < 131072) (bm : m < 128)
    (e : w = v0 * 2097152 + v1 * 131072 + c + m * 33554432) :
    nF 7 w 25 = m ∧ nF 17 w 0 = c ∧ nF 4 w 21 = v0 ∧ nF 4 w 17 = v1 := by
  subst e
  unfold nF
  refine ⟨?_, ?_, ?_, ?_⟩ <;> omega
theorem shape_46 (w m v0 v1 v2 v3 v4 : Nat) (b0 : v0 < 2 ^ 4) (b1 : v1 < 2 ^ 4) (b2 : v2 < 2 ^ 3) (b3 : v3 < 2 ^ 1) (b4 : v4 < 2 ^ 3) (bm : m < 128)
    (e : w = v0 * 2097152 + v1 * 131072 + v2 * 1024 + v3 * 8 + v4 * 1 + m * 33554432) :
    nF 7 w 25 = m ∧ nF 4 w 13 = 0 ∧ nF 6 w 4 = 0 ∧ nF 3 w 0 = v4 ∧ nF 4 w 21 = v0 ∧ nF 4 w 17 = v1 ∧ nF 3 w 10 = v2 ∧ nF 1 w 3 = v3 := by
  subst e
  unfold nF
  refine ⟨?_, ?_, ?_, ?_, ?_, ?_, ?_, ?_⟩ <;> omega
theorem shape_47 (w m v0 v1 v2 v3 v4 : Nat) (b0 : v0 < 2 ^ 4) (b1 : v1 < 2 ^ 4) (b2 : v2 < 2 ^ 3) (b3 : v3 < 2 ^ 1) (b4 : v4 < 2 ^ 3) (bm : m < 128)
    (e : w = v0 * 2097152 + v1 * 131072 + v2 * 1024 + v3 * 16 + v4 * 1 + m * 33554432) :
    nF 7 w 25 = m ∧ nF 4 w 13 = 0 ∧ nF 5 w 5 = 0 ∧ nF 4 w 0 = v4 ∧ nF 4 w 21 = v0 ∧ nF 4 w 17 = v1 ∧ nF 3 w 10 = v2 ∧ nF 1 w 4 = v3 := by
  subst e
  unfold nF
  refine ⟨?_, ?_, ?_, ?_, ?_, ?_, ?_, ?_⟩ <;> omega
theorem shape_48 (w m v0 v1 v2 v3 v4 : Nat) (b0 : v0 < 2 ^ 4) (b1 : v1 < 2 ^ 4) (b2 : v2 < 2 ^ 3) (b3 : v3 < 2 ^ 1) (b4 : v4 < 2 ^ 1) (bm : m < 128)
    (e : w = v0 * 2097152 + v1 * 131072 + v2 * 1024 + v3 * 2 + v4 * 1 + m * 33554432) :
    nF 7 w 25 = m ∧ nF 4 w 13 = 0 ∧ nF 8 w 2 = 0 ∧ nF 4 w 21 = v0 ∧ nF 4 w 17 = v1 ∧ nF 3 w 10 = v2 ∧ nF 1 w 1 = v3 ∧ nF 1 w 0 = v4 := by
  subst e
  unfold nF
  refine ⟨?_, ?_, ?_, ?_, ?_, ?_, ?_, ?_⟩ <;> omega
theorem shape_49 (w m v0 c : Nat) (b0 : v0 < 2 ^ 4) (bc : c < 2097152) (bm : m < 128)
    (e : w = v0 * 2097152 + c + m * 33554432) :
    nF 7 w 25 = m ∧ nF 21 w 0 = c ∧ nF 4 w 21 = v0 := by
  subst e
  unfold nF
  refine ⟨?_, ?_, ?_⟩ <;> omega
theorem shape_50 (w m v0 v1 v2 c : Nat) (b0 : v0 < 2 ^ 7) (b1 : v1 < 2 ^ 4) (b2 : v2 < 2 ^ 7) (bc : c < 16) (bm : m < 128)
    (e : w = v0 * 262144 + v1 * 2048 + v2 * 16 + c + m * 33554432) :
    nF 7 w 25 = m ∧ nF 3 w 15 = 0 ∧ nF 4 w 0 = c ∧ nF 4 w 11 = v1 ∧ nF 7 w 18 = v0 ∧ nF 7 w 4 = v2 ∧ nF 7 w 11 = v1 := by
  subst e
  unfold nF
  refine ⟨?_, ?_, ?_, ?_, ?_, ?_, ?_⟩ <;> omega
theorem shape_51 (w m v0 v1 v2 c : Nat) (b0 : v0 < 2 ^ 4) (b1 : v1 < 2 ^ 7) (b2 : v2 < 2 ^ 7) (bc : c < 16) (bm : m < 128)
    (e : w = v0 * 262144 + v1 * 2048 + v2 * 16 + c + m * 33554432) :
    nF 7 w 25 = m ∧ nF 4 w 0 = c ∧ nF 3 w 22 = 0 ∧ nF 4 w 18 = v0 ∧ nF 7 w 18 = v0 ∧ nF 7 w 4 = v2 ∧ nF 7 w 11 = v1 := by
  subst e
  unfold nF
  refine ⟨?_, ?_, ?_, ?_, ?_, ?_, ?_⟩ <;> omega
theorem shape_52 (w m v0 v1 v2 c : Nat) (b0 : v0 < 2 ^ 7) (b1 : v1 < 2 ^ 4) (b2 : v2 < 2 ^ 3) (bc : c < 16) (bm : m < 128)
    (e : w = v0 * 262144 + v1 * 2048 + v2 * 16 + c + m * 33554432) :
    nF 7 w 25 = m ∧ nF 3 w 15 = 0 ∧ nF 4 w 0 = c ∧ nF 4 w 7 = 0 ∧ nF 4 w 11 = v1 ∧ nF 3 w 4 = v2 ∧ nF 7 w 18 = v0 ∧ nF 7 w 4 = v2 ∧ nF 7 w 11 = v1 := by
  subst e
  unfold nF
  refine ⟨?_, ?_, ?_, ?_, ?_, ?_, ?_, ?_, ?_⟩ <;> omega
theorem shape_53 (w m v0 v1 v2 c : Nat) (b0 : v0 < 2 ^ 4) (b1 : v1 < 2 ^ 3) (b2 : v2 < 2 ^ 10) (bc : c < 32) (bm : m < 128)
    (e : w = v0 * 262144 + v1 * 32768 + v2 * 32 + c + m * 33554432) :
    nF 7 w 25 = m ∧ nF 3 w 22 = 0 ∧ nF 5 w 0 = c ∧ nF 4 w 18 = v0 ∧ nF 3 w 15 = v1 ∧ nF 10 w 5 = v2 := by
  subst e
  unfold nF
  refine ⟨?_, ?_, ?_, ?_, ?_, ?_⟩ <;> omega
theorem shape_54 (w m v0 v1 v2 v3 v4 c : Nat) (b0 : v0 < 2 ^ 4) (b1 : v1 < 2 ^ 4) (b2 : v2 < 2 ^ 5) (b3 : v3 < 2 ^ 3) (b4 : v4 < 2 ^ 1) (bc : c < 8) (bm : m < 128)
    (e : w = v0 * 262144 + v1 * 16384 + v2 * 512 + v3 * 16 + v4 * 8 + c + m * 33554432) :
    nF 7 w 25 = m ∧ nF 3 w 22 = 0 ∧ nF 3 w 0 = c ∧ nF 5 w 4 = v3 ∧ nF 4 w 14 = v1 ∧ nF 4 w 18 = v0 ∧ nF 5 w 9 = v2 ∧ nF 1 w 3 = v4 := by
  subst e
  unfold nF
  refine ⟨?_, ?_, ?_, ?_, ?_, ?_, ?_, ?_⟩ <;> omega
theorem shape_55 (w m v0 v1 v2 v3 v4 c : Nat) (b0 : v0 < 2 ^ 4) (b1 : v1 < 2 ^ 4) (b2 : v2 < 2 ^ 5) (b3 : v3 < 2 ^ 4) (b4 : v4 < 2 ^ 1) (bc : c < 8) (bm : m < 128)
    (e : w = v0 * 262144 + v1 * 16384 + v2 * 512 + v3 * 16 + v4 * 8 + c + m * 33554432) :
    nF 7 w 25 = m ∧ nF 3 w 22 = 0 ∧ nF 1 w 8 = 0 ∧ nF 3 w 0 = c ∧ nF 4 w 14 = v1 ∧ nF 4 w 18 = v0 ∧ nF 4 w 4 = v3 ∧ nF 5 w 9 = v2 ∧ nF 1 w 3 = v4 := by
  subst e
  unfold nF
  refine ⟨?_, ?_, ?_, ?_, ?_, ?_, ?_, ?_, ?_⟩ <;> omega
theorem shape_56 (w m v0 v1 v2 v3 v4 c : Nat) (b0 : v0 < 2 ^ 7) (b1 : v1 < 2 ^ 4) (b2 : v2 < 2 ^ 5) (b3 : v3 < 2 ^ 2) (b4 : v4 < 2 ^ 1) (bc : c < 8) (bm : m < 128)
    (e : w = v0 * 262144 + v1 * 16384 + v2 * 512 + v3 * 16 + v4 * 8 + c + m * 33554432) :
    nF 7 w 25 = m ∧ nF 3 w 0 = c ∧ nF 5 w 4 = v3 ∧ nF 4 w 14 = v1 ∧ nF 5 w 9 = v2 ∧ nF 7 w 18 = v0 ∧ nF 1 w 3 = v4 := by
  subst e
  unfold nF
  refine ⟨?_, ?_, ?_, ?_, ?_, ?_, ?_⟩ <;> omega
theorem shape_57 (w m v0 v1 v2 : Nat) (b0 : v0 < 2 ^ 7) (b1 : v1 < 2 ^ 5) (b2 : v2 < 2 ^ 2) (bm : m < 128)
    (e : w = v0 * 262144 + v1 * 256 + v2 * 1 + m * 33554432) :
    nF 7 w 25 = m ∧ nF 5 w 13 = 0 ∧ nF 6 w 2 = 0 ∧ nF 5 w 8 = v1 ∧ nF 2 w 0 = v2 ∧ nF 7 w 18 = v0 := by
  subst e
  unfold nF
  refine ⟨?_, ?_, ?_, ?_, ?_, ?_⟩ <;> omega
theorem shape_58 (w m v0 v1 v2 c : Nat) (b0 : v0 < 2 ^ 7) (b1 : v1 < 2 ^ 3) (b2 : v2 < 2 ^ 10) (bc : c < 32) (bm : m < 128)
    (e : w = v0 * 262144 + v1 * 32768 + v2 * 32 + c + m * 33554432) :
    nF 7 w 25 = m ∧ nF 5 w 0 = c ∧ nF 3 w 15 = v1 ∧ nF 10 w 5 = v2 ∧ nF 7 w 18 = v0 := by
  subst e
  unfold nF
  refine ⟨?_, ?_, ?_, ?_, ?_⟩ <;> omega
theorem shape_59 (w m v0 v1 c : Nat) (b0 : v0 < 2 ^ 7) (b1 : v1 < 2 ^ 7) (bc : c < 16) (bm : m < 128)
    (e : w = v0 * 2048 + v1 * 16 + c + m * 33554432) :
    nF 7 w 25 = m ∧ nF 7 w 18 = 0 ∧ nF 4 w 0 = c ∧ nF 7 w 11 = v0 ∧ nF 7 w 4 = v1 := by
  subst e
  unfold nF
  refine ⟨?_, ?_, ?_, ?_, ?_⟩ <;> omega
theorem shape_60 (w m v0 v1 c : Nat) (b0 : v0 < 2 ^ 7) (b1 : v1 < 2 ^ 7) (bc : c < 2048) (bm : m < 128)
    (e : w = v0 * 262144 + v1 * 2048 + c + m * 33554432) :
    nF 7 w 25 = m ∧ nF 7 w 18 = v0 ∧ nF 4 w 0 = c / 2 ^ 0 % 2 ^ 4 ∧ nF 11 w 0 = c ∧ nF 7 w 11 = v1 ∧ nF 7 w 4 = c / 2 ^ 4 % 2 ^ 7 := by
  subst e
  unfold nF
  refine ⟨?_, ?_, ?_, ?_, ?_, ?_⟩ <;> omega
theorem shape_61 (w m v0 v1 c : Nat) (b0 : v0 < 2 ^ 7) (b1 : v1 < 2 ^ 3) (bc : c < 16) (bm : m < 128)
    (e : w = v0 * 262144 + v1 * 16 + c + m * 33554432) :
    nF 7 w 25 = m ∧ nF 7 w 18 = v0 ∧ nF 7 w 11 = 0 ∧ nF 4 w 7 = 0 ∧ nF 4 w 0 = c ∧ nF 3 w 4 = v1 := by
  subst e
  unfold nF
  refine ⟨?_, ?_, ?_, ?_, ?_, ?_⟩ <;> omega
theorem shape_62 (w m v0 v1 v2 v3 v4 v5 : Nat) (b0 : v0 < 2 ^ 7) (b1 : v1 < 2 ^ 3) (b2 : v2 < 2 ^ 3) (b3 : v3 < 2 ^ 4) (b4 : v4 < 2 ^ 3) (b5 : v5 < 2 ^ 2) (bm : m < 128)
    (e : w = v0 * 262144 + v1 * 32768 + v2 * 4096 + v3 * 32 + v4 * 4 + v5 * 1 + m * 33554432) :
    nF 7 w 25 = m ∧ nF 3 w 12 = v2 ∧ nF 7 w 5 = v3 ∧ nF 3 w 2 = v4 ∧ nF 2 w 0 = v5 ∧ nF 3 w 15 = v1 ∧ nF 7 w 18 = v0 := by
  subst e
  unfold nF
  refine ⟨?_, ?_, ?_, ?_, ?_, ?_, ?_⟩ <;> omega
theorem shape_63 (w m v0 v1 v2 v3 v4 : Nat) (b0 : v0 < 2 ^ 7) (b1 : v1 < 2 ^ 3) (b2 : v2 < 2 ^ 3) (b3 : v3 < 2 ^ 3) (b4 : v4 < 2 ^ 2) (bm : m < 128)
    (e : w = v0 * 262144 + v1 * 32768 + v2 * 4096 + v3 * 4 + v4 * 1 + m * 33554432) :
    nF 7 w 25 = m ∧ nF 7 w 5 = 0 ∧ nF 3 w 12 = v2 ∧ nF 3 w 2 = v3 ∧ nF 2 w 0 = v4 ∧ nF 3 w 15 = v1 ∧ nF 7 w 18 = v0 := by
  subst e
  unfold nF
  refine ⟨?_, ?_, ?_, ?_, ?_, ?_, ?_⟩ <;> omega
theorem shape_64 (w m v0 v1 v2 v3 v4 c : Nat) (b0 : v0 < 2 ^ 7) (b1 : v1 < 2 ^ 3) (b2 : v2 < 2 ^ 3) (b3 : v3 < 2 ^ 2) (b4 : v4 < 2 ^ 3) (bc : c < 4) (bm : m < 128)
    (e : w = v0 * 262144 + v1 * 32768 + v2 * 4096 + v3 * 1024 + v4 * 4 + c + m * 33554432) :
    nF 7 w 25 = m ∧ nF 5 w 5 = 0 ∧ nF 2 w 0 = c ∧ nF 3 w 12 = v2 ∧ nF 3 w 2 = v4 ∧ nF 2 w 10 = v3 ∧ nF 3 w 15 = v1 ∧ nF 7 w 18 = v0 := by
  subst e
  unfold nF
  refine ⟨?_, ?_, ?_, ?_, ?_, ?_, ?_, ?_⟩ <;> omega
theorem shape_65 (w m v0 v1 v2 v3 v4 v5 : Nat) (b0 : v0 < 2 ^ 7) (b1 : v1 < 2 ^ 3) (b2 : v2 < 2 ^ 3) (b3 : v3 < 2 ^ 7) (b4 : v4 < 2 ^ 3) (b5 : v5 < 2 ^ 2) (bm : m < 128)
    (e : w = v0 * 262144 + v1 * 32768 + v2 * 4096 + v3 * 32 + v4 * 4 + v5 * 1 + m * 33554432) :
    nF 7 w 25 = m ∧ nF 3 w 12 = v2 ∧ nF 3 w 2 = v4 ∧ nF 2 w 0 = v5 ∧ nF 3 w 15 = v1 ∧ nF 7 w 18 = v0 ∧ nF 7 w 5 = v3 := by
  subst e
  unfold nF
  refine ⟨?_, ?_, ?_, ?_, ?_, ?_, ?_⟩ <;> omega
theorem shape_66 (w m v0 c : Nat) (b0 : v0 < 2 ^ 3) (bc : c < 256) (bm : m < 128)
    (e : w = v0 * 256 + c + m * 33554432) :
    nF 7 w 25 = m ∧ nF 7 w 18 = 0 ∧ nF 7 w 11 = 0 ∧ nF 8 w 0 = c ∧ nF 3 w 8 = v0 := by
  subst e
  unfold nF
  refine ⟨?_, ?_, ?_, ?_, ?_⟩ <;> omega
theorem shape_67 (w m v0 v1 c : Nat) (b0 : v0 < 2 ^ 3) (b1 : v1 < 2 ^ 7) (bc : c < 16) (bm : m < 128)
    (e : w = v0 * 2048 + v1 * 16 + c + m * 33554432) :
    nF 7 w 25 = m ∧ nF 7 w 18 = 0 ∧ nF 4 w 14 = 0 ∧ nF 4 w 0 = c ∧ nF 3 w 11 = v0 ∧ nF 7 w 4 = v1 := by
  subst e
  unfold nF
  refine ⟨?_, ?_, ?_, ?_, ?_, ?_⟩ <;> omega
theorem shape_68 (w m v0 c : Nat) (b0 : v0 < 2 ^ 3) (bc : c < 2048) (bm : m < 128)
    (e : w = v0 * 2048 + c + m * 33554432) :
    nF 7 w 25 = m ∧ nF 7 w 18 = 0 ∧ nF 4 w 14 = 0 ∧ nF 4 w 0 = c / 2 ^ 0 % 2 ^ 4 ∧ nF 11 w 0 = c ∧ nF 3 w 11 = v0 ∧ nF 7 w 4 = c / 2 ^ 4 % 2 ^ 7 := by
  subst e
  unfold nF
  refine ⟨?_, ?_, ?_, ?_, ?_, ?_, ?_⟩ <;> omega
theorem shape_69 (w m v0 v1 v2 v3 : Nat) (b0 : v0 < 2 ^ 3) (b1 : v1 < 2 ^ 10) (b2 : v2 < 2 ^ 3) (b3 : v3 < 2 ^ 2) (bm : m < 128)
    (e : w = v0 * 32768 + v1 * 32 + v2 * 4 + v3 * 1 + m * 33554432) :
    nF 7 w 25 = m ∧ nF 7 w 18 = 0 ∧ nF 2 w 0 = v3 ∧ nF 3 w 15 = v0 ∧ nF 10 w 5 = v1 ∧ nF 3 w 2 = v2 := by
  subst e
  unfold nF
  refine ⟨?_, ?_, ?_, ?_, ?_, ?_⟩ <;> omega
theorem shape_70 (w m v0 : Nat) (b0 : v0 < 2 ^ 25) (bm : m < 128)
    (e : w = v0 * 1 + m * 33554432) :
    nF 7 w 25 = m ∧ nF 25 w 0 = v0 := by
  subst e
  unfold nF
  refine ⟨?_, ?_⟩ <;> omega
theorem shape_71 (w m v0 v1 v2 v3 v4 v5 c : Nat) (b0 : v0 < 2 ^ 1) (b1 : v1 < 2 ^ 1) (b2 : v2 < 2 ^ 1) (b3 : v3 < 2 ^ 1) (b4 : v4 < 2 ^ 6) (b5 : v5 < 2 ^ 4) (bc : c < 2048) (bm : m < 128)
    (e : w = v0 * 16777216 + v1 * 8388608 + v2 * 4194304 + v3 * 2097152 + v4 * 32768 + v5 * 2048 + c + m * 33554432) :
    nF 7 w 25 = m ∧ nF 11 w 0 = c ∧ nF 4 w 11 = v5 ∧ nF 6 w 15 = v4 ∧ nF 1 w 24 = v0 ∧ nF 1 w 23 = v1 ∧ nF 1 w 22 = v2 ∧ nF 1 w 21 = v3 := by
  subst e
  unfold nF
  refine ⟨?_, ?_, ?_, ?_, ?_, ?_, ?_, ?_⟩ <;> omega
theorem iadd (x0 : GNum) (x1 : GNum) (x2 : GNum) (x3 : BitVec 2) (x4 : ITy) : Statement (.iadd x0 x1 x2 x3 x4) := by
  intro w e wf
  have e : w = _ := (Option.some.inj e).symm
  simp only [pack] at e
  obtain ⟨m, f0, f1, f2, f3, f4, f5⟩ := shape_0 w 1 x0.toNat x1.toNat x2.toNat x3.toNat x4.code 0 x0.isLt x1.isLt x2.isLt x3.isLt x4.code_lt (by decide) (by decide) (e.trans (by omega))
  rw [decode, decRaw_1 w m]
  simp [gF, bF_of x3 f2, bF_of x0 f3, bF_of x1 f4, bF_of x2 f5, f0, f1, ITy.ofCode_code, wf]
theorem isub (x0 : GNum) (x1 : GNum) (x2 : GNum) (x3 : BitVec 2) (x4 : ITy) : Statement (.isub x0 x1 x2 x3 x4) := by
  intro w e wf
  have e : w = _ := (Option.some.inj e).symm
  simp only [pack] at e
  obtain ⟨m, f0, f1, f2, f3, f4, f5⟩ := shape_0 w 1 x0.toNat x1.toNat x2.toNat x3.toNat x4.code 1 x0.isLt x1.isLt x2.isLt x3.isLt x4.code_lt (by decide) (by decide) (e.trans (by omega))
  rw [decode, decRaw_1 w m]
  simp [gF, bF_of x3 f2, bF_of x0 f3, bF_of x1 f4, bF_of x2 f5, f0, f1, ITy.ofCode_code, wf]
theorem iaddi (x0 : GNum) (x1 : GNum) (x2 : BitVec 11) : Statement (.iaddi x0 x1 x2) := by
  intro w e wf
  have e : w = _ := (Option.some.inj e).symm
  simp only [pack] at e
  obtain ⟨m, f0, f1, f2⟩ := shape_1 w 2 x0.toNat x1.toNat x2.toNat x0.isLt x1.isLt x2.isLt (by decide) (e.trans (by omega))
  rw [decode, decRaw_2 w m]
  simp [gF, bF_of x2 f0, bF_of x0 f1, bF_of x1 f2, wf]
theorem imul (x0 : GNum) (x1 : GNum) (x2 : GNum) (x3 : BitVec 2) (x4 : ITy) : Statement (.imul x0 x1 x2 x3 x4) := by
  intro w e wf
  have e : w = _ := (Option.some.inj e).symm
  simp only [pack] at e
  obtain ⟨m, f0, f1, f2, f3, f4, f5⟩ := shape_0 w 3 x0.toNat x1.toNat x2.toNat x3.toNat x4.code 0 x0.isLt x1.isLt x2.isLt x3.isLt x4.code_lt (by decide) (by decide) (e.trans (by omega))
  rw [decode, decRaw_3 w m]
  simp [gF, bF_of x3 f2, bF_of x0 f3, bF_of x1 f4, bF_of x2 f5, f0, f1, ITy.ofCode_code, wf]
theorem imulhi (x0 : GNum) (x1 : GNum) (x2 : GNum) (x3 : BitVec 2) (x4 : ITy) : Statement (.imulhi x0 x1 x2 x3 x4) := by
  intro w e wf
  have e : w = _ := (Option.some.inj e).symm
  simp only [pack] at e
  obtain ⟨m, f0, f1, f2, f3, f4, f5⟩ := shape_0 w 3 x0.toNat x1.toNat x2.toNat x3.toNat x4.code 1 x0.isLt x1.isLt x2.isLt x3.isLt x4.code_lt (by decide) (by decide) (e.trans (by omega))
  rw [decode, decRaw_3 w m]
  simp [gF, bF_of x3 f2, bF_of x0 f3, bF_of x1 f4, bF_of x2 f5, f0, f1, ITy.ofCode_code, wf]
theorem imad (x0 : GNum) (x1 : GNum) (x2 : GNum) (x3 : BitVec 2) (x4 : ITy) : Statement (.imad x0 x1 x2 x3 x4) := by
  intro w e wf
  have e : w = _ := (Option.some.inj e).symm
  simp only [pack] at e
  obtain ⟨m, f0, f1, f2, f3, f4, f5⟩ := shape_0 w 4 x0.toNat x1.toNat x2.toNat x3.toNat x4.code 0 x0.isLt x1.isLt x2.isLt x3.isLt x4.code_lt (by decide) (by decide) (e.trans (by omega))
  rw [decode, decRaw_4 w m]
  simp [gF, bF_of x3 f2, bF_of x0 f3, bF_of x1 f4, bF_of x2 f5, f0, f1, ITy.ofCode_code, wf]
theorem imin (x0 : GNum) (x1 : GNum) (x2 : GNum) (x3 : BitVec 2) (x4 : ITy) : Statement (.imin x0 x1 x2 x3 x4) := by
  intro w e wf
  have e : w = _ := (Option.some.inj e).symm
  simp only [pack] at e
  obtain ⟨m, f0, f1, f2, f3, f4, f5⟩ := shape_0 w 5 x0.toNat x1.toNat x2.toNat x3.toNat x4.code 0 x0.isLt x1.isLt x2.isLt x3.isLt x4.code_lt (by decide) (by decide) (e.trans (by omega))
  rw [decode, decRaw_5 w m]
  simp [gF, bF_of x3 f2, bF_of x0 f3, bF_of x1 f4, bF_of x2 f5, f0, f1, ITy.ofCode_code, wf]
theorem imax (x0 : GNum) (x1 : GNum) (x2 : GNum) (x3 : BitVec 2) (x4 : ITy) : Statement (.imax x0 x1 x2 x3 x4) := by
  intro w e wf
  have e : w = _ := (Option.some.inj e).symm
  simp only [pack] at e
  obtain ⟨m, f0, f1, f2, f3, f4, f5⟩ := shape_0 w 5 x0.toNat x1.toNat x2.toNat x3.toNat x4.code 1 x0.isLt x1.isLt x2.isLt x3.isLt x4.code_lt (by decide) (by decide) (e.trans (by omega))
  rw [decode, decRaw_5 w m]
  simp [gF, bF_of x3 f2, bF_of x0 f3, bF_of x1 f4, bF_of x2 f5, f0, f1, ITy.ofCode_code, wf]
theorem clz (x0 : GNum) (x1 : GNum) (x2 : BitVec 2) : Statement (.clz x0 x1 x2) := by
  intro w e wf
  have e : w = _ := (Option.some.inj e).symm
  simp only [pack] at e
  obtain ⟨m, f0, f1, f2, f3, f4⟩ := shape_2 w 6 x0.toNat x1.toNat x2.toNat 0 x0.isLt x1.isLt x2.isLt (by decide) (by decide) (e.trans (by omega))
  rw [decode, decRaw_6 w m]
  simp [gF, bF_of x2 f2, bF_of x0 f3, bF_of x1 f4, f0, f1, wf]
theorem popc (x0 : GNum) (x1 : GNum) (x2 : BitVec 2) : Statement (.popc x0 x1 x2) := by
  intro w e wf
  have e : w = _ := (Option.some.inj e).symm
  simp only [pack] at e
  obtain ⟨m, f0, f1, f2, f3, f4⟩ := shape_2 w 6 x0.toNat x1.toNat x2.toNat 1 x0.isLt x1.isLt x2.isLt (by decide) (by decide) (e.trans (by omega))
  rw [decode, decRaw_6 w m]
  simp [gF, bF_of x2 f2, bF_of x0 f3, bF_of x1 f4, f0, f1, wf]
theorem brev (x0 : GNum) (x1 : GNum) (x2 : BitVec 2) : Statement (.brev x0 x1 x2) := by
  intro w e wf
  have e : w = _ := (Option.some.inj e).symm
  simp only [pack] at e
  obtain ⟨m, f0, f1, f2, f3, f4⟩ := shape_2 w 6 x0.toNat x1.toNat x2.toNat 2 x0.isLt x1.isLt x2.isLt (by decide) (by decide) (e.trans (by omega))
  rw [decode, decRaw_6 w m]
  simp [gF, bF_of x2 f2, bF_of x0 f3, bF_of x1 f4, f0, f1, wf]
theorem iabs (x0 : GNum) (x1 : GNum) (x2 : BitVec 2) : Statement (.iabs x0 x1 x2) := by
  intro w e wf
  have e : w = _ := (Option.some.inj e).symm
  simp only [pack] at e
  obtain ⟨m, f0, f1, f2, f3, f4⟩ := shape_2 w 6 x0.toNat x1.toNat x2.toNat 3 x0.isLt x1.isLt x2.isLt (by decide) (by decide) (e.trans (by omega))
  rw [decode, decRaw_6 w m]
  simp [gF, bF_of x2 f2, bF_of x0 f3, bF_of x1 f4, f0, f1, wf]
theorem and_ (x0 : GNum) (x1 : GNum) (x2 : GNum) (x3 : BitVec 2) : Statement (.and_ x0 x1 x2 x3) := by
  intro w e wf
  have e : w = _ := (Option.some.inj e).symm
  simp only [pack] at e
  obtain ⟨m, f0, f1, f2, f3, f4⟩ := shape_3 w 7 x0.toNat x1.toNat x2.toNat x3.toNat 0 x0.isLt x1.isLt x2.isLt x3.isLt (by decide) (by decide) (e.trans (by omega))
  rw [decode, decRaw_7 w m]
  simp [gF, bF_of x3 f1, bF_of x0 f2, bF_of x1 f3, bF_of x2 f4, f0, wf]
theorem or_ (x0 : GNum) (x1 : GNum) (x2 : GNum) (x3 : BitVec 2) : Statement (.or_ x0 x1 x2 x3) := by
  intro w e wf
  have e : w = _ := (Option.some.inj e).symm
  simp only [pack] at e
  obtain ⟨m, f0, f1, f2, f3, f4⟩ := shape_3 w 7 x0.toNat x1.toNat x2.toNat x3.toNat 1 x0.isLt x1.isLt x2.isLt x3.isLt (by decide) (by decide) (e.trans (by omega))
  rw [decode, decRaw_7 w m]
  simp [gF, bF_of x3 f1, bF_of x0 f2, bF_of x1 f3, bF_of x2 f4, f0, wf]
theorem xor_ (x0 : GNum) (x1 : GNum) (x2 : GNum) (x3 : BitVec 2) : Statement (.xor_ x0 x1 x2 x3) := by
  intro w e wf
  have e : w = _ := (Option.some.inj e).symm
  simp only [pack] at e
  obtain ⟨m, f0, f1, f2, f3, f4⟩ := shape_3 w 7 x0.toNat x1.toNat x2.toNat x3.toNat 2 x0.isLt x1.isLt x2.isLt x3.isLt (by decide) (by decide) (e.trans (by omega))
  rw [decode, decRaw_7 w m]
  simp [gF, bF_of x3 f1, bF_of x0 f2, bF_of x1 f3, bF_of x2 f4, f0, wf]
theorem andn (x0 : GNum) (x1 : GNum) (x2 : GNum) (x3 : BitVec 2) : Statement (.andn x0 x1 x2 x3) := by
  intro w e wf
  have e : w = _ := (Option.some.inj e).symm
  simp only [pack] at e
  obtain ⟨m, f0, f1, f2, f3, f4⟩ := shape_3 w 7 x0.toNat x1.toNat x2.toNat x3.toNat 3 x0.isLt x1.isLt x2.isLt x3.isLt (by decide) (by decide) (e.trans (by omega))
  rw [decode, decRaw_7 w m]
  simp [gF, bF_of x3 f1, bF_of x0 f2, bF_of x1 f3, bF_of x2 f4, f0, wf]
theorem shl (x0 : GNum) (x1 : GNum) (x2 : GNum) (x3 : BitVec 2) : Statement (.shl x0 x1 x2 x3) := by
  intro w e wf
  have e : w = _ := (Option.some.inj e).symm
  simp only [pack] at e
  obtain ⟨m, f0, f1, f2, f3, f4⟩ := shape_3 w 8 x0.toNat x1.toNat x2.toNat x3.toNat 0 x0.isLt x1.isLt x2.isLt x3.isLt (by decide) (by decide) (e.trans (by omega))
  rw [decode, decRaw_8 w m]
  simp [gF, bF_of x3 f1, bF_of x0 f2, bF_of x1 f3, bF_of x2 f4, f0, wf]
theorem shr (x0 : GNum) (x1 : GNum) (x2 : GNum) (x3 : BitVec 2) : Statement (.shr x0 x1 x2 x3) := by
  intro w e wf
  have e : w = _ := (Option.some.inj e).symm
  simp only [pack] at e
  obtain ⟨m, f0, f1, f2, f3, f4⟩ := shape_3 w 8 x0.toNat x1.toNat x2.toNat x3.toNat 1 x0.isLt x1.isLt x2.isLt x3.isLt (by decide) (by decide) (e.trans (by omega))
  rw [decode, decRaw_8 w m]
  simp [gF, bF_of x3 f1, bF_of x0 f2, bF_of x1 f3, bF_of x2 f4, f0, wf]
theorem sar (x0 : GNum) (x1 : GNum) (x2 : GNum) (x3 : BitVec 2) : Statement (.sar x0 x1 x2 x3) := by
  intro w e wf
  have e : w = _ := (Option.some.inj e).symm
  simp only [pack] at e
  obtain ⟨m, f0, f1, f2, f3, f4⟩ := shape_3 w 8 x0.toNat x1.toNat x2.toNat x3.toNat 2 x0.isLt x1.isLt x2.isLt x3.isLt (by decide) (by decide) (e.trans (by omega))
  rw [decode, decRaw_8 w m]
  simp [gF, bF_of x3 f1, bF_of x0 f2, bF_of x1 f3, bF_of x2 f4, f0, wf]
theorem rotl (x0 : GNum) (x1 : GNum) (x2 : GNum) (x3 : BitVec 2) : Statement (.rotl x0 x1 x2 x3) := by
  intro w e wf
  have e : w = _ := (Option.some.inj e).symm
  simp only [pack] at e
  obtain ⟨m, f0, f1, f2, f3, f4⟩ := shape_3 w 8 x0.toNat x1.toNat x2.toNat x3.toNat 3 x0.isLt x1.isLt x2.isLt x3.isLt (by decide) (by decide) (e.trans (by omega))
  rw [decode, decRaw_8 w m]
  simp [gF, bF_of x3 f1, bF_of x0 f2, bF_of x1 f3, bF_of x2 f4, f0, wf]
theorem shli (x0 : GNum) (x1 : GNum) (x2 : BitVec 5) : Statement (.shli x0 x1 x2) := by
  intro w e wf
  have e : w = _ := (Option.some.inj e).symm
  simp only [pack] at e
  obtain ⟨m, f0, f1, f2, f3⟩ := shape_4 w 9 x0.toNat x1.toNat x2.toNat x0.isLt x1.isLt x2.isLt (by decide) (e.trans (by omega))
  rw [decode, decRaw_9 w m]
  simp [gF, bF_of x2 f1, bF_of x0 f2, bF_of x1 f3, f0, wf]
theorem shri (x0 : GNum) (x1 : GNum) (x2 : BitVec 5) : Statement (.shri x0 x1 x2) := by
  intro w e wf
  have e : w = _ := (Option.some.inj e).symm
  simp only [pack] at e
  obtain ⟨m, f0, f1, f2, f3⟩ := shape_4 w 10 x0.toNat x1.toNat x2.toNat x0.isLt x1.isLt x2.isLt (by decide) (e.trans (by omega))
  rw [decode, decRaw_10 w m]
  simp [gF, bF_of x2 f1, bF_of x0 f2, bF_of x1 f3, f0, wf]
theorem sari (x0 : GNum) (x1 : GNum) (x2 : BitVec 5) : Statement (.sari x0 x1 x2) := by
  intro w e wf
  have e : w = _ := (Option.some.inj e).symm
  simp only [pack] at e
  obtain ⟨m, f0, f1, f2, f3⟩ := shape_4 w 11 x0.toNat x1.toNat x2.toNat x0.isLt x1.isLt x2.isLt (by decide) (e.trans (by omega))
  rw [decode, decRaw_11 w m]
  simp [gF, bF_of x2 f1, bF_of x0 f2, bF_of x1 f3, f0, wf]
theorem bfxN32 (x0 : GNum) (x1 : GNum) (x2 : BitVec 5) (x3 : BitVec 5) : Statement (.bfxN32 x0 x1 x2 x3) := by
  intro w e wf
  have e : w = _ := (Option.some.inj e).symm
  simp only [pack] at e
  obtain ⟨m, f0, f1, f2, f3, f4⟩ := shape_5 w 12 x0.toNat x1.toNat x3.toNat x2.toNat x0.isLt x1.isLt x3.isLt x2.isLt (by decide) (e.trans (by omega))
  rw [decode, decRaw_12 w m]
  simp [gF, bF_of x2 f1, bF_of x3 f2, bF_of x0 f3, bF_of x1 f4, f0, wf]
theorem bfxI32 (x0 : GNum) (x1 : GNum) (x2 : BitVec 5) (x3 : BitVec 5) : Statement (.bfxI32 x0 x1 x2 x3) := by
  intro w e wf
  have e : w = _ := (Option.some.inj e).symm
  simp only [pack] at e
  obtain ⟨m, f0, f1, f2, f3, f4⟩ := shape_5 w 13 x0.toNat x1.toNat x3.toNat x2.toNat x0.isLt x1.isLt x3.isLt x2.isLt (by decide) (e.trans (by omega))
  rw [decode, decRaw_13 w m]
  simp [gF, bF_of x2 f1, bF_of x3 f2, bF_of x0 f3, bF_of x1 f4, f0, wf]
theorem bfi (x0 : GNum) (x1 : GNum) (x2 : BitVec 5) (x3 : BitVec 5) : Statement (.bfi x0 x1 x2 x3) := by
  intro w e wf
  have e : w = _ := (Option.some.inj e).symm
  simp only [pack] at e
  obtain ⟨m, f0, f1, f2, f3, f4⟩ := shape_5 w 14 x0.toNat x1.toNat x3.toNat x2.toNat x0.isLt x1.isLt x3.isLt x2.isLt (by decide) (e.trans (by omega))
  rw [decode, decRaw_14 w m]
  simp [gF, bF_of x2 f1, bF_of x3 f2, bF_of x0 f3, bF_of x1 f4, f0, wf]
theorem icmp (x0 : PNum) (x1 : GNum) (x2 : GNum) (x3 : ITy) (x4 : ICond) : Statement (.icmp x0 x1 x2 x3 x4) := by
  intro w e wf
  have e : w = _ := (Option.some.inj e).symm
  simp only [pack] at e
  obtain ⟨m, f0, f1, f2, f3, f4, f5⟩ := shape_6 w 15 x0.toNat x1.toNat x2.toNat x3.code x4.code x0.isLt x1.isLt x2.isLt x3.code_lt x4.code_lt (by decide) (e.trans (by omega))
  rw [decode, decRaw_15 w m]
  simp [gF, bF_of x0 f3, bF_of x1 f4, bF_of x2 f5, f0, f1, f2, ICond.ofCode_code, ITy.ofCode_code, wf]
theorem plop (x0 : PNum) (x1 : PNum) (x2 : PNum) (x3 : BitVec 4) : Statement (.plop x0 x1 x2 x3) := by
  intro w e wf
  have e : w = _ := (Option.some.inj e).symm
  simp only [pack] at e
  obtain ⟨m, f0, f1, f2, f3, f4, f5, f6⟩ := shape_7 w 16 x0.toNat x1.toNat x2.toNat x3.toNat x0.isLt x1.isLt x2.isLt x3.isLt (by decide) (e.trans (by omega))
  rw [decode, decRaw_16 w m]
  simp [bF_of x0 f3, bF_of x1 f4, bF_of x2 f5, bF_of x3 f6, f0, f1, f2, wf]
theorem mov (x0 : GNum) (x1 : GNum) (x2 : BitVec 2) : Statement (.mov x0 x1 x2) := by
  intro w e wf
  have e : w = _ := (Option.some.inj e).symm
  simp only [pack] at e
  obtain ⟨m, f0, f1, f2, f3, f4⟩ := shape_2 w 17 x0.toNat x1.toNat x2.toNat 0 x0.isLt x1.isLt x2.isLt (by decide) (by decide) (e.trans (by omega))
  rw [decode, decRaw_17 w m]
  simp [gF, bF_of x2 f2, bF_of x0 f3, bF_of x1 f4, f0, f1, wf]
theorem movx (x0 : GNum) (x1 : GNum) (x2 : GNum) (x3 : BitVec 2) : Statement (.movx x0 x1 x2 x3) := by
  intro w e wf
  have e : w = _ := (Option.some.inj e).symm
  simp only [pack] at e
  obtain ⟨m, f0, f1, f2, f3, f4⟩ := shape_3 w 17 x0.toNat x1.toNat x2.toNat x3.toNat 1 x0.isLt x1.isLt x2.isLt x3.isLt (by decide) (by decide) (e.trans (by omega))
  rw [decode, decRaw_17 w m]
  simp [gF, bF_of x3 f1, bF_of x0 f2, bF_of x1 f3, bF_of x2 f4, f0, f4, wf]
theorem movxw (x0 : GNum) (x1 : GNum) (x2 : GNum) (x3 : BitVec 2) : Statement (.movxw x0 x1 x2 x3) := by
  intro w e wf
  have e : w = _ := (Option.some.inj e).symm
  simp only [pack] at e
  obtain ⟨m, f0, f1, f2, f3, f4⟩ := shape_3 w 17 x0.toNat x1.toNat x2.toNat x3.toNat 2 x0.isLt x1.isLt x2.isLt x3.isLt (by decide) (by decide) (e.trans (by omega))
  rw [decode, decRaw_17 w m]
  simp [gF, bF_of x3 f1, bF_of x0 f2, bF_of x1 f3, bF_of x2 f4, f0, f4, wf]
theorem selP0P3 (x0 : GNum) (x1 : GNum) (x2 : GNum) (x3 : BitVec 2) (x4 : BitVec 2) : Statement (.selP0P3 x0 x1 x2 x3 x4) := by
  intro w e wf
  have e : w = _ := (Option.some.inj e).symm
  simp only [pack] at e
  obtain ⟨m, f0, f1, f2, f3, f4⟩ := shape_8 w 18 x0.toNat x1.toNat x2.toNat x3.toNat x4.toNat x0.isLt x1.isLt x2.isLt x3.isLt x4.isLt (by decide) (e.trans (by omega))
  rw [decode, decRaw_18 w m]
  simp [gF, bF_of x3 f0, bF_of x4 f1, bF_of x0 f2, bF_of x1 f3, bF_of x2 f4, wf]
theorem selP4P7 (x0 : GNum) (x1 : GNum) (x2 : GNum) (x3 : BitVec 2) (x4 : BitVec 2) : Statement (.selP4P7 x0 x1 x2 x3 x4) := by
  intro w e wf
  have e : w = _ := (Option.some.inj e).symm
  simp only [pack] at e
  obtain ⟨m, f0, f1, f2, f3, f4⟩ := shape_8 w 19 x0.toNat x1.toNat x2.toNat x3.toNat x4.toNat x0.isLt x1.isLt x2.isLt x3.isLt x4.isLt (by decide) (e.trans (by omega))
  rw [decode, decRaw_19 w m]
  simp [gF, bF_of x3 f0, bF_of x4 f1, bF_of x0 f2, bF_of x1 f3, bF_of x2 f4, wf]
theorem movi (x0 : GNum) (x1 : BitVec 11) : Statement (.movi x0 x1) := by
  intro w e wf
  have e : w = _ := (Option.some.inj e).symm
  simp only [pack] at e
  obtain ⟨m, f0, f1, f2⟩ := shape_9 w 20 x0.toNat x1.toNat x0.isLt x1.isLt (by decide) (e.trans (by omega))
  rw [decode, decRaw_20 w m]
  simp [gF, bF_of x1 f1, bF_of x0 f2, f0, wf]
theorem fadd (x0 : GNum) (x1 : GNum) (x2 : GNum) (x3 : BitVec 2) : Statement (.fadd x0 x1 x2 x3) := by
  intro w e wf
  have e : w = _ := (Option.some.inj e).symm
  simp only [pack] at e
  obtain ⟨m, f0, f1, f2, f3, f4⟩ := shape_3 w 21 x0.toNat x1.toNat x2.toNat x3.toNat 0 x0.isLt x1.isLt x2.isLt x3.isLt (by decide) (by decide) (e.trans (by omega))
  rw [decode, decRaw_21 w m]
  simp [gF, bF_of x3 f1, bF_of x0 f2, bF_of x1 f3, bF_of x2 f4, f0, wf]
theorem fsub (x0 : GNum) (x1 : GNum) (x2 : GNum) (x3 : BitVec 2) : Statement (.fsub x0 x1 x2 x3) := by
  intro w e wf
  have e : w = _ := (Option.some.inj e).symm
  simp only [pack] at e
  obtain ⟨m, f0, f1, f2, f3, f4⟩ := shape_3 w 21 x0.toNat x1.toNat x2.toNat x3.toNat 1 x0.isLt x1.isLt x2.isLt x3.isLt (by decide) (by decide) (e.trans (by omega))
  rw [decode, decRaw_21 w m]
  simp [gF, bF_of x3 f1, bF_of x0 f2, bF_of x1 f3, bF_of x2 f4, f0, wf]
theorem fmul (x0 : GNum) (x1 : GNum) (x2 : GNum) (x3 : BitVec 2) : Statement (.fmul x0 x1 x2 x3) := by
  intro w e wf
  have e : w = _ := (Option.some.inj e).symm
  simp only [pack] at e
  obtain ⟨m, f0, f1, f2, f3, f4⟩ := shape_3 w 22 x0.toNat x1.toNat x2.toNat x3.toNat 0 x0.isLt x1.isLt x2.isLt x3.isLt (by decide) (by decide) (e.trans (by omega))
  rw [decode, decRaw_22 w m]
  simp [gF, bF_of x3 f1, bF_of x0 f2, bF_of x1 f3, bF_of x2 f4, f0, wf]
theorem ffma (x0 : GNum) (x1 : GNum) (x2 : GNum) (x3 : BitVec 2) : Statement (.ffma x0 x1 x2 x3) := by
  intro w e wf
  have e : w = _ := (Option.some.inj e).symm
  simp only [pack] at e
  obtain ⟨m, f0, f1, f2, f3, f4⟩ := shape_3 w 23 x0.toNat x1.toNat x2.toNat x3.toNat 0 x0.isLt x1.isLt x2.isLt x3.isLt (by decide) (by decide) (e.trans (by omega))
  rw [decode, decRaw_23 w m]
  simp [gF, bF_of x3 f1, bF_of x0 f2, bF_of x1 f3, bF_of x2 f4, f0, wf]
theorem fmin (x0 : GNum) (x1 : GNum) (x2 : GNum) (x3 : BitVec 2) : Statement (.fmin x0 x1 x2 x3) := by
  intro w e wf
  have e : w = _ := (Option.some.inj e).symm
  simp only [pack] at e
  obtain ⟨m, f0, f1, f2, f3, f4⟩ := shape_3 w 24 x0.toNat x1.toNat x2.toNat x3.toNat 0 x0.isLt x1.isLt x2.isLt x3.isLt (by decide) (by decide) (e.trans (by omega))
  rw [decode, decRaw_24 w m]
  simp [gF, bF_of x3 f1, bF_of x0 f2, bF_of x1 f3, bF_of x2 f4, f0, wf]
theorem fmax (x0 : GNum) (x1 : GNum) (x2 : GNum) (x3 : BitVec 2) : Statement (.fmax x0 x1 x2 x3) := by
  intro w e wf
  have e : w = _ := (Option.some.inj e).symm
  simp only [pack] at e
  obtain ⟨m, f0, f1, f2, f3, f4⟩ := shape_3 w 24 x0.toNat x1.toNat x2.toNat x3.toNat 1 x0.isLt x1.isLt x2.isLt x3.isLt (by decide) (by decide) (e.trans (by omega))
  rw [decode, decRaw_24 w m]
  simp [gF, bF_of x3 f1, bF_of x0 f2, bF_of x1 f3, bF_of x2 f4, f0, wf]
theorem fcmp (x0 : PNum) (x1 : GNum) (x2 : GNum) (x3 : FCond) : Statement (.fcmp x0 x1 x2 x3) := by
  intro w e wf
  have e : w = _ := (Option.some.inj e).symm
  simp only [pack] at e
  obtain ⟨m, f0, f1, f2, f3, f4, f5⟩ := shape_10 w 25 x0.toNat x1.toNat x2.toNat x3.code x0.isLt x1.isLt x2.isLt x3.code_lt (by decide) (e.trans (by omega))
  rw [decode, decRaw_25 w m]
  simp [gF, bF_of x0 f3, bF_of x1 f4, bF_of x2 f5, f0, f1, f2, FCond.ofCode_code, wf]
theorem frcp (x0 : GNum) (x1 : GNum) (x2 : BitVec 2) : Statement (.frcp x0 x1 x2) := by
  intro w e wf
  have e : w = _ := (Option.some.inj e).symm
  simp only [pack] at e
  obtain ⟨m, f0, f1, f2, f3, f4⟩ := shape_2 w 26 x0.toNat x1.toNat x2.toNat 0 x0.isLt x1.isLt x2.isLt (by decide) (by decide) (e.trans (by omega))
  rw [decode, decRaw_26 w m]
  simp [gF, bF_of x2 f2, bF_of x0 f3, bF_of x1 f4, f0, f1, wf]
theorem frsq (x0 : GNum) (x1 : GNum) (x2 : BitVec 2) : Statement (.frsq x0 x1 x2) := by
  intro w e wf
  have e : w = _ := (Option.some.inj e).symm
  simp only [pack] at e
  obtain ⟨m, f0, f1, f2, f3, f4⟩ := shape_2 w 26 x0.toNat x1.toNat x2.toNat 1 x0.isLt x1.isLt x2.isLt (by decide) (by decide) (e.trans (by omega))
  rw [decode, decRaw_26 w m]
  simp [gF, bF_of x2 f2, bF_of x0 f3, bF_of x1 f4, f0, f1, wf]
theorem fsqrt (x0 : GNum) (x1 : GNum) (x2 : BitVec 2) : Statement (.fsqrt x0 x1 x2) := by
  intro w e wf
  have e : w = _ := (Option.some.inj e).symm
  simp only [pack] at e
  obtain ⟨m, f0, f1, f2, f3, f4⟩ := shape_2 w 26 x0.toNat x1.toNat x2.toNat 2 x0.isLt x1.isLt x2.isLt (by decide) (by decide) (e.trans (by omega))
  rw [decode, decRaw_26 w m]
  simp [gF, bF_of x2 f2, bF_of x0 f3, bF_of x1 f4, f0, f1, wf]
theorem fexp2 (x0 : GNum) (x1 : GNum) (x2 : BitVec 2) : Statement (.fexp2 x0 x1 x2) := by
  intro w e wf
  have e : w = _ := (Option.some.inj e).symm
  simp only [pack] at e
  obtain ⟨m, f0, f1, f2, f3, f4⟩ := shape_2 w 26 x0.toNat x1.toNat x2.toNat 3 x0.isLt x1.isLt x2.isLt (by decide) (by decide) (e.trans (by omega))
  rw [decode, decRaw_26 w m]
  simp [gF, bF_of x2 f2, bF_of x0 f3, bF_of x1 f4, f0, f1, wf]
theorem flog2 (x0 : GNum) (x1 : GNum) (x2 : BitVec 2) : Statement (.flog2 x0 x1 x2) := by
  intro w e wf
  have e : w = _ := (Option.some.inj e).symm
  simp only [pack] at e
  obtain ⟨m, f0, f1, f2, f3, f4⟩ := shape_2 w 27 x0.toNat x1.toNat x2.toNat 0 x0.isLt x1.isLt x2.isLt (by decide) (by decide) (e.trans (by omega))
  rw [decode, decRaw_27 w m]
  simp [gF, bF_of x2 f2, bF_of x0 f3, bF_of x1 f4, f0, f1, wf]
theorem fsin (x0 : GNum) (x1 : GNum) (x2 : BitVec 2) : Statement (.fsin x0 x1 x2) := by
  intro w e wf
  have e : w = _ := (Option.some.inj e).symm
  simp only [pack] at e
  obtain ⟨m, f0, f1, f2, f3, f4⟩ := shape_2 w 27 x0.toNat x1.toNat x2.toNat 1 x0.isLt x1.isLt x2.isLt (by decide) (by decide) (e.trans (by omega))
  rw [decode, decRaw_27 w m]
  simp [gF, bF_of x2 f2, bF_of x0 f3, bF_of x1 f4, f0, f1, wf]
theorem fcos (x0 : GNum) (x1 : GNum) (x2 : BitVec 2) : Statement (.fcos x0 x1 x2) := by
  intro w e wf
  have e : w = _ := (Option.some.inj e).symm
  simp only [pack] at e
  obtain ⟨m, f0, f1, f2, f3, f4⟩ := shape_2 w 27 x0.toNat x1.toNat x2.toNat 2 x0.isLt x1.isLt x2.isLt (by decide) (by decide) (e.trans (by omega))
  rw [decode, decRaw_27 w m]
  simp [gF, bF_of x2 f2, bF_of x0 f3, bF_of x1 f4, f0, f1, wf]
theorem fdiv (x0 : GNum) (x1 : GNum) (x2 : GNum) (x3 : BitVec 2) : Statement (.fdiv x0 x1 x2 x3) := by
  intro w e wf
  have e : w = _ := (Option.some.inj e).symm
  simp only [pack] at e
  obtain ⟨m, f0, f1, f2, f3, f4⟩ := shape_3 w 28 x0.toNat x1.toNat x2.toNat x3.toNat 0 x0.isLt x1.isLt x2.isLt x3.isLt (by decide) (by decide) (e.trans (by omega))
  rw [decode, decRaw_28 w m]
  simp [gF, bF_of x3 f1, bF_of x0 f2, bF_of x1 f3, bF_of x2 f4, f0, wf]
theorem fscale (x0 : GNum) (x1 : GNum) (x2 : GNum) (x3 : BitVec 2) : Statement (.fscale x0 x1 x2 x3) := by
  intro w e wf
  have e : w = _ := (Option.some.inj e).symm
  simp only [pack] at e
  obtain ⟨m, f0, f1, f2, f3, f4⟩ := shape_3 w 29 x0.toNat x1.toNat x2.toNat x3.toNat 0 x0.isLt x1.isLt x2.isLt x3.isLt (by decide) (by decide) (e.trans (by omega))
  rw [decode, decRaw_29 w m]
  simp [gF, bF_of x3 f1, bF_of x0 f2, bF_of x1 f3, bF_of x2 f4, f0, wf]
theorem dadd (x0 : GNum) (x1 : GNum) (x2 : GNum) (x3 : BitVec 2) : Statement (.dadd x0 x1 x2 x3) := by
  intro w e wf
  have e : w = _ := (Option.some.inj e).symm
  simp only [pack] at e
  obtain ⟨m, f0, f1, f2, f3, f4⟩ := shape_3 w 30 x0.toNat x1.toNat x2.toNat x3.toNat 0 x0.isLt x1.isLt x2.isLt x3.isLt (by decide) (by decide) (e.trans (by omega))
  rw [decode, decRaw_30 w m]
  simp [gF, bF_of x3 f1, bF_of x0 f2, bF_of x1 f3, bF_of x2 f4, f0, wf]
theorem dmul (x0 : GNum) (x1 : GNum) (x2 : GNum) (x3 : BitVec 2) : Statement (.dmul x0 x1 x2 x3) := by
  intro w e wf
  have e : w = _ := (Option.some.inj e).symm
  simp only [pack] at e
  obtain ⟨m, f0, f1, f2, f3, f4⟩ := shape_3 w 30 x0.toNat x1.toNat x2.toNat x3.toNat 1 x0.isLt x1.isLt x2.isLt x3.isLt (by decide) (by decide) (e.trans (by omega))
  rw [decode, decRaw_30 w m]
  simp [gF, bF_of x3 f1, bF_of x0 f2, bF_of x1 f3, bF_of x2 f4, f0, wf]
theorem dfma (x0 : GNum) (x1 : GNum) (x2 : GNum) (x3 : BitVec 2) : Statement (.dfma x0 x1 x2 x3) := by
  intro w e wf
  have e : w = _ := (Option.some.inj e).symm
  simp only [pack] at e
  obtain ⟨m, f0, f1, f2, f3, f4⟩ := shape_3 w 30 x0.toNat x1.toNat x2.toNat x3.toNat 2 x0.isLt x1.isLt x2.isLt x3.isLt (by decide) (by decide) (e.trans (by omega))
  rw [decode, decRaw_30 w m]
  simp [gF, bF_of x3 f1, bF_of x0 f2, bF_of x1 f3, bF_of x2 f4, f0, wf]
theorem hadd2F16 (x0 : GNum) (x1 : GNum) (x2 : GNum) (x3 : BitVec 2) : Statement (.hadd2F16 x0 x1 x2 x3) := by
  intro w e wf
  have e : w = _ := (Option.some.inj e).symm
  simp only [pack] at e
  obtain ⟨m, f0, f1, f2, f3, f4⟩ := shape_3 w 31 x0.toNat x1.toNat x2.toNat x3.toNat 0 x0.isLt x1.isLt x2.isLt x3.isLt (by decide) (by decide) (e.trans (by omega))
  rw [decode, decRaw_31 w m]
  simp [gF, bF_of x3 f1, bF_of x0 f2, bF_of x1 f3, bF_of x2 f4, f0, wf]
theorem hmul2F16 (x0 : GNum) (x1 : GNum) (x2 : GNum) (x3 : BitVec 2) : Statement (.hmul2F16 x0 x1 x2 x3) := by
  intro w e wf
  have e : w = _ := (Option.some.inj e).symm
  simp only [pack] at e
  obtain ⟨m, f0, f1, f2, f3, f4⟩ := shape_3 w 31 x0.toNat x1.toNat x2.toNat x3.toNat 1 x0.isLt x1.isLt x2.isLt x3.isLt (by decide) (by decide) (e.trans (by omega))
  rw [decode, decRaw_31 w m]
  simp [gF, bF_of x3 f1, bF_of x0 f2, bF_of x1 f3, bF_of x2 f4, f0, wf]
theorem hfma2F16 (x0 : GNum) (x1 : GNum) (x2 : GNum) (x3 : BitVec 2) : Statement (.hfma2F16 x0 x1 x2 x3) := by
  intro w e wf
  have e : w = _ := (Option.some.inj e).symm
  simp only [pack] at e
  obtain ⟨m, f0, f1, f2, f3, f4⟩ := shape_3 w 31 x0.toNat x1.toNat x2.toNat x3.toNat 2 x0.isLt x1.isLt x2.isLt x3.isLt (by decide) (by decide) (e.trans (by omega))
  rw [decode, decRaw_31 w m]
  simp [gF, bF_of x3 f1, bF_of x0 f2, bF_of x1 f3, bF_of x2 f4, f0, wf]
theorem hadd2Bf16 (x0 : GNum) (x1 : GNum) (x2 : GNum) (x3 : BitVec 2) : Statement (.hadd2Bf16 x0 x1 x2 x3) := by
  intro w e wf
  have e : w = _ := (Option.some.inj e).symm
  simp only [pack] at e
  obtain ⟨m, f0, f1, f2, f3, f4⟩ := shape_3 w 32 x0.toNat x1.toNat x2.toNat x3.toNat 0 x0.isLt x1.isLt x2.isLt x3.isLt (by decide) (by decide) (e.trans (by omega))
  rw [decode, decRaw_32 w m]
  simp [gF, bF_of x3 f1, bF_of x0 f2, bF_of x1 f3, bF_of x2 f4, f0, wf]
theorem hmul2Bf16 (x0 : GNum) (x1 : GNum) (x2 : GNum) (x3 : BitVec 2) : Statement (.hmul2Bf16 x0 x1 x2 x3) := by
  intro w e wf
  have e : w = _ := (Option.some.inj e).symm
  simp only [pack] at e
  obtain ⟨m, f0, f1, f2, f3, f4⟩ := shape_3 w 32 x0.toNat x1.toNat x2.toNat x3.toNat 1 x0.isLt x1.isLt x2.isLt x3.isLt (by decide) (by decide) (e.trans (by omega))
  rw [decode, decRaw_32 w m]
  simp [gF, bF_of x3 f1, bF_of x0 f2, bF_of x1 f3, bF_of x2 f4, f0, wf]
theorem hfma2Bf16 (x0 : GNum) (x1 : GNum) (x2 : GNum) (x3 : BitVec 2) : Statement (.hfma2Bf16 x0 x1 x2 x3) := by
  intro w e wf
  have e : w = _ := (Option.some.inj e).symm
  simp only [pack] at e
  obtain ⟨m, f0, f1, f2, f3, f4⟩ := shape_3 w 32 x0.toNat x1.toNat x2.toNat x3.toNat 2 x0.isLt x1.isLt x2.isLt x3.isLt (by decide) (by decide) (e.trans (by omega))
  rw [decode, decRaw_32 w m]
  simp [gF, bF_of x3 f1, bF_of x0 f2, bF_of x1 f3, bF_of x2 f4, f0, wf]
theorem hmin2F16 (x0 : GNum) (x1 : GNum) (x2 : GNum) (x3 : BitVec 2) : Statement (.hmin2F16 x0 x1 x2 x3) := by
  intro w e wf
  have e : w = _ := (Option.some.inj e).symm
  simp only [pack] at e
  obtain ⟨m, f0, f1, f2, f3, f4⟩ := shape_3 w 33 x0.toNat x1.toNat x2.toNat x3.toNat 0 x0.isLt x1.isLt x2.isLt x3.isLt (by decide) (by decide) (e.trans (by omega))
  rw [decode, decRaw_33 w m]
  simp [gF, bF_of x3 f1, bF_of x0 f2, bF_of x1 f3, bF_of x2 f4, f0, wf]
theorem hmax2F16 (x0 : GNum) (x1 : GNum) (x2 : GNum) (x3 : BitVec 2) : Statement (.hmax2F16 x0 x1 x2 x3) := by
  intro w e wf
  have e : w = _ := (Option.some.inj e).symm
  simp only [pack] at e
  obtain ⟨m, f0, f1, f2, f3, f4⟩ := shape_3 w 33 x0.toNat x1.toNat x2.toNat x3.toNat 1 x0.isLt x1.isLt x2.isLt x3.isLt (by decide) (by decide) (e.trans (by omega))
  rw [decode, decRaw_33 w m]
  simp [gF, bF_of x3 f1, bF_of x0 f2, bF_of x1 f3, bF_of x2 f4, f0, wf]
theorem hmin2Bf16 (x0 : GNum) (x1 : GNum) (x2 : GNum) (x3 : BitVec 2) : Statement (.hmin2Bf16 x0 x1 x2 x3) := by
  intro w e wf
  have e : w = _ := (Option.some.inj e).symm
  simp only [pack] at e
  obtain ⟨m, f0, f1, f2, f3, f4⟩ := shape_3 w 34 x0.toNat x1.toNat x2.toNat x3.toNat 0 x0.isLt x1.isLt x2.isLt x3.isLt (by decide) (by decide) (e.trans (by omega))
  rw [decode, decRaw_34 w m]
  simp [gF, bF_of x3 f1, bF_of x0 f2, bF_of x1 f3, bF_of x2 f4, f0, wf]
theorem hmax2Bf16 (x0 : GNum) (x1 : GNum) (x2 : GNum) (x3 : BitVec 2) : Statement (.hmax2Bf16 x0 x1 x2 x3) := by
  intro w e wf
  have e : w = _ := (Option.some.inj e).symm
  simp only [pack] at e
  obtain ⟨m, f0, f1, f2, f3, f4⟩ := shape_3 w 34 x0.toNat x1.toNat x2.toNat x3.toNat 1 x0.isLt x1.isLt x2.isLt x3.isLt (by decide) (by decide) (e.trans (by omega))
  rw [decode, decRaw_34 w m]
  simp [gF, bF_of x3 f1, bF_of x0 f2, bF_of x1 f3, bF_of x2 f4, f0, wf]
theorem cvt (x0 : GNum) (x1 : GNum) (x2 : Rnd) (x3 : LTy) (x4 : LTy) : Statement (.cvt x0 x1 x2 x3 x4) := by
  intro w e wf
  have e : w = _ := (Option.some.inj e).symm
  simp only [pack] at e
  obtain ⟨m, f0, f1, f2, f3, f4⟩ := shape_11 w 35 x0.toNat x1.toNat x2.code x3.code x4.code x0.isLt x1.isLt x2.code_lt x3.code_lt x4.code_lt (by decide) (e.trans (by omega))
  rw [decode, decRaw_35 w m]
  simp [gF, bF_of x0 f3, bF_of x1 f4, f0, f1, f2, LTy.ofCode_code, Rnd.ofCode_code, wf]
theorem cvtn (x0 : GNum) (x1 : GNum) (x2 : Rnd) (x3 : LTy) (x4 : LTy) : Statement (.cvtn x0 x1 x2 x3 x4) := by
  intro w e wf
  have e : w = _ := (Option.some.inj e).symm
  simp only [pack] at e
  obtain ⟨m, f0, f1, f2, f3, f4⟩ := shape_11 w 36 x0.toNat x1.toNat x2.code x3.code x4.code x0.isLt x1.isLt x2.code_lt x3.code_lt x4.code_lt (by decide) (e.trans (by omega))
  rw [decode, decRaw_36 w m]
  simp [gF, bF_of x0 f3, bF_of x1 f4, f0, f1, f2, LTy.ofCode_code, Rnd.ofCode_code, wf]
theorem cvtw (x0 : GNum) (x1 : GNum) (x2 : Rnd) (x3 : LTy) (x4 : LTy) : Statement (.cvtw x0 x1 x2 x3 x4) := by
  intro w e wf
  have e : w = _ := (Option.some.inj e).symm
  simp only [pack] at e
  obtain ⟨m, f0, f1, f2, f3, f4⟩ := shape_11 w 37 x0.toNat x1.toNat x2.code x3.code x4.code x0.isLt x1.isLt x2.code_lt x3.code_lt x4.code_lt (by decide) (e.trans (by omega))
  rw [decode, decRaw_37 w m]
  simp [gF, bF_of x0 f3, bF_of x1 f4, f0, f1, f2, LTy.ofCode_code, Rnd.ofCode_code, wf]
theorem shflIdx (x0 : GNum) (x1 : GNum) (x2 : GNum) (x3 : BitVec 2) : Statement (.shflIdx x0 x1 x2 x3) := by
  intro w e wf
  have e : w = _ := (Option.some.inj e).symm
  simp only [pack] at e
  obtain ⟨m, f0, f1, f2, f3, f4⟩ := shape_3 w 38 x0.toNat x1.toNat x2.toNat x3.toNat 0 x0.isLt x1.isLt x2.isLt x3.isLt (by decide) (by decide) (e.trans (by omega))
  rw [decode, decRaw_38 w m]
  simp [gF, bF_of x3 f1, bF_of x0 f2, bF_of x1 f3, bF_of x2 f4, f0, wf]
theorem shflUp (x0 : GNum) (x1 : GNum) (x2 : GNum) (x3 : BitVec 2) : Statement (.shflUp x0 x1 x2 x3) := by
  intro w e wf
  have e : w = _ := (Option.some.inj e).symm
  simp only [pack] at e
  obtain ⟨m, f0, f1, f2, f3, f4⟩ := shape_3 w 38 x0.toNat x1.toNat x2.toNat x3.toNat 1 x0.isLt x1.isLt x2.isLt x3.isLt (by decide) (by decide) (e.trans (by omega))
  rw [decode, decRaw_38 w m]
  simp [gF, bF_of x3 f1, bF_of x0 f2, bF_of x1 f3, bF_of x2 f4, f0, wf]
theorem shflDown (x0 : GNum) (x1 : GNum) (x2 : GNum) (x3 : BitVec 2) : Statement (.shflDown x0 x1 x2 x3) := by
  intro w e wf
  have e : w = _ := (Option.some.inj e).symm
  simp only [pack] at e
  obtain ⟨m, f0, f1, f2, f3, f4⟩ := shape_3 w 38 x0.toNat x1.toNat x2.toNat x3.toNat 2 x0.isLt x1.isLt x2.isLt x3.isLt (by decide) (by decide) (e.trans (by omega))
  rw [decode, decRaw_38 w m]
  simp [gF, bF_of x3 f1, bF_of x0 f2, bF_of x1 f3, bF_of x2 f4, f0, wf]
theorem shflXor (x0 : GNum) (x1 : GNum) (x2 : GNum) (x3 : BitVec 2) : Statement (.shflXor x0 x1 x2 x3) := by
  intro w e wf
  have e : w = _ := (Option.some.inj e).symm
  simp only [pack] at e
  obtain ⟨m, f0, f1, f2, f3, f4⟩ := shape_3 w 38 x0.toNat x1.toNat x2.toNat x3.toNat 3 x0.isLt x1.isLt x2.isLt x3.isLt (by decide) (by decide) (e.trans (by omega))
  rw [decode, decRaw_38 w m]
  simp [gF, bF_of x3 f1, bF_of x0 f2, bF_of x1 f3, bF_of x2 f4, f0, wf]
theorem voteAny (x0 : PNum) (x1 : PNum) (x2 : BitVec 2) : Statement (.voteAny x0 x1 x2) := by
  intro w e wf
  have e : w = _ := (Option.some.inj e).symm
  simp only [pack] at e
  obtain ⟨m, f0, f1, f2, f3, f4, f5, f6, f7⟩ := shape_12 w 39 x0.toNat x1.toNat x2.toNat 0 x0.isLt x1.isLt x2.isLt (by decide) (by decide) (e.trans (by omega))
  rw [decode, decRaw_39 w m]
  simp [gF, bF_of x0 f4, bF_of x1 f5, bF_of x2 f6, f0, f1, f2, f3, wf]
theorem voteAll (x0 : PNum) (x1 : PNum) (x2 : BitVec 2) : Statement (.voteAll x0 x1 x2) := by
  intro w e wf
  have e : w = _ := (Option.some.inj e).symm
  simp only [pack] at e
  obtain ⟨m, f0, f1, f2, f3, f4, f5, f6, f7⟩ := shape_12 w 39 x0.toNat x1.toNat x2.toNat 1 x0.isLt x1.isLt x2.isLt (by decide) (by decide) (e.trans (by omega))
  rw [decode, decRaw_39 w m]
  simp [gF, bF_of x0 f4, bF_of x1 f5, bF_of x2 f6, f0, f1, f2, f3, wf]
theorem voteBallot (x0 : GNum) (x1 : PNum) (x2 : BitVec 2) : Statement (.voteBallot x0 x1 x2) := by
  intro w e wf
  have e : w = _ := (Option.some.inj e).symm
  simp only [pack] at e
  obtain ⟨m, f0, f1, f2, f3, f4, f5⟩ := shape_13 w 39 x0.toNat x1.toNat x2.toNat 2 x0.isLt x1.isLt x2.isLt (by decide) (by decide) (e.trans (by omega))
  rw [decode, decRaw_39 w m]
  simp [gF, bF_of x1 f3, bF_of x2 f4, bF_of x0 f5, f0, f1, f2, wf]
theorem lreduce (x0 : GNum) (x1 : GNum) (x2 : RedOp) : Statement (.lreduce x0 x1 x2) := by
  intro w e wf
  have e : w = _ := (Option.some.inj e).symm
  simp only [pack] at e
  obtain ⟨m, f0, f1, f2, f3⟩ := shape_14 w 40 x0.toNat x1.toNat x2.code x0.isLt x1.isLt x2.code_lt (by decide) (e.trans (by omega))
  rw [decode, decRaw_40 w m]
  simp [gF, bF_of x0 f2, bF_of x1 f3, f0, f1, RedOp.ofCode_code, wf]
theorem ader (x0 : ANum) (x1 : WNum) : Statement (.ader x0 x1) := by
  intro w e wf
  have e : w = _ := (Option.some.inj e).symm
  simp only [pack] at e
  obtain ⟨m, f0, f1, f2, f3, f4, f5, f6, f7, f8, f9, f10, f11⟩ := shape_15 w 41 x0.toNat x1.toNat 0 x0.isLt x1.isLt (by decide) (by decide) (e.trans (by omega))
  rw [decode, decRaw_41 w m]
  simp [gF, bF_of x0 f6, bF_of x1 f7, f0, f1, f2, f3, f4, f5, wf]
theorem anarrow (x0 : ANum) (x1 : GNum) (x2 : GNum) (x3 : BitVec 2) : Statement (.anarrow x0 x1 x2 x3) := by
  intro w e wf
  have e : w = _ := (Option.some.inj e).symm
  simp only [pack] at e
  obtain ⟨m, f0, f1, f2, f3, f4, f5, f6⟩ := shape_16 w 41 x0.toNat x1.toNat x2.toNat x3.toNat 1 x0.isLt x1.isLt x2.isLt x3.isLt (by decide) (by decide) (e.trans (by omega))
  have n0 : ¬ nF 11 w 0 = 0 := by
    have := x0.isLt
    have := x1.isLt
    have := x2.isLt
    have := x3.isLt
    unfold nF
    omega
  rw [decode, decRaw_41 w m]
  simp [gF, bF_of x2 f2, bF_of x0 f3, bF_of x3 f4, bF_of x1 f5, f0, f1, f2, n0, wf]
theorem aadv (x0 : ANum) (x1 : GNum) (x2 : BitVec 2) : Statement (.aadv x0 x1 x2) := by
  intro w e wf
  have e : w = _ := (Option.some.inj e).symm
  simp only [pack] at e
  obtain ⟨m, f0, f1, f2, f3, f4, f5, f6, f7, f8⟩ := shape_17 w 41 x0.toNat x1.toNat x2.toNat 2 x0.isLt x1.isLt x2.isLt (by decide) (by decide) (e.trans (by omega))
  have n0 : ¬ nF 11 w 0 = 0 := by
    have := x0.isLt
    have := x1.isLt
    have := x2.isLt
    unfold nF
    omega
  rw [decode, decRaw_41 w m]
  simp [gF, bF_of x0 f4, bF_of x2 f5, bF_of x1 f7, f0, f1, f2, f3, n0, wf]
theorem aget (x0 : GNum) (x1 : ANum) (x2 : BitVec 4) (x3 : BitVec 2) : Statement (.aget x0 x1 x2 x3) := by
  intro w e wf
  have e : w = _ := (Option.some.inj e).symm
  simp only [pack] at e
  obtain ⟨m, f0, f1, f2, f3, f4, f5, f6, f7, f8, f9, f10⟩ := shape_18 w 41 x0.toNat x1.toNat x2.toNat x3.toNat 3 x0.isLt x1.isLt x2.isLt x3.isLt (by decide) (by decide) (e.trans (by omega))
  have n0 : ¬ nF 11 w 0 = 0 := by
    have := x0.isLt
    have := x1.isLt
    have := x2.isLt
    have := x3.isLt
    unfold nF
    omega
  rw [decode, decRaw_41 w m]
  simp [gF, bF_of x3 f6, bF_of x1 f7, bF_of x2 f8, bF_of x0 f10, f0, f1, f2, f3, f4, n0, wf]
theorem aadvi (x0 : ANum) (x1 : BitVec 11) : Statement (.aadvi x0 x1) := by
  intro w e wf
  have e : w = _ := (Option.some.inj e).symm
  simp only [pack] at e
  obtain ⟨m, f0, f1, f2, f3⟩ := shape_19 w 42 x0.toNat x1.toNat x0.isLt x1.isLt (by decide) (e.trans (by omega))
  rw [decode, decRaw_42 w m]
  simp [bF_of x0 f2, bF_of x1 f3, f0, f1, wf]
theorem dget (x0 : GNum) (x1 : GNum) (x2 : BitVec 2) (x3 : BitVec 2) : Statement (.dget x0 x1 x2 x3) := by
  intro w e wf
  have e : w = _ := (Option.some.inj e).symm
  simp only [pack] at e
  obtain ⟨m, f0, f1, f2, f3, f4, f5⟩ := shape_20 w 43 x0.toNat x1.toNat x2.toNat x3.toNat 0 x0.isLt x1.isLt x2.isLt x3.isLt (by decide) (by decide) (e.trans (by omega))
  rw [decode, decRaw_43 w m]
  simp [gF, bF_of x1 f2, bF_of x2 f3, bF_of x3 f4, bF_of x0 f5, f0, f1, f2, wf]
theorem dset (x0 : GNum) (x1 : GNum) (x2 : BitVec 2) (x3 : BitVec 2) : Statement (.dset x0 x1 x2 x3) := by
  intro w e wf
  have e : w = _ := (Option.some.inj e).symm
  simp only [pack] at e
  obtain ⟨m, f0, f1, f2, f3, f4, f5⟩ := shape_20 w 43 x0.toNat x1.toNat x2.toNat x3.toNat 1 x0.isLt x1.isLt x2.isLt x3.isLt (by decide) (by decide) (e.trans (by omega))
  rw [decode, decRaw_43 w m]
  simp [gF, bF_of x1 f2, bF_of x2 f3, bF_of x3 f4, bF_of x0 f5, f0, f1, f2, wf]
theorem dseed (x0 : GNum) (x1 : BitVec 2) (x2 : BitVec 2) : Statement (.dseed x0 x1 x2) := by
  intro w e wf
  have e : w = _ := (Option.some.inj e).symm
  simp only [pack] at e
  obtain ⟨m, f0, f1, f2, f3, f4, f5⟩ := shape_21 w 43 x0.toNat x1.toNat x2.toNat 2 x0.isLt x1.isLt x2.isLt (by decide) (by decide) (e.trans (by omega))
  rw [decode, decRaw_43 w m]
  simp [gF, bF_of x1 f3, bF_of x2 f4, bF_of x0 f5, f0, f1, f2, wf]
theorem sread (x0 : GNum) (x1 : BitVec 10) : Statement (.sread x0 x1) := by
  intro w e wf
  have e : w = _ := (Option.some.inj e).symm
  simp only [pack] at e
  obtain ⟨m, f0, f1, f2⟩ := shape_22 w 44 x0.toNat x1.toNat 0 x0.isLt x1.isLt (by decide) (by decide) (e.trans (by omega))
  rw [decode, decRaw_44 w m]
  simp [gF, bF_of x1 f1, bF_of x0 f2, f0, f1, wf]
theorem rand (x0 : GNum) : Statement (.rand x0) := by
  intro w e wf
  have e : w = _ := (Option.some.inj e).symm
  simp only [pack] at e
  obtain ⟨m, f0, f1, f2⟩ := shape_23 w 44 x0.toNat 1 x0.isLt (by decide) (by decide) (e.trans (by omega))
  rw [decode, decRaw_44 w m]
  simp [gF, bF_of x0 f2, f0, f1, wf]
theorem ld (x0 : GNum) (x1 : ANum) (x2 : BitVec 10) (x3 : Size) (x4 : Policy) : Statement (.ld x0 x1 x2 x3 x4) := by
  intro w e wf
  have e : w = _ := (Option.some.inj e).symm
  simp only [pack] at e
  obtain ⟨m, f0, f1, f2, f3, f4⟩ := shape_24 w 48 x0.toNat x1.toNat x2.toNat x3.code x4.code x0.isLt x1.isLt x2.isLt x3.code_lt x4.code_lt (by decide) (e.trans (by omega))
  rw [decode, decRaw_48 w m]
  simp [gF, bF_of x1 f2, bF_of x2 f3, bF_of x0 f4, f0, f1, Policy.ofCode_code, Size.ofCode_code, wf]
theorem st (x0 : GNum) (x1 : ANum) (x2 : BitVec 10) (x3 : Size) (x4 : Policy) : Statement (.st x0 x1 x2 x3 x4) := by
  intro w e wf
  have e : w = _ := (Option.some.inj e).symm
  simp only [pack] at e
  obtain ⟨m, f0, f1, f2, f3, f4⟩ := shape_24 w 49 x0.toNat x1.toNat x2.toNat x3.code x4.code x0.isLt x1.isLt x2.isLt x3.code_lt x4.code_lt (by decide) (e.trans (by omega))
  rw [decode, decRaw_49 w m]
  simp [gF, bF_of x1 f2, bF_of x2 f3, bF_of x0 f4, f0, f1, Policy.ofCode_code, Size.ofCode_code, wf]
theorem ldx (x0 : GNum) (x1 : ANum) (x2 : GNum) (x3 : Size) (x4 : Policy) : Statement (.ldx x0 x1 x2 x3 x4) := by
  intro w e wf
  have e : w = _ := (Option.some.inj e).symm
  simp only [pack] at e
  obtain ⟨m, f0, f1, f2, f3, f4, f5⟩ := shape_25 w 50 x0.toNat x1.toNat x2.toNat x3.code x4.code x0.isLt x1.isLt x2.isLt x3.code_lt x4.code_lt (by decide) (e.trans (by omega))
  rw [decode, decRaw_50 w m]
  simp [gF, bF_of x1 f3, bF_of x0 f4, bF_of x2 f5, f0, f1, f2, Policy.ofCode_code, Size.ofCode_code, wf]
theorem stx (x0 : GNum) (x1 : ANum) (x2 : GNum) (x3 : Size) (x4 : Policy) : Statement (.stx x0 x1 x2 x3 x4) := by
  intro w e wf
  have e : w = _ := (Option.some.inj e).symm
  simp only [pack] at e
  obtain ⟨m, f0, f1, f2, f3, f4, f5⟩ := shape_25 w 51 x0.toNat x1.toNat x2.toNat x3.code x4.code x0.isLt x1.isLt x2.isLt x3.code_lt x4.code_lt (by decide) (e.trans (by omega))
  rw [decode, decRaw_51 w m]
  simp [gF, bF_of x1 f3, bF_of x0 f4, bF_of x2 f5, f0, f1, f2, Policy.ofCode_code, Size.ofCode_code, wf]
theorem lds (x0 : GNum) (x1 : GNum) (x2 : Size) (x3 : BitVec 8) : Statement (.lds x0 x1 x2 x3) := by
  intro w e wf
  have e : w = _ := (Option.some.inj e).symm
  simp only [pack] at e
  obtain ⟨m, f0, f1, f2, f3⟩ := shape_26 w 52 x0.toNat x1.toNat x2.code x3.toNat x0.isLt x1.isLt x2.code_lt x3.isLt (by decide) (e.trans (by omega))
  rw [decode, decRaw_52 w m]
  simp [gF, bF_of x3 f1, bF_of x0 f2, bF_of x1 f3, f0, Size.ofCode_code, wf]
theorem sts (x0 : GNum) (x1 : GNum) (x2 : Size) (x3 : BitVec 8) : Statement (.sts x0 x1 x2 x3) := by
  intro w e wf
  have e : w = _ := (Option.some.inj e).symm
  simp only [pack] at e
  obtain ⟨m, f0, f1, f2, f3⟩ := shape_26 w 53 x0.toNat x1.toNat x2.code x3.toNat x0.isLt x1.isLt x2.code_lt x3.isLt (by decide) (e.trans (by omega))
  rw [decode, decRaw_53 w m]
  simp [gF, bF_of x3 f1, bF_of x0 f2, bF_of x1 f3, f0, Size.ofCode_code, wf]
theorem aldp (x0 : ANum) (x1 : ANum) (x2 : BitVec 10) (x3 : Bool) (x4 : Policy) : Statement (.aldp x0 x1 x2 x3 x4) := by
  intro w e wf
  have e : w = _ := (Option.some.inj e).symm
  simp only [pack] at e
  obtain ⟨m, f0, f1, f2, f3, f4, f5⟩ := shape_27 w 54 x0.toNat x1.toNat x2.toNat (b128Code x3) x4.code x0.isLt x1.isLt x2.isLt (b128Code_lt x3) x4.code_lt (by decide) (e.trans (by omega))
  rw [decode, decRaw_54 w m]
  simp [bF_of x0 f3, bF_of x1 f4, bF_of x2 f5, f0, f1, f2, Policy.ofCode_code, b128OfCode_code, wf]
theorem brp (x0 : PNum) (x1 : Bool) (x2 : BitVec 21) : Statement (.brp x0 x1 x2) := by
  intro w e wf
  have e : w = _ := (Option.some.inj e).symm
  simp only [pack] at e
  obtain ⟨m, f0, f1, f2⟩ := shape_28 w 64 x0.toNat (bit x1) x2.toNat x0.isLt (bit_lt x1) x2.isLt (by decide) (e.trans (by omega))
  rw [decode, decRaw_64 w m]
  simp [bF_of x0 f0, bF_of x2 f1, tF_of x1 f2, wf]
theorem bra (x0 : GNum) (x1 : BraCond) (x2 : BitVec 11) : Statement (.bra x0 x1 x2) := by
  intro w e wf
  have e : w = _ := (Option.some.inj e).symm
  simp only [pack] at e
  obtain ⟨m, f0, f1, f2⟩ := shape_29 w 65 x0.toNat x1.code x2.toNat x0.isLt x1.code_lt x2.isLt (by decide) (e.trans (by omega))
  rw [decode, decRaw_65 w m]
  simp [gF, bF_of x2 f1, bF_of x0 f2, f0, BraCond.ofCode_code, wf]
theorem call (x0 : PNum) (x1 : Bool) (x2 : BitVec 21) : Statement (.call x0 x1 x2) := by
  intro w e wf
  have e : w = _ := (Option.some.inj e).symm
  simp only [pack] at e
  obtain ⟨m, f0, f1, f2⟩ := shape_28 w 66 x0.toNat (bit x1) x2.toNat x0.isLt (bit_lt x1) x2.isLt (by decide) (e.trans (by omega))
  rw [decode, decRaw_66 w m]
  simp [bF_of x0 f0, bF_of x2 f1, tF_of x1 f2, wf]
theorem ret (x0 : PNum) (x1 : Bool) : Statement (.ret x0 x1) := by
  intro w e wf
  have e : w = _ := (Option.some.inj e).symm
  simp only [pack] at e
  obtain ⟨m, f0, f1, f2⟩ := shape_30 w 67 x0.toNat (bit x1) 0 x0.isLt (bit_lt x1) (by decide) (by decide) (e.trans (by omega))
  rw [decode, decRaw_67 w m]
  simp [bF_of x0 f1, tF_of x1 f2, f0, wf]
theorem brx (x0 : GNum) : Statement (.brx x0) := by
  intro w e wf
  have e : w = _ := (Option.some.inj e).symm
  simp only [pack] at e
  obtain ⟨m, f0, f1, f2, f3, f4, f5⟩ := shape_31 w 68 x0.toNat 0 x0.isLt (by decide) (by decide) (e.trans (by omega))
  rw [decode, decRaw_68 w m]
  simp [gF, bF_of x0 f2, f0, f1, wf]
theorem exit (x0 : PNum) (x1 : Bool) : Statement (.exit x0 x1) := by
  intro w e wf
  have e : w = _ := (Option.some.inj e).symm
  simp only [pack] at e
  obtain ⟨m, f0, f1, f2⟩ := shape_30 w 69 x0.toNat (bit x1) 0 x0.isLt (bit_lt x1) (by decide) (by decide) (e.trans (by omega))
  rw [decode, decRaw_69 w m]
  simp [bF_of x0 f1, tF_of x1 f2, f0, wf]
theorem nop : Statement (.nop) := by
  intro w e wf
  have e : w = _ := (Option.some.inj e).symm
  simp only [pack] at e
  obtain ⟨m, f0, f1, f2, f3, f4⟩ := shape_32 w 70 0 (by decide) (by decide) (e.trans (by omega))
  rw [decode, decRaw_70 w m]
  simp [gF, f0, f1, f2, f3, wf]
theorem reform : Statement (.reform) := by
  intro w e wf
  have e : w = _ := (Option.some.inj e).symm
  simp only [pack] at e
  obtain ⟨m, f0, f1, f2, f3, f4⟩ := shape_32 w 70 1 (by decide) (by decide) (e.trans (by omega))
  rw [decode, decRaw_70 w m]
  simp [gF, f0, f1, f2, f3, wf]
theorem yield : Statement (.yield) := by
  intro w e wf
  have e : w = _ := (Option.some.inj e).symm
  simp only [pack] at e
  obtain ⟨m, f0, f1, f2, f3, f4⟩ := shape_32 w 70 2 (by decide) (by decide) (e.trans (by omega))
  rw [decode, decRaw_70 w m]
  simp [gF, f0, f1, f2, f3, wf]
theorem region (x0 : BitVec 10) : Statement (.region x0) := by
  intro w e wf
  have e : w = _ := (Option.some.inj e).symm
  simp only [pack] at e
  obtain ⟨m, f0, f1, f2, f3⟩ := shape_33 w 70 x0.toNat 3 x0.isLt (by decide) (by decide) (e.trans (by omega))
  rw [decode, decRaw_70 w m]
  simp [gF, bF_of x0 f3, f0, f1, f2, f3, wf]
theorem trap (x0 : BitVec 10) : Statement (.trap x0) := by
  intro w e wf
  have e : w = _ := (Option.some.inj e).symm
  simp only [pack] at e
  obtain ⟨m, f0, f1, f2, f3⟩ := shape_33 w 70 x0.toNat 4 x0.isLt (by decide) (by decide) (e.trans (by omega))
  rw [decode, decRaw_70 w m]
  simp [gF, bF_of x0 f3, f0, f1, f2, f3, wf]
theorem untaint (x0 : GNum) : Statement (.untaint x0) := by
  intro w e wf
  have e : w = _ := (Option.some.inj e).symm
  simp only [pack] at e
  obtain ⟨m, f0, f1, f2⟩ := shape_23 w 70 x0.toNat 5 x0.isLt (by decide) (by decide) (e.trans (by omega))
  rw [decode, decRaw_70 w m]
  simp [gF, bF_of x0 f2, f0, f1, f2, wf]
theorem waitc (x0 : BitVec 6) (x1 : BitVec 6) (x2 : BitVec 6) (x3 : BitVec 6) : Statement (.waitc x0 x1 x2 x3) := by
  intro w e wf
  have e : w = _ := (Option.some.inj e).symm
  simp only [pack] at e
  obtain ⟨m, f0, f1, f2, f3, f4⟩ := shape_34 w 71 x0.toNat x1.toNat x2.toNat x3.toNat 0 x0.isLt x1.isLt x2.isLt x3.isLt (by decide) (by decide) (e.trans (by omega))
  rw [decode, decRaw_71 w m]
  simp [bF_of x0 f1, bF_of x1 f2, bF_of x2 f3, bF_of x3 f4, f0, wf]
theorem barInit (x0 : BNum) (x1 : GNum) : Statement (.barInit x0 x1) := by
  intro w e wf
  have e : w = _ := (Option.some.inj e).symm
  simp only [pack] at e
  obtain ⟨m, f0, f1, f2, f3⟩ := shape_35 w 72 x0.toNat x1.toNat 0 x0.isLt x1.isLt (by decide) (by decide) (e.trans (by omega))
  have n0 : ¬ nF 18 w 0 = 1 := by
    have := x0.isLt
    have := x1.isLt
    unfold nF
    omega
  rw [decode, decRaw_72 w m]
  simp [gF, bF_of x0 f2, bF_of x1 f3, f0, f1, n0, wf]
theorem barArrive (x0 : BNum) : Statement (.barArrive x0) := by
  intro w e wf
  have e : w = _ := (Option.some.inj e).symm
  simp only [pack] at e
  obtain ⟨m, f0, f1, f2, f3, f4⟩ := shape_36 w 72 x0.toNat 1 x0.isLt (by decide) (by decide) (e.trans (by omega))
  rw [decode, decRaw_72 w m]
  simp [gF, bF_of x0 f3, f0, f1, f2, wf]
theorem barExpect (x0 : BNum) (x1 : GNum) : Statement (.barExpect x0 x1) := by
  intro w e wf
  have e : w = _ := (Option.some.inj e).symm
  simp only [pack] at e
  obtain ⟨m, f0, f1, f2, f3⟩ := shape_35 w 72 x0.toNat x1.toNat 2 x0.isLt x1.isLt (by decide) (by decide) (e.trans (by omega))
  have n0 : ¬ nF 18 w 0 = 1 := by
    have := x0.isLt
    have := x1.isLt
    unfold nF
    omega
  rw [decode, decRaw_72 w m]
  simp [gF, bF_of x0 f2, bF_of x1 f3, f0, f1, n0, wf]
theorem barWait (x0 : BNum) (x1 : GNum) : Statement (.barWait x0 x1) := by
  intro w e wf
  have e : w = _ := (Option.some.inj e).symm
  simp only [pack] at e
  obtain ⟨m, f0, f1, f2, f3⟩ := shape_35 w 72 x0.toNat x1.toNat 3 x0.isLt x1.isLt (by decide) (by decide) (e.trans (by omega))
  have n0 : ¬ nF 18 w 0 = 1 := by
    have := x0.isLt
    have := x1.isLt
    unfold nF
    omega
  rw [decode, decRaw_72 w m]
  simp [gF, bF_of x0 f2, bF_of x1 f3, f0, f1, n0, wf]
theorem tcfg (x0 : MNum) (x1 : GNum) : Statement (.tcfg x0 x1) := by
  intro w e wf
  have e : w = _ := (Option.some.inj e).symm
  simp only [pack] at e
  obtain ⟨m, f0, f1, f2, f3⟩ := shape_37 w 80 x0.toNat x1.toNat 0 x0.isLt x1.isLt (by decide) (by decide) (e.trans (by omega))
  rw [decode, decRaw_80 w m]
  simp [gF, bF_of x0 f2, bF_of x1 f3, f0, f1, wf]
theorem tld (x0 : MNum) (x1 : ANum) (x2 : GNum) (x3 : GNum) : Statement (.tld x0 x1 x2 x3) := by
  intro w e wf
  have e : w = _ := (Option.some.inj e).symm
  simp only [pack] at e
  obtain ⟨m, f0, f1, f2, f3, f4⟩ := shape_38 w 81 x0.toNat x1.toNat x2.toNat x3.toNat 0 x0.isLt x1.isLt x2.isLt x3.isLt (by decide) (by decide) (e.trans (by omega))
  rw [decode, decRaw_81 w m]
  simp [gF, bF_of x1 f1, bF_of x0 f2, bF_of x2 f3, bF_of x3 f4, f0, f1, wf]
theorem tst (x0 : MNum) (x1 : ANum) (x2 : GNum) (x3 : GNum) : Statement (.tst x0 x1 x2 x3) := by
  intro w e wf
  have e : w = _ := (Option.some.inj e).symm
  simp only [pack] at e
  obtain ⟨m, f0, f1, f2, f3, f4⟩ := shape_38 w 81 x0.toNat x1.toNat x2.toNat x3.toNat 1 x0.isLt x1.isLt x2.isLt x3.isLt (by decide) (by decide) (e.trans (by omega))
  rw [decode, decRaw_81 w m]
  simp [gF, bF_of x1 f1, bF_of x0 f2, bF_of x2 f3, bF_of x3 f4, f0, f1, wf]
theorem tlds (x0 : MNum) (x1 : GNum) (x2 : GNum) : Statement (.tlds x0 x1 x2) := by
  intro w e wf
  have e : w = _ := (Option.some.inj e).symm
  simp only [pack] at e
  obtain ⟨m, f0, f1, f2, f3, f4⟩ := shape_39 w 81 x0.toNat x1.toNat x2.toNat 2 x0.isLt x1.isLt x2.isLt (by decide) (by decide) (e.trans (by omega))
  rw [decode, decRaw_81 w m]
  simp [gF, bF_of x0 f2, bF_of x1 f3, bF_of x2 f4, f0, f1, wf]
theorem tsts (x0 : MNum) (x1 : GNum) (x2 : GNum) : Statement (.tsts x0 x1 x2) := by
  intro w e wf
  have e : w = _ := (Option.some.inj e).symm
  simp only [pack] at e
  obtain ⟨m, f0, f1, f2, f3, f4⟩ := shape_39 w 81 x0.toNat x1.toNat x2.toNat 3 x0.isLt x1.isLt x2.isLt (by decide) (by decide) (e.trans (by omega))
  rw [decode, decRaw_81 w m]
  simp [gF, bF_of x0 f2, bF_of x1 f3, bF_of x2 f4, f0, f1, wf]
theorem tmma (x0 : MNum) (x1 : MNum) (x2 : MNum) (x3 : SlotNum) (x4 : IOvr) (x5 : Bool) (x6 : Bool) : Statement (.tmma x0 x1 x2 x3 x4 x5 x6) := by
  intro w e wf
  have e : w = _ := (Option.some.inj e).symm
  simp only [pack] at e
  obtain ⟨m, f0, f1, f2, f3, f4, f5, f6, f7⟩ := shape_40 w 82 x0.toNat x1.toNat x2.toNat x3.toNat x4.code (bit x5) (bit x6) x0.isLt x1.isLt x2.isLt x3.isLt x4.code_lt (bit_lt x5) (bit_lt x6) (by decide) (e.trans (by omega))
  rw [decode, decRaw_82 w m]
  simp [bF_of x0 f2, bF_of x1 f3, bF_of x2 f4, bF_of x3 f5, tF_of x5 f6, tF_of x6 f7, f0, f1, IOvr.ofCode_code, wf]
theorem tmloop (x0 : MNum) (x1 : ANum) (x2 : ANum) (x3 : GNum) : Statement (.tmloop x0 x1 x2 x3) := by
  intro w e wf
  have e : w = _ := (Option.some.inj e).symm
  simp only [pack] at e
  obtain ⟨m, f0, f1, f2, f3, f4, f5⟩ := shape_41 w 83 x0.toNat x1.toNat x2.toNat x3.toNat 0 x0.isLt x1.isLt x2.isLt x3.isLt (by decide) (by decide) (e.trans (by omega))
  rw [decode, decRaw_83 w m]
  simp [gF, bF_of x0 f2, bF_of x1 f3, bF_of x2 f4, bF_of x3 f5, f0, f1, wf]
theorem tadd (x0 : MNum) (x1 : MNum) (x2 : MNum) (x3 : SlotNum) (x4 : Bool) (x5 : Bcast) (x6 : Bool) (x7 : Bool) : Statement (.tadd x0 x1 x2 x3 x4 x5 x6 x7) := by
  intro w e wf
  have e : w = _ := (Option.some.inj e).symm
  simp only [pack] at e
  obtain ⟨m, f0, f1, f2, f3, f4, f5, f6, f7, f8⟩ := shape_42 w 84 x0.toNat x1.toNat x2.toNat x3.toNat (bit x4) x5.code (bit x6) (bit x7) x0.isLt x1.isLt x2.isLt x3.isLt (bit_lt x4) x5.code_lt (bit_lt x6) (bit_lt x7) (by decide) (e.trans (by omega))
  rw [decode, decRaw_84 w m]
  simp [bF_of x0 f2, bF_of x1 f3, bF_of x2 f4, bF_of x3 f5, tF_of x4 f6, tF_of x6 f7, tF_of x7 f8, f0, f1, Bcast.ofCode_code, wf]
theorem temul (x0 : MNum) (x1 : MNum) (x2 : MNum) (x3 : SlotNum) (x4 : Bcast) (x5 : Bool) (x6 : Bool) : Statement (.temul x0 x1 x2 x3 x4 x5 x6) := by
  intro w e wf
  have e : w = _ := (Option.some.inj e).symm
  simp only [pack] at e
  obtain ⟨m, f0, f1, f2, f3, f4, f5, f6, f7⟩ := shape_40 w 85 x0.toNat x1.toNat x2.toNat x3.toNat x4.code (bit x5) (bit x6) x0.isLt x1.isLt x2.isLt x3.isLt x4.code_lt (bit_lt x5) (bit_lt x6) (by decide) (e.trans (by omega))
  rw [decode, decRaw_85 w m]
  simp [bF_of x0 f2, bF_of x1 f3, bF_of x2 f4, bF_of x3 f5, tF_of x5 f6, tF_of x6 f7, f0, f1, Bcast.ofCode_code, wf]
theorem tscl (x0 : MNum) (x1 : MNum) (x2 : MNum) (x3 : SlotNum) (x4 : Bool) (x5 : Bool) (x6 : Bool) : Statement (.tscl x0 x1 x2 x3 x4 x5 x6) := by
  intro w e wf
  have e : w = _ := (Option.some.inj e).symm
  simp only [pack] at e
  obtain ⟨m, f0, f1, f2, f3, f4, f5, f6, f7, f8, f9⟩ := shape_43 w 86 x0.toNat x1.toNat x2.toNat x3.toNat (bit x4) (bit x5) (bit x6) x0.isLt x1.isLt x2.isLt x3.isLt (bit_lt x4) (bit_lt x5) (bit_lt x6) (by decide) (e.trans (by omega))
  rw [decode, decRaw_86 w m]
  simp [bF_of x2 f1, bF_of x0 f3, bF_of x1 f4, bF_of x3 f5, tF_of x4 f7, tF_of x5 f8, tF_of x6 f9, f0, f1, f2, wf]
theorem tsclPow (x0 : MNum) (x1 : MNum) (x2 : SlotNum) (x3 : BitVec 6) (x4 : Bool) : Statement (.tsclPow x0 x1 x2 x3 x4) := by
  intro w e wf
  have e : w = _ := (Option.some.inj e).symm
  simp only [pack] at e
  obtain ⟨m, f0, f1, f2, f3, f4, f5, f6, f7, f8, f9⟩ := shape_44 w 86 x0.toNat x1.toNat x2.toNat x3.toNat (bit x4) x0.isLt x1.isLt x2.isLt x3.isLt (bit_lt x4) (by decide) (e.trans (by omega))
  have n0 : ¬ nF 7 w 3 = 0 := by
    have := x0.isLt
    have := x1.isLt
    have := x2.isLt
    have := x3.isLt
    have := bit_lt x4
    unfold nF
    omega
  rw [decode, decRaw_86 w m]
  simp [bF_of x0 f3, bF_of x1 f4, bF_of x2 f5, bF_of x3 f6, tF_of x4 f9, f0, f1, f2, n0, wf]
theorem ttr (x0 : MNum) (x1 : MNum) : Statement (.ttr x0 x1) := by
  intro w e wf
  have e : w = _ := (Option.some.inj e).symm
  simp only [pack] at e
  obtain ⟨m, f0, f1, f2⟩ := shape_45 w 87 x0.toNat x1.toNat 0 x0.isLt x1.isLt (by decide) (by decide) (e.trans (by omega))
  rw [decode, decRaw_87 w m]
  simp [bF_of x0 f1, bF_of x1 f2, f0, wf]
theorem tcvt (x0 : MNum) (x1 : MNum) (x2 : SlotNum) (x3 : Rnd) (x4 : Bool) : Statement (.tcvt x0 x1 x2 x3 x4) := by
  intro w e wf
  have e : w = _ := (Option.some.inj e).symm
  simp only [pack] at e
  obtain ⟨m, f0, f1, f2, f3, f4, f5, f6⟩ := shape_46 w 88 x0.toNat x1.toNat x2.toNat (bit x4) x3.code x0.isLt x1.isLt x2.isLt (bit_lt x4) x3.code_lt (by decide) (e.trans (by omega))
  rw [decode, decRaw_88 w m]
  simp [bF_of x0 f3, bF_of x1 f4, bF_of x2 f5, tF_of x4 f6, f0, f1, f2, Rnd.ofCode_code, wf]
theorem tact (x0 : MNum) (x1 : MNum) (x2 : SlotNum) (x3 : ActFn) (x4 : Bool) : Statement (.tact x0 x1 x2 x3 x4) := by
  intro w e wf
  have e : w = _ := (Option.some.inj e).symm
  simp only [pack] at e
  obtain ⟨m, f0, f1, f2, f3, f4, f5, f6⟩ := shape_47 w 89 x0.toNat x1.toNat x2.toNat (bit x4) x3.code x0.isLt x1.isLt x2.isLt (bit_lt x4) x3.code_lt (by decide) (e.trans (by omega))
  rw [decode, decRaw_89 w m]
  simp [bF_of x0 f3, bF_of x1 f4, bF_of x2 f5, tF_of x4 f6, f0, f1, f2, ActFn.ofCode_code, wf]
theorem trsum (x0 : MNum) (x1 : MNum) (x2 : SlotNum) (x3 : Bool) (x4 : Bool) : Statement (.trsum x0 x1 x2 x3 x4) := by
  intro w e wf
  have e : w = _ := (Option.some.inj e).symm
  simp only [pack] at e
  obtain ⟨m, f0, f1, f2, f3, f4, f5, f6⟩ := shape_48 w 90 x0.toNat x1.toNat x2.toNat (bit x3) (bit x4) x0.isLt x1.isLt x2.isLt (bit_lt x3) (bit_lt x4) (by decide) (e.trans (by omega))
  rw [decode, decRaw_90 w m]
  simp [bF_of x0 f2, bF_of x1 f3, bF_of x2 f4, tF_of x3 f5, tF_of x4 f6, f0, f1, wf]
theorem tzero (x0 : MNum) : Statement (.tzero x0) := by
  intro w e wf
  have e : w = _ := (Option.some.inj e).symm
  simp only [pack] at e
  obtain ⟨m, f0, f1⟩ := shape_49 w 91 x0.toNat 0 x0.isLt (by decide) (by decide) (e.trans (by omega))
  rw [decode, decRaw_91 w m]
  simp [bF_of x0 f1, f0, wf]
theorem teval (x0 : MNum) : Statement (.teval x0) := by
  intro w e wf
  have e : w = _ := (Option.some.inj e).symm
  simp only [pack] at e
  obtain ⟨m, f0, f1⟩ := shape_49 w 91 x0.toNat 1 x0.isLt (by decide) (by decide) (e.trans (by omega))
  rw [decode, decRaw_91 w m]
  simp [bF_of x0 f1, f0, wf]
theorem tdrop (x0 : MNum) : Statement (.tdrop x0) := by
  intro w e wf
  have e : w = _ := (Option.some.inj e).symm
  simp only [pack] at e
  obtain ⟨m, f0, f1⟩ := shape_49 w 91 x0.toNat 2 x0.isLt (by decide) (by decide) (e.trans (by omega))
  rw [decode, decRaw_91 w m]
  simp [bF_of x0 f1, f0, wf]
theorem trd (x0 : GNum) (x1 : MNum) (x2 : GNum) : Statement (.trd x0 x1 x2) := by
  intro w e wf
  have e : w = _ := (Option.some.inj e).symm
  simp only [pack] at e
  obtain ⟨m, f0, f1, f2, f3, f4, f5⟩ := shape_50 w 92 x0.toNat x1.toNat x2.toNat 0 x0.isLt x1.isLt x2.isLt (by decide) (by decide) (e.trans (by omega))
  rw [decode, decRaw_92 w m]
  simp [gF, bF_of x1 f2, bF_of x0 f3, bF_of x2 f4, f0, f1, wf]
theorem twr (x0 : MNum) (x1 : GNum) (x2 : GNum) : Statement (.twr x0 x1 x2) := by
  intro w e wf
  have e : w = _ := (Option.some.inj e).symm
  simp only [pack] at e
  obtain ⟨m, f0, f1, f2, f3, f4, f5⟩ := shape_51 w 92 x0.toNat x1.toNat x2.toNat 1 x0.isLt x1.isLt x2.isLt (by decide) (by decide) (e.trans (by omega))
  rw [decode, decRaw_92 w m]
  simp [gF, bF_of x0 f2, bF_of x2 f4, bF_of x1 f5, f0, f1, wf]
theorem tstat (x0 : GNum) (x1 : MNum) (x2 : BitVec 3) : Statement (.tstat x0 x1 x2) := by
  intro w e wf
  have e : w = _ := (Option.some.inj e).symm
  simp only [pack] at e
  obtain ⟨m, f0, f1, f2, f3, f4, f5, f6, f7⟩ := shape_52 w 92 x0.toNat x1.toNat x2.toNat 2 x0.isLt x1.isLt x2.isLt (by decide) (by decide) (e.trans (by omega))
  rw [decode, decRaw_92 w m]
  simp [gF, bF_of x1 f3, bF_of x2 f4, bF_of x0 f5, f0, f1, f2, wf]
theorem xlr (x0 : LNum) (x1 : ANum) (x2 : BitVec 10) : Statement (.xlr x0 x1 x2) := by
  intro w e wf
  have e : w = _ := (Option.some.inj e).symm
  simp only [pack] at e
  obtain ⟨m, f0, f1, f2, f3, f4⟩ := shape_53 w 96 x0.toNat x1.toNat x2.toNat 0 x0.isLt x1.isLt x2.isLt (by decide) (by decide) (e.trans (by omega))
  rw [decode, decRaw_96 w m]
  simp [bF_of x0 f2, bF_of x1 f3, bF_of x2 f4, f0, f1, wf]
theorem xcp (x0 : LNum) (x1 : LNum) (x2 : BNum) (x3 : Xform) (x4 : Bool) : Statement (.xcp x0 x1 x2 x3 x4) := by
  intro w e wf
  have e : w = _ := (Option.some.inj e).symm
  simp only [pack] at e
  obtain ⟨m, f0, f1, f2, f3, f4, f5, f6⟩ := shape_54 w 97 x1.toNat x0.toNat x2.toNat x3.code (bit x4) 0 x1.isLt x0.isLt x2.isLt x3.code_lt (bit_lt x4) (by decide) (by decide) (e.trans (by omega))
  rw [decode, decRaw_97 w m]
  simp [bF_of x0 f3, bF_of x1 f4, bF_of x2 f5, tF_of x4 f6, f0, f1, f2, Xform.ofCode_code, wf]
theorem xred (x0 : LNum) (x1 : LNum) (x2 : BitVec 4) (x3 : BNum) (x4 : Bool) : Statement (.xred x0 x1 x2 x3 x4) := by
  intro w e wf
  have e : w = _ := (Option.some.inj e).symm
  simp only [pack] at e
  obtain ⟨m, f0, f1, f2, f3, f4, f5, f6, f7⟩ := shape_55 w 98 x1.toNat x0.toNat x3.toNat x2.toNat (bit x4) 0 x1.isLt x0.isLt x3.isLt x2.isLt (bit_lt x4) (by decide) (by decide) (e.trans (by omega))
  rw [decode, decRaw_98 w m]
  simp [bF_of x0 f3, bF_of x1 f4, bF_of x2 f5, bF_of x3 f6, tF_of x4 f7, f0, f1, f2, wf]
theorem xwalk (x0 : LNum) (x1 : GNum) (x2 : BNum) (x3 : WalkAct) (x4 : Bool) : Statement (.xwalk x0 x1 x2 x3 x4) := by
  intro w e wf
  have e : w = _ := (Option.some.inj e).symm
  simp only [pack] at e
  obtain ⟨m, f0, f1, f2, f3, f4, f5⟩ := shape_56 w 99 x1.toNat x0.toNat x2.toNat x3.code (bit x4) 0 x1.isLt x0.isLt x2.isLt x3.code_lt (bit_lt x4) (by decide) (by decide) (e.trans (by omega))
  rw [decode, decRaw_99 w m]
  simp [gF, bF_of x0 f2, bF_of x2 f3, bF_of x1 f4, tF_of x4 f5, f0, f1, WalkAct.ofCode_code, wf]
theorem xstat (x0 : GNum) (x1 : BNum) (x2 : BitVec 2) : Statement (.xstat x0 x1 x2) := by
  intro w e wf
  have e : w = _ := (Option.some.inj e).symm
  simp only [pack] at e
  obtain ⟨m, f0, f1, f2, f3, f4⟩ := shape_57 w 100 x0.toNat x1.toNat x2.toNat x0.isLt x1.isLt x2.isLt (by decide) (e.trans (by omega))
  rw [decode, decRaw_100 w m]
  simp [gF, bF_of x1 f2, bF_of x2 f3, bF_of x0 f4, f0, f1, wf]
theorem jsub (x0 : GNum) (x1 : ANum) (x2 : BitVec 10) : Statement (.jsub x0 x1 x2) := by
  intro w e wf
  have e : w = _ := (Option.some.inj e).symm
  simp only [pack] at e
  obtain ⟨m, f0, f1, f2, f3⟩ := shape_58 w 104 x0.toNat x1.toNat x2.toNat 0 x0.isLt x1.isLt x2.isLt (by decide) (by decide) (e.trans (by omega))
  rw [decode, decRaw_104 w m]
  simp [gF, bF_of x1 f1, bF_of x2 f2, bF_of x0 f3, f0, wf]
theorem gainadd (x0 : GNum) (x1 : GNum) : Statement (.gainadd x0 x1) := by
  intro w e wf
  have e : w = _ := (Option.some.inj e).symm
  simp only [pack] at e
  obtain ⟨m, f0, f1, f2, f3⟩ := shape_59 w 105 x0.toNat x1.toNat 0 x0.isLt x1.isLt (by decide) (by decide) (e.trans (by omega))
  have n0 : ¬ nF 11 w 0 = 2 := by
    have := x0.isLt
    have := x1.isLt
    unfold nF
    omega
  rw [decode, decRaw_105 w m]
  simp [gF, bF_of x0 f2, bF_of x1 f3, f0, f1, n0, wf]
theorem gainset (x0 : GNum) (x1 : GNum) : Statement (.gainset x0 x1) := by
  intro w e wf
  have e : w = _ := (Option.some.inj e).symm
  simp only [pack] at e
  obtain ⟨m, f0, f1, f2, f3⟩ := shape_59 w 105 x0.toNat x1.toNat 1 x0.isLt x1.isLt (by decide) (by decide) (e.trans (by omega))
  have n0 : ¬ nF 11 w 0 = 2 := by
    have := x0.isLt
    have := x1.isLt
    unfold nF
    omega
  rw [decode, decRaw_105 w m]
  simp [gF, bF_of x0 f2, bF_of x1 f3, f0, f1, n0, wf]
theorem gainget (x0 : GNum) (x1 : GNum) : Statement (.gainget x0 x1) := by
  intro w e wf
  have e : w = _ := (Option.some.inj e).symm
  simp only [pack] at e
  obtain ⟨m, f0, f1, f2, f3, f4⟩ := shape_60 w 105 x0.toNat x1.toNat 2 x0.isLt x1.isLt (by decide) (by decide) (e.trans (by omega))
  rw [decode, decRaw_105 w m]
  simp [gF, bF_of x0 f0, bF_of x1 f3, f0, f1, f2, wf]
theorem resadd (x0 : GNum) : Statement (.resadd x0) := by
  intro w e wf
  have e : w = _ := (Option.some.inj e).symm
  simp only [pack] at e
  obtain ⟨m, f0, f1, f2, f3, f4, f5⟩ := shape_31 w 106 x0.toNat 0 x0.isLt (by decide) (by decide) (e.trans (by omega))
  rw [decode, decRaw_106 w m]
  simp [gF, bF_of x0 f2, f0, f1, f2, f3, f4, wf]
theorem resget (x0 : GNum) (x1 : BitVec 3) : Statement (.resget x0 x1) := by
  intro w e wf
  have e : w = _ := (Option.some.inj e).symm
  simp only [pack] at e
  obtain ⟨m, f0, f1, f2, f3, f4⟩ := shape_61 w 106 x0.toNat x1.toNat 1 x0.isLt x1.isLt (by decide) (by decide) (e.trans (by omega))
  have n0 : ¬ nF 11 w 0 = 0 := by
    have := x0.isLt
    have := x1.isLt
    unfold nF
    omega
  rw [decode, decRaw_106 w m]
  simp [gF, bF_of x0 f0, bF_of x1 f4, f0, f1, f2, f3, n0, wf]
theorem ordwait (x0 : GNum) : Statement (.ordwait x0) := by
  intro w e wf
  have e : w = _ := (Option.some.inj e).symm
  simp only [pack] at e
  obtain ⟨m, f0, f1, f2, f3, f4, f5⟩ := shape_31 w 107 x0.toNat 0 x0.isLt (by decide) (by decide) (e.trans (by omega))
  rw [decode, decRaw_107 w m]
  simp [gF, bF_of x0 f2, f0, f1, wf]
theorem ordpost (x0 : GNum) : Statement (.ordpost x0) := by
  intro w e wf
  have e : w = _ := (Option.some.inj e).symm
  simp only [pack] at e
  obtain ⟨m, f0, f1, f2, f3, f4, f5⟩ := shape_31 w 107 x0.toNat 1 x0.isLt (by decide) (by decide) (e.trans (by omega))
  rw [decode, decRaw_107 w m]
  simp [gF, bF_of x0 f2, f0, f1, wf]
theorem atom (x0 : GNum) (x1 : ANum) (x2 : Scope) (x3 : AtomOp) (x4 : Bool) (x5 : Order) : Statement (.atom x0 x1 x2 x3 x4 x5) := by
  intro w e wf
  have e : w = _ := (Option.some.inj e).symm
  simp only [pack] at e
  obtain ⟨m, f0, f1, f2, f3, f4, f5⟩ := shape_62 w 112 x0.toNat x1.toNat x2.code x3.code (b64Code x4) x5.code x0.isLt x1.isLt x2.code_lt x3.code_lt (b64Code_lt x4) x5.code_lt (by decide) (e.trans (by omega))
  rw [decode, decRaw_112 w m]
  simp [gF, bF_of x1 f4, bF_of x0 f5, f0, f1, f2, f3, AtomOp.ofCode_code, Order.ofCode_code, Scope.ofCode_code, b64OfCode_code, wf]
theorem cas (x0 : GNum) (x1 : ANum) (x2 : Scope) (x3 : Bool) (x4 : Order) : Statement (.cas x0 x1 x2 x3 x4) := by
  intro w e wf
  have e : w = _ := (Option.some.inj e).symm
  simp only [pack] at e
  obtain ⟨m, f0, f1, f2, f3, f4, f5⟩ := shape_63 w 113 x0.toNat x1.toNat x2.code (b64Code x3) x4.code x0.isLt x1.isLt x2.code_lt (b64Code_lt x3) x4.code_lt (by decide) (e.trans (by omega))
  rw [decode, decRaw_113 w m]
  simp [gF, bF_of x1 f4, bF_of x0 f5, f0, f1, f2, f3, Order.ofCode_code, Scope.ofCode_code, b64OfCode_code, wf]
theorem waitcmp (x0 : GNum) (x1 : ANum) (x2 : Bool) (x3 : WCond) (x4 : Bool) : Statement (.waitcmp x0 x1 x2 x3 x4) := by
  intro w e wf
  have e : w = _ := (Option.some.inj e).symm
  simp only [pack] at e
  obtain ⟨m, f0, f1, f2, f3, f4, f5, f6⟩ := shape_64 w 114 x0.toNat x1.toNat (sysCode x2) x3.code (b64Code x4) 0 x0.isLt x1.isLt (sysCode_lt x2) x3.code_lt (b64Code_lt x4) (by decide) (by decide) (e.trans (by omega))
  rw [decode, decRaw_114 w m]
  simp [gF, bF_of x1 f5, bF_of x0 f6, f0, f1, f2, f3, f4, WCond.ofCode_code, b64OfCode_code, sysOfCode_code, wf]
theorem ldAcq (x0 : GNum) (x1 : ANum) (x2 : Scope) (x3 : BitVec 7) (x4 : Size) (x5 : Policy) : Statement (.ldAcq x0 x1 x2 x3 x4 x5) := by
  intro w e wf
  have e : w = _ := (Option.some.inj e).symm
  simp only [pack] at e
  obtain ⟨m, f0, f1, f2, f3, f4, f5⟩ := shape_65 w 115 x0.toNat x1.toNat x2.code x3.toNat x4.code x5.code x0.isLt x1.isLt x2.code_lt x3.isLt x4.code_lt x5.code_lt (by decide) (e.trans (by omega))
  rw [decode, decRaw_115 w m]
  simp [gF, bF_of x1 f3, bF_of x0 f4, bF_of x3 f5, f0, f1, f2, Policy.ofCode_code, Scope.ofCode_code, Size.ofCode_code, wf]
theorem stRel (x0 : GNum) (x1 : ANum) (x2 : Scope) (x3 : BitVec 7) (x4 : Size) (x5 : Policy) : Statement (.stRel x0 x1 x2 x3 x4 x5) := by
  intro w e wf
  have e : w = _ := (Option.some.inj e).symm
  simp only [pack] at e
  obtain ⟨m, f0, f1, f2, f3, f4, f5⟩ := shape_65 w 116 x0.toNat x1.toNat x2.code x3.toNat x4.code x5.code x0.isLt x1.isLt x2.code_lt x3.isLt x4.code_lt x5.code_lt (by decide) (e.trans (by omega))
  rw [decode, decRaw_116 w m]
  simp [gF, bF_of x1 f3, bF_of x0 f4, bF_of x3 f5, f0, f1, f2, Policy.ofCode_code, Scope.ofCode_code, Size.ofCode_code, wf]
theorem fence (x0 : Scope) : Statement (.fence x0) := by
  intro w e wf
  have e : w = _ := (Option.some.inj e).symm
  simp only [pack] at e
  obtain ⟨m, f0, f1, f2, f3⟩ := shape_66 w 117 x0.code 0 x0.code_lt (by decide) (by decide) (e.trans (by omega))
  rw [decode, decRaw_117 w m]
  simp [f0, f1, f2, f3, Scope.ofCode_code, wf]
theorem smap (x0 : ANum) (x1 : GNum) : Statement (.smap x0 x1) := by
  intro w e wf
  have e : w = _ := (Option.some.inj e).symm
  simp only [pack] at e
  obtain ⟨m, f0, f1, f2, f3, f4⟩ := shape_67 w 118 x0.toNat x1.toNat 0 x0.isLt x1.isLt (by decide) (by decide) (e.trans (by omega))
  have n0 : ¬ nF 11 w 0 = 1 := by
    have := x0.isLt
    have := x1.isLt
    unfold nF
    omega
  have n1 : ¬ nF 11 w 0 = 2 := by
    have := x0.isLt
    have := x1.isLt
    unfold nF
    omega
  rw [decode, decRaw_118 w m]
  simp [gF, bF_of x0 f3, bF_of x1 f4, f0, f1, f2, n0, n1, wf]
theorem sunmap (x0 : ANum) : Statement (.sunmap x0) := by
  intro w e wf
  have e : w = _ := (Option.some.inj e).symm
  simp only [pack] at e
  obtain ⟨m, f0, f1, f2, f3, f4, f5⟩ := shape_68 w 118 x0.toNat 1 x0.isLt (by decide) (by decide) (e.trans (by omega))
  rw [decode, decRaw_118 w m]
  simp [gF, bF_of x0 f4, f0, f1, f2, f3, wf]
theorem sflush (x0 : ANum) : Statement (.sflush x0) := by
  intro w e wf
  have e : w = _ := (Option.some.inj e).symm
  simp only [pack] at e
  obtain ⟨m, f0, f1, f2, f3, f4, f5⟩ := shape_68 w 118 x0.toNat 2 x0.isLt (by decide) (by decide) (e.trans (by omega))
  rw [decode, decRaw_118 w m]
  simp [gF, bF_of x0 f4, f0, f1, f2, f3, wf]
theorem pref (x0 : ANum) (x1 : BitVec 10) (x2 : BitVec 3) (x3 : Policy) : Statement (.pref x0 x1 x2 x3) := by
  intro w e wf
  have e : w = _ := (Option.some.inj e).symm
  simp only [pack] at e
  obtain ⟨m, f0, f1, f2, f3, f4⟩ := shape_69 w 119 x0.toNat x1.toNat x2.toNat x3.code x0.isLt x1.isLt x2.isLt x3.code_lt (by decide) (e.trans (by omega))
  rw [decode, decRaw_119 w m]
  simp [bF_of x0 f2, bF_of x1 f3, bF_of x2 f4, f0, f1, Policy.ofCode_code, wf]
theorem bkpt (x0 : BitVec 10) : Statement (.bkpt x0) := by
  intro w e wf
  have e : w = _ := (Option.some.inj e).symm
  simp only [pack] at e
  obtain ⟨m, f0, f1, f2, f3⟩ := shape_33 w 120 x0.toNat 0 x0.isLt (by decide) (by decide) (e.trans (by omega))
  rw [decode, decRaw_120 w m]
  simp [bF_of x0 f3, f1, f2, wf]
theorem tmark (x0 : GNum) (x1 : BitVec 10) : Statement (.tmark x0 x1) := by
  intro w e wf
  have e : w = _ := (Option.some.inj e).symm
  simp only [pack] at e
  obtain ⟨m, f0, f1, f2⟩ := shape_22 w 121 x0.toNat x1.toNat 0 x0.isLt x1.isLt (by decide) (by decide) (e.trans (by omega))
  rw [decode, decRaw_121 w m]
  simp [gF, bF_of x1 f1, bF_of x0 f2, f0, wf]
theorem sysrd (x0 : GNum) (x1 : BitVec 10) : Statement (.sysrd x0 x1) := by
  intro w e wf
  have e : w = _ := (Option.some.inj e).symm
  simp only [pack] at e
  obtain ⟨m, f0, f1, f2⟩ := shape_22 w 122 x0.toNat x1.toNat 0 x0.isLt x1.isLt (by decide) (by decide) (e.trans (by omega))
  rw [decode, decRaw_122 w m]
  simp [gF, bF_of x1 f1, bF_of x0 f2, f0, wf]
theorem syswr (x0 : BitVec 10) (x1 : GNum) : Statement (.syswr x0 x1) := by
  intro w e wf
  have e : w = _ := (Option.some.inj e).symm
  simp only [pack] at e
  obtain ⟨m, f0, f1, f2⟩ := shape_22 w 123 x1.toNat x0.toNat 0 x1.isLt x0.isLt (by decide) (by decide) (e.trans (by omega))
  rw [decode, decRaw_123 w m]
  simp [gF, bF_of x0 f1, bF_of x1 f2, f0, wf]
theorem imm (x0 : BitVec 25) : Statement (.imm x0) := by
  intro w e wf
  have e : w = _ := (Option.some.inj e).symm
  simp only [pack] at e
  obtain ⟨m, f0⟩ := shape_70 w 124 x0.toNat x0.isLt (by decide) (e.trans (by omega))
  rw [decode, decRaw_124 w m]
  simp [bF_of x0 f0, wf]
theorem mod_ (x0 : Bool) (x1 : Bool) (x2 : Bool) (x3 : Bool) (x4 : BitVec 6) (x5 : Option LTy) : Statement (.mod_ x0 x1 x2 x3 x4 x5) := by
  intro w e wf
  have e : w = _ := (Option.some.inj e).symm
  simp only [pack] at e
  obtain ⟨m, f0, f1, f2, f3, f4, f5, f6⟩ := shape_71 w 125 (bit x0) (bit x1) (bit x2) (bit x3) x4.toNat (ovrCode x5) 0 (bit_lt x0) (bit_lt x1) (bit_lt x2) (bit_lt x3) x4.isLt (ovrCode_lt x5) (by decide) (by decide) (e.trans (by omega))
  rw [decode, decRaw_125 w m]
  simp [bF_of x4 f2, tF_of x0 f3, tF_of x1 f4, tF_of x2 f5, tF_of x3 f6, f0, f1, ovrOfCode_code, wf]
theorem tan : Statement (.tan) := by
  intro w e wf
  have e : w = _ := (Option.some.inj e).symm
  simp only [pack] at e
  obtain ⟨m, f0, f1, f2, f3, f4⟩ := shape_32 w 126 0 (by decide) (by decide) (e.trans (by omega))
  rw [decode, decRaw_126 w m]
  simp [f4, wf]
theorem threadFiling (x0 : Nat) (x1 : Nat) : Statement (.threadFiling x0 x1) := by
  intro w e
  cases e
theorem binAged (x0 : Nat) (x1 : Nat) (x2 : Nat) : Statement (.binAged x0 x1 x2) := by
  intro w e
  cases e
theorem collectiveExecute (x0 : WarpId) : Statement (.collectiveExecute x0) := by
  intro w e
  cases e
theorem loadReturn (x0 : Nat) : Statement (.loadReturn x0) := by
  intro w e
  cases e
theorem storeAck (x0 : Nat) : Statement (.storeAck x0) := by
  intro w e
  cases e
theorem tagFree (x0 : WarpId) (x1 : Nat) : Statement (.tagFree x0 x1) := by
  intro w e
  cases e
theorem idemDefer (x0 : WarpId) (x1 : Nat) : Statement (.idemDefer x0 x1) := by
  intro w e
  cases e
theorem orderStall (x0 : WarpId) : Statement (.orderStall x0) := by
  intro w e
  cases e
theorem barrierArrivalApply (x0 : Nat) : Statement (.barrierArrivalApply x0) := by
  intro w e
  cases e
theorem evalStart (x0 : Nat) : Statement (.evalStart x0) := by
  intro w e
  cases e
theorem evalComplete (x0 : Nat) : Statement (.evalComplete x0) := by
  intro w e
  cases e
theorem tileLoadLanded (x0 : Nat) : Statement (.tileLoadLanded x0) := by
  intro w e
  cases e
theorem xlrComplete (x0 : Nat) : Statement (.xlrComplete x0) := by
  intro w e
  cases e
theorem channelStart (x0 : Nat) (x1 : Nat) : Statement (.channelStart x0 x1) := by
  intro w e
  cases e
theorem chunkLand (x0 : Nat) (x1 : Nat) : Statement (.chunkLand x0 x1) := by
  intro w e
  cases e
theorem storeApply (x0 : Nat) (x1 : Nat) : Statement (.storeApply x0 x1) := by
  intro w e
  cases e
theorem atomicApply (x0 : Nat) (x1 : Nat) : Statement (.atomicApply x0 x1) := by
  intro w e
  cases e
theorem loadServe (x0 : Nat) (x1 : Nat) (x2 : ServeChoice) : Statement (.loadServe x0 x1 x2) := by
  intro w e
  cases e
theorem releaseClearance (x0 : Nat) : Statement (.releaseClearance x0) := by
  intro w e
  cases e
theorem releaseApply (x0 : Nat) (x1 : Nat) : Statement (.releaseApply x0 x1) := by
  intro w e
  cases e
theorem monitorArm (x0 : Nat) (x1 : Nat) (x2 : Bool) : Statement (.monitorArm x0 x1 x2) := by
  intro w e
  cases e
theorem waitcmpPoll (x0 : Nat) (x1 : Nat) : Statement (.waitcmpPoll x0 x1) := by
  intro w e
  cases e
theorem hdmRead (x0 : Nat) (x1 : Nat) (x2 : Bool) : Statement (.hdmRead x0 x1 x2) := by
  intro w e
  cases e
theorem hdmWrite (x0 : Nat) (x1 : List Byte) : Statement (.hdmWrite x0 x1) := by
  intro w e
  cases e
theorem backInvalidationResponse (x0 : Nat) : Statement (.backInvalidationResponse x0) := by
  intro w e
  cases e
theorem pageMigration (x0 : Nat) (x1 : Nat) (x2 : Nat) : Statement (.pageMigration x0 x1 x2) := by
  intro w e
  cases e
theorem impreciseFault (x0 : Nat) : Statement (.impreciseFault x0) := by
  intro w e
  cases e
theorem tail (x0 : BitVec 5) (x1 : Word) : Statement (.tail x0 x1) := by
  intro w e
  cases e
theorem reset (x0 : BitVec 5) : Statement (.reset x0) := by
  intro w e
  cases e
theorem nopPacket (x0 : BitVec 5) : Statement (.nopPacket x0) := by
  intro w e
  cases e
theorem launch (x0 : BitVec 5) : Statement (.launch x0) := by
  intro w e
  cases e
theorem job (x0 : BitVec 5) : Statement (.job x0) := by
  intro w e
  cases e
theorem signal (x0 : BitVec 5) : Statement (.signal x0) := by
  intro w e
  cases e
theorem packetCompletion (x0 : BitVec 5) : Statement (.packetCompletion x0) := by
  intro w e
  cases e
theorem jobSubmit (x0 : Nat) : Statement (.jobSubmit x0) := by
  intro w e
  cases e
theorem residencyHold (x0 : Nat) (x1 : Nat) : Statement (.residencyHold x0 x1) := by
  intro w e
  cases e
theorem clusterPlace (x0 : Nat) : Statement (.clusterPlace x0) := by
  intro w e
  cases e
theorem wavePlace (x0 : Nat) : Statement (.wavePlace x0) := by
  intro w e
  cases e
theorem chunkDeal (x0 : Nat) (x1 : Nat) : Statement (.chunkDeal x0 x1) := by
  intro w e
  cases e
theorem dequePop (x0 : Nat) (x1 : Nat) : Statement (.dequePop x0 x1) := by
  intro w e
  cases e
theorem dequeSteal (x0 : Nat) (x1 : Nat) : Statement (.dequeSteal x0 x1) := by
  intro w e
  cases e
theorem settDispatch (x0 : Nat) (x1 : Nat) : Statement (.settDispatch x0 x1) := by
  intro w e
  cases e
theorem gainSteal (x0 : Nat) (x1 : Nat) : Statement (.gainSteal x0 x1) := by
  intro w e
  cases e
theorem gainUpdateApply (x0 : Nat) : Statement (.gainUpdateApply x0) := by
  intro w e
  cases e
theorem residualUpdateApply (x0 : Nat) : Statement (.residualUpdateApply x0) := by
  intro w e
  cases e
theorem ordpostEffect (x0 : Nat) : Statement (.ordpostEffect x0) := by
  intro w e
  cases e
theorem retirementPublish (x0 : Nat) (x1 : Nat) : Statement (.retirementPublish x0 x1) := by
  intro w e
  cases e
theorem verifyRerun (x0 : Nat) (x1 : Nat) : Statement (.verifyRerun x0 x1) := by
  intro w e
  cases e
theorem jobEnd (x0 : Nat) : Statement (.jobEnd x0) := by
  intro w e
  cases e
theorem priorityPreempt (x0 : Nat) : Statement (.priorityPreempt x0) := by
  intro w e
  cases e
theorem preemptionSave (x0 : Nat) (x1 : Bool) : Statement (.preemptionSave x0 x1) := by
  intro w e
  cases e
theorem clusterRestore (x0 : Nat) (x1 : Bool) : Statement (.clusterRestore x0 x1) := by
  intro w e
  cases e
theorem swapOut (x0 : Nat) : Statement (.swapOut x0) := by
  intro w e
  cases e
theorem detTurn (x0 : Nat) : Statement (.detTurn x0) := by
  intro w e
  cases e
theorem preempt (x0 : BitVec 8) : Statement (.preempt x0) := by
  intro w e
  cases e
theorem resume (x0 : BitVec 8) : Statement (.resume x0) := by
  intro w e
  cases e
theorem retry (x0 : BitVec 8) : Statement (.retry x0) := by
  intro w e
  cases e
theorem inval (x0 : BitVec 8) : Statement (.inval x0) := by
  intro w e
  cases e
theorem invalidationDone (x0 : BitVec 8) : Statement (.invalidationDone x0) := by
  intro w e
  cases e
theorem stop (x0 : BitVec 8) : Statement (.stop x0) := by
  intro w e
  cases e
theorem dbgResume (x0 : BitVec 8) : Statement (.dbgResume x0) := by
  intro w e
  cases e
theorem step (x0 : BitVec 8) : Statement (.step x0) := by
  intro w e
  cases e
theorem capture (x0 : BitVec 8) : Statement (.capture x0) := by
  intro w e
  cases e
theorem feResume : Statement (.feResume) := by
  intro w e
  cases e
theorem registerWrite (x0 : BarWrite) : Statement (.registerWrite x0) := by
  intro w e
  cases e
theorem sampleTick (x0 : Nat) (x1 : BitVec 8) : Statement (.sampleTick x0 x1) := by
  intro w e
  cases e
theorem ringRecordWritten (x0 : Nat) (x1 : Bool) : Statement (.ringRecordWritten x0 x1) := by
  intro w e
  cases e
theorem traceRecord (x0 : Nat) : Statement (.traceRecord x0) := by
  intro w e
  cases e
theorem dumpStart : Statement (.dumpStart) := by
  intro w e
  cases e
theorem dumpComplete : Statement (.dumpComplete) := by
  intro w e
  cases e
theorem sensorRefresh (x0 : List Byte) : Statement (.sensorRefresh x0) := by
  intro w e
  cases e
theorem softErrorCorrection (x0 : BitVec 2) : Statement (.softErrorCorrection x0) := by
  intro w e
  cases e
theorem flitRetry (x0 : BitVec 2) : Statement (.flitRetry x0) := by
  intro w e
  cases e
theorem uncorrectableError (x0 : Nat) (x1 : ErrSite) : Statement (.uncorrectableError x0 x1) := by
  intro w e
  cases e
theorem peerRequest (x0 : Nat) (x1 : PeerReq) : Statement (.peerRequest x0 x1) := by
  intro w e
  cases e
theorem leaseClockTick (x0 : ClockLag) : Statement (.leaseClockTick x0) := by
  intro w e
  cases e
theorem laneWriteCompletion (x0 : WarpId) (x1 : Nat) : Statement (.laneWriteCompletion x0 x1) := by
  intro w e
  cases e
theorem fetchComplete (x0 : Nat) (x1 : Nat) : Statement (.fetchComplete x0 x1) := by
  intro w e
  cases e
theorem status (x0 : MgmtReq) : Statement (.status x0) := by
  intro w e
  cases e
theorem write (x0 : MgmtReq) : Statement (.write x0) := by
  intro w e
  cases e
theorem verify (x0 : MgmtReq) : Statement (.verify x0) := by
  intro w e
  cases e
theorem activate (x0 : MgmtReq) : Statement (.activate x0) := by
  intro w e
  cases e
theorem retryStarts (x0 : MgmtReq) : Statement (.retryStarts x0) := by
  intro w e
  cases e
theorem errcnt (x0 : MgmtReq) : Statement (.errcnt x0) := by
  intro w e
  cases e
theorem sensors (x0 : MgmtReq) : Statement (.sensors x0) := by
  intro w e
  cases e
theorem logread (x0 : MgmtReq) : Statement (.logread x0) := by
  intro w e
  cases e
theorem abort (x0 : MgmtReq) : Statement (.abort x0) := by
  intro w e
  cases e
theorem getVersion (x0 : MgmtReq) : Statement (.getVersion x0) := by
  intro w e
  cases e
theorem getCapabilities (x0 : MgmtReq) : Statement (.getCapabilities x0) := by
  intro w e
  cases e
theorem negotiateAlgorithms (x0 : MgmtReq) : Statement (.negotiateAlgorithms x0) := by
  intro w e
  cases e
theorem getDigests (x0 : MgmtReq) : Statement (.getDigests x0) := by
  intro w e
  cases e
theorem getCertificate (x0 : MgmtReq) : Statement (.getCertificate x0) := by
  intro w e
  cases e
theorem challenge (x0 : MgmtReq) : Statement (.challenge x0) := by
  intro w e
  cases e
theorem getMeasurements (x0 : MgmtReq) : Statement (.getMeasurements x0) := by
  intro w e
  cases e
theorem keyExchange (x0 : MgmtReq) : Statement (.keyExchange x0) := by
  intro w e
  cases e
theorem pskExchange (x0 : MgmtReq) : Statement (.pskExchange x0) := by
  intro w e
  cases e

end Laws.RoundTrip
end Sys2Proof
end

