-- ==== Sys2Proof/Tests/Slice0.lean ====
section
/-! SUPPORT. Tests: ill-formed terms, words decoded, and for each statement with hypotheses a state and operands that meet
them. -/

namespace Sys2Proof.Tests
set_option Elab.async false
open Sys2Proof.Machine

/-! ### A small state -/

/-- What the tests put into lane 0: g5 = 16, g6 = 2^32 − 1, g7 = 2, g9 and g10 configuration words. -/
def labThread (t : Thread) : Thread :=
  { t with g := t.g.zipIdx.map fun (r, n) => match n with
      | 5 => ⟨16, r.sh, 0⟩ | 6 => ⟨0xFFFFFFFF, r.sh, 0⟩ | 7 => ⟨2, r.sh, 0⟩ | 9 => ⟨193, r.sh, 0⟩
      | 11 => ⟨4, r.sh, 0⟩ | _ => r }
/-- Tiles: m0 a 2 × 2 accumulator, m1 and m2 fp16 of 2 × 2, m3 of 1 × 2, m4 of 2 × 1. -/
def labWarp (w : Warp) : Warp :=
  { w with
    threads := modAt w.threads 0 labThread
    tiles := w.tiles.zipIdx.map fun (t, n) => { t with cfg := match n with
      | 0 => some 65985 | 1 | 2 => some 193 | 3 => some 192 | 4 => some 65 | _ => none } }
def labUnit (u : Placed) : Placed :=
  { u with
    cfg := { probeCfg with slots := 2 :: List.replicate 7 0, regions := [⟨1, 1, 1, 0, 0⟩, ⟨0, 0, 0, 2, 0⟩] }
    wgs := u.wgs.map fun g => { g with warps := g.warps.map labWarp } }
/-- One unit of one warp, whose lane 0 is the issue. -/
def lab : State :=
  let s := State.reset.withFetchWord 32 0
  { s with agenda := [], issue := ⟨1, 0, [(0, [0])]⟩, units := s.units.map labUnit }
/-- The hypotheses of an issue: the bundle of the state, ready for the instruction, and `f` of it. -/
def meets (s : State) (i : Instr) (f : Bundle → State → Bool) : Bool :=
  match s.bundle? with
  | some b => b.ready i && b.proper && f b s
  | none => false
def any_ (_ : Bundle) (_ : State) : Bool := true
/-- Every lane of the issue meets `ok`; some lane does not. -/
def lanesOk (ok : LaneCtx → Bool) (b : Bundle) (s : State) : Bool := (b.each s).all ok
def laneBad (ok : LaneCtx → Bool) (b : Bundle) (s : State) : Bool := (b.each s).any fun c => !ok c
/-- The hypotheses of a warp-collective instruction (`CollReady`), and `f` of its bundle, state and warp. -/
def gathers (s : State) (i : Instr) (f : Bundle → State → Nat → Warp → Bool) : Bool :=
  match s.bundle? with
  | some b => b.idle && match b.parts with
    | [(wi, w, ls)] => ls == w.live && w.arrival.isNone && match (s.joined b i).warp? (b.wid wi) with
      | some x => match (s.joined b i).bundleOf b.u.id b.wg [(wi, x.live)] with
        | some b1 => b1.parts == [(wi, x, x.live)] && b1.u.state == .running && b1.free i && !b1.pending (i.waitRegs b1.u.cfg) &&
            (s.joined b i).mayRetire (b.wid wi) && b1.lanes.all (fun (_, _, _, t) => !t.halted) && f b1 (s.joined b i) wi x
        | none => false
      | none => false
    | _ => false
  | none => false
/-- What an instruction or an event leaves. -/
def after (i : Instr) (s : State) : State := match exec i s with | .next t => t | _ => s
/-! ### Decoding: a word of every row, its fields written out from the encoding tables (R59, R73 to R83) -/

theorem test_words_1 :
    decode 0b0000001_1100010_0000111_1100100_11_0_0 = some (.iadd 98 7 100 3 .i32) ∧
    decode 0b0000001_0000101_1100110_0111011_01_1_1 = some (.isub 5 102 59 1 .n32) ∧
    decode 0b0000010_1110011_1001100_10101001101 = some (.iaddi 115 76 1357) ∧
    decode 0b0000011_0100010_0000100_0000100_11_1_0 = some (.imul 34 4 4 3 .n32) ∧
    decode 0b0000011_1011101_1101011_1011110_10_0_1 = some (.imulhi 93 107 94 2 .i32) ∧
    decode 0b0000100_0010111_0000011_0001101_01_0_0 = some (.imad 23 3 13 1 .i32) ∧
    decode 0b0000101_0010001_1010001_0110110_11_1_0 = some (.imin 17 81 54 3 .n32) ∧
    decode 0b0000101_0011101_1111000_0100100_11_1_1 = some (.imax 29 120 36 3 .n32) ∧
    decode 0b0000110_1111100_1010011_0000000_10_00 = some (.clz 124 83 2) ∧
    decode 0b0000110_1001101_0001001_0000000_10_01 = some (.popc 77 9 2) ∧
    decode 0b0000110_0111000_1010100_0000000_10_10 = some (.brev 56 84 2) ∧
    decode 0b0000110_0101111_1011110_0000000_10_11 = some (.iabs 47 94 2) ∧
    decode 0b0000111_0101010_1010110_0111101_01_00 = some (.and_ 42 86 61 1) ∧
    decode 0b0000111_0101101_1110010_1001010_01_01 = some (.or_ 45 114 74 1) ∧
    decode 0b0000111_0110011_1010010_0010101_01_10 = some (.xor_ 51 82 21 1) ∧
    decode 0b0000111_1000010_1001100_0110011_11_11 = some (.andn 66 76 51 3) := by decide +kernel
theorem test_words_2 :
    decode 0b0001000_1010101_0111100_0010001_11_00 = some (.shl 85 60 17 3) ∧
    decode 0b0001000_1000010_0001110_1111110_01_01 = some (.shr 66 14 126 1) ∧
    decode 0b0001000_0100011_0010101_0010111_01_10 = some (.sar 35 21 23 1) ∧
    decode 0b0001000_0010010_1010110_0110000_01_11 = some (.rotl 18 86 48 1) ∧
    decode 0b0001001_1110001_1111010_000000_11010 = some (.shli 113 122 26) ∧
    decode 0b0001010_0001010_1111001_000000_00010 = some (.shri 10 121 2) ∧
    decode 0b0001011_0011111_0111110_000000_01101 = some (.sari 31 62 13) ∧
    decode 0b0001100_1111110_1101100_0_00111_00011 = some (.bfxN32 126 108 3 7) ∧
    decode 0b0001101_1101100_1100101_0_00001_01100 = some (.bfxI32 108 101 12 1) ∧
    decode 0b0001110_0010010_0100111_0_00011_01011 = some (.bfi 18 39 11 3) ∧
    decode 0b0001111_110_0000_0000001_0110111_0100 = some (.icmp 6 1 55 .i32 .gt) ∧
    decode 0b0010000_010_00000000_001_0000_101_1110 = some (.plop 2 1 5 14) ∧
    decode 0b0010001_0101101_1100100_0000000_11_00 = some (.mov 45 100 3) ∧
    decode 0b0010001_1000011_0000100_0100111_01_01 = some (.movx 67 4 39 1) ∧
    decode 0b0010001_0000011_0000110_0111111_11_10 = some (.movxw 3 6 63 3) ∧
    decode 0b0010010_1010011_0111100_1001001_01_11 = some (.selP0P3 83 60 73 1 3) := by decide +kernel
theorem test_words_3 :
    decode 0b0010011_1110101_1111001_1000000_10_01 = some (.selP4P7 117 121 64 2 1) ∧
    decode 0b0010100_1111100_0000000_01100111100 = some (.movi 124 828) ∧
    decode 0b0010101_1101011_1000100_0001110_10_00 = some (.fadd 107 68 14 2) ∧
    decode 0b0010101_0001111_0010110_1110001_01_01 = some (.fsub 15 22 113 1) ∧
    decode 0b0010110_1111011_1101001_0100111_01_00 = some (.fmul 123 105 39 1) ∧
    decode 0b0010111_1101110_1110010_0110011_10_00 = some (.ffma 110 114 51 2) ∧
    decode 0b0011000_0010101_1101111_0000100_11_00 = some (.fmin 21 111 4 3) ∧
    decode 0b0011000_1101000_0100010_1011100_01_01 = some (.fmax 104 34 92 1) ∧
    decode 0b0011001_010_0000_0100101_1001110_0_100 = some (.fcmp 2 37 78 .gt) ∧
    decode 0b0011010_0101100_1010011_0000000_01_00 = some (.frcp 44 83 1) ∧
    decode 0b0011010_1010110_1101100_0000000_10_01 = some (.frsq 86 108 2) ∧
    decode 0b0011010_1110101_0011000_0000000_10_10 = some (.fsqrt 117 24 2) ∧
    decode 0b0011010_1110111_1010110_0000000_01_11 = some (.fexp2 119 86 1) ∧
    decode 0b0011011_1111000_0001001_0000000_01_00 = some (.flog2 120 9 1) ∧
    decode 0b0011011_0100111_0110101_0000000_11_01 = some (.fsin 39 53 3) ∧
    decode 0b0011011_0000100_1000110_0000000_11_10 = some (.fcos 4 70 3) := by decide +kernel
theorem test_words_4 :
    decode 0b0011100_1001001_1110111_0000110_11_00 = some (.fdiv 73 119 6 3) ∧
    decode 0b0011101_0001100_1001111_0110101_10_00 = some (.fscale 12 79 53 2) ∧
    decode 0b0011110_0010000_0000100_1001100_11_00 = some (.dadd 16 4 76 3) ∧
    decode 0b0011110_1000000_1110000_0111000_01_01 = some (.dmul 64 112 56 1) ∧
    decode 0b0011110_0011100_0001100_0100100_11_10 = some (.dfma 28 12 36 3) ∧
    decode 0b0011111_1101101_0100000_1110011_11_00 = some (.hadd2F16 109 32 115 3) ∧
    decode 0b0011111_0000111_0001110_1010100_11_01 = some (.hmul2F16 7 14 84 3) ∧
    decode 0b0011111_0100111_1100110_0111100_01_10 = some (.hfma2F16 39 102 60 1) ∧
    decode 0b0100000_0101000_1101110_1000100_01_00 = some (.hadd2Bf16 40 110 68 1) ∧
    decode 0b0100000_0011011_1001001_0000010_01_01 = some (.hmul2Bf16 27 73 2 1) ∧
    decode 0b0100000_1001111_0000001_0001010_10_10 = some (.hfma2Bf16 79 1 10 2) ∧
    decode 0b0100001_0000110_0100001_1000110_10_00 = some (.hmin2F16 6 33 70 2) ∧
    decode 0b0100001_1010011_1001100_1100011_11_01 = some (.hmax2F16 83 76 99 3) ∧
    decode 0b0100010_0101100_0110011_1100101_11_00 = some (.hmin2Bf16 44 51 101 3) ∧
    decode 0b0100010_0011110_1111011_1001001_11_01 = some (.hmax2Bf16 30 123 73 3) ∧
    decode 0b0100011_1010100_0011000_001_0110_0010 = some (.cvt 84 24 .rz .f64 .n32) := by decide +kernel
theorem test_words_5 :
    decode 0b0100100_1011010_1000111_010_1101_0101 = some (.cvtn 90 71 .ru (.slot 5) .bf16) ∧
    decode 0b0100101_1101011_0111100_010_0011_1110 = some (.cvtw 107 60 .ru .f32 (.slot 6)) ∧
    decode 0b0100110_1100011_1000011_0110000_01_00 = some (.shflIdx 99 67 48 1) ∧
    decode 0b0100110_0100010_0111101_1001110_10_01 = some (.shflUp 34 61 78 2) ∧
    decode 0b0100110_1100100_1101100_0000100_10_10 = some (.shflDown 100 108 4 2) ∧
    decode 0b0100110_0101111_1101110_1000011_01_11 = some (.shflXor 47 110 67 1) ∧
    decode 0b0100111_0000_101_0000_011_0000000_01_00 = some (.voteAny 5 3 1) ∧
    decode 0b0100111_0000_111_0000_111_0000000_11_01 = some (.voteAll 7 7 3) ∧
    decode 0b0100111_0110100_0000_111_0000000_01_10 = some (.voteBallot 52 7 1) ∧
    decode 0b0101000_0110001_0010001_000_00000000 = some (.lreduce 49 17 .iadd) ∧
    decode 0b0101001_0000_011_000_0100_00000000000 = some (.ader 3 4) ∧
    decode 0b0101001_0000_001_0110100_0101001_01_01 = some (.anarrow 1 52 41 1) ∧
    decode 0b0101001_0000_011_0110001_0000000_10_10 = some (.aadv 3 49 2) ∧
    decode 0b0101001_1000000_0000_111_000_1001_11_11 = some (.aget 64 7 9 3) ∧
    decode 0b0101010_0000_111_0000000_00010011110 = some (.aadvi 7 158) ∧
    decode 0b0101011_1111011_0011010_00000_11_01_00 = some (.dget 123 26 3 1) := by decide +kernel
theorem test_words_6 :
    decode 0b0101011_1110101_1011101_00000_11_11_01 = some (.dset 117 93 3 3) ∧
    decode 0b0101011_1000101_000000000000_11_11_10 = some (.dseed 69 3 3) ∧
    decode 0b0101100_0001011_0000001011_00000000 = some (.sread 11 11) ∧
    decode 0b0101100_0011000_000000000000000001 = some (.rand 24) ∧
    decode 0b0110000_1110000_011_1110111000_010_00 = some (.ld 112 3 952 .b32 .norm) ∧
    decode 0b0110001_1110000_001_0000110100_011_01 = some (.st 112 1 52 .b64 .keep) ∧
    decode 0b0110010_1011000_101_000_0101100_010_00 = some (.ldx 88 5 44 .b32 .norm) ∧
    decode 0b0110011_0111100_111_000_0101100_001_10 = some (.stx 60 7 44 .b16 .strm) ∧
    decode 0b0110100_1101000_1101000_010_10000100 = some (.lds 104 104 .b32 132) ∧
    decode 0b0110101_0101100_1000100_100_10101001 = some (.sts 44 68 .b128 169) ∧
    decode 0b0110110_0000_100_011_0001101001_100_00 = some (.aldp 4 3 105 true .norm) ∧
    decode 0b1000000_110_0_000001010011100001010 = some (.brp 6 false 42762) ∧
    decode 0b1000001_0001111_00000_10_01001011011 = some (.bra 15 .neg 603) ∧
    decode 0b1000010_011_1_010101111000100001000 = some (.call 3 true 717064) ∧
    decode 0b1000011_101_1_000000000000000000000 = some (.ret 5 true) ∧
    decode 0b1000100_0000000_1110101_00000000000 = some (.brx 117) := by decide +kernel
theorem test_words_7 :
    decode 0b1000101_110_1_000000000000000000000 = some (.exit 6 true) ∧
    decode 0b1000110_0000000000000000000000000 = some .nop ∧
    decode 0b1000110_0000000000000000000000001 = some .reform ∧
    decode 0b1000110_0000000000000000000000010 = some .yield ∧
    decode 0b1000110_0000000_1011000001_00000011 = some (.region 705) ∧
    decode 0b1000110_0000000_0001101010_00000100 = some (.trap 106) ∧
    decode 0b1000110_0010011_000000000000000101 = some (.untaint 19) ∧
    decode 0b1000111_110111_001011_101011_011100_0 = some (.waitc 55 11 43 28) ∧
    decode 0b1001000_00_10101_1011100_00000000000 = some (.barInit 21 92) ∧
    decode 0b1001000_00_01111_000000000000000001 = some (.barArrive 15) ∧
    decode 0b1001000_00_11010_1001001_00000000010 = some (.barExpect 26 73) ∧
    decode 0b1001000_00_10111_0101101_00000000011 = some (.barWait 23 45) ∧
    decode 0b1010000_000_1010_0011001_00000000000 = some (.tcfg 10 25) ∧
    decode 0b1010001_0110_001_0110010_1110010_0000 = some (.tld 6 1 50 114) ∧
    decode 0b1010001_0001_111_1010011_0101010_0001 = some (.tst 1 7 83 42) ∧
    decode 0b1010001_1101_000_0101010_0001101_0010 = some (.tlds 13 42 13) := by decide +kernel
theorem test_words_8 :
    decode 0b1010001_0001_000_0101111_1111000_0011 = some (.tsts 1 47 120) ∧
    decode 0b1010010_0101_1011_0110_011_000000_00_0_1 = some (.tmma 5 11 6 3 .idef false true) ∧
    decode 0b1010011_1100_111_011_0000_1101100_0000 = some (.tmloop 12 7 3 108) ∧
    decode 0b1010100_0111_0001_0101_100_00000_0_00_1_0 = some (.tadd 7 1 5 4 false .full true false) ∧
    decode 0b1010101_0100_1110_1001_001_000000_10_1_1 = some (.temul 4 14 9 1 .col true true) ∧
    decode 0b1010110_1110_1011_0100_101_0000000_0_0_0 = some (.tscl 14 11 4 5 false false false) ∧
    decode 0b1010110_0111_0111_0000_010_1_001110_00_1 = some (.tsclPow 7 7 2 14 true) ∧
    decode 0b1010111_1000_1100_00000000000000000 = some (.ttr 8 12) ∧
    decode 0b1011000_0100_1011_0000_110_000000_1_100 = some (.tcvt 4 11 6 .sr true) ∧
    decode 0b1011001_1011_0110_0000_010_00000_0_0000 = some (.tact 11 6 2 .relu false) ∧
    decode 0b1011010_1111_1000_0000_011_00000000_1_0 = some (.trsum 15 8 3 true false) ∧
    decode 0b1011011_0110_000000000000000000000 = some (.tzero 6) ∧
    decode 0b1011011_1110_000000000000000000001 = some (.teval 14) ∧
    decode 0b1011011_1011_000000000000000000010 = some (.tdrop 11) ∧
    decode 0b1011100_1010100_000_1101_0010100_0000 = some (.trd 84 13 20) ∧
    decode 0b1011100_000_0010_0101101_1110110_0001 = some (.twr 2 45 118) := by decide +kernel
theorem test_words_9 :
    decode 0b1011100_1001101_000_0000_0000011_0010 = some (.tstat 77 0 3) ∧
    decode 0b1100000_000_1100_011_0111110000_00000 = some (.xlr 12 3 496) ∧
    decode 0b1100001_000_0100_1011_10100_00110_0_000 = some (.xcp 11 4 20 .compact false) ∧
    decode 0b1100010_000_1010_1001_10001_00011_0_000 = some (.xred 9 10 3 17 false) ∧
    decode 0b1100011_1000000_1011_01101_00000_0_000 = some (.xwalk 11 64 13 .coord false) ∧
    decode 0b1100100_1010111_00000_11001_000000_10 = some (.xstat 87 25 2) ∧
    decode 0b1101000_1001100_100_0100111111_00000 = some (.jsub 76 4 319) ∧
    decode 0b1101001_0000000_1111010_1100110_0000 = some (.gainadd 122 102) ∧
    decode 0b1101001_0000000_1001111_0101000_0001 = some (.gainset 79 40) ∧
    decode 0b1101001_0001111_0100000_00000000010 = some (.gainget 15 32) ∧
    decode 0b1101010_0000000_1000100_00000000000 = some (.resadd 68) ∧
    decode 0b1101010_0110011_0000000_0000100_0001 = some (.resget 51 4) ∧
    decode 0b1101011_0000000_1101011_00000000000 = some (.ordwait 107) ∧
    decode 0b1101011_0000000_0111011_00000000001 = some (.ordpost 59) ∧
    decode 0b1110000_0001100_100_100_0001100_011_01 = some (.atom 12 4 .sys .fadd64 true .acq) ∧
    decode 0b1110001_1100000_011_011_0000000_011_10 = some (.cas 96 3 .dev true .rel) := by decide +kernel
theorem test_words_10 :
    decode 0b1110010_1010100_010_100_00_00000_011_00 = some (.waitcmp 84 2 true .eq true) ∧
    decode 0b1110011_0010000_101_100_0111000_110_11 = some (.ldAcq 16 5 .sys 56 .s16 .byp) ∧
    decode 0b1110100_1011000_011_010_0001000_001_10 = some (.stRel 88 3 .clus 8 .b16 .strm) ∧
    decode 0b1110101_00000000000000_100_00000000 = some (.fence .sys) ∧
    decode 0b1110110_00000000000_111_0001110_0000 = some (.smap 7 14) ∧
    decode 0b1110110_00000000000_011_00000000001 = some (.sunmap 3) ∧
    decode 0b1110110_00000000000_110_00000000010 = some (.sflush 6) ∧
    decode 0b1110111_0000000_100_1110101111_111_11 = some (.pref 4 943 7 .byp) ∧
    decode 0b1111000_0000000_0101100000_00000000 = some (.bkpt 352) ∧
    decode 0b1111001_1000111_1111100001_00000000 = some (.tmark 71 993) ∧
    decode 0b1111010_1100000_0000001101_00000000 = some (.sysrd 96 13) ∧
    decode 0b1111011_0100011_0000010100_00000000 = some (.syswr 20 35) ∧
    decode 0b1111100_0001100000111010000111011 = some (.imm 3175483) ∧
    decode 0b1111101_0_1_1_1_000001_0100_00000000000 = some (.mod_ false true true true 1 (some .f16)) ∧
    decode 0b1111110_0000000000000000000000000 = some .tan := by decide +kernel
/-! ### Ill-formed terms, one for each check of `Instr.wellFormed` -/

theorem test_ill_formed : ∀ i ∈ [Instr.bfxN32 1 2 20 12, .bfxI32 1 2 31 1, .bfi 1 2 1 31, .dadd 1 2 4 0, .dmul 2 3 4 0, .dfma 2 4 5 0,
    .cvt 1 2 .rne (.slot 0) .f32, .cvt 1 2 .rne .f32 (.slot 0), .cvt 1 2 .rne .f64 .f32, .cvt 1 3 .rne .f32 .f64,
    .cvtn 1 2 .rne .f16 .f32, .cvtn 1 2 .rne (.slot 0) .f64, .cvtw 1 2 .rne .f32 .f32, .cvtw 1 2 .rne .f64 (.slot 0),
    .aget 1 2 10 0, .sread 1 12, .ld 1 0 0 .b64 .norm, .ldx 2 0 1 .b128 .norm, .ldAcq 3 0 .dev 0 .b64 .norm,
    .st 1 0 0 .b64 .norm, .st 0 0 0 .s8 .norm, .stx 1 0 0 .b64 .norm, .stRel 0 0 .dev 0 .s16 .norm, .lds 1 2 .b64 0, .sts 1 2 .b64 0,
    .sts 0 2 .s8 0, .tmloop 1 0 1 2, .tstat 1 0 6, .tstat 1 1 3, .xred 1 2 15 0 false, .xred 1 13 2 0 false, .resget 1 5,
    .atom 2 0 .dev .fadd32 true .rlx, .atom 2 0 .dev .fadd64 false .rlx, .atom 1 0 .dev .iadd true .rlx, .cas 1 0 .dev false .rlx,
    .cas 2 0 .dev true .rlx, .waitcmp 1 0 false .eq true, .sysrd 1 6, .sysrd 1 0xE, .syswr 0x15 1, .mod_ false false false false 0 none,
    .loadServe 0 0 ⟨5, 0, 0, []⟩], i.wellFormed = false ∧ ((encode i).bind decode) = none := by decide +kernel
theorem test_rejects : decodeBytes [1, 2, 3] = .error .short ∧ decodeBytes [0, 0, 0, 0] = .error .unassigned ∧
    decodeBytes (wordBytes 0b0001110_0000001_0000010_0_00001_11111) = .error .illFormed := by decide +kernel

/-! ### Results of single instructions, worked out by hand from the rules -/

/-- `lab` with g5, g6 and g7 as given. -/
def labWith (x y z : Word) : State := lab.modThread ⟨1, 0, 0⟩ 0 fun t => { t with g := t.g.zipIdx.map fun (r, n) => match n with
  | 5 => ⟨x, r.sh, 0⟩ | 6 => ⟨y, r.sh, 0⟩ | 7 => ⟨z, r.sh, 0⟩ | _ => r }
/-- What lane 0 will have written once the instruction's writes complete. -/
def later (s : State) (i : Instr) : Option Thread := ((after i s).warp? ⟨1, 0, 0⟩).bind fun w =>
  ((w.pend[0]?).map fun p => w.applyWrites p.writes).bind fun w => w.threads[0]?
def writesG (i : Instr) (n : Nat) (v : Word) (x : Word := 16) (y : Word := 0xFFFFFFFF) (z : Word := 2) : Bool :=
  (later (labWith x y z) i).any fun t => (t.g[n]?).any (·.val == v)
def writesP (i : Instr) (n : Nat) (v : Bool) (x : Word := 16) (y : Word := 0xFFFFFFFF) : Bool :=
  (later (labWith x y 2) i).any fun t => (t.p[n]?).any (·.val == v)
theorem test_integer : (writesG (.iadd 3 5 6 0 .i32) 3 15 && writesG (.isub 3 7 5 0 .n32) 3 0xFFFFFFF2 && writesG (.iaddi 3 7 0x7FD) 3 0xFFFFFFFF &&
    writesG (.imul 3 6 6 0 .i32) 3 1 && writesG (.imulhi 3 6 6 0 .i32) 3 0 && writesG (.imulhi 3 6 6 0 .n32) 3 0xFFFFFFFE &&
    writesG (.imin 3 5 6 0 .i32) 3 0xFFFFFFFF && writesG (.imin 3 5 6 0 .n32) 3 16 && writesG (.imax 3 5 6 0 .i32) 3 16 &&
    writesG (.clz 3 5 0) 3 27 && writesG (.popc 3 6 0) 3 32 && writesG (.brev 3 5 0) 3 0x08000000 && writesG (.iabs 3 6 0) 3 1) = true := by
  decide +kernel
theorem test_logic : (writesG (.and_ 3 5 6 0) 3 16 && writesG (.xor_ 3 5 6 0) 3 0xFFFFFFEF && writesG (.or_ 3 5 7 0) 3 18 &&
    writesG (.andn 3 6 5 0) 3 0xFFFFFFEF && writesG (.shli 3 7 31) 3 0 && writesG (.shri 3 6 28) 3 15 && writesG (.sari 3 6 28) 3 0xFFFFFFFF &&
    writesG (.rotl 3 6 7 0) 3 0xFFFFFFFF && writesG (.rotl 3 5 5 0) 3 0x100000 && writesG (.bfxN32 3 6 4 7) 3 0xFF &&
    writesG (.bfxI32 3 5 4 0) 3 0xFFFFFFFF && writesG (.movi 3 0x400) 3 0xFFFFFC00 && writesG (.mov 3 5 0) 3 16) = true := by decide +kernel
/-- 1.0, 2.0, 3.0 in binary32; 1/3 rounds up, √2 down. -/
theorem test_float : (writesG (.fadd 3 5 6 0) 3 0x40400000 0x3F800000 0x40000000 0 && writesG (.fsub 3 5 6 0) 3 0xBF800000 0x3F800000 0x40000000 0 &&
    writesG (.fmul 3 6 6 0) 3 0x40800000 0 0x40000000 0 && writesG (.fdiv 3 5 6 0) 3 0x3EAAAAAB 0x3F800000 0x40400000 0 &&
    writesG (.fsqrt 3 5 0) 3 0x3FB504F3 0x40000000 0 0 && writesG (.frcp 3 5 0) 3 0x7F800000 0 0 0 &&
    writesG (.fexp2 3 5 0) 3 0x41000000 0x40400000 0 0 && writesG (.flog2 3 5 0) 3 0x3F800000 0x40000000 0 0 &&
    writesG (.fadd 3 5 6 0) 3 0x7FC00000 0x7F800000 0xFF800000 0 && writesG (.hadd2F16 3 5 6 0) 3 0x42004000 0x40003C00 0x3C003C00 0 &&
    writesG (.cvt 3 5 .rz .i32 .f32) 3 0xFFFFFFFE 0xC0200000 0 0 && writesG (.cvt 3 5 .rne .f16 .f32) 3 0x3C00 0x3F800000 0 0) = true := by
  decide +kernel
theorem test_predicates : (writesP (.icmp 1 5 6 .i32 .gt) 1 true && writesP (.icmp 1 5 6 .n32 .gt) 1 false &&
    writesP (.fcmp 1 5 6 .unord) 1 true 0x7FC00000 0 && writesP (.fcmp 1 5 6 .eq) 1 true 0x80000000 0 &&
    writesP (.plop 1 0 0 0b0001) 1 true) = true := by decide +kernel
/-- A branch taken moves by whole words from its own address, and one not taken to the next word (R151). -/
theorem test_branch : ([(true, 0x1004), (false, 0x1008)].all fun x => (((after (.brp 1 x.1 2) (lab.modUnit 1 fun u =>
    { u with cfg := { u.cfg with codesize := 64 } })).thread? ⟨1, 0, 0⟩ 0).any fun t => t.pc == x.2)) = true := by decide +kernel
/-- FIPS 202: the digest of the empty message. -/
theorem test_sha3 : bytesNat (sha3 []).reverse = 0xa7ffc6f8bf1ed76651c14756a061d662f580ff4de43b49fa82d80a4b80f8434a := by decide +kernel

/-! ### Witnesses: lane arithmetic -/

theorem witness_IntegerArithmetic : ∀ i ∈ [Instr.iadd 3 1 6 0 .i32, .isub 127 0 127 3 .n32, .iaddi 0 0 (BitVec.ofInt 11 (-1024)),
    .imul 3 6 6 0 .i32, .imulhi 3 6 6 0 .n32, .imad 0 0 0 0 .i32], meets lab i any_ = true := by decide +kernel
theorem witness_MinMaxCounts : ∀ i ∈ [Instr.imin 3 0 6 0 .i32, .imax 3 0 6 0 .n32, .clz 3 0 0, .popc 3 6 0, .brev 3 7 0, .iabs 3 6 0],
    meets lab i any_ = true := by decide +kernel
theorem witness_LogicAndShifts : ∀ i ∈ [Instr.and_ 3 5 6 0, .or_ 3 5 6 0, .xor_ 3 5 6 0, .andn 3 5 6 0, .shl 3 5 6 0, .shr 3 5 6 0,
    .sar 3 6 6 0, .rotl 3 5 6 0, .shli 3 5 31, .shri 3 5 31, .sari 3 6 31], meets lab i any_ = true := by decide +kernel
theorem witness_BitFields : ∀ x ∈ [((0 : BitVec 5), (31 : BitVec 5)), (31, 0)], x.1.toNat + x.2.toNat + 1 ≤ 32 ∧
    meets lab (.bfxN32 3 6 x.1 x.2) any_ = true ∧ meets lab (.bfxI32 3 6 x.1 x.2) any_ = true ∧
    meets lab (.bfi 3 6 x.1 x.2) any_ = true := by decide +kernel
theorem witness_PredicatesAndMoves : ∀ i ∈ [Instr.icmp 6 0 6 .i32 .lt, .plop 0 7 1 6, .mov 3 5 0, .movi 3 0, .selP0P3 3 5 6 0 3,
    .selP4P7 3 5 6 0 3], meets lab i any_ = true := by decide +kernel
/-- The index 0 from base 127, the last register, and an index far beyond it. -/
theorem witness_IndexedMoves :
    meets lab (.movx 3 0 127 0) (lanesOk fun c => decide (127 + (c.g 0).toNat < c.cfg.gregs)) = true ∧
    meets lab (.movx 3 6 127 0) (laneBad fun c => decide (127 + (c.g 6).toNat < c.cfg.gregs)) = true ∧
    meets lab (.movxw 127 0 5 0) (lanesOk fun c => decide (127 + (c.g 0).toNat < c.cfg.gregs)) = true ∧
    meets lab (.movxw 127 6 5 0) (laneBad fun c => decide (127 + (c.g 6).toNat < c.cfg.gregs)) = true ∧
    meets lab (.movx 3 0 127 0) (fun b s => (b.each s).all fun c => !b.pending [.g (127 + (c.g 0).toNat)]) = true := by decide +kernel
theorem witness_Fp32Arithmetic : ∀ i ∈ [Instr.fadd 3 5 6 0, .fsub 3 5 6 0, .fmul 3 5 6 0, .ffma 3 5 6 0, .fdiv 3 5 0 0, .fscale 3 5 6 0,
    .fmin 3 5 6 0, .fmax 3 5 6 0, .fcmp 6 5 6 .unord], meets lab i any_ = true := by decide +kernel
theorem witness_Fp32Functions : ∀ i ∈ [Instr.frcp 3 0 0, .frsq 3 5 0, .fsqrt 3 6 0, .fexp2 3 5 0, .flog2 3 0 0, .fsin 3 5 0, .fcos 3 5 0],
    meets lab i any_ = true := by decide +kernel
theorem witness_Fp64Arithmetic : ∀ i ∈ [Instr.dadd 126 0 2 0, .dmul 0 0 0 0, .dfma 2 4 6 0], meets lab i any_ = true := by decide +kernel
theorem witness_PackedHalves : ∀ i ∈ [Instr.hadd2F16 3 5 6 0, .hadd2Bf16 3 5 6 0, .hmul2F16 3 5 6 0, .hmul2Bf16 3 5 6 0, .hfma2F16 3 5 6 0,
    .hfma2Bf16 3 5 6 0, .hmin2F16 3 5 6 0, .hmin2Bf16 3 5 6 0, .hmax2F16 3 5 6 0, .hmax2Bf16 3 5 6 0], meets lab i any_ = true := by decide +kernel
theorem witness_Conversions : ∀ i ∈ [Instr.cvt 2 5 .rne .f64 .f32, .cvt 3 4 .sr .f16 .f64, .cvtn 3 126 .rne (.slot 0) .f32,
    .cvtw 126 3 .rz .f32 (.slot 0)], meets lab i any_ = true := by decide +kernel
/-- AADVI by 1,023, the largest step, stays in the window of 4,096 bytes; by −1 it leaves it. A narrowing to 0 bytes fails. -/
theorem witness_AddressRegisters :
    (∀ i ∈ [Instr.ader 0 0, .ader 7 15, .aget 3 1 0 0, .aget 3 1 9 0], meets lab i any_ = true) ∧
    meets lab (.anarrow 1 0 5 0) (lanesOk fun c => let r := c.th.ar 1
      r.valid && decide ((c.g 5).toNat % 2 ^ 30 ≠ 0 ∧ r.ptr.toNat + (c.g 0).toNat + (c.g 5).toNat % 2 ^ 30 - 1 ≤ r.limit.toNat)) = true ∧
    meets lab (.anarrow 1 0 0 0) (laneBad fun c => decide ((c.g 0).toNat % 2 ^ 30 ≠ 0)) = true ∧
    meets lab (.aadv 1 0 0) (lanesOk fun c => let r := c.th.ar 1
      r.valid && decide ((r.base.toNat : Int) ≤ r.ptr.toNat + (c.g 0).toInt ∧ (r.ptr.toNat : Int) + (c.g 0).toInt ≤ r.limit.toNat)) = true ∧
    meets lab (.aadv 1 6 0) (laneBad fun c => decide (((c.th.ar 1).base.toNat : Int) ≤ (c.th.ar 1).ptr.toNat + (c.g 6).toInt)) = true ∧
    meets lab (.aadvi 1 1023) (lanesOk fun c => let r := c.th.ar 1
      r.valid && decide (c.hints.imm = none ∧ (r.base.toNat : Int) ≤ r.ptr.toNat + 1023 ∧ (r.ptr.toNat : Int) + 1023 ≤ r.limit.toNat)) = true ∧
    meets lab (.aadvi 1 2047) (laneBad fun c => decide (((c.th.ar 1).base.toNat : Int) ≤ (c.th.ar 1).ptr.toNat + (2047 : BitVec 11).toInt)) =
      true := by decide +kernel
theorem witness_TangentMoves : ∀ i ∈ [Instr.dget 3 5 0 0, .dset 3 5 0 0, .dseed 3 0 0], meets lab i any_ = true := by decide +kernel
theorem witness_SpecialValues : meets lab (.sread 3 0) any_ = true ∧ (0xB : BitVec 10).toNat ≤ 0xB ∧ meets lab (.sread 3 0xB) any_ = true ∧
    meets lab (.rand 3) any_ = true := by decide +kernel

/-! ### Witnesses: collectives and tiles -/

theorem witness_CrossLane : ∀ i ∈ [Instr.shflIdx 3 5 6 0, .shflUp 3 5 0 0, .shflDown 3 5 6 0, .shflXor 3 5 7 0, .voteAny 0 7 0, .voteAll 6 0 0,
    .voteBallot 3 7 0, .lreduce 3 5 .fadd], gathers lab i (fun _ _ _ _ => true) = true := by decide +kernel
/-- The destination is configured, of the shape that the form asks for, free, and the graph is empty. -/
def appends (i : Instr) (m : Nat) (ops : List Nat) (shape : LaunchCfg → Warp → TCfg → Bool) : Bool :=
  gathers lab i fun b1 s1 wi x => match x.conf b1.u.cfg m, x.lead with
    | some td, some _ => shape b1.u.cfg x td && (m :: ops).all (fun k => !(s1.core b1.g.core).evaluating (b1.wid wi) x k) && x.graph == []
    | _, _ => false
/-- The shape of an unflagged elementwise form: A and, in full, B of the destination's shape. -/
def sameShape (ms : List Nat) (c : LaunchCfg) (w : Warp) (td : TCfg) : Bool :=
  ms.all fun m => (w.conf c m).map (fun t => (t.rows, t.cols)) == some (td.rows, td.cols)
def shapeIs (m r k : Nat) (c : LaunchCfg) (w : Warp) (_ : TCfg) : Bool := (w.conf c m).map (fun t => (t.rows, t.cols)) == some (r, k)
theorem witness_TileNodes :
    appends (.tmma 0 1 2 0 .idef false false) 0 [1, 2, 0] (fun c w td => (w.lead.map fun t => mmaOk 1 2 0 false false c w t td).getD false) = true ∧
    appends (.tmloop 0 0 1 0) 0 [0] (fun _ w td => td.acc && (w.lead.map fun t => (t.gr 3).val.toNat % 2 ^ 21 == 0).getD false) = true ∧
    appends (.tadd 2 1 1 0 true .full false false) 2 [1, 1] (sameShape [1]) = true ∧
    appends (.temul 2 1 3 0 .row false false) 2 [1, 3] (shapeIs 3 1 2) = true ∧
    appends (.tscl 2 1 4 0 false false false) 2 [1, 4] (shapeIs 4 2 1) = true ∧
    appends (.tsclPow 2 1 0 0 false) 2 [1] (sameShape [1]) = true ∧
    appends (.ttr 2 1) 2 [1] (shapeIs 1 2 2) = true ∧
    appends (.tcvt 2 0 0 .sr false) 2 [0] (sameShape [0]) = true ∧
    appends (.tact 2 1 0 .relu false) 2 [1] (sameShape [1]) = true ∧
    appends (.trsum 4 1 0 true false) 4 [1, 4] (fun c w td => shapeIs 1 2 2 c w td && td.rows == 2 && td.cols == 1) = true ∧
    appends (.tzero 0) 0 [] (fun _ _ _ => true) = true := by decide +kernel
/-- No tile from m5 on has a configuration. -/
def bare (i : Instr) (m : Nat) : Bool := gathers lab i fun b1 _ _ x => (x.conf b1.u.cfg m).isNone && x.lead.isSome
theorem witness_TileNodesFault :
    (∀ i ∈ [Instr.tmma 5 1 2 0 .idef false false, .tmloop 5 0 1 0, .tadd 5 1 1 0 true .full false false, .temul 5 1 3 0 .row false false,
      .tscl 5 1 4 0 false false false, .tsclPow 5 1 0 0 false, .ttr 5 1, .tcvt 5 0 0 .sr false, .tact 5 1 0 .relu false,
      .trsum 5 1 0 true false, .tzero 5], bare i 5 = true) ∧
    gathers lab (.tadd 2 1 3 0 true .full false false) (fun b1 _ _ x => x.lead.isSome && match x.conf b1.u.cfg 2 with
      | some td => !sameShape [1, 3] b1.u.cfg x td
      | none => false) = true := by decide +kernel
/-- `lab` with a value in g5. -/
def labG5 (v : Word) : State := lab.modThread ⟨1, 0, 0⟩ 0 fun t => { t with g := modAt t.g 5 fun r => ⟨v, r.sh, 0⟩ }
theorem witness_NodeAppended : (lab.warp? ⟨1, 0, 0⟩).map (fun w => decide (15 < w.tiles.length)) = some true := by decide +kernel
/-- A warp's tile that nothing holds, as one Bool. -/
def freeTile (b : Bundle) (s : State) (wi : Nat) (w : Warp) (m : Nat) : Bool :=
  (w.tile m).inflight.isNone && !(s.core b.g.core).evaluating (b.wid wi) w m && w.graph == []
/-- The index in g11, row 0 and column 4, names no element of m1. -/
def badIndex (i : Instr) : Bool := gathers lab i fun b _ _ x => x.lead.isSome && match x.conf b.u.cfg 1 with
  | some tc => x.live.any fun l => ((x.threads[l]?).map fun t => !tidxOk tc (t.gr 11).val.toNat).getD false
  | none => false
theorem witness_TileEagerWrites :
    gathers lab (.tcfg 15 9) (fun b s wi x => freeTile b s wi x 15 && (x.lead.map fun t => cfgWord b.u.cfg (t.gr 9).val.toNat == .ok).getD false) =
      true ∧
    gathers lab (.tdrop 1) (fun b s wi x => freeTile b s wi x 1 && (x.conf b.u.cfg 1).isSome) = true ∧
    gathers lab (.twr 1 5 0) (fun b s wi x => freeTile b s wi x 1 && match x.conf b.u.cfg 1 with
      | some tc => x.live.all fun l => ((x.threads[l]?).map fun t => tidxOk tc (t.gr 0).val.toNat).getD true
      | none => false) = true ∧
    (∀ y ∈ [((2 : Word) ^ 13, CfgWord.unset), (2 ^ 17, .bad)], gathers (labG5 y.1) (.tcfg 15 5) (fun b _ _ x =>
      (x.lead.map fun t => cfgWord b.u.cfg (t.gr 5).val.toNat == y.2).getD false) = true) ∧
    bare (.tdrop 5) 5 = true ∧ bare (.twr 5 5 0) 5 = true ∧ badIndex (.twr 1 5 11) = true := by decide +kernel
/-- A node pends on m2 once TADD has been appended. -/
def labNode : State :=
  let s := after (.tadd 2 1 1 0 false .full false false) lab
  s.modWarp ⟨1, 0, 0⟩ fun w => { w with threads := modAt w.threads 0 fun t => { t with pc := 0x1000 } }
theorem witness_TileReads :
    gathers labNode (.teval 2) (fun b _ _ x => (x.conf b.u.cfg 2).isSome && x.lead.isSome &&
      x.graph.any (fun n => n.dst == (2, (x.tile 2).ver)) && x.tl < 62) = true ∧
    gathers lab (.teval 2) (fun b s wi x => (x.conf b.u.cfg 2).isSome && x.lead.isSome && freeTile b s wi x 2) = true ∧
    gathers lab (.trd 3 1 0) (fun b s wi x => x.lead.isSome && freeTile b s wi x 1 && match x.conf b.u.cfg 1 with
      | some tc => x.live.all fun l => ((x.threads[l]?).map fun t => tidxOk tc (t.gr 0).val.toNat).getD true
      | none => false) = true ∧
    (∀ sel ∈ [(0 : BitVec 3), 3, 4], gathers lab (.tstat 3 1 sel) (fun b s wi x => x.lead.isSome && freeTile b s wi x 1 &&
      (s.core b.g.core).evalCur.isNone) = true) ∧
    bare (.teval 5) 5 = true ∧ bare (.trd 3 5 0) 5 = true ∧ badIndex (.trd 3 1 11) = true := by decide +kernel

/-! ### Witnesses: memory -/

/-- The bytes that lane 0 of `lab` reaches through a0, none of them under a fill. -/
def labParts (b : Bundle) (va : Int) (n : Nat) : List Part := b.lanes.flatMap fun (_, _, l, t) => accParts b.u (t.ar 0) l 0 va n 0 0 []
def clearOf (b : Bundle) (s : State) (ps : List Part) : Bool :=
  ps.all fun p => p.space == .local && !s.fillPending b.g.core p.addr p.n
/-- A load of `n` bytes at `va` through a0 by an issue that may go. -/
def loads (i : Instr) (regs : List RegName) (va n : Nat) : Bool :=
  meets lab i fun b s => lanesOk (fun c => inReg (c.th.ar 0) va n true false) b s &&
    b.mayGo s (some .ld) (fun t => t.maskOf (.a 0 :: regs)) && clearOf b s (labParts b va n)
/-- The first and the last double word of the window, and the first byte beyond it. -/
theorem witness_LaneLoads :
    loads (.ld 4 0 0 .b32 .norm) [] 0x2000 4 = true ∧ loads (.ld 4 0 511 .b64 .byp) [] 0x2FF8 8 = true ∧
    loads (.ldx 4 0 5 .b8 .keep) [.g 5] 0x2010 1 = true ∧ loads (.ldAcq 4 0 .sys 0 .b32 .norm) [] 0x2000 4 = true ∧
    meets lab (.ld 4 0 512 .b64 .norm) (laneBad fun c => inReg (c.th.ar 0) 0x3000 8 true false) = true := by decide +kernel
/-- a1 is the range window w8 of 256 bytes at 0x4000, which nothing holds resident; then mapped onto the scratchpad. -/
def labRange : State :=
  let win : Window := ⟨true, 0x4000, 256, true, true, 0, .local, 0x4000, true⟩
  let s := lab.modUnit 1 fun u => { u with windows := modAt u.windows 8 fun _ => win }
  s.modThread ⟨1, 0, 0⟩ 0 fun t => { t with a := modAt t.a 1 fun _ => deriveWindow (List.replicate 8 win ++ [win]) 8 }
def labStash : State := after (.smap 1 0) labRange
/-- A release of 4 bytes at the start of that stash window: no slice holds it, so it waits at its issue, and may go. -/
def inStash (rd wr : Bool) (b : Bundle) (s : State) : Bool :=
  let ps := b.lanes.flatMap fun (_, _, l, t) => accParts b.u (t.ar 1) l 0 0x4000 4 0 0 []
  lanesOk (fun c => inReg (c.th.ar 1) 0x4000 4 rd wr) b s && ps.all (·.space == .stash) && ps != [] && !slicesHold true .dev ps &&
    b.relReady s .dev && !s.heldUp b.u (placesOf ps) && b.carriedKnown fun t => t.maskOf [.a 1, .g 4]
/-- A store of `n` bytes at `va`: its operands' times are known and nothing reads its bytes. -/
def stores (i : Instr) (regs : List RegName) (va n : Nat) (rel : Bool) (sc : Scope) : Bool :=
  meets lab i fun b s => lanesOk (fun c => inReg (c.th.ar 0) va n false true) b s && b.mayGo s (some .st) (fun _ => 0) &&
    b.carriedKnown (fun t => t.maskOf (.a 0 :: regs)) && !s.heldUp b.u (placesOf (labParts b va n)) &&
    b.parts.all (fun x => x.2.1.graph == []) && (!rel || b.relReady s sc)
theorem witness_LaneStores :
    stores (.st 4 0 1 .b32 .norm) [.g 4] 0x2004 4 false .dev = true ∧ stores (.stx 4 0 5 .b8 .strm) [.g 5, .g 4] 0x2010 1 false .dev = true ∧
    stores (.stRel 4 0 .warp 0 .b32 .norm) [.g 4] 0x2000 4 true .warp = true ∧
    stores (.stRel 4 0 .dev 0 .b32 .norm) [.g 4] 0x2000 4 false .dev = true ∧
    meets labStash (.stRel 4 1 .dev 0 .b32 .norm) (inStash false true) = true := by decide +kernel
/-- The last 16 bytes of the scratchpad of 4,096. -/
theorem witness_ScratchpadAndPointers :
    meets lab (.lds 4 0 .b128 255) (fun b s => lanesOk (fun c => decide (((c.g 0).toNat + 255 * 16) % 2 ^ 32 + 16 ≤ c.cfg.csize * c.cfg.spad) &&
      c.unit.stash == []) b s && b.mayGo s (some .ld) (fun _ => 0)) = true ∧
    meets lab (.sts 4 0 .b128 255) (fun b s => lanesOk (fun c => decide (((c.g 0).toNat + 255 * 16) % 2 ^ 32 + 16 ≤ c.cfg.csize * c.cfg.spad) &&
      c.unit.stash == []) b s && b.mayGo s (some .st) (fun _ => 0)) = true ∧
    meets lab (.aldp 1 0 255 true .norm) (fun b s => lanesOk (fun c => inReg (c.th.ar 0) 0x2FF0 16 true false) b s &&
      b.mayGo s (some .ld) (fun t => (t.ar 0).mask) && clearOf b s (labParts b 0x2FF0 16)) = true := by decide +kernel
theorem witness_AtomicIssues :
    ([(Instr.atom 4 0 .dev .iadd false .rlx, 4, 1, false), (.atom 4 0 .warp .fadd64 true .ar, 8, 2, true),
        (.cas 4 0 .sys true .acq, 8, 4, false)].all fun (i, n, k, rel) => meets lab i (fun b s =>
      lanesOk (fun c => inReg (c.th.ar 0) (c.th.ar 0).ptr.toNat n true true && (c.th.ar 0).ptr.toNat % n == 0) b s &&
      b.mayGo s (some .ld) (fun t => (t.ar 0).mask) && b.carriedKnown (fun t => t.maskOf (.a 0 :: gGroup 4 k)) &&
      !s.heldUp b.u (placesOf (labParts b 0x2000 n)) && b.parts.all (fun y => y.2.1.graph == []) && (!rel || b.relReady s .warp))) = true ∧
    meets labStash (.atom 4 1 .dev .iadd false .ar) (inStash true true) = true := by decide +kernel
theorem witness_WaitsAndPrefetch :
    meets lab (.waitcmp 4 0 false .ge true) (fun b s => lanesOk (fun c => inReg (c.th.ar 0) (c.th.ar 0).ptr.toNat 8 true false &&
        (c.th.ar 0).ptr.toNat % 8 == 0 && (c.unit.resolve (c.th.ar 0) (c.th.ar 0).ptr.toNat).1 != .stash) b s &&
      !b.ckptWaits s Thread.lastRegion && b.mayGo s none (fun t => (t.ar 0).mask) &&
      b.lanes.all fun x => regionTiles b.u.cfg x.2.2.2.lastRegion == []) = true ∧
    meets lab (.pref 0 0 7 .norm) any_ = true ∧
    (∀ sc ∈ [Scope.warp, .clus, .sys], meets lab (.fence sc) (fun b s => b.parts.all fun x =>
      let k := b.fenceBound s
      let w := b.wid x.1
      s.loadsDone w k && s.arrivedAll w k && s.clear w (sc == .sys) k && s.loadTimes w k) = true) := by decide +kernel

/-! ### Witnesses: control, barriers, transfers, stash, regions -/

/-- A target at the one word of the code, and one just past it. -/
theorem witness_Branches :
    (∀ i ∈ [Instr.brp 7 true 0, .bra 0 .z 0, .brx 0, .ret 7 true, .call 7 true 0, .brp 0 true 1],
      meets lab i (lanesOk fun c => decide (c.cfg.entry.toNat ≤ c.th.pc.toNat ∧ c.th.pc.toNat < c.cfg.entry.toNat + c.cfg.codesize) &&
        decide ((c.g 0).toNat % 4 = 0 ∧ (c.g 0).toNat < c.cfg.codesize)) = true) ∧
    (∀ i ∈ [Instr.brp 7 true 1, .bra 0 .z 1, .call 7 true 1], meets lab i (laneBad fun c =>
      decide (c.th.pc.toNat + 4 < c.cfg.entry.toNat + c.cfg.codesize)) = true) ∧
    meets lab (.brx 11) (laneBad fun c => decide ((c.g 11).toNat < c.cfg.codesize)) = true := by decide +kernel
theorem witness_ThreadControl :
    (∀ i ∈ [Instr.exit 7 true, .exit 0 true, .nop, .reform, .yield, .trap 1023], meets lab i any_ = true) ∧
    meets lab (.waitc 0 63 0 62) (fun b _ => b.parts.all fun x => x.2.1.ld ≤ 0 && x.2.1.xf ≤ 0 && x.2.1.tl ≤ 62) = true := by
  decide +kernel
theorem witness_HintsAndUntaint : ∀ i ∈ [Instr.imm 0x1FFFFFF, .mod_ true false false false 0 none, .tan, .untaint 127],
    meets lab i any_ = true := by decide +kernel
/-- Barrier b0 counts 2; a store of the warp is under way in `labStore`. -/
def labBar : State := lab.modWg 1 0 fun g => { g with bars := modAt g.bars 0 fun y => { y with count := 2, pending := 2, phase := true } }
def labStore : State := after (.st 4 0 1 .b32 .norm) labBar
/-- An arrival that waits for no store. -/
def labArriveAt (n : Nat) : State := labBar.newOp fun id => MemOp.plain ⟨1, 0, 0⟩ 0 0x1000 (.arrive n) [0] [] id
def labArrive : State := labArriveAt 0
theorem witness_BarrierInstructions :
    meets lab (.barInit 31 7) (lanesOk fun c => decide ((c.g 7).toNat ≤ 4096)) = true ∧ meets lab (.barExpect 0 5) any_ = true ∧
    meets labBar (.barArrive 0) (fun b s => b.parts.all (fun x => s.storesOf (b.wid x.1) == []) && (s.bar b.u.id b.wg 0).count != 0) = true ∧
    meets labStore (.barArrive 0) (fun b s => b.parts.any fun x => s.storesOf (b.wid x.1) != []) = true ∧
    meets labBar (.barWait 0 0) (fun b s => decide ((s.bar b.u.id b.wg 0).ltime.toNat ≤ s.now b.g.core) &&
      b.lanes.all fun x => (s.bar b.u.id b.wg 0).phase != (x.2.2.2.gr 0).val.getLsbD 0) = true ∧
    meets lab (.barWait 0 0) (fun b s => b.lanes.all fun x => !x.2.2.2.barSeen && (s.bar b.u.id b.wg 0).phase == (x.2.2.2.gr 0).val.getLsbD 0) = true ∧
    lab.ops = [] ∧ labBar.ops = [] ∧ labStore.ops.all (fun o => o.kind == .store) = true ∧
    ((labArriveAt 1).op? labBar.nextId).any (fun o => o.kind == .arrive 1 && o.waitSt == [] && o.group == o.id && !(labArriveAt 1).barAhead o &&
      (labArriveAt 1).mayRetire o.w && ({ labArriveAt 1 with ops := [] }.bundleOf 1 0 [(0, [0])]).isSome && ((labArriveAt 1).bar 1 0 1).count == 0) = true ∧
    (labArrive.op? labBar.nextId).any (fun o => o.kind == .arrive 0 && o.waitSt == [] && o.group == o.id &&
      ({ labArrive with ops := [] }.bundleOf 1 0 [(0, [0])]).isSome && (labArrive.bar 1 0 0).count != 0 &&
      (labArrive.ops.filter (·.group == o.group)).map (fun x => (x.w.warp, x.lanes)) == [(0, [0])]) = true := by decide +kernel
/-- A cluster's own barrier, and one of the workgroup of index 0. -/
theorem witness_BarrierPhases : (lab.wg? 1 0).any (fun g => decide (31 < g.bars.length)) = true := by decide +kernel
theorem witness_TransferIssues :
    meets lab (.xlr 15 0 0) (fun b s => lanesOk (fun c => inReg (c.th.ar 0) 0x2000 64 true false && (c.th.ar 0).ptr.toNat % 64 == 0) b s &&
      b.mayGo s (some .xf) (fun t => (t.ar 0).mask) && !s.heldUp b.u (placesOf (labParts b 0x2000 64))) = true ∧
    (∀ x ∈ [(Instr.xcp 1 2 0 .copy false, (fun _ => (⟨.xcp .copy, 1, [2], 0⟩ : XferAsk))), (.xred 1 2 0 0 false, fun _ => ⟨.xred 2, 1, [2, 3], 0⟩),
        (.xwalk 2 0 0 .coord false, fun _ => ⟨.xwalk .coord 0 0, 0, [2, 0], 0⟩)],
      meets lab x.1 (fun b s => b.parts.all (fun y => y.2.1.xf < 62 && s.warp? (b.wid y.1) == some y.2.1 &&
          y.2.2.all (· < y.2.1.threads.length) && y.2.1.threads.all fun t => !t.granted && t.fenceAt.isNone) &&
        decide (b.lanes.length ≤ (s.freeChannels b.u.pcl).length) && (forceForXfer s b x.2).isNone) = true) ∧
    meets lab (.xstat 3 0 3) any_ = true := by decide +kernel
/-- Window w8 is a declared range of 256 bytes that a1 covers; `labStash` has bound it. -/
theorem witness_StashInstructions :
    meets labRange (.smap 1 0) (fun b s => lanesOk (fun c => let a := c.th.ar 1
        a.valid && !a.arg && a.win == 8 && (c.windows[8]?).any (fun w => w.range && w.w && w.used) &&
        decide (a.base.toNat % 256 = 0 ∧ a.limit.toNat + 1 - a.base.toNat = 256 ∧ (c.g 0).toNat + 256 ≤ c.cfg.csize * c.cfg.spad) &&
        c.unit.stash == []) b s && s.channels == []) = true ∧
    meets lab (.smap 1 0) (fun b _ => b.lanes.any fun (_, _, _, t) => (smapCause b.u b.u.stash (t.ar 1) (t.gr 0).val.toNat).isSome) = true ∧
    (∀ i ∈ [Instr.sunmap 1, .sflush 1], meets lab i (laneBad fun c => (c.unit.stashAt (c.th.ar 1).ptr.toNat).isSome) = true) ∧
    (∀ i ∈ [Instr.sunmap 1, .sflush 1], meets labStash i (fun b s => lanesOk (fun c => (c.unit.stashAt (c.th.ar 1).ptr.toNat).isSome) b s &&
      b.mayGo s (some .st) (fun _ => 0) && s.ops == []) = true) := by decide +kernel
/-- The rows of m1, 4 bytes apart, lie in a0's window and in the scratchpad. -/
theorem witness_TileMemory :
    (∀ x ∈ [(Instr.tld 1 0 0 11, true), (.tst 1 0 0 11, false)], gathers lab x.1 (fun b s wi w => freeTile b s wi w 1 && w.tl < 62 &&
      b.mayGo s (some (if x.2 then .ld else .st)) (fun _ => 0) && match w.conf b.u.cfg 1, w.lead with
        | some tc, some t => visReached w.tags (t.maskOf [.a 0, .g 0, .g 11]) (s.now b.g.core) &&
            (visTime w.tags ((w.tile 1).mask ||| t.maskOf [.a 0, .g 0, .g 11])).isSome &&
            (tileSpans tc ((t.ar 0).ptr.toNat + (t.gr 0).val.toNat : Nat) (t.gr 11).val).all fun y =>
              inReg (t.ar 0) y.1 y.2.1 x.2 (!x.2) && clearOf b s (accParts b.u (t.ar 0) 0 0 y.1 y.2.1 0 0 [])
        | _, _ => false) = true) ∧
    ∀ x ∈ [(Instr.tlds 1 0 11, Counter.ld), (.tsts 1 0 11, .st)], gathers lab x.1 (fun b s wi w => freeTile b s wi w 1 && w.tl < 62 &&
      b.mayGo s (some x.2) (fun _ => 0) && b.u.stash == [] && match w.conf b.u.cfg 1, w.lead with
        | some tc, some t => (tileSpans tc (t.gr 0).val.toNat (t.gr 11).val).all fun y => y.1.toNat + y.2.1 ≤ b.u.cfg.csize * b.u.cfg.spad
        | _, _ => false) = true := by decide +kernel
/-- From 8 KiB on in a window of 4 KiB, and beyond any scratchpad; m5 has no configuration. -/
theorem witness_TileMemoryFault :
    (∀ i ∈ [Instr.tld 5 0 0 11, .tst 5 0 0 11, .tlds 5 0 11, .tsts 5 0 11], bare i 5 = true) ∧
    (∀ x ∈ [(Instr.tld 1 0 5 11, true), (.tst 1 0 5 11, false)], gathers (labG5 0x2000) x.1 (fun b _ _ w => match w.conf b.u.cfg 1, w.lead with
      | some tc, some t => ((tileSpans tc ((t.ar 0).ptr.toNat + (t.gr 5).val.toNat : Nat) (t.gr 11).val).findSome? fun y =>
          (t.ar 0).firstBad y.1 y.2.1 x.2 (!x.2)).isSome
      | _, _ => false) = true) ∧
    ∀ i ∈ [Instr.tlds 1 5 11, .tsts 1 5 11], gathers (labG5 0x40000000) i (fun b _ _ w => match w.conf b.u.cfg 1, w.lead with
      | some tc, some t => ((tileSpans tc (t.gr 5).val.toNat (t.gr 11).val).findSome? fun y => b.u.firstSpadBad y.1.toNat y.2.1).isSome
      | _, _ => false) = true := by decide +kernel
/-- Entry 0 lists g0 and no tile, entry 1 lists m1. -/
theorem witness_RegionCheckpoints :
    meets lab (.region 0) (fun b s => regionTiles b.u.cfg 0 == [] && !b.ckptWaits s fun _ => 0) = true ∧
    meets (after (.iadd 0 5 6 0 .i32) lab) (.region 0) (fun b s => regionTiles b.u.cfg 0 == [] && b.ckptWaits s fun _ => 0) = true ∧
    gathers lab (.region 1) (fun b s wi x => regionTiles b.u.cfg 1 == [1] && !b.ckptWaits s (fun _ => 1) && freeTile b s wi x 1) = true ∧
    meets lab .nop (fun b s => b.parts.all (fun p => s.warp? (b.wid p.1) == some p.2.1) && s.unit? b.u.id == some b.u) = true := by
  decide +kernel

/-! ### Witnesses: task and watch instructions, issues, faults, steps -/

/-- The work of the unit of `lab`: a GAIN job of four records, or none. -/
def labWork (job : Option JobCfg) : Work :=
  { id := 0, launchid := 5, queue := 0, ctx := 0, cfg := { probeCfg with slots := 2 :: List.replicate 7 0 }, grid := (1, 1, 1), record := 0x20000, windows := []
    winResident := true, pos := [.placed, .waiting], job := job, gains := List.replicate 4 ⟨0x3F800000, 0, 0, false, none, []⟩, resid := 0
    sat := false, nan := false, faults := 0, stopped := 0, dealt := 0, deques := [], chainC := 0, chainT := 0, waveA := none, wave := 0
    reqs := [], child := false, finished := false, gwct := 0, ending := 0, lost := none }
def labGain : JobCfg := ⟨0x6000, true, 4, 0x7000, 256, 0, 1, 1, 0⟩
def labJob : State := { lab with works := [labWork (some labGain)] }
def labGrid : State := { lab with works := [labWork none] }
def jobIs (f : JobCfg → Bool) (b : Bundle) (s : State) : Bool := ((s.work? b.u.work).bind (·.job)).any f
/-- The index 0 of four records. -/
theorem witness_TaskInstructions :
    meets lab (.jsub 4 0 0) (lanesOk fun c => inReg (c.th.ar 0) 0x2000 128 true true && (c.th.ar 0).ptr.toNat % 64 == 0) = true ∧
    (∀ i ∈ [Instr.gainadd 0 5, .gainset 0 5, .gainget 3 0], meets labJob i (fun b s => jobIs (fun j => j.gainMode &&
      lanesOk (fun c => decide ((c.g 0).toNat < j.count)) b s) b s) = true) ∧
    (∀ i ∈ [Instr.resadd 5, .resget 3 4], meets labJob i (jobIs fun _ => true) = true) ∧
    meets labGrid (.ordwait 0) (fun b s => (s.work? b.u.work).any fun w => decide (w.chainT ≤ s.now b.g.core) &&
      b.lanes.all fun x => (x.2.2.2.gr 0).val.toNat ≤ w.chainC) = true ∧
    meets labGrid (.ordpost 0) (fun b s => b.lanes.all fun x => (x.2.2.2.gr 0).val.toNat ≤ s.chainOf b.u (b.wid x.1)) = true := by
  decide +kernel
/-- The index 4 of four records, a launch that is no GAIN job, and one that is no job. -/
theorem witness_TaskArguments :
    (∀ i ∈ [Instr.gainadd 0 5, .gainset 0 5, .gainget 3 0, .resadd 5, .resget 3 0], meets labGrid i (fun b s =>
      b.each s != [] && !jobIs (fun _ => true) b s) = true) ∧
    (∀ i ∈ [Instr.gainadd 11 5, .gainset 11 5, .gainget 3 11], meets labJob i (fun b s => jobIs (fun j => j.gainMode &&
      laneBad (fun c => decide ((c.g 11).toNat < j.count)) b s) b s) = true) ∧
    meets lab (.jsub 4 0 0x3FF) (laneBad fun c => inReg (c.th.ar 0) 0x1FC0 128 true true) = true ∧
    meets labGrid (.ordpost 5) (fun b s => b.parts.any fun x => x.2.2.any fun l => ((x.2.1.threads[l]?).map fun t =>
      decide (s.chainOf b.u (b.wid x.1) < (t.gr 5).val.toNat)).getD false) = true := by decide +kernel
def labDbg : State := lab.setWatchWord 0 16 1
theorem witness_WatchInstructions :
    meets lab (.bkpt 1) (fun b s => natGet s.watch.words (32 * b.u.ctx + 16) % 2 == 0) = true ∧
    meets labDbg (.bkpt 1) (fun b s => natGet s.watch.words (32 * b.u.ctx + 16) % 2 == 1 && b.u.cfg.det == 0) = true ∧
    meets (labDbg.modUnit 1 fun u => { u with cfg := { u.cfg with det := 1 } }) (.bkpt 1) (fun b s =>
      natGet s.watch.words (32 * b.u.ctx + 16) % 2 == 1 && b.u.cfg.det != 0) = true ∧
    meets lab (.tmark 5 1023) (fun b s => b.parts.all fun x => s.clear (b.wid x.1) false (b.fenceBound s) &&
      s.loadTimes (b.wid x.1) (b.fenceBound s)) = true ∧
    meets lab (.sysrd 3 0x14) any_ = true ∧ meets lab (.syswr 8 5) any_ = true := by decide +kernel
theorem witness_IssueEffects : lab.bundle?.any (fun b => b.proper && b.parts.length == 1) = true := by decide +kernel
/-- GREGS 16, one tile; lane 0 as `f` makes it. -/
def labSmall (f : Thread → Thread) : State :=
  (lab.modUnit 1 fun u => { u with cfg := { u.cfg with gregs := 16, tiles := 1, det := 1 } }).modThread ⟨1, 0, 0⟩ 0 f
def stands (s : State) (i : Instr) (f : Bundle → Bool) : Bool := (encode i).isSome && s.bundle?.any fun b => b.idle && f b
def labTan : State := lab.modThread ⟨1, 0, 0⟩ 0 fun t => { t with hints := ⟨none, none, true⟩ }
/-- For each fault an instruction that meets it and none before it: SYSRD of a register that only exists to be written, NOP
after TAN, g16 of 16, m1 of one tile, a deferral of 4,096, a stall of 2^24 − 1. -/
theorem witness_IssueFaults :
    stands lab (.sysrd 3 0x11) (fun b => (Instr.sysrd 3 0x11).illegalIn b.u.cfg) = true ∧
    stands (labSmall fun t => { t with hints := ⟨none, none, true⟩ }) .nop (fun b => (Instr.nop.badHint b.u.cfg b.hints).isSome) = true ∧
    stands (labSmall id) (.iadd 16 0 0 0 .i32) (fun b => (Instr.iadd 16 0 0 0 .i32).regOver b.u.cfg == some 16) = true ∧
    stands (labSmall fun t => { t with defer := some ⟨0x1000, 4096⟩ }) .nop (fun b => Instr.nop.regOver b.u.cfg == none && b.deferHits != []) = true ∧
    stands ((labSmall id).modWarp ⟨1, 0, 0⟩ fun w => { w with stall := 2 ^ 24 - 1 }) .nop (fun b => b.deferHits == [] && b.stallHits != []) = true ∧
    stands (after (.iadd 3 5 6 0 .i32) lab) (.mov 4 3 0) (fun b => b.free (.mov 4 3 0) && b.pending ((Instr.mov 4 3 0).waitRegs b.u.cfg)) = true ∧
    (lab.modThread ⟨1, 0, 0⟩ 0 fun t => { t with busy := some 9 }).bundle?.any (fun b => !b.idle) = true ∧
    (labSmall id).bundle?.any (fun b => b.idle && match b.parts with
      | [(_, w, ls)] => ls == w.live && w.arrival == none && (((labSmall id).joined b (.tzero 1)).bundleOf b.u.id b.wg [(0, [0])]).any fun b1 =>
          b1.parts.map (·.1) == [0] && b1.u.state == .running && (Instr.tzero 1).tiles.find? (· ≥ b1.u.cfg.tiles) == some 1
      | _ => false) = true ∧
    -- REGION beyond the table; of an entry without tiles; and of one that lists m1, whose warp has a hint pending
    stands lab (.region 2) (fun b => regionTiles b.u.cfg 2 == [] && (Instr.region 2).illegalIn b.u.cfg) = true ∧
    stands labTan (.region 0) (fun b => regionTiles b.u.cfg 0 == [] &&
      !(Instr.region 0).illegalIn b.u.cfg && ((Instr.region 0).badHint b.u.cfg b.hints).isSome) = true ∧
    labTan.bundle?.any (fun b => b.idle && regionTiles b.u.cfg 1 == [1] && match b.parts with
      | [(_, w, ls)] => ls == w.live && w.arrival == none && ((labTan.joined b (.region 1)).bundleOf b.u.id b.wg [(0, [0])]).any fun b1 =>
          b1.parts.map (·.1) == [0] && b1.u.state == .running && !(Instr.region 1).illegalIn b1.u.cfg && ((Instr.region 1).badHint b1.u.cfg b1.hints).isSome
      | _ => false) = true ∧
    meets lab (.ld 4 0 0x3FF .b32 .norm) (laneBad fun c => inReg (c.th.ar 0) 0x1FFC 4 true false) = true ∧
    (∀ i ∈ [Instr.lds 3 6 .b8 0, .sts 3 6 .b32 0], meets lab i (laneBad fun c =>
      decide ((c.g 6).toNat + 1 ≤ c.cfg.csize * c.cfg.spad)) = true) ∧
    (∀ i ∈ [Instr.atom 3 0 .dev .fadd32 false .rlx, .cas 4 0 .dev false .rlx, .waitcmp 4 0 false .ne false], meets (lab.modThread ⟨1, 0, 0⟩ 0 fun t =>
      { t with a := modAt t.a 0 fun a => { a with ptr := 0x2002 } }) i (laneBad fun c => (c.th.ar 0).ptr.toNat % 4 == 0) = true) ∧
    meets lab (.aldp 3 0 0x3FF false .norm) (laneBad fun c => inReg (c.th.ar 0) 0x1FF8 8 true false) = true ∧
    meets lab (.xlr 3 0 0x3FF) (laneBad fun c => inReg (c.th.ar 0) 0x1FC0 64 true false && (0x1FC0 % 64 == 0)) = true ∧
    meets labStash (.waitcmp 4 1 false .ne false) (fun b s => lanesOk (fun c => let a := c.th.ar 1
        inReg a a.ptr.toNat 4 true false && a.ptr.toNat % 4 == 0 && (b.u.resolve a a.ptr.toNat).1 == .stash) b s) = true ∧
    ((lab.modWarp ⟨1, 0, 0⟩ fun w => { w with arrival := some ⟨0x1004, Hints.none, .tzero 1, [1]⟩ }).bundle?.any fun b =>
      b.idle && b.parts.length == 1 && b.pc != 0x1004) = true ∧
    meets lab (.barInit 31 6) (laneBad fun c => decide ((c.g 6).toNat ≤ 4096)) = true := by decide +kernel
/-- A queue whose fault ring of 16 records lies in device memory; a page that covers it. -/
def labMem : State :=
  let queue (q : Queue) : Queue := { q with fring := 0x5004, enable := true, size := 4, rbase := 8 }
  let ctx (c : Ctx) : Ctx := { c with ptroot := 0x100, mapbase := 0x104, mapcnt := 1, save := 0x200, slots := 4 }
  let mem := [(0x100000, 0x101000), (0x101000, 0x102000)].foldl
    (fun (m : Memory) (x : Nat × Nat) => memWrite m x.1 (natBytes 8 (2 ^ 63 + x.2))) []
  let mem := memWrite mem 0x102000 (natBytes 8 (2 ^ 63 + 2 ^ 62 + (2 ^ 18 - 1) * 4096 + 3))
  { lab with
    home := { lab.home with mem := memWrite mem 0x104000 (natBytes 32 (2 ^ 30 * 2 ^ 72)) }
    ctxs := modAt lab.ctxs 0 ctx
    queues := modAt lab.queues 0 queue
    amc := { lab.amc with mode := 1 } }
def labDump : State := { labMem with watch := { labMem.watch with dslots := 2, dbase := 0x300 } }
theorem witness_FaultsTaken :
    (labMem.unit? 1).any (fun u => decide (u.queue < labMem.queues.length) && u.wgs.length == 1) = true ∧
    labMem.watch.dslots = 0 ∧ labMem.watch.dump = none ∧ (labMem.queue 0).host = false ∧ (labMem.queue 0).fring.toNat % 32 = 4 ∧
    writable labMem 0 0x5000 64 0x5000 ∧ labDump.watch.dslots ≠ 0 ∧
    (labDump.watch.dhead - labDump.watch.dtail).toNat ≠ labDump.watch.dslots.toNat ∧ labDump.watch.dump = none := by
  simp only [writable, State.memWf]; decide +kernel
/-- IADD stands at the fetch address of reset; its decoding, the fetch, and the ways a step can go. -/
def labFetch : State := State.reset.withFetchWord 32 ((encode (.iadd 3 1 2 0 .i32)).getD 0)
def goesTo (s : State) (f : State → Bool) : Bool := match step s with | .next t => f t | _ => false
/-- The same state once the move at its agenda's head is taken from it. -/
def labTaken : State := { labFetch with agenda := [] }
def labHere : State := { labFetch with issue := ⟨1, 0, [(0, [0])]⟩ }
/-- Port 0 of core 0 is busy with an issue. -/
def labBusy : State := labTaken.modCore 0 fun c => { c with issues := [⟨0, 1, 0, [(0, [0])], 0x1000, 0, 0, 2⟩] }
theorem witness_StepRunsDecoded :
    labFetch.agenda = [.issue 0 0] ∧
    (((labTaken.core 0).ports[0]?).any fun p => labTaken.portFree 0 0 && match labTaken.portOrder p with
      | x :: _ => match labTaken.runAt x.unit x.wg x.parts with
        | .next t => labTaken.issueMark x.unit x.wg x.parts != t.issueMark x.unit x.wg x.parts
        | _ => false
      | [] => false) = true ∧
    labHere.bundle?.any (fun b => b.idle && b.u.fetched == none && b.u.cfg.entry == b.pc &&
      decide (0 < b.u.cfg.codesize) && decode (bytesNat (memRead b.u.code 0 4)) == some (.iadd 3 1 2 0 .i32)) = true ∧
    lab.bundle?.any (fun b => b.idle && decode (bytesNat (memRead b.u.code 0 4)) == none) = true ∧
    (lab.modThread ⟨1, 0, 0⟩ 0 fun t => { t with pc := 0x1004 }).bundle?.any (fun b => b.idle &&
      decide (b.u.cfg.entry.toNat + b.u.cfg.codesize ≤ b.pc.toNat)) = true ∧
    (lab.modUnit 1 fun u => { u with fetched := some [] }).bundle?.any (fun b => b.idle && b.u.fetched == some []) = true ∧
    goesTo { lab with agenda := [.event .feResume] } (fun _ => true) = true ∧ encode .feResume = none ∧
    goesTo { lab with agenda := [.clk] } (fun t => t.clk == 1) = true ∧
    (let s := lab.modUnit 1 fun u => { u with cfg := { u.cfg with det := 1 } }
     (s.unit? 1).any fun u => u.cfg.det != 0 && s.mayRetire u.owner && s.portFree (s.coreOf u.owner) 0 && !s.filing u.owner &&
       s.turnLanes u.owner != [] && (s.turnLanes u.owner).all (s.binReady u.owner ·) && (s.warp? u.owner).any fun w => w.live != [] && w.slot % 2 == 0) = true ∧
    (let s := lab.modThread ⟨1, 0, 0⟩ 0 fun t => { t with step := true }
     (s.thread? ⟨1, 0, 0⟩ 0).any (·.step) && s.portFree (s.coreOf ⟨1, 0, 0⟩) 0 && (s.warp? ⟨1, 0, 0⟩).any (·.slot == 0)) = true ∧
    (!(labBusy.portFree 0 0)) = true ∧ lab.agenda = [] := by
  decide +kernel
theorem witness_DecodeEncode : (Instr.iadd 127 127 127 3 .n32).wellFormed = true ∧ (encode (.iadd 127 127 127 3 .n32)).isSome = true := by decide
theorem witness_StepKeepsMemory : State.reset.allWf ∧ goesTo State.reset (fun _ => true) = true := by
  simp only [State.allWf, State.memWf, Placed.memWf]; decide +kernel

/-! ### Witnesses: the Home engine -/

def aPart (sp : Space) (a : Nat) (bs : List Byte) : Part := ⟨0, 0, sp, a, 4, 0, bs, [], .sent, 0, 0⟩
/-- An operation of `lab`'s warp with one part. -/
def withOp (s : State) (k : OpKind) (p : Part) (f : MemOp → MemOp) : State := s.newOp fun id => f (MemOp.plain ⟨1, 0, 0⟩ 0 0x1000 k [0] [p] id)
/-- The operation stands alone, its part at its place and held up by none, and `f` of both. -/
def comes (s : State) (f : MemOp → Part → Bool) : Bool := match s.part? 2 0 with
  | some (o, p) => p.st == .sent && !s.blocked o 0 p && !s.behind o 0 p && f o p
  | none => false
def isOk (r : ReadRes) : Bool := match r with | .ok _ => true | _ => false
def aLoad : OpKind := .load 4 .b32 false
/-- `labStash` with memory. -/
def memStash : State := { labStash with home := labMem.home, ctxs := labMem.ctxs, nextId := 2 }
/-- Its first line filled. -/
def memFilled : State := memStash.modUnit 1 fun u => { u with stash := u.stash.map fun st => { st with lines := natSet st.lines 0 1 } }
def aWait (v : Nat) : OpKind := .waitcmp 4 .ge false [(0, v)]
def isBad (r : ReadRes) : Bool := match r with | .bad .. => true | _ => false
/-- A unit of host memory and one of peer 255 are in error. -/
def labSick : State := { labMem with home := { labMem.home with hostPoison := [0x2000], peerErrs := [(255, 0x2000)] } }
theorem witness_HomeReads :
    (∀ sp ∈ [Space.host, .peer 255, .spad], comes (withOp labMem aLoad (aPart sp 0x2000 []) id) (fun o _ => o.kind.isRead) = true) ∧
    labMem.home.hostPoison = [] ∧ labMem.home.peerErrs = [] ∧
    (∀ sp ∈ [Space.host, .peer 255], comes (withOp labSick aLoad (aPart sp 0x2004 []) id) (fun _ p => p.far &&
      isBad (labSick.readSpan 0 p.space p.addr p.n)) = true) ∧
    comes (withOp labMem aLoad (aPart .local (2 ^ 40) []) id) (fun o p => isBad (labMem.readLocal (labMem.ctxOf o) p.addr p.n)) = true ∧
    comes (withOp memFilled aLoad (aPart .stash 0x40FC []) id) (fun o p => (memFilled.unit? o.w.unit).any fun u =>
      !memFilled.unbinding u p.addr && (u.stashAt p.addr).any fun st => natGet st.lines ((p.addr - st.vbase) / 256) == 1 &&
        st.poisonAt p.addr p.n == none) = true ∧
    comes (withOp memStash aLoad (aPart .stash 0x4000 []) id) (fun o p => (memStash.unit? o.w.unit).any fun u =>
      !memStash.unbinding u p.addr && (u.stashAt p.addr).any fun st => natGet st.lines ((p.addr - st.vbase) / 256) == 0 &&
        !(withOp memStash aLoad (aPart .stash 0x4000 []) id).lineBusy o st.space st.ibase && match memStash.lineFor u.ctx st.space st.ibase with | .ok .. => true | _ => false) = true ∧
    comes (withOp labMem aLoad (aPart .local 0x2000 []) fun o => { o with pol := .byp }) (fun o p => !o.fills &&
      isOk (labMem.readLocal (labMem.ctxOf o) p.addr p.n)) = true ∧
    comes (withOp labMem aLoad (aPart .local 0x20FC []) id) (fun o p => o.fills && isOk (labMem.readLocal (labMem.ctxOf o) p.addr p.n) &&
      isOk (labMem.readLocal (labMem.ctxOf o) 0x2000 256)) = true ∧
    (∀ v ∈ [0, 1], comes (withOp labMem (aWait v) (aPart .local 0x2000 []) id) (fun o p =>
      isOk (labMem.readLocal (labMem.ctxOf o) p.addr p.n) && wcondHolds .ge 0 (waitVal [(0, v)] 0) == (v == 0)) = true) ∧
    (∀ v ∈ [0, 1], comes (withOp labMem (aWait v) (aPart .host 0x2000 []) id) (fun o p => p.far && decide (p.time ≤ labMem.now o.core) &&
      isOk (labMem.readSpan 0 p.space p.addr p.n) && wcondHolds .ge 0 (waitVal [(0, v)] 0) == (v == 0)) = true) := by decide +kernel
def served (p : Part) : Part := { p with st := .done }
/-- The issue of operation 2 alone, all of its parts served; `f` of its bundle. -/
def aGroup (s : State) (f : Bundle → Bool) : Bool := (s.op? 2).any fun o => s.ops.filter (·.group == o.group) == [o] && o.lanes == [0] &&
  o.w == ⟨1, 0, 0⟩ && !o.returned && o.waitSt == [] && decide (o.due ≤ s.clk) && o.parts.all (·.st == .done) && !s.forwarding o &&
  (s.bundleOf 1 0 [(0, [0])]).any f
/-- Words beside `lab`'s windows, and in the first. -/
theorem witness_LoadsReturn :
    (∀ k ∈ [(aLoad, false), (aLoad, true), (.lds 4 .b32 false, false), (.atom 4 .iadd false false, true), (.cas 4 false, true)],
      let s := withOp labMem k.1 (served (aPart .local 0x2000 [1, 2, 3, 4])) fun o => { o with tag := some 0, mask := 1, acq := k.2 }
      (s.op? 2).any (fun o => o.parts.all (·.st == .done) && decide (o.due ≤ s.clk) && !o.returned && !s.forwarding o &&
        (s.unit? o.w.unit).isSome && (s.warp? o.w).isSome) = true) ∧
    (∀ x ∈ [(0x2000, true), (0x2FFF, true), (0x3000, false)],
      aGroup (withOp lab (.aldp 1 false) { served (aPart .local 0x2000 (natBytes 8 x.1)) with n := 8 } id) (fun b =>
        ((List.range 16).any fun m => ((b.u.windows[m]?).map fun w => w.used && decide (w.base ≤ x.1) &&
          decide (x.1 < w.base + w.length)).getD false) == x.2) = true) ∧
    aGroup (withOp lab (aWait 0) (served (aPart .local 0x2000 [1, 0, 0, 0])) id) (fun _ => lab.mayRetire ⟨1, 0, 0⟩) = true ∧
    ((lab.modWarp ⟨1, 0, 0⟩ fun w => { w with tags := modAt w.tags 0 fun _ => .timed 0 }).warp? ⟨1, 0, 0⟩).any (fun w => w.tags[0]? == some (.timed 0)) =
      true ∧
    (let f : ImpFault := ⟨7, 7, ⟨1, 0, 0⟩, 0x1000, 0x12, 0, 0, [0], [(0, 0)]⟩
     let s := { lab with home := { lab.home with faults := [f] } }
     s.home.faults.find? (·.id == f.id) = some f ∧ s.ops = [] ∧ (s.unit? f.w.unit).any (·.state == .running) = true) := by decide +kernel
/-- A write of 4 bytes at 0x2000 may be applied there. -/
theorem witness_HomeWrites_page : writable labMem 0 0x2000 4 0x2000 := by simp only [writable, State.memWf]; decide +kernel
/-- A store, and an atomic, of 4 bytes through a system window, a peer's, and into the filled line of a stash window. -/
def farStore (s : State) (sp : Space) (a : Nat) (f : State → MemOp → Part → Bool) : Bool :=
  let t := withOp s .store (aPart sp a [1, 2, 3, 4]) id
  comes t fun o p => o.kind.isWrite && p.data.length == p.n && f t o p
def farAtom (s : State) (sp : Space) (a : Nat) (k : OpKind) (f : State → MemOp → Part → Bool) : Bool :=
  let t := withOp s k (aPart sp a [0, 0, 0, 0, 5, 6, 7, 8]) id
  comes t fun o p => o.kind.isAtomic && o.pieces p == [p] && t.accessFree o p && t.firstLeft o 0 p &&
    ((atomWrite o.kind p [0, 0, 0, 0]).getD [0, 0, 0, 0]).length == p.n && f t o p
def inLine (t : State) (o : MemOp) (p : Part) : Bool := p.space == .stash && match t.stashOf o p with
  | some (u, st) => (match t.fillLine o u st p.addr with
      | .ok s' st' _ => (s'.unit? u.id).any (fun x => x.spad == [] && memRead x.spad (st'.soff + (p.addr - st'.vbase)) p.n == [0, 0, 0, 0]) &&
          st'.poison == []
      | _ => false)
  | none => false
theorem witness_HomeWrites :
    (∀ sp ∈ [Space.host, .peer 255], farStore labMem sp 0x2000 (fun _ _ _ => true) = true ∧
      (∀ k ∈ [OpKind.atom 4 .iadd false false, .cas 4 false], farAtom labMem sp 0x2000 k (fun t _ p =>
        t.readSpan 0 p.space p.addr p.n == .ok [0, 0, 0, 0]) = true)) ∧ labMem.home.peerErrs = [] ∧
    farStore memFilled .stash 0x40FC inLine = true ∧
    (∀ k ∈ [OpKind.atom 4 .iadd false false, .cas 4 false], farAtom memFilled .stash 0x40FC k (fun t o p => inLine t o p &&
      (atomWrite o.kind p [0, 0, 0, 0]).isSome) = true) ∧
    (∀ k ∈ [OpKind.store, .sts, .tst], comes (withOp labMem k (aPart .local 0x2000 [1, 2, 3, 4]) id) (fun o p => o.kind.isWrite &&
      p.data.length == p.n && (!o.rel || o.cleared)) = true) ∧
    comes (withOp labMem .store (aPart .local 0x2000 [1, 2, 3, 4]) fun o => { o with rel := true, cleared := false }) (fun o _ =>
      o.rel && !o.cleared && (labMem.warp? o.w).isSome && labMem.clear o.w (o.scope == .sys) o.id) = true ∧
    ((withOp labMem .store { aPart .local 0x2000 [1, 2, 3, 4] with st := .held } id).part? 2 0).any (fun x => x.2.st == .held && x.1.cleared) = true ∧
    (let s := withOp labMem (.atom 4 .iadd false false) (aPart .local 0x2000 [1, 2, 3, 4]) id
     comes s fun o p => o.pieces p == [p] && s.accessFree o p && s.firstLeft o 0 p && isOk (s.readSpan (s.ctxOf o) .local p.addr p.n)) = true ∧
    (let s := withOp labMem (.cas 4 false) (aPart .local 0x2000 [1, 2, 3, 4, 5, 6, 7, 8]) id
     comes s fun o p => o.pieces p == [p] && s.accessFree o p && s.firstLeft o 0 p &&
       s.readSpan (s.ctxOf o) .local p.addr p.n == .ok [0, 0, 0, 0] && p.data.take p.n != [0, 0, 0, 0]) = true ∧
    (let s := withOp labMem (.cas 4 false) (aPart .local 0x2000 [0, 0, 0, 0, 5, 6, 7, 8]) id
     comes s fun o p => o.pieces p == [p] && s.accessFree o p && s.firstLeft o 0 p && s.readSpan (s.ctxOf o) .local p.addr p.n == .ok (p.data.take p.n) &&
       decide (2 * p.n ≤ p.data.length)) = true ∧
    (let s := withOp (withOp labMem .store { aPart .local 0x2000 [1, 2, 3, 4] with st := .held } id) .store (aPart .local 0x2004 [1, 2, 3, 4]) id
     (s.part? 3 0).any fun (o, p) => p.st == .sent && o.kind.isWrite && !s.blocked o 0 p && s.behind o 0 p) = true ∧
    ((withOp labMem .store (served (aPart .local 0x2000 [])) id).op? 2).any (fun o => o.kind.counter == some .st && o.parts.all (·.st == .done) &&
      decide (o.due ≤ 0) && !o.returned && o.waitSt == []) = true := by decide +kernel
/-- The host's addresses from 2^40 on stand for context 0's from 0 on. -/
def labHost : State := { labMem with home := { labMem.home with hdm := [(2 ^ 40, 2 ^ 20, 0, 0)], hostLines := [0x21], snooped := [(0x21, 1)] } }
/-- Its page of 1 GiB, of the host's tier, its leaf BUSY or not. -/
def labPage (busy : Bool) : State := { labHost with home := { labHost.home with
  mem := memWrite labHost.home.mem 0x102000 (natBytes 8 (2 ^ 63 + 2 ^ 62 + (if busy then 2 ^ 54 else 0) + 2 ^ 42 + (2 ^ 18 - 1) * 4096 + 3)) } }
theorem witness_HostAndPeers :
    labHost.hdmAddr (2 ^ 40 + 0x20FC) 4 = some (0, 0x20FC) ∧ isOk (labHost.readSpan 0 .local 0x20FC 4) = true ∧
    (0x20FC : Nat) % 256 + 4 ≤ 256 ∧ labHost.spanBusy 0 .local 0x20FC 4 = false ∧ writable labHost 0 0x20FC 4 0x20FC ∧
    0x21 ∈ labHost.home.hostLines ∧ natGet labHost.home.snooped 0x21 = 1 ∧
    ([false, true].all fun busy => match leafSlot (labPage busy).home 0x2000 5 ((labHost.ctx 0).ptroot.toNat * 4096) with
        | .leaf level slot p => p.log == 30 && p.frame == 2 ^ 41 && bitOf p.leaf 54 == busy && (labPage busy).mayMove 0 0x2000 level slot p (2 ^ 40)
        | _ => false) = true ∧ labHost.home.holds = [] ∧ labHost.home.pins = [] ∧ labHost.up = true ∧ lab.up = false ∧
    (match leafSlot { labHost.home with mem := memWrite labHost.home.mem 0x100000 (natBytes 8 (2 ^ 63 + 2 ^ 52 + 0x101000)) } 0x2000 5
        ((labHost.ctx 0).ptroot.toNat * 4096) with | .bad code _ => code == 0x12 | _ => false) = true ∧
    labHost.home.late = [] ∧ labHost.readSpan 0 .local 0x20FC 4 = .ok [0, 0, 0, 0] := by
  simp only [writable, State.memWf]; decide +kernel

/-! ### Witnesses: events of the lanes and the engines -/

/-- REFORM has sent lane 0 back to the filing queue, whose head is due; a bin of one thread stands unformed since clk 0. -/
def labQueue : State := { after .reform labHere with clk := 1 }
/-- The same with every slot of the port taken by a bundle. -/
def labCrowd : State := labQueue.modCore 0 fun c => { c with ports := c.ports.map fun p => { p with
  slots := p.slots.map fun _ => ((labTaken.core 0).ports[0]?).bind fun q => (q.slots[0]?).join } }
def labBin : State :=
  let slots (x : Option Slot) : Option Slot := x.map fun y => { y with formed := false }
  { lab.modCore 0 fun c => { c with ports := c.ports.map fun p => { p with slots := p.slots.map slots } } with clk := 16 }
/-- Lane 0, the only live lane, waits in the arrival set of a vote. -/
def labVote : State := lab.modWarp ⟨1, 0, 0⟩ fun w => { w with arrival := some ⟨0x1000, Hints.none, .voteAny 1 7 0, [0]⟩ }
/-- NOP as the fetched word, with deterministic mode `det`, lane 0 as `f` makes it. -/
def labNop (det : Nat) (f : Thread → Thread) : State :=
  let s := State.reset.withFetchWord 32 0x8C000000
  (s.modUnit 1 fun u => { u with cfg := { u.cfg with det := det } }).modThread ⟨1, 0, 0⟩ 0 f
def runs (s : State) (f : Bundle → Bool) : Bool := (s.bundleOf 1 0 [(0, [0])]).any fun b => b.idle && b.instr == some .nop && b.free .nop == false && f b
theorem witness_LaneEvents :
    ([(labQueue, false), (labCrowd, true)].all fun x => ((x.1.core 0).ports[0]?).any fun p => p.slots.all (·.isSome) == x.2 &&
      (x.1.nextFiling p).any fun f => (x.1.thread? ⟨f.unit, f.wg, f.warp⟩ f.lane).isSome) = true ∧
    ([16, 0].all fun clk => (((labBin.core 0).ports[0]?).any fun p => p.slots.any fun x => x.any fun y => !y.formed && !labBin.isDet y.unit &&
      decide (y.filed + 16 ≤ clk) == (clk == 16) && !y.noFull && labBin.binFull 0 y)) = true ∧
    ((labVote.warp? ⟨1, 0, 0⟩).any fun x => x.arrival.any fun a => (collBody a.instr).isSome && x.live != [] && x.live.all (a.lanes.contains ·) &&
      (labVote.bundleOf 1 0 [(0, x.live)]).any fun b => labVote.mayRetire ⟨1, 0, 0⟩ && b.lanes.all (fun y => !y.2.2.2.halted) &&
        b.free a.instr && !b.pending (a.instr.waitRegs b.u.cfg)) = true ∧
    runs (labNop 0 fun t => { t with defer := some ⟨0x1000, 4096⟩ }) (fun b => b.deferHits != []) = true ∧
    (let s := (labNop 1 id).modWarp ⟨1, 0, 0⟩ fun w => { w with stall := 2 ^ 24 - 1 }
     runs s fun b => b.deferHits == [] && b.u.owner == ⟨1, 0, 0⟩ && s.turnLanes ⟨1, 0, 0⟩ == [0] && (s.warp? ⟨1, 0, 0⟩).any fun w => decide (w.stall + 1 ≥ 2 ^ 24)) = true ∧
    (let s := { after (.iadd 3 5 6 0 .i32) lab with clk := 4 }
     (s.warp? ⟨1, 0, 0⟩).any fun x => (x.pend[0]?).any fun p => p.due == some 4 && (s.unit? 1).any fun u => !u.lanesBefore p) = true ∧
    (let s := labMem.modUnit 1 fun u => { u with fetched := some [] }
     (s.unit? 1).any fun u => u.fetched == some [] && s.mapAddr u.ctx 0x1000 4 == some (.local, 0x1000) &&
       isOk (s.readSpan u.ctx .local 0x1000 4)) = true ∧
    ([false, true].all fun stop =>
      let s := (labNop 1 id).modUnit 1 fun u => { u with turnCount := 64, stopAt := stop }
      (s.unit? 1).any fun u => u.turnCount ≥ u.cfg.quantum && u.state == .running && !u.anyStopped && !u.arming && !u.hinted && u.stopAt == stop && !u.stepTurn &&
        (s.warp? u.owner).any fun w => s.turnOver u w && w.ld == 0 && w.st == 0 && w.xf == 0 && w.tl == 0 && s.unacked u.owner true == [] &&
          decide (w.gwct ≤ s.now (s.coreOf u.owner)) && s.ops == [] && w.resumeAt == none) = true := by decide +kernel
/-- TEVAL of m2, which pends with a sum that overflows fp16; then under evaluation. -/
def labEval (m : MNum) : State :=
  let s := labNode.modWarp ⟨1, 0, 0⟩ fun w => w.setTile 1 fun t => { t with data := [(0, 0xFF), (1, 0x7B)] }
  after (.teval m) (s.modWarp ⟨1, 0, 0⟩ fun w => { w with graph := w.graph.map fun n => { n with kind := .add false .full false false } })
def labRun (trap : Bool) : State := (after (.evalStart 0) (labEval 2)).modUnit 1 fun u => { u with cfg := { u.cfg with mxtrap := trap } }
def aLoop (n : Node) : Bool := match n.kind with | .loop _ => true | _ => false
/-- TMLOOP of m0 through a0, which allows nothing unless `ok`; then its TEVAL. -/
def labLoop (ok : Bool) : State :=
  let s := after (.tmloop 0 0 0 0) (lab.modThread ⟨1, 0, 0⟩ 0 fun t => { t with a := if ok then t.a else List.replicate 8 AReg.zero })
  let s := s.modWarp ⟨1, 0, 0⟩ fun w => { w with threads := modAt w.threads 0 fun t => { t with pc := 0x1000 } }
  after (.teval 0) s
/-- Handles l1 and l2 of 64 bytes of the scratchpad at 0x100 and 0. -/
def labLayout (base : Nat) : BitVec 512 := BitVec.ofNat 512 (base + 2 ^ 76 + 5 * 2 ^ 80 + 2 ^ 88 + 63 * 2 ^ 128)
def labCopy : State :=
  let hand (s : State) (n base : Nat) : State := s.modWg 1 0 fun g => { g with
    handles := modAt g.handles n fun _ => (s.unit? 1).map fun u => handleOf u (labLayout base) 0 }
  after (.xcp 1 2 0 .copy false) (hand (hand lab 1 0x100) 2 0)
def chan (s : State) (f : Channel → Bool) : Bool := (s.channel? 0 0).any f
/-- The copy with a source of 32 bytes, its destination without W if `ro`. -/
def labUneven (ro : Bool) : State :=
  let less (h : Option Handle) : Option Handle := h.map fun x => { x with record := x.record - BitVec.ofNat 512 (32 * 2 ^ 128) }
  let lock (h : Option Handle) : Option Handle := h.map fun x => { x with w := x.w && !ro }
  labCopy.modWg 1 0 fun g => { g with handles := modAt (modAt g.handles 2 less) 1 lock }
def onlyChannel (f : Channel → Channel) (s : State) : State := { s with channels := s.channels.map f }
def labErr : State := after (.channelStart 0 0) (labUneven false)
/-- The copy waits for tag 0, timed 1,000. -/
def labLate : State := onlyChannel (fun c => { c with mask := 1 })
  ((after (.channelStart 0 0) labCopy).modWarp ⟨1, 0, 0⟩ fun w => { w with tags := modAt w.tags 0 fun _ => .timed 1000 })
/-- The copy's source lies in a stash window that SUNMAP is writing back. -/
def labUnbound : State :=
  let src : Handle := ⟨BitVec.ofNat 512 (0x4000 + 5 * 2 ^ 80 + 2 ^ 88 + 63 * 2 ^ 128), .local, 0x4000, true, true, 0⟩
  let s := onlyChannel (fun c => { c with srcH := [some src] }) (after (.channelStart 0 0) labCopy)
  (s.modUnit 1 fun u => { u with stash := ((labStash.unit? 1).map (·.stash)).getD [] }).newOp fun id =>
    MemOp.plain ⟨1, 0, 0⟩ 0 0x1000 (.sflush [0x4000] true) [0] [] id
def labRead : State := after (.channelStart 0 0) (after (.channelStart 0 0) labCopy)
def readId (s : State) : Nat := ((s.ops.find? fun o => o.kind == .xread 0 0).map (·.id)).getD 0
def labChunk : State := after (.loadServe (readId labRead) 0 ⟨0, 0, 0, []⟩) labRead
def labWrite : State := after (.chunkLand 0 0) labChunk
def labLand : State := after (.storeApply (labWrite.nextId - 1) 0) labWrite
def labEnd : State := after (.chunkLand 0 0) labLand
def copies (s : State) (c : Channel) (f : Channel → Bool) : Bool := (s.unit? c.w.unit).any fun u => f (c.copy s u)
theorem witness_EngineEvents :
    (let s := (labEval 2).modWarp ⟨1, 0, 0⟩ fun w => { w with graph := [] }
     (s.core 0).evalCur == none && match (s.core 0).evalQ with | r :: _ => (s.warp? r.w).any fun w => r.members w == [] | [] => false) = true ∧
    (let c := (labEval 2).core 0
     c.evalCur == none && match c.evalQ with
       | r :: _ => ((labEval 2).warp? r.w).any fun w => (r.members w).length == 1 && (r.members w).all fun n => !aLoop n
       | [] => false) = true ∧
    ([false, true].all fun ok =>
      let c := (labLoop ok).core 0
      c.evalCur == none && match c.evalQ, (labLoop ok).unit? 1 with
        | [r], some u => ((labLoop ok).warp? r.w).any fun w => match r.members w with
            | [n] => aLoop n && !(labLoop ok).loopWaits 0 u w n && n.accs u w != [] && (n.accs u w).all (·.tang == 0) &&
                ((n.accs u w).all fun x => x.a.allows x.va x.n true false) == ok
            | _ => false
        | _, _ => false) = true ∧
    (∀ trap ∈ [false, true], (match ((labRun trap).core 0).evalCur, (labRun trap).unit? 1 with
      | some (r, cl), some u => ((labRun trap).warp? r.w).any fun w => (labRun trap).loopOps r == [] && cl.all (fun n => !n.loading w) &&
          (evalClosure ⟨u, r.w.wg, r.w.warp, loopImages []⟩ w cl r.graph u.cfg.reassoc).2 != [] && u.cfg.mxtrap == trap
      | _, _ => false) = true) ∧
    (let s := (withOp lab (.tld 1) (served (aPart .local 0x2000 [1, 2, 3, 4])) id).modWarp ⟨1, 0, 0⟩ fun w =>
       w.setTile 1 fun t => { t with inflight := some 2 }
     (s.op? 2).any (fun o => o.parts.all (·.st == .done) && !s.forwarding o) && (s.warp? ⟨1, 0, 0⟩).any fun w =>
       (w.tile 1).inflight == some 2 && decide (1 < w.tiles.length) && w.live != []) = true ∧
    ([(labLayout 0).toNat, 0].all fun r =>
      let s := withOp lab (.xlr 1) { served (aPart .local 0x2000 (natBytes 64 r)) with n := 64 } id
      (s.op? 2).any fun o => !s.xlrBefore 1 0 1 o.group && !s.copyBefore 1 0 1 o.group && s.ops.filter (·.group == o.group) == [o] &&
        o.ready s.clk && o.waitSt == [] && o.lanes == [0] && o.parts.all (·.st == .done) && (s.unit? 1).any fun u =>
          (layCheck u (BitVec.ofNat 512 (assemble (o.laneParts 0 0))) == none) == (r != 0) && (s.wg? 1 0).any fun g => decide (1 < g.handles.length)) =
      true ∧
    chan labCopy (fun c => !c.started && !c.copied && copies labCopy c (fun k => k.err == none && k.chunks == 1 && k.dstH.all (·.w)) &&
      (c.dst :: c.srcs).all fun l => !labCopy.xlrBefore c.w.unit c.w.wg l c.op) = true ∧
    chan (after (.channelStart 0 0) labCopy) (fun c => !c.started && c.copied && (after (.channelStart 0 0) labCopy).xferMayStart c && c.chunks != 0) =
      true ∧
    (let t := after (.channelStart 0 0) labCopy
     let s := { t with channels := t.channels.map fun c => { c with chunks := 0 } }
     chan s fun c => !c.started && c.copied && s.xferMayStart c && c.chunks == 0 && !c.csr) = true ∧
    chan labLand (fun c => c.started && (labLand.ops.find? fun o => c.writing o && c.mayLand labLand o).isSome && !labLand.landAhead c &&
      labLand.ops.all fun o => (!o.kind.writes 0 0 || o.w == c.w) && (!c.owns o || o.parts.all fun p => !p.failing)) = true ∧
    chan labChunk (fun c => c.started && labChunk.ops.all (fun o => !c.writing o) && c.err == none && decide (c.written < c.chunks) &&
      match c.chunk (c.source labChunk) c.written with | .write _ => true | _ => false) = true ∧
    chan labEnd (fun c => c.started && labEnd.ops.all (fun o => !c.writing o) && c.err == none && decide (c.written ≥ c.chunks)) = true ∧
    -- sources of other bytes, a handle without W, an error event due, a mask whose time is to come, a read of a window being unbound
    chan (labUneven false) (fun c => !c.started && !c.copied && copies (labUneven false) c (fun k => k.err == some (4, 0, 0) && k.dstH.all (·.w)) &&
      (c.dst :: c.srcs).all fun l => !(labUneven false).xlrBefore c.w.unit c.w.wg l c.op) = true ∧
    chan (labUneven true) (fun c => !c.started && !c.copied && copies (labUneven true) c (fun k => k.dstH.any (!·.w)) &&
      (c.dst :: c.srcs).all fun l => !(labUneven true).xlrBefore c.w.unit c.w.wg l c.op) = true ∧
    chan labErr (fun c => c.started && labErr.ops.all (fun o => !c.writing o) && c.err == some (4, 0, 0) && decide (c.written ≥ c.chunks) &&
      !labErr.landAhead c) = true ∧
    chan labLate (fun c => !c.started && c.copied && ((labLate.warp? c.w).any fun w => !visReached w.tags c.mask (labLate.clockOf (.transfer c.pcl))) &&
      !labLate.xferMayStart c) = true ∧
    chan labUnbound (fun c => !c.started && c.copied && labUnbound.xferMayStart c && c.chunks != 0 && (labUnbound.unit? c.w.unit).any fun u =>
      labUnbound.heldUp u (placesOf (c.reads u c.firstReads))) = true := by
  decide +kernel
/-! ### Witnesses: packets, launches and jobs -/

/-- `labMem` with a header of 8 registers at 0x10000, a launch record of one workgroup at 0x20000, a job card at 0x30000 with
two task records of 64 bytes at 0x40000, the first of gain 1.0 in a GAIN job, and a packet in the ring at 0x8000. -/
def labCard (gain : Bool) : Nat := 0x10000 + 0x20000 * 2 ^ 72 + 0x40000 * 2 ^ 144 + 2 * 2 ^ 216 + 64 * 2 ^ 248 + (if gain then 2 ^ 264 + 8 * 2 ^ 282 else 2 ^ 266)
def labSys (packet : Nat) (gain : Bool) (f : Queue → Queue) : State :=
  let mem := memWrite labMem.home.mem 0x10000 (natBytes 64 (Config.encHash + 64 * 2 ^ 96 + 2 ^ 153 + 8 * 2 ^ 168 + 2 ^ 205 + 256 * 2 ^ 224))
  let mem := memWrite mem 0x20000 (natBytes 64 0x10000)
  let mem := memWrite mem 0x30000 (natBytes 64 (labCard gain))
  let mem := if gain then memWrite mem 0x40008 (natBytes 8 0x3F800000) else mem
  { labMem with
    home := { labMem.home with mem := memWrite mem 0x8000 (natBytes 64 packet) }
    queues := modAt labMem.queues 0 fun q => f { q with tail := 1 } }
def aNop : Nat := 0x100
def aSignal : Nat := 3
def aLaunch : Nat := 1 + 0x20000 * 2 ^ 64
def aJob : Nat := 2 + 0x30000 * 2 ^ 64
/-- Queue 0 is served next (`serves`), and its packet at HEAD reads `v` (`atHead`). -/
def aServes (s : State) : Bool :=
  (s.amc.mode == 1 || s.amc.mode == 3) && (s.queue 0).enable && !(s.queue 0).halted && (s.queue 0).head != (s.queue 0).tail &&
    s.nextQueue == some 0 && !s.watch.feHalted && !s.watch.fePass && s.watch.bps.all (!·.en) && (s.queue 0).packets.all (·.started)
theorem serves_of (s : State) (h : aServes s = true) : serves s 0 := by
  simpa [aServes, serves, and_assoc] using h
def reads (r : Rec) (v : Nat) : Bool := match r with | .val x => x == v | _ => false
def aHead (s : State) (v : Nat) : Bool :=
  decide (4 ≤ (s.queue 0).size.toNat ∧ (s.queue 0).size.toNat ≤ 20 ∧
    ((s.queue 0).tail - (s.queue 0).head).toNat ≤ 2 ^ (s.queue 0).size.toNat) && reads (s.readPacket 0) v
def offers (s : State) (v : Nat) : Bool := aServes s && aHead s v && !malformed v
def labNop1 : State := labSys aNop false id
/-- A completed packet that is the oldest of its queue. -/
def labDone (sigaddr : Nat) : State :=
  labSys aNop false fun q => { q with packets := [packetOf (aSignal + 2 ^ 9 + sigaddr * 2 ^ 200) 1 true none 0] }
def done (s : State) (f : Packet → Bool) : Bool := match (s.queue 0).packets with
  | p :: _ => s.packetDone p && p.work == none && f p
  | [] => false
theorem witness_Packets :
    labNop1.queues.length = 32 ∧ offers labNop1 aNop = true ∧ offers (labSys aSignal false id) aSignal = true ∧
    ([3, 21].all fun n => aServes (labSys aNop false fun q => { q with size := BitVec.ofNat 5 n })) = true ∧
    aServes (labSys aNop false fun q => { q with tail := 17 }) = true ∧
    ([4, 2 ^ 10, 2 ^ 336, 2 ^ 64].all fun v => aServes (labSys v false id) && aHead (labSys v false id) v && malformed v) = true ∧
    ([aLaunch + 2 ^ 134, aJob + 2 ^ 134].all fun v => aServes (labSys v false id) && aHead (labSys v false id) v && !malformed v &&
      match (labSys v false id).readRec 0 (0x20000 + 2 ^ 70) 256 with | .bad => true | _ => false) = true ∧
    done (labDone 0) (fun p => p.sigaddr == 0 && p.irq) = true ∧ done (labDone 4) (fun p => p.sigaddr % 8 != 0) = true ∧
    done (labDone 0x20F8) (fun p => p.sigaddr != 0 && p.sigaddr % 8 == 0 &&
      (labDone 0x20F8).mapAddr 0 p.sigaddr 8 == some (.local, 0x20F8)) = true ∧
    writable (labDone 0x20F8) 0 0x20F8 8 0x20F8 := by
  simp only [writable, State.memWf]; decide +kernel

/-- A child job submitted by lane 0, its request returned. -/
def labSub : State :=
  let o (id : Nat) : MemOp := { MemOp.plain ⟨1, 0, 0⟩ 0 0x1000 (.jsub 0 0 3 [(0, 0x30000, 0)]) [0] [] id with returned := false }
  { (labSys aJob false id).newOp o with clk := 64 }
/-- The checks of a record pass, or fail. -/
def checks (c : Checked) (good : Bool) : Bool := match c with | .ok .. => good | .bad .. => !good | .busy => false
def launchOk (s : State) (good : Bool) : Bool := match s.readRec 0 0x20000 256 with
  | .val r => checks (s.checkLaunch 0 r (r % 2 ^ 72) 0x21 false) good
  | _ => false
def jobOk (s : State) (good : Bool) (gain : Bool) : Bool := match s.readRec 0 0x30000 128 with
  | .val r => checks (s.checkJob 0 r) good && (cardJob 0x30000 r).gainMode == gain
  | _ => false
/-- The launch record names no header; the job card no task. -/
def spoil (a : Nat) (s : State) : State := { s with home := { s.home with mem := memWrite s.home.mem a (List.replicate 64 0) } }
/-- A state with no table entry kept in the slices' caches. -/
def fresh (s : State) : State := { s with home := { s.home with tlb := [] } }
/-- A packet before it that has not completed; one that waits. -/
def waits (v : Nat) : State :=
  let s := fresh (after (.launch 0) (labSys aLaunch false id))
  { s with
    home := { s.home with mem := memWrite s.home.mem 0x8040 (natBytes 64 v) }
    queues := modAt s.queues 0 fun q => { q with tail := 2 } }
def labRec : Nat := match (labSys aLaunch false id).readRec 0 0x20000 256 with | .val r => r | _ => 0
def labHeld : State := labSys aNop false fun q => { q with
  packets := [packetOf aNop 1 true none 0, packetOf aLaunch 5 false none (BitVec.ofNat 2048 labRec)] }
theorem witness_LaunchesAndJobs :
    (offers (labSys aLaunch false id) aLaunch && launchOk (labSys aLaunch false id) true) = true ∧
    (offers (spoil 0x20000 (labSys aLaunch false id)) aLaunch && launchOk (spoil 0x20000 (labSys aLaunch false id)) false) = true ∧
    (offers (labSys aJob false id) aJob && jobOk (labSys aJob false id) true false) = true ∧
    (offers (spoil 0x30000 (labSys aJob false id)) aJob && jobOk (spoil 0x30000 (labSys aJob false id)) false false) = true ∧
    (offers (labSys aJob true id) aJob && jobOk (labSys aJob true id) true true &&
      [0, 1].all fun k => reads ((labSys aJob true id).readRec 0 (0x40000 + 64 * k + 8) 8) (if k == 0 then 0x3F800000 else 0)) = true ∧
    ([aLaunch, aJob].all fun v => offers (waits (v + 2 ^ 8)) (v + 2 ^ 8) && ((waits (v + 2 ^ 8)).queue 0).packets.any fun p =>
      !(waits (v + 2 ^ 8)).packetDone p) = true ∧
    (match (labHeld.queue 0).packets with
      | [o, p] => o.started && labHeld.packetDone o && !p.started && p.type == 1 && checks (labHeld.checkLaunch 0 p.record.toNat (p.record.toNat % 2 ^ 72) 0x21 false) true
      | _ => false) = true ∧
    (labSub.ops.any fun o => labSub.taskReady o && labSub.laneFirst o && (labSub.op? o.id == some o) && decide (labSub.childJobs 0 < 64) &&
      !labSub.watch.feHalted && !labSub.watch.fePass && labSub.watch.bps.all (!·.en) && jobOk labSub true false) = true := by
  decide +kernel
/-! ### Witnesses: placement, dispatch, ends -/

/-- A launch, and a job, that has started; `f` of its work. -/
def labLaunched (f : Work → Work) : State :=
  let s := fresh (after (.launch 0) (labSys aLaunch false id))
  { s with works := s.works.map f }
def labJobs (gain : Bool) (f : Work → Work) : State :=
  let s := fresh (after (.job 0) (labSys aJob gain id))
  { s with works := s.works.map f }
def theWork (s : State) (f : Work → Bool) : Bool := match s.works with
  | [w] => s.work? w.id == some w && f w
  | _ => false
def workId (s : State) : Nat := (s.works.head?.map (·.id)).getD 0
def aWindow : Window := ⟨true, 0x1000, 8192, true, true, 0, .local, 0x1000, false⟩
def holds (s : State) (w : Work) (spans : List (Nat × Nat)) (who : Option Nat) (done : Bool) : Bool :=
  match s.hold w.ctx spans (w.req who).held with | .done .. => done | .missing .. => !done | _ => false
def labNoPage : State := (fun s => { s with home := { s.home with mem := memWrite s.home.mem 0x102000 (List.replicate 8 0) } })
  (labLaunched fun w => { w with windows := [aWindow] })
def labResid : State := (fun s => fresh (after (.residencyHold (workId s) 0) s)) (labLaunched id)
def labWave (n : Nat) : State :=
  { labResid with works := labResid.works.map fun w => { w with cfg := { w.cfg with det := 1, csize := n } } }
def readsCode (s : State) (w : Work) : Bool := isOk (s.readVA w.ctx w.cfg.entry.toNat w.cfg.codesize)
def loadsWins (s : State) (w : Work) : Bool := match s.launchWins w with | .ok _ => true | _ => false
theorem witness_GridPlacement :
    theWork (labLaunched fun w => { w with windows := [aWindow] }) (fun w => w.job.isNone && !w.winResident && !w.finished &&
      !(w.req none).waiting && holds (labLaunched fun w => { w with windows := [aWindow] }) w (holdSpans w.cfg.d (w.windows.take 8) none) none true) =
        true ∧
    theWork labNoPage (fun w => w.job.isNone && !w.winResident && !w.finished &&
      !(w.req none).waiting && holds labNoPage w (holdSpans w.cfg.d (w.windows.take 8) none) none false) = true ∧
    theWork (after (.residencyHold (workId labNoPage) 0) labNoPage) (fun w => w.job.isNone && (w.req none).waiting) = true ∧
    theWork labResid (fun w => w.job.isNone && (labResid.gridNext w).isSome && (labResid.choose w.cfg).isSome &&
      labResid.topPriority w && labResid.itsTurn w && loadsWins labResid w && (labResid.freeSave w.ctx).isSome && readsCode labResid w) = true ∧
    theWork (labWave 1000) (fun w => w.job.isNone && (labWave 1000).choose w.cfg == none) = true ∧
    theWork (labWave 1) (fun w => w.job.isNone && loadsWins (labWave 1) w && (labWave 1).topPriority w && (labWave 1).itsTurn w && match (labWave 1).waveNext w with
      | some (a, r) => ((labWave 1).placeWave w a r).isSome
      | none => false) = true ∧
    theWork (labWave 1000) (fun w => w.job.isNone && loadsWins (labWave 1000) w && (labWave 1000).topPriority w && (labWave 1000).itsTurn w && match (labWave 1000).waveNext w with
      | some (a, r) => ((labWave 1000).placeWave w a r).isNone
      | none => false) = true := by decide +kernel
/-- A work-list job after steps of its own; `f` of its one work and its job. -/
def aJobOf (s : State) (f : Work → JobCfg → Bool) : Bool := theWork s fun w => w.job.any fun j => !w.finished && f w j
def firstPcl (s : State) : Nat := ((s.works.head?.bind fun w => w.deques.head?).map (·.1)).getD 0
def labDealt : State := (fun s => after (.chunkDeal (workId s) (firstPcl s)) s) (labJobs false id)
def labHolding : State := (fun s => fresh (after (.residencyHold (workId s) 0) s)) labDealt
/-- Record 0 holds only ones. -/
def badRec (s : State) : State := { s with home := { s.home with mem := memWrite s.home.mem 0x40000 (List.replicate 64 0xFF) } }
/-- Both tasks in the deque of the first cluster; another cluster is a thief; MIG set in record 1. -/
def labFull (mig : Bool) : State :=
  let s := labJobs false fun w => { w.setDeque (w.deques.head?.map (·.1) |>.getD 0) [0, 1] with dealt := 2 }
  if mig then { s with home := { s.home with mem := memWrite s.home.mem 0x40040 (natBytes 8 (2 ^ 63)) } } else s
def steals (s : State) (pcl : Nat) (f : Work → JobCfg → Nat → List Nat → Bool) : Bool := aJobOf s fun w j =>
  !j.gainMode && w.deque pcl == some [] && decide (w.dealt ≥ j.count) && match w.victims pcl with
    | (p, ts) :: _ => !s.ownerTakes w j p ts && f w j p ts
    | [] => false
def taskLoads (s : State) (w : Work) (j : JobCfg) (i : Nat) : Bool :=
  (s.taskRec w j i).any fun r => (s.taskLoad w j i r).isSome && (s.freeSave w.ctx).isSome && readsCode s w && w.pos[i]? == some .holding
def labGains (f : GainRec → GainRec) : State :=
  (fun s => fresh (after (.residencyHold (workId s) 0) s)) (labJobs true fun w => { w with gains := w.gains.map f })
def gains (s : State) (die : Nat) (f : Work → JobCfg → Nat → Bool) : Bool := aJobOf s fun w j => j.gainMode && s.gainOpen w &&
  taskLoads s w j 0 && (w.gains[0]?).isSome && (s.dieCluster w die).any fun pcl => s.fitting w.cfg pcl != [] && f w j pcl
/-- MIG set in record 0, which another die takes. -/
def labAway : State := (fun s => { s with home := { s.home with mem := memWrite s.home.mem 0x40000 (natBytes 8 (2 ^ 63)) } }) (labGains id)
theorem witness_TaskDispatch :
    aJobOf labDealt (fun w j => w.mayHold j 0 && !labDealt.taskBusy w j 0 && !(w.req (some 0)).waiting &&
      (labDealt.taskSpans w j 0).any fun x => holds labDealt w x (some 0) true) = true ∧
    aJobOf (labJobs false id) (fun w j => !j.gainMode && w.deque (firstPcl (labJobs false id)) == some [] && decide (w.dealt < j.count) &&
      j.minchunk != 0) = true ∧
    aJobOf labHolding (fun w j => !j.gainMode && labHolding.dequeNext w j (firstPcl labHolding) == some 0 && labHolding.topPriority w &&
      taskLoads labHolding w j 0 && labHolding.fitting w.cfg (firstPcl labHolding) != []) = true ∧
    aJobOf (badRec labHolding) (fun w j => (badRec labHolding).dequeNext w j (firstPcl labHolding) == some 0 &&
      (badRec labHolding).topPriority w && (badRec labHolding).taskBad w j 0) = true ∧
    steals (labFull false) (firstPcl (labFull false) + 1) (fun _ _ p _ => p / 12 == (firstPcl (labFull false) + 1) / 12) = true ∧
    steals (labFull true) (firstPcl (labFull true) + 12) (fun w j p ts => p / 12 != (firstPcl (labFull true) + 12) / 12 && ts == [0, 1] &&
      ts.getLast?.map ((labFull true).mig w j) == some true && (ts.drop 1).all ((labFull true).mig w j)) = true ∧
    (let die := (((labGains id).works.head?.bind fun w => w.gains.head?).map (·.home)).getD 0
     gains (labGains id) die fun w j _ => w.bestGain ((labGains id).gainCands w j fun d => w.cfg.det != 0 || d == die) == some 0) = true ∧
    (let die := (((labAway).works.head?.bind fun w => w.gains.head?).map (·.home)).getD 0
     gains labAway (die + 1) fun w j _ => labAway.busiest w == some die && w.cfg.det == 0 && labAway.gainCands w j (· == die + 1) == [] &&
       w.bestGain ((labAway.gainCands w j (· == die)).filter (labAway.mig w j)) == some 0) = true := by decide +kernel
/-- A task operation of `lab`'s warp in job `j`. -/
def aTask (j : Option JobCfg) (k : OpKind) : State :=
  withOp { lab with works := [labWork j] } k (aPart .local 0 []) fun o => { o with parts := [] }
def taskOp (s : State) (f : MemOp → Work → Bool) : Bool := s.ops.any fun o => s.op? o.id == some o && (s.work? 0).any (f o)
/-- The launch with its only cluster in state `p`, in mode `det`. -/
def labPos (det : Nat) (p : PosState) : State :=
  { labResid with works := labResid.works.map fun w => { w with pos := [p, .finished 7 true 0 false 0], cfg := { w.cfg with det := det } } }
/-- A RESADD of unit 7 has not been applied. -/
def labPosting : State := (labPos 0 (.finished 7 false 0 false 0)).newOp fun id => MemOp.plain ⟨7, 0, 0⟩ 0 0x1000 (.resadd 0 [(0, 1)]) [0] [] id
def at0 (s : State) (f : Work → Bool) : Bool := theWork s fun w => w.job.isNone && w.oldest == 0 && f w
def labPlaced : State := (fun s => fresh (after (.clusterPlace (workId s)) s)) labResid
def labOver : State := { labPlaced with units := labPlaced.units.map fun u =>
  { u with wgs := u.wgs.map fun g => { g with warps := g.warps.map fun w => { w with threads := w.threads.map fun t => { t with exited := true } } } } }
/-- A job at stage `n` of its end; with all its records published when `gain` is false, stopped when it is true. -/
def labEnding (n : Nat) (gain : Bool) : State := labJobs gain fun w => { w with pos := [.published false, .published false], stopped := 1, ending := n }
def ends (s : State) (f : Work → JobCfg → Bool) : Bool := aJobOf s fun w j => (w.stopCode j).isSome && f w j
/-- Context 0's map entry names host memory. -/
def onHost (s : State) : State := { s with home := { s.home with mem := memWrite s.home.mem 0x104000 (natBytes 32 (2 ^ 30 * 2 ^ 72 + 2 ^ 169)) } }
theorem witness_TaskEnds :
    ([(false, 0), (true, 0), (false, 1)].all fun x => let s := aTask (some labGain) (.gain x.1 0 0 [(0, x.2, 1)])
      taskOp s fun o w => s.updateReady isGainOp o && s.updateFirst o && (w.gains[x.2]?).isSome) = true ∧
    ([0x3F800000, 0x7FC00000].all fun (v : Word) => let s := aTask (some labGain) (.resadd 0 [(0, v)])
      taskOp s fun o _ => s.updateReady isResidOp o && s.laneFirst o && (decodeF fp32 v.toNat).isNan == (v == 0x7FC00000)) = true ∧
    (let s := aTask none (.ordpost 0 [(0, 0)])
     taskOp s fun o _ => s.postReady o && s.laneFirst o) = true ∧
    theWork labOver (fun w => w.pos[0]? == some .placed && ((w.unitsOf labOver).find? (·.idx == w.virt 0)).any fun u =>
      labOver.unitDone u && u.stash.all (·.dirty == [])) = true ∧
    theWork (labPos 0 .waiting) (fun w => w.oldest != 1 && w.pos[1]? == some (.finished 7 true 0 false 0)) = true ∧
    at0 (labPos 0 (.finished 7 true 0 false 9)) (fun _ => decide ((labPos 0 (.finished 7 true 0 false 9)).clockOf .task < 9)) = true ∧
    at0 (labPos 0 (.finished 7 true 0 false 0)) (fun w => w.cfg.det == 0) = true ∧
    at0 (labPos 1 (.finished 7 false 0 false 0)) (fun w => w.cfg.det == 1 && labResid.home.poison == []) = true ∧
    ([(0, false), (1, false), (1, true)].all fun x => at0 (labPos 2 (.finished 7 false x.1 x.2 0)) (fun w => w.cfg.det == 2 &&
      (bytesNat (memRead labResid.home.mem ((labPos 2 .waiting).digestAddr w (w.virt 0)) 8) == x.1) == (x.1 == 0))) = true ∧
    theWork labPosting (fun w => w.pos[0]? == some (.finished 7 false 0 false 0) && labPosting.updatesLeft w 7 && w.oldest == 0) = true ∧
    ([labPos 0 (.finished 7 true 0 false 0), labPos 1 (.finished 7 false 0 false 0), labPos 2 (.finished 7 false 0 false 0)].all fun s =>
      theWork s fun w => !s.updatesLeft w 7) = true ∧
    theWork (labPos 0 .rerun) (fun w => w.job.isNone && loadsWins (labPos 0 .rerun) w && (labPos 0 .rerun).itsTurn w && w.unitsOf labResid == [] && !(labResid.ctx w.ctx).held &&
      (labPos 0 .rerun).topPriority w && ((labPos 0 .rerun).choose w.cfg).isSome && ((labPos 0 .rerun).freeSave w.ctx).isSome &&
      readsCode labResid w) = true ∧
    ([false, true].all fun g => ends (onHost (labEnding 0 g)) fun w j => w.ending == 0 &&
      ((onHost (labEnding 0 g)).writeFields w 0 ((if j.gainMode then gainFields w j else []) ++ resultFields w j)).isSome) = true ∧
    ends (labEnding 1 false) (fun w j => w.ending == 1 && w.lost.isNone && (labEnding 1 false).mapAddr w.ctx (j.card + 72) 1 == some (.local, 0x30048)) = true ∧
    writable (labEnding 1 false) 0 0x30048 1 0x30048 ∧
    ends (labEnding 2 false) (fun w _ => w.ending == 2 && decide (w.gwct ≤ (labEnding 2 false).clockOf .task) && w.reqs == []) = true := by
  simp only [writable, State.memWf]; decide +kernel
/-! ### Witnesses: pre-emption -/

/-- A launch of priority 1 that no cluster can take, beside `lab`'s unit of mode `det`. -/
def labStarved (det : Nat) : State :=
  { labResid with
    works := labWork none :: labResid.works.map fun w => { w with cfg := { w.cfg with priority := 1, csize := 1000 } }
    units := labResid.units.map fun u => { u with cfg := { u.cfg with det := det } } }
def starves (det : Nat) : Bool := (labStarved det).works.any fun w => (labStarved det).work? w.id == some w && (labStarved det).starved w &&
  (labStarved det).topPriority w && match (labStarved det).units with
    | [v] => !v.preemptReq && v.state == .running && decide (v.cfg.priority < w.cfg.priority) && v.cfg.det == det &&
      ((labStarved det).work? v.work).any fun y => y.job.isNone
    | _ => false
def labParked (p : Option Nat) : State :=
  let s := labResid.modThread ⟨1, 0, 0⟩ 0 fun t => { t with parked := p, busy := some 9 }
  { s.modCore 0 fun c => { c with clock := 5000 } with tick := 5000 }
def theUnit (s : State) (f : Placed → Bool) : Bool := match s.units with | [u] => s.unit? u.id == some u && f u | _ => false
/-- The placed cluster of a launch as `f` makes it; its request to stop; stopped; saved. -/
def labRuns (f : Placed → Placed) : State := { labPlaced with units := (labPlaced.units.drop 1).map f }
def unitId (s : State) : Nat := (s.units.head?.map (·.id)).getD 0
def labAsked : State := labRuns fun u => { u with preemptReq := true }
def labStopping : State := after (.preemptionSave (unitId labAsked) true) labAsked
def labSaved : State := { labStopping with units := labStopping.units.map fun u => { u with state := .saved, preemptReq := false } }
def labBack (det bars : Nat) : State := { labSaved with
  works := labSaved.works.map fun w => { w with cfg := { w.cfg with det := det } }
  units := labSaved.units.map fun u => { u with cfg := { u.cfg with bars := bars } } }
def backs (det bars : Nat) (f : State → Placed → Work → Bool) : Bool := let s := labBack det bars
  theUnit s fun u => (s.work? u.work).any fun w => s.restorable u && s.topPriority w && w.job.isNone && s.itsTurn w &&
    !s.reloadBusy u w && f s u w
def loadable (s : State) (u : Placed) (w : Work) : Bool := !s.slotPoisoned u (s.restoreSpans u) && (s.reloadWins u w).isSome
/-- Its slot poisoned, or its launch record spoiled. -/
def labWorn (poison : Bool) : State :=
  let s := labBack 0 1
  if poison then { s with home := { s.home with poison := s.units.map s.slotBase } } else { s with home := { s.home with mem := memWrite s.home.mem 0x20080 (List.replicate 128 0xFF) } }
def labHinted : State := labRuns fun u => { u with preemptReq := true, wgs := u.wgs.map fun g =>
  { g with warps := g.warps.map fun w => { w with threads := w.threads.map fun t => { t with hints := ⟨none, none, true⟩ } } } }
/-- Without poison every save image can be written. -/
theorem slotBad_clean (s : State) (u : Placed) (img : List (Nat × List Byte)) (h : s.home.poison = []) : s.slotBad u img = false := by
  simp only [State.slotBad, State.slotBadAt, Option.isSome_eq_false_iff, Option.isNone_iff_eq_none, List.findSome?_eq_none_iff]
  intros; simp [writePhys, h]
theorem witness_Preemption :
    labStopping.home.poison = [] ∧
    labMem.ctxs.length = 256 ∧ ((after (.inval 0) labMem).ctx 0).invs.length = 1 ∧ (labMem.ctx 0).invs = [] ∧ (after (.inval 0) labMem).ctxs.length = 256 ∧
    starves 0 = true ∧ starves 1 = true ∧
    ([some 904, none].all fun p => theUnit (labParked p) fun u => u.state == .running && !u.preemptReq && u.cfg.det == 0 &&
      (labParked p).works.any (labParked p).workReady && u.anyThread (!·.exited) &&
      u.wgs.all fun g => g.warps.all fun w => w.threads.all fun t => t.exited || (t.parked == p && t.busy.isSome &&
        p.all fun k => decide (k + 4096 ≤ (labParked p).now g.core))) = true ∧
    ([Hints.none, ⟨none, none, true⟩].all fun h => theUnit (labRuns fun u => { u with preemptReq := true, wgs := u.wgs.map fun g =>
        { g with warps := g.warps.map fun w => { w with threads := modAt w.threads 0 fun t => { t with hints := h } } } }) fun u =>
      u.state == .running && u.preemptReq && !u.swapped && u.stoppable == (h == Hints.none)) = true ∧
    theUnit labAsked (fun u => labAsked.mayStop u) = true ∧ theUnit labHinted (fun u => u.state == .running && u.preemptReq && !labHinted.mayStop u) = true ∧
    theUnit (labRuns fun u => { u with preemptReq := true, swapped := true }) (fun u => u.swapped &&
      !(labRuns fun u => { u with preemptReq := true, swapped := true }).longParked u) = true ∧
    theUnit labStopping (fun u => u.state == .stopping && labStopping.stopDone u && u.stash.all (·.dirty == []) &&
      (labStopping.work? u.work).isSome && u.anyThread (!·.exited)) = true ∧
    (let s := { labStopping with units := labStopping.units.map fun u => { u with wgs := u.wgs.map fun g => { g with warps := g.warps.map fun w =>
       { w with threads := w.threads.map fun t => { t with exited := true } } } } }
     theUnit s fun u => u.state == .stopping && s.stopDone u && !u.anyThread (!·.exited)) = true ∧
    (let s := after (.preemptionSave (unitId labAsked) true) (labRuns fun u => { u with preemptReq := true, wgs := u.wgs.map fun g =>
        { g with warps := g.warps.map fun w => { w with threads := w.threads.map fun t =>
          { t with ckpt := some ⟨t.pc, 0, [(3, ⟨1, [], 0⟩)], [], [], 0⟩ } } } })
     theUnit s fun u => u.state == .stopping && u.anyThread fun t => !t.exited && t.ckpt.any fun k => (k.g.map (·.1)) == [3]) = true ∧
    backs 0 1 (fun s u w => loadable s u w && w.cfg.det == 0 && u.cfg.det == 0 && readsCode s w && (s.choose u.seatCfg).isSome) = true ∧
    backs 0 1000 (fun s u w => loadable s u w && s.choose u.seatCfg == none) = true ∧
    ([true, false].all fun p => theUnit (labWorn p) fun u => ((labWorn p).work? u.work).any fun w => (labWorn p).restorable u &&
      (labWorn p).topPriority w && (labWorn p).itsTurn w && !(labWorn p).reloadBusy u w && (labWorn p).slotPoisoned u ((labWorn p).restoreSpans u) == p &&
      (p || ((labWorn p).reloadWins u w).isNone)) = true ∧
    backs 1 1 (fun s u w => loadable s u w && !u.rerun && (w.unitsOf s).all s.restorable && (s.restoreWave w (w.waveA.getD 1) (w.unitsOf s)).isSome) = true ∧
    backs 1 1 (fun s u w => loadable s u w && !u.rerun && (let t : State := { s with home := { s.home with poison := [s.slotBase u] } }
      (w.unitsOf t).any fun v => t.slotPoisoned v (t.restoreSpans v))) = true ∧
    backs 1 1000 (fun s u w => loadable s u w && !u.rerun && s.restoreWave w (w.waveA.getD 1) (w.unitsOf s) == none) = true := by decide +kernel
/-! ### Witnesses: the Watch engine and the management controller -/

def labStop : State := after (.stop 0) labDump
def names (s : State) (f : Placed → Workgroup → Bool) : Bool := (s.namedUnit 0).any fun u => s.watchWord 0 0x13 / 2 ^ 31 % 2 == 0 &&
  s.unit? u.id == some u && u.cfg.det == 0 && (u.wgs[s.watchWord 0 0x13 % 4]?).any (f u)
/-- The front end halted at a breakpoint that holds the packet at HEAD. -/
def labFe (v : Nat) : State := (fun s => { s with watch := { s.watch with feHalted := true, feQueue := 0 } }) (labSys v false id)
def fePacket (v : Nat) : Bool := let s := labFe v
  s.watch.feHalted && s.watch.feOp.isNone && s.amc.mode == 1 && (s.queue 0).waiting && aHead s v && !malformed v
/-- A sampler of core 0 for context 0, its period 100, its ring of 16 records at 0x9000. -/
def labSample (clk period : Nat) : State := { ((labMem.setWatchWord 0 0 (2 ^ 31 + period)).setWatchWord 0 1 (0x9000 + 4)).modCore 0 fun k =>
  { k with samplers := [⟨0, 0, 0, 31, []⟩] } with clk := clk }
def labRing (n : Nat) : State := { (labMem.setWatchWord 0 9 (0x9000 + n)) with
  watch := { (labMem.setWatchWord 0 9 (0x9000 + n)).watch with rings := [⟨0, true, 3, 7, 0⟩], made := [⟨0, 0, 7⟩] } }
def aDump : Dump := { ctx := 0, kind := 2, launchid := 0, idx := 0, stoppc := 0, bkcode := 0, wgic := 0, entries := [], overflow := 0, time := 0, started := false }
def labDumps (slots : BitVec 12) (dump : Option Dump) (q : List Dump) : State :=
  { labDump with watch := { labDump.watch with dslots := slots, dump := dump, dumpQ := q } }
theorem witness_WatchEvents :
    names labDump (fun _ g => !g.stands && (g.warps[0]?).isSome && labDump.watch.dump.isNone && labDump.watch.dumpQ == [] && labDump.watch.dslots != 0 &&
      (labDump.watch.dhead - labDump.watch.dtail).toNat != labDump.watch.dslots.toNat) = true ∧
    names labStop (fun u g => g.stands &&
      (labStop.thread? ⟨u.id, 0, labStop.watchWord 0 0x13 / 4 % 32⟩ (labStop.watchWord 0 0x13 / 2 ^ 7 % 32)).any fun t => !t.exited) = true ∧
    ([aNop, aSignal, aLaunch, aJob].all fePacket) = true ∧ (labFe aNop).queues.length = 32 ∧
    (match (labFe aLaunch).readRec 0 0x20000 256, (labFe aJob).readRec 0 0x30000 128 with | .val _, .val _ => true | _, _ => false) = true ∧
    labMem.queues.length = 32 ∧ labMem.ctxs.length = 256 ∧ labMem.watch.bps[7]?.isSome = true ∧
    ([100, 99].all fun clk => ((labSample clk 100).core 0).samplers.any fun x => (labSample clk 100).watchWord 0 0 / 2 ^ 31 % 2 == 1 &&
      (labSample clk 100).watchWord 0 0 % 2 ^ 24 == 100 && (labSample clk 100).watchWord 0 1 % 32 == 4 &&
      (decide (x.last < clk) && (clk - x.t0) % 100 == 0) == (clk == 100) &&
      (natGet (labSample clk 100).watch.places 0 + 2 ^ 32 - (labSample clk 100).watchWord 0 4) % 2 ^ 32 != 2 ^ 4) = true ∧
    (labSample 0 0).watchWord 0 0 % 2 ^ 24 = 0 ∧
    (labRing 4).watch.rings = [⟨0, true, 3, 7, 0⟩] ∧ (labRing 4).memWf ∧ (labRing 4).home.poison = [] ∧
    (labRing 4).watch.made = [⟨0, 0, 7⟩] ∧ (labRing 4).watchWord 0 9 % 32 = 4 ∧
    (natGet (labRing 4).watch.places 1 + 2 ^ 32 - (labRing 4).watchWord 0 12) % 2 ^ 32 = 0 ∧
    (labRing 3).watch.made = [⟨0, 0, 7⟩] ∧ (labRing 3).watchWord 0 9 % 32 = 3 ∧ (labRing 3).watchWord 0 13 = 0 ∧
    (∀ slots ∈ [(0 : BitVec 12), 2], (labDumps slots none [aDump]).watch.dump = none ∧ (labDumps slots none [aDump]).watch.dumpQ = [aDump] ∧
      (labDumps slots none [aDump]).watch.dslots = slots ∧ (labDumps slots none [aDump]).watch.ddrop ≠ 0xFFFFFFFF ∧
      (labDumps slots none [aDump]).watch.dhead = (labDumps slots none [aDump]).watch.dtail) ∧
    (labDumps 2 (some { aDump with started := true }) []).watch.dump = some { aDump with started := true } ∧
    (labDumps 2 none []).memWf ∧ (labDumps 2 none []).home.poison = [] := by
  simp only [State.memWf]; decide +kernel

/-- A command with CMD, flags and a payload whose length its header names, under TAG 3. -/
def aReq (cmd flags : Nat) (payload : List Byte) : MgmtReq :=
  ⟨.mctp, Config.vendorId, 0x7E, BitVec.ofNat 64 (payload.length * 2 ^ 32 + 3 * 2 ^ 16 + flags * 2 ^ 8 + cmd), payload⟩
/-- An update held by interface `i`; both slots of version 5 and lowest version `low`, verified when `v`. -/
def labAmc (mode : BitVec 2) (i : Option MgmtIf) (v : Bool) (low : Nat) : State := (fun s => { s with
  amc := { s.amc with mode := mode, update := i, slots := s.amc.slots.map fun x =>
    { x with verified := v, image := memWrite x.image 0 (natBytes 64 (5 * 2 ^ 32 + low * 2 ^ 64)) } } }) labMem
def owned (s : State) (f : FwSlot → Bool) : Bool := s.amc.mode != 0 && s.amc.update == some .mctp && f (s.amc.slotN (!s.amc.slot))
/-- The header, the payload and how it is carried. -/
def aCmd (cmd flags : Nat) (payload : List Byte) : Bool :=
  let r := aReq cmd flags payload
  r.iface == .mctp && r.type == 0x7E && r.payload == payload && r.header.toNat == payload.length * 2 ^ 32 +
    r.header.toNat / 2 ^ 16 % 2 ^ 16 * 2 ^ 16 + flags * 2 ^ 8 + cmd
theorem witness_ManagementCommands :
    (∀ c, (aReq c 0 []).vendor = Config.vendorId) ∧ ([1, 3, 4, 5, 6, 7, 9].all fun c => aCmd c 0 []) = true ∧ aCmd 6 1 [] = true ∧
    labMem.amc.slots.length = 2 ∧ labMem.amc.counters.length = 7 ∧ labMem.amc.mode ≠ 0 ∧ labMem.amc.update = none ∧
    ([4, 2, 2 ^ 25].all fun off => aCmd 2 0 (natBytes 4 off ++ [1, 2, 3, 4])) = true ∧ aCmd 8 0 (natBytes 4 9) = true ∧
    (2 ^ 25 - 4) % 4 = 0 ∧ (2 ^ 25 - 4) + [1, 2, 3, 4].length ≤ 2 ^ 25 ∧ 2 ^ 25 + [1, 2, 3, 4].length > 2 ^ 25 ∧
    owned (labAmc 1 (some .mctp) true 5) (fun x => x.verified && decide (((labAmc 1 (some .mctp) true 5).amc.slotN false).minver ≤ x.version)) = true ∧
    owned (labAmc 1 (some .mctp) true 6) (fun x => decide (x.version < ((labAmc 1 (some .mctp) true 6).amc.slotN false).minver)) = true ∧
    owned (labAmc 1 (some .mctp) false 5) (fun x => !x.verified) = true ∧
    (labAmc 0 none true 5).amc.mode = 0 ∧ (labAmc 1 (some .doe) true 5).amc.update = some .doe ∧
    -- a row's command with a flag too many, with a LENGTH of another payload, under no row's CMD, and of another type
    aCmd 1 2 [] = true ∧ ({ aReq 1 0 [] with payload := [1] } : MgmtReq).header.toNat / 2 ^ 32 ≠ 1 ∧ aCmd 10 0 [] = true ∧ aCmd 0 0 [] = true ∧
    (∀ c, ({ aReq c 0 [] with type := 0x05 } : MgmtReq).iface ≠ .doe) ∧ ({ aReq 1 0 [] with type := 0x05 } : MgmtReq).type ≠ 0x7E ∧
    ([0, 3, 0xFF].all fun op => bytesNat ((([0x13, 0xE0, 0, BitVec.ofNat 8 op] : List Byte).drop 3).take 1) == op) = true := by
  exact ⟨fun _ => rfl, by decide +kernel, by decide +kernel, by decide +kernel, by decide +kernel, by decide +kernel, by decide +kernel,
    by decide +kernel, by decide +kernel, by decide +kernel, by decide +kernel, by decide +kernel, by decide +kernel, by decide +kernel,
    by decide +kernel, by decide +kernel, by decide +kernel, by decide +kernel, by decide +kernel, by decide +kernel, by decide +kernel,
    fun _ => by simp [aReq], by decide +kernel, by decide +kernel⟩

/-- An image with the magic number and the hash of an empty body, in both slots; `labBoot` when its signature verifies. -/
def anImage : Memory := memWrite [] 0 (natBytes 64 (0x5A4BA7F1 + bytesNat (sha3 []) * 2 ^ 256))
def labBoot (fails : BitVec 2) (image : Memory) : State := (fun s => { s with
  amc := { s.amc with fails := fails, slots := s.amc.slots.map fun x => { x with image := image } } }) labMem
theorem witness_DeviceEvents :
    (Config.imageSigned (memRead anImage 0 2484) = true → ((labBoot 0 anImage).amc.slotN (labBoot 0 anImage).amc.slot).verifies = true) ∧
    (labBoot 0 anImage).amc.fails ≠ 3 ∧ (labBoot 0 anImage).amc.pending = false ∧
    (∀ b ∈ [false, true], ((labBoot 0 []).amc.slotN b).verifies = false) ∧ (labBoot 3 []).amc.fails = 3 ∧ (labBoot 3 []).amc.pending = false ∧
    (List.replicate 40 (0 : Byte)).length = 40 + 8 * bytesNat (((List.replicate 40 (0 : Byte)).drop 36).take 2) ∧
    (∀ n ∈ [0, 2, 3, 5], labMem.amc.counters[n]? = some 0) ∧ labMem.amc.counters.length = 7 := by
  refine ⟨fun h => ?_, ?_⟩
  · have hs : (labBoot 0 anImage).amc.slotN (labBoot 0 anImage).amc.slot = ⟨anImage, ((labBoot 0 anImage).amc.slotN (labBoot 0 anImage).amc.slot).verified⟩ := by
      decide +kernel
    rw [hs, FwSlot.verifies, h]; decide +kernel
  · decide +kernel

end Sys2Proof.Tests
end

section
/-! Proofs of the module reset, the sensors, the counters and the errors of the management controller (R2, R25, R485, R487, R488,
R491, R494, R495). -/

namespace Sys2Proof.Machine

/-! ### The log ring -/

/-- A record more, unless the ring is full (R483); nothing else changes. -/
theorem log_eq (s : State) (source code d0 d1 : Nat) :
    ∃ l, s.log source code d0 d1 = { s with amc := { s.amc with log := l } } ∧ l.length = min 16384 (s.amc.log.length + 1) := by
  refine ⟨_, rfl, ?_⟩
  simp only [List.length_drop, List.length_append, List.length_singleton]
  omega
@[simp] theorem log_units (s : State) (source code d0 d1 : Nat) : (s.log source code d0 d1).units = s.units := by
  obtain ⟨l, h, -⟩ := log_eq s source code d0 d1
  rw [h]
@[simp] theorem log_home (s : State) (source code d0 d1 : Nat) : (s.log source code d0 d1).home = s.home := by
  obtain ⟨l, h, -⟩ := log_eq s source code d0 d1
  rw [h]
@[simp] theorem log_amc_counters (s : State) (source code d0 d1 : Nat) :
    (s.log source code d0 d1).amc.counters = s.amc.counters := by
  obtain ⟨l, h, -⟩ := log_eq s source code d0 d1
  rw [h]
@[simp] theorem log_length (s : State) (source code d0 d1 : Nat) :
    (s.log source code d0 d1).amc.log.length = min 16384 (s.amc.log.length + 1) := by
  obtain ⟨l, h, hl⟩ := log_eq s source code d0 d1
  rw [h, hl]

/-- One record of a start. -/
def State.logStage (s : State) (e : Nat × Nat × Nat) : State := s.log e.1 e.2.1 e.2.2 0
/-- The records of a start change the log only. -/
theorem foldl_logStage_eq (es : List (Nat × Nat × Nat)) (s : State) :
    ∃ l, es.foldl State.logStage s = { s with amc := { s.amc with log := l } } ∧
      (es ≠ [] → l.length = min 16384 (s.amc.log.length + es.length)) := by
  induction es generalizing s with
  | nil => exact ⟨_, rfl, fun h => absurd rfl h⟩
  | cons e es ih =>
    obtain ⟨l, hl, hlen⟩ := log_eq s e.1 e.2.1 e.2.2 0
    obtain ⟨l', hl', hlen'⟩ := ih { s with amc := { s.amc with log := l } }
    refine ⟨l', by rw [List.foldl_cons, State.logStage, hl, hl'], fun _ => ?_⟩
    cases es with
    | nil =>
      have same : l = l' := congrArg (fun t : State => t.amc.log) hl'
      rw [← same]
      exact hlen
    | cons e' es =>
      simp only [hlen' (List.cons_ne_nil _ _), hlen, List.length_cons]
      omega

/-! ### The ends of a start (R487, R488, R491) -/

theorem minimal_iff (a : Amc) : a.minimal = true ↔ a.fails = 3 ∧ a.pending = false := by
  simp [Amc.minimal]
theorem minimal_false {a : Amc} (h : ¬ (a.fails = 3 ∧ a.pending = false)) : a.minimal = false := by
  rwa [← minimal_iff, Bool.not_eq_true] at h
theorem runnable_wanted {a : Amc} (h : (a.slotN a.wanted).verifies = true) : a.runnable = some a.wanted := by
  simp [Amc.runnable, h]
theorem runnable_none {a : Amc} (h1 : (a.slotN true).verifies = false) (h0 : (a.slotN false).verifies = false) :
    a.runnable = none := by
  have h : ∀ b, (a.slotN b).verifies = false := Bool.forall_bool.2 ⟨h0, h1⟩
  simp [Amc.runnable, h]
theorem failsAt_of_not_runnable {a : Amc} (f : Option (BitVec 3)) (h : a.runnable = none) : a.failsAt f = some 1 := by
  simp [Amc.failsAt, h]
theorem failsAt_none {a : Amc} {b : Bool} (h : a.runnable = some b) : a.failsAt none = none := by
  simp [Amc.failsAt, h]
theorem failsAt_stage {a : Amc} {b : Bool} {k : BitVec 3} (h : a.runnable = some b) (h2 : 2 ≤ k.toNat) (h6 : k.toNat ≤ 6) :
    a.failsAt (some k) = some k.toNat := by
  simp [Amc.failsAt, h, h2, h6]

theorem start_minimal {a : Amc} (f : Option (BitVec 3)) (h : a.minimal = true) : a.start f = { a with mode := 2 } := by
  simp [Amc.start, h]
theorem start_passes {a : Amc} {f : Option (BitVec 3)} {b : Bool} (hm : a.minimal = false) (hf : a.failsAt f = none)
    (hr : a.runnable = some b) : a.start f = { a with
      mode := 1, reason := 0, fails := 0, pending := false, slot := b, fwver := BitVec.ofNat 32 (a.slotN b).version } := by
  simp [Amc.start, hm, hf, hr]
theorem start_fails {a : Amc} {f : Option (BitVec 3)} {k : Nat} (hm : a.minimal = false) (hf : a.failsAt f = some k) :
    a.start f = { a with
      mode := 0, reason := BitVec.ofNat 8 k, pending := false, fails := if a.fails = 3 then 3 else a.fails + 1 } := by
  simp [Amc.start, hm, hf]

theorem startLog_length_passes {a : Amc} {f : Option (BitVec 3)} (hm : a.minimal = false) (hf : a.failsAt f = none)
    (hr : a.runnable = some a.wanted) : (a.startLog f).length = 6 := by
  simp [Amc.startLog, hm, hf, hr, List.range_succ]
/-- A start that ends at stage `k` logs the stages up to it, and that the activated slot gives way. -/
theorem startLog_length_fails {a : Amc} {f : Option (BitVec 3)} {k : Nat} (hm : a.minimal = false) (hf : a.failsAt f = some k)
    (h1 : 1 ≤ k) (h6 : k ≤ 6) : (a.startLog f).length = k + if a.pending = true then 1 else 0 := by
  have hk : k < 7 := by omega
  simp only [Amc.startLog, hm, hf, Option.getD_some, Bool.false_eq_true, if_false, hk, decide_true, Bool.true_or, Bool.and_true,
    List.length_append]
  congr 1
  · interval_cases k <;> rfl
  · cases a.pending <;> rfl

/-! ### The module reset -/

/-- What every module reset leaves: the device's reset state, and what outlives it (R25, R327; log entry 70). -/
def State.Cleared (s t : State) : Prop :=
  t.tick = 0 ∧ t.units = [] ∧ t.works = [] ∧ t.ops = [] ∧ t.queues = State.reset.queues ∧ t.ctxs = State.reset.ctxs ∧
    t.nextLaunch = 1 ∧ t.watch = Watch.reset ∧ t.amc.enmask = s.amc.enmask ∧ t.home.host = s.home.host ∧ t.amc.pending = false
theorem resetKeep_cleared {s : State} {a : Amc} (he : a.enmask = s.amc.enmask) (hp : a.pending = false) :
    s.Cleared (s.resetKeep a) :=
  ⟨rfl, rfl, rfl, rfl, rfl, rfl, rfl, rfl, he, rfl, hp⟩
/-- A module reset leaves the kept state with the controller after its start, whose log holds the start's records. -/
theorem exec_moduleReset (f : Option (BitVec 3)) (s : State) {a : Amc} (ha : s.amc.start f = a) :
    ∃ l, exec (.moduleReset f) s = .next (s.resetKeep { a with log := l }) ∧
      (s.amc.startLog f ≠ [] → l.length = min 16384 (a.log.length + (s.amc.startLog f).length)) := by
  subst ha
  obtain ⟨l, hl, hlen⟩ := foldl_logStage_eq (s.amc.startLog f) (s.resetKeep (s.amc.start f))
  exact ⟨l, congrArg Host.Outcome.next hl, hlen⟩

/-- R487, R491: a start whose wanted slot verifies and that no stage ends runs that slot. -/
theorem moduleReset_passes {s : State} (hm : s.amc.minimal = false) (hv : (s.amc.slotN s.amc.wanted).verifies = true) :
    Does (.moduleReset none) s fun t => s.Cleared t ∧ t.amc.mode = 1 ∧ t.amc.reason = 0 ∧ t.amc.fails = 0 ∧
      t.amc.slot = s.amc.wanted ∧ t.amc.fwver = BitVec.ofNat 32 (s.amc.slotN s.amc.wanted).version ∧
      t.amc.log.length = min 16384 (s.amc.log.length + 6) := by
  have hr := runnable_wanted hv
  have hf := failsAt_none hr
  have hlen := startLog_length_passes hm hf hr
  obtain ⟨l, he, hl⟩ := exec_moduleReset none s (start_passes hm hf hr)
  rw [hlen] at hl
  exact ⟨_, he, resetKeep_cleared rfl rfl, rfl, rfl, rfl, rfl, rfl, hl (List.ne_nil_of_length_pos (by omega))⟩
/-- R487, R488: a start that stage `k` ends leaves the device starting, with `k` as its reason and one failure more. -/
theorem moduleReset_fails {s : State} {f : Option (BitVec 3)} {k : Nat} (hm : s.amc.minimal = false)
    (hf : s.amc.failsAt f = some k) (h1 : 1 ≤ k) (h6 : k ≤ 6) :
    Does (.moduleReset f) s fun t => s.Cleared t ∧ t.amc.mode = 0 ∧ t.amc.reason = BitVec.ofNat 8 k ∧ t.amc.slot = s.amc.slot ∧
      t.amc.log.length = min 16384 (s.amc.log.length + k + if s.amc.pending = true then 1 else 0) ∧
      t.amc.fails = if s.amc.fails = 3 then 3 else s.amc.fails + 1 := by
  have hlen := startLog_length_fails hm hf h1 h6
  obtain ⟨l, he, hl⟩ := exec_moduleReset f s (start_fails hm hf)
  rw [hlen, ← Nat.add_assoc] at hl
  exact ⟨_, he, resetKeep_cleared rfl rfl, rfl, rfl, rfl, hl (List.ne_nil_of_length_pos (by omega)), rfl⟩
/-- R488: after three failures, with no image activated, the device starts in minimal mode. -/
theorem moduleReset_minimal {s : State} (f : Option (BitVec 3)) (h3 : s.amc.fails = 3) (hp : s.amc.pending = false) :
    Does (.moduleReset f) s fun t => s.Cleared t ∧ t.amc.mode = 2 ∧ t.amc.reason = s.amc.reason ∧ t.amc.fails = 3 := by
  obtain ⟨l, he, -⟩ := exec_moduleReset f s (start_minimal f ((minimal_iff _).2 ⟨h3, hp⟩))
  exact ⟨_, he, resetKeep_cleared rfl hp, rfl, rfl, h3⟩

/-! ### Sensors (R485) -/

/-- The temperature bytes of a stack in new readings. -/
def Amc.stackTemp (a : Amc) (bs : List Byte) (n : Nat) : List Byte :=
  if a.enmask.getLsbD n then (bs.drop (2 * n)).take 2 else [0x00, 0x80]
theorem stackTemp_length (a : Amc) {bs : List Byte} {n : Nat} (h : 2 * n + 2 ≤ bs.length) : (a.stackTemp bs n).length = 2 := by
  unfold Amc.stackTemp
  split
  · rw [List.length_take, List.length_drop]; omega
  · rfl
theorem flatMap_range_length {α : Type} {f : Nat → List α} {c m : Nat} (h : ∀ i < m, (f i).length = c) :
    ((List.range m).flatMap f).length = m * c := by
  rw [List.length_flatMap, List.map_congr_left fun i hi => h i (List.mem_range.1 hi)]
  simp
/-- Of pieces of `c` elements each, laid end to end, the one at `c * n` is the n-th. -/
theorem take_drop_flatMap_range {α : Type} {f : Nat → List α} {c m n : Nat} (rest : List α) (h : ∀ i < m, (f i).length = c)
    (hn : n < m) : (((List.range m).flatMap f ++ rest).drop (c * n)).take c = f n := by
  obtain ⟨k, rfl⟩ := Nat.exists_eq_add_of_lt hn
  have hpre : ((List.range n).flatMap f).length = c * n := by
    rw [flatMap_range_length fun i hi => h i (by omega), Nat.mul_comm]
  have hcut : (List.range (n + k + 1)).flatMap f =
      (List.range n).flatMap f ++ (f n ++ ((List.range k).map (n + 1 + ·)).flatMap f) := by
    rw [Nat.add_right_comm, List.range_add, List.flatMap_append, List.range_succ, List.flatMap_append, List.append_assoc,
      List.flatMap_singleton]
  rw [hcut, List.append_assoc, List.drop_left' hpre, List.append_assoc, List.take_left' (h n hn)]

theorem exec_sensorRefresh {bs : List Byte} (s : State) (h : bs.length = 40 + 8 * bytesNat ((bs.drop 36).take 2)) :
    exec (.sensorRefresh bs) s = .next { s with amc := { s.amc with
      sensors := (List.range 16).flatMap (s.amc.stackTemp bs) ++ ((bs.drop 32).take 6 ++ natBytes 2 0 ++ bs.drop 40) } } := by
  change execSensorRefresh bs s = _
  simp only [execSensorRefresh, ← h, bne_self_eq_false, Bool.false_eq_true, if_false, List.append_assoc]
  rfl
/-- R485: the readings are taken over; a stack that is disabled reads 0x8000. -/
theorem sensorRefresh_does (s : State) {bs : List Byte} (h : bs.length = 40 + 8 * bytesNat ((bs.drop 36).take 2)) :
    Does (.sensorRefresh bs) s fun t => t.home = s.home ∧ t.amc.sensors.length = bs.length ∧
      t.amc.sensors.drop 40 = bs.drop 40 ∧ ∀ n < 16, (t.amc.sensors.drop (2 * n)).take 2 = s.amc.stackTemp bs n := by
  have hpiece : ∀ i < 16, (s.amc.stackTemp bs i).length = 2 := fun i hi => stackTemp_length _ (by omega)
  have htemps := flatMap_range_length hpiece
  have hfixed : ((List.range 16).flatMap (s.amc.stackTemp bs) ++ ((bs.drop 32).take 6 ++ natBytes 2 0)).length = 40 := by
    simp only [List.length_append, htemps, List.length_take, List.length_drop, natBytes, List.length_cons, List.length_nil]
    omega
  refine ⟨_, exec_sensorRefresh s h, rfl, ?_, ?_, fun n hn => take_drop_flatMap_range _ hpiece hn⟩
  · rw [← List.append_assoc, List.length_append, hfixed, List.length_drop]
    omega
  · rw [← List.append_assoc, List.drop_left' hfixed]

/-! ### Counters (R494) -/

/-- A count stops at its largest value. -/
def countUp (c : Word) : Word := if c = 0xFFFFFFFF then c else c + 1
theorem countUp_toNat (c : Word) : (if c.toNat = 2 ^ 32 - 1 then c else c + 1) = countUp c := by
  have h : c.toNat = 2 ^ 32 - 1 ↔ c = 0xFFFFFFFF := by rw [← BitVec.toNat_inj]; rfl
  simp only [countUp, h]
@[simp] theorem count_units (s : State) (n d : Nat) : (s.count n d).units = s.units := log_units ..
@[simp] theorem count_home (s : State) (n d : Nat) : (s.count n d).home = s.home := log_home ..
@[simp] theorem count_log_length (s : State) (n d : Nat) :
    (s.count n d).amc.log.length = min 16384 (s.amc.log.length + 1) := log_length ..
theorem count_counter_self {s : State} {n d : Nat} {c : Word} (h : s.amc.counters[n]? = some c) :
    (s.count n d).amc.counters[n]? = some (countUp c) := by
  simp only [State.count, log_amc_counters, modAt_getElem?, if_true, h, Option.map_some, countUp_toNat]
theorem count_counter_other {s : State} {n k d : Nat} (h : k ≠ n) :
    (s.count n d).amc.counters[k]? = s.amc.counters[k]? := by
  simp only [State.count, log_amc_counters, modAt_getElem?, h, if_false]

theorem exec_softErrorCorrection (s : State) {n : Nat} (h : n < 3) :
    exec (.softErrorCorrection (BitVec.ofNat 2 n)) s = .next (s.count n 0) := by
  change execSoftErrorCorrection _ s = _
  have hn : n % 2 ^ 2 = n := Nat.mod_eq_of_lt (by omega)
  simp only [execSoftErrorCorrection, BitVec.toNat_ofNat, hn, h, if_true]
theorem exec_flitRetry (s : State) {n : Nat} (h3 : 3 ≤ n) (h6 : n < 6) :
    exec (.flitRetry (BitVec.ofNat 2 (n - 3))) s = .next (s.count n 0) := by
  change execFlitRetry _ s = _
  have hn : (n - 3) % 2 ^ 2 = n - 3 := Nat.mod_eq_of_lt (by omega)
  have hlt : n - 3 < 3 := by omega
  simp only [execFlitRetry, BitVec.toNat_ofNat, hn, hlt, if_true, Nat.add_sub_cancel' h3]
/-- R494: an event that counts counter `n` changes that counter and the log. -/
theorem does_of_count {i : Instr} {s : State} {n : Nat} {c : Word} (he : exec i s = .next (s.count n 0))
    (hc : s.amc.counters[n]? = some c) :
    Does i s fun t => t.home = s.home ∧ t.units = s.units ∧ t.amc.log.length = min 16384 (s.amc.log.length + 1) ∧
      t.amc.counters[n]? = some (countUp c) ∧ ∀ k, k ≠ n → t.amc.counters[k]? = s.amc.counters[k]? :=
  ⟨_, he, count_home .., count_units .., count_log_length .., count_counter_self hc, fun _ => count_counter_other⟩

/-! ### Errors that cannot be corrected (R495) -/

/-- The units of device memory that an error poisons. -/
def spoiled (site : ErrSite) (a u : Nat) : Prop :=
  match site with
  | .unit => u = a / 8 * 8
  | .chunk => u % 8 = 0 ∧ u / 32 = a / 32
  | _ => False
theorem mem_append_new {u : Nat} (xs us : List Nat) : u ∈ xs ++ us.filter (fun v => !xs.contains v) ↔ u ∈ xs ∨ u ∈ us := by
  by_cases h : u ∈ xs <;> simp [h]
theorem mem_chunk_units {a u : Nat} :
    u ∈ (List.range 4).map (fun k => a / 32 * 32 + 8 * k) ↔ u % 8 = 0 ∧ u / 32 = a / 32 := by
  simp only [List.mem_map, List.mem_range]
  constructor
  · rintro ⟨k, hk, rfl⟩
    omega
  · intro h
    exact ⟨u % 32 / 8, by omega, by omega⟩
/-- R495, R356: an error poisons its unit or its chunk, or marks the unit of host or peer memory, and counter 6 counts it. -/
theorem uncorrectableError_does (s : State) (a : Nat) (site : ErrSite) :
    Does (.uncorrectableError a site) s fun t => t.home.mem = s.home.mem ∧ t.units = s.units ∧
      (∀ u, u ∈ t.home.poison ↔ u ∈ s.home.poison ∨ spoiled site a u) ∧
      (∀ u, u ∈ t.home.hostPoison ↔ u ∈ s.home.hostPoison ∨ (site = .host ∧ u = a / 8 * 8)) ∧
      (∀ n u, (n, u) ∈ t.home.peerErrs ↔ (n, u) ∈ s.home.peerErrs ∨ (site = .peer n ∧ u = a / 8 * 8)) ∧
      ∀ c, s.amc.counters[6]? = some c → t.amc.counters[6]? = some (countUp c) := by
  refine ⟨_, rfl, ?_⟩
  cases site with
  | unit =>
    refine ⟨rfl, rfl, fun u => ?_, by simp, by simp, fun c hc => count_counter_self hc⟩
    simpa [spoiled] using mem_append_new (u := u) s.home.poison [a / 8 * 8]
  | chunk =>
    refine ⟨rfl, rfl, fun u => ?_, by simp, by simp, fun c hc => count_counter_self hc⟩
    exact (mem_append_new _ _).trans (or_congr_right mem_chunk_units)
  | host =>
    refine ⟨rfl, rfl, by simp [spoiled], fun u => ?_, by simp, fun c hc => count_counter_self hc⟩
    simp [List.mem_eraseDups, or_comm]
  | peer n =>
    refine ⟨rfl, rfl, by simp [spoiled], by simp, fun m u => ?_, fun c hc => count_counter_self hc⟩
    simp [List.mem_eraseDups, or_comm, eq_comm (a := n)]

/-- Settles O60: the ends of a start, each from the controller that it leaves; then the sensors, the counters and the errors. -/
theorem deviceEvents : Obligations.DeviceEvents := by
  unfold Obligations.DeviceEvents
  intro s
  refine ⟨fun hm hv => ⟨moduleReset_passes (minimal_false hm) hv, fun k h2 h6 => ?_⟩, fun f hm h1 h0 => ?_,
    fun f h3 hp => moduleReset_minimal f h3 hp, fun bs h => sensorRefresh_does s h, fun i n c hc _ hi => ?_,
    fun a site => uncorrectableError_does s a site⟩
  · exact moduleReset_fails (minimal_false hm) (failsAt_stage (runnable_wanted hv) h2 h6) (by omega) h6
  · obtain ⟨t, he, hclear, hmode, hreason, hslot, -, hfails⟩ :=
      moduleReset_fails (minimal_false hm) (failsAt_of_not_runnable f (runnable_none h1 h0)) le_rfl (by omega)
    exact ⟨t, he, hclear, hmode, hreason, hslot, hfails⟩
  · obtain ⟨hn, rfl⟩ | ⟨h3, h6, rfl⟩ := hi
    · exact does_of_count (exec_softErrorCorrection s hn) hc
    · exact does_of_count (exec_flitRetry s h3 h6) hc

end Sys2Proof.Machine
end

section
/-! Proofs of the state after reset, and of the host's and the peers' accesses, the snoops and the page migration (R25, R29, R30,
R32, R317, R327, R347, R351, R355, R356, R409, R411, R414, R438, R460, R462, R482, R488, R495). -/

namespace Sys2Proof.Machine

/-! ### The state after reset -/

theorem reset_allWf : State.reset.allWf := by
  have hnil : Memory.wf [] := ⟨List.Pairwise.nil, List.forall_mem_nil _⟩
  refine ⟨⟨hnil, hnil, List.forall_mem_nil _, List.Pairwise.nil⟩, List.forall_mem_nil _, fun x hx => ?_⟩
  obtain rfl : x = ⟨[], false⟩ := List.eq_of_mem_replicate (n := 2) hx
  exact hnil

/-- Settles O44: each field stands in the definition of the reset state, whose queues, contexts and breakpoints are all alike. -/
theorem resetState : Obligations.ResetState := by
  unfold Obligations.ResetState
  refine ⟨rfl, rfl, rfl, rfl, rfl, rfl, List.length_replicate, fun x hx => List.eq_of_mem_replicate hx, List.length_replicate,
    fun x hx => List.eq_of_mem_replicate hx, rfl, List.length_replicate, fun b hb => ?_, rfl, rfl, rfl, rfl, rfl, rfl, rfl,
    reset_allWf⟩
  obtain rfl : b = CmdBp.reset := List.eq_of_mem_replicate hb
  exact ⟨rfl, rfl, rfl⟩

/-! ### A write within one line (R30, R411, R495) -/

@[simp] theorem natBytes_length (n v : Nat) : (natBytes n v).length = n := by
  induction n generalizing v with
  | zero => rfl
  | succ n ih => rw [natBytes, List.length_cons, ih]
@[simp] theorem lineParts_zero (a : Nat) : lineParts a 0 = [] := rfl
/-- A span that ends within its line is one piece. -/
theorem lineParts_of_line {a n : Nat} (h0 : 0 < n) (h : a % 256 + n ≤ 256) : lineParts a n = [(a, n)] := by
  have hmin : min n (256 - a % 256) = n := by omega
  have hn : n ≠ 0 := by omega
  simp [lineParts, splitAt, hmin, hn]

/-- Where no poison is met, every byte is written. -/
theorem writePhys_whole {h : Home} {pa : Nat} {bs : List Byte} (hp : ∀ u ∈ h.poison, overlaps u 8 pa bs.length = false) :
    (writePhys h pa bs).2 = none := by
  refine Option.map_eq_none_iff.2 (List.find?_eq_none.2 fun i hi => ?_)
  rw [Bool.not_eq_true, List.any_eq_false]
  intro u hu
  have hclear := hp u hu
  have hlt := List.mem_range.1 hi
  simp only [overlaps, Bool.and_eq_false_iff, decide_eq_false_iff_not] at hclear
  simp only [overlaps, Bool.and_eq_true, decide_eq_true_eq, Bool.not_eq_true', not_and]
  omega

/-- What a write at its slice leaves as it was: the Home engine but for its bytes, poison, times, snoops and cached table entries,
and every copy of the lease clock. -/
structure State.WriteFrame (s t : State) : Prop where
  home : t.home = { s.home with
    mem := t.home.mem, poison := t.home.poison, vis := t.home.vis, snooped := t.home.snooped, tlb := t.home.tlb }
  tick : t.tick = s.tick
  lags : t.lags = s.lags
theorem State.WriteFrame.hdmReads {s t : State} (h : s.WriteFrame t) : t.home.hdmReads = s.home.hdmReads := by rw [h.home]
theorem State.WriteFrame.peerDone {s t : State} (h : s.WriteFrame t) : t.home.peerDone = s.home.peerDone := by rw [h.home]
theorem clockOf_congr {s t : State} (ht : t.tick = s.tick) (hl : t.lags = s.lags) (e : Engine) : t.clockOf e = s.clockOf e := by
  simp only [State.clockOf, ht, hl]
/-- Which times have passed depends on the decoders and the clocks alone. -/
theorem hdmPassed_congr {s t : State} (hd : t.home.hdm = s.home.hdm) (ht : t.tick = s.tick) (hl : t.lags = s.lags)
    (hpa n v : Nat) : t.hdmPassed hpa n v = s.hdmPassed hpa n v := by
  simp only [State.hdmPassed, State.hdmFind, hd, ht, clockOf_congr ht hl]
theorem State.WriteFrame.hdmPassed {s t : State} (h : s.WriteFrame t) (hpa n v : Nat) : t.hdmPassed hpa n v = s.hdmPassed hpa n v :=
  hdmPassed_congr (by rw [h.home]) h.tick h.lags hpa n v
theorem State.WriteFrame.of_caches {s t r : State} (h : s.WriteFrame t) (hc : t.caches r) : s.WriteFrame r := by
  obtain ⟨hhome, htick, hlags⟩ := h
  obtain ⟨c, rfl⟩ := hc
  exact ⟨by rw [hhome], htick, hlags⟩
theorem wrote_of_caches {s t r : State} {a : Nat} {bs : List Byte} (h : wrote s t a bs) (hc : t.caches r) : wrote s r a bs := by
  obtain ⟨c, rfl⟩ := hc
  exact h

theorem gwctOf_eq_gwct (s : State) (ia n carried tclear : Nat) :
    gwctOf s.home (s.clockOf (.slice ia)) ia n carried tclear = gwct s ia n carried tclear := by
  simp only [gwctOf, gwct, visOf, max_assoc]

/-- The state once a write has reached its bytes with its GWCT, before its walk is cached. -/
def State.applied (s : State) (ia pa : Nat) (bs : List Byte) (g : Nat) : State :=
  { s with home := { (writePhys s.home pa bs).1 with
    vis := (chunksOf ia bs.length).foldl (fun m c => natSet m c g) s.home.vis
    snooped := natSet s.home.snooped (ia / 256) 0 } }.monitorsAfter ia bs.length
theorem applied_frame (s : State) (ia pa : Nat) (bs : List Byte) (g : Nat) : s.WriteFrame (s.applied ia pa bs g) := ⟨rfl, rfl, rfl⟩
theorem applied_wrote {s : State} {ctx ia pa : Nat} {bs : List Byte} (h : writable s ctx ia bs.length pa) (g : Nat) :
    wrote s (s.applied ia pa bs g) pa bs := by
  obtain ⟨⟨hmem, -⟩, -, -, -, -, hpoison⟩ := h
  exact writePhys_get hmem hpoison
/-- R411: a write that may be applied is applied with its GWCT, and every byte of it is written. -/
theorem writeLocal_of_writable {s : State} {ctx ia pa : Nat} {bs : List Byte} (h : writable s ctx ia bs.length pa)
    (carried tclear : Nat) :
    s.writeLocal ctx ia bs carried tclear =
      .ok ((s.applied ia pa bs (gwct s ia bs.length carried tclear)).cacheWalk ctx ia) (gwct s ia bs.length carried tclear) none := by
  obtain ⟨-, hlen, htr, hline, hsnoop, hpoison⟩ := h
  have hne : bs ≠ [] := List.ne_nil_of_length_pos hlen
  have hnot : s.home.hostLines.contains (ia / 256) = false := by simpa using hline
  have hearly : ¬ natGet s.home.snooped (ia / 256) ≥ 2 := Nat.not_le.2 hsnoop
  simp only [State.writeLocal, hne, hnot, htr, hearly, writePhys_whole hpoison, gwctOf_eq_gwct, if_false, Bool.false_eq_true,
    Option.map_none]
  rfl
/-- A local span that stays within its line is written as one piece. -/
theorem writeSpan_of_writable {s : State} {ctx ia pa : Nat} {bs : List Byte} (hline : ia % 256 + bs.length ≤ 256)
    (h : writable s ctx ia bs.length pa) (tclear : Nat) : ∃ t,
      s.writeSpan ctx .local ia bs tclear = (t, gwct s ia bs.length 0 tclear, none) ∧ wrote s t pa bs ∧ s.WriteFrame t := by
  have hcached := cacheWalk_caches (s.applied ia pa bs (gwct s ia bs.length 0 tclear)) ctx ia
  refine ⟨_, ?_, wrote_of_caches (applied_wrote h _) hcached, (applied_frame ..).of_caches hcached⟩
  have hwrite := writeLocal_of_writable h 0 tclear
  obtain ⟨-, hlen, -, hfree, -⟩ := h
  have hkeep : s.home.hostLines.filter (· != ia / 256) = s.home.hostLines :=
    List.filter_eq_self.2 fun l hl => bne_iff_ne.2 fun he => hfree (he ▸ hl)
  simp only [State.writeSpan, lineParts_of_line hlen hline, List.foldl_cons, List.foldl_nil, hkeep, Nat.sub_self, List.drop_zero,
    List.take_length, hwrite, Nat.zero_max, Option.isNone_none, if_true]

/-! ### The host (R29, R30, R414) -/

/-- R414: an access whose time has come at its slices has its answer; another waits for its time. -/
theorem hdmAnswer_home (s : State) (hpa : Nat) (bs : List Byte) (v : Nat) :
    (s.hdmAnswer hpa bs v).home =
      let passed := s.hdmPassed hpa (max 1 bs.length) v
      { s.home with
        hdmDone := if passed then s.home.hdmDone ++ [(hpa, bs, false)] else s.home.hdmDone
        hdmReads := if passed then s.home.hdmReads else s.home.hdmReads ++ [(hpa, bs, v)] } := by
  unfold State.hdmAnswer
  dsimp only
  split <;> rfl
/-- The host keeps the lines of a span in its cache, when it says so (R30). -/
def State.hostKeeps (s : State) (ia n : Nat) (keep : Bool) : State :=
  if keep then { s with home := { s.home with hostLines := (linesOf ia n ++ s.home.hostLines).eraseDups } } else s
theorem hostKeeps_home (s : State) (ia n : Nat) (keep : Bool) :
    ∃ l, s.hostKeeps ia n keep = { s with home := { s.home with hostLines := l } } := by
  cases keep with
  | false => exact ⟨s.home.hostLines, rfl⟩
  | true => exact ⟨_, rfl⟩
theorem exec_hdmRead {s : State} {hpa n ctx ia : Nat} {bs : List Byte} (keep : Bool) (ha : s.hdmAddr hpa n = some (ctx, ia))
    (hr : s.readSpan ctx .local ia n = .ok bs) : exec (.hdmRead hpa n keep) s =
      .next (((s.hostKeeps ia n keep).hdmAnswer hpa bs (visOf s.home ia n)).cacheSpan ctx .local ia n) := by
  change execHdmRead hpa n keep s = _
  simp only [execHdmRead, ha, hr]
  rfl
/-- R29, R414: the bytes are taken as they stand, and memory keeps them. -/
theorem hdmRead_does {s : State} {hpa n ctx ia : Nat} {bs : List Byte} (keep : Bool) (ha : s.hdmAddr hpa n = some (ctx, ia))
    (hr : s.readSpan ctx .local ia n = .ok bs) :
    let v := maxOf ((chunksOf ia n).map (natGet s.home.vis))
    Does (.hdmRead hpa n keep) s fun t => s.sameMemory t ∧
      let passed := s.hdmPassed hpa (max 1 bs.length) v
      t.home.hdmDone = (if passed then s.home.hdmDone ++ [(hpa, bs, false)] else s.home.hdmDone) ∧
      t.home.hdmReads = if passed then s.home.hdmReads else s.home.hdmReads ++ [(hpa, bs, v)] := by
  refine ⟨_, exec_hdmRead keep ha hr, ?_⟩
  obtain ⟨l, hl⟩ := hostKeeps_home s ia n keep
  obtain ⟨c, hc⟩ := cacheSpan_caches ((s.hostKeeps ia n keep).hdmAnswer hpa bs (visOf s.home ia n)) ctx .local ia n
  rw [hc, hdmAnswer_home, hl]
  exact ⟨fun _ => ⟨rfl, rfl, fun _ => rfl⟩, rfl, rfl⟩

theorem exec_hdmWrite {s t : State} {hpa ctx ia g : Nat} {data : List Byte} (ha : s.hdmAddr hpa data.length = some (ctx, ia))
    (hb : s.spanBusy ctx .local ia data.length = false) (hw : s.writeSpan ctx .local ia data 0 = (t, g, none)) :
    exec (.hdmWrite hpa data) s = .next ((t.progress none).hdmAnswer hpa [] g) := by
  change execHdmWrite hpa data s = _
  simp [execHdmWrite, ha, hb, hw]
/-- R29, R414: exactly the bytes given are written; the completion returns once the GWCT has passed. -/
theorem hdmWrite_does {s : State} {hpa ctx ia pa : Nat} {data : List Byte} (ha : s.hdmAddr hpa data.length = some (ctx, ia))
    (hline : ia % 256 + data.length ≤ 256) (hb : s.spanBusy ctx .local ia data.length = false)
    (hwr : writable s ctx ia data.length pa) :
    let g := gwct s ia data.length 0 0
    Does (.hdmWrite hpa data) s fun t => wrote s t pa data ∧
      t.home.hdmReads = if s.hdmPassed hpa 1 g then s.home.hdmReads else s.home.hdmReads ++ [(hpa, [], g)] := by
  obtain ⟨t, hw, hwrote, hframe⟩ := writeSpan_of_writable hline hwr 0
  refine ⟨_, exec_hdmWrite ha hb hw, fun x => ?_, ?_⟩
  · rw [hdmAnswer_home]
    exact hwrote x
  · have hpassed : (t.progress none).hdmPassed = t.hdmPassed := rfl
    rw [hdmAnswer_home, hpassed, progress_home, hframe.hdmReads]
    simp only [List.length_nil, Nat.max_zero, hframe.hdmPassed]

/-- R30: a snoop that has been sent for a line that the host holds is answered. -/
theorem exec_backInvalidationResponse {s : State} {line : Nat} (hheld : line ∈ s.home.hostLines)
    (hsent : natGet s.home.snooped line = 1) :
    exec (.backInvalidationResponse line) s = .next { s with
      home := { s.home with
        hostLines := s.home.hostLines.filter (· != line)
        snooped := natSet s.home.snooped line (s.clockOf (.slice (256 * line)) + 2) } } := by
  change execBackInvalidationResponse line s = _
  simp [execBackInvalidationResponse, hheld, hsent]

/-! ### Peers (R32, R438) -/

theorem exec_peerRequest (peer : Nat) (r : PeerReq) (s : State) :
    exec (.peerRequest peer r) s = execPeerRequest peer r s := rfl
/-- R488: while no start has succeeded, no peer is answered. -/
theorem exec_peerRequest_down {s : State} (h : s.up = false) (peer : Nat) (r : PeerReq) :
    exec (.peerRequest peer r) s = .next s := by
  simp [exec_peerRequest, execPeerRequest, h]
theorem exec_peerRead {s : State} {ctx a n : Nat} {bs : List Byte} (hup : s.up = true) (peer : Nat)
    (hr : s.readSpan ctx .local a n = .ok bs) :
    exec (.peerRequest peer (.read ctx a n)) s = .next ((s.peerAnswer peer bs false).cacheSpan ctx .local a n) := by
  simp [exec_peerRequest, execPeerRequest, hup, hr]
theorem exec_peerWrite {s t : State} {ctx a g : Nat} {data : List Byte} (hup : s.up = true) (peer : Nat)
    (hb : s.spanBusy ctx .local a data.length = false) (hw : s.writeSpan ctx .local a data 0 = (t, g, none)) :
    exec (.peerRequest peer (.write ctx a data)) s = .next ((t.progress none).peerAnswer peer [] false) := by
  simp [exec_peerRequest, execPeerRequest, hup, hb, hw]
/-- R32: exactly the bytes given are written, and the peer is told. -/
theorem peerWrite_does {s : State} {ctx a pa : Nat} {data : List Byte} (hup : s.up = true) (peer : Nat)
    (hline : a % 256 + data.length ≤ 256) (hb : s.spanBusy ctx .local a data.length = false)
    (hwr : writable s ctx a data.length pa) :
    Does (.peerRequest peer (.write ctx a data)) s fun t => wrote s t pa data ∧
      t.home.peerDone = s.home.peerDone ++ [(peer, [], false)] := by
  obtain ⟨t, hw, hwrote, hframe⟩ := writeSpan_of_writable hline hwr 0
  exact ⟨_, exec_peerWrite hup peer hb hw, hwrote, congrArg (· ++ _) hframe.peerDone⟩

theorem exec_peerAtomic {s : State} (hup : s.up = true) (peer ctx a : Nat) (op : AtomOp) (data : List Byte) :
    exec (.peerRequest peer (.atomic ctx a op data)) s = .next (s.peerAtomic peer ctx a data.length fun old =>
      natBytes data.length (atomNew op (8 * data.length) (bytesNat old) (bytesNat data))) := by
  simp only [exec_peerRequest, execPeerRequest, hup, Bool.not_true, Bool.false_eq_true, if_false]
theorem exec_peerCas {s : State} (hup : s.up = true) (peer ctx a : Nat) (expected new : List Byte) :
    exec (.peerRequest peer (.cas ctx a expected new)) s = .next (s.peerAtomic peer ctx a expected.length fun old =>
      if old = expected then new.take expected.length else []) := by
  simp only [exec_peerRequest, execPeerRequest, hup, Bool.not_true, Bool.false_eq_true, if_false]

section
variable {s : State} {ctx a n pa : Nat} {old : List Byte} {f : List Byte → List Byte}

/-- R438: an atomic that writes changes exactly its bytes, and answers with those that it found. -/
theorem peerAtomic_writes (peer : Nat) (hline : a % 256 + n ≤ 256) (hb : s.spanBusy ctx .local a n = false)
    (hwr : writable s ctx a n pa) (hr : s.readSpan ctx .local a n = .ok old) (hf : (f old).length = n) :
    wrote s (s.peerAtomic peer ctx a n f) pa (f old) ∧
      (s.peerAtomic peer ctx a n f).home.peerDone = s.home.peerDone ++ [(peer, old, false)] := by
  have ⟨_, hpos, _⟩ := hwr
  subst hf
  obtain ⟨t, hw, hwrote, hframe⟩ := writeSpan_of_writable hline hwr 0
  have heq : s.peerAtomic peer ctx a (f old).length f =
      ((t.progress none).peerAnswer peer old false).cacheSpan ctx .local a (f old).length := by
    have hne : f old ≠ [] := List.ne_nil_of_length_pos hpos
    simp [State.peerAtomic, hr, hb, hw, hne]
  obtain ⟨c, hc⟩ := cacheSpan_caches ((t.progress none).peerAnswer peer old false) ctx .local a (f old).length
  rw [heq, hc]
  exact ⟨hwrote, congrArg (· ++ _) hframe.peerDone⟩
/-- R438: an atomic that writes nothing only answers. -/
theorem peerAtomic_answers (peer : Nat) (hb : s.spanBusy ctx .local a n = false)
    (hr : s.readSpan ctx .local a n = .ok old) (hf : f old = []) :
    s.peerAtomic peer ctx a n f = (s.peerAnswer peer old false).cacheSpan ctx .local a n := by
  have hw : s.writeSpan ctx .local a [] 0 = (s, 0, none) := rfl
  simp [State.peerAtomic, hr, hb, hf, hw]
end

theorem peerAtomic_does {s : State} {ctx a pa : Nat} {data bs : List Byte} (hup : s.up = true) (peer : Nat) (op : AtomOp)
    (hline : a % 256 + data.length ≤ 256) (hb : s.spanBusy ctx .local a data.length = false)
    (hwr : writable s ctx a data.length pa) (hr : s.readSpan ctx .local a data.length = .ok bs) :
    Does (.peerRequest peer (.atomic ctx a op data)) s fun t =>
      wrote s t pa (natBytes data.length (atomNew op (8 * data.length) (bytesNat bs) (bytesNat data))) ∧
      t.home.peerDone = s.home.peerDone ++ [(peer, bs, false)] :=
  ⟨_, exec_peerAtomic hup .., peerAtomic_writes peer hline hb hwr hr (natBytes_length ..)⟩
/-- A compare that succeeds writes the new bytes. -/
theorem peerCas_equal {s : State} {ctx a pa : Nat} {data data' : List Byte} (hup : s.up = true) (peer : Nat)
    (hline : a % 256 + data.length ≤ 256) (hb : s.spanBusy ctx .local a data.length = false)
    (hwr : writable s ctx a data.length pa) (hr : s.readSpan ctx .local a data.length = .ok data)
    (hlen : data'.length = data.length) :
    Does (.peerRequest peer (.cas ctx a data data')) s fun t =>
      wrote s t pa data' ∧ t.home.peerDone = s.home.peerDone ++ [(peer, data, false)] := by
  have hnew : (if data = data then data'.take data.length else []) = data' := by rw [if_pos rfl, ← hlen, List.take_length]
  refine ⟨_, exec_peerCas hup .., ?_⟩
  have hdone := peerAtomic_writes (f := fun old => if old = data then data'.take data.length else []) peer hline hb hwr hr
    (by rw [hnew, hlen])
  rwa [hnew] at hdone
/-- A compare that fails writes nothing. -/
theorem peerCas_differs {s : State} {ctx a : Nat} {data bs : List Byte} (hup : s.up = true) (peer : Nat) (data' : List Byte)
    (hb : s.spanBusy ctx .local a data.length = false) (hr : s.readSpan ctx .local a data.length = .ok bs) (hne : bs ≠ data) :
    exec (.peerRequest peer (.cas ctx a data data')) s =
      .next ((s.peerAnswer peer bs false).cacheSpan ctx .local a data.length) := by
  rw [exec_peerCas hup, peerAtomic_answers peer hb hr (if_neg hne)]

/-! ### Page migration (R351, R355, R356, R409) -/

theorem exec_pageMigration_down {s : State} (h : s.up = false) (ctx ia frame : Nat) :
    exec (.pageMigration ctx ia frame) s = .next s := by
  change execPageMigration ctx ia frame s = _
  simp [execPageMigration, h]
theorem exec_pageMigration_bad {s : State} {ctx ia code level : Nat} (frame : Nat) (hup : s.up = true)
    (hl : leafSlot s.home ia 5 ((s.ctx ctx).ptroot.toNat * 4096) = .bad code level) :
    exec (.pageMigration ctx ia frame) s = .next (s.walkFault ctx ia code level) := by
  change execPageMigration ctx ia frame s = _
  simp [execPageMigration, hup, hl]

/-- R355: a page is free to move when no hold is on it, and no pin but that of its own leaf. -/
theorem kept_false {s : State} {ctx base n leaf : Nat} (hh : ∀ h ∈ s.home.holds, h.ctx = ctx → overlaps h.ia (2 ^ h.log) base n = false)
    (hp : ∀ h ∈ s.home.pins, h.ctx = ctx → overlaps h.ia (2 ^ h.log) base n = true → h.leaf.toNat = leaf) :
    s.kept ctx base n leaf = false := by
  simp only [State.kept, Bool.or_eq_false_iff, List.any_eq_false, Bool.and_eq_true, beq_iff_eq, bne_iff_ne, not_and]
  exact ⟨fun h hmem hc => by simp [hh h hmem hc], fun h hmem hon => not_not.2 (hp h hmem hon.1 hon.2)⟩

/-- The leaf of a page that has moved: the other tier, the new frame, BUSY clear (R351, R352). -/
def movedLeaf (p : Page) (frame : Nat) : Nat :=
  p.leaf / 2 ^ 55 * 2 ^ 55 + (if bitOf p.leaf 53 then 0 else 2 ^ 53) +
    (frame / 4096 * 2 + (2 ^ (p.log - 12) - 1)) % 2 ^ 41 * 2 ^ 12 + p.leaf % 2 ^ 12
theorem movedLeaf_fields (p : Page) (frame : Nat) :
    bitOf (movedLeaf p frame) 54 = false ∧ bitOf (movedLeaf p frame) 53 = !bitOf p.leaf 53 ∧
      bitsOf (movedLeaf p frame) 0 12 = bitsOf p.leaf 0 12 ∧ bitsOf (movedLeaf p frame) 55 9 = bitsOf p.leaf 55 9 := by
  unfold movedLeaf
  generalize frame / 4096 * 2 + (2 ^ (p.log - 12) - 1) = a
  cases hb : bitOf p.leaf 53 <;>
    simp only [bitOf, bitsOf, Nat.reducePow, beq_iff_eq, beq_eq_false_iff_ne, Bool.not_false, Bool.not_true, Bool.false_eq_true,
      reduceIte] at hb ⊢ <;>
    omega

@[simp] theorem writePhys_late (h : Home) (pa : Nat) (bs : List Byte) : (writePhys h pa bs).1.late = h.late := rfl
@[simp] theorem writeLeaf_late (h : Home) (level slot : Nat) (p : Page) (leaf : Nat) :
    (writeLeaf h level slot p leaf).late = h.late := by
  unfold writeLeaf
  exact List.foldlRecOn (motive := fun k : Home => k.late = h.late) _ _ rfl fun k hk i _ => hk
/-- Where no write has waited for a page on the move, none is made (R409). -/
theorem flushLate_of_none {s : State} (h : s.home.late = []) : s.flushLate = s := by
  rw [State.flushLate, h, List.foldl_nil, ← h]

/-- What a migration does with a leaf that lets its page move: BUSY is set, and then the page moves (R351, R409). -/
theorem exec_pageMigration_leaf {s : State} {ctx ia frame level slot : Nat} {p : Page} (hup : s.up = true)
    (hl : leafSlot s.home ia 5 ((s.ctx ctx).ptroot.toNat * 4096) = .leaf level slot p) :
    let size := 2 ^ p.log
    let base := ia / size * size
    s.kept ctx base size p.leaf = false → frame % size = 0 → s.mayMove ctx ia level slot p frame = true →
    exec (.pageMigration ctx ia frame) s = .next (
      if bitOf p.leaf 54 then State.flushLate { s with
        home := (moveFrame (writeLeaf s.home level slot p (movedLeaf p frame)) p.frame frame size).uncache ctx base size }
      else { s with home := (writeLeaf s.home level slot p (p.leaf + 2 ^ 54)).uncache ctx base size }) := by
  dsimp only
  intro hk hf hm
  change execPageMigration ctx ia frame s = _
  simp only [execPageMigration, hup, hl, hk, hf, hm, movedLeaf, bne_self_eq_false, Bool.not_true, Bool.or_false,
    Bool.false_eq_true, if_false]
  cases bitOf p.leaf 54 <;> rfl
/-- A page whose leaf is BUSY moves, and its leaf then names the new frame in the other tier. -/
theorem pageMigration_moves {s : State} {ctx ia frame level slot : Nat} {p : Page} (hup : s.up = true)
    (hl : leafSlot s.home ia 5 ((s.ctx ctx).ptroot.toNat * 4096) = .leaf level slot p) :
    let size := 2 ^ p.log
    let base := ia / size * size
    s.kept ctx base size p.leaf = false → frame % size = 0 → s.mayMove ctx ia level slot p frame = true → s.home.late = [] →
    bitOf p.leaf 54 = true → Does (.pageMigration ctx ia frame) s fun t =>
      ∃ leaf, t.home = (moveFrame (writeLeaf s.home level slot p leaf) p.frame frame size).uncache ctx base size ∧
        bitOf leaf 54 = false ∧ bitOf leaf 53 = !bitOf p.leaf 53 ∧ bitsOf leaf 0 12 = bitsOf p.leaf 0 12 ∧
        bitsOf leaf 55 9 = bitsOf p.leaf 55 9 := by
  intro size base hk hf hm hlate hbusy
  have hexec := exec_pageMigration_leaf hup hl hk hf hm
  rw [if_pos hbusy, flushLate_of_none ((writeLeaf_late ..).trans hlate)] at hexec
  exact ⟨_, hexec, movedLeaf p frame, rfl, movedLeaf_fields p frame⟩

/-- Settles O49: the host's accesses and its answers to snoops, then the peers' requests, then the migration of a page. -/
theorem hostAndPeers : Obligations.HostAndPeers := by
  unfold Obligations.HostAndPeers
  intro s hpa n peer a keep ctx ia line pa bs data data' aop
  refine ⟨hdmRead_does keep, hdmWrite_does, exec_backInvalidationResponse,
    fun hdown r frame => ⟨exec_peerRequest_down hdown peer r, exec_pageMigration_down hdown ctx ia frame⟩,
    fun hup hr => exec_peerRead hup peer hr, fun hup hline hb hwr => peerWrite_does hup peer hline hb hwr,
    fun hup hline hb hwr hr => ⟨peerAtomic_does hup peer aop hline hb hwr hr, fun heq hlen => ?_,
      fun hne => peerCas_differs hup peer data' hb hr hne⟩,
    fun code level frame hup hl => exec_pageMigration_bad frame hup hl,
    fun level slot frame p hup hl hholds hpins hf hm hlate => ?_⟩
  · subst heq
    exact peerCas_equal hup peer hline hb hwr hr hlen
  · have hk := kept_false hholds hpins
    refine ⟨fun hidle => ?_, pageMigration_moves hup hl hk hf hm hlate⟩
    rw [exec_pageMigration_leaf hup hl hk hf hm, if_neg (by simp [hidle])]

end Sys2Proof.Machine
end

section
/-! Refutation of the statement about REGION's checkpoint (R53, R110, R157, R361). -/

namespace Sys2Proof.Machine

/-! ### The head of a save slot is no part of a checkpoint (log entry 43) -/

theorem lt_of_mem_shiftImage {k o : Nat} {img : List (Nat × List Byte)} {x : Nat × List Byte} (hk : k < o)
    (hx : x ∈ shiftImage o img) : k < x.1 := by
  obtain ⟨y, -, rfl⟩ := List.mem_map.1 hx
  exact Nat.lt_add_right y.1 hk
theorem threadSlot_pos (wg w l : Nat) : 0 < threadSlot wg w l := by unfold threadSlot; omega
theorem warpSlot_pos (wg w : Nat) : 0 < warpSlot wg w := by unfold warpSlot; omega

/-! ### What a checkpoint's write leaves alone when memory is in canonical form (R110, R361) -/

/-- Poisoned or not, physical bytes written leave every byte outside their span as it was. -/
theorem writePhys_get_outside {h : Home} {pa a : Nat} {bs : List Byte} (hw : Memory.wf h.mem)
    (ha : ¬ (pa ≤ a ∧ a < pa + bs.length)) : memGet (writePhys h pa bs).1.mem a = memGet h.mem a := by
  refine (List.foldlRecOn (motive := fun m : Memory => Memory.wf m ∧ memGet m a = memGet h.mem a) bs.zipIdx _ ⟨hw, rfl⟩ ?_).2
  rintro m ⟨hm, hget⟩ ⟨v, i⟩ hi
  have hlt : i < bs.length := by simpa using List.snd_lt_of_mem_zipIdx hi
  dsimp only
  split
  · exact ⟨hm, hget⟩
  · exact ⟨memSet_wf _ _ hm, by rw [memGet_memSet hm, if_neg (by omega), hget]⟩
theorem slotWrite_wf {s : State} (u : Placed) (img : List (Nat × List Byte)) (hw : Memory.wf s.home.mem) :
    Memory.wf (s.slotWrite u img).home.mem :=
  List.foldlRecOn (motive := fun h : Home => Memory.wf h.mem) img _ hw fun _ hh _ _ => writePhys_wf _ _ hh
theorem slotWrite_get_outside {s : State} {u : Placed} {img : List (Nat × List Byte)} {a : Nat} (hw : Memory.wf s.home.mem)
    (ha : ∀ x ∈ img, ¬ (s.slotBase u + x.1 ≤ a ∧ a < s.slotBase u + x.1 + x.2.length)) :
    memGet (s.slotWrite u img).home.mem a = memGet s.home.mem a :=
  (List.foldlRecOn (motive := fun h : Home => Memory.wf h.mem ∧ memGet h.mem a = memGet s.home.mem a) img _ ⟨hw, rfl⟩
    fun _ ⟨hh, hget⟩ x hx => ⟨writePhys_wf _ _ hh, (writePhys_get_outside hh (ha x hx)).trans hget⟩).2

@[simp] theorem slotPut_mem (s : State) (b : Bundle) (group wi : Nat) (ls : List Nat) (img : List (Nat × List Byte)) :
    (s.slotPut b group wi ls img).home.mem = (s.slotWrite b.u img).home.mem := by
  unfold State.slotPut; dsimp only; split <;> rfl
@[simp] theorem slotBase_slotPut (s : State) (b : Bundle) (group wi : Nat) (ls : List Nat) (img : List (Nat × List Byte)) (u : Placed) :
    (s.slotPut b group wi ls img).slotBase u = s.slotBase u := by
  unfold State.slotPut; dsimp only; split <;> rfl
/-- The clause that the refutation below turns on, with the hypothesis that it lacks. -/
theorem foldl_slotPut_get_outside {b : Bundle} {group a : Nat} {image : Nat × Warp × List Nat → List (Nat × List Byte)}
    (ps : List (Nat × Warp × List Nat)) {s : State} (hw : Memory.wf s.home.mem)
    (ha : ∀ x ∈ ps.flatMap image, ¬ (s.slotBase b.u + x.1 ≤ a ∧ a < s.slotBase b.u + x.1 + x.2.length)) :
    memGet (ps.foldl (fun t x => t.slotPut b group x.1 x.2.2 (image x)) s).home.mem a = memGet s.home.mem a := by
  induction ps generalizing s with
  | nil => rfl
  | cons p ps ih =>
    simp only [List.flatMap_cons, List.mem_append] at ha
    rw [List.foldl_cons, ih (by simpa using slotWrite_wf b.u (image p) hw) fun x hx => by simpa using ha x (.inr hx), slotPut_mem,
      slotWrite_get_outside hw fun x hx => ha x (.inl hx)]

/-! ### A memory out of canonical form -/

/-- A list of bytes whose addresses fall: a read of address 0 stops at the higher address before it and answers 0, until that entry
goes. That entry stands at the first byte of the part of lane 0 of a save slot whose base is 0. -/
def tangled : Memory := [(threadSlot 0 0 0, 1), (0, 7)]
/-- One unit of one warp, whose save slot begins at address 0, over the memory above; nothing is poisoned. -/
def tangledState : State :=
  let s := State.reset.probe 32 0
  { s with home := { s.home with mem := tangled } }
/-- The bundle meets the hypotheses on what a checkpoint writes, and to write the checkpoint of region 0 changes the byte at 0
from 0 to 7. -/
def uncoversHead (b : Bundle) : Bool :=
  b.proper && tangledState.unit? b.u.id == some b.u && b.parts.all (fun x => tangledState.warp? (b.wid x.1) == some x.2.1) &&
    memGet tangledState.home.mem 0 == 0 && memGet (tangledState.writeCkpt b (fun _ => 0) [] [] false).home.mem 0 == 7
/-- The image of lane 0 begins with a byte 0 (the low byte of its PC, 0x1000), whose write takes out the entry that hid the byte 7. -/
theorem tangledState_uncoversHead : (tangledState.bundleOf 1 0 [(0, [0])]).any uncoversHead = true := by decide +kernel

/-- Refutes O33: its clause that every byte of device memory outside the images of the parts is as it was lacks the hypothesis that
memory is in canonical form (`State.memWf`; with it the clause is `foldl_slotPut_get_outside`). In `tangledState` the write of a 0 at
the first byte of a thread's part lets the byte at address 0, which lies in no image, read as 7 where it read as 0. -/
theorem not_regionCheckpoints : ¬ Obligations.RegionCheckpoints := by
  unfold Obligations.RegionCheckpoints
  intro h
  obtain ⟨b, -, hb⟩ := (Option.any_eq_true _ _).1 tangledState_uncoversHead
  simp only [uncoversHead, Bool.and_eq_true, beq_iff_eq, List.all_eq_true] at hb
  obtain ⟨⟨⟨⟨hproper, hunit⟩, hwarp⟩, hbefore⟩, hafter⟩ := hb
  obtain ⟨-, -, -, hwrites⟩ := h 0
  obtain ⟨-, -, -, hframe, -⟩ := hwrites tangledState b false hproper hunit hwarp
  have hsame := hframe 0 fun x hx hin => ?_
  · exact absurd (hafter.symm.trans (hsame.trans hbefore)) (by decide)
  · have hpos : 0 < x.1 := by
      obtain ⟨⟨wi, w, ls⟩, -, hx⟩ := List.mem_flatMap.1 hx
      rcases List.mem_append.1 hx with hthread | hwarpPart
      · obtain ⟨l, -, hl⟩ := List.mem_flatMap.1 hthread
        split at hl
        · exact lt_of_mem_shiftImage (threadSlot_pos ..) hl
        · exact absurd hl List.not_mem_nil
      · exact lt_of_mem_shiftImage (warpSlot_pos ..) hwarpPart
    omega

end Sys2Proof.Machine
end

section
/-! Proofs of the step that runs what stands on the agenda, and of the hint words and UNTAINT (R57, R61 to R66, R84, R95, R96, R101 to
R103, R155, R387, R466). -/

namespace Sys2Proof.Machine

/-! ### Fetching at a bundle's PC (R57, R95) -/

/-- The PC stands among the kernel's code words. -/
def Bundle.inside (b : Bundle) : Prop :=
  b.u.cfg.entry.toNat ≤ b.pc.toNat ∧ b.pc.toNat < b.u.cfg.entry.toNat + b.u.cfg.codesize
/-- The word of the code at the PC. -/
def Bundle.wordAt (b : Bundle) : Nat := bytesNat (memRead b.u.code (b.pc.toNat - b.u.cfg.entry.toNat) 4)

theorem inCode_iff (c : LaunchCfg) (a : Nat) :
    c.inCode a = true ↔ c.entry.toNat ≤ a ∧ a < c.entry.toNat + c.codesize := by
  simp only [LaunchCfg.inCode, Bool.and_eq_true, decide_eq_true_eq]
  omega
theorem fetch_outside {b : Bundle} (h : ¬ b.inside) : b.u.fetch b.pc = .outside := by
  have hout : b.u.cfg.inCode b.pc.toNat = false := by rwa [← Bool.not_eq_true, inCode_iff]
  simp [Placed.fetch, hout]
theorem fetch_loaded {b : Bundle} (h : b.inside) (hf : b.u.fetched = none) : b.u.fetch b.pc = .word b.wordAt := by
  have hin : b.u.cfg.inCode b.pc.toNat = true := (inCode_iff ..).2 h
  simp [Placed.fetch, hin, hf, Bundle.wordAt]
theorem fetch_missing {b : Bundle} {xs : List Nat} (h : b.inside) (hf : b.u.fetched = some xs)
    (hx : b.pc.toNat - b.u.cfg.entry.toNat ∉ xs) : b.u.fetch b.pc = .wait := by
  have hin : b.u.cfg.inCode b.pc.toNat = true := (inCode_iff ..).2 h
  simp [Placed.fetch, hin, hf, hx]

section
variable {s : State} {unit wg : Nat} {parts : List (Nat × List Nat)} {b : Bundle}
  (hb : ({ s with issue := ⟨unit, wg, parts⟩ } : State).bundle? = some b) (hi : b.idle = true)
include hb hi

/-- R57, R84: idle lanes execute the instruction that stands at their PC. -/
theorem runAt_instr {v : Nat} {i : Instr} (hf : b.u.fetch b.pc = .word v) (hd : decode v = some i) :
    s.runAt unit wg parts = exec i { s with issue := ⟨unit, wg, parts⟩ } := by
  simp only [State.runAt, hb, hi, hf, hd, Bool.not_true, Bool.false_eq_true, if_false]
theorem runAt_illegal {v : Nat} (hf : b.u.fetch b.pc = .word v) (hd : decode v = none) : s.runAt unit wg parts =
    .next (({ s with issue := ⟨unit, wg, parts⟩ } : State).takeFault unit wg 0x01 true b.pc (b.hits v 0)) := by
  simp only [State.runAt, hb, hi, hf, hd, Bool.not_true, Bool.false_eq_true, if_false]
theorem runAt_outside (hf : b.u.fetch b.pc = .outside) : s.runAt unit wg parts =
    .next (({ s with issue := ⟨unit, wg, parts⟩ } : State).takeFault unit wg 0x01 true b.pc (b.hits 0 0)) := by
  simp only [State.runAt, hb, hi, hf, Bool.not_true, Bool.false_eq_true, if_false]
theorem runAt_wait (hf : b.u.fetch b.pc = .wait) : s.runAt unit wg parts = .next { s with issue := ⟨unit, wg, parts⟩ } := by
  simp only [State.runAt, hb, hi, hf, Bool.not_true, Bool.false_eq_true, if_false]
end

/-! ### The moves (R95, R96, R387, R466) -/

/-- A step makes the move at the head of the agenda, and settles the debugger's steps that it has ended. -/
theorem step_of_move {s t : State} {m : Move} {ms : List Move} (ha : s.agenda = m :: ms)
    (hm : ({ s with agenda := ms } : State).move m = .next t) : step s = .next t.settle := by
  simp only [step, State.next, ha, State.moveOn, hm]

/-- The state t of an issue that has gone on from s, noted at its port. -/
def State.noted (s t : State) (unit wg port : Nat) (parts : List (Nat × List Nat)) : State :=
  match s.bundleOf unit wg parts with
  | some b => s.noteIssue t port b
  | none => t
theorem issueWith_goesOn {s t : State} {unit wg port : Nat} {parts : List (Nat × List Nat)} {after : State → State}
    {else_ : State → Host.Outcome State Fault Refusal} (hr : s.runAt unit wg parts = .next t)
    (hm : s.issueMark unit wg parts ≠ t.issueMark unit wg parts) :
    s.issueWith unit wg port parts after else_ = .next (after (s.noted t unit wg port parts)) := by
  have hne : (s.issueMark unit wg parts == t.issueMark unit wg parts) = false := beq_false_of_ne hm
  simp only [State.issueWith, hr, hne, Bool.false_eq_true, if_false, State.noted]
  cases s.bundleOf unit wg parts <;> rfl
/-- An issue of given lanes is noted when it has gone on. -/
theorem issueWith_next {s t : State} {unit wg port : Nat} {parts : List (Nat × List Nat)}
    (hr : s.runAt unit wg parts = .next t) :
    s.issueWith unit wg port parts id .next =
      .next (if s.issueMark unit wg parts == t.issueMark unit wg parts then t else s.noted t unit wg port parts) := by
  by_cases hm : s.issueMark unit wg parts = t.issueMark unit wg parts
  · simp only [State.issueWith, hr, hm, beq_self_eq_true, if_true]
  · rw [issueWith_goesOn hr hm, if_neg (by simpa using hm)]
    rfl
theorem issueWarp_next {s t : State} {w : WarpId} {ls : List Nat} {x : Warp} (hw : s.warp? w = some x)
    (hp : s.portFree (s.coreOf w) (x.slot % 2) = true) (hr : s.runAt w.unit w.wg [(w.warp, ls)] = .next t) :
    s.issueWarp w ls = .next (if s.issueMark w.unit w.wg [(w.warp, ls)] == t.issueMark w.unit w.wg [(w.warp, ls)] then t
      else s.noted t w.unit w.wg (x.slot % 2) [(w.warp, ls)]) := by
  simp only [State.issueWarp, hw, Option.map_some, Option.getD_some, hp, if_true]
  exact issueWith_next hr
theorem issuePort_busy {s : State} {core port : Nat} (h : s.portFree core port = false) : s.issuePort core port = .next s := by
  simp only [State.issuePort, h, Bool.false_eq_true, if_false]
  cases (s.core core).ports[port]? <;> rfl
/-- R96: the first bundle of the port's order goes on, and the port moves past it. -/
theorem issuePort_first {s t : State} {core port : Nat} {p : Port} {x : Slot} {xs : List Slot} (hf : s.portFree core port = true)
    (hp : (s.core core).ports[port]? = some p) (ho : s.portOrder p = x :: xs) (hr : s.runAt x.unit x.wg x.parts = .next t)
    (hm : s.issueMark x.unit x.wg x.parts ≠ t.issueMark x.unit x.wg x.parts) :
    s.issuePort core port = .next ((s.noted t x.unit x.wg port x.parts).advance core port x) := by
  simp only [State.issuePort, hp, hf, if_true, ho, tryBundles]
  exact issueWith_goesOn hr hm
/-- R387: the owner of a turn issues the lanes by which it goes on. -/
theorem issueTurn_owner {s : State} {unit : Nat} {u : Placed} {w : Warp} (hu : s.unit? unit = some u)
    (hw : s.warp? u.owner = some w) (hd : u.cfg.det ≠ 0) (hm : s.mayRetire u.owner = true) (hl : w.live ≠ [])
    (hf : s.filing u.owner = false) (ht : s.turnLanes u.owner ≠ [])
    (hr : ∀ l ∈ s.turnLanes u.owner, s.binReady u.owner l = true) :
    s.issueTurn unit = s.issueWarp u.owner (s.turnLanes u.owner) := by
  have hall : (s.turnLanes u.owner).all (s.binReady u.owner) = true := List.all_eq_true.2 hr
  simp [State.issueTurn, hu, hw, hd, hm, hl, hf, ht, hall]
theorem issueLane_step {s : State} {w : WarpId} {l : Nat} {th : Thread} (ht : s.thread? w l = some th) (hs : th.step = true) :
    s.issueLane w l = s.issueWarp w [l] := by
  simp [State.issueLane, ht, hs]

/-- Settles O40: `step_of_move` with the lemma of each kind of move, and the lemma of `runAt` for what each fetch finds. -/
theorem stepRunsDecoded : Obligations.StepRunsDecoded := by
  unfold Obligations.StepRunsDecoded
  refine ⟨fun s m ms t ha => ⟨?event, ?busy, ?port, ?turn, ?lane, ?clk⟩,
    fun s unit wg parts b hb hi => ⟨?instr, ?illegal, ?outside, ?wait⟩, fun s ha => ?plan⟩
  case event =>
    rintro i rfl he hx
    exact step_of_move ha (by simpa [State.move, isEvent, he] using hx)
  case busy =>
    rintro core port rfl hbusy
    exact step_of_move ha (issuePort_busy hbusy)
  case port =>
    rintro core port p x xs rfl hfree hp ho hr hm
    exact step_of_move ha (issuePort_first hfree hp ho hr hm)
  case turn =>
    rintro unit u w rfl hu hw hd hm hl hf ht hready hfree hr
    exact step_of_move ha ((issueTurn_owner hu hw hd hm hl hf ht hready).trans (issueWarp_next hw hfree hr))
  case lane =>
    rintro w l x th rfl hw ht hs hfree hr
    exact step_of_move ha ((issueLane_step ht hs).trans (issueWarp_next hw hfree hr))
  case clk =>
    rintro rfl
    exact step_of_move ha rfl
  case instr => exact fun i hin hf hd => runAt_instr hb hi (fetch_loaded hin hf) hd
  case illegal => exact fun hin hf hd => runAt_illegal hb hi (fetch_loaded hin hf) hd
  case outside => exact fun hout => runAt_outside hb hi (fetch_outside hout)
  case wait => exact fun xs hin hf hx => runAt_wait hb hi (fetch_missing hin hf hx)
  case plan =>
    simp only [step, State.next, ha]

/-! ### Hint words and UNTAINT (R61 to R66, R155) -/

/-- An instruction that waits for no register does what it means, whatever registers are pending. -/
theorem open_does {i : Instr} {eff : Bundle → State → State} (he : exec i = issueOn i [] fun b s => .done (eff b s)) :
    OpenDoes i eff := by
  intro s b hb hi hf _
  have hp : b.pending [] = false := by simp [Bundle.pending]
  simp only [he, issueOn, hb, hi, early_none hf, hp, Bool.not_true, Bool.false_eq_true, if_false]

/-- Settles O27: the hint words and UNTAINT wait for no register, and `open_does` says what each does. -/
theorem hintsAndUntaint : Obligations.HintsAndUntaint := by
  unfold Obligations.HintsAndUntaint
  intro v sat clamp neg abs scl ovr d
  exact ⟨open_does rfl, open_does rfl, open_does rfl, open_does rfl⟩

end Sys2Proof.Machine
end

section
/-! Refutation of the statement about branches (R60, R151 to R153, R357, R366, R470). -/

namespace Sys2Proof.Machine

/-! ### Lanes whose target lies outside the code -/

/-- A hit without the values of its lanes, which a dump entry of an address fault holds. -/
def Hit.sansVals (h : Hit) : Hit := { h with vals := [] }

theorem map_lane_filter_laneCtx (b : Bundle) (s : State) (wi : Nat) (w : Warp) (bad : LaneCtx → Bool) (ls : List Nat) :
    (ls.filterMap fun l => ((w.threads[l]?).map (b.laneCtx s wi w l)).filter bad).map (·.lane) =
      ls.filter fun l => ((w.threads[l]?).map fun t => bad (b.laneCtx s wi w l t)).getD false := by
  rw [List.map_filterMap, ← List.filterMap_eq_filter]
  refine List.filterMap_congr fun l _ => ?_
  cases ht : w.threads[l]? with
  | none => simp [Option.guard, ht]
  | some t => simp [Option.filter, Option.guard, ht, Bundle.laneCtx, apply_ite]
theorem hitsOf_ne_nil {b : Bundle} {s : State} {bad : LaneCtx → Bool} (det0 : LaneCtx → Nat) (h : ∃ c ∈ b.each s, bad c = true) :
    b.hitsOf s bad det0 ≠ [] := by
  obtain ⟨c, hc, hbad⟩ := h
  simp only [Bundle.each, List.mem_flatMap, List.mem_filterMap] at hc
  obtain ⟨⟨wi, w, ls⟩, hp, l, hl, hc⟩ := hc
  intro hnil
  have hpart := List.filterMap_eq_nil_iff.1 hnil _ hp
  dsimp only at hc hpart
  split at hpart
  · rename_i hnone
    have hlane := List.filterMap_eq_nil_iff.1 hnone l hl
    simp [hc, Option.filter, hbad] at hlane
  · cases hpart

theorem issueStd_bad {s : State} {b : Bundle} {i : Instr} {body : Bundle → State → Res} {code : Nat} {hits : List Hit}
    (hb : s.bundle? = some b) (hr : b.ready i = true) (hbody : body b s = .bad code hits) :
    issueStd i body s = .next (s.takeFault b.u.id b.wg code true b.pc hits) := by
  rw [issueStd_ready hb hr, hbody]
/-- R60, R151: an issue some of whose lanes go outside the code raises ILLEGAL for these lanes; no lane has a value of its own. -/
theorem branchWith_strays {i : Instr} {taken : LaneCtx → Option Int} {link : LaneCtx → List RegWrite} {s : State} {b : Bundle}
    {ok : LaneCtx → Bool} (hb : s.bundle? = some b) (hr : b.ready i = true) (hok : ∀ c, ok c = (taken c).all c.cfg.inCode)
    (he : ∃ c ∈ b.each s, ok c = false) :
    branchWith i taken link s = .next (s.takeFault b.u.id b.wg 0x01 true b.pc
      ((b.hitsOf s (fun c => !ok c) fun _ => (encode i).getD 0).map Hit.sansVals)) := by
  have hbad : (b.parts.filterMap fun (wi, w, ls) =>
      match ls.filter fun l =>
        (((w.threads[l]?).bind fun t => taken (b.laneCtx s wi w l t)).map fun a => !b.u.cfg.inCode a).getD false with
      | [] => none
      | bs => some (⟨wi, bs, (encode i).getD 0, 0, []⟩ : Hit)) =
      (b.hitsOf s (fun c => !ok c) fun _ => (encode i).getD 0).map Hit.sansVals := by
    rw [Bundle.hitsOf, List.map_filterMap]
    refine List.filterMap_congr fun ⟨wi, w, ls⟩ _ => ?_
    have hlanes : (ls.filter fun l =>
        (((w.threads[l]?).bind fun t => taken (b.laneCtx s wi w l t)).map fun a => !b.u.cfg.inCode a).getD false) =
        (ls.filterMap fun l => ((w.threads[l]?).map (b.laneCtx s wi w l)).filter fun c => !ok c).map (·.lane) := by
      rw [map_lane_filter_laneCtx]
      refine List.filter_congr fun l _ => ?_
      cases w.threads[l]? with
      | none => rfl
      | some t =>
        simp only [Option.bind_some, Option.map_some, Option.getD_some, hok]
        cases taken (b.laneCtx s wi w l t) <;> rfl
    simp only [hlanes]
    cases ls.filterMap fun l => ((w.threads[l]?).map (b.laneCtx s wi w l)).filter fun c => !ok c <;> rfl
  have hne := hitsOf_ne_nil (fun _ => (encode i).getD 0) (bad := fun c => !ok c) (by simpa using he)
  refine issueStd_bad hb hr ((if_pos ?_).trans (congrArg (Res.bad 0x01) hbad))
  exact bne_iff_ne.2 fun hnil => hne (List.map_eq_nil_iff.1 (hbad.symm.trans hnil))

/-! ### A fault whose dump is taken -/

/-- Lane 0 of one warp at the one word of its kernel; the dump engine has a slot. -/
def dumpingState : State :=
  let s := State.reset.probe 32 0
  { s with issue := ⟨1, 0, [(0, [0])]⟩, watch := { s.watch with dslots := 1 } }
/-- A branch past the end of the code, taken. -/
def strayBranch : Instr := .brp 7 true 1
/-- The target of the branch, and whether it lies in the code. -/
def strayDest (c : LaneCtx) : Option Int :=
  if (c.th.pr 7).val == true then some (c.th.pc.toNat + 4 * (1 : BitVec 21).toInt) else none
def strayOk (c : LaneCtx) : Bool := match strayDest c with
  | none => true
  | some x => decide ((c.cfg.entry.toNat : Int) ≤ x ∧ x < c.cfg.entry.toNat + c.cfg.codesize)
/-- The hits that the statement gives the branch. -/
def strayHits (b : Bundle) : List Hit := b.hitsOf dumpingState (fun c => !strayOk c) fun _ => (encode strayBranch).getD 0
/-- The values of the faulting lanes that the entries of the running dump hold (R470). -/
def State.dumpVals (s : State) : Option (List (List (Nat × Nat))) := s.watch.dump.map fun d => d.entries.map (·.vals)
/-- The bundle meets the hypotheses on a branch that faults; with the values of the lanes, and without them, the dump differs. -/
def dumpTells (b : Bundle) : Bool :=
  b.ready strayBranch && ((b.each dumpingState).any fun c => !strayOk c) &&
    (dumpingState.takeFault b.u.id b.wg 0x01 true b.pc (strayHits b)).dumpVals == some [[(0, (encode strayBranch).getD 0)]] &&
    (dumpingState.takeFault b.u.id b.wg 0x01 true b.pc ((strayHits b).map Hit.sansVals)).dumpVals == some [[]]
theorem dumpingState_dumpTells : dumpingState.bundle?.any dumpTells = true := by decide +kernel
theorem strayOk_eq (c : LaneCtx) : strayOk c = (strayDest c).all c.cfg.inCode := by
  unfold strayOk
  cases strayDest c with
  | none => rfl
  | some x => simp [LaunchCfg.inCode]

/-- Refutes O25: its clauses about a target outside the code give each faulting lane the instruction's word as a value of its own,
where the model gives it none (`branchWith_strays`). In `dumpingState` the dump engine captures the fault, and its entry tells the
two apart. -/
theorem not_branches : ¬ Obligations.Branches := by
  unfold Obligations.Branches
  intro h
  obtain ⟨b, hb, htells⟩ := (Option.any_eq_true _ _).1 dumpingState_dumpTells
  simp only [dumpTells, Bool.and_eq_true, List.any_eq_true, Bool.not_eq_true', beq_iff_eq] at htells
  obtain ⟨⟨⟨hready, hstray⟩, hwith⟩, hwithout⟩ := htells
  obtain ⟨⟨-, hfault⟩, -⟩ := h 7 true 0 0 .z 1 0
  have hstated : exec strayBranch dumpingState = .next (dumpingState.takeFault b.u.id b.wg 0x01 true b.pc (strayHits b)) :=
    hfault dumpingState b hb hready hstray
  have hmodel : exec strayBranch dumpingState =
      .next (dumpingState.takeFault b.u.id b.wg 0x01 true b.pc ((strayHits b).map Hit.sansVals)) :=
    branchWith_strays (link := fun _ => []) hb hready strayOk_eq hstray
  have hsame := Host.Outcome.next.inj (hstated.symm.trans hmodel)
  exact absurd (hwith.symm.trans ((congrArg State.dumpVals hsame).trans hwithout)) (by decide)

end Sys2Proof.Machine
end

section
/-! Proof of the frame of an issue (R63, R88, R103 to R107, R158, R387). -/

namespace Sys2Proof.Machine

/-! ### What an issue leaves of the device, of the units and of other warps -/

/-- The parts of the device that no issue touches. -/
def State.beside (s : State) :=
  (s.home, s.works, s.watch, s.ctxs, s.queues, s.amc, s.channels, s.nextLaunch, s.tick, s.irqs)
/-- What an issue leaves of a workgroup: its core, barrier objects and handles. -/
def Workgroup.held (g : Workgroup) := (g.core, g.bars, g.handles)
/-- What an issue leaves of a placed unit. -/
def Placed.held (u : Placed) := (u.spad, u.windows, u.state, u.stash, u.wgs.map Workgroup.held)
/-- A warp that is not of the issue. -/
def Bundle.foreign (b : Bundle) (v : WarpId) : Prop := v.unit ≠ b.u.id ∨ v.wg ≠ b.wg ∨ v.warp ∉ b.parts.map (·.1)
/-- From s to t nothing changes but the issue's own warps, its ports and bins, the operations, and turn counts. -/
structure Bundle.Leaves (b : Bundle) (s t : State) : Prop where
  beside : t.beside = s.beside
  units : ∀ k, (t.unit? k).map Placed.held = (s.unit? k).map Placed.held
  warps : ∀ v, b.foreign v → t.warp? v = s.warp? v

theorem Bundle.Leaves.refl (b : Bundle) (s : State) : b.Leaves s s := ⟨rfl, fun _ => rfl, fun _ _ => rfl⟩
theorem Bundle.Leaves.trans {b : Bundle} {s t r : State} (h : b.Leaves s t) (k : b.Leaves t r) : b.Leaves s r :=
  ⟨k.beside.trans h.beside, fun u => (k.units u).trans (h.units u), fun v hv => (k.warps v hv).trans (h.warps v hv)⟩
theorem Bundle.Leaves.foldl {b : Bundle} {α : Type} {g : State → α → State} (xs : List α) (s : State)
    (h : ∀ t, ∀ x ∈ xs, b.Leaves t (g t x)) : b.Leaves s (xs.foldl g s) :=
  List.foldlRecOn (motive := b.Leaves s) xs g (.refl b s) fun t ht x hx => ht.trans (h t x hx)

theorem map_modAt {α β : Type} {h : α → β} {f : α → α} (hf : ∀ x, h (f x) = h x) (xs : List α) (n : Nat) :
    (modAt xs n f).map h = xs.map h := by
  induction xs generalizing n with
  | nil => rfl
  | cons x xs ih => cases n <;> simp [modAt, hf, ih]
theorem units_held_modUnit (f : Placed → Placed) (hid : ∀ u, (f u).id = u.id) (hf : ∀ u, (f u).held = u.held) (s : State)
    (id k : Nat) : ((s.modUnit id f).unit? k).map Placed.held = (s.unit? k).map Placed.held := by
  rw [unit?_modUnit _ _ _ _ hid, Option.map_map]
  refine Option.map_congr fun u _ => ?_
  simp only [Function.comp_apply]
  split
  · exact hf u
  · rfl
theorem leaves_modWarp {b : Bundle} {wi : Nat} (hwi : wi ∈ b.parts.map (·.1)) (s : State) (f : Warp → Warp) :
    b.Leaves s (s.modWarp (b.wid wi) f) where
  beside := rfl
  units k := by
    unfold State.modWarp State.modWg
    refine units_held_modUnit _ ?_ (fun u => ?_) s _ k
    · exact fun _ => rfl
    · simp only [Placed.held]
      rw [map_modAt]
      exact fun _ => rfl
  warps v hv := warp?_modWarp_other s _ v f fun heq => by
    subst heq
    rcases hv with h | h | h
    · exact h rfl
    · exact h rfl
    · exact h hwi
theorem leaves_modCore (b : Bundle) (s : State) (c : Nat) (f : Core → Core) : b.Leaves s (s.modCore c f) :=
  ⟨by simp [State.beside], fun k => by rw [unit?_modCore], fun v _ => warp?_modCore s c f v⟩
theorem leaves_stay (b : Bundle) (s : State) : b.Leaves s (s.stay b) := by
  unfold State.stay State.modSlots
  exact leaves_modCore b s _ _
theorem leaves_countTurn (b : Bundle) (s : State) : b.Leaves s (s.countTurn b) where
  beside := by unfold State.countTurn; split <;> rfl
  units k := by
    unfold State.countTurn
    split
    · rfl
    · refine units_held_modUnit _ ?_ ?_ s _ k
      · exact fun _ => rfl
      · exact fun _ => rfl
  warps v _ := warp?_countTurn s b v

theorem Bundle.Leaves.unit_some {b : Bundle} {s t : State} (h : b.Leaves s t) {k : Nat} {v : Placed} (hv : s.unit? k = some v) :
    ∃ v', t.unit? k = some v' ∧ v'.spad = v.spad ∧ v'.windows = v.windows ∧ v'.state = v.state ∧ v'.stash = v.stash ∧
      v'.wgs.map (fun g => (g.bars, g.handles)) = v.wgs.map fun g => (g.bars, g.handles) := by
  have hheld := h.units k
  rw [hv, Option.map_some, Option.map_eq_some_iff] at hheld
  obtain ⟨v', hv', heq⟩ := hheld
  simp only [Placed.held, Prod.mk.injEq] at heq
  obtain ⟨hspad, hwin, hstate, hstash, hwgs⟩ := heq
  have hparts := congrArg (List.map Prod.snd) hwgs
  simp only [List.map_map] at hparts
  exact ⟨v', hv', hspad, hwin, hstate, hstash, hparts⟩
theorem Bundle.Leaves.coreOf {b : Bundle} {s t : State} (h : b.Leaves s t) (w : WarpId) : t.coreOf w = s.coreOf w := by
  have hcore (r : State) : r.coreOf w = (((r.unit? w.unit).map Placed.held).bind fun x => (x.2.2.2.2[w.wg]?).map (·.1)).getD 0 := by
    unfold State.coreOf State.wg?
    cases r.unit? w.unit with
    | none => rfl
    | some u =>
      simp only [Option.map_some, Option.bind_some, Placed.held, List.getElem?_map, Option.map_map]
      rfl
  rw [hcore, hcore, h.units]

/-! ### Lookups after each warp of an issue has been changed in turn -/

section
variable {b : Bundle} {g : State → Nat × Warp × List Nat → State}
  (hg : ∀ t p v, v ≠ b.wid p.1 → (g t p).warp? v = t.warp? v)
include hg

theorem warp?_foldl_parts_other {v : WarpId} (ps : List (Nat × Warp × List Nat)) (s : State) (hv : ∀ p ∈ ps, v ≠ b.wid p.1) :
    (ps.foldl g s).warp? v = s.warp? v :=
  List.foldlRecOn (motive := fun t : State => t.warp? v = s.warp? v) ps g rfl
    fun t ht p hp => (hg t p v (hv p hp)).trans ht
/-- A warp of an issue that names each warp once is found as its own turn left it. -/
theorem warp?_foldl_parts {p : Nat × Warp × List Nat} {ps : List (Nat × Warp × List Nat)} (hn : (ps.map (·.1)).Nodup)
    (hp : p ∈ ps) (s : State) : ∃ t, t.warp? (b.wid p.1) = s.warp? (b.wid p.1) ∧
      (ps.foldl g s).warp? (b.wid p.1) = (g t p).warp? (b.wid p.1) := by
  induction ps generalizing s with
  | nil => exact absurd hp List.not_mem_nil
  | cons q ps ih =>
    rw [List.map_cons, List.nodup_cons] at hn
    obtain ⟨hq, hn⟩ := hn
    rcases List.mem_cons.1 hp with rfl | hp
    · refine ⟨s, rfl, warp?_foldl_parts_other hg ps _ fun r hr heq => hq ?_⟩
      exact List.mem_map.2 ⟨r, hr, (congrArg WarpId.warp heq).symm⟩
    · obtain ⟨t, ht, hfold⟩ := ih hn hp (g s q)
      refine ⟨t, ht.trans (hg s q _ fun heq => hq ?_), hfold⟩
      exact List.mem_map.2 ⟨p, hp, congrArg WarpId.warp heq⟩
end

theorem warp?_foldl_modWarp {b : Bundle} {f : Nat × Warp × List Nat → Warp → Warp} {p : Nat × Warp × List Nat}
    {ps : List (Nat × Warp × List Nat)} (hn : (ps.map (·.1)).Nodup) (hp : p ∈ ps) {s : State} {x : Warp}
    (hx : s.warp? (b.wid p.1) = some x) :
    (ps.foldl (fun t p => t.modWarp (b.wid p.1) (f p)) s).warp? (b.wid p.1) = some (f p x) := by
  obtain ⟨t, ht, hfold⟩ := warp?_foldl_parts (b := b) (g := fun t p => t.modWarp (b.wid p.1) (f p))
    (fun t p v hv => warp?_modWarp_other t _ v _ hv) hn hp s
  rw [hfold, warp?_modWarp_self, ht, hx, Option.map_some]

/-! ### The threads of a warp that retires an instruction (R63, R88, R158) -/

theorem foldl_modAt_getElem? {α : Type} {f : Nat → α → α} {ls : List Nat} (hn : ls.Nodup) (xs : List α) (k : Nat) :
    (ls.foldl (fun ys l => modAt ys l (f l)) xs)[k]? = if k ∈ ls then (xs[k]?).map (f k) else xs[k]? := by
  induction ls generalizing xs with
  | nil => simp
  | cons l ls ih =>
    obtain ⟨hl, hn⟩ := List.nodup_cons.1 hn
    rw [List.foldl_cons, ih hn, modAt_getElem?]
    by_cases hk : k = l
    · subst hk
      simp [hl]
    · simp [hk]
theorem retireWarp_thread {pc : VAddr} {ends : Bool} {f : Nat → Thread → Thread} {ls : List Nat} (hn : ls.Nodup) (w : Warp)
    (l : Nat) : (retireWarp pc ends f ls w).threads[l]? =
      if l ∈ ls then (w.threads[l]?).map fun t => f l (retireThread pc ends t) else w.threads[l]? :=
  foldl_modAt_getElem? (f := fun l t => f l (retireThread pc ends t)) hn w.threads l
/-- A thread past an instruction that ends no region. -/
def Thread.passed (pc : VAddr) (t : Thread) : Thread := { t with
  pc := pc + 4, hints := Hints.none, fenceAt := none, granted := false, barSeen := false, barWait := none, stepDone := t.step
  defer := t.defer.map fun d => { d with count := d.count + 1 } }
theorem retireThread_passed (pc : VAddr) (t : Thread) : retireThread pc false t = t.passed pc := by
  unfold retireThread Thread.passed
  cases t.defer <;> rfl

/-! ### What an issue does with its warps -/

section
variable {s : State} {b : Bundle} (hb : s.bundle? = some b) (hproper : b.proper = true)

theorem proper_warps {b : Bundle} (h : b.proper = true) : (b.parts.map (·.1)).Nodup := by
  simp only [Bundle.proper, Bool.and_eq_true, decide_eq_true_eq] at h
  exact h.1
theorem proper_lanes {b : Bundle} (h : b.proper = true) {p : Nat × Warp × List Nat} (hp : p ∈ b.parts) : p.2.2.Nodup := by
  simp only [Bundle.proper, Bool.and_eq_true, List.all_eq_true, decide_eq_true_eq] at h
  exact h.2 p hp
include hb in
theorem warp?_of_bundle? {p : Nat × Warp × List Nat} (hp : p ∈ b.parts) : s.warp? (b.wid p.1) = some p.2.1 :=
  warp?_of_bundleOf (l := p.2.2) hb hp
include hb in
theorem coreOf_wid (wi : Nat) : s.coreOf (b.wid wi) = b.g.core := by
  have h := hb
  unfold State.bundle? State.bundleOf at h
  cases hu : s.unit? s.issue.unit with
  | none => simp [hu] at h
  | some u =>
    simp only [hu] at h
    cases hg : u.wgs[s.issue.wg]? with
    | none => simp [hg] at h
    | some g =>
      simp only [hg] at h
      split at h
      · obtain ⟨t, -, rfl⟩ := Option.map_eq_some_iff.1 h
        simp only [State.coreOf, State.wg?, Bundle.wid, unit?_id hu, hu, hg, Option.bind_some, Option.map_some, Option.getD_some]
      · cases h

theorem retire_eq (s : State) (b : Bundle) (ends : Bool) (f : Nat → Nat → Thread → Thread) : s.retire b ends f =
    (b.parts.foldl (fun t p => t.modWarp (b.wid p.1) (retireWarp b.pc ends (f p.1) p.2.2)) s).countTurn b := rfl
theorem leaves_past (s : State) (b : Bundle) (ends : Bool) (f : Nat → Nat → Thread → Thread) : b.Leaves s (s.past b ends f) := by
  rw [State.past, retire_eq]
  refine ((Bundle.Leaves.foldl _ s fun t p hp => ?_).trans (leaves_countTurn b _)).trans (leaves_stay b _)
  exact leaves_modWarp (List.mem_map_of_mem hp) t _
include hproper in
theorem warp?_past {ends : Bool} {f : Nat → Nat → Thread → Thread} {p : Nat × Warp × List Nat} (hp : p ∈ b.parts) {r : State}
    {x : Warp} (hx : r.warp? (b.wid p.1) = some x) :
    (r.past b ends f).warp? (b.wid p.1) = some (retireWarp b.pc ends (f p.1) p.2.2 x) := by
  rw [State.past, retire_eq, warp?_stay, warp?_countTurn, warp?_foldl_modWarp (proper_warps hproper) hp hx]

/-- What a commit leaves of a warp of the issue. -/
def Bundle.commitWarp (b : Bundle) (s : State) (due : Option Nat) (f : LaneCtx → LaneOut) (p : Nat × Warp × List Nat)
    (x : Warp) : Warp :=
  retireWarp b.pc false (outOf (b.outs s f p.1 p.2.1 p.2.2)) p.2.2 (pendWarp b.pc due .known (b.outs s f p.1 p.2.1 p.2.2) x)
theorem commitAlu_eq (s : State) (b : Bundle) (due : Option Nat) (f : LaneCtx → LaneOut) : s.commitAlu b due .known f =
    ((b.parts.foldl (fun t p => t.modWarp (b.wid p.1) (b.commitWarp s due f p)) s).countTurn b).stay b := rfl
theorem leaves_commitAlu (s : State) (b : Bundle) (due : Option Nat) (f : LaneCtx → LaneOut) :
    b.Leaves s (s.commitAlu b due .known f) := by
  rw [commitAlu_eq]
  refine ((Bundle.Leaves.foldl _ s fun t p hp => ?_).trans (leaves_countTurn b _)).trans (leaves_stay b _)
  exact leaves_modWarp (List.mem_map_of_mem hp) t _
include hb hproper in
theorem warp?_commitAlu (due : Option Nat) (f : LaneCtx → LaneOut) {p : Nat × Warp × List Nat} (hp : p ∈ b.parts) :
    (s.commitAlu b due .known f).warp? (b.wid p.1) = some (b.commitWarp s due f p p.2.1) := by
  rw [commitAlu_eq, warp?_stay, warp?_countTurn, warp?_foldl_modWarp (proper_warps hproper) hp (warp?_of_bundle? hb hp)]
end

@[simp] theorem ops_stay (s : State) (b : Bundle) : (s.stay b).ops = s.ops := ops_modSlots ..
@[simp] theorem nextId_stay (s : State) (b : Bundle) : (s.stay b).nextId = s.nextId := by simp [State.stay, State.modSlots]
@[simp] theorem nextId_countTurn (s : State) (b : Bundle) : (s.countTurn b).nextId = s.nextId := by
  unfold State.countTurn; split <;> rfl
theorem foldl_modWarp_ops {α : Type} (id : α → WarpId) (f : α → Warp → Warp) (xs : List α) (s : State) :
    (xs.foldl (fun t x => t.modWarp (id x) (f x)) s).ops = s.ops :=
  foldl_keeps State.ops (fun t x => t.modWarp (id x) (f x)) (fun _ _ => rfl) xs s
theorem foldl_modWarp_nextId {α : Type} (id : α → WarpId) (f : α → Warp → Warp) (xs : List α) (s : State) :
    (xs.foldl (fun t x => t.modWarp (id x) (f x)) s).nextId = s.nextId :=
  foldl_keeps State.nextId (fun t x => t.modWarp (id x) (f x)) (fun _ _ => rfl) xs s
@[simp] theorem ops_past (s : State) (b : Bundle) (ends : Bool) (f : Nat → Nat → Thread → Thread) : (s.past b ends f).ops = s.ops := by
  rw [State.past, retire_eq, ops_stay, ops_countTurn, foldl_modWarp_ops]
@[simp] theorem nextId_past (s : State) (b : Bundle) (ends : Bool) (f : Nat → Nat → Thread → Thread) :
    (s.past b ends f).nextId = s.nextId := by
  rw [State.past, retire_eq, nextId_stay, nextId_countTurn, foldl_modWarp_nextId]
theorem ops_commitAlu (s : State) (b : Bundle) (due : Option Nat) (f : LaneCtx → LaneOut) : (s.commitAlu b due .known f).ops = s.ops := by
  rw [commitAlu_eq, ops_stay, ops_countTurn, foldl_modWarp_ops]
theorem nextId_commitAlu (s : State) (b : Bundle) (due : Option Nat) (f : LaneCtx → LaneOut) :
    (s.commitAlu b due .known f).nextId = s.nextId := by
  rw [commitAlu_eq, nextId_stay, nextId_countTurn, foldl_modWarp_nextId]

/-! ### Values under way (R103 to R105) -/

theorem outs_writes (b : Bundle) (s : State) (f : LaneCtx → LaneOut) (wi : Nat) (w : Warp) (ls : List Nat) :
    (b.outs s f wi w ls).map (fun (l, o) => (l, o.writes)) =
      ls.filterMap fun l => (w.threads[l]?).map fun th => (l, (f (b.laneCtx s wi w l th)).writes) := by
  rw [Bundle.outs, List.map_filterMap]
  refine List.filterMap_congr fun l _ => ?_
  cases w.threads[l]? <;> rfl
/-- The scoreboard has an entry for each register written, but for p7. -/
theorem pendWarp_sb (pc : VAddr) (due : Option Nat) (src : PendSrc) (outs : List (Nat × LaneOut)) (w : Warp) (r : RegName) :
    (∃ e ∈ (pendWarp pc due src outs w).sb, e.reg = r) ↔
      (∃ e ∈ w.sb, e.reg = r) ∨ (r ≠ .p 7 ∧ ∃ o ∈ outs.map (fun (l, o) => (l, o.writes)), ∃ y ∈ o.2, y.reg = r) := by
  simp only [pendWarp, List.mem_append, List.mem_map, List.mem_filter, List.mem_eraseDups, List.mem_flatMap, bne_iff_ne]
  constructor
  · rintro ⟨e, he | ⟨r', ⟨⟨o, ho, y, hy, rfl⟩, hne⟩, rfl⟩, rfl⟩
    · exact .inl ⟨e, he, rfl⟩
    · exact .inr ⟨hne, o, ho, y, hy, rfl⟩
  · rintro (⟨e, he, rfl⟩ | ⟨hne, o, ho, y, hy, rfl⟩)
    · exact ⟨e, .inl he, rfl⟩
    · exact ⟨⟨y.reg, pc⟩, .inr ⟨_, ⟨⟨o, ho, y, hy, rfl⟩, hne⟩, rfl⟩, rfl⟩
/-- A lane of the issue finds its own outcome. -/
theorem outOf_lane {b : Bundle} {s : State} {f : LaneCtx → LaneOut} {wi : Nat} {w : Warp} {ls : List Nat} {l : Nat} {th : Thread}
    (hl : l ∈ ls) (ht : w.threads[l]? = some th) (t : Thread) :
    outOf (b.outs s f wi w ls) l t = outThread (f (b.laneCtx s wi w l th)) t := by
  have hfind : (b.outs s f wi w ls).find? (·.1 == l) = some (l, f (b.laneCtx s wi w l th)) := by
    unfold Bundle.outs
    induction ls with
    | nil => exact absurd hl List.not_mem_nil
    | cons k ls ih =>
      by_cases hk : k = l
      · subst hk
        simp [ht]
      · have hrest := ih ((List.mem_cons.1 hl).resolve_left (Ne.symm hk))
        cases hkt : w.threads[k]? <;> simp [hkt, hk, hrest]
  simp only [outOf, hfind]

/-! ### Operations added (R104 to R107) -/

/-- What an operation changes in its warp: the counter, the tags, the scoreboard. -/
def Warp.withOp (w : Warp) (ctr : Option Counter) (tags : List Tag) (regs : List RegName) (pc : VAddr) : Warp :=
  (match ctr with
    | some c => ({ w with tags := tags } : Warp).addCounter c true
    | none => { w with tags := tags }).setSb regs pc
/-- The tag that an operation of a warp takes (R107). -/
def tagFor (tagged : Bool) (w : Warp) (now : Nat) : Option Nat := if tagged then some (pickTag (freshTags w.tags now)) else none
/-- Its tags once the operation has taken one. -/
def Warp.tagsFor (w : Warp) (tagged : Bool) (now : Nat) : List Tag := match tagFor tagged w now with
  | some i => takeTag (freshTags w.tags now) i
  | none => w.tags

section
variable (w : Warp) (ctr : Option Counter) (tags : List Tag) (regs : List RegName) (pc : VAddr)

theorem withOp_eq : w.withOp ctr tags regs pc = { w with
    tags := tags
    ld := w.ld + if ctr = some .ld then 1 else 0
    st := w.st + if ctr = some .st then 1 else 0
    xf := w.xf + if ctr = some .xf then 1 else 0
    tl := w.tl + if ctr = some .tl then 1 else 0
    sb := w.sb ++ regs.map fun r => ⟨r, pc⟩ } := by
  match ctr with
  | none => rfl
  | some .ld => rfl
  | some .st => rfl
  | some .xf => rfl
  | some .tl => rfl
theorem mem_sb_append (r : RegName) :
    (∃ e ∈ w.sb ++ regs.map fun r => (⟨r, pc⟩ : SbEntry), e.reg = r) ↔ (∃ e ∈ w.sb, e.reg = r) ∨ r ∈ regs := by
  simp only [List.mem_append, List.mem_map, or_and_right, exists_or]
  exact or_congr_right ⟨fun ⟨_, ⟨_, hr, he⟩, h⟩ => by rw [← h, ← he]; exact hr, fun hr => ⟨_, ⟨r, hr, rfl⟩, rfl⟩⟩
end

section
variable {s : State} {W : WarpId} {ctr : Option Counter} {tagged : Bool} {regs : List RegName} {mk : Option Nat → Nat → MemOp}

theorem nextId_addOp : (s.addOp W ctr tagged regs mk).nextId = s.nextId + 1 := rfl
theorem ops_addOp {w : Warp} (hw : s.warp? W = some w) :
    (s.addOp W ctr tagged regs mk).ops = s.ops ++ [mk (tagFor tagged w (s.now (s.coreOf W))) s.nextId] := by
  simp only [State.addOp, hw, modWarp_ops]
  rfl
theorem now_addOp (c : Nat) : (s.addOp W ctr tagged regs mk).now c = s.now c := rfl
theorem warp?_addOp_other {v : WarpId} (h : v ≠ W) : (s.addOp W ctr tagged regs mk).warp? v = s.warp? v :=
  warp?_modWarp_other _ W v _ h
theorem warp?_addOp_self {w : Warp} (hw : s.warp? W = some w) : ∃ tags pc,
    (s.addOp W ctr tagged regs mk).warp? W = some (w.withOp ctr tags regs pc) ∧ (tagged = false → tags = w.tags) := by
  refine ⟨w.tagsFor tagged (s.now (s.coreOf W)), (mk (tagFor tagged w (s.now (s.coreOf W))) s.nextId).pc, ?_, fun h => by rw [h]; rfl⟩
  have hnew : ∀ o, (s.newOp o).warp? W = some w := fun _ => hw
  simp only [State.addOp, warp?_modWarp_self, hnew, hw]
  rfl
end
theorem leaves_addOp {b : Bundle} {wi : Nat} (hwi : wi ∈ b.parts.map (·.1)) (s : State) (ctr : Option Counter) (tagged : Bool)
    (regs : List RegName) (mk : Option Nat → Nat → MemOp) : b.Leaves s (s.addOp (b.wid wi) ctr tagged regs mk) := by
  have hnew : ∀ o, b.Leaves s (s.newOp o) := fun _ => ⟨rfl, fun _ => rfl, fun _ _ => rfl⟩
  exact (hnew _).trans (leaves_modWarp hwi _ _)

section
variable {s : State} {b : Bundle} {ctr : Option Counter} {tagged : Bool} {regs : List RegName}
  {op : Nat → Warp → List Nat → Option Nat → Nat → MemOp}

theorem issued_eq : s.issued b ctr tagged regs op onlyOps =
    b.parts.foldl (fun t p => t.addOp (b.wid p.1) ctr tagged regs (op p.1 p.2.1 p.2.2)) s := rfl
theorem leaves_issued : b.Leaves s (s.issued b ctr tagged regs op onlyOps) := by
  rw [issued_eq]
  exact .foldl _ s fun t p hp => leaves_addOp (List.mem_map_of_mem hp) t ..
theorem nextId_issued : (s.issued b ctr tagged regs op onlyOps).nextId = s.nextId + b.parts.length := by
  rw [issued_eq]
  induction b.parts generalizing s with
  | nil => rfl
  | cons p ps ih => rw [List.foldl_cons, ih, nextId_addOp, List.length_cons]; omega
/-- The operations of the warps of an issue, in order: each takes its tag from its own warp, and the next number. -/
theorem ops_foldl_addOp {now n : Nat} {ps : List (Nat × Warp × List Nat)} (hn : (ps.map (·.1)).Nodup)
    (hin : ∀ p ∈ ps, p ∈ b.parts) (k : Nat) (s : State) (hw : ∀ p ∈ ps, s.warp? (b.wid p.1) = some p.2.1)
    (hc : ∀ wi, s.now (s.coreOf (b.wid wi)) = now) (hid : s.nextId = n + k) :
    (ps.foldl (fun t p => t.addOp (b.wid p.1) ctr tagged regs (op p.1 p.2.1 p.2.2)) s).ops =
      s.ops ++ (ps.zipIdx k).map fun x => op x.1.1 x.1.2.1 x.1.2.2 (tagFor tagged x.1.2.1 now) (n + x.2) := by
  induction ps generalizing k s with
  | nil => simp
  | cons p ps ih =>
    rw [List.map_cons, List.nodup_cons] at hn
    obtain ⟨hp, hn⟩ := hn
    have hleaves := leaves_addOp (b := b) (List.mem_map_of_mem (hin p List.mem_cons_self)) s ctr tagged regs (op p.1 p.2.1 p.2.2)
    rw [List.foldl_cons, ih hn (fun q hq => hin q (List.mem_cons_of_mem _ hq)) (k + 1), ops_addOp (hw p List.mem_cons_self), hc, hid]
    · simp
    · intro q hq
      rw [warp?_addOp_other, hw q (List.mem_cons_of_mem _ hq)]
      exact fun heq => hp (List.mem_map.2 ⟨q, hq, congrArg WarpId.warp heq⟩)
    · intro wi
      rw [hleaves.coreOf, now_addOp, hc]
    · rw [nextId_addOp, hid]
      omega
theorem ops_issued (hb : s.bundle? = some b) (hproper : b.proper = true) : (s.issued b ctr tagged regs op onlyOps).ops =
    s.ops ++ b.parts.zipIdx.map fun x =>
      op x.1.1 x.1.2.1 x.1.2.2 (tagFor tagged x.1.2.1 (s.now b.g.core)) (s.nextId + x.2) := by
  rw [issued_eq]
  exact ops_foldl_addOp (proper_warps hproper) (fun _ hp => hp) 0 s (fun _ hp => warp?_of_bundle? hb hp)
    (fun wi => by rw [coreOf_wid hb]) rfl
theorem warp?_issued (hb : s.bundle? = some b) (hproper : b.proper = true) {p : Nat × Warp × List Nat} (hp : p ∈ b.parts) :
    ∃ tags pc, (s.issued b ctr tagged regs op onlyOps).warp? (b.wid p.1) = some (p.2.1.withOp ctr tags regs pc) ∧
      (tagged = false → tags = p.2.1.tags) := by
  obtain ⟨t, ht, hfold⟩ := warp?_foldl_parts (b := b)
    (g := fun t p => t.addOp (b.wid p.1) ctr tagged regs (op p.1 p.2.1 p.2.2))
    (fun t p v hv => warp?_addOp_other hv) (proper_warps hproper) hp s
  rw [issued_eq, hfold]
  exact warp?_addOp_self (ht.trans (warp?_of_bundle? hb hp))
end

/-! ### The frame -/

/-- The frame of an issue as the statement says it. -/
theorem Bundle.Leaves.frame {b : Bundle} {s t : State} (h : b.Leaves s t) :
    t.home = s.home ∧ t.works = s.works ∧ t.watch = s.watch ∧ t.ctxs = s.ctxs ∧ t.queues = s.queues ∧
      t.amc = s.amc ∧ t.channels = s.channels ∧ t.nextLaunch = s.nextLaunch ∧ t.tick = s.tick ∧ t.irqs = s.irqs ∧
      (∀ w x, s.warp? w = some x → b.foreign w → t.warp? w = some x) ∧
      ∀ k v, s.unit? k = some v → ∃ v', t.unit? k = some v' ∧ v'.spad = v.spad ∧ v'.windows = v.windows ∧ v'.state = v.state ∧
        v'.stash = v.stash ∧ v'.wgs.map (fun g => (g.bars, g.handles)) = v.wgs.map fun g => (g.bars, g.handles) := by
  have hbeside := h.beside
  simp only [State.beside, Prod.mk.injEq] at hbeside
  obtain ⟨hhome, hworks, hwatch, hctxs, hqueues, hamc, hchannels, hlaunch, htick, hirqs⟩ := hbeside
  exact ⟨hhome, hworks, hwatch, hctxs, hqueues, hamc, hchannels, hlaunch, htick, hirqs,
    fun w x hx hw => (h.warps w hw).trans hx, fun _ _ hv => h.unit_some hv⟩
/-- A thread of a warp that has committed: as it was, or past the instruction with its draws and latches. -/
theorem commitWarp_thread {b : Bundle} {s : State} {due : Option Nat} {f : LaneCtx → LaneOut} {wi : Nat} {w : Warp} {ls : List Nat}
    (hn : ls.Nodup) {l : Nat} {th : Thread} (ht : w.threads[l]? = some th) :
    (b.commitWarp s due f (wi, w, ls) w).threads[l]? =
      some (if l ∈ ls then outThread (f (b.laneCtx s wi w l th)) (th.passed b.pc) else th) := by
  have hpend : (pendWarp b.pc due .known (b.outs s f wi w ls) w).threads[l]? = some th := ht
  rw [Bundle.commitWarp, retireWarp_thread hn, hpend]
  split
  · rename_i hl
    rw [Option.map_some, outOf_lane hl ht, retireThread_passed]
  · rfl

/-- Settles O37: `Bundle.Leaves` for what the issue leaves alone; `commitWarp` for a warp whose values go under way; `Warp.withOp`,
then the retirement, for a warp that has sent an operation. -/
theorem issueEffects : Obligations.IssueEffects := by
  unfold Obligations.IssueEffects
  intro s b hb hproper rest passed
  refine ⟨fun due f => ⟨(leaves_commitAlu s b due f).frame, ops_commitAlu .., nextId_commitAlu .., fun wi w ls hp => ?values⟩,
    fun ctr tagged regs op => ⟨(leaves_issued.trans (leaves_past ..)).frame, (nextId_past ..).trans nextId_issued,
      (ops_past ..).trans (ops_issued hb hproper), fun wi w ls hp => ?sent⟩⟩
  case values =>
    refine ⟨_, warp?_commitAlu hb hproper due f hp, ?_, fun r => ?_, fun l th ht => ?_⟩
    · rw [← outs_writes]
      rfl
    · rw [← outs_writes]
      exact pendWarp_sb b.pc due .known (b.outs s f wi w ls) w r
    · rw [commitWarp_thread (proper_lanes hproper hp) ht]
      exact ⟨fun hl => by rw [if_neg hl], fun hl => by rw [if_pos hl]; rfl⟩
  case sent =>
    obtain ⟨tags, pc, hsent, htags⟩ := warp?_issued (ctr := ctr) (tagged := tagged) (regs := regs) (op := op) hb hproper hp
    rw [withOp_eq] at hsent
    refine ⟨_, warp?_past hproper hp hsent, rfl, rfl, rfl, rfl, rfl, rfl, rfl, rfl, rfl, rfl, rfl,
      fun r => mem_sb_append w regs pc r, htags, fun l th ht => ?_⟩
    rw [retireWarp_thread (proper_lanes hproper hp)]
    simp only [ht, Option.map_some, retireThread_passed]
    exact ⟨fun hl => by rw [if_neg hl], fun hl => by rw [if_pos hl]; rfl⟩

end Sys2Proof.Machine
end

section
/-! Proofs of EXIT, NOP, REFORM, YIELD, TRAP and WAITC, and of LDS, STS and ALDP at issue (R98, R105, R154, R155, R167 to R171,
R240, R479). -/

namespace Sys2Proof.Machine

/-! ### Issues that go on -/

/-- An issue whose body goes on whenever its lanes and its waits allow it does what the body says. -/
theorem access_does {i : Instr} {ok : LaneCtx → Bool} {ready : Bundle → State → Prop} {eff : Bundle → State → State}
    {body : Bundle → State → Res} (he : exec i = issueStd i body)
    (hbody : ∀ s b, (∀ c ∈ b.each s, ok c = true) → ready b s → body b s = .done (eff b s)) : AccessDoes i ok ready eff := by
  intro s b hb hr _ hok hready
  rw [he, issueStd_ready hb hr, hbody s b hok hready]
/-- A body of which no lane faults and nothing makes the issue wait goes on. -/
theorem goes_on {hits : Option (Nat × List Hit)} {waits : Bool} {t : State} (hh : hits = none) (hw : waits = false) :
    (match hits with
      | some (code, hits) => Res.bad code hits
      | none => if waits then .wait else .done t) = .done t := by
  rw [hh, hw]
  rfl
/-- An instruction whose body always goes on. -/
theorem access_always {i : Instr} {eff : Bundle → State → State} (he : exec i = issueStd i fun b s => .done (eff b s)) :
    AccessDoes i (fun _ => true) (fun _ _ => True) eff :=
  access_does he fun _ _ _ _ => rfl

/-! ### EXIT, TRAP and WAITC (R154, R155, R171, R240) -/

theorem dropGraph_eq : dropGraph = fun x => if x.live = [] ∧ x.tl = 0 then { x with graph := [] } else x := by
  funext x
  simp [dropGraph]
theorem exec_exit (p : PNum) (sense : Bool) : exec (.exit p sense) = execExit p sense := rfl
/-- R155: TRAP raises its fault for every lane of the issue, whatever the lanes hold. -/
theorem trap_does (code : BitVec 10) : AccessDoes (.trap code) (fun _ => true) (fun _ _ => True) fun b s =>
    s.takeFault b.u.id b.wg 0x09 true b.pc (b.hits code.toNat 0) :=
  fun _ b hb hr _ _ _ => issueStd_bad (body := fun b _ => .bad 0x09 (b.hits code.toNat 0)) (hits := b.hits code.toNat 0) hb hr rfl
theorem countOk_iff (n : Nat) (want : BitVec 6) : countOk n want = true ↔ want = 63 ∨ n ≤ want.toNat := by
  have h63 : want.toNat = 63 ↔ want = 63 := by rw [← BitVec.toNat_inj]; rfl
  simp [countOk, h63]
/-- R171: the counters of every warp of the issue stand at or below the counts that the instruction names. -/
theorem waitc_counts {b : Bundle} {ld st xf tl : BitVec 6}
    (h : ∀ x ∈ b.parts, (ld = 63 ∨ x.2.1.ld ≤ ld.toNat) ∧ (st = 63 ∨ x.2.1.st ≤ st.toNat) ∧
      (xf = 63 ∨ x.2.1.xf ≤ xf.toNat) ∧ (tl = 63 ∨ x.2.1.tl ≤ tl.toNat)) :
    (b.parts.all fun (_, w, _) => countOk w.ld ld && countOk w.st st && countOk w.xf xf && countOk w.tl tl) = true := by
  rw [List.all_eq_true]
  intro x hx
  simp only [Bool.and_eq_true, countOk_iff, and_assoc]
  exact h x hx

/-- Settles O26: each instruction's body goes on (`access_always`, `access_does`), but for TRAP's, which raises its fault. -/
theorem threadControl : Obligations.ThreadControl := by
  unfold Obligations.ThreadControl
  intro p sense code ld st xf tl
  refine ⟨?exit, access_always rfl, access_always rfl, access_always rfl, trap_does code, access_does rfl ?waitc⟩
  case exit =>
    refine access_always ?_
    rw [exec_exit, execExit, dropGraph_eq]
    rfl
  case waitc =>
    intro s b _ hcounts
    simp only [waitc_counts hcounts, if_true]
    rfl

/-! ### Parts in the scratchpad (R168 to R170) -/

theorem dualSize_eq (sz : Size) : dualSize sz = (sz == .b16 || sz == .b32 || sz == .b64 || sz == .b128) := by
  cases sz <;> rfl
/-- No store is forwarded to the scratchpad: nothing pending there is a core's own. -/
theorem forwarders_spad {s : State} {core : Nat} {ps : List Part} (h : ∀ p ∈ ps, p.space = .spad) : s.forwarders core ps = [] := by
  have hnone : (ps.flatMap fun p => (s.pendingBytes core p.space p.addr p.n).2) = [] :=
    List.flatMap_eq_nil_iff.2 fun p hp => by rw [h p hp]; rfl
  rw [State.forwarders, hnone]
  rfl
theorem forall_mem_sendsOf {parts : Nat → Warp → Nat → Thread → List Part} {P : Part → Prop}
    (h : ∀ wi w l t, ∀ p ∈ parts wi w l t, P p) (wi : Nat) (w : Warp) (ls : List Nat) : ∀ p ∈ sendsOf parts wi w ls, P p := by
  intro p hp
  obtain ⟨l, -, hp⟩ := List.mem_flatMap.1 hp
  split at hp
  · exact h _ _ _ _ p hp
  · exact absurd hp List.not_mem_nil
theorem space_spadParts (b : Bundle) (sz : Size) (l x carried : Nat) (data : Nat → List Byte) :
    ∀ p ∈ spadParts b sz l x carried data, p.space = .spad := by
  intro p hp
  obtain ⟨k, -, rfl⟩ := List.mem_map.1 hp
  rfl
/-- An access within the scratchpad and apart from every stash window raises no fault (R168, R452). -/
theorem spadCheck_fault {a : GNum} {sz : Size} {off : BitVec 8} {c : LaneCtx}
    (hin : spadEa a sz off c.th + sz.bytes ≤ c.unit.cfg.spadSize)
    (hst : (c.unit.stash.all fun st => !overlaps (spadEa a sz off c.th) sz.bytes st.soff st.length) = true) :
    (spadCheck a sz off c).fault = none := by
  have hbad : c.unit.spadBad (spadEa a sz off c.th) sz.bytes = false := by
    simp only [Placed.spadBad, Bool.or_eq_false_iff, decide_eq_false_iff_not, Nat.not_lt]
    exact ⟨hin, by simpa using hst⟩
  simp only [spadCheck, hbad]
  rfl
/-- A lane of an issue reads its launch through its unit. -/
theorem cfg_of_mem_each {b : Bundle} {s : State} {c : LaneCtx} (h : c ∈ b.each s) : c.cfg = c.unit.cfg := by
  obtain ⟨⟨wi, w, ls⟩, -, hc⟩ := List.mem_flatMap.1 h
  obtain ⟨l, -, hc⟩ := List.mem_filterMap.1 hc
  obtain ⟨t, -, rfl⟩ := Option.map_eq_some_iff.1 hc
  rfl
theorem outHits_spad {a : GNum} {sz : Size} {off : BitVec 8} {b : Bundle} {s : State}
    (h : ∀ c ∈ b.each s, (decide (spadEa a sz off c.th + sz.bytes ≤ c.cfg.csize * c.cfg.spad) &&
      c.unit.stash.all fun st => !overlaps (spadEa a sz off c.th) sz.bytes st.soff st.length) = true) :
    b.outHits s (spadCheck a sz off) = none := by
  refine outHits_none fun c hc => ?_
  have hin := h c hc
  rw [cfg_of_mem_each hc, Bool.and_eq_true, decide_eq_true_eq] at hin
  exact spadCheck_fault hin.1 hin.2

/-! ### Loads sent (R105, R164) -/

/-- The loads of an issue are its operations, one for each warp. -/
theorem sendLoads_eq_issued (s : State) (b : Bundle) (p : LoadPlan) (parts : Nat → Thread → List Part) :
    s.sendLoads b p parts = s.issued b (some .ld) p.tag p.regs (fun wi w ls tag id =>
      let ps := sendsOf (fun _ _ l t => parts l t) wi w ls
      { MemOp.plain (b.wid wi) b.g.core b.pc p.kind ls ps id with
        group := p.group, tag := tag, mask := (tag.map tagMask).getD 0, pol := p.pol, scope := p.scope, acq := p.acq
        waitSt := s.forwarders b.g.core ps
        due := if ps.all (·.st == .done) || !p.tag then s.clk + p.lat else 0 }) onlyOps := rfl
theorem addOp_untagged {s : State} {w : WarpId} {ctr : Option Counter} {sb : List RegName} {mk mk' : Option Nat → Nat → MemOp}
    (h : ∀ id, mk none id = mk' none id) : s.addOp w ctr false sb mk = s.addOp w ctr false sb mk' := by
  simp only [State.addOp, Bool.false_eq_true, if_false, State.newOp, h]
/-- Issues whose operations take no tag are alike when their operations are alike without one. -/
theorem issued_untagged {s : State} {b : Bundle} {ctr : Option Counter} {regs : List RegName}
    {op op' : Nat → Warp → List Nat → Option Nat → Nat → MemOp} (h : ∀ wi w ls id, op wi w ls none id = op' wi w ls none id) :
    s.issued b ctr false regs op onlyOps = s.issued b ctr false regs op' onlyOps := by
  rw [issued_eq, issued_eq]
  exact List.foldl_ext _ _ _ fun t p _ => addOp_untagged (h p.1 p.2.1 p.2.2)
/-- The loads of an issue from the scratchpad: no tag, nothing forwarded, and a fixed latency (R105, R168). -/
theorem sendLoads_spad {s : State} {b : Bundle} {kind : OpKind} {regs : List RegName} {lat : Nat} {parts : Nat → Thread → List Part}
    (h : ∀ l t, ∀ p ∈ parts l t, p.space = .spad) :
    s.sendLoads b ⟨kind, regs, .norm, .dev, false, false, lat, s.nextId⟩ parts =
      s.issued b (some .ld) false regs (fun wi w ls _ id =>
        { MemOp.plain (b.wid wi) b.g.core b.pc kind ls (sendsOf (fun _ _ l t => parts l t) wi w ls) id with
          group := s.nextId, due := s.clk + lat }) onlyOps := by
  rw [sendLoads_eq_issued]
  refine issued_untagged fun wi w ls id => ?_
  have hfwd := forwarders_spad (s := s) (core := b.g.core)
    (forall_mem_sendsOf (fun _ _ l t => h l t) wi w ls)
  simp only [hfwd, Bool.not_false, Bool.or_true, if_true]
  rfl

/-! ### ALDP (R167) -/

theorem immValue_eq {w : Nat} (h : Hints) (f : BitVec w) :
    immValue h f = match h.imm with | none => f.toInt | some p => (p ++ f).toInt := by
  unfold immValue
  cases h.imm with
  | none => rfl
  | some p =>
    refine congrArg BitVec.toInt (BitVec.eq_of_toNat_eq ?_)
    have hlt : p.toNat * 2 ^ w + f.toNat < 2 ^ (25 + w) := by
      have hp := p.isLt
      have hf := f.isLt
      calc p.toNat * 2 ^ w + f.toNat < p.toNat * 2 ^ w + 2 ^ w := by omega
        _ = (p.toNat + 1) * 2 ^ w := by rw [Nat.succ_mul]
        _ ≤ 2 ^ 25 * 2 ^ w := Nat.mul_le_mul_right _ hp
        _ = 2 ^ (25 + w) := (Nat.pow_add ..).symm
    rw [BitVec.toNat_ofNat, Nat.mod_eq_of_lt hlt, BitVec.toNat_append, ← Nat.shiftLeft_add_eq_or_of_lt f.isLt, Nat.shiftLeft_eq]
theorem allows_eq_inReg (a : AReg) (va : Int) (n : Nat) (rd wr : Bool) : a.allows va n rd wr = inReg a va n rd wr := by
  simp only [AReg.allows, inReg, Bool.decide_and, Bool.and_assoc]
theorem maskOf_address (t : Thread) (n : Nat) : t.maskOf [.a n] = (t.ar n).mask := by
  simp [Thread.maskOf]
/-- Where no part meets a fill or a window being unbound, the wait for them is over (R406, R453). -/
theorem noFill_any {b : Bundle} {s : State} {parts : Nat → Warp → Nat → Thread → List Part} (h : noFill b s parts) :
    (b.lanes.any fun (wi, w, l, t) => (parts wi w l t).any fun p =>
      (p.space == .local && s.fillPending b.g.core p.addr p.n) || (p.space == .stash && s.unbinding b.u p.addr)) = false := by
  rw [List.any_eq_false]
  intro x hx
  rw [Bool.not_eq_true, List.any_eq_false]
  intro p hp
  obtain ⟨hfill, hbind⟩ := h x hx p hp
  simp only [Bool.or_eq_true, Bool.and_eq_true, beq_iff_eq, not_or, not_and, Bool.not_eq_true]
  exact ⟨hfill.resolve_left ∘ not_not_intro, hbind.resolve_left ∘ not_not_intro⟩

/-- Settles O22: no lane faults and nothing makes the issue wait, so the body sends the operations that the statement names; those of
the scratchpad take no tag and are forwarded nothing (`sendLoads_spad`). -/
theorem scratchpadAndPointers : Obligations.ScratchpadAndPointers := by
  unfold Obligations.ScratchpadAndPointers
  intro d a n m off off10 sz b128 pol ea dual inside parts psz pa pacc
  have hdual (b : Bundle) : b.dualSpad sz = dual b := by rw [Bundle.dualSpad, dualSize_eq]
  have hparts (b : Bundle) (carried : Thread → Nat) (data : Thread → Nat → List Byte) :
      (fun _ _ l t => spadParts b sz l (spadEa a sz off t) (carried t) (data t)) = parts b carried data := by
    funext wi w l t
    rw [spadParts, hdual]
    rfl
  refine ⟨access_does rfl fun s b hok hgo => ?lds, access_does rfl fun s b hok hgo => ?sts,
    access_does rfl fun s b hok hgo => ?aldp⟩
  case lds =>
    have hfree : b.outHits s (spadCheck a sz off) = none := outHits_spad hok
    refine (goes_on hfree (by rw [hgo]; rfl)).trans (congrArg Res.done ?_)
    have hspace (l : Nat) (t : Thread) :
        ∀ p ∈ spadParts b sz l (spadEa a sz off t) (t.gr a.toNat).mask.toNat (fun _ => []), p.space = .spad :=
      space_spadParts b sz l _ _ _
    rw [sendLoads_spad hspace, hdual, ← Nat.add_assoc, ← hparts]
    rfl
  case sts =>
    have hfree : b.outHits s (spadCheck a sz off) = none := outHits_spad hok
    refine (goes_on hfree (by rw [hgo]; rfl)).trans (congrArg Res.done ?_)
    rw [← hparts]
    rfl
  case aldp =>
    have hbytes : (if b128 = true then Size.b128 else Size.b64).bytes = psz := by cases b128 <;> rfl
    have hea (c : LaneCtx) : offsetEa m (if b128 = true then Size.b128 else Size.b64) off10 c = pa c := by
      rw [offsetEa, hbytes, immValue_eq] <;> rfl
    have hfree : b.outHits s (fun c => if (c.th.ar m.toNat).allows (pa c) psz true false = true then LaneOut.ok []
        else .bad 0x04 (BitVec.ofInt 64 (pa c)).toNat 0) = none :=
      outHits_none fun c hc => by rw [allows_eq_inReg, if_pos (hok c hc)]; rfl
    have hwait : (!b.mayGo s (some .ld) (fun t => (t.ar m.toNat).mask) || b.lanes.any fun (wi, w, l, t) =>
        (pacc b s wi w l t).any fun p => (p.space == .local && s.fillPending b.g.core p.addr p.n) ||
          (p.space == .stash && s.unbinding b.u p.addr)) = false := by
      rw [hgo.1, noFill_any hgo.2]
      rfl
    simp only [hbytes, hea, maskOf_address]
    refine (goes_on hfree hwait).trans (congrArg Res.done ?_)
    rw [Bundle.ordered, List.foldl_map]
    rfl

end Sys2Proof.Machine
end

section
/-! Proof of how reads are served: LOAD_SERVE, MONITOR_ARM and WAITCMP_POLL (R105 to R107, R164, R167, R353, R356, R405, R407, R410,
R427, R446, R452, R495). -/

namespace Sys2Proof.Machine

/-! ### Operations and their parts -/

theorem op?_id {s : State} {id : Nat} {o : MemOp} (h : s.op? id = some o) : o.id = id := by
  simpa using List.find?_some h
/-- An operation is found changed after its own update. -/
theorem op?_modOp_self {s : State} {id : Nat} {o : MemOp} {f : MemOp → MemOp} (h : s.op? id = some o)
    (hf : ∀ o, (f o).id = o.id) : (s.modOp id f).op? id = some (f o) := by
  have hid (x : MemOp) : (if (x.id == id) = true then f x else x).id = x.id := by split <;> simp [hf]
  have hfind : ((s.ops.map fun x => if x.id == id then f x else x).find? (·.id == id)) =
      (s.ops.find? (·.id == id)).map fun x => if x.id == id then f x else x := by
    rw [List.find?_map]
    simp only [Function.comp_def, hid]
  rw [State.op?] at h ⊢
  simp only [State.modOp, hfind, h, Option.map_some, op?_id h, beq_self_eq_true, if_true]
theorem part?_iff {s : State} {op i : Nat} {o : MemOp} {p : Part} :
    s.part? op i = some (o, p) ↔ s.op? op = some o ∧ o.parts[i]? = some p := by
  simp only [State.part?, Option.bind_eq_some_iff, Option.map_eq_some_iff, Prod.mk.injEq]
  constructor
  · rintro ⟨o', ho, p', hp, rfl, rfl⟩
    exact ⟨ho, hp⟩
  · rintro ⟨ho, hp⟩
    exact ⟨o, ho, p, hp, rfl, rfl⟩
theorem part?_id {s : State} {op i : Nat} {o : MemOp} {p : Part} (h : s.part? op i = some (o, p)) : o.id = op :=
  op?_id (part?_iff.1 h).1
theorem part?_congr {s t : State} (h : t.ops = s.ops) (op i : Nat) : t.part? op i = s.part? op i := by
  simp only [State.part?, State.op?, h]
/-- A part is found changed after its own update. -/
theorem part?_setPart {s : State} {op i : Nat} {o : MemOp} {p : Part} (h : s.part? op i = some (o, p)) (f : Part → Part) :
    (s.setPart op i f).part? op i = some ({ o with parts := modAt o.parts i f }, f p) := by
  obtain ⟨ho, hp⟩ := part?_iff.1 h
  refine part?_iff.2 ⟨op?_modOp_self ho fun _ => rfl, ?_⟩
  rw [modAt_getElem?, if_pos rfl, hp, Option.map_some]
theorem partAt_setPart {s : State} {op i : Nat} {o : MemOp} {p : Part} (h : s.part? op i = some (o, p)) (f : Part → Part) :
    partAt (s.setPart op i f) op i (f p).st (f p).time := ⟨_, _, part?_setPart h f, rfl, rfl⟩

/-! ### Reads of the host, of peers and of the scratchpad (R33, R168, R356) -/

theorem filter_eq_nil_of_false {α : Type} {xs : List α} {f : α → Bool} (h : ∀ x ∈ xs, f x = false) : xs.filter f = [] :=
  List.filter_eq_nil_iff.2 fun x hx => by simp [h x hx]
theorem readSpan_host {s : State} {a n : Nat} (ctx : Nat) (h : ∀ u ∈ s.home.hostPoison, overlaps u 8 a n = false) :
    s.readSpan ctx .host a n = .ok (memRead s.home.host a n) := by
  simp only [State.readSpan, filter_eq_nil_of_false h]
theorem readSpan_peer {s : State} {k a n : Nat} (ctx : Nat)
    (h : ∀ u ∈ s.home.peerErrs, u.1 = k → overlaps u.2 8 a n = false) :
    s.readSpan ctx (.peer k) a n = .ok (memRead (peerMem s.home k) a n) := by
  have hnone : (s.home.peerErrs.filter fun (j, u) => j == k && overlaps u 8 a n) = [] :=
    filter_eq_nil_of_false fun u hu => by
      by_cases hk : u.1 = k
      · simp [h u hu hk]
      · simp [hk]
  simp only [State.readSpan, hnone]

/-- A part answered with bytes, over which those forwarded to it are laid. -/
def State.answerPart (s : State) (op i : Nat) (bs : List Byte) (time : Nat) : State :=
  s.setPart op i fun q => { q with st := .done, data := overlay bs q.fwd, time := time }

section
variable {s : State} {op i : Nat} {o : MemOp} {p : Part} (c : ServeChoice) (ha : arrives s op i o p)
include ha

/-- A read that nothing before it holds up is served. -/
theorem exec_loadServe (hr : o.kind.isRead = true) : exec (.loadServe op i c) s = .next (s.serve o i p c) := by
  obtain ⟨hpart, hsent, hfree⟩ := ha
  change execLoadServe op i c s = _
  simp only [execLoadServe, hpart, hr, hsent, hfree, beq_self_eq_true, Bool.not_false, Bool.and_true, if_true]
theorem serve_far (hf : p.far = true) : s.serve o i p c = match s.readSpan 0 p.space p.addr p.n with
    | .ok bs => s.answerPart op i bs 0
    | .busy => s
    | .bad code a d => s.setPart op i fun q => { q with st := .failed code a d } := by
  rw [State.serve, part?_id ha.1]
  cases hs : p.space <;> simp [Part.far, hs] at hf ⊢ <;> rfl
theorem serve_spad (hs : p.space = .spad) {u : Placed} (hu : s.unit? o.w.unit = some u) :
    s.serve o i p c = s.answerPart op i (memRead u.spad p.addr p.n) 0 := by
  rw [State.serve, part?_id ha.1]
  simp only [hs, hu]
  rfl
/-- A part of a stash window that is not being unbound is answered from its line, once that is ready. -/
theorem serve_stash (hs : p.space = .stash) {u : Placed} {st st' : Stash} {s' : State} {v : Nat} (hu : s.unit? o.w.unit = some u)
    (hst : u.stashAt p.addr = some st) (hbind : s.unbinding u p.addr = false) (hfill : s.fillLine o u st p.addr = .ok s' st' v) :
    s.serve o i p c = match st'.poisonAt p.addr p.n with
      | some a => s'.setPart op i fun q => { q with st := .failed 0x11 a 0 }
      | none => s'.answerPart op i
          (memRead (((s'.unit? u.id).map (·.spad)).getD []) (st'.soff + (p.addr - st'.vbase)) p.n) v := by
  have hof : s.stashOf o p = some (u, st) := by
    simp only [State.stashOf, hu, Option.bind_some, hbind, Bool.false_eq_true, if_false, hst, Option.map_some]
  rw [State.serve, part?_id ha.1]
  simp only [hs, hof, hfill]
  rfl
theorem serve_local_bad (hs : p.space = .local) {code a d : Nat} (hr : s.readLocal (s.ctxOf o) p.addr p.n = .bad code a d) :
    s.serve o i p c = s.setPart op i fun q => { q with st := .failed code a d } := by
  rw [State.serve, part?_id ha.1]
  simp only [hs, hr]
/-- A local read that fills no block. -/
theorem serve_local (hs : p.space = .local) (hf : o.fills = false) {bs : List Byte}
    (hr : s.readLocal (s.ctxOf o) p.addr p.n = .ok bs) :
    s.serve o i p c = (s.cacheWalk (s.ctxOf o) p.addr).answerPart op i bs (visOf s.home p.addr p.n) := by
  have hvis : visOf (s.cacheWalk (s.ctxOf o) p.addr).home p.addr p.n = visOf s.home p.addr p.n := by
    obtain ⟨tlb, hc⟩ := cacheWalk_caches s (s.ctxOf o) p.addr
    rw [hc]
    rfl
  rw [State.serve, part?_id ha.1, ← hvis]
  simp only [hs, hr, hf]
  rfl
/-- A local read that fills a block takes the block's V. -/
theorem serve_local_fills (hs : p.space = .local) (hf : o.fills = true) {bs : List Byte} {s' : State} {v : Nat}
    (hr : s.readLocal (s.ctxOf o) p.addr p.n = .ok bs)
    (hb : (s.cacheWalk (s.ctxOf o) p.addr).fillBlock o p c = some (s', v)) :
    s.serve o i p c = s'.answerPart op i bs v := by
  rw [State.serve, part?_id ha.1]
  simp only [hs, hr, hf, hb, if_true]
  rfl
end

/-! ### Stash lines (R407, R452) -/

theorem fillLine_filled {s : State} {o : MemOp} {u : Placed} {st : Stash} {va v : Nat}
    (h : natGet st.lines ((va - st.vbase) / 256) = v + 1) : s.fillLine o u st va = .ok s st v := by
  simp only [State.fillLine, h]
/-- The window once its line of an address has been filled at its first touch. -/
def Stash.withLine (st : Stash) (s : State) (va : Nat) (bad : List Nat) : Stash :=
  let ln := (va - st.vbase) / 256
  let v := if st.space = .local then visOf s.home (st.ibase + 256 * ln) 256 else 0
  { st with lines := natSet st.lines ln (v + 1), poison := st.poison ++ bad.map (· - st.ibase) }
theorem fillLine_fresh {s : State} {o : MemOp} {u : Placed} {st : Stash} {va : Nat} {bs : List Byte} {bad : List Nat}
    (h0 : natGet st.lines ((va - st.vbase) / 256) = 0)
    (hb : s.lineBusy o st.space (st.ibase + 256 * ((va - st.vbase) / 256)) = false)
    (hl : s.lineFor u.ctx st.space (st.ibase + 256 * ((va - st.vbase) / 256)) = .ok bs bad) :
    s.fillLine o u st va = .ok
      ((s.cacheWalk u.ctx (st.ibase + 256 * ((va - st.vbase) / 256))).modUnit u.id fun u =>
        { u.setStash (st.withLine s va bad) with spad := memWrite u.spad (st.soff + 256 * ((va - st.vbase) / 256)) bs })
      (st.withLine s va bad)
      (if st.space = .local then visOf s.home (st.ibase + 256 * ((va - st.vbase) / 256)) 256 else 0) := by
  simp only [State.fillLine, h0, hb, hl, beq_iff_eq, Bool.false_eq_true, if_false, Stash.withLine]

/-! ### Filling a block of L1 (R405, R410, R415) -/

theorem leaseTicks_eq (n : Nat) : leaseTicks n =
    if n = 0 then 0 else if n = 1 then 32 else if n = 2 then 128 else if n = 3 then 512 else 2048 := by
  match n with
  | 0 | 1 | 2 | 3 => rfl
  | n + 4 => simp [leaseTicks]
/-- The first byte and the length of the block that a fill makes for a part: the chunks chosen, and those of the part. -/
def Part.fillBase (p : Part) (c : ServeChoice) : Nat := p.addr / 256 * 256 + 32 * min c.chunk.toNat (p.addr % 256 / 32)
def Part.fillLen (p : Part) (c : ServeChoice) : Nat :=
  32 * (max (min 7 (c.chunk.toNat + c.chunks.toNat)) ((p.addr % 256 + p.n - 1) / 32) - min c.chunk.toNat (p.addr % 256 / 32) + 1)
/-- When the lease of the block expires. -/
def State.leaseEnd (s : State) (p : Part) (c : ServeChoice) : Nat := s.clockOf (.slice (p.fillBase c)) + leaseTicks c.lease.toNat
/-- The block of a fill, and an L1 once it has taken it in. -/
def State.filledBlock (s : State) (o : MemOp) (p : Part) (c : ServeChoice) (cs : List Byte) : L1Block :=
  let mine := s.storedBytes false o.core .local (p.fillBase c) (p.fillLen c)
  ⟨p.fillBase c, overlay cs mine.1, s.leaseEnd p c, visOf s.home (p.fillBase c) (p.fillLen c), o.pol, mine.2⟩
def Core.takeBlock (k : Core) (evict : List Nat) (blk : L1Block) (base len : Nat) : Core := { k with l1 := keepBlocks 262144 (blk ::
  sortKey (fun j => 2 - evictRank j.pol) (afterEvict evict (k.l1.filter fun j => !overlaps j.base j.data.length base len))) }
theorem fillBlock_ok {s : State} {o : MemOp} {p : Part} {c : ServeChoice} {cs : List Byte}
    (h : s.readLocal (s.ctxOf o) (p.fillBase c) (p.fillLen c) = .ok cs) : s.fillBlock o p c = some
      (({ s with home := { s.home with
          emax := natSet s.home.emax (p.addr / 256) (max (natGet s.home.emax (p.addr / 256)) (s.leaseEnd p c)) } } : State).modCore
        o.core fun k => k.takeBlock c.evict (s.filledBlock o p c cs) (p.fillBase c) (p.fillLen c),
      visOf s.home (p.fillBase c) (p.fillLen c)) := by
  rw [Part.fillBase, Part.fillLen] at h
  simp only [State.fillBlock, h]
  rfl

section
variable {s : State} {op i : Nat} {o : MemOp} {p : Part} {c : ServeChoice} (ha : arrives s op i o p) (hread : o.kind.isRead = true)
include ha hread

/-- R405, R410: a read that fills a block leaves it in its core's L1 under the lease that its slice has granted. -/
theorem loadServe_fills {bs cs : List Byte} (hs : p.space = .local) (hf : o.fills = true)
    (hr : s.readLocal (s.ctxOf o) p.addr p.n = .ok bs)
    (hb : (s.cacheWalk (s.ctxOf o) p.addr).readLocal ((s.cacheWalk (s.ctxOf o) p.addr).ctxOf o) (p.fillBase c) (p.fillLen c) = .ok cs) :
    Does (.loadServe op i c) s fun t => partAt t op i .done (visOf s.home (p.fillBase c) (p.fillLen c)) ∧ s.sameMemory t ∧
      (∃ o' q, t.part? op i = some (o', q) ∧ q.data = overlay bs p.fwd) ∧
      t.home.emax = natSet s.home.emax (p.addr / 256) (max (natGet s.home.emax (p.addr / 256)) (s.leaseEnd p c)) ∧
      t.core o.core = (s.core o.core).takeBlock c.evict (s.filledBlock o p c cs) (p.fillBase c) (p.fillLen c) := by
  have hserve := serve_local_fills c ha hs hf hr (fillBlock_ok hb)
  obtain ⟨tlb, hc⟩ := cacheWalk_caches s (s.ctxOf o) p.addr
  rw [hc] at hserve
  refine ⟨_, (exec_loadServe c ha hread).trans (congrArg Host.Outcome.next hserve), ?_⟩
  generalize hblk : State.modCore _ o.core _ = t
  have hpart : t.part? op i = some (o, p) := (part?_congr (by rw [← hblk, modCore_ops]) op i).trans ha.1
  have hhome : t.home = { s.home with
      tlb := tlb
      emax := natSet s.home.emax (p.addr / 256) (max (natGet s.home.emax (p.addr / 256)) (s.leaseEnd p c)) } := by
    rw [← hblk, modCore_home]
    rfl
  refine ⟨partAt_setPart hpart _, fun x => ?_, ⟨_, _, part?_setPart hpart _, rfl⟩, congrArg Home.emax hhome, ?_⟩
  · change memGet t.home.mem x = _ ∧ memGet t.home.host x = _ ∧ ∀ n, memGet (peerMem t.home n) x = _
    rw [hhome]
    exact ⟨rfl, rfl, fun _ => rfl⟩
  · change t.core o.core = _
    rw [← hblk, core_modCore, if_pos rfl]
    · rfl
    · exact fun _ => rfl
/-- R407, R452: the first touch of a line of a stash window fills it, and the part is answered from it. -/
theorem loadServe_firstTouch {u : Placed} {st : Stash} {bs : List Byte} {bad : List Nat} (hs : p.space = .stash)
    (hu : s.unit? o.w.unit = some u) (hst : u.stashAt p.addr = some st) (hbind : s.unbinding u p.addr = false)
    (h0 : natGet st.lines ((p.addr - st.vbase) / 256) = 0)
    (hb : s.lineBusy o st.space (st.ibase + 256 * ((p.addr - st.vbase) / 256)) = false)
    (hl : s.lineFor u.ctx st.space (st.ibase + 256 * ((p.addr - st.vbase) / 256)) = .ok bs bad) :
    Does (.loadServe op i c) s fun t => s.sameMemory t ∧
      (match (st.withLine s p.addr bad).poisonAt p.addr p.n with
        | none => partAt t op i .done
            (if st.space = .local then visOf s.home (st.ibase + 256 * ((p.addr - st.vbase) / 256)) 256 else 0)
        | some a => partAt t op i (.failed 0x11 a 0) p.time) ∧
      t.unit? u.id = some { u.setStash (st.withLine s p.addr bad) with
        spad := memWrite u.spad (st.soff + 256 * ((p.addr - st.vbase) / 256)) bs } := by
  have hserve := serve_stash c ha hs hu hst hbind (fillLine_fresh h0 hb hl)
  obtain ⟨tlb, hc⟩ := cacheWalk_caches s u.ctx (st.ibase + 256 * ((p.addr - st.vbase) / 256))
  rw [hc] at hserve
  refine ⟨_, (exec_loadServe c ha hread).trans (congrArg Host.Outcome.next hserve), ?_⟩
  generalize hfill : State.modUnit _ u.id _ = t
  have hpart : t.part? op i = some (o, p) := (part?_congr (by rw [← hfill]; rfl) op i).trans ha.1
  have hunit : t.unit? u.id = some { u.setStash (st.withLine s p.addr bad) with
      spad := memWrite u.spad (st.soff + 256 * ((p.addr - st.vbase) / 256)) bs } := by
    have hid : s.unit? u.id = some u := by rw [unit?_id hu, hu]
    rw [← hfill, unit?_modUnit]
    · change (s.unit? u.id).map _ = _
      simp [hid]
    · exact fun _ => rfl
  have hmem : s.sameMemory t := fun x => by rw [← hfill]; exact ⟨rfl, rfl, fun _ => rfl⟩
  cases (st.withLine s p.addr bad).poisonAt p.addr p.n with
  | none => exact ⟨hmem, partAt_setPart hpart _, hunit⟩
  | some a => exact ⟨hmem, partAt_setPart hpart _, hunit⟩
end

/-! ### Monitors and polls (R427, R446, R448) -/

section
variable {s : State} {op i dst : Nat} {o : MemOp} {p : Part} {cond : WCond} {b64 : Bool} {vals : List (Nat × Nat)} {bs : List Byte}
  (ha : arrives s op i o p) (hk : o.kind = .waitcmp dst cond b64 vals)
include ha hk

/-- R427, R448: a monitor compares as it is armed. -/
theorem exec_monitorArm (over_ : Bool) (hs : p.space = .local) (hr : s.readLocal (s.ctxOf o) p.addr p.n = .ok bs) :
    exec (.monitorArm op i over_) s = .next (
      let s1 := s.cacheWalk (s.ctxOf o) p.addr
      if wcondHolds cond (bytesNat bs) (waitVal vals p.lane) then
        s1.setPart op i fun q => { q with st := .done, data := bs, time := visOf s.home p.addr p.n }
      else (s1.setPart op i fun q => { q with st := .armed (decide (256 ≤ s.armedAt p.addr)) }).modThread o.w p.lane
        fun t => { t with parked := some (t.parked.getD (s.now o.core)) }) := by
  obtain ⟨hpart, hsent, hfree⟩ := ha
  obtain ⟨tlb, hc⟩ := cacheWalk_caches s (s.ctxOf o) p.addr
  change execMonitorArm op i over_ s = _
  simp only [execMonitorArm, hpart, hk, hs, hsent, hfree, hr, bne_self_eq_false, Bool.or_self, Bool.false_eq_true, if_false,
    Config.sliceMonitors, hc]
  split <;> rfl
/-- R446: the core compares a word of the host or of a peer, and reads it again 256 ticks later. -/
theorem exec_waitcmpPoll (hf : p.far = true) (ht : p.time ≤ s.now o.core) (hr : s.readSpan 0 p.space p.addr p.n = .ok bs) :
    exec (.waitcmpPoll op i) s = .next (
      if wcondHolds cond (bytesNat bs) (waitVal vals p.lane) then
        s.setPart op i fun q => { q with st := .done, data := bs, time := 0 }
      else (s.setPart op i fun q => { q with time := s.now o.core + 256 }).park o p.lane) := by
  obtain ⟨hpart, hsent, -⟩ := ha
  have hdue : ¬ p.time > s.now o.core := Nat.not_lt.2 ht
  change execWaitcmpPoll op i s = _
  simp only [execWaitcmpPoll, hpart, hk, hf, hsent, hdue, hr, Bool.not_true, bne_self_eq_false, Bool.or_self, decide_false,
    Bool.false_eq_true, if_false]
  split <;> rfl
end

/-- Settles O46: what serves a part is told by its space (`serve_far`, `serve_spad`, `serve_stash`, `serve_local`); a monitor and a
poll compare in their own step. -/
theorem homeReads : Obligations.HomeReads := by
  unfold Obligations.HomeReads
  intro s op i o p c ha done
  refine ⟨fun hread => ?served, fun dst cond b64 over_ vals bs hk hs hr => ?monitor, fun dst cond b64 vals bs hk hf ht hr => ?poll⟩
  case served =>
    have hexec {t : State} (h : s.serve o i p c = t) : exec (.loadServe op i c) s = .next t := by rw [exec_loadServe c ha hread, h]
    refine ⟨fun hs hfree => hexec ?host, fun k hs hfree => hexec ?peer, fun code a d hf hbad => hexec ?farFails,
      fun u hs hu => hexec (serve_spad c ha hs hu), fun u st v hs hu hst hbind hline hclean => hexec ?line,
      fun u st bs bad hs hu hst hbind => ?touch, fun bs hs hf hr => hexec (serve_local c ha hs hf hr),
      fun code a d hs hr => hexec (serve_local_bad c ha hs hr), fun bs cs hs hf hr => ?fills⟩
    case host => rw [serve_far c ha (by rw [Part.far, hs]), hs, readSpan_host 0 hfree]; rfl
    case peer => rw [serve_far c ha (by rw [Part.far, hs]), hs, readSpan_peer 0 hfree]; rfl
    case farFails => rw [serve_far c ha hf, hbad]
    case line =>
      have hid : s.unit? u.id = some u := by rw [unit?_id hu, hu]
      rw [serve_stash c ha hs hu hst hbind (fillLine_filled hline), hclean, hid]
      rfl
    case touch =>
      intro ln v st' h0 hb hl
      exact loadServe_firstTouch ha hread hs hu hst hbind h0 hb hl
    case fills =>
      intro s1 first last base len e v own hb
      obtain ⟨t, hexec, hpart, hmem, hdata, hemax, hcore⟩ := loadServe_fills ha hread hs hf hr hb
      refine ⟨t, hexec, hpart, hmem, hdata, ?_, ?_⟩
      · rw [hemax, State.leaseEnd, leaseTicks_eq]
        rfl
      · rw [hcore, Core.takeBlock, State.filledBlock, State.leaseEnd, leaseTicks_eq]
        rfl
  case monitor =>
    intro s1 m g holds
    have hexec := exec_monitorArm ha hk over_ hs hr
    have hholds : holds = wcondHolds cond (bytesNat bs) (waitVal vals p.lane) := by cases cond <;> rfl
    exact ⟨fun h => by rw [hexec, if_pos (hholds ▸ h)]; rfl, fun h => by rw [hexec, if_neg (by simp [hholds ▸ h])]⟩
  case poll =>
    have hexec := exec_waitcmpPoll ha hk hf ht hr
    exact ⟨fun h => by rw [hexec, if_pos h], fun h => by rw [hexec, if_neg (by simp [h])]; rfl⟩

end Sys2Proof.Machine
end

section
/-! Proof of how loads, acquires, atomics, pointers and matched waits return, and of how imprecise faults arrive (R104 to R107, R164,
R167, R413, R422, R446, R500). -/

namespace Sys2Proof.Machine

/-! ### Changes of one warp, one after another -/

theorem modAt_id {α : Type} (xs : List α) (n : Nat) : modAt xs n (fun x => x) = xs :=
  List.ext_getElem? fun k => by rw [modAt_getElem?]; split <;> simp
theorem modAt_modAt {α : Type} (xs : List α) (n : Nat) (f g : α → α) : modAt (modAt xs n f) n g = modAt xs n fun x => g (f x) := by
  refine List.ext_getElem? fun k => ?_
  simp only [modAt_getElem?]
  split <;> simp [Function.comp_def]
theorem modUnit_self (s : State) (id : Nat) : s.modUnit id (fun u => u) = s := by
  simp [State.modUnit]
theorem modUnit_modUnit (s : State) (id : Nat) (f g : Placed → Placed) (hf : ∀ u, (f u).id = u.id) :
    (s.modUnit id f).modUnit id g = s.modUnit id fun u => g (f u) := by
  simp only [State.modUnit, List.map_map]
  refine congrArg (fun us => { s with units := us }) (List.map_congr_left fun u _ => ?_)
  by_cases hu : u.id = id <;> simp [hu, hf]
theorem modWarp_self (s : State) (w : WarpId) : s.modWarp w (fun x => x) = s := by
  simp only [State.modWarp, State.modWg, modAt_id]
  exact modUnit_self s _
theorem modWarp_modWarp (s : State) (w : WarpId) (f g : Warp → Warp) :
    (s.modWarp w f).modWarp w g = s.modWarp w fun x => g (f x) := by
  simp only [State.modWarp, State.modWg]
  rw [modUnit_modUnit]
  · simp only [modAt_modAt]
  · exact fun _ => rfl
theorem foldl_modWarp_same {α : Type} (s : State) (w : WarpId) (f : α → Warp → Warp) (xs : List α) :
    xs.foldl (fun t x => t.modWarp w (f x)) s = s.modWarp w fun y => xs.foldl (fun y x => f x y) y := by
  induction xs generalizing s with
  | nil => exact (modWarp_self s w).symm
  | cons x xs ih => rw [List.foldl_cons, ih, modWarp_modWarp]; rfl
/-- Changes of threads one after another, of which each leaves of a thread what it has already made of it. -/
theorem foldl_modAt_idem {α : Type} {f : Nat → α → α} (hf : ∀ l x, f l (f l x) = f l x) (ls : List Nat) (xs : List α) (k : Nat) :
    (ls.foldl (fun ys l => modAt ys l (f l)) xs)[k]? = if k ∈ ls then (xs[k]?).map (f k) else xs[k]? := by
  induction ls generalizing xs with
  | nil => simp
  | cons l ls ih =>
    rw [List.foldl_cons, ih, modAt_getElem?]
    by_cases hk : k = l
    · subst hk
      simp [Function.comp_def, hf]
    · simp [hk]

/-! ### An acquire lets go of its lanes (R422) -/

/-- What an acquire that lets go of a lane leaves of its thread. -/
def MemOp.letGo (o : MemOp) (time l : Nat) (t : Thread) : Thread := { t with
  acq := t.acq.filter (· != o.id), acqTime := if o.timed l then max t.acqTime time else t.acqTime }
/-- What it leaves of its warp, of all its lanes or of those that wait for the value alone. -/
def Warp.letGo (w : Warp) (o : MemOp) (all : Bool) (time : Nat) : Warp :=
  if o.acq then { w with threads := (o.lanes.filter fun l => !o.timed l || all).foldl (fun ts l => modAt ts l (o.letGo time l)) w.threads }
  else w
theorem letGo_letGo (o : MemOp) (time l : Nat) (t : Thread) : o.letGo time l (o.letGo time l t) = o.letGo time l t := by
  simp only [MemOp.letGo, List.filter_filter, Bool.and_self, Thread.mk.injEq, true_and, and_true]
  split <;> simp
/-- Threads of one warp changed one after another. -/
theorem foldl_modThread (s : State) (w : WarpId) (f : Nat → Thread → Thread) (ls : List Nat) :
    ls.foldl (fun t l => t.modThread w l (f l)) s =
      s.modWarp w fun x => { x with threads := ls.foldl (fun ts l => modAt ts l (f l)) x.threads } := by
  refine (foldl_modWarp_same s w (fun l (x : Warp) => { x with threads := modAt x.threads l (f l) }) ls).trans
    (congrArg (s.modWarp w) (funext fun x => ?_))
  induction ls generalizing x with
  | nil => rfl
  | cons l ls ih => exact ih _
theorem acquired_eq (s : State) (o : MemOp) (all : Bool) (time : Nat) :
    s.acquired o all time = s.modWarp o.w fun w => w.letGo o all time := by
  unfold State.acquired Warp.letGo
  cases o.acq with
  | false => exact (modWarp_self s o.w).symm
  | true =>
    refine Eq.trans ?_ (foldl_modThread s o.w (o.letGo time) _)
    rw [List.foldl_filter]
    refine List.foldl_ext _ _ _ fun t l _ => ?_
    change (if o.timed l && !all then t else t.modThread o.w l (o.letGo time l)) = _
    cases o.timed l <;> cases all <;> rfl
/-- The thread of a lane that an acquire lets go of. -/
theorem letGo_thread (w : Warp) (o : MemOp) (all : Bool) (time l : Nat) : (w.letGo o all time).threads[l]? =
    if o.acq = true ∧ l ∈ o.lanes ∧ (o.timed l = false ∨ all = true) then (w.threads[l]?).map (o.letGo time l) else w.threads[l]? := by
  unfold Warp.letGo
  cases o.acq with
  | false => simp
  | true => simp [foldl_modAt_idem (letGo_letGo o time)]
/-- A warp sees the time of a value that has arrived, and the operation's tag takes it (R299, R406, R424). -/
def Warp.takesTime (w : Warp) (o : MemOp) (now time : Nat) : Warp :=
  { w.see now o.id time with tags := match o.tag with | some t => landTag w.tags t time | none => w.tags }
/-- The value of an operation has arrived, all of it at the time given. -/
def Warp.landed (w : Warp) (o : MemOp) (now time : Nat) : Warp := ((w.letGo o false 0).takesTime o now time).letGo o true time
theorem landed_thread (w : Warp) (o : MemOp) (now time l : Nat) : (w.landed o now time).threads[l]? =
    if o.acq = true ∧ l ∈ o.lanes then (w.threads[l]?).map (o.letGo time l) else w.threads[l]? := by
  have htwice (ht : o.timed l = false) (t : Thread) : o.letGo time l (o.letGo 0 l t) = o.letGo time l t := by
    simp [MemOp.letGo, ht, List.filter_filter]
  have htakes (w : Warp) : (w.takesTime o now time).threads = w.threads := rfl
  rw [Warp.landed, letGo_thread, htakes, letGo_thread]
  by_cases hgo : o.acq = true ∧ l ∈ o.lanes
  · cases ht : o.timed l <;> simp [hgo, htwice, ht, Function.comp_def]
  · simp [← and_assoc, hgo]
theorem letGo_eq (w : Warp) (o : MemOp) (all : Bool) (time : Nat) :
    w.letGo o all time = { w with threads := (w.letGo o all time).threads } := by
  unfold Warp.letGo
  split <;> rfl
theorem landed_eq (w : Warp) (o : MemOp) (now time : Nat) : w.landed o now time = { w with
    threads := (w.landed o now time).threads
    seen := natSet (w.seen.filter fun x => now < x.2 + 4) o.id (if now < time + 4 then time else 0)
    tags := match o.tag with | some t => landTag w.tags t time | none => w.tags } := by
  unfold Warp.landed
  rw [letGo_eq, letGo_eq w]
  rfl
theorem land_eq (s : State) (o : MemOp) :
    s.land o = (s.modWarp o.w fun w =>
      let time := max (maxOf (o.parts.map (·.time))) o.tclear
      (w.takesTime o (s.now o.core) time).letGo o true time).dropOp o.id := by
  unfold State.land
  simp only [acquired_eq, modWarp_modWarp]
  rfl
/-- When an operation's value arrives (R31, R33, R425). -/
def MemOp.arrival (o : MemOp) (now : Nat) : Nat := max (maxOf (o.parts.map fun p => if p.far then now else p.time)) o.tclear
/-- The operation returned: what its core reads of the host and of peers takes the time of arrival. -/
def MemOp.back (o : MemOp) (now : Nat) : MemOp :=
  { o with returned := true, parts := o.parts.map fun p => if p.far then { p with time := now } else p }
theorem timed_back (o : MemOp) (now l : Nat) : (o.back now).timed l = o.timed l := by
  have hpart (p : Part) : ((if p.far then { p with time := now } else p).lane == l &&
      (if p.far then { p with time := now } else p).inSpad) = (p.lane == l && p.inSpad) := by split <;> rfl
  simp only [MemOp.timed, MemOp.back, List.any_map, Function.comp_def, hpart]
theorem letGo_back (w : Warp) (o : MemOp) (now : Nat) (all : Bool) (time : Nat) :
    w.letGo (o.back now) all time = w.letGo o all time := by
  have hgo : (o.back now).letGo time = o.letGo time := by
    funext l t
    simp only [MemOp.letGo, timed_back]
    rfl
  simp only [Warp.letGo, timed_back, hgo]
  rfl
theorem dropOp_modOp (s : State) (id : Nat) (f : MemOp → MemOp) (hf : ∀ o, (f o).id = id) : (s.modOp id f).dropOp id = s.dropOp id := by
  have hops : (s.ops.map fun o => if o.id == id then f o else o).filter (·.id != id) = s.ops.filter (·.id != id) := by
    induction s.ops with
    | nil => rfl
    | cons o os ih =>
      by_cases ho : o.id = id <;> simp [ho, hf] at ih ⊢ <;> exact ih
  simp only [State.dropOp, State.modOp, hops]
theorem arrived_eq (s : State) (o : MemOp) : s.arrived o =
    (let t := (s.modOp o.id fun _ => o.back (s.now o.core)).modWarp o.w fun w => w.letGo o false 0
     if t.forwarding o then t else t.land (o.back (s.now o.core))) := by
  have hw : (fun w : Warp => w.letGo (o.back (s.now o.core)) false 0) = fun w => w.letGo o false 0 := by
    funext w
    exact letGo_back ..
  change (let t := (s.modOp o.id fun _ => o.back (s.now o.core)).acquired (o.back (s.now o.core)) false 0
    if t.forwarding o then t else t.land (o.back (s.now o.core))) = _
  rw [acquired_eq, hw]
  rfl
theorem forwarding_modOp (s : State) (o : MemOp) (id : Nat) (f : MemOp → MemOp) (hf : ∀ o, (f o).id = id) :
    (s.modOp id f).forwarding o = s.forwarding o := by
  have hid (k : Nat) : ((s.modOp id f).ops.any (·.id == k)) = s.ops.any (·.id == k) := by
    simp only [State.modOp, List.any_map, Function.comp_def]
    refine congrArg (List.any s.ops) (funext fun x => ?_)
    by_cases hx : x.id = id <;> simp [hx, hf]
  simp only [State.forwarding, hid]
theorem forwarding_back (s : State) (o : MemOp) (f : Warp → Warp) :
    ((s.modOp o.id fun _ => o.back (s.now o.core)).modWarp o.w f).forwarding o = s.forwarding o :=
  forwarding_modOp s o o.id (fun _ => o.back (s.now o.core)) fun _ => rfl
/-- An operation that waits for no ack any more lands, and is gone (R406). -/
theorem arrived_lands {s : State} {o : MemOp} (h : s.forwarding o = false) : s.arrived o =
    (s.modWarp o.w fun w => w.landed o (s.now o.core) (o.arrival (s.now o.core))).dropOp o.id := by
  have htime : max (maxOf ((o.back (s.now o.core)).parts.map (·.time))) (o.back (s.now o.core)).tclear = o.arrival (s.now o.core) := by
    have hparts : (o.back (s.now o.core)).parts.map (·.time) = o.parts.map fun p => if p.far then s.now o.core else p.time := by
      simp only [MemOp.back, List.map_map]
      refine List.map_congr_left fun p _ => ?_
      simp only [Function.comp_apply]
      split <;> rfl
    rw [hparts]
    rfl
  rw [arrived_eq]
  simp only [forwarding_back, h, Bool.false_eq_true, if_false]
  rw [land_eq]
  simp only [htime, letGo_back]
  change ((((s.modOp o.id _).modWarp o.w _).modWarp o.w _).dropOp o.id) = _
  rw [modWarp_modWarp]
  exact congrArg (State.modWarp · o.w _) (dropOp_modOp s o.id (fun _ => o.back (s.now o.core)) fun _ => rfl)
/-- One that waits for an ack has let go of the lanes that wait for the value alone. -/
theorem arrived_waits {s : State} {o : MemOp} (h : s.forwarding o = true) : s.arrived o =
    (s.modOp o.id fun _ => o.back (s.now o.core)).modWarp o.w fun w => w.letGo o false 0 := by
  rw [arrived_eq]
  simp only [forwarding_back, h, if_true]

/-! ### Loads, LDS, ATOM and CAS (R104, R105, R107, R413) -/

section
variable {o : MemOp} (hdone : ∀ p ∈ o.parts, p.st = .done)
include hdone
theorem settled_of_done : o.settled = true :=
  List.all_eq_true.2 fun p hp => by rw [Part.settled, hdone p hp]
theorem ready_of_done {clk : Nat} (hdue : o.due ≤ clk) (hret : o.returned = false) : o.ready clk = true := by
  simp [MemOp.ready, settled_of_done hdone, hdue, hret]
theorem badLanes_of_done : o.badLanes = [] := by
  have hok (p : Part) (hp : p ∈ o.parts) : p.failing = false := by rw [Part.failing, hdone p hp]
  have hany : o.parts.any Part.failing = false := List.any_eq_false.2 fun p hp => by simp [hok p hp]
  have hlane (l : Nat) : (o.parts.any fun p => p.lane == l && p.failing) = false :=
    List.any_eq_false.2 fun p hp => by simp [hok p hp]
  simp [MemOp.badLanes, hany, hlane]
end
/-- What the values of a load, LDS, ATOM or CAS leave of its warp: every lane's registers written, their scoreboard entries clear, `ld`
one less, and an atomic's GWCT joined. -/
def Warp.loaded (w : Warp) (o : MemOp) (c : LaunchCfg) : Warp :=
  let w1 := ((w.applyWrites (o.lanes.map fun l => (l, o.laneWrites c l))).clearSb o.kind.resultRegs).addCounter .ld false
  if o.kind.isAtomic then { w1 with gwct := max w1.gwct (maxOf (o.parts.map fun p => if p.space == .local then p.time else 0)) } else w1
theorem returnLanes_eq {s : State} {o : MemOp} {u : Placed} (hdone : ∀ p ∈ o.parts, p.st = .done) (hu : s.unit? o.w.unit = some u)
    (hfwd : s.forwarding o = false) : s.returnLanes o =
    (s.modWarp o.w fun w => (w.loaded o u.cfg).landed o (s.now o.core) (o.arrival (s.now o.core))).dropOp o.id := by
  have hws : (o.lanes.filterMap fun l => if ([] : List Nat).contains l then none else
      ((s.unit? o.w.unit).map (·.cfg)).map fun c => (l, o.laneWrites c l)) = o.lanes.map fun l => (l, o.laneWrites u.cfg l) := by
    simp [hu]
  have hjoin : s.returnLanes o = (s.modWarp o.w fun w => w.loaded o u.cfg).arrived o := by
    unfold State.returnLanes
    rw [badLanes_of_done hdone]
    simp only [hws]
    refine congrArg (State.arrived · o) ?_
    unfold Warp.loaded
    cases o.kind.isAtomic with
    | false => rfl
    | true => exact modWarp_modWarp s o.w _ _
  rw [hjoin, arrived_lands (by exact hfwd), modWarp_modWarp]
  rfl
theorem loaded_eq (w : Warp) (o : MemOp) (c : LaunchCfg) : w.loaded o c = { w.applyWrites (o.lanes.map fun l => (l, o.laneWrites c l)) with
    sb := w.sb.filter fun e => !o.kind.resultRegs.contains e.reg
    ld := w.ld - 1
    gwct := max w.gwct (if o.kind.isAtomic then maxOf (o.parts.map fun p => if p.space == .local then p.time else 0) else 0) } := by
  unfold Warp.loaded
  cases o.kind.isAtomic with
  | true => rfl
  | false =>
    simp only [Bool.false_eq_true, if_false, Nat.max_zero]
    rfl
theorem timed_eq (o : MemOp) (l : Nat) : o.timed l = (o.scope == .dev || o.scope == .sys ||
    (o.scope == .clus && o.parts.all fun p => p.lane != l || !p.inSpad)) := by
  have hnot : (!o.parts.any fun p => p.lane == l && p.inSpad) = o.parts.all fun p => p.lane != l || !p.inSpad := by
    rw [List.not_any_eq_all_not]
    refine congrArg (List.all o.parts) (funext fun p => ?_)
    rw [Bool.not_and]
    rfl
  rw [← hnot]
  unfold MemOp.timed
  cases o.scope <;> rfl
theorem exec_loadReturn {s : State} {o : MemOp} (ho : s.op? o.id = some o)
    (hk : match o.kind with | .load .. | .lds .. | .atom .. | .cas .. => True | _ => False) (hr : o.ready s.clk = true) :
    exec (.loadReturn o.id) s = .next (s.returnLanes o) := by
  change execLoadReturn o.id s = _
  simp only [execLoadReturn, ho, hr, Bool.not_true, Bool.false_eq_true, if_false]
  cases hkind : o.kind <;> simp [hkind] at hk ⊢

/-! ### Timed tags and imprecise faults (R107, R358, R365, R500) -/

theorem tagFree_does {s : State} {w : WarpId} {x : Warp} {n v : Nat} (hx : s.warp? w = some x) (ht : x.tags[n]? = some (.timed v))
    (hv : v ≤ s.now (s.coreOf w)) :
    exec (.tagFree w n) s = .next (s.modWarp w fun x => { x with tags := modAt x.tags n fun _ => .free }) := by
  change execTagFree w n s = _
  simp only [execTagFree, hx, Option.bind_some, ht, hv, if_true]
theorem impreciseFault_takes {s : State} {f : ImpFault} {u : Placed} (hf : s.home.faults.find? (·.id == f.id) = some f)
    (hu : s.unit? f.w.unit = some u) (hst : u.state = .running ∨ u.state = .stopping) (hopen : s.groupOpen f.group = false) :
    exec (.impreciseFault f.id) s = .next (
      let fs := sortKey (fun x => ((s.warp? x.w).map (·.slot)).getD 0) (s.faultsOf f)
      let s1 : State := { s with home := { s.home with faults := s.home.faults.filter fun x => !fs.any (·.id == x.id) } }
      s1.takeHits f.w.unit f.w.wg false f.pc (fs.map fun x => (x.code, ⟨x.w.warp, x.lanes, x.det0.toNat, x.det1.toNat, x.vals⟩))) := by
  have hstate : (u.state == .running || u.state == .stopping) = true := by simpa using hst
  have hunit (h : Home) : ({ s with home := h } : State).unit? f.w.unit = some u := hu
  change execImpreciseFault f.id s = _
  simp only [execImpreciseFault, hf, hopen, Bool.false_eq_true, if_false, hunit, hstate, if_true]


/-! ### A group of operations that return together -/

theorem bundleOf_parts {s : State} {unit wg : Nat} {lanes : List (Nat × List Nat)} {b : Bundle} (h : s.bundleOf unit wg lanes = some b) :
    b.parts = lanes.filterMap fun x => (s.warp? ⟨unit, wg, x.1⟩).map fun w => (x.1, w, x.2) := by
  unfold State.bundleOf at h
  cases hu : s.unit? unit with
  | none => simp [hu] at h
  | some u =>
    cases hg : u.wgs[wg]? with
    | none => simp [hu, hg] at h
    | some g =>
      simp only [hu, hg] at h
      split at h
      · obtain ⟨t, -, rfl⟩ := Option.map_eq_some_iff.1 h
        simp only [State.warp?, State.wg?, hu, hg, Option.bind_some]
      · cases h
/-- A warp of a list that names each warp once is found as its own turn left it. -/
theorem warp?_foldl_each {α : Type} {id : α → WarpId} {g : State → α → State}
    (hg : ∀ t x v, v ≠ id x → (g t x).warp? v = t.warp? v) {xs : List α} (hn : (xs.map id).Nodup) {x : α} (hx : x ∈ xs) (s : State) :
    ∃ t, t.warp? (id x) = s.warp? (id x) ∧ (xs.foldl g s).warp? (id x) = (g t x).warp? (id x) := by
  obtain ⟨as, bs, rfl⟩ := List.append_of_mem hx
  rw [List.map_append, List.map_cons, List.nodup_append] at hn
  obtain ⟨-, hbs, has⟩ := hn
  have hother (ys : List α) (hne : ∀ y ∈ ys, id x ≠ id y) (t : State) : (ys.foldl g t).warp? (id x) = t.warp? (id x) :=
    List.foldlRecOn (motive := fun r : State => r.warp? (id x) = t.warp? (id x)) ys g rfl
      fun r hr y hy => (hg r y _ (hne y hy)).trans hr
  refine ⟨as.foldl g s, hother as (fun y hy heq => ?_) s, ?_⟩
  · exact has _ (List.mem_map_of_mem hy) _ List.mem_cons_self heq.symm
  · rw [List.foldl_append, List.foldl_cons]
    exact hother bs (fun y hy heq => (List.nodup_cons.1 hbs).1 (heq ▸ List.mem_map_of_mem hy)) _

/-- A state that has kept its memory and its cores, and of whose operations some may have gone. -/
def State.shrinks (s t : State) : Prop :=
  t.home = s.home ∧ (∀ k, t.core k = s.core k) ∧ ∀ id ∈ t.ops.map (·.id), id ∈ s.ops.map (·.id)
theorem shrinks_foldl {α : Type} {g : State → α → State} (hg : ∀ (t : State) x, t.shrinks (g t x)) (xs : List α) (s : State) :
    s.shrinks (xs.foldl g s) :=
  List.foldlRecOn (motive := s.shrinks) xs g ⟨rfl, fun _ => rfl, fun _ h => h⟩ fun t ht x _ => by
    obtain ⟨h1, h2, h3⟩ := ht
    obtain ⟨k1, k2, k3⟩ := hg t x
    exact ⟨k1.trans h1, fun k => (k2 k).trans (h2 k), fun id h => h3 id (k3 id h)⟩
theorem forwarding_shrinks {s t : State} {o : MemOp} (h : s.shrinks t) (hf : s.forwarding o = false) : t.forwarding o = false := by
  obtain ⟨-, -, hids⟩ := h
  simp only [State.forwarding, List.any_eq_false, Bool.not_eq_true, List.mem_map, forall_exists_index, and_imp] at hf hids ⊢
  intro k hk x hx
  obtain ⟨y, hy, hyx⟩ := hids x.id x hx rfl
  rw [← hyx]
  exact hf k hk y hy
theorem warp?_arrived_other {s : State} {o : MemOp} {v : WarpId} (h : v ≠ o.w) : (s.arrived o).warp? v = s.warp? v := by
  cases hf : s.forwarding o with
  | false =>
    rw [arrived_lands hf]
    exact warp?_modWarp_other s o.w v _ h
  | true =>
    rw [arrived_waits hf]
    exact warp?_modWarp_other (s.modOp o.id _) o.w v _ h
theorem arrived_shrinks (s : State) (o : MemOp) : s.shrinks (s.arrived o) := by
  cases hf : s.forwarding o with
  | false =>
    rw [arrived_lands hf]
    exact ⟨rfl, fun _ => rfl, fun id h => (List.filter_sublist.map _).subset h⟩
  | true =>
    rw [arrived_waits hf]
    refine ⟨rfl, fun _ => rfl, fun id h => ?_⟩
    obtain ⟨x, hx, rfl⟩ := List.mem_map.1 h
    obtain ⟨y, hy, rfl⟩ := List.mem_map.1 hx
    refine List.mem_map.2 ⟨y, hy, ?_⟩
    split
    · next h => exact beq_iff_eq.1 h
    · rfl
/-- What of a warp stays as values arrive: its checkpoint, and its threads but for what they acquire, of which the times may rise. -/
def Warp.acquiring (w w' : Warp) : Prop :=
  w'.ckpt = w.ckpt ∧ ∀ (l : Nat) (th : Thread), w.threads[l]? = some th →
    ∃ acq time, th.acqTime ≤ time ∧ w'.threads[l]? = some { th with acq := acq, acqTime := time }
theorem le_letGo (o : MemOp) (time l : Nat) (th : Thread) : th.acqTime ≤ (o.letGo time l th).acqTime := by
  simp only [MemOp.letGo]
  split
  · exact Nat.le_max_left ..
  · exact Nat.le_refl _
theorem acquiring_letGo (w : Warp) (o : MemOp) (all : Bool) (time : Nat) : w.acquiring (w.letGo o all time) := by
  refine ⟨by rw [letGo_eq], fun l th hl => ?_⟩
  rw [letGo_thread, hl]
  split
  · exact ⟨_, _, le_letGo o _ l th, rfl⟩
  · exact ⟨_, _, Nat.le_refl _, rfl⟩
theorem acquiring_landed (w : Warp) (o : MemOp) (now time : Nat) : w.acquiring (w.landed o now time) := by
  refine ⟨by rw [landed_eq], fun l th hl => ?_⟩
  rw [landed_thread, hl]
  split
  · exact ⟨_, _, le_letGo o _ l th, rfl⟩
  · exact ⟨_, _, Nat.le_refl _, rfl⟩
theorem arrived_warp {s : State} {o : MemOp} {w : Warp} (hw : s.warp? o.w = some w) :
    ∃ w', (s.arrived o).warp? o.w = some w' ∧ w.acquiring w' := by
  cases hf : s.forwarding o with
  | false =>
    rw [arrived_lands hf]
    exact ⟨_, (warp?_modWarp_self s o.w _).trans (by rw [hw]; rfl), acquiring_landed w o _ _⟩
  | true =>
    rw [arrived_waits hf]
    exact ⟨_, (warp?_modWarp_self (s.modOp o.id _) o.w _).trans (by rw [show (s.modOp o.id _).warp? o.w = _ from hw]; rfl),
      acquiring_letGo w o _ _⟩

/-- Each operation of a group changes its warp and arrives. -/
def State.returnAll (s : State) (group : List MemOp) (f : MemOp → Warp → Warp) : State :=
  group.foldl (fun t x => (t.modWarp x.w (f x)).arrived x) s
theorem shrinks_modWarp {s t : State} (w : WarpId) (f : Warp → Warp) (h : (s.modWarp w f).shrinks t) : s.shrinks t := by
  obtain ⟨hhome, hcore, hops⟩ := h
  exact ⟨hhome.trans (modWarp_home s w f), fun k => (hcore k).trans (core_modWarp s w k f), fun id hid => modWarp_ops s w f ▸ hops id hid⟩
theorem returnAll_shrinks (s : State) (group : List MemOp) (f : MemOp → Warp → Warp) : s.shrinks (s.returnAll group f) := by
  have hone (t : State) (x : MemOp) : t.shrinks ((t.modWarp x.w (f x)).arrived x) := by
    have h := arrived_shrinks (t.modWarp x.w (f x)) x
    exact shrinks_modWarp x.w (f x) h
  exact shrinks_foldl hone group s
theorem returnAll_drops {s : State} {group : List MemOp} (f : MemOp → Warp → Warp) {x : MemOp} (hx : x ∈ group)
    (hf : s.forwarding x = false) : x.id ∉ (s.returnAll group f).ops.map (·.id) := by
  obtain ⟨as, bs, rfl⟩ := List.append_of_mem hx
  have hbefore : s.shrinks (s.returnAll as f) := returnAll_shrinks s as f
  have hlands := arrived_lands (s := (s.returnAll as f).modWarp x.w (f x)) (forwarding_shrinks hbefore hf)
  have hafter := returnAll_shrinks (((s.returnAll as f).modWarp x.w (f x)).arrived x) bs f
  rw [State.returnAll, List.foldl_append, List.foldl_cons]
  refine fun hmem => absurd (hafter.2.2 _ hmem) ?_
  rw [hlands]
  simp [State.dropOp]
theorem returnAll_warp {s : State} {group : List MemOp} (f : MemOp → Warp → Warp) (hn : (group.map (·.w)).Nodup) {x : MemOp}
    (hx : x ∈ group) {w : Warp} (hw : s.warp? x.w = some w) :
    ∃ w', (s.returnAll group f).warp? x.w = some w' ∧ (f x w).acquiring w' := by
  obtain ⟨t, ht, hfold⟩ := warp?_foldl_each (id := MemOp.w) (g := fun t x => (t.modWarp x.w (f x)).arrived x)
    (fun t x v hv => (warp?_arrived_other hv).trans (warp?_modWarp_other t x.w v _ hv)) hn hx s
  obtain ⟨w', hw', hacq⟩ := arrived_warp (s := t.modWarp x.w (f x)) (o := x) (w := f x w)
    (by rw [warp?_modWarp_self, ht, hw, Option.map_some])
  exact ⟨w', hfold.trans hw', hacq⟩

section
variable {s : State} {o : MemOp} {b : Bundle} {group : List MemOp}
  (hb : s.bundleOf o.w.unit o.w.wg (group.map fun x => (x.w.warp, x.lanes)) = some b)
  (hn : (group.map (·.w)).Nodup) (hsame : ∀ x ∈ group, x.w.unit = o.w.unit ∧ x.w.wg = o.w.wg)
include hb hsame
theorem wid_of_group {x : MemOp} (hx : x ∈ group) : b.wid x.w.warp = x.w := by
  obtain ⟨hu, hg, -⟩ := bundleOf_u hb
  obtain ⟨hu', hg'⟩ := hsame x hx
  rw [Bundle.wid, hu, hg, ← hu', ← hg']
theorem part_of_group {x : MemOp} (hx : x ∈ group) {w : Warp} (hw : s.warp? x.w = some w) : (x.w.warp, w, x.lanes) ∈ b.parts := by
  obtain ⟨hu, hg⟩ := hsame x hx
  rw [bundleOf_parts hb]
  refine List.mem_filterMap.2 ⟨(x.w.warp, x.lanes), List.mem_map_of_mem hx, ?_⟩
  rw [← hu, ← hg, hw]
  rfl
include hn in
theorem proper_of_group (hlanes : ∀ x ∈ group, x.lanes.Nodup) : b.proper = true := by
  rw [Bundle.proper, bundleOf_parts hb, Bool.and_eq_true, decide_eq_true_eq]
  constructor
  · rw [List.map_filterMap, List.filterMap_map, List.Nodup, List.pairwise_filterMap]
    refine (List.pairwise_map.1 hn).imp_of_mem fun {x y} hx hy hne i hi j hj hij => hne ?_
    have hwarp {z : MemOp} {k : Nat} (hk : ((s.warp? ⟨o.w.unit, o.w.wg, z.w.warp⟩).map fun w => (z.w.warp, w, z.lanes)).map
        Prod.fst = some k) : z.w.warp = k := by
      simp only [Option.map_map, Option.map_eq_some_iff] at hk
      obtain ⟨w, -, hk⟩ := hk
      exact hk
    rw [← wid_of_group hb hsame hx, ← wid_of_group hb hsame hy, hwarp hi, hwarp hj, hij]
  · rw [List.all_eq_true]
    intro p hp
    obtain ⟨q, hq, hp⟩ := List.mem_filterMap.1 hp
    obtain ⟨x, hx, rfl⟩ := List.mem_map.1 hq
    obtain ⟨w, -, rfl⟩ := Option.map_eq_some_iff.1 hp
    exact decide_eq_true (hlanes x hx)
end

/-! ### What retires with them -/

theorem applyWrites_thread {ls : List Nat} (hn : ls.Nodup) (w : Warp) (ws : Nat → List RegWrite) (l : Nat) :
    (w.applyWrites (ls.map fun l => (l, ws l))).threads[l]? =
      if l ∈ ls then (w.threads[l]?).map fun t => (ws l).foldl RegWrite.apply t else w.threads[l]? := by
  simp only [Warp.applyWrites, List.foldl_map]
  exact foldl_modAt_getElem? (f := fun l t => (ws l).foldl RegWrite.apply t) hn w.threads l
/-- A thread of an issue that has retired. -/
theorem past_thread {b : Bundle} (hproper : b.proper = true) {ends : Bool} {f : Nat → Nat → Thread → Thread}
    {p : Nat × Warp × List Nat} (hp : p ∈ b.parts) {r : State} {x : Warp} (hx : r.warp? (b.wid p.1) = some x) {l : Nat} (hl : l ∈ p.2.2)
    {th : Thread} (hth : x.threads[l]? = some th) :
    (r.past b ends f).thread? (b.wid p.1) l = some (f p.1 l (retireThread b.pc ends th)) := by
  rw [State.thread?, warp?_past hproper hp hx, Option.bind_some, retireWarp_thread (proper_lanes hproper hp), if_pos hl, hth]
  rfl
theorem home_past (r : State) (b : Bundle) (ends : Bool) (f : Nat → Nat → Thread → Thread) : (r.past b ends f).home = r.home := by
  rw [State.past, retire_eq, home_stay, home_countTurn]
  exact foldl_keeps State.home (fun t (p : Nat × Warp × List Nat) => t.modWarp (b.wid p.1) (retireWarp b.pc ends (f p.1) p.2.2)) (fun _ _ => rfl) _ r
/-- The checkpoint of a warp whose WAITCMP retires as part of the operation `group` (R110, R389, R447). -/
def Warp.renewed (w : Warp) (u : Placed) (group : Nat) (x : Warp) : Warp :=
  match w.ckpt.filter (·.before == group) with
  | some c => { x with ckpt := some { c with retired := w.retired, sigma := u.turn, offset := u.turnCount } }
  | none => x
/-- What a retiring WAITCMP does for one warp: its checkpoint is renewed, in the warp and in the slot. -/
def State.renewOne (t : State) (b : Bundle) (group : Nat) (p : Nat × Warp × List Nat) : State :=
  match p.2.1.ckpt.filter (·.before == group) with
  | some c =>
    let c' : WarpCkpt := { c with retired := p.2.1.retired, sigma := b.u.turn, offset := b.u.turnCount }
    (t.modWarp (b.wid p.1) fun x => { x with ckpt := some c' }).slotWrite b.u
      (shiftImage (warpSlot b.wg p.1) (warpCkptImage true { c' with tags := [] } false))
  | none => t
theorem renewTurn_det (s : State) (b : Bundle) (group : Nat) (hd : b.u.cfg.det ≠ 0) :
    s.renewTurn b group = b.parts.foldl (fun t p => t.renewOne b group p) s := by
  rw [State.renewTurn, if_neg hd]
  rfl
theorem renewTurn_det0 (s : State) {b : Bundle} (group : Nat) (hd : b.u.cfg.det = 0) : s.renewTurn b group = s := by
  rw [State.renewTurn, if_pos hd]
theorem warp?_renewOne_self (t : State) (b : Bundle) (group : Nat) (p : Nat × Warp × List Nat) :
    (t.renewOne b group p).warp? (b.wid p.1) = (t.warp? (b.wid p.1)).map (p.2.1.renewed b.u group) := by
  unfold State.renewOne Warp.renewed
  cases p.2.1.ckpt.filter (·.before == group) with
  | none => exact Option.map_id'.symm
  | some c => exact warp?_modWarp_self t _ _
theorem warp?_renewOne_other (t : State) (b : Bundle) (group : Nat) (p : Nat × Warp × List Nat) (v : WarpId) (hv : v ≠ b.wid p.1) :
    (t.renewOne b group p).warp? v = t.warp? v := by
  unfold State.renewOne
  cases p.2.1.ckpt.filter (·.before == group) with
  | none => rfl
  | some c => exact warp?_modWarp_other t _ v _ hv
theorem ops_renewTurn (s : State) (b : Bundle) (group : Nat) : (s.renewTurn b group).ops = s.ops := by
  by_cases hd : b.u.cfg.det = 0
  · rw [renewTurn_det0 s group hd]
  · rw [renewTurn_det s b group hd]
    refine foldl_keeps State.ops (fun t p => t.renewOne b group p) (fun t p => ?_) _ s
    unfold State.renewOne
    split <;> rfl
theorem warp?_renewTurn (s : State) {b : Bundle} (group : Nat) (hproper : b.proper = true) {p : Nat × Warp × List Nat}
    (hp : p ∈ b.parts) : (s.renewTurn b group).warp? (b.wid p.1) =
      (s.warp? (b.wid p.1)).map fun x => if b.u.cfg.det = 0 then x else p.2.1.renewed b.u group x := by
  by_cases hd : b.u.cfg.det = 0
  · simp [renewTurn_det0 s group hd, hd]
  · obtain ⟨t, ht, hfold⟩ := warp?_foldl_parts (b := b) (g := fun t p => t.renewOne b group p)
      (fun t p v hv => warp?_renewOne_other t b group p v hv) (proper_warps hproper) hp s
    rw [renewTurn_det s b group hd, hfold, warp?_renewOne_self, ht]
    simp only [hd, if_false]
theorem threads_renewed (w x : Warp) (u : Placed) (group : Nat) : (w.renewed u group x).threads = x.threads := by
  unfold Warp.renewed
  split <;> rfl

/-! ### ALDP (R167) -/

section
variable {s : State} {o : MemOp} {b : Bundle} {group : List MemOp} (hgroup : s.ops.filter (·.group == o.group) = group)
  (ho : s.op? o.id = some o)
include hgroup ho
theorem mem_own_group : o ∈ group := by
  rw [← hgroup]
  exact List.mem_filter.2 ⟨List.mem_of_find?_eq_some ho, beq_self_eq_true _⟩
theorem group_ready (hr : ∀ x ∈ group, x.ready s.clk = true ∧ x.badLanes = []) : o.ready s.clk = true ∧
    group.all (·.ready s.clk) = true ∧ (group.any fun x => x.badLanes != []) = false :=
  ⟨(hr o (mem_own_group hgroup ho)).1, List.all_eq_true.2 fun x hx => (hr x hx).1, List.any_eq_false.2 fun x hx => by simp [(hr x hx).2]⟩
theorem exec_loadReturn_aldp {n : Nat} {b128 : Bool} (hk : o.kind = .aldp n b128)
    (hr : ∀ x ∈ group, x.ready s.clk = true ∧ x.badLanes = []) : exec (.loadReturn o.id) s = .next (s.returnPtrs o n b128) := by
  obtain ⟨hself, hall, hany⟩ := group_ready hgroup ho hr
  change execLoadReturn o.id s = _
  simp only [execLoadReturn, ho, hself, hk, hgroup, hall, hany, Bool.not_true, Bool.false_eq_true, if_false]
theorem exec_loadReturn_waitcmp {dst : Nat} {c : WCond} {b64 : Bool} {vals : List (Nat × Nat)} (hk : o.kind = .waitcmp dst c b64 vals)
    (hr : ∀ x ∈ group, x.ready s.clk = true ∧ x.badLanes = []) (hm : s.mayRetire o.w = true) :
    exec (.loadReturn o.id) s = .next (s.returnWait o dst b64) := by
  obtain ⟨hself, hall, hany⟩ := group_ready hgroup ho hr
  change execLoadReturn o.id s = _
  simp only [execLoadReturn, ho, hself, hk, hgroup, hall, hany, hm, Bool.not_true, Bool.or_self, Bool.false_eq_true, if_false]
end

/-- What the pointer of an ALDP leaves of its warp (R167). -/
def Warp.pointed (u : Placed) (n : Nat) (b128 : Bool) (x : MemOp) (w : Warp) : Warp :=
  ((w.applyWrites (x.ptrWrites u n b128 x.lanes)).clearSb [.a n]).addCounter .ld false
/-- The lanes of an issue whose pointers no window holds, one hit for each of its warps (R167). -/
def ptrHits (u : Placed) (b128 : Bool) (group : List MemOp) : List Hit :=
  group.filterMap fun x => match x.lanes.filter fun l => (windowAt u.windows (x.pointer b128 l)).isNone with
    | [] => none
    | l :: ls => some ⟨x.w.warp, l :: ls, x.pointer b128 l, 0, (l :: ls).map fun l => (l, x.pointer b128 l)⟩
section
variable {s : State} {o : MemOp} {b : Bundle} {group : List MemOp} (n : Nat) (b128 : Bool)
  (hgroup : s.ops.filter (·.group == o.group) = group)
  (hb : s.bundleOf o.w.unit o.w.wg (group.map fun x => (x.w.warp, x.lanes)) = some b)
include hgroup hb
theorem returnPtrs_eq : s.returnPtrs o n b128 =
    if ptrHits b.u b128 group != [] then s.takeFault o.w.unit o.w.wg 0x05 true o.pc (ptrHits b.u b128 group)
    else (s.returnAll group (Warp.pointed b.u n b128)).past b false fun _ _ t => { t with busy := none } := by
  have hlanes : s.groupLanes o = group.map fun x => (x.w.warp, x.lanes) := by rw [State.groupLanes, hgroup]
  unfold State.returnPtrs
  simp only [hlanes, hb, hgroup]
  rfl
end
theorem ptrHits_eq_nil {u : Placed} {b128 : Bool} {group : List MemOp} :
    ptrHits u b128 group = [] ↔ ∀ x ∈ group, ∀ l ∈ x.lanes, (windowAt u.windows (x.pointer b128 l)).isSome := by
  simp only [ptrHits, List.filterMap_eq_nil_iff]
  refine forall₂_congr fun x _ => ?_
  have hnone : (x.lanes.filter fun l => (windowAt u.windows (x.pointer b128 l)).isNone) = [] ↔
      ∀ l ∈ x.lanes, (windowAt u.windows (x.pointer b128 l)).isSome := by
    simp [List.filter_eq_nil_iff, Option.isSome_iff_ne_none]
  rw [← hnone]
  split <;> simp [*]
theorem ar_modAt {t : Thread} {n : Nat} (h : n < t.a.length) (r : AReg) : { t with a := modAt t.a n fun _ => r }.ar n = r := by
  rw [Thread.ar, modAt_getElem?, if_pos rfl, List.getElem?_eq_getElem h]
  rfl
theorem ptrWrites_thread {u : Placed} {n : Nat} {b128 : Bool} {x : MemOp} (hl : x.lanes.Nodup) {w : Warp} {l m : Nat} (hm : l ∈ x.lanes)
    (hwin : windowAt u.windows (x.pointer b128 l) = some m) {th : Thread} (hth : w.threads[l]? = some th) :
    (w.pointed u n b128 x).threads[l]? = some { th with a := modAt th.a n fun _ => { deriveWindow u.windows m with
      ptr := BitVec.ofNat 72 (x.pointer b128 l)
      mask := x.mask ||| BitVec.ofNat 8 ((((x.laneParts l 0).head?).map (·.carried)).getD 0) } } := by
  refine (applyWrites_thread hl w _ l).trans ?_
  rw [if_pos hm, hth, hwin]
  rfl

/-! ### WAITCMP (R427, R446) -/

/-- The words that a matched monitor writes from register `dst` on. -/
def writeWords (dst n : Nat) (r : Nat → GReg) (t : Thread) : Thread :=
  { t with g := (List.range n).foldl (fun g i => modAt g (dst + i) fun _ => r i) t.g }
theorem gr_writeWords {dst n : Nat} {r : Nat → GReg} {t : Thread} (h : dst + n ≤ t.g.length) {k : Nat} (hk : k < n) :
    (writeWords dst n r t).gr (dst + k) = r k := by
  have hget : (writeWords dst n r t).g[dst + k]? = some (r k) := by
    have hfold := foldl_modAt_getElem? (f := fun p (_ : GReg) => r (p - dst)) (ls := (List.range n).map (dst + ·))
      (List.nodup_range.map (fun _ _ h => Nat.add_left_cancel h)) t.g (dst + k)
    have hlen : dst + k < t.g.length := by omega
    simp only [List.foldl_map, Nat.add_sub_cancel_left] at hfold
    rw [writeWords, hfold, if_pos (List.mem_map.2 ⟨k, List.mem_range.2 hk, rfl⟩), List.getElem?_eq_getElem hlen]
    rfl
  rw [Thread.gr, hget]
  rfl
theorem apply_groupWrites (c : LaunchCfg) (dst n : Nat) (mask : Mask) (val : Nat) (t : Thread) :
    (groupWrites c dst n mask val fun _ => none).foldl RegWrite.apply t =
      writeWords dst n (fun i => ⟨BitVec.ofNat 32 (val / 2 ^ (32 * i)), List.replicate c.d 0, mask⟩) t := by
  have hzero : ((List.range c.d).map fun _ => (0 : Word)) = List.replicate c.d 0 := by simp
  simp only [groupWrites, List.foldl_map, hzero, writeWords]
  generalize List.range n = is
  induction is generalizing t with
  | nil => rfl
  | cons i is ih => exact ih _
/-- What a matched monitor leaves of its warp. -/
def Warp.matchedBy (c : LaunchCfg) (dst n : Nat) (x : MemOp) (w : Warp) : Warp :=
  (w.applyWrites (x.lanes.map fun l => (l, groupWrites c dst n x.mask (assemble (x.laneParts l 0)) fun _ => none))).clearSb
    x.kind.resultRegs
theorem matchedBy_thread {c : LaunchCfg} {dst n : Nat} {x : MemOp} (hl : x.lanes.Nodup) {w : Warp} {l : Nat} (hm : l ∈ x.lanes)
    {th : Thread} (hth : w.threads[l]? = some th) : (w.matchedBy c dst n x).threads[l]? = some (writeWords dst n
      (fun i => ⟨BitVec.ofNat 32 (assemble (x.laneParts l 0) / 2 ^ (32 * i)), List.replicate c.d 0, x.mask⟩) th) := by
  refine (applyWrites_thread hl w _ l).trans ?_
  rw [if_pos hm, hth, Option.map_some, apply_groupWrites]
/-- The lanes of a matched operation acquire at the time given. -/
def Warp.acquireAt (time : MemOp → Nat) (x : MemOp) (w : Warp) : Warp :=
  { w with threads := x.lanes.foldl (fun ts l => modAt ts l fun t => { t with acqTime := max t.acqTime (time x) }) w.threads }
def State.acquireAll (s : State) (group : List MemOp) (time : MemOp → Nat) : State :=
  group.foldl (fun t x => t.modWarp x.w (Warp.acquireAt time x)) s
theorem acquireAll_warp {s : State} {group : List MemOp} (time : MemOp → Nat) (hn : (group.map (·.w)).Nodup) {x : MemOp} (hx : x ∈ group)
    {w : Warp} (hw : s.warp? x.w = some w) : (s.acquireAll group time).warp? x.w = some (Warp.acquireAt time x w) := by
  obtain ⟨t, ht, hfold⟩ := warp?_foldl_each (id := MemOp.w) (g := fun t x => t.modWarp x.w (Warp.acquireAt time x))
    (fun t x v hv => warp?_modWarp_other t x.w v _ hv) hn hx s
  rw [State.acquireAll, hfold, warp?_modWarp_self, ht, hw, Option.map_some]
theorem acquireAt_thread {time : MemOp → Nat} {x : MemOp} (hl : x.lanes.Nodup) {w : Warp} {l : Nat} (hm : l ∈ x.lanes)
    {th : Thread} (hth : w.threads[l]? = some th) :
    (w.acquireAt time x).threads[l]? = some { th with acqTime := max th.acqTime (time x) } := by
  refine (foldl_modAt_getElem? (f := fun _ t => { t with acqTime := max t.acqTime (time x) }) hl w.threads l).trans ?_
  rw [if_pos hm, hth]
  rfl
theorem ops_acquireAll (s : State) (group : List MemOp) (time : MemOp → Nat) : (s.acquireAll group time).ops = s.ops :=
  foldl_modWarp_ops MemOp.w (Warp.acquireAt time) group s
theorem home_acquireAll (s : State) (group : List MemOp) (time : MemOp → Nat) : (s.acquireAll group time).home = s.home :=
  foldl_keeps State.home (fun t (x : MemOp) => t.modWarp x.w (Warp.acquireAt time x)) (fun _ _ => rfl) group s
/-- The time at which the value of a matched operation is seen (R33, R446). -/
def State.matchTime (s : State) (x : MemOp) : Nat := maxOf (x.parts.map fun p => if p.far then s.now x.core else p.time)
theorem acquireAll_eq (s : State) (group : List MemOp) (time : MemOp → Nat) :
    (group.map fun x => (x.w, x.lanes, time x)).foldl (fun s (w, ls, time) => ls.foldl (fun s l => s.modThread w l fun t =>
      { t with acqTime := max t.acqTime time }) s) s = s.acquireAll group time := by
  rw [List.foldl_map]
  exact List.foldl_ext _ _ _ fun t x _ => foldl_modThread t x.w (fun _ t => { t with acqTime := max t.acqTime (time x) }) x.lanes
theorem returnWait_eq {s : State} {o : MemOp} {b : Bundle} {group : List MemOp} (dst : Nat) (b64 : Bool)
    (hgroup : s.ops.filter (·.group == o.group) = group)
    (hb : s.bundleOf o.w.unit o.w.wg (group.map fun x => (x.w.warp, x.lanes)) = some b) : s.returnWait o dst b64 =
    ((((s.returnAll group (Warp.matchedBy b.u.cfg dst (if b64 then 2 else 1))).acquireAll group s.matchTime).renewTurn b o.group).past b
      true fun _ _ t => { t with busy := none, parked := none, matched := none }) := by
  have hlanes : s.groupLanes o = group.map fun x => (x.w.warp, x.lanes) := by rw [State.groupLanes, hgroup]
  have hcore (k : Nat) : (s.returnAll group (Warp.matchedBy b.u.cfg dst (if b64 then 2 else 1))).core k = s.core k :=
    (returnAll_shrinks s group _).2.1 k
  have htime : (s.returnAll group (Warp.matchedBy b.u.cfg dst (if b64 then 2 else 1))).matchTime = s.matchTime := by
    funext x
    rw [State.matchTime, State.now, hcore]
    rfl
  rw [← htime, ← acquireAll_eq]
  unfold State.returnWait
  simp only [hlanes, hb, hgroup]
  rfl

section
variable {s : State} {o : MemOp} {b : Bundle} {group : List MemOp}
  (hb : s.bundleOf o.w.unit o.w.wg (group.map fun x => (x.w.warp, x.lanes)) = some b)
  (hn : (group.map (·.w)).Nodup) (hsame : ∀ x ∈ group, x.w.unit = o.w.unit ∧ x.w.wg = o.w.wg) (hproper : b.proper = true)
include hb hn hsame hproper
/-- A warp of a WAITCMP whose every monitor has matched, as it retires. -/
theorem wait_warp (f : MemOp → Warp → Warp) (time : MemOp → Nat) {x : MemOp} (hx : x ∈ group) {w : Warp} (hw : s.warp? x.w = some w) :
    ∃ w1, (f x w).acquiring w1 ∧ (((s.returnAll group f).acquireAll group time).renewTurn b o.group).warp? x.w =
      some (if b.u.cfg.det = 0 then w1.acquireAt time x else w.renewed b.u o.group (w1.acquireAt time x)) := by
  obtain ⟨w1, hw1, hacq⟩ := returnAll_warp f hn hx hw
  refine ⟨w1, hacq, ?_⟩
  have hrenew := warp?_renewTurn ((s.returnAll group f).acquireAll group time) o.group hproper (part_of_group hb hsame hx hw)
  rw [wid_of_group hb hsame hx, acquireAll_warp time hn hx hw1] at hrenew
  exact hrenew
end

/-- Settles O47: an operation whose values have all arrived lands (`arrived_lands`), and a group of them, as it retires, leaves each warp
what its own operation made of it (`returnAll_warp`, `past_thread`). -/
theorem loadsReturn : Obligations.LoadsReturn := by
  unfold Obligations.LoadsReturn
  refine ⟨?load, ?group, ?tag, ?fault⟩
  case load =>
    intro s o u w ho hk hdone hdue hret hfwd hu hw time g timed written
    refine ⟨_, (exec_loadReturn ho hk (ready_of_done hdone hdue hret)).trans (congrArg _ (returnLanes_eq hdone hu hfwd)), rfl, rfl,
      (w.loaded o u.cfg).landed o (s.now o.core) time, (warp?_modWarp_self s o.w _).trans (by rw [hw]; rfl), fun l th hl => ?_, ?_⟩
    · have hth : (w.loaded o u.cfg).threads[l]? = some th := by
        rw [loaded_eq]
        exact hl
      have htimed : o.timed l = timed l := timed_eq o l
      rw [landed_thread, hth, ← htimed]
      split <;> rfl
    · rw [landed_eq, loaded_eq]
      rfl
  case group =>
    intro s o b group ready
    refine ⟨?aldp, ?wait⟩
    case aldp =>
      intro n b128 hk hready ptr win
      obtain ⟨ho, hb, hn, hall⟩ := hready
      have hsame (x : MemOp) (hx : x ∈ group) : x.w.unit = o.w.unit ∧ x.w.wg = o.w.wg := ⟨(hall x hx).1, (hall x hx).2.1⟩
      have hlanes (x : MemOp) (hx : x ∈ group) : x.lanes.Nodup := (hall x hx).2.2.2.1
      have hr (x : MemOp) (hx : x ∈ group) : x.ready s.clk = true ∧ x.badLanes = [] := by
        obtain ⟨-, -, -, -, hret, hdue, hdone⟩ := hall x hx
        exact ⟨ready_of_done hdone hdue hret, badLanes_of_done hdone⟩
      have hexec := (exec_loadReturn_aldp rfl ho hk hr).trans (congrArg _ (returnPtrs_eq n b128 rfl hb))
      have hproper := proper_of_group hb hn hsame hlanes
      refine ⟨?bad, fun hwin => ?good⟩
      case bad =>
        rintro ⟨x, hx, l, hl, hnone⟩
        have hits : ptrHits b.u b128 group ≠ [] := fun h => by
          have := ptrHits_eq_nil.1 h x hx l hl
          rw [show windowAt b.u.windows (x.pointer b128 l) = none from hnone] at this
          cases this
        rw [hexec, if_pos (bne_iff_ne.2 hits)]
        rfl
      case good =>
        have hits : ptrHits b.u b128 group = [] := ptrHits_eq_nil.2 hwin
        refine ⟨_, hexec.trans (by rw [hits]; rfl), (home_past ..).trans (returnAll_shrinks ..).1, fun x hx =>
          ⟨fun hf => ?gone, fun l hl th m hth hm hlen => ?lane⟩⟩
        case gone =>
          rw [ops_past]
          exact returnAll_drops _ hx hf
        case lane =>
          obtain ⟨w, hw, hth⟩ := Option.bind_eq_some_iff.1 hth
          obtain ⟨w', hw', -, hacq⟩ := returnAll_warp (Warp.pointed b.u n b128) hn hx hw
          obtain ⟨acq, time, -, hth'⟩ := hacq l _ (ptrWrites_thread (hlanes x hx) hl hm hth)
          have hpast := past_thread (ends := false) (f := fun _ _ t => { t with busy := none }) hproper (part_of_group hb hsame hx hw)
            (by rw [wid_of_group hb hsame hx]; exact hw') hl hth'
          rw [wid_of_group hb hsame hx] at hpast
          exact ⟨_, hpast, rfl, rfl, rfl, ar_modAt hlen _⟩
    case wait =>
      intro dst c b64 vals hk ho hb hn hall hmay
      have hsame (x : MemOp) (hx : x ∈ group) : x.w.unit = o.w.unit ∧ x.w.wg = o.w.wg := ⟨(hall x hx).1, (hall x hx).2.1⟩
      have hlanes (x : MemOp) (hx : x ∈ group) : x.lanes.Nodup := (hall x hx).2.2.2.1
      have hr (x : MemOp) (hx : x ∈ group) : x.ready s.clk = true ∧ x.badLanes = [] := by
        obtain ⟨-, -, -, -, -, hret, hdue, hdone⟩ := hall x hx
        exact ⟨ready_of_done hdone hdue hret, badLanes_of_done hdone⟩
      have hproper := proper_of_group hb hn hsame hlanes
      refine ⟨_, (exec_loadReturn_waitcmp rfl ho hk hr hmay).trans (congrArg _ (returnWait_eq dst b64 rfl hb)), fun hdet => ?home,
        fun x hx => ⟨?gone, fun w k hw hck hdet hbefore => ?ckpt, fun l hl th hth hlen => ?lane⟩⟩
      case home =>
        rw [home_past, renewTurn_det0 _ _ hdet, home_acquireAll]
        exact (returnAll_shrinks ..).1
      case gone =>
        have hfwd : s.forwarding x = false := by
          rw [State.forwarding, (hall x hx).2.2.2.2.1]
          rfl
        rw [ops_past, ops_renewTurn, ops_acquireAll]
        exact returnAll_drops _ hx hfwd
      case ckpt =>
        obtain ⟨w1, -, hrenew⟩ := wait_warp hb hn hsame hproper (Warp.matchedBy b.u.cfg dst (if b64 then 2 else 1)) s.matchTime hx hw
        have hpast := warp?_past (ends := true) (f := fun _ _ t => { t with busy := none, parked := none, matched := none }) hproper
          (part_of_group hb hsame hx hw) (by rw [wid_of_group hb hsame hx]; exact hrenew)
        rw [wid_of_group hb hsame hx] at hpast
        refine ⟨_, hpast, ?_⟩
        have hfilter : (some k).filter (·.before == o.group) = some k := by simp [hbefore]
        simp only [retireWarp, if_neg hdet, Warp.renewed, hck, hfilter]
      case lane =>
        obtain ⟨w, hw, hth⟩ := Option.bind_eq_some_iff.1 hth
        obtain ⟨w1, ⟨-, hacq⟩, hrenew⟩ :=
          wait_warp hb hn hsame hproper (Warp.matchedBy b.u.cfg dst (if b64 then 2 else 1)) s.matchTime hx hw
        obtain ⟨acq, time, htime, hth1⟩ := hacq l _ (matchedBy_thread (hlanes x hx) hl hth)
        have hth2 := acquireAt_thread (time := s.matchTime) (hlanes x hx) hl hth1
        have hpast := past_thread (ends := true) (f := fun _ _ t => { t with busy := none, parked := none, matched := none }) hproper
          (part_of_group hb hsame hx hw) (by rw [wid_of_group hb hsame hx]; exact hrenew) hl
          (by rw [apply_ite Warp.threads, threads_renewed, ite_self]; exact hth2)
        rw [wid_of_group hb hsame hx] at hpast
        refine ⟨_, hpast, rfl, rfl, rfl, rfl, ?_, fun k hk => ?_⟩
        · exact max_le_max_right (s.matchTime x) htime
        · refine gr_writeWords ?_ hk
          cases b64
          · exact hlen
          · exact hlen
  case tag =>
    intro s w x n v hx ht hv
    refine ⟨_, tagFree_does hx ht hv, rfl, ?_⟩
    rw [warp?_modWarp_self, hx]
    rfl
  case fault =>
    intro s f u hf hu hst hret fs s1
    refine impreciseFault_takes hf hu hst (List.any_eq_false.2 fun o ho => ?_)
    by_cases hg : o.group = f.group <;> simp [hg, hret o ho]

end Sys2Proof.Machine
end

section
/-! Proof of how a fault is taken (R112, R365, R366, R477, R500). -/

namespace Sys2Proof.Machine

/-! ### What a write to memory leaves alone (R411, R427) -/

def MemOp.tag3 (o : MemOp) : Nat × WarpId × OpKind := (o.id, o.w, o.kind)
/-- A state in which spans have been written: memory may have changed, and the stages of parts of operations. -/
def State.writes (s t : State) : Prop :=
  (∃ home ops, t = { s with home := home, ops := ops }) ∧ t.ops.map MemOp.tag3 = s.ops.map MemOp.tag3
theorem writes_refl (s : State) : s.writes s := ⟨⟨s.home, s.ops, rfl⟩, rfl⟩
theorem writes_trans {s t r : State} (h : s.writes t) (k : t.writes r) : s.writes r := by
  obtain ⟨⟨m, o, rfl⟩, hops⟩ := h
  obtain ⟨⟨m', o', rfl⟩, kops⟩ := k
  exact ⟨⟨m', o', rfl⟩, kops.trans hops⟩
theorem writes_home (s : State) (h : Home) : s.writes { s with home := h } := ⟨⟨h, s.ops, rfl⟩, rfl⟩
theorem writes_caches {s t : State} (h : s.caches t) : s.writes t := by
  obtain ⟨c, rfl⟩ := h
  exact writes_home s _
theorem writes_monitorsAfter (s : State) (ia n : Nat) : s.writes (s.monitorsAfter ia n) := by
  refine ⟨⟨s.home, _, rfl⟩, ?_⟩
  simp only [State.monitorsAfter, List.map_map]
  refine List.map_congr_left fun o _ => ?_
  simp only [Function.comp_apply]
  split <;> rfl
theorem writes_writeLocal {s t : State} {ctx ia : Nat} {bs : List Byte} {k c : Nat}
    (h : (∃ g b, s.writeLocal ctx ia bs k c = .ok t g b) ∨ s.writeLocal ctx ia bs k c = .wait t) : s.writes t := by
  unfold State.writeLocal at h
  dsimp only at h
  split at h
  · simp only [WriteRes.ok.injEq, reduceCtorEq, or_false] at h
    obtain ⟨_, _, rfl, _⟩ := h
    exact writes_refl s
  · split at h
    · simp only [WriteRes.wait.injEq, reduceCtorEq, exists_false, false_or] at h
      exact h ▸ writes_home s _
    · split at h
      · simp only [WriteRes.wait.injEq, reduceCtorEq, exists_false, false_or] at h
        exact h ▸ writes_refl s
      · simp only [WriteRes.ok.injEq, reduceCtorEq, or_false] at h
        obtain ⟨_, _, rfl, _⟩ := h
        exact writes_refl s
      · simp only [WriteRes.ok.injEq, reduceCtorEq, or_false] at h
        obtain ⟨_, _, rfl, _⟩ := h
        exact writes_trans (writes_trans (writes_home s _) (writes_monitorsAfter _ ia bs.length))
          (writes_caches (cacheWalk_caches _ ctx ia))
theorem writes_writeSpan (s : State) (ctx : Nat) (sp : Space) (a : Nat) (bs : List Byte) (c : Nat) :
    s.writes (s.writeSpan ctx sp a bs c).1 := by
  unfold State.writeSpan
  split
  · exact writes_home s _
  · split
    · exact writes_refl s
    · exact writes_home s _
  · refine List.foldlRecOn (motive := fun x : State × Nat × Option (Nat × Nat × Nat) => s.writes x.1) _ _ (writes_refl s)
      fun x hx y _ => ?_
    have hlines := writes_trans hx (writes_home x.1 { x.1.home with hostLines := x.1.home.hostLines.filter (· != y.1 / 256) })
    dsimp only
    split
    · next heq => exact writes_trans hlines (writes_writeLocal (.inl ⟨_, _, heq⟩))
    · next heq => exact writes_trans (writes_trans hlines (writes_writeLocal (.inr heq))) (writes_home _ _)

/-! ### Records posted (R366, R475, R477) -/

/-- `n` records have been posted to queue `q`: what else may have changed is memory, the stages of parts, and of the watch blocks what is
not the running dump. -/
structure State.Posted (s t : State) (q n : Nat) : Prop where
  frame : ∃ queues home ops irqs watch, t = { s with queues := queues, home := home, ops := ops, irqs := irqs, watch := watch }
  ops : t.ops.map MemOp.tag3 = s.ops.map MemOp.tag3
  irqs : t.irqs = List.replicate n (32 + q) ++ s.irqs
  length : t.queues.length = s.queues.length
  fring : (t.queue q).fring = (s.queue q).fring
  seq : q < s.queues.length → (t.queue q).seq = (s.queue q).seq + n
  home : (s.queue q).fring.toNat % 32 < 4 → t.home = s.home
  dump : t.watch.dump = s.watch.dump
theorem State.Posted.of_watch (s : State) (q : Nat) {w : Watch} (h : w.dump = s.watch.dump) : s.Posted { s with watch := w } q 0 :=
  ⟨⟨s.queues, s.home, s.ops, s.irqs, w, rfl⟩, rfl, rfl, rfl, rfl, fun _ => rfl, fun _ => rfl, h⟩
theorem State.Posted.refl (s : State) (q : Nat) : s.Posted s q 0 := .of_watch s q rfl
theorem State.Posted.trans {s t r : State} {q n m : Nat} (h : s.Posted t q n) (k : t.Posted r q m) : s.Posted r q (n + m) where
  frame := by
    obtain ⟨q, m, o, i, w, rfl⟩ := h.frame
    obtain ⟨q', m', o', i', w', rfl⟩ := k.frame
    exact ⟨q', m', o', i', w', rfl⟩
  ops := k.ops.trans h.ops
  irqs := by rw [k.irqs, h.irqs, ← List.append_assoc, List.replicate_append_replicate, Nat.add_comm m n]
  length := k.length.trans h.length
  fring := k.fring.trans h.fring
  seq hq := by rw [k.seq (h.length ▸ hq), h.seq hq, Nat.add_assoc]
  home hf := (k.home (h.fring ▸ hf)).trans (h.home hf)
  dump := k.dump.trans h.dump
theorem State.Posted.units {s t : State} {q n : Nat} (h : s.Posted t q n) : t.units = s.units := by
  obtain ⟨_, _, _, _, _, hframe⟩ := h.frame
  rw [hframe]
theorem State.Posted.works {s t : State} {q n : Nat} (h : s.Posted t q n) : t.works = s.works := by
  obtain ⟨_, _, _, _, _, hframe⟩ := h.frame
  rw [hframe]
theorem State.Posted.foldl {α : Type} {g : State → α → State} {q k : Nat} (hg : ∀ (t : State) x, t.Posted (g t x) q k)
    (xs : List α) (s : State) : s.Posted (xs.foldl g s) q (k * xs.length) := by
  induction xs generalizing s with
  | nil => exact .refl s q
  | cons x xs ih =>
    rw [List.foldl_cons, List.length_cons, Nat.mul_succ, Nat.add_comm]
    exact (hg s x).trans (ih _)
theorem queue_modQueue (s : State) (q : Nat) (f : Queue → Queue) :
    (s.modQueue q f).queue q = if q < s.queues.length then f (s.queue q) else s.queue q := by
  simp only [State.queue, State.modQueue, modAt_getElem?, if_true]
  split
  · next h => rw [List.getElem?_eq_getElem h]; rfl
  · next h => rw [List.getElem?_eq_none (Nat.not_lt.1 h)]; rfl
theorem posted_post (s : State) (q : Nat) (r : Record) (dump : Bool) : s.Posted (s.post q r dump) q 1 := by
  have hseq (t : State) (hw : (s.modQueue q fun x => { x with seq := (s.queue q).seq + 1 }).writes t)
      (hhome : (s.queue q).fring.toNat % 32 < 4 → t.home = s.home) : s.Posted (t.irq (32 + q)) q 1 := by
    obtain ⟨⟨m, o, rfl⟩, hops⟩ := hw
    have hq := queue_modQueue s q fun x => { x with seq := (s.queue q).seq + 1 }
    refine ⟨⟨_, m, o, _, s.watch, rfl⟩, hops, rfl, modAt_length .., ?_, fun hlt => ?_, hhome, rfl⟩
    · refine (congrArg Queue.fring hq).trans ?_
      split <;> rfl
    · exact (congrArg Queue.seq hq).trans (by rw [if_pos hlt])
  unfold State.post
  dsimp only
  split
  · next h =>
    refine hseq _ (writes_writeSpan ..) fun hlt => ?_
    simp only [Bool.and_eq_true, decide_eq_true_eq] at h
    omega
  · exact hseq _ (writes_refl _) fun _ => rfl
theorem posted_trace (s : State) (src ctx bit : Nat) (data : BitVec 256) (q : Nat) : s.Posted (s.trace src ctx bit data) q 0 := by
  unfold State.trace
  split
  · exact .of_watch s q rfl
  · exact .refl s q
theorem posted_traceFault (s : State) (u : Placed) (w : WarpId) (code : Nat) (pc : VAddr) (lane q : Nat) :
    s.Posted (s.traceFault u w code pc lane) q 0 := posted_trace ..
theorem capture_watch (s : State) (d : Dump) (new : List Capture) : ∃ w, (s.capture d new).1 = { s with watch := w } := by
  unfold State.capture
  dsimp only
  split <;> repeat' split
  all_goals exact ⟨_, rfl⟩

/-! ### The reports of a fault (R365, R366, R477, R500) -/

/-- The hits of an issue with the record of each. -/
def faultRecs (u : Placed) (wg : Nat) (precise : Bool) (pc : VAddr) (hits : List (Nat × Hit)) : List (Hit × Record) :=
  hits.map fun (code, h) => (h, unitRecord u wg code precise pc h)
/-- What the dump engine is offered of them. -/
def faultCaps (u : Placed) (unit wg : Nat) (recs : List (Hit × Record)) : List Capture :=
  recs.map fun (h, r) => ⟨u.queue, some r, ⟨unit, wg, h.warp⟩, h.lanes, h.vals, [], []⟩
def faultDump (u : Placed) (wg : Nat) : Dump := ⟨u.ctx, 1, u.launchid, u.idx, 0, 0, wg, [], 0, 0, false⟩
/-- Every report of a fault is made: captures, records, trace records, and the records of the other workgroups. -/
def State.reportAll (s : State) (u : Placed) (unit wg : Nat) (precise : Bool) (pc : VAddr) (hits : List (Nat × Hit)) : State :=
  let recs := faultRecs u wg precise pc hits
  let captured := s.capture (faultDump u wg) (faultCaps u unit wg recs)
  let posted := (recs.drop captured.2).foldl (fun s x => s.post u.queue x.2 false) captured.1
  let traced := hits.foldl (fun s x => s.traceFault u ⟨unit, wg, x.2.warp⟩ x.1 pc ((x.2.lanes[0]?).getD 0)) posted
  traced.peerFaults u wg (((hits.head?).map (·.1)).getD 0)
/-- The workgroups of a cluster that a fault of one terminates. -/
def Placed.peers (u : Placed) (wg : Nat) : List (Workgroup × Nat) := (u.wgs.zipIdx).filter fun (g, i) => i != wg && !g.retiredAll
theorem takeHits_ended {s : State} {unit : Nat} {u : Placed} (hu : s.unit? unit = some u) (h : u.state = .ended ∨ u.state = .saved)
    (wg : Nat) (precise : Bool) (pc : VAddr) (hits : List (Nat × Hit)) : s.takeHits unit wg precise pc hits = s := by
  have hst : (u.state == .ended || u.state == .saved) = true := by simpa using h
  simp only [State.takeHits, hu, hst, if_true]
theorem takeHits_eq {s : State} {unit : Nat} {u : Placed} (hu : s.unit? unit = some u) (h1 : u.state ≠ .ended) (h2 : u.state ≠ .saved)
    (wg : Nat) (precise : Bool) (pc : VAddr) (hits : List (Nat × Hit)) :
    s.takeHits unit wg precise pc hits = (s.reportAll u unit wg precise pc hits).endUnit unit := by
  have hst : (u.state == .ended || u.state == .saved) = false := by simp [h1, h2]
  simp only [State.takeHits, hu, hst, Bool.false_eq_true, if_false]
  rfl
theorem posted_peerFaults (s : State) (u : Placed) (wg code : Nat) :
    s.Posted (s.peerFaults u wg code) u.queue (u.peers wg).length := by
  have h := State.Posted.foldl (k := 1) (g := fun (t : State) (x : Workgroup × Nat) =>
    (t.post u.queue (unitRecord u x.2 0x13 false 0 ⟨0, [], u.idx, code, []⟩) false).traceFault u ⟨u.id, x.2, 0⟩ 0x13 0 0)
    (fun t x => (posted_post t u.queue _ false).trans (posted_traceFault ..)) (u.peers wg) s
  rw [Nat.one_mul] at h
  exact h
theorem posted_reportAll (s : State) (u : Placed) (unit wg : Nat) (precise : Bool) (pc : VAddr) (hits : List (Nat × Hit)) :
    let captured := s.capture (faultDump u wg) (faultCaps u unit wg (faultRecs u wg precise pc hits))
    captured.1.Posted (s.reportAll u unit wg precise pc hits) u.queue (hits.length - captured.2 + (u.peers wg).length) := by
  intro captured
  have hposts := State.Posted.foldl (k := 1) (g := fun (t : State) (x : Hit × Record) => t.post u.queue x.2 false)
    (fun t x => posted_post t u.queue x.2 false) ((faultRecs u wg precise pc hits).drop captured.2) captured.1
  have htraces (t : State) := State.Posted.foldl (k := 0) (q := u.queue) (g := fun (t : State) (x : Nat × Hit) =>
    t.traceFault u ⟨unit, wg, x.2.warp⟩ x.1 pc ((x.2.lanes[0]?).getD 0)) (fun t x => posted_traceFault ..) hits t
  rw [Nat.one_mul, List.length_drop, faultRecs, List.length_map] at hposts
  simp only [Nat.zero_mul] at htraces
  exact (hposts.trans (htraces _)).trans (posted_peerFaults _ u wg _)

/-! ### The unit that ends (R358, R365) -/

/-- A thread, and a warp, of a unit that has ended. -/
def Thread.ended (t : Thread) : Thread := { t with exited := true, defer := none, busy := none, parked := none, barWait := none }
def Warp.ended (w : Warp) : Warp := { w with threads := w.threads.map Thread.ended, arrival := none, graph := [] }
def Placed.end (u : Placed) : Placed := { u with
  state := .ended, faulted := true, dumps := [], wgs := u.wgs.map fun g => { g with warps := g.warps.map Warp.ended } }
theorem unit?_endUnit (s : State) (id k : Nat) :
    (s.endUnit id).unit? k = (s.unit? k).map fun u => if u.id == id then u.end else u :=
  unit?_modUnit s id k Placed.end fun _ => rfl
theorem ended_thread {u : Placed} {gi wi l : Nat} {g : Workgroup} {w : Warp} {th : Thread} (hg : u.wgs[gi]? = some g)
    (hw : g.warps[wi]? = some w) (hth : w.threads[l]? = some th) : ∃ (g' : Workgroup) (w' : Warp), u.end.wgs[gi]? = some g' ∧
      g'.warps[wi]? = some w' ∧ w'.tiles = w.tiles ∧ w'.mxstat = w.mxstat ∧ w'.digest = w.digest ∧ w'.graph = [] ∧ w'.pend = w.pend ∧
      w'.threads[l]? = some th.ended :=
  ⟨{ g with warps := g.warps.map Warp.ended }, w.ended, by rw [Placed.end, List.getElem?_map, hg]; rfl,
    by rw [List.getElem?_map, hw]; rfl, rfl, rfl, rfl, rfl, rfl, by rw [Warp.ended, List.getElem?_map, hth]; rfl⟩
theorem ops_endUnit {s t : State} (h : t.ops.map MemOp.tag3 = s.ops.map MemOp.tag3) (id : Nat) :
    (t.endUnit id).ops.map (·.id) = (s.ops.filter fun o => o.w.unit != id || !o.kind.endsWithUnit).map (·.id) := by
  have hkeep (os : List MemOp) : (os.filter fun o => o.w.unit != id || !o.kind.endsWithUnit).map (·.id) =
      ((os.map MemOp.tag3).filter fun x => x.2.1.unit != id || !x.2.2.endsWithUnit).map (·.1) := by
    rw [List.filter_map, List.map_map]
    rfl
  rw [hkeep, ← h, ← hkeep]
  rfl

theorem takeHits_posted {s : State} {unit : Nat} {u : Placed} (hu : s.unit? unit = some u) (h1 : u.state ≠ .ended)
    (h2 : u.state ≠ .saved) (wg : Nat) (precise : Bool) (pc : VAddr) (hits : List (Nat × Hit)) :
    let captured := s.capture (faultDump u wg) (faultCaps u unit wg (faultRecs u wg precise pc hits))
    ∃ w r, captured.1 = { s with watch := w } ∧ s.takeHits unit wg precise pc hits = r.endUnit unit ∧
      State.Posted { s with watch := w } r u.queue (hits.length - captured.2 + (u.peers wg).length) := by
  intro captured
  obtain ⟨w, hw⟩ := capture_watch s (faultDump u wg) (faultCaps u unit wg (faultRecs u wg precise pc hits))
  exact ⟨w, _, hw, takeHits_eq hu h1 h2 .., hw ▸ posted_reportAll s u unit wg precise pc hits⟩
/-- No capture is held while there is no slot for one. -/
theorem capture_noSlot {s : State} (h0 : s.watch.dslots = 0) (hd : s.watch.dump = none) (d : Dump) (new : List Capture) :
    (s.capture d new).2 = 0 := by
  unfold State.capture
  simp only [hd, h0]
  split <;> rfl
/-- A dump starts at once when nothing is before it and a slot is free. -/
theorem capture_starts {s : State} (h0 : s.watch.dslots ≠ 0) (hfree : (s.watch.dhead - s.watch.dtail).toNat ≠ s.watch.dslots.toNat)
    (hd : s.watch.dump = none) (hq : s.watch.dumpQ = []) (d : Dump) {new : List Capture} (hnew : new.length ≤ 4) :
    s.capture d new = ({ s with watch := { s.watch with dump := some { d with
      entries := s.fillCaptures 0 new, overflow := 0, time := s.clockOf .watch } } }, new.length) := by
  have hslots : s.watch.dslots.toNat ≠ 0 := fun h => h0 (BitVec.eq_of_toNat_eq h)
  have hover : new.length - 4 = 0 := by omega
  unfold State.capture
  simp only [hd, hq, hslots, hfree, List.take_of_length_le hnew, hover]
  rfl

/-! ### The record of a fault in its ring (R366) -/

section
variable {s t : State} (hh : t.home = s.home) (ht : t.tick = s.tick) (hc : t.ctxs = s.ctxs)
include hh ht
theorem walkFrom_congr (ctx ia level table : Nat) : t.walkFrom ctx ia level table = s.walkFrom ctx ia level table := by
  have hentry (level pa : Nat) : t.entryAt ctx level ia pa = s.entryAt ctx level ia pa := by simp only [State.entryAt, hh, ht]
  induction level generalizing table with
  | zero => rfl
  | succ level ih => simp only [State.walkFrom, hentry, ih]
include hc
/-- What a translation answers depends on the Home engine, the tick and the contexts alone (R350, R353, R355). -/
theorem translate_congr (ctx ia : Nat) (write : Bool) : t.translate ctx ia write = s.translate ctx ia write := by
  have hpin : t.pinOf ctx ia = s.pinOf ctx ia := by simp only [State.pinOf, State.holdOf, hh]
  have hwalk : t.walk ctx ia = s.walk ctx ia := by simp only [State.walk, walkFrom_congr hh ht, State.ctx, hc]
  simp only [State.translate, hpin, hwalk]
theorem writable_congr (hm : t.memWf) {ctx ia n pa : Nat} (h : writable s ctx ia n pa) : writable t ctx ia n pa := by
  obtain ⟨-, hn, htr, hline, hsnoop, hpoison⟩ := h
  exact ⟨hm, hn, (translate_congr hh ht hc ctx ia true).trans htr, hh ▸ hline, hh ▸ hsnoop, hh ▸ hpoison⟩
end
/-- A record is written to its place of a ring in device memory. -/
theorem post_wrote (s : State) (q : Nat) (r : Record) {pa : Nat} :
    let x := s.queue q
    let size := x.fring.toNat % 32
    let a := x.fring.toNat / 4096 * 4096 + 64 * (x.seq % 2 ^ size)
    4 ≤ size → size ≤ 16 → x.host = false → writable s x.ctx.toNat a 64 pa →
      wrote s (s.post q r false) pa (natBytes 64 (recordBits r (x.seq + 1) (s.clockOf .task) false)) := by
  intro x size a h4 h16 hlocal hwr
  have hline : a % 256 + 64 ≤ 256 := by omega
  have hsize : (decide (4 ≤ size) && decide (size ≤ 16)) = true := by simp [h4, h16]
  have hwr' := writable_congr (t := s.modQueue q fun x => { x with seq := (s.queue q).seq + 1 }) rfl rfl rfl (memWf_congr hwr.1 rfl rfl) hwr
  obtain ⟨t, hspan, hwrote, -⟩ := writeSpan_of_writable (bs := natBytes 64 (recordBits r (x.seq + 1) (s.clockOf .task) false))
    (by rw [natBytes_length]; exact hline) (by rw [natBytes_length]; exact hwr') 0
  have hpost : s.post q r false = t.irq (32 + q) := by
    unfold State.post
    dsimp only
    rw [if_pos hsize, hlocal, Nat.add_sub_cancel]
    exact congrArg (fun c => State.irq c.1 (32 + q)) hspan
  rw [hpost]
  exact hwrote
theorem peers_alone {u : Placed} (h : u.wgs.length ≤ 1) : u.peers 0 = [] := by
  unfold Placed.peers
  match hg : u.wgs, h with
  | [], _ => rfl
  | [g], _ => rfl
theorem home_traceFault (s : State) (u : Placed) (w : WarpId) (code : Nat) (pc : VAddr) (lane : Nat) :
    (s.traceFault u w code pc lane).home = s.home := by
  unfold State.traceFault State.trace
  dsimp only
  split <;> rfl
/-- The one report of a fault of one warp, in a unit of one workgroup, while no dump takes it. -/
theorem takeHits_alone {s : State} {unit : Nat} {u : Placed} (hu : s.unit? unit = some u) (h1 : u.state ≠ .ended)
    (h2 : u.state ≠ .saved) (h0 : s.watch.dslots = 0) (hd : s.watch.dump = none) (hwgs : u.wgs.length ≤ 1) (code : Nat) (precise : Bool)
    (pc : VAddr) (h : Hit) : ∃ w, (s.memWf → State.memWf { s with watch := w }) ∧ (s.takeHits unit 0 precise pc [(code, h)]).home =
      (State.post { s with watch := w } u.queue (unitRecord u 0 code precise pc h) false).home := by
  obtain ⟨w, hw⟩ := capture_watch s (faultDump u 0) (faultCaps u unit 0 (faultRecs u 0 precise pc [(code, h)]))
  refine ⟨w, fun hm => hw ▸ capture_memWf hm _ _, ?_⟩
  have hpeers (t : State) (c : Nat) : t.peerFaults u 0 c = t := by
    rw [State.peerFaults]
    exact congrArg (List.foldl _ t) (peers_alone hwgs)
  have hreports : s.reportAll u unit 0 precise pc [(code, h)] = (State.post { s with watch := w } u.queue
      (unitRecord u 0 code precise pc h) false).traceFault u ⟨unit, 0, h.warp⟩ code pc ((h.lanes[0]?).getD 0) := by
    simp only [State.reportAll, hpeers, capture_noSlot h0 hd, hw, List.drop_zero]
    rfl
  rw [takeHits_eq hu h1 h2, hreports]
  exact home_traceFault ..
theorem record_fillCaptures (s : State) (f0 : Nat) (cs : List Capture) :
    (s.fillCaptures f0 cs).map (·.record) = cs.map (·.record) := by
  conv_rhs => rw [← List.zipIdx_map_fst 0 cs]
  rw [State.fillCaptures, List.map_map, List.map_map]
  rfl
theorem record_faultCaps (u : Placed) (unit wg : Nat) (code : Nat) (precise : Bool) (pc : VAddr) (hits : List Hit) :
    (faultCaps u unit wg (faultRecs u wg precise pc (hits.map fun h => (code, h)))).map (·.record) =
      hits.map fun h => some (unitRecord u wg code precise pc h) := by
  simp only [faultCaps, faultRecs, List.map_map]
  rfl

/-- Settles O39: the reports of a fault leave every unit as it was (`takeHits_posted`), then the unit ends (`unit?_endUnit`); what the
dump engine takes is not posted (`capture_noSlot`, `capture_starts`). -/
theorem faultsTaken : Obligations.FaultsTaken := by
  unfold Obligations.FaultsTaken
  intro s unit wg code precise pc hits u hu t peers
  refine ⟨fun hst => takeHits_ended hu hst .., fun h1 h2 => ?_⟩
  obtain ⟨w, r, hcapture, ht, hposted⟩ := takeHits_posted hu h1 h2 wg precise pc (hits.map fun h => (code, h))
  have hops := hposted.ops
  obtain ⟨queues, home, ops, irqs, watch, hframe⟩ := hposted.frame
  replace ht : t = r.endUnit unit := ht
  have hunit (k : Nat) : t.unit? k = (s.unit? k).map fun v => if v.id == unit then v.end else v := by
    rw [ht, unit?_endUnit, hframe]
    rfl
  refine ⟨fun k hk => ?other, by rw [ht, hframe]; rfl, by rw [ht, hframe]; rfl, by rw [ht, hframe]; rfl,
    by rw [ht]; exact ops_endUnit hops unit, by rw [ht, hframe]; rfl,
    ⟨u.end, ?ended, rfl, rfl, rfl, rfl, fun gi wi l g w th => ended_thread⟩, ?posted, fun h0 hfree hd hq hlen => ?dump⟩
  case other =>
    rw [hunit]
    cases hv : s.unit? k with
    | none => rfl
    | some v => simp [unit?_id hv, hk]
  case ended => rw [hunit, hu, Option.map_some, unit?_id hu, beq_self_eq_true, if_pos rfl]
  case posted =>
    intro h0 hd hq n
    have hn : (hits.map fun h => (code, h)).length - (s.capture (faultDump u wg) (faultCaps u unit wg
        (faultRecs u wg precise pc (hits.map fun h => (code, h))))).2 + (u.peers wg).length = n := by
      rw [capture_noSlot h0 hd, List.length_map]
      rfl
    rw [hn] at hposted
    refine ⟨by rw [ht]; exact hposted.irqs, by rw [ht]; exact hposted.seq hq, fun hf => by rw [ht]; exact hposted.home hf, ?_⟩
    intro h pa hone hwgs hwg x size a hsize4 hsize16 hlocal hwr
    subst hone hwg
    obtain ⟨w', hm, hhome⟩ := takeHits_alone hu h1 h2 h0 hd hwgs code precise pc h
    have hwrote := post_wrote { s with watch := w' } u.queue (unitRecord u 0 code precise pc h) hsize4 hsize16 hlocal
      (writable_congr (s := s) (t := { s with watch := w' }) rfl rfl rfl (hm hwr.1) hwr)
    intro y
    rw [show t.home = _ from hhome]
    exact hwrote y
  case dump =>
    have hcaps : (faultCaps u unit wg (faultRecs u wg precise pc (hits.map fun h => (code, h)))).length = hits.length := by
      simp only [faultCaps, faultRecs, List.length_map]
    have hstarts := capture_starts h0 hfree hd hq (faultDump u wg) (hcaps.symm ▸ hlen)
    rw [hstarts, hcaps, List.length_map, Nat.sub_self, Nat.zero_add] at hposted
    have hdump : r.watch.dump = w.dump := hposted.dump
    have hstarted := congrArg (fun c => c.1.watch.dump) hstarts
    simp only [hcapture] at hstarted
    rw [hstarted] at hdump
    refine ⟨by rw [ht]; exact hposted.irqs, _, by rw [ht]; exact hdump, rfl, rfl, rfl, rfl, rfl, rfl, rfl, ?_⟩
    have hrecords := congrArg (List.map (Option.map fun r : Record => (r.code, r.pc, r.lanes, r.warp)))
      ((record_fillCaptures s 0 _).trans (record_faultCaps u unit wg code precise pc hits))
    rw [List.map_map, List.map_map] at hrecords
    exact hrecords

end Sys2Proof.Machine
end

section
/-! Proof of how the clusters of a launch are made resident and placed (R90, R328 to R331, R349, R354, R382 to R384). -/

namespace Sys2Proof.Machine

/-! ### Launches -/

theorem work?_id {s : State} {id : Nat} {w : Work} (h : s.work? id = some w) : w.id = id := by
  simpa using List.find?_some h
theorem work?_congr {s t : State} (h : t.works = s.works) (id : Nat) : t.work? id = s.work? id := by
  simp only [State.work?, h]
/-- A launch is found changed after its own update. -/
theorem work?_modWork_self {s : State} {id : Nat} {w : Work} (h : s.work? id = some w) {f : Work → Work} (hf : ∀ w, (f w).id = w.id) :
    (s.modWork id f).work? id = some (f w) := by
  have hid (x : Work) : (if (x.id == id) = true then f x else x).id = x.id := by split <;> simp [hf]
  have hfind : ((s.works.map fun x => if x.id == id then f x else x).find? (·.id == id)) =
      (s.works.find? (·.id == id)).map fun x => if x.id == id then f x else x := by
    rw [List.find?_map]
    simp only [Function.comp_def, hid]
  rw [State.work?] at h ⊢
  simp only [State.modWork, hfind, h, Option.map_some, work?_id h, beq_self_eq_true, if_true]
theorem who_req (w : Work) (who : Option Nat) : (w.req who).who = who := by
  unfold Work.req
  cases h : w.reqs.find? (·.who == who) with
  | none => rfl
  | some r => simpa using List.find?_some h
theorem req_setReq (w : Work) (r : Req) : (w.setReq r).req r.who = r := by
  simp [Work.req, Work.setReq]

/-! ### Residency (R354, R355) -/

def HoldRes.state : HoldRes → State
  | .done s _ | .missing s _ _ | .busy s _ | .invalid s _ | .poisoned s _ _ => s
/-- A state in which the Home engine alone may have changed. -/
def State.homeOnly (s t : State) : Prop := ∃ h, t = { s with home := h }
theorem homeOnly_refl (s : State) : s.homeOnly s := ⟨s.home, rfl⟩
theorem homeOnly_trans {s t r : State} (h : s.homeOnly t) (k : t.homeOnly r) : s.homeOnly r := by
  obtain ⟨h, rfl⟩ := h
  obtain ⟨k, rfl⟩ := k
  exact ⟨k, rfl⟩
theorem homeOnly_caches {s t : State} (h : s.caches t) : s.homeOnly t := by
  obtain ⟨c, rfl⟩ := h
  exact ⟨_, rfl⟩
theorem homeOnly_addHold (s : State) (ctx ia log leaf : Nat) : s.homeOnly (s.addHold ctx ia log leaf) := ⟨_, rfl⟩
theorem homeOnly_next {s t : State} {c : Prop} [Decidable c] {r1 r2 : HoldRes} (h : s.homeOnly t) (h1 : t.homeOnly r1.state)
    (h2 : t.homeOnly r2.state) : s.homeOnly (if c then r1 else r2).state := by
  split
  · exact homeOnly_trans h h1
  · exact homeOnly_trans h h2
/-- A request for pages changes the Home engine alone. -/
theorem homeOnly_holdFrom (s : State) (ctx fuel : Nat) (spans : List (Nat × Nat)) (held : List Nat) :
    s.homeOnly (s.holdFrom ctx fuel spans held).state := by
  fun_induction State.holdFrom s ctx fuel spans held
  case case1 | case2 | case6 | case8 | case9 | case10 => exact homeOnly_refl _
  case case3 ih => exact ih
  case case4 ih2 ih1 => exact homeOnly_next (homeOnly_refl _) (ih2 _ _) (ih1 _ _ _ _)
  case case5 ih2 ih1 => exact homeOnly_next (homeOnly_addHold ..) (ih2 _ _) (ih1 _ _ _ _)
  case case7 ih2 ih1 =>
    exact homeOnly_next (homeOnly_trans (homeOnly_caches (cacheWalk_caches ..)) (homeOnly_addHold ..)) (ih2 _ _) (ih1 _ _ _ _)
theorem homeOnly_hold {s : State} {ctx : Nat} {spans : List (Nat × Nat)} {held : List Nat} {r : HoldRes} (h : s.hold ctx spans held = r) :
    s.homeOnly r.state := h ▸ homeOnly_holdFrom s ctx _ spans held
theorem posted_postTask (s : State) (q : Nat) (r : Record) : s.Posted (s.postTask q r) q 1 := by
  unfold State.postTask
  dsimp only
  split
  · exact (posted_post s q r false).trans (posted_trace ..)
  · exact posted_post s q r false

/-- The spans that a launch holds before its first cluster (R354). -/
def Work.launchSpans (w : Work) : List (Nat × Nat) := holdSpans w.cfg.d (w.windows.take 8) none
section
variable {s : State} {w : Work} (hw : s.work? w.id = some w) (hj : w.job = none) (hres : w.winResident = false) (hfin : w.finished = false)
  (i : Nat)
include hw hj hres hfin
theorem exec_residencyHold : exec (.residencyHold w.id i) s = .next (s.request w none w.launchSpans
    (fun t => t.modWork w.id fun x => { x with winResident := true }) (fun p t => t.failLaunch w p)) := by
  change execResidencyHold w.id i s = _
  simp only [execResidencyHold, hw, hj, hres, hfin, Bool.or_self, Bool.false_eq_true, if_false]
  rfl
theorem residencyHold_waits (hwait : (w.req none).waiting = true) : exec (.residencyHold w.id i) s = .next s := by
  rw [exec_residencyHold hw hj hres hfin, State.request, if_pos hwait]
theorem residencyHold_done {t : State} {held : List Nat} (hwait : (w.req none).waiting = false)
    (hhold : s.hold w.ctx w.launchSpans (w.req none).held = .done t held) :
    Does (.residencyHold w.id i) s fun u => u.home = t.home ∧ u.units = s.units ∧ ∃ x, u.work? w.id = some x ∧ x.winResident = true ∧
      x.pos = w.pos ∧ (x.req none).held = held := by
  obtain ⟨home, hhome⟩ := homeOnly_hold hhold
  replace hhome : t = { s with home := home } := hhome
  have hwt : t.work? w.id = some w := by rw [hhome]; exact hw
  have hsaved := work?_modWork_self hwt (f := fun x => x.setReq { w.req none with held := held, posted := none }) fun _ => rfl
  have hreq : s.request w none w.launchSpans (fun t => t.modWork w.id fun x => { x with winResident := true })
      (fun p t => t.failLaunch w p) = (t.modWork w.id fun x => x.setReq { w.req none with held := held, posted := none }).modWork w.id
        fun x => { x with winResident := true } := by
    rw [State.request, if_neg (by simp [hwait]), hhold]
  refine ⟨_, (exec_residencyHold hw hj hres hfin i).trans (congrArg _ hreq), rfl, by rw [hhome]; rfl, _,
    work?_modWork_self hsaved fun _ => rfl, rfl, rfl, ?_⟩
  have hget := req_setReq w { w.req none with held := held, posted := none }
  rw [show ({ w.req none with held := held, posted := none } : Req).who = none from who_req w none] at hget
  exact congrArg Req.held hget
theorem residencyHold_missing {t : State} {held : List Nat} {ia : Nat} (hwait : (w.req none).waiting = false)
    (hhold : s.hold w.ctx w.launchSpans (w.req none).held = .missing t held ia) :
    Does (.residencyHold w.id i) s fun u => u.units.length = s.units.length ∧ ∃ x, u.work? w.id = some x ∧ x.winResident = false ∧
      (x.req none).waiting = true ∧ ((w.req none).posted ≠ some ia → u.irqs = (32 + w.queue) :: s.irqs) ∧
      ((w.req none).posted = some ia → u.irqs = s.irqs) := by
  obtain ⟨home, hhome⟩ := homeOnly_hold hhold
  replace hhome : t = { s with home := home } := hhome
  have hreq : s.request w none w.launchSpans (fun t => t.modWork w.id fun x => { x with winResident := true })
      (fun p t => t.failLaunch w p) =
        State.modWork (if (w.req none).posted == some ia then t else t.postTask w.queue (plainRecord 0x30 w.launchid ia 0)) w.id
          fun x => x.setReq { w.req none with held := held, posted := some ia, waiting := true } := by
    rw [State.request, if_neg (by simp [hwait]), hhold]
  have hget := req_setReq w { w.req none with held := held, posted := some ia, waiting := true }
  rw [show ({ w.req none with held := held, posted := some ia, waiting := true } : Req).who = none from who_req w none] at hget
  have hasks (t' : State) (hu : t'.units = s.units) (hwk : t'.works = s.works) :
      let u := t'.modWork w.id fun x => x.setReq { w.req none with held := held, posted := some ia, waiting := true }
      u.units.length = s.units.length ∧ ∃ x, u.work? w.id = some x ∧ x.winResident = false ∧ (x.req none).waiting = true :=
    ⟨congrArg List.length hu, _, work?_modWork_self ((work?_congr hwk _).trans hw) fun _ => rfl, hres, congrArg Req.waiting hget⟩
  refine ⟨_, (exec_residencyHold hw hj hres hfin i).trans (congrArg _ hreq), ?_⟩
  by_cases hp : (w.req none).posted = some ia
  · obtain ⟨hunits, x, hx, hwin, hwaits⟩ := hasks t (by rw [hhome]) (by rw [hhome])
    rw [if_pos (beq_iff_eq.2 hp)]
    exact ⟨hunits, x, hx, hwin, hwaits, fun h => absurd hp h, fun _ => by rw [hhome]; rfl⟩
  · have hpost := posted_postTask t w.queue (plainRecord 0x30 w.launchid ia 0)
    obtain ⟨hunits, x, hx, hwin, hwaits⟩ := hasks _ (hpost.units.trans (by rw [hhome])) (hpost.works.trans (by rw [hhome]))
    rw [if_neg (by simpa using hp)]
    exact ⟨hunits, x, hx, hwin, hwaits, fun _ => hpost.irqs.trans (by rw [hhome]; rfl), fun h => absurd h hp⟩
end

/-! ### What reading through the map depends on (R348, R349) -/

section
variable {s t : State} (hh : t.home = s.home) (ht : t.tick = s.tick) (hc : t.ctxs = s.ctxs)
include hh hc
theorem mapAddr_congr (ctx va n : Nat) : t.mapAddr ctx va n = s.mapAddr ctx va n := by
  have hctx : t.ctx ctx = s.ctx ctx := by rw [State.ctx, hc]; rfl
  have hentry (k : Nat) : t.mapEntry ctx k = s.mapEntry ctx k := by
    unfold State.mapEntry State.mapEntryAt
    rw [hh, hctx]
  have hfind (spans : List (Nat × Nat)) (ns : List Nat) : t.mapFind ctx spans ns = s.mapFind ctx spans ns := by
    induction ns with
    | nil => rfl
    | cons k ns ih => simp only [State.mapFind, hentry, ih]
  simp only [State.mapAddr, State.mapOf, hfind, hctx]
include ht
theorem readVA_congr (ctx va n : Nat) : t.readVA ctx va n = s.readVA ctx va n := by
  have hlocal (a n : Nat) : t.readLocal ctx a n = s.readLocal ctx a n := by
    simp only [State.readLocal, translate_congr hh ht hc, hh]
  have hspan (sp : Space) (a : Nat) : t.readSpan ctx sp a n = s.readSpan ctx sp a n := by
    cases sp <;> simp only [State.readSpan, hlocal, hh]
  simp only [State.readVA, mapAddr_congr hh hc, hspan]
end

/-! ### Filing the threads of a placed unit (R94, R469, R479) -/

/-- A state in which the cores alone may have changed. -/
def State.coresOnly (s t : State) : Prop := ∃ cs, t = { s with cores := cs }
theorem coresOnly_refl (s : State) : s.coresOnly s := ⟨s.cores, rfl⟩
theorem coresOnly_trans {s t r : State} (h : s.coresOnly t) (k : t.coresOnly r) : s.coresOnly r := by
  obtain ⟨c, rfl⟩ := h
  obtain ⟨d, rfl⟩ := k
  exact ⟨d, rfl⟩
theorem coresOnly_foldl {α : Type} {g : State → α → State} (hg : ∀ (t : State) x, t.coresOnly (g t x)) (xs : List α) (s : State) :
    s.coresOnly (xs.foldl g s) :=
  List.foldlRecOn (motive := s.coresOnly) xs g (coresOnly_refl s) fun _ ht x _ => coresOnly_trans ht (hg _ x)
theorem coresOnly_modCore (s : State) (c : Nat) (f : Core → Core) : s.coresOnly (s.modCore c f) := by
  unfold State.modCore
  split
  · exact ⟨_, rfl⟩
  · exact ⟨_, rfl⟩
theorem coresOnly_file (s : State) (u wg core : Nat) (ts : List (Nat × Nat)) (due ready : Nat) (noFull : Bool) :
    s.coresOnly (s.file u wg core ts due ready noFull) := by
  unfold State.file
  refine coresOnly_foldl (fun t x => ?_) _ s
  dsimp only
  split
  · unfold State.fileNow
    dsimp only
    split
    · exact coresOnly_modCore ..
    · exact coresOnly_refl t
  · exact coresOnly_modCore ..
theorem coresOnly_startSampler (s : State) (ctx core : Nat) : s.coresOnly (s.startSampler ctx core) := by
  unfold State.startSampler
  dsimp only
  split
  · exact coresOnly_refl s
  · exact coresOnly_modCore ..
theorem coresOnly_fileUnit (s : State) (id : Nat) : s.coresOnly (s.fileUnit id) := by
  unfold State.fileUnit
  split
  · exact coresOnly_refl s
  · exact coresOnly_foldl (fun t x => coresOnly_trans (coresOnly_file ..) (coresOnly_startSampler ..)) _ s

/-! ### A unit committed (R330, R475) -/

theorem loadCode_reads {s : State} {u : Placed} (h : codeReads s u.cfg u.ctx) : s.loadCode u = s ∨
    ∃ bs, s.loadCode u = s.modUnit u.id fun u => { u with code := memWrite [] 0 bs, fetched := none } := by
  unfold State.loadCode
  by_cases hbig : u.cfg.codesize > 16384
  · exact .inl (if_pos hbig)
  · obtain ⟨bs, hbs⟩ := h (Nat.not_lt.1 hbig)
    refine .inr ⟨bs, ?_⟩
    rw [if_neg hbig, hbs]
theorem takeHits_keeps (s : State) (unit wg : Nat) (precise : Bool) (pc : VAddr) (hits : List (Nat × Hit)) :
    (s.takeHits unit wg precise pc hits).works = s.works ∧ (s.takeHits unit wg precise pc hits).units.length = s.units.length := by
  cases hu : s.unit? unit with
  | none => simp only [State.takeHits, hu, and_self]
  | some u =>
    by_cases hst : u.state = .ended ∨ u.state = .saved
    · rw [takeHits_ended hu hst]
      exact ⟨rfl, rfl⟩
    · obtain ⟨h1, h2⟩ := not_or.1 hst
      obtain ⟨w, r, -, ht, hposted⟩ := takeHits_posted hu h1 h2 wg precise pc hits
      rw [ht]
      exact ⟨hposted.works, (List.length_map _).trans (congrArg List.length hposted.units)⟩
theorem loadCode_keeps (s : State) (u : Placed) : (s.loadCode u).works = s.works ∧ (s.loadCode u).units.length = s.units.length := by
  unfold State.loadCode
  split
  · exact ⟨rfl, rfl⟩
  · split
    · exact ⟨rfl, List.length_map _⟩
    · exact ⟨rfl, rfl⟩
    · exact takeHits_keeps ..
/-- The state in which a unit exists and its PLACE record is made, before its code is loaded. -/
def State.entered (s : State) (a : PlaceArgs) : State :=
  let u := unitOf s a
  let t : State := { s with nextId := s.nextId + 1, units := s.units ++ [u], left := s.left.filter (!·.coresMeet a.cores) }
  t.trace taskSrc u.ctx 2 (traceBits (s.clockOf .task) 0 u.idx 0 u.ctx 0 0 0 3)
theorem commit_eq (s : State) (a : PlaceArgs) : s.commit a = ((s.entered a).loadCode (unitOf s a)).fileUnit s.nextId := rfl
theorem entered_eq (s : State) (a : PlaceArgs) : ∃ w, s.entered a = { s with
    nextId := s.nextId + 1, units := s.units ++ [unitOf s a], left := s.left.filter (!·.coresMeet a.cores), watch := w } := by
  unfold State.entered State.trace
  dsimp only
  split
  · exact ⟨_, rfl⟩
  · exact ⟨s.watch, rfl⟩
theorem commit_keeps (s : State) (a : PlaceArgs) :
    (s.commit a).works = s.works ∧ (s.commit a).units.length = s.units.length + 1 := by
  obtain ⟨w, hw⟩ := entered_eq s a
  obtain ⟨hworks, hunits⟩ := loadCode_keeps (s.entered a) (unitOf s a)
  obtain ⟨cs, hcs⟩ := coresOnly_fileUnit ((s.entered a).loadCode (unitOf s a)) s.nextId
  rw [commit_eq, hcs]
  exact ⟨hworks.trans (by rw [hw]), hunits.trans (by rw [hw]; exact List.length_append)⟩
/-- A unit whose code can be read is seated. -/
theorem commit_seats {s : State} {a : PlaceArgs} (h : codeReads s a.work.cfg a.work.ctx) : seats s (s.commit a) a := by
  obtain ⟨w, hw⟩ := entered_eq s a
  have hcode : codeReads (s.entered a) (unitOf s a).cfg (unitOf s a).ctx := fun hsize => by
    rw [readVA_congr (s := s) (by rw [hw]) (by rw [hw]) (by rw [hw])]
    exact h hsize
  obtain ⟨cs, hcs⟩ := coresOnly_fileUnit ((s.entered a).loadCode (unitOf s a)) s.nextId
  rw [commit_eq, hcs]
  rcases loadCode_reads hcode with hload | ⟨bs, hload⟩
  · rw [hload, hw]
    exact ⟨rfl, rfl, List.length_append, fun v hv _ => List.mem_append_left _ hv, _, _, List.getLast?_concat⟩
  · rw [hload, hw]
    refine ⟨rfl, rfl, (List.length_map _).trans List.length_append, fun v hv hne => ?_, memWrite [] 0 bs, none, ?_⟩
    · refine List.mem_map.2 ⟨v, List.mem_append_left _ hv, if_neg fun h => hne (beq_iff_eq.1 h)⟩
    · have hself : (unitOf s a).id == (unitOf s a).id := beq_self_eq_true _
      simp only [State.modUnit, List.map_append, List.map_cons, List.map_nil, hself, if_true]
      exact List.getLast?_concat

/-! ### Clusters placed (R328 to R331, R349, R382 to R384) -/

/-- The units and the memory of a state in which a unit has been seated say that it has been. -/
theorem seats_congr {s t r : State} {a : PlaceArgs} (h : seats s t a) (hh : ∃ c, r.home = { t.home with tlb := c })
    (hn : r.nextId = t.nextId) (hu : r.units = t.units) : seats s r a := by
  obtain ⟨hhome, hnext, hlen, hkeep, hlast⟩ := h
  obtain ⟨c, hc⟩ := hh
  exact ⟨by rw [hc, hhome], hn.trans hnext, hu ▸ hlen, hu ▸ hkeep, hu ▸ hlast⟩
theorem natGet_natSet_self (m : NatMap) (a : Nat) {v : Nat} (hv : v ≠ 0) : natGet (natSet m a v) a = v := by
  induction m with
  | nil => simp [natSet, natGet, hv]
  | cons x m ih =>
    obtain ⟨b, w⟩ := x
    simp only [natSet, hv, if_false]
    split
    · simp [natGet]
    · split
      · simp [natGet]
      · next hlt hne => simp [natGet, hlt, hne, ih]
/-- The unit that a placement of a cluster makes. -/
def State.clusterArgs (s : State) (w : Work) (n pcl slot : Nat) (ws : List Window) : PlaceArgs :=
  ⟨w, w.virt n, ws ++ List.replicate 8 Window.unused, none, 0, (s.fitting w.cfg pcl).take w.cfg.csize, pcl, slot, false⟩
theorem codeReady_of_reads {s : State} {ctx : Nat} {c : LaunchCfg} (h : codeReads s c ctx) : s.codeReady ctx c = true := by
  unfold State.codeReady
  by_cases hbig : c.codesize > 16384
  · simp [hbig]
  · obtain ⟨bs, hbs⟩ := h (Nat.not_lt.1 hbig)
    rw [hbs]
    exact Bool.or_true _
theorem placeAt_eq {s : State} {w : Work} {ws : List Window} {slot : Nat} (hws : s.launchWins w = .ok ws)
    (hslot : s.freeSave w.ctx = some slot) (hcode : codeReads s w.cfg w.ctx) (n pcl : Nat) :
    s.placeAt w n pcl = some (((s.commit (s.clusterArgs w n pcl slot ws)).modWork w.id fun x => x.setPos n .placed).cacheRecs w.ctx
      (placeSpans w)) := by
  simp only [State.placeAt, State.commitAt, hws, hslot, codeReady_of_reads hcode, Bool.not_true, Bool.false_eq_true, if_false]
  rfl
theorem placeAt_seats {s : State} {w : Work} {ws : List Window} {slot : Nat} (hws : s.launchWins w = .ok ws)
    (hslot : s.freeSave w.ctx = some slot) (hcode : codeReads s w.cfg w.ctx) (n pcl : Nat) :
    ∃ t, s.placeAt w n pcl = some t ∧ seats s t (s.clusterArgs w n pcl slot ws) := by
  obtain ⟨c, hc⟩ := cacheRecs_caches ((s.commit (s.clusterArgs w n pcl slot ws)).modWork w.id fun x => x.setPos n .placed) w.ctx
    (placeSpans w)
  refine ⟨_, placeAt_eq hws hslot hcode n pcl, seats_congr (commit_seats hcode) ⟨c, ?_⟩ ?_ ?_⟩
  · rw [hc]; rfl
  · rw [hc]; rfl
  · rw [hc]; rfl
theorem placeAt_keeps {s t : State} {w y : Work} {n pcl : Nat} (h : s.placeAt w n pcl = some t) (hy : s.work? w.id = some y) :
    t.work? w.id = some (y.setPos n .placed) ∧ t.units.length = s.units.length + 1 := by
  have hkeeps (a : PlaceArgs) : let t := ((s.commit a).modWork w.id fun x => x.setPos n .placed).cacheRecs w.ctx (placeSpans w)
      t.work? w.id = some (y.setPos n .placed) ∧ t.units.length = s.units.length + 1 := by
    obtain ⟨hworks, hunits⟩ := commit_keeps s a
    obtain ⟨c, hc⟩ := cacheRecs_caches ((s.commit a).modWork w.id fun x => x.setPos n .placed) w.ctx (placeSpans w)
    intro t
    refine ⟨?_, (congrArg (fun r : State => r.units.length) hc).trans hunits⟩
    rw [work?_congr (congrArg State.works hc)]
    exact work?_modWork_self ((work?_congr hworks _).trans hy) fun _ => rfl
  unfold State.placeAt State.commitAt at h
  split at h
  · split at h
    · cases h
    · cases h
      exact hkeeps _
  · cases h
section
variable {s : State} {w : Work} (hw : s.work? w.id = some w)
include hw
theorem exec_clusterPlace {n pcl : Nat} (hn : s.gridNext w = some n) (hpcl : s.choose w.cfg = some pcl) (hp : s.topPriority w = true)
    (ht : s.itsTurn w = true) (hok : (s.launchWins w).failed = none) {t : State} (hplace : s.placeAt w n pcl = some t) :
    exec (.clusterPlace w.id) s = .next { t.tookTurn w with lastPcl := some pcl } := by
  change execClusterPlace w.id s = _
  simp only [execClusterPlace, hw, hn, hpcl, hp, ht, hok, hplace, Bool.not_true, Bool.or_self, Bool.false_eq_true, if_false]
theorem clusterPlace_waits (h : s.topPriority w = false ∨ s.itsTurn w = false ∨ s.choose w.cfg = none) :
    exec (.clusterPlace w.id) s = .next s := by
  change execClusterPlace w.id s = _
  simp only [execClusterPlace, hw]
  cases s.gridNext w with
  | none => rfl
  | some n =>
    cases hpcl : s.choose w.cfg with
    | none => rfl
    | some pcl =>
      have hnot : (!s.topPriority w || !s.itsTurn w) = true := by
        rcases h with h | h | h
        · simp [h]
        · simp [h]
        · rw [hpcl] at h
          cases h
      simp only [hnot, if_true]
section
variable {a : Nat} {ranks : List Nat} (hn : s.waveNext w = some (a, ranks)) (hp : s.topPriority w = true) (ht : s.itsTurn w = true)
  (hok : (s.launchWins w).failed = none)
include hn hp ht hok
theorem exec_wavePlace {t : State} (hplace : s.placeWave w a ranks = some t) : exec (.wavePlace w.id) s =
    .next ((t.tookTurn w).modWork w.id fun x => { x with waveA := some a, wave := x.wave + 1 }) := by
  change execWavePlace w.id s = _
  simp only [execWavePlace, hw, hn, hp, ht, hok, hplace, Bool.not_true, Bool.or_self, Bool.false_eq_true, if_false]
theorem wavePlace_waits (hplace : s.placeWave w a ranks = none) : exec (.wavePlace w.id) s = .next s := by
  change execWavePlace w.id s = _
  simp only [execWavePlace, hw, hn, hp, ht, hok, hplace, Bool.not_true, Bool.or_self, Bool.false_eq_true, if_false]
end
end
/-- The positions of a launch whose ranks have been placed. -/
def placedAt (ranks : List Nat) (pos : List PosState) : List PosState := ranks.foldl (fun ps r => modAt ps r fun _ => .placed) pos
theorem placedAt_getElem? {ranks : List Nat} {pos : List PosState} {r : Nat} (hr : r ∈ ranks) (hlt : r < pos.length) :
    (placedAt ranks pos)[r]? = some .placed := by
  refine (foldl_modAt_idem (f := fun _ _ => PosState.placed) (fun _ _ => rfl) ranks pos r).trans ?_
  rw [if_pos hr, List.getElem?_eq_getElem hlt]
  rfl
/-- A wave seats a unit for each of its ranks. -/
theorem placeWave_keeps {w : Work} {a : Nat} {ranks : List Nat} {s t : State} {y : Work} (h : s.placeWave w a ranks = some t)
    (hy : s.work? w.id = some y) :
    t.work? w.id = some { y with pos := placedAt ranks y.pos } ∧ t.units.length = s.units.length + ranks.length := by
  induction ranks generalizing s y with
  | nil =>
    cases h
    exact ⟨hy, rfl⟩
  | cons r rs ih =>
    obtain ⟨t', hplace, hrest⟩ := Option.bind_eq_some_iff.1 h
    obtain ⟨pcl, -, hplace⟩ := Option.bind_eq_some_iff.1 hplace
    obtain ⟨hwork, hlen⟩ := placeAt_keeps hplace hy
    obtain ⟨hwork', hlen'⟩ := ih hrest hwork
    exact ⟨hwork', by rw [hlen', hlen, List.length_cons]; omega⟩
theorem waveNext_lt {s : State} {w : Work} {a : Nat} {ranks : List Nat} (h : s.waveNext w = some (a, ranks)) :
    ∀ r ∈ ranks, r < w.pos.length := by
  unfold State.waveNext at h
  split at h
  · cases h
  · dsimp only at h
    split at h
    · cases h
    · cases h
      exact fun r hr => of_decide_eq_true (List.mem_filter.1 hr).2

theorem tookTurn_eq {w : Work} (hj : w.job = none) (s : State) :
    s.tookTurn w = { s with turns := natSet s.turns w.cfg.priority (w.queue + 1) } := by
  simp [State.tookTurn, hj]

/-- Settles O54: a request for a launch's pages changes the Home engine alone (`homeOnly_hold`), a cluster is committed with its unit
seated (`commit_seats`), and a wave is so for each of its ranks (`placeWave_keeps`). -/
theorem gridPlacement : Obligations.GridPlacement := by
  unfold Obligations.GridPlacement
  intro s w hw hj
  refine ⟨fun i hres hfin => ?resident, ?cluster, clusterPlace_waits hw, fun a ranks hn hp ht hok =>
    ⟨fun hplaced => ?wave, wavePlace_waits hw hn hp ht hok⟩⟩
  case resident =>
    exact ⟨fun t held hwait hhold => residencyHold_done hw hj hres hfin i hwait hhold,
      fun t held ia hwait hhold => residencyHold_missing hw hj hres hfin i hwait hhold, residencyHold_waits hw hj hres hfin i⟩
  case cluster =>
    intro n pcl slot ws hn hpcl hp ht hws hslot hcode
    obtain ⟨t, hplace, hseats⟩ := placeAt_seats hws hslot hcode n pcl
    have hexec := exec_clusterPlace hw hn hpcl hp ht (by rw [hws]; rfl) hplace
    obtain ⟨hwork, -⟩ := placeAt_keeps hplace hw
    rw [tookTurn_eq hj] at hexec
    exact ⟨_, hexec, rfl, hwork, natGet_natSet_self _ _ (Nat.succ_ne_zero _), seats_congr hseats ⟨t.home.tlb, rfl⟩ rfl rfl⟩
  case wave =>
    obtain ⟨t, ht'⟩ := Option.isSome_iff_exists.1 hplaced
    obtain ⟨hwork, hlen⟩ := placeWave_keeps ht' hw
    have hexec := exec_wavePlace hw hn hp ht hok ht'
    rw [tookTurn_eq hj] at hexec
    exact ⟨_, hexec, hlen, _, work?_modWork_self hwork fun _ => rfl, rfl, rfl,
      fun r hr => placedAt_getElem? hr (waveNext_lt hn r hr)⟩

end Sys2Proof.Machine
end

section
/-! Proofs of the integer, logic, shift, bit-field, compare, predicate, select and move instructions (R121 to R128). -/

namespace Sys2Proof.Machine

/-! ### Results of a lane and the masks of what it reads (R115, R116) -/

theorem put_eq_plain (c : LaneCtx) (d : GNum) (srcs : List RegName) (v : Word) :
    c.put d srcs v = c.plain d (c.th.maskOf srcs) v := rfl
theorem maskOf_g (t : Thread) (a : Nat) : t.maskOf [.g a] = (t.gr a).mask := by
  simp [Thread.maskOf]
theorem maskOf_p (t : Thread) (p : Nat) : t.maskOf [.p p] = (t.pr p).mask := by
  simp [Thread.maskOf]
theorem maskOf_gg (t : Thread) (a b : Nat) : t.maskOf [.g a, .g b] = (t.gr a).mask ||| (t.gr b).mask := by
  simp [Thread.maskOf]
theorem maskOf_pp (t : Thread) (p q : Nat) : t.maskOf [.p p, .p q] = (t.pr p).mask ||| (t.pr q).mask := by
  simp [Thread.maskOf]
theorem maskOf_ggg (t : Thread) (a b d : Nat) :
    t.maskOf [.g a, .g b, .g d] = (t.gr a).mask ||| (t.gr b).mask ||| (t.gr d).mask := by
  simp [Thread.maskOf]
theorem maskOf_ggp (t : Thread) (a b p : Nat) :
    t.maskOf [.g a, .g b, .p p] = (t.gr a).mask ||| (t.gr b).mask ||| (t.pr p).mask := by
  simp [Thread.maskOf]

/-- An instruction that writes given registers, and neither faults nor reads a register by an index. -/
theorem alu_writes {i : Instr} {lat : Option Nat} {f : LaneCtx → LaneOut} (ws : LaneCtx → List RegWrite)
    (he : exec i = aluIssue i lat f) (hf : ∀ c, f c = .ok (ws c)) : AluGives i lat fun c => .ok (ws c) :=
  alu_gives he hf (fun _ => rfl) fun _ => rfl
/-- An instruction whose result has no tangents gives the value of which the sources' masks are joined. -/
theorem alu_plain {i : Instr} {lat : Option Nat} {d : GNum} {srcs : LaneCtx → List RegName} {m : LaneCtx → Mask}
    {v w : LaneCtx → Word} (he : exec i = aluIssue i lat fun c => c.put d (srcs c) (v c))
    (hm : ∀ c, c.th.maskOf (srcs c) = m c) (hv : ∀ c, v c = w c) : AluGives i lat fun c => c.plain d (m c) (w c) :=
  alu_gives he (fun c => by rw [put_eq_plain, hm, hv]) (fun _ => rfl) fun _ => rfl
theorem alu_put1 {i : Instr} {lat : Option Nat} {d a : GNum} {v w : LaneCtx → Word}
    (he : exec i = aluIssue i lat fun c => c.put1 d a (v c)) (hv : ∀ c, v c = w c) :
    AluGives i lat fun c => c.plain d (c.gm a) (w c) :=
  alu_plain he (fun c => maskOf_g c.th a.toNat) hv
theorem alu_put2 {i : Instr} {lat : Option Nat} {d a b : GNum} {v w : LaneCtx → Word}
    (he : exec i = aluIssue i lat fun c => c.put2 d a b (v c)) (hv : ∀ c, v c = w c) :
    AluGives i lat fun c => c.plain d (c.gm a ||| c.gm b) (w c) :=
  alu_plain he (fun c => maskOf_gg c.th a.toNat b.toNat) hv
theorem alu_put3 {i : Instr} {lat : Option Nat} {d a b : GNum} {v w : LaneCtx → Word}
    (he : exec i = aluIssue i lat fun c => c.put3 d a b (v c)) (hv : ∀ c, v c = w c) :
    AluGives i lat fun c => c.plain d (c.gm a ||| c.gm b ||| c.gm d) (w c) :=
  alu_plain he (fun c => maskOf_ggg c.th a.toNat b.toNat d.toNat) hv

/-- An instruction whose lanes each check `ok` gives `g` where every lane meets it, and takes the fault of the others. -/
theorem alu_checked {i : Instr} {lat : Option Nat} {f g : LaneCtx → LaneOut} {code : Nat} {ok : LaneCtx → Bool}
    {det0 : LaneCtx → Nat} {regs : LaneCtx → List RegName} (he : exec i = aluIssue i lat f)
    (hok : ∀ c, ok c = true → f c = { g c with waits := regs c }) (hbad : ∀ c, ok c = false → f c = .bad code (det0 c) 0)
    (hg : ∀ c, (g c).fault = none) : AluGivesWhen i lat ok regs g ∧ LanesFault i code ok det0 := by
  have hfault : ∀ c, ok c = true → (f c).fault = none := fun c hc => by rw [hok c hc]; exact hg c
  refine ⟨alu_gives_when he (fun c hc => ?_) hfault fun c hc => ?_, lanes_fault he (fun c hc => ?_) hfault⟩
  · rw [hok c hc]
    exact ⟨rfl, rfl, rfl⟩
  · rw [hok c hc]
  · rw [hbad c hc]
    rfl

/-! ### Integers of a type, results of SAT, immediates (R65, R120 to R122) -/

theorem int_eq_asInt (c : LaneCtx) (t : ITy) (n : GNum) : c.int t n = asInt t (c.g n) := by
  cases t <;> rfl
theorem ofInt_asInt (t : ITy) (v : Word) : BitVec.ofInt 32 (asInt t v) = v := by
  cases t
  · exact BitVec.ofInt_toInt
  · simp [asInt]
theorem asInt_inj {t : ITy} {v w : Word} : asInt t v = asInt t w ↔ v = w :=
  ⟨fun h => by rw [← ofInt_asInt t v, h, ofInt_asInt], fun h => h ▸ rfl⟩
/-- R121: what is wrapped into the range of a type has the bits of the exact integer. -/
theorem ofInt_intRange_wrap (signed : Bool) (v : Int) : BitVec.ofInt 32 (intRange 32 signed false v) = BitVec.ofInt 32 v := by
  apply BitVec.eq_of_toNat_eq
  simp only [intRange, Bool.false_eq_true, if_false, BitVec.toNat_ofInt]
  split <;> omega
theorem modInt_eq_intResult (sat : Bool) (t : ITy) (v : Int) : modInt sat t v = intResult sat t v := by
  cases sat
  · exact ofInt_intRange_wrap (t == .i32) v
  · cases t <;> rfl
theorem immValue_none {w : Nat} {hs : Hints} {f : BitVec w} (h : hs.imm = none) : immValue hs f = f.toInt := by
  simp only [immValue, h]
theorem immValue_some {w : Nat} {hs : Hints} {f : BitVec w} {p : BitVec 25} (h : hs.imm = some p) :
    immValue hs f = (p ++ f).toInt := by
  have happ : (p ++ f) = BitVec.ofNat (25 + w) (p.toNat * 2 ^ w + f.toNat) := by
    apply BitVec.eq_of_toNat_eq
    rw [← Nat.shiftLeft_eq, Nat.shiftLeft_add_eq_or_of_lt f.isLt, ← BitVec.toNat_append, BitVec.ofNat_toNat, BitVec.setWidth_eq]
  simp only [immValue, h, happ]
theorem imm32_i32 (hs : Hints) (f : BitVec 11) : BitVec.ofInt 32 (imm32 hs .i32 f) = BitVec.ofInt 32 (immValue hs f) :=
  BitVec.ofInt_toInt
/-- R123: bits [63:32] of the exact product, read from its 64 bits. -/
theorem ofInt_div_eq_extractLsb' (v : Int) :
    BitVec.ofInt 32 (v / ((2 ^ 32 : Nat) : Int)) = (BitVec.ofInt 64 v).extractLsb' 32 32 := by
  apply BitVec.eq_of_toNat_eq
  simp only [BitVec.toNat_ofInt, BitVec.extractLsb'_toNat, Nat.shiftRight_eq_div_pow]
  omega

/-- Settles O1: each form puts its exact integer through `modInt` (`modInt_eq_intResult`); IADDI's immediate is told by whether an IMM word
stands before it, and IMULHI divides the exact product. -/
theorem integerArithmetic : Obligations.IntegerArithmetic := by
  unfold Obligations.IntegerArithmetic
  intro d a b h t imm
  refine ⟨alu_put2 rfl fun c => ?_, alu_put2 rfl fun c => ?_, alu_put1 rfl fun c => ?iaddi, alu_put2 rfl fun c => ?_,
    alu_put2 rfl fun c => ?imulhi, alu_put3 rfl fun c => ?_⟩
  case iaddi =>
    simp only [modInt_eq_intResult, int_eq_asInt]
    by_cases hovr : c.mod.ovr = some .n32
    · simp [hovr, imm32, asInt, immNat]
    · cases himm : c.hints.imm with
      | none => simp [hovr, imm32, asInt, immValue_none himm]
      | some p => simp [hovr, imm32, asInt, immValue_some himm]
  case imulhi =>
    simp only [int_eq_asInt]
    exact ofInt_div_eq_extractLsb' _
  all_goals simp only [modInt_eq_intResult, int_eq_asInt]

/-! ### Minimum, maximum and counts (R124) -/

theorem ite_lt_eq_ofInt_min (t : ITy) (x y : Word) :
    (if asInt t y < asInt t x then y else x) = BitVec.ofInt 32 (min (asInt t x) (asInt t y)) := by
  rcases lt_or_ge (asInt t y) (asInt t x) with h | h
  · rw [if_pos h, min_eq_right h.le, ofInt_asInt]
  · rw [if_neg (not_lt.2 h), min_eq_left h, ofInt_asInt]
theorem ite_lt_eq_ofInt_max (t : ITy) (x y : Word) :
    (if asInt t x < asInt t y then y else x) = BitVec.ofInt 32 (max (asInt t x) (asInt t y)) := by
  rcases lt_or_ge (asInt t x) (asInt t y) with h | h
  · rw [if_pos h, max_eq_right h.le, ofInt_asInt]
  · rw [if_neg (not_lt.2 h), max_eq_left h, ofInt_asInt]
/-- The leading zeros of a word end at its highest one bit. -/
theorem leadingZeros_eq_findIdx (w : Word) : leadingZeros w = (List.range 32).findIdx fun i => w.getLsbD (31 - i) := by
  symm
  by_cases h0 : w = 0
  · rw [leadingZeros, if_pos h0]
    exact List.findIdx_eq_length.2 fun i _ => by simp [h0]
  · have hne : w.toNat ≠ 0 := fun h => h0 (BitVec.eq_of_toNat_eq h)
    have hlog : w.toNat.log2 < 32 := (Nat.log2_lt hne).2 w.isLt
    rw [leadingZeros, if_neg h0, List.findIdx_eq (by simp; omega)]
    refine ⟨?_, fun j hj => ?_⟩
    · rw [List.getElem_range, show 31 - (31 - w.toNat.log2) = w.toNat.log2 by omega]
      exact Nat.testBit_log2 hne
    · rw [List.getElem_range]
      exact Nat.testBit_lt_two_pow ((Nat.log2_lt hne).1 (by omega))
theorem sumOf_eq_sum (xs : List Nat) : sumOf xs = xs.sum := List.sum_eq_foldl.symm
theorem sum_map_ite_one (p : Nat → Bool) (xs : List Nat) : (xs.map fun i => if p i then 1 else 0).sum = xs.countP p := by
  induction xs with
  | nil => rfl
  | cons x xs ih => rw [List.map_cons, List.sum_cons, ih, List.countP_cons, add_comm]
theorem popCount_eq_countP (w : Word) : popCount w = (List.range 32).countP fun i => w.getLsbD i := by
  rw [popCount, sumOf_eq_sum, sum_map_ite_one]
theorem neg_eq_ofInt_natAbs (v : Word) : (if v.msb then -v else v) = BitVec.ofInt 32 v.toInt.natAbs := by
  by_cases hneg : v.toInt < 0
  · have habs : (v.toInt.natAbs : Int) = -v.toInt := by omega
    simp [BitVec.msb_eq_toInt, hneg, habs, BitVec.ofInt_neg]
  · have habs : (v.toInt.natAbs : Int) = v.toInt := by omega
    simp [BitVec.msb_eq_toInt, hneg, habs]

/-- Settles O2: the choice of IMIN and IMAX is that of `min` and `max`; CLZ is `leadingZeros_eq_findIdx`. -/
theorem minMaxCounts : Obligations.MinMaxCounts := by
  unfold Obligations.MinMaxCounts
  intro d a b h t
  refine ⟨alu_put2 rfl fun c => ?imin, alu_put2 rfl fun c => ?imax, alu_put1 rfl fun c => ?clz, alu_put1 rfl fun c => ?popc,
    alu_put1 rfl fun _ => rfl, alu_put1 rfl fun c => neg_eq_ofInt_natAbs (c.g a)⟩
  case imin =>
    simp only [int_eq_asInt]
    exact ite_lt_eq_ofInt_min t (c.g a) (c.g b)
  case imax =>
    simp only [int_eq_asInt]
    exact ite_lt_eq_ofInt_max t (c.g a) (c.g b)
  case clz => rw [leadingZeros_eq_findIdx]
  case popc => rw [popCount_eq_countP]

/-! ### Logic and shifts (R125) -/

theorem shlBy_eq (w : Word) (n : Nat) : shlBy w n = w <<< n := by
  by_cases h : n ≥ 32
  · rw [shlBy, if_pos h, BitVec.shiftLeft_eq_zero h]
    rfl
  · rw [shlBy, if_neg h]
theorem shrBy_eq (w : Word) (n : Nat) : shrBy w n = w >>> n := by
  by_cases h : n ≥ 32
  · rw [shrBy, if_pos h, BitVec.ushiftRight_eq_zero h]
    rfl
  · rw [shrBy, if_neg h]
/-- A shift by 31 leaves copies of the sign alone, and so does every greater one. -/
theorem sarBy_eq (w : Word) (n : Nat) : sarBy w n = w.sshiftRight n := by
  by_cases h : n ≤ 31
  · rw [sarBy, min_eq_left h]
  · apply BitVec.eq_of_getLsbD_eq
    intro i hi
    rw [sarBy, min_eq_right (by omega), BitVec.getLsbD_sshiftRight, BitVec.getLsbD_sshiftRight, if_neg (by omega : ¬ n + i < 32)]
    split
    · rw [BitVec.msb_eq_getLsbD_last, show 31 + i = 31 by omega]
    · rfl

/-- Settles O3: an amount of 32 or more shifts everything out, or leaves copies of the sign (`sarBy_eq`). -/
theorem logicAndShifts : Obligations.LogicAndShifts := by
  unfold Obligations.LogicAndShifts
  intro d a b h n
  exact ⟨alu_put2 rfl fun _ => rfl, alu_put2 rfl fun _ => rfl, alu_put2 rfl fun _ => rfl, alu_put2 rfl fun _ => rfl,
    alu_put2 rfl fun _ => shlBy_eq _ _, alu_put2 rfl fun _ => shrBy_eq _ _, alu_put2 rfl fun _ => sarBy_eq _ _,
    alu_put2 rfl fun _ => BitVec.rotateLeft_mod_eq_rotateLeft,
    alu_put1 rfl fun _ => shlBy_eq _ _, alu_put1 rfl fun _ => shrBy_eq _ _, alu_put1 rfl fun _ => sarBy_eq _ _⟩

/-! ### Bit fields (R126) -/

theorem bitsOf_toNat {n : Nat} (v : BitVec n) (pos w : Nat) : bitsOf v.toNat pos w = (v.extractLsb' pos w).toNat := by
  rw [bitsOf, BitVec.extractLsb'_toNat, Nat.shiftRight_eq_div_pow]
theorem bitOf_eq_testBit (v i : Nat) : bitOf v i = v.testBit i := by
  rw [bitOf, Nat.testBit_eq_decide_div_mod_eq]
  rfl
/-- The signed value of a code of `w` bits. -/
theorem intOfCode_toNat {w : Nat} (x : BitVec w) : intOfCode w true x.toNat = x.toInt := by
  rw [BitVec.toInt_eq_msb_cond, BitVec.msb_eq_getLsbD_last, intOfCode, Nat.mod_eq_of_lt x.isLt, bitOf_eq_testBit]
  rfl
/-- R126: the bits of a word whose field of `w` bits at `pos` is replaced by the low bits of another. -/
theorem testBit_replace (old new pos w i : Nat) :
    (old - bitsOf old pos w * 2 ^ pos + new % 2 ^ w * 2 ^ pos).testBit i =
      if pos ≤ i ∧ i < pos + w then new.testBit (i - pos) else old.testBit i := by
  have hlow : old % 2 ^ pos < 2 ^ pos := Nat.mod_lt _ (Nat.two_pow_pos pos)
  have hnew : new % 2 ^ w < 2 ^ w := Nat.mod_lt _ (Nat.two_pow_pos w)
  have hold : old = 2 ^ pos * (2 ^ w * (old / 2 ^ pos / 2 ^ w) + bitsOf old pos w) + old % 2 ^ pos := by
    rw [bitsOf, Nat.div_add_mod, Nat.div_add_mod]
  have hval : old - bitsOf old pos w * 2 ^ pos + new % 2 ^ w * 2 ^ pos =
      2 ^ pos * (2 ^ w * (old / 2 ^ pos / 2 ^ w) + new % 2 ^ w) + old % 2 ^ pos := by
    rw [mul_add] at hold ⊢
    rw [mul_comm (bitsOf old pos w), mul_comm (new % 2 ^ w)]
    omega
  rw [hval, Nat.testBit_two_pow_mul_add _ hlow, Nat.testBit_two_pow_mul_add _ hnew, Nat.testBit_mod_two_pow, Nat.testBit_mod_two_pow]
  simp only [Nat.testBit_div_two_pow]
  by_cases h1 : i < pos
  · simp [h1, show ¬ pos ≤ i by omega]
  · by_cases h2 : i - pos < w
    · simp [h1, h2, show pos ≤ i ∧ i < pos + w by omega]
    · have : i - pos - w + w + pos = i := by omega
      simp [h1, h2, show ¬ (pos ≤ i ∧ i < pos + w) by omega, this]

/-- Settles O4: a field is read by `extractLsb'`, as a number or in two's complement, and BFI replaces it (`testBit_replace`). -/
theorem bitFields : Obligations.BitFields := by
  unfold Obligations.BitFields
  intro d a pos wm1 _
  refine ⟨alu_put1 rfl fun c => ?unsigned, alu_put1 rfl fun c => ?signed,
    alu_plain rfl (fun c => maskOf_gg c.th a.toNat d.toNat) fun c => ?insert⟩
  case unsigned =>
    rw [fieldOf, bitsOf_toNat, BitVec.ofNat_toNat]
  case signed =>
    rw [fieldOf, bitsOf_toNat, intOfCode_toNat]
    rfl
  case insert =>
    apply BitVec.eq_of_getLsbD_eq
    intro i hi
    rw [BitVec.getLsbD_ofNat, fieldOf, testBit_replace, BitVec.getLsbD_ofFnLE]
    simp only [hi, decide_true, Bool.true_and, dif_pos, show i < pos.toNat + (wm1.toNat + 1) ↔ i ≤ pos.toNat + wm1.toNat by omega]
    rfl

/-! ### Predicates and moves (R127, R128) -/

theorem icondHolds_lt (t : ITy) (x y : Word) : icondHolds t .lt x y = decide (asInt t x < asInt t y) := by
  cases t
  · rfl
  · simp [icondHolds, BitVec.ult, asInt]
theorem beq_eq_decide_asInt (t : ITy) (x y : Word) : (x == y) = decide (asInt t x = asInt t y) := by
  rw [decide_eq_decide.2 asInt_inj]
  rfl
theorem icondHolds_le (t : ITy) (x y : Word) : icondHolds t .le x y = decide (asInt t x ≤ asInt t y) := by
  have h : icondHolds t .le x y = (icondHolds t .lt x y || x == y) := rfl
  rw [h, icondHolds_lt, beq_eq_decide_asInt t, ← Bool.decide_or, decide_eq_decide, le_iff_lt_or_eq]
theorem icondHolds_gt (t : ITy) (x y : Word) : icondHolds t .gt x y = decide (asInt t x > asInt t y) := by
  have h : icondHolds t .gt x y = !(icondHolds t .lt x y || x == y) := (Bool.not_or _ _).symm
  rw [h, icondHolds_lt, beq_eq_decide_asInt t, ← Bool.decide_or, ← decide_not, decide_eq_decide, ← le_iff_lt_or_eq, not_le]
theorem icondHolds_ge (t : ITy) (x y : Word) : icondHolds t .ge x y = decide (asInt t x ≥ asInt t y) := by
  have h : icondHolds t .ge x y = !icondHolds t .lt x y := rfl
  rw [h, icondHolds_lt, ← decide_not, decide_eq_decide, not_lt]
theorem lutBit_eq (lut : BitVec 4) (p q : Bool) : lutBit lut p q = lut.getLsbD (2 * p.toNat + q.toNat) := by
  cases p <;> cases q <;> rfl
/-- R128: SEL takes its value and tangents from one source, and joins the masks of both and of its predicate. -/
theorem sel_eq (c : LaneCtx) (d a b : GNum) (n : Nat) :
    c.sel d a b n = .ok [.g d.toNat (if (c.th.pr n).val then c.th.gr a.toNat else c.th.gr b.toNat).val
      (if (c.th.pr n).val then c.th.gr a.toNat else c.th.gr b.toNat).sh (c.gm a ||| c.gm b ||| (c.th.pr n).mask)] := by
  rw [LaneCtx.sel, maskOf_ggp]
  rfl

/-- Settles O5: each condition compares the integers of the type (`icondHolds_lt` and its like); `lutBit_eq` for the truth table,
`sel_eq` for the selects. -/
theorem predicatesAndMoves : Obligations.PredicatesAndMoves := by
  unfold Obligations.PredicatesAndMoves
  intro pd pa pb lut d a b h n t cond imm
  refine ⟨alu_writes _ rfl fun c => ?icmp, alu_writes _ rfl fun c => ?plop, alu_writes _ rfl fun _ => rfl,
    alu_plain rfl (fun _ => rfl) fun c => ?movi, alu_writes _ rfl fun c => sel_eq c d a b n.toNat,
    alu_writes _ rfl fun c => sel_eq c d a b (4 + n.toNat)⟩
  case icmp =>
    rw [LaneCtx.putP, maskOf_gg]
    cases cond with
    | eq | ne => rfl
    | lt => rw [icondHolds_lt]; rfl
    | le => rw [icondHolds_le]; rfl
    | gt => rw [icondHolds_gt]; rfl
    | ge => rw [icondHolds_ge]; rfl
  case plop =>
    rw [LaneCtx.putP, lutBit_eq, maskOf_pp]
    rfl
  case movi =>
    rw [imm32_i32]
    cases himm : c.hints.imm with
    | none => rw [immValue_none himm]
    | some p => rw [immValue_some himm]

/-- Settles O6: the index names a register below GREGS, which must not be pending, or the lane faults with the register's number. -/
theorem indexedMoves : Obligations.IndexedMoves := by
  unfold Obligations.IndexedMoves
  intro d a b h
  exact and_assoc.1
    ⟨alu_checked rfl (fun _ hc => if_neg (not_le.2 (of_decide_eq_true hc))) (fun _ hc => if_pos (not_lt.1 (of_decide_eq_false hc)))
      fun _ => rfl,
    alu_checked rfl (fun _ hc => if_neg (not_le.2 (of_decide_eq_true hc))) (fun _ hc => if_pos (not_lt.1 (of_decide_eq_false hc)))
      fun _ => rfl⟩

end Sys2Proof.Machine
end


section
/-! Proofs of the floating-point instructions of fp32, fp64 and packed 16-bit, and of the conversions (R118, R119, R129 to R140). -/

namespace Sys2Proof.Machine

/-! ### FP32 (R129 to R133) -/

theorem fp_eq_rounded (c : LaneCtx) (o : FloatOp) (d : GNum) (srcs : List RegName) (a b : GNum) :
    c.fp o d srcs a b = c.rounded d (c.th.maskOf srcs) (o.x (c.f a) (c.f b) (c.f d)) fun k =>
      o.tau (c.f a) (c.f b) (c.f d) (c.ft a k) (c.ft b k) (c.ft d k) := rfl
/-- An FP32 instruction gives the exact result and the exact tangents of its operation, rounded once. -/
theorem alu_fp {i : Instr} {lat : Option Nat} {o : LaneCtx → FloatOp} {d a b : GNum} {srcs : List RegName} {m : LaneCtx → Mask}
    {x : LaneCtx → FVal} {tau : LaneCtx → Nat → FVal} (he : exec i = aluIssue i lat fun c => c.fp (o c) d srcs a b)
    (hm : ∀ c, c.th.maskOf srcs = m c) (hx : ∀ c, (o c).x (c.f a) (c.f b) (c.f d) = x c)
    (htau : ∀ c k, (o c).tau (c.f a) (c.f b) (c.f d) (c.ft a k) (c.ft b k) (c.ft d k) = tau c k) :
    AluGives i lat fun c => c.rounded d (m c) (x c) (tau c) :=
  alu_gives he (fun c => by simp only [fp_eq_rounded, hm, hx, htau]) (fun _ => rfl) fun _ => rfl
theorem alu_fp1 {i : Instr} {lat : Option Nat} {o : LaneCtx → FloatOp} {d a : GNum} {x : LaneCtx → FVal}
    {tau : LaneCtx → Nat → FVal} (he : exec i = aluIssue i lat fun c => c.fp1 (o c) d a)
    (hx : ∀ c, (o c).x (c.f a) (c.f a) (c.f d) = x c)
    (htau : ∀ c k, (o c).tau (c.f a) (c.f a) (c.f d) (c.ft a k) (c.ft a k) (c.ft d k) = tau c k) :
    AluGives i lat fun c => c.rounded d (c.gm a) (x c) (tau c) :=
  alu_fp he (fun c => maskOf_g c.th a.toNat) hx htau
theorem alu_fp2 {i : Instr} {lat : Option Nat} {o : LaneCtx → FloatOp} {d a b : GNum} {x : LaneCtx → FVal}
    {tau : LaneCtx → Nat → FVal} (he : exec i = aluIssue i lat fun c => c.fp2 (o c) d a b)
    (hx : ∀ c, (o c).x (c.f a) (c.f b) (c.f d) = x c)
    (htau : ∀ c k, (o c).tau (c.f a) (c.f b) (c.f d) (c.ft a k) (c.ft b k) (c.ft d k) = tau c k) :
    AluGives i lat fun c => c.rounded d (c.gm a ||| c.gm b) (x c) (tau c) :=
  alu_fp he (fun c => maskOf_gg c.th a.toNat b.toNat) hx htau
/-- R130: FMIN and FMAX take the operand that is a number; of two numbers the first, unless the other is below or above it. -/
theorem pickFirst_eq (max : Bool) (a b : FVal) : pickFirst max a b = if a.isNan && b.isNan then none
    else some (b.isNan || (!a.isNan && !(if max then a.below b else b.below a))) := by
  cases ha : a.isNan <;> cases hb : b.isNan <;> cases max <;> simp [pickFirst, ha, hb]
theorem minMax_x (max : Bool) (a b d : FVal) : (minMax max).x a b d = if a.isNan && b.isNan then .nan
    else if b.isNan || (!a.isNan && !(if max then a.below b else b.below a)) then a else b := by
  simp only [minMax, pickFirst_eq]
  by_cases hnan : (a.isNan && b.isNan) = true
  · rw [if_pos hnan, if_pos hnan]
  · rw [if_neg hnan, if_neg hnan]
theorem minMax_tau (max : Bool) (a b d a' b' d' : FVal) : (minMax max).tau a b d a' b' d' = if a.isNan && b.isNan then .zero
    else if b.isNan || (!a.isNan && !(if max then a.below b else b.below a)) then a' else b' := by
  simp only [minMax, pickFirst_eq]
  by_cases hnan : (a.isNan && b.isNan) = true
  · rw [if_pos hnan, if_pos hnan]
  · rw [if_neg hnan, if_neg hnan]
theorem cmp_zeros (x y : Bool) (e f : Int) : (FVal.fin x 0 e).cmp (.fin y 0 f) = .eq := by
  simp [FVal.cmp]

/-- Settles O7: each form is its operation rounded once (`alu_fp2`); FMIN and FMAX choose by `minMax_x` and `minMax_tau`. -/
theorem fp32Arithmetic : Obligations.Fp32Arithmetic := by
  unfold Obligations.Fp32Arithmetic
  intro d a b pd h cond
  refine ⟨alu_fp2 rfl (fun _ => rfl) fun _ _ => rfl, alu_fp2 rfl (fun _ => rfl) fun _ _ => rfl,
    alu_fp2 rfl (fun _ => rfl) fun _ _ => rfl,
    alu_fp rfl (fun c => maskOf_ggg c.th a.toNat b.toNat d.toNat) (fun _ => rfl) fun _ _ => rfl,
    alu_fp2 rfl (fun _ => rfl) fun _ _ => rfl, alu_fp2 rfl (fun _ => rfl) fun _ _ => rfl,
    alu_fp2 rfl (fun c => minMax_x false _ _ _) fun c k => minMax_tau false _ _ _ _ _ _,
    alu_fp2 rfl (fun c => minMax_x true _ _ _) fun c k => minMax_tau true _ _ _ _ _ _,
    alu_writes _ rfl fun c => ?fcmp, cmp_zeros⟩
  rw [LaneCtx.putP, maskOf_gg]
  cases cond <;> rfl

/-- Settles O8: each function's operation carries its value and its tangent (`alu_fp1`). -/
theorem fp32Functions : Obligations.Fp32Functions := by
  unfold Obligations.Fp32Functions
  intro d a h
  exact ⟨alu_fp1 rfl (fun _ => rfl) fun _ _ => rfl, alu_fp1 rfl (fun _ => rfl) fun _ _ => rfl,
    alu_fp1 rfl (fun _ => rfl) fun _ _ => rfl, alu_fp1 rfl (fun _ => rfl) fun _ _ => rfl,
    alu_fp1 rfl (fun _ => rfl) fun _ _ => rfl, alu_fp1 rfl (fun _ => rfl) fun _ _ => rfl,
    alu_fp1 rfl (fun _ => rfl) fun _ _ => rfl⟩

/-! ### FP64 (R134) -/

theorem maskOf_pairs (t : Thread) (a b : Nat) : t.maskOf [.g a, .g (a + 1), .g b, .g (b + 1)] =
    (t.gr a).mask ||| (t.gr (a + 1)).mask ||| ((t.gr b).mask ||| (t.gr (b + 1)).mask) := by
  simp [Thread.maskOf, BitVec.or_assoc]
theorem maskOf_pairs3 (t : Thread) (a b d : Nat) : t.maskOf [.g a, .g (a + 1), .g b, .g (b + 1), .g d, .g (d + 1)] =
    (t.gr a).mask ||| (t.gr (a + 1)).mask ||| ((t.gr b).mask ||| (t.gr (b + 1)).mask) |||
      ((t.gr d).mask ||| (t.gr (d + 1)).mask) := by
  simp [Thread.maskOf, BitVec.or_assoc]
theorem fp64op_eq_rounded64 (c : LaneCtx) (o : FloatOp) (d a b : GNum) (addend : Bool) :
    c.fp64op o d a b addend = c.rounded64 d (c.th.maskOf ([.g a.toNat, .g (a.toNat + 1), .g b.toNat, .g (b.toNat + 1)] ++
        if addend then [.g d.toNat, .g (d.toNat + 1)] else []))
      (o.x (decodeF fp64 (c.th.pair a.toNat)) (decodeF fp64 (c.th.pair b.toNat)) (decodeF fp64 (c.th.pair d.toNat)))
      fun k => o.tau (decodeF fp64 (c.th.pair a.toNat)) (decodeF fp64 (c.th.pair b.toNat)) (decodeF fp64 (c.th.pair d.toNat))
        (decodeF fp64 (c.th.pairSh a.toNat k)) (decodeF fp64 (c.th.pairSh b.toNat k)) (decodeF fp64 (c.th.pairSh d.toNat k)) := rfl
/-- An FP64 instruction gives its operation on pairs, rounded once in binary64. -/
theorem alu_fp64 {i : Instr} {lat : Option Nat} {o : FloatOp} {d a b : GNum} {addend : Bool} {m : LaneCtx → Mask}
    (he : exec i = aluIssue i lat fun c => c.fp64op o d a b addend)
    (hm : ∀ c, c.th.maskOf ([.g a.toNat, .g (a.toNat + 1), .g b.toNat, .g (b.toNat + 1)] ++
        if addend then [.g d.toNat, .g (d.toNat + 1)] else []) = m c) :
    AluGives i lat fun c => c.rounded64 d (m c)
      (o.x (decodeF fp64 (c.th.pair a.toNat)) (decodeF fp64 (c.th.pair b.toNat)) (decodeF fp64 (c.th.pair d.toNat)))
      fun k => o.tau (decodeF fp64 (c.th.pair a.toNat)) (decodeF fp64 (c.th.pair b.toNat)) (decodeF fp64 (c.th.pair d.toNat))
        (decodeF fp64 (c.th.pairSh a.toNat k)) (decodeF fp64 (c.th.pairSh b.toNat k)) (decodeF fp64 (c.th.pairSh d.toNat k)) :=
  alu_gives he (fun c => by rw [fp64op_eq_rounded64, hm]) (fun _ => rfl) fun _ => rfl

/-- Settles O9: the operations of FP32 on pairs (`alu_fp64`). -/
theorem fp64Arithmetic : Obligations.Fp64Arithmetic := by
  unfold Obligations.Fp64Arithmetic
  intro d a b h
  exact ⟨alu_fp64 (o := addOp) rfl fun c => maskOf_pairs c.th a.toNat b.toNat,
    alu_fp64 (o := mulOp) rfl fun c => maskOf_pairs c.th a.toNat b.toNat,
    alu_fp64 (o := fmaOp) rfl fun c => maskOf_pairs3 c.th a.toNat b.toNat d.toNat⟩

/-! ### Packed 16-bit (R135) -/

theorem packed_eq_halves (c : LaneCtx) (f : FFmt) (o : FloatOp) (d a b : GNum) (addend : Bool) :
    c.packed f o d a b addend = c.halves f d (c.th.maskOf ([.g a.toNat, .g b.toNat] ++ if addend then [.g d.toNat] else []))
      (fun i => o.x (halfOf f (c.g a) i) (halfOf f (c.g b) i) (halfOf f (c.g d) i))
      fun i k => o.tau (halfOf f (c.g a) i) (halfOf f (c.g b) i) (halfOf f (c.g d) i) (halfOf f (c.sh a k) i)
        (halfOf f (c.sh b k) i) (halfOf f (c.sh d k) i) := rfl
/-- A packed instruction gives its operation half by half. -/
theorem alu_packed {i : Instr} {lat : Option Nat} {f : FFmt} {o : FloatOp} {d a b : GNum} {addend : Bool} {m : LaneCtx → Mask}
    {x : LaneCtx → Nat → FVal} {tau : LaneCtx → Nat → Nat → FVal}
    (he : exec i = aluIssue i lat fun c => c.packed f o d a b addend)
    (hm : ∀ c, c.th.maskOf ([.g a.toNat, .g b.toNat] ++ if addend then [.g d.toNat] else []) = m c)
    (hx : ∀ c i, o.x (halfOf f (c.g a) i) (halfOf f (c.g b) i) (halfOf f (c.g d) i) = x c i)
    (htau : ∀ c i k, o.tau (halfOf f (c.g a) i) (halfOf f (c.g b) i) (halfOf f (c.g d) i) (halfOf f (c.sh a k) i)
        (halfOf f (c.sh b k) i) (halfOf f (c.sh d k) i) = tau c i k) :
    AluGives i lat fun c => c.halves f d (m c) (x c) (tau c) :=
  alu_gives he (fun c => by simp only [packed_eq_halves, hm, hx, htau]) (fun _ => rfl) fun _ => rfl

/-- Settles O10: the operations of FP32 on halves (`alu_packed`). -/
theorem packedHalves : Obligations.PackedHalves := by
  unfold Obligations.PackedHalves
  intro d a b h v t add mul fma pick
  have hab (c : LaneCtx) : c.th.maskOf [.g a.toNat, .g b.toNat] = c.gm a ||| c.gm b := maskOf_gg c.th a.toNat b.toNat
  have habd (c : LaneCtx) : c.th.maskOf [.g a.toNat, .g b.toNat, .g d.toNat] = c.gm a ||| c.gm b ||| c.gm d :=
    maskOf_ggg c.th a.toNat b.toNat d.toNat
  exact ⟨alu_packed rfl hab (fun _ _ => rfl) fun _ _ _ => rfl, alu_packed rfl hab (fun _ _ => rfl) fun _ _ _ => rfl,
    alu_packed rfl hab (fun _ _ => rfl) fun _ _ _ => rfl, alu_packed rfl hab (fun _ _ => rfl) fun _ _ _ => rfl,
    alu_packed rfl habd (fun _ _ => rfl) fun _ _ _ => rfl, alu_packed rfl habd (fun _ _ => rfl) fun _ _ _ => rfl,
    alu_packed rfl hab (fun _ _ => minMax_x false _ _ _) fun _ _ _ => minMax_tau false _ _ _ _ _ _,
    alu_packed rfl hab (fun _ _ => minMax_x false _ _ _) fun _ _ _ => minMax_tau false _ _ _ _ _ _,
    alu_packed rfl hab (fun _ _ => minMax_x true _ _ _) fun _ _ _ => minMax_tau true _ _ _ _ _ _,
    alu_packed rfl hab (fun _ _ => minMax_x true _ _ _) fun _ _ _ => minMax_tau true _ _ _ _ _ _⟩

/-! ### Conversions (R137 to R140) -/

theorem group_eq (t : LTy) : t.group = if t = .f64 then 2 else 1 := by
  cases t <;> rfl
/-- The masks of the registers that a lane type's operand fills. -/
theorem maskOf_group (t : Thread) (ty : LTy) (n : Nat) : t.maskOf (gRange n ty.group) =
    if ty = .f64 then (t.gr n).mask ||| (t.gr (n + 1)).mask else (t.gr n).mask := by
  rw [group_eq]
  split
  · exact maskOf_gg t n (n + 1)
  · exact maskOf_g t n
theorem srDraws_eq (r : Rnd) (n : Nat) : srDraws r n = if r = .sr then n else 0 := by
  simp [srDraws]

/-- Settles O11: the model's arms, whose masks and draws are told by the types (`maskOf_group`, `srDraws_eq`); without a slot nothing is
written. -/
theorem conversions : Obligations.Conversions := by
  unfold Obligations.Conversions
  intro d a r dst src f
  refine ⟨alu_gives rfl (fun c => ?cvt) (fun _ => rfl) fun _ => rfl,
    alu_gives rfl (fun c => ?cvtn) (fun c => ?_) fun c => ?_, alu_gives rfl (fun c => ?cvtw) (fun c => ?_) fun c => ?_⟩
  case cvt =>
    simp only [maskOf_group, srDraws_eq, cvtTangents, Bool.and_assoc]
    rw [group_eq]
    rfl
  case cvtn =>
    simp only [srDraws_eq]
    rfl
  case cvtw =>
    simp only [srDraws_eq]
    rfl
  all_goals cases c.cfg.slot f <;> rfl

end Sys2Proof.Machine
end


section
/-! Proofs of the address-register instructions, the tangent moves, the special values and the draws (R91, R144 to R150). -/

namespace Sys2Proof.Machine

/-! ### Address registers (R91, R144 to R147) -/

theorem maskOf_a (t : Thread) (n : Nat) : t.maskOf [.a n] = (t.ar n).mask := by
  simp [Thread.maskOf]
/-- R145: bits 31 and 30 of the length word take away the right to write and the right to read. -/
theorem narrowed_perm (perm len : Word) : (if len.getLsbD 30 then
      (if len.getLsbD 31 then perm &&& ~~~(2 : Word) else perm) &&& ~~~(1 : Word)
    else if len.getLsbD 31 then perm &&& ~~~(2 : Word) else perm) =
    (if len.getLsbD 30 then ~~~(1 : Word) else BitVec.allOnes 32) &&&
      ((if len.getLsbD 31 then ~~~(2 : Word) else BitVec.allOnes 32) &&& perm) := by
  cases len.getLsbD 30 <;> cases len.getLsbD 31 <;>
    simp only [Bool.false_eq_true, if_true, if_false, BitVec.allOnes_and, BitVec.and_allOnes, BitVec.and_comm]
/-- R146: a pointer of a derived register that stays within base and limit is the register's new pointer. -/
theorem advance_inside {c : LaneCtx} {n : ANum} {by_ : Int} {m : Mask} {p : Int} (hp : p = ((c.th.ar n.toNat).ptr.toNat : Int) + by_)
    (h : ((c.th.ar n.toNat).valid && decide (((c.th.ar n.toNat).base.toNat : Int) ≤ p) &&
      decide (p ≤ ((c.th.ar n.toNat).limit.toNat : Int))) = true) :
    c.advance n by_ m = .ok [.a n.toNat { c.th.ar n.toNat with ptr := BitVec.ofInt 72 p, mask := (c.th.ar n.toNat).mask ||| m }] := by
  subst hp
  simp only [Bool.and_eq_true, decide_eq_true_eq] at h
  obtain ⟨⟨hvalid, hbase⟩, hlimit⟩ := h
  simp only [LaneCtx.advance, hvalid]
  exact if_neg (by simp; omega)
theorem advance_outside {c : LaneCtx} {n : ANum} {by_ : Int} {m : Mask} {p : Int} (hp : p = ((c.th.ar n.toNat).ptr.toNat : Int) + by_)
    (h : ((c.th.ar n.toNat).valid && decide (((c.th.ar n.toNat).base.toNat : Int) ≤ p) &&
      decide (p ≤ ((c.th.ar n.toNat).limit.toNat : Int))) = false) :
    c.advance n by_ m = .bad 0x04 (BitVec.ofInt 64 p).toNat 0 := by
  subst hp
  rw [LaneCtx.advance]
  refine if_pos ?_
  cases hvalid : (c.th.ar n.toNat).valid
  · simp
  · simp [hvalid] at h ⊢
    omega
/-- R145: a range that is not within the span of a derived register. -/
theorem narrow_outside (valid : Bool) (len top limit : Nat) : (!valid || decide (len = 0) || decide (top > limit)) =
    !(valid && decide (len ≠ 0) && decide (top ≤ limit)) := by
  simp only [Bool.not_and, ← decide_not, not_not, not_le]
theorem bitsOf_zero (v n : Nat) : bitsOf v 0 n = v % 2 ^ n := by
  simp [bitsOf]
/-- R82: a whole word of an address, and the 8 bits above its words. -/
theorem ofNat_bitsOf_word (v : VAddr) (pos : Nat) : BitVec.ofNat 32 (bitsOf v.toNat pos 32) = v.extractLsb' pos 32 := by
  rw [bitsOf_toNat, BitVec.ofNat_toNat, BitVec.setWidth_eq]
theorem ofNat_bitsOf_top (v : VAddr) (pos : Nat) : BitVec.ofNat 32 (bitsOf v.toNat pos 8) = (v.extractLsb' pos 8).setWidth 32 := by
  rw [bitsOf_toNat, BitVec.ofNat_toNat]

/-- Settles O12: a narrowed range is checked by `narrow_outside`, an advanced pointer by `advance_inside` and `advance_outside`; AGET's
words are bits of pointer, base and limit. -/
theorem addressRegisters : Obligations.AddressRegisters := by
  unfold Obligations.AddressRegisters
  intro n m g off len d h imm part reg nb sz narrowOk dest imms inside
  have himms (c : LaneCtx) : immValue c.hints imm = imms c := by
    cases himm : c.hints.imm with
    | none => simp only [imms, himm, immValue_none himm]
    | some p => simp only [imms, himm, immValue_some himm]
  have hnarrow (c : LaneCtx) : (!(reg c).valid || decide (bitsOf (c.g len).toNat 0 30 = 0) ||
      decide (nb c + bitsOf (c.g len).toNat 0 30 - 1 > (reg c).limit.toNat)) = !narrowOk c := by
    rw [bitsOf_zero]
    exact narrow_outside ..
  refine ⟨alu_writes _ rfl fun _ => rfl,
    and_assoc.1 ⟨alu_checked rfl (fun c hc => ?narrowed) (fun c hc => if_pos ?tooWide) fun _ => rfl,
    and_assoc.1 ⟨alu_checked rfl (fun c hc => advance_inside rfl hc) (fun c hc => advance_outside rfl hc) fun _ => rfl,
    and_assoc.1 ⟨alu_checked rfl (fun c hc => ?advanced) (fun c hc => advance_outside (by rw [himms]) hc) fun _ => rfl,
    alu_plain rfl (fun c => maskOf_a c.th n.toNat) fun c => ?part⟩⟩⟩⟩
  case tooWide => rw [hnarrow, hc, Bool.not_false]
  case narrowed =>
    refine (if_neg (by rw [hnarrow, hc]; decide)).trans ?_
    dsimp only
    rw [narrowed_perm, bitsOf_zero]
    rfl
  case advanced =>
    rw [advance_inside (p := dest c (imms c)) (by rw [himms]) hc]
    simp only [BitVec.ofNat_eq_ofNat, BitVec.or_zero]
    rfl
  case part =>
    split
    case h_1 hpart | h_2 hpart | h_4 hpart | h_5 hpart | h_7 hpart | h_8 hpart =>
      rw [hpart]
      exact ofNat_bitsOf_word ..
    case h_3 hpart | h_6 hpart | h_9 hpart =>
      rw [hpart]
      exact ofNat_bitsOf_top ..
    case h_10 h0 h1 h2 h3 h4 h5 h6 h7 h8 =>
      simp only [imp_false] at h0 h1 h2 h3 h4 h5 h6 h7 h8
      exact if_pos (show part.toNat ≥ 9 by omega)

/-! ### Tangent moves (R148) -/

/-- Settles O13: each form writes what the model's arm does. -/
theorem tangentMoves : Obligations.TangentMoves := by
  unfold Obligations.TangentMoves
  intro d a k h
  exact ⟨alu_put1 rfl fun _ => rfl, alu_writes _ rfl fun _ => rfl, alu_writes _ rfl fun _ => rfl⟩

/-! ### Special values and draws (R149, R150) -/

theorem ofNat_mod_word (v : Nat) : BitVec.ofNat 32 (v % 2 ^ 32) = BitVec.ofNat 32 v := by
  apply BitVec.eq_of_toNat_eq
  simp only [BitVec.toNat_ofNat, Nat.mod_mod]
/-- The low word and the words above it of a counter. -/
theorem ofNat_low_word {w : Nat} (v : BitVec w) : BitVec.ofNat 32 (v.toNat % 2 ^ 32) = v.extractLsb' 0 32 := by
  apply BitVec.eq_of_toNat_eq
  simp
theorem ofNat_high_word {w : Nat} (v : BitVec w) : BitVec.ofNat 32 (v.toNat / 2 ^ 32) = v.extractLsb' 32 32 := by
  apply BitVec.eq_of_toNat_eq
  simp [Nat.shiftRight_eq_div_pow]
theorem ofNat_high_draws (v : BitVec 34) : BitVec.ofNat 32 (v.toNat / 2 ^ 32) = (v.extractLsb' 32 2).setWidth 32 := by
  apply BitVec.eq_of_toNat_eq
  have hv : v.toNat < 2 ^ 34 := v.isLt
  simp [Nat.shiftRight_eq_div_pow]
  omega
theorem ofNat_word (v : Word) : BitVec.ofNat 32 v.toNat = v := by
  rw [BitVec.ofNat_toNat, BitVec.setWidth_eq]
/-- What SREAD gives, told by its value and by what it latches. -/
theorem sread_congr {c : LaneCtx} {d : GNum} {v w : Word} {l k : Option (Bool × Word)} (hv : v = w) (hl : l = k) :
    { c.put d [] v with latch := l } = { c.plain d 0 w with latch := k } := by
  rw [hv, hl]
  rfl

/-- Settles O14: each selector reads its word, a count's low word by `ofNat_low_word`; a draw is the stream's at the lane's count. -/
theorem specialValues : Obligations.SpecialValues := by
  unfold Obligations.SpecialValues
  intro d sel
  refine ⟨fun _ => alu_gives rfl (fun c => ?_) (fun _ => rfl) fun _ => rfl, alu_gives rfl (fun c => ?_) (fun _ => rfl) fun _ => rfl⟩
  · refine sread_congr ?value ?latch
    case value =>
      generalize sel.toNat = n
      match n with
      | 0 => exact ofNat_mod_word _
      | 1 => exact ofNat_word _
      | 2 | 3 | 4 | 5 | 8 | 9 => rfl
      | 6 => exact ofNat_low_word _
      | 7 => exact ofNat_high_draws _
      | 10 => exact ofNat_low_word _
      | n + 11 => exact ofNat_word _
    case latch =>
      generalize sel.toNat = n
      match n with
      | 10 => exact congrArg (fun v => some (true, v)) (ofNat_high_word _)
      | 0 | 1 | 2 | 3 | 4 | 5 | 6 | 7 | 8 | 9 | n + 11 => rfl
  · rw [LaneCtx.draw, Nat.add_zero, Nat.mod_eq_of_lt c.th.draws.isLt]
    rfl

end Sys2Proof.Machine
end


section
/-! Proof of the cross-lane instructions SHFL, VOTE and LREDUCE (R99, R100, R141 to R143). -/

namespace Sys2Proof.Machine

/-! ### Collectives that write registers of their lanes (R99, R105) -/

/-- A collective whose body computes the writes of each live lane leaves them under way, and adds no operation. -/
theorem cross_gives {i : Instr} {body : LaunchCfg → Warp → List Nat → Nat → Thread → List RegWrite}
    {f : LaunchCfg → Warp → Nat → Thread → List RegWrite} (he : exec i = collIssue i false (crossBody body))
    (hf : ∀ c w l t, body c w w.live l t = f c w l t) : CrossGives i f := by
  refine coll_does he fun b1 s1 wi x hx hparts _ _ => ?_
  have houts : ((x.live.filterMap fun l => (x.threads[l]?).map fun t => (l, body b1.u.cfg x x.live l t)).map
      fun (l, ws) => (l, LaneOut.ok ws)) =
      x.live.filterMap fun l => (x.threads[l]?).map fun t => (l, LaneOut.ok (f b1.u.cfg x l t)) := by
    rw [List.map_filterMap]
    refine List.filterMap_congr fun l _ => ?_
    cases x.threads[l]? with
    | none => rfl
    | some t => simp only [Option.map_some, hf]
  refine ⟨_, rfl, ?_⟩
  simp only [hparts, State.pendColl, List.foldl_cons, List.foldl_nil, houts]
  refine ⟨modWarp_home .., ?_, fun t' hops _ => ?_⟩
  · rw [warp?_modWarp_self, hx, Option.map_some]
  · exact hops.trans (by simp)

/-! ### Votes (R142) -/

/-- The masks of what the live lanes read, joined lane by lane. -/
theorem voteMask_eq (w : Warp) (ls : List Nat) (r : RegName) :
    voteMask w ls r = (ls.filterMap fun l => (w.threads[l]?).map fun t => t.maskOf [r]).foldl (· ||| ·) 0 := by
  have hfold : ∀ m : Mask, ls.foldl (fun m l => m ||| ((w.threads[l]?).map fun t => t.maskOf [r]).getD 0) m =
      (ls.filterMap fun l => (w.threads[l]?).map fun t => t.maskOf [r]).foldl (· ||| ·) m := by
    induction ls with
    | nil => exact fun _ => rfl
    | cons l ls ih =>
      intro m
      rw [List.foldl_cons, ih]
      cases hl : w.threads[l]? <;> simp [hl]
  exact hfold 0
theorem voteReads_any (w : Warp) (ls : List Nat) (p : Nat) :
    (voteReads w ls p).any (·.2) = ls.any fun l => ((w.threads[l]?).map fun t => (t.pr p).val).getD false := by
  rw [voteReads, List.any_map]
  rfl
theorem voteReads_all (w : Warp) (ls : List Nat) (p : Nat) :
    (voteReads w ls p).all (·.2) = ls.all fun l => ((w.threads[l]?).map fun t => (t.pr p).val).getD false := by
  rw [voteReads, List.all_map]
  rfl
theorem voteReads_filter (w : Warp) (ls : List Nat) (p : Nat) : ((voteReads w ls p).filter (·.2)).map (·.1) =
    ls.filter fun l => ((w.threads[l]?).map fun t => (t.pr p).val).getD false := by
  simp [voteReads, List.filter_map, Function.comp_def]
/-- A number's bit is put into a mask once, however often the number stands in the list. -/
theorem testBit_setOnce (m x i : Nat) : (if bitOf m x then m else m + 2 ^ x).testBit i = (m.testBit i || decide (i = x)) := by
  rw [bitOf_eq_testBit]
  cases hx : m.testBit x with
  | true => by_cases hi : i = x <;> simp [hi, hx]
  | false =>
    have hfield : bitsOf m x 1 = 0 := by
      rw [Nat.testBit_eq_decide_div_mod_eq] at hx
      simp only [decide_eq_false_iff_not] at hx
      rw [bitsOf]
      omega
    have hset := testBit_replace m 1 x 1 i
    simp only [hfield, zero_mul, Nat.sub_zero] at hset
    simp only [Bool.false_eq_true, if_false]
    rw [show m + 2 ^ x = m + 1 % 2 ^ 1 * 2 ^ x by simp, hset]
    by_cases hi : i = x
    · simp [hi]
    · rw [if_neg (by omega)]
      simp [hi]
theorem testBit_maskOf (xs : List Nat) (i : Nat) : (maskOf xs).testBit i = decide (i ∈ xs) := by
  have hfold : ∀ m, (xs.foldl (fun m x => if bitOf m x then m else m + 2 ^ x) m).testBit i = (m.testBit i || decide (i ∈ xs)) := by
    induction xs with
    | nil => simp
    | cons x xs ih =>
      intro m
      rw [List.foldl_cons, ih, testBit_setOnce, Bool.or_assoc, ← Bool.decide_or]
      simp only [List.mem_cons]
  rw [maskOf, hfold, Nat.zero_testBit, Bool.false_or]
/-- R142: bit n of a ballot is the predicate of lane n, 0 where the lane is not live. -/
theorem ballot_eq (ls : List Nat) (holds : Nat → Bool) :
    BitVec.ofNat 32 (maskOf (ls.filter holds)) = BitVec.ofFnLE fun n : Fin 32 => decide (n.val ∈ ls) && holds n.val := by
  apply BitVec.eq_of_getLsbD_eq
  intro i hi
  rw [BitVec.getLsbD_ofNat, testBit_maskOf, BitVec.getLsbD_ofFnLE]
  simp [hi, List.mem_filter]

/-! ### The reduction tree (R143) -/

/-- The values of one level of the tree, by position: each joins two of the level below. -/
def redPairs (op : RedOp) (v : Nat → Option (Word × List Word)) (j : Nat) : Option (Word × List Word) :=
  redCombine op (v (2 * j)) (v (2 * j + 1))
theorem redLevel_range (op : RedOp) (n : Nat) (v : Nat → Option (Word × List Word)) :
    redLevel op ((List.range (2 * n)).map v) = (List.range n).map (redPairs op v) := by
  induction n generalizing v with
  | zero => rfl
  | succ n ih =>
    have hnext : redPairs op (fun i => v (i + 2)) = redPairs op v ∘ Nat.succ := rfl
    rw [show 2 * (n + 1) = 2 * n + 1 + 1 by omega, List.range_succ_eq_map, List.range_succ_eq_map, List.range_succ_eq_map]
    simp only [List.map_cons, List.map_map, redLevel]
    rw [← hnext, ← ih]
    rfl
theorem redTree_succ (op : RedOp) (k n : Nat) (v : Nat → Option (Word × List Word)) :
    redTree op (k + 1) ((List.range (2 * n)).map v) = redTree op k ((List.range n).map (redPairs op v)) := by
  rw [redTree, redLevel_range]
/-- Five levels join 32 lanes. -/
theorem redTree_five (op : RedOp) (v : Nat → Option (Word × List Word)) : redTree op 5 ((List.range 32).map v) =
    [redPairs op (redPairs op (redPairs op (redPairs op (redPairs op v)))) 0] := by
  rw [redTree_succ op 4 16, redTree_succ op 3 8, redTree_succ op 2 4, redTree_succ op 1 2, redTree_succ op 0 1]
  rfl

/-- Settles O15: each form's writes by live lane (`cross_gives`); votes by `voteReads_any` and its like and `ballot_eq`, the reduction
by `redTree_five`. -/
theorem crossLane : Obligations.CrossLane := by
  unfold Obligations.CrossLane
  intro d a b pd pa h op shfl holds masks
  have hmasks (w : Warp) : voteMask w w.live (.p pa.toNat) = masks w fun t => (t.pr pa.toNat).mask := by
    rw [voteMask_eq]
    simp only [maskOf_p]
    rfl
  have hshfl (m : ShflMode) (src : Nat → Nat → Nat) (hsrc : shflSource m = src) (c : LaunchCfg) (w : Warp) (l : Nat) (t : Thread) :
      shflWrites m d a b c w w.live l t = shfl src c w l t := by
    subst hsrc
    simp only [shfl, shflWrites, List.contains_eq_mem, decide_eq_true_eq]
    by_cases hlive : shflSource m l (t.gr b.toNat).val.toNat ∈ w.live
    · simp only [if_pos hlive]
      cases w.threads[shflSource m l (t.gr b.toNat).val.toNat]? <;> rfl
    · simp only [if_neg hlive]
  refine ⟨cross_gives rfl (hshfl .idx _ rfl), cross_gives rfl (hshfl .up _ rfl), cross_gives rfl (hshfl .down _ rfl),
    cross_gives rfl (hshfl .xor _ rfl), cross_gives rfl fun c w l t => ?any, cross_gives rfl fun c w l t => ?all,
    cross_gives rfl fun c w l t => ?ballot, cross_gives rfl fun c w l t => ?reduce⟩
  case any => rw [voteReads_any, hmasks]
  case all => rw [voteReads_all, hmasks]
  case ballot =>
    rw [voteReads_filter, ballot_eq, hmasks]
    rfl
  case reduce =>
    rw [voteMask_eq, reduceLanes, redTree_five]
    simp only [maskOf_g, List.contains_eq_mem, decide_eq_true_eq]
    rfl

end Sys2Proof.Machine
end

section
/-! Proofs of the lane loads and stores at issue (R160 to R166, R393, R405, R406, R412, R422, R423, R450). -/

namespace Sys2Proof.Machine

/-! ### Loads, one warp after another (R104 to R107, R406) -/

/-- Two ways to go through a list that agree where what the second one keeps holds. -/
theorem foldl_eq_of_keeps {α β : Type} {P : β → Prop} {f g : β → α → β} (hkeep : ∀ t a, P t → P (g t a))
    (heq : ∀ t a, P t → f t a = g t a) (xs : List α) {s : β} (hs : P s) : xs.foldl f s = xs.foldl g s := by
  induction xs generalizing s with
  | nil => rfl
  | cons x xs ih => rw [List.foldl_cons, List.foldl_cons, heq s x hs, ih (hkeep s x hs)]
/-- The stores whose bytes a load may be forwarded, and the clk at which it issues (R406). -/
def State.sameStores (s t : State) : Prop := t.ops.filter (·.kind.isStore) = s.ops.filter (·.kind.isStore) ∧ t.clk = s.clk
theorem forwarders_sameStores {s t : State} (h : s.sameStores t) (core : Nat) (ps : List Part) :
    t.forwarders core ps = s.forwarders core ps := by
  have hops : t.ops.filter (fun o => o.core == core && o.kind.isStore) = s.ops.filter fun o => o.core == core && o.kind.isStore := by
    rw [← List.filter_filter, ← List.filter_filter, h.1]
  simp only [State.forwarders, State.pendingBytes, State.storedBytes, hops]
theorem addOp_sameStores {s t : State} (h : s.sameStores t) {w : WarpId} {ctr : Option Counter} {tagged : Bool} {regs : List RegName}
    {mk : Option Nat → Nat → MemOp} (hmk : ∀ tag id, (mk tag id).kind.isStore = false) :
    s.sameStores (t.addOp w ctr tagged regs mk) := by
  refine ⟨?_, h.2⟩
  simp only [State.addOp, State.newOp, modWarp_ops, List.filter_append, ← h.1]
  simp [hmk]
/-- The operation of one warp of a load (R105, R107, R405, R406). -/
def loadOp (g : GNum) (sz : Size) (pol : Policy) (scope : Scope) (acq dual : Bool) (parts : Nat → Warp → Nat → Thread → List Part)
    (b : Bundle) (s : State) (wi : Nat) (w : Warp) (ls : List Nat) (tag : Option Nat) (id : Nat) : MemOp :=
  let ps := sendsOf parts wi w ls
  { MemOp.plain (b.wid wi) b.g.core b.pc (.load g.toNat sz dual) ls ps id with
    group := s.nextId, tag := tag, mask := (tag.map tagMask).getD 0, pol := pol, scope := scope, acq := acq
    waitSt := s.forwarders b.g.core ps
    due := if ps.all (·.st == .done) then s.clk + 32 + (if dual then b.u.cfg.d else 0) else 0 }
/-- The loads of an issue sent warp by warp: none is forwarded what another brings. -/
theorem sendLoads_each (s : State) (b : Bundle) (g : GNum) (sz : Size) (pol : Policy) (scope : Scope) (acq dual : Bool)
    (parts : Nat → Warp → Nat → Thread → List Part) :
    b.parts.foldl (fun t x => t.sendLoads { b with parts := [x] } ⟨.load g.toNat sz dual, groupRegs g sz, pol, scope, acq, true,
      32 + (if dual then b.u.cfg.d else 0), s.nextId⟩ (parts x.1 x.2.1)) s =
    s.issued b (some .ld) true (gGroup g sz.group) (loadOp g sz pol scope acq dual parts b s) onlyOps := by
  rw [issued_eq]
  refine foldl_eq_of_keeps (P := s.sameStores) (fun t x ht => addOp_sameStores ht fun _ _ => rfl) (fun t x ht => ?_) b.parts ⟨rfl, rfl⟩
  rw [sendLoads_eq_issued]
  simp only [Bool.not_true, Bool.or_false, forwarders_sameStores ht, ht.2, ← Nat.add_assoc]
  rfl

/-! ### The operation that each warp of an issue has added (R422) -/

/-- An element of a list whose keys differ is the only one with its key. -/
theorem filter_key_of_nodup {α β : Type} [DecidableEq α] [DecidableEq β] {k : α → β} {xs : List α} {x : α} (hn : (xs.map k).Nodup)
    (hx : x ∈ xs) : xs.filter (fun y => k y == k x) = [x] := by
  have hkey : ∀ y ∈ xs, (k y == k x) = (y == x) := fun y hy => by
    rw [Bool.eq_iff_iff, beq_iff_eq, beq_iff_eq]
    exact ⟨List.inj_on_of_nodup_map hn hy hx, congrArg k⟩
  rw [List.filter_congr hkey, List.filter_beq, List.count_eq_one_of_mem hn.of_map hx]
  rfl
theorem ids_of_warp {b : Bundle} {op : (Nat × Warp × List Nat) × Nat → MemOp} {n wi : Nat}
    (hw : ∀ x, (op x).w = b.wid x.1.1) (hid : ∀ x, (op x).id = n + x.2) {ps : List (Nat × Warp × List Nat)}
    (hn : (ps.map (·.1)).Nodup) (hwi : wi ∈ ps.map (·.1)) :
    ((ps.zipIdx.map op).filter (·.w == b.wid wi)).map (·.id) = [n + (ps.map (·.1)).idxOf wi] := by
  have hget : (ps.map (·.1))[(ps.map (·.1)).idxOf wi]? = some wi := by
    rw [List.getElem?_eq_getElem (List.idxOf_lt_length_of_mem hwi), List.getElem_idxOf]
  rw [List.getElem?_map, Option.map_eq_some_iff] at hget
  obtain ⟨p, hp, rfl⟩ := hget
  have hmem : (p, (ps.map (·.1)).idxOf p.1) ∈ ps.zipIdx := List.mem_zipIdx_iff_getElem?.2 hp
  have hkeys : (ps.zipIdx.map (·.1.1)).Nodup := by
    have hmap : ps.zipIdx.map (·.1.1) = (ps.zipIdx.map Prod.fst).map (·.1) := by rw [List.map_map]; rfl
    rwa [hmap, List.zipIdx_map_fst]
  have hone := filter_key_of_nodup (k := fun x : (Nat × Warp × List Nat) × Nat => x.1.1) hkeys hmem
  have hwid (v : Nat) : (b.wid v == b.wid p.1) = (v == p.1) := by simp [Bundle.wid]
  rw [List.filter_map]
  simp only [Function.comp_def, hw, hwid, hone, List.map_cons, List.map_nil, hid]
theorem opOfWarp_issued {s : State} {b : Bundle} (hb : s.bundle? = some b) (hproper : b.proper = true) {ctr : Option Counter}
    {tagged : Bool} {regs : List RegName} {op : Nat → Warp → List Nat → Option Nat → Nat → MemOp}
    (hw : ∀ wi w ls tag id, (op wi w ls tag id).w = b.wid wi) (hid : ∀ wi w ls tag id, (op wi w ls tag id).id = id)
    {wi : Nat} (hwi : wi ∈ b.parts.map (·.1)) :
    opOfWarp (s.issued b ctr tagged regs op onlyOps) (b.wid wi) = opNumber b s wi := by
  have hids := ids_of_warp (b := b) (op := fun x => op x.1.1 x.1.2.1 x.1.2.2 (tagFor tagged x.1.2.1 (s.now b.g.core)) (s.nextId + x.2))
    (fun _ => hw ..) (fun _ => hid ..) (proper_warps hproper) hwi
  rw [opOfWarp, ops_issued hb hproper, ← List.getLast?_map, List.filter_append, List.map_append, hids, opNumber]
  simp
/-- Two changes that agree on the warps of an issue retire it alike. -/
theorem past_congr {s : State} {b : Bundle} {ends : Bool} {f g : Nat → Nat → Thread → Thread}
    (h : ∀ wi ∈ b.parts.map (·.1), f wi = g wi) : s.past b ends f = s.past b ends g := by
  rw [State.past, State.past, retire_eq, retire_eq]
  refine congrArg (fun t => State.stay (State.countTurn t b) b) (List.foldl_ext _ _ _ fun t p hp => ?_)
  rw [h p.1 (List.mem_map_of_mem hp)]

/-! ### LD, LDX and LD.ACQ (R160 to R166, R450) -/

theorem outHits_inReg {b : Bundle} {s : State} {n : ANum} {va : LaneCtx → Int} {bytes : Nat} {rd wr : Bool}
    (h : ∀ c ∈ b.each s, inReg (c.th.ar n.toNat) (va c) bytes rd wr = true) :
    b.outHits s (fun c => if (c.th.ar n.toNat).allows (va c) bytes rd wr = true then LaneOut.ok []
      else .bad 0x04 (BitVec.ofInt 64 (va c)).toNat 0) = none :=
  outHits_none fun c hc => by rw [allows_eq_inReg, if_pos (h c hc)]; rfl

/-- Whether the accesses of an issue are dual (R166). -/
def Bundle.dualAccess (b : Bundle) (can : Bool) (sz : Size) : Bool :=
  can && (sz == .b16 || sz == .b32 || sz == .b64 || sz == .b128) && decide (b.u.cfg.d > 0) && (b.hints.tan || b.u.cfg.dual)
/-- The accesses of one lane of a load: the primal, and its tangents where the window has a stride (R166). -/
def loadAccs (n : ANum) (sz : Size) (va : LaneCtx → Int) (dual : Bool) (b : Bundle) (s : State) (wi : Nat) (w : Warp) (l : Nat)
    (t : Thread) : List (List Part) :=
  let a := t.ar n.toNat
  let ea := va (b.laneCtx s wi w l t)
  accParts b.u a l 0 ea sz.bytes 0 0 [] ::
    (if dual && decide (b.u.stride a > 0) then (List.range b.u.cfg.d).map fun k =>
      accParts b.u a l (k + 1) (ea + ((k + 1) * b.u.stride a : Nat)) sz.bytes 0 0 [] else [])
/-- A thread of an acquire, whose later accesses wait for operation `id` (R422). -/
def acquires (acq : Bool) (id : Nat) (t : Thread) : Thread := if acq then { t with acq := id :: t.acq } else t

/-- What the load of an issue leaves in flight. -/
def State.loadsSent (s : State) (b : Bundle) (g : GNum) (sz : Size) (pol : Policy) (n : ANum) (va : LaneCtx → Int) (can : Bool)
    (scope : Scope) (acq : Bool) : State :=
  s.issued b (some .ld) true (gGroup g sz.group) (loadOp g sz pol scope acq (b.dualAccess can sz)
    (fun wi w l t => (loadAccs n sz va (b.dualAccess can sz) b s wi w l t).flatMap (s.loadAccess b.g.core pol)) b s) onlyOps

section
variable {g : GNum} {sz : Size} {pol : Policy} {n : ANum} {va : LaneCtx → Int} {idx : List RegName} {can : Bool} {scope : Scope}
  {acq : Bool}

/-- A load that no lane's address and no wait keeps from going sends its operations. -/
theorem loadBody_done {s : State} {b : Bundle} (hok : ∀ c ∈ b.each s, inReg (c.th.ar n.toNat) (va c) sz.bytes true false = true)
    (hgo : b.mayGo s (some .ld) (fun t => t.maskOf (.a n.toNat :: idx)) = true)
    (hfill : noFill b s fun wi w l t => (loadAccs n sz va (b.dualAccess can sz) b s wi w l t).flatten) :
    loadBody g sz pol n va idx can scope acq b s = .done
      ((s.loadsSent b g sz pol n va can scope acq).past b false fun wi _ t =>
        acquires acq (opOfWarp (s.loadsSent b g sz pol n va can scope acq) (b.wid wi)) t) := by
  have hdual : (can && dualSize sz && decide (b.u.cfg.d > 0) && (b.hints.tan || b.u.cfg.dual)) = b.dualAccess can sz := by
    rw [dualSize_eq]
    rfl
  have hwait : (!b.mayGo s (some .ld) (fun t => t.maskOf (.a n.toNat :: idx)) || b.lanes.any fun (wi, w, l, t) =>
      ((loadAccs n sz va (b.dualAccess can sz) b s wi w l t).flatten).any fun p =>
        (p.space == .local && s.fillPending b.g.core p.addr p.n) || (p.space == .stash && s.unbinding b.u p.addr)) = false := by
    rw [hgo, noFill_any hfill]
    rfl
  unfold loadBody
  simp only [hdual]
  refine (goes_on (outHits_inReg hok) hwait).trans (congrArg Res.done ?_)
  rw [State.loadsSent, ← sendLoads_each]
  rfl
theorem load_does {i : Instr} (he : exec i = issueStd i (loadBody g sz pol n va idx can scope acq)) :
    AccessDoes i (fun c => inReg (c.th.ar n.toNat) (va c) sz.bytes true false)
      (fun b s => b.mayGo s (some .ld) (fun t => t.maskOf (.a n.toNat :: idx)) = true ∧
        noFill b s fun wi w l t => (loadAccs n sz va (b.dualAccess can sz) b s wi w l t).flatten)
      (fun b s => (s.loadsSent b g sz pol n va can scope acq).past b false fun wi _ t => acquires acq (opNumber b s wi) t) := by
  intro s b hb hr hproper hok ⟨hgo, hfill⟩
  rw [he, issueStd_ready hb hr, loadBody_done hok hgo hfill]
  refine congrArg Host.Outcome.next (past_congr fun wi hwi => ?_)
  rw [State.loadsSent, opOfWarp_issued hb hproper (fun _ _ _ _ _ => rfl) (fun _ _ _ _ _ => rfl) hwi]
end

/-- R160: the address of LD and ST, by the offset field or, with IMM, by the wider value. -/
def offsetAddr (n : ANum) (sz : Size) (off : BitVec 10) (c : LaneCtx) : Int :=
  (c.th.ar n.toNat).ptr.toNat + sz.bytes * (match c.hints.imm with | none => off.toInt | some p => (p ++ off).toInt)
theorem offsetEa_eq (n : ANum) (sz : Size) (off : BitVec 10) : offsetEa n sz off = offsetAddr n sz off :=
  funext fun c => congrArg (fun v : Int => (c.th.ar n.toNat).ptr.toNat + sz.bytes * v) (immValue_eq c.hints off)

/-- Settles O20: no lane faults and nothing makes the issue wait, so the warps send their loads one after another (`loadBody_done`),
and an acquire is known by the number of its operation (`opOfWarp_issued`). -/
theorem laneLoads : Obligations.LaneLoads := by
  unfold Obligations.LaneLoads
  intro g x n off off7 sz pol sc load
  have hld : exec (.ld g n off sz pol) = issueStd (.ld g n off sz pol) (loadBody g sz pol n (offsetAddr n sz off) []
      true .dev false) := by
    rw [← offsetEa_eq]
    rfl
  exact ⟨load_does hld, load_does rfl, load_does rfl⟩

/-! ### Where the stores of an issue go (R162, R166, R225, R423) -/

/-- The parts of one lane of a store. -/
def storeParts (p : StorePlan) (va : LaneCtx → Int) (b : Bundle) (s : State) (wi : Nat) (w : Warp) (l : Nat) (t : Thread) : List Part :=
  p.parts b.u w l t (va (b.laneCtx s wi w l t))
/-- The places that each warp of an issue stores to. -/
def Bundle.storePlaces (b : Bundle) (parts : Nat → Warp → Nat → Thread → List Part) : List (Nat × List (Space × Nat × Nat)) :=
  b.parts.map fun (wi, w, ls) => (wi, placesOf (sendsOf parts wi w ls))

theorem storePlaces_flatMap (b : Bundle) (parts : Nat → Warp → Nat → Thread → List Part) :
    (b.storePlaces parts).flatMap (·.2) = placesOf (b.sends parts) := by
  rw [Bundle.storePlaces, List.flatMap_map, Bundle.sends, placesOf, List.map_flatMap]
  rfl
/-- The places of one warp, in an issue that names each warp once. -/
theorem storePlaces_of_warp {b : Bundle} (hproper : b.proper = true) (parts : Nat → Warp → Nat → Thread → List Part)
    {p : Nat × Warp × List Nat} (hp : p ∈ b.parts) :
    ((b.storePlaces parts).filter (·.1 == p.1)).flatMap (·.2) = placesOf (sendsOf parts p.1 p.2.1 p.2.2) := by
  have hone : b.parts.filter (·.1 == p.1) = [p] := filter_key_of_nodup (proper_warps hproper) hp
  rw [Bundle.storePlaces, List.filter_map]
  simp only [Function.comp_def, hone, List.map_cons, List.map_nil, List.flatMap_cons, List.flatMap_nil, List.append_nil]
/-- R423, log 31: what the slices hold of a release, and whether it must be ready at its issue. -/
theorem heldParts_eq (rel : Bool) (sc : Scope) (ps : List Part) : heldParts rel sc (placesOf ps) =
    (slicesHold rel sc ps, rel && (!slicesHold rel sc ps || ps.any (·.space == .stash))) := by
  have hscope : heldRelease sc = (sc == .clus || sc == .dev || sc == .sys) := by cases sc <;> rfl
  have hempty : (placesOf ps == []) = ps.isEmpty := by cases ps <;> rfl
  have hany (f : Space → Bool) : (placesOf ps).any (fun x => f x.1) = ps.any fun q => f q.space := by
    rw [placesOf, List.any_map]
    rfl
  simp only [heldParts, slicesHold, hempty, hscope, hany (· != .stash), hany (· == .stash)]
theorem releaseGoes_plain {b : Bundle} {s : State} {rel : Bool} {sc : Scope} {ps : List Part} (h : releaseGoes b s rel sc ps) :
    ((rel && (!slicesHold rel sc ps || ps.any (·.space == .stash))) && !b.relReady s sc) = false := by
  rw [Bool.and_eq_false_iff, Bool.not_eq_false', ← Bool.not_eq_true, or_iff_not_imp_left, not_not]
  intro hplain
  simp only [Bool.and_eq_true, Bool.or_eq_true, Bool.not_eq_true', List.any_eq_true, beq_iff_eq] at hplain
  exact h hplain.1 hplain.2
theorem storesFree_heldUp {b : Bundle} {s : State} {parts : Nat → Warp → Nat → Thread → List Part} (h : storesFree b s parts) :
    ((b.storePlaces parts).any fun (_, ps) => s.heldUp b.u ps) = false := by
  rw [Bundle.storePlaces, List.any_map, List.any_eq_false]
  exact fun p hp => Bool.not_eq_true _ ▸ (h p hp).1
/-- No pending LOOP of the issue's warps reads what they store, so none is forced first. -/
theorem storesFree_forceLoops {b : Bundle} {s : State} {parts : Nat → Warp → Nat → Thread → List Part} (hproper : b.proper = true)
    (h : storesFree b s parts) : forceLoops s b (b.storePlaces parts) = none := by
  have hnone : (b.parts.filterMap fun (wi, w, ls) => (w.graph.find? fun n => loopHit b.u w n
      (((b.storePlaces parts).filter (·.1 == wi)).flatMap (·.2))).map fun n => (wi, w, ls, n)) = [] := by
    refine List.filterMap_eq_nil_iff.2 fun p hp => ?_
    have hfind : (p.2.1.graph.find? fun n => loopHit b.u p.2.1 n (((b.storePlaces parts).filter (·.1 == p.1)).flatMap (·.2))) = none := by
      rw [storePlaces_of_warp hproper parts hp, List.find?_eq_none]
      exact fun n hn => Bool.not_eq_true _ ▸ (h p hp).2 n hn
    simp only [hfind, Option.map_none]
  simp only [forceLoops, hnone]

/-- A store of which no lane faults, that nothing makes wait and before which no LOOP is forced goes on. -/
theorem store_goes {hits : Option (Nat × List Hit)} {waits stays : Bool} {forced : Option State} {r t : State} (hh : hits = none)
    (hw : waits = false) (hs : stays = false) (hf : forced = none) :
    (match hits with
      | some (code, hits) => Res.bad code hits
      | none => if waits then .wait else if stays then .hold r else match (generalizing := false) forced with
        | some t => .hold t
        | none => .done t) = .done t := by
  rw [hh, hw, hs, hf]
  rfl

/-! ### ST, STX and ST.REL (R160 to R166, R393, R412, R423, R450) -/

/-- The CRCs of the store units of one warp of an issue, added up (R393). -/
def storeDigest (p : StorePlan) (va : LaneCtx → Int) (b : Bundle) (s : State) (wi : Nat) (w : Warp) (ls : List Nat) : Nat :=
  sumOf (ls.flatMap fun l => match w.threads[l]? with
    | some th => (p.addrs b.u (th.ar p.n.toNat) (va (b.laneCtx s wi w l th))).map fun (k, y) =>
        b.u.storeUnit (th.ar p.n.toNat) y.toNat (p.value th k)
    | none => [])
/-- What the stores of an issue leave in flight, and of the digests of its warps and of its core's L1. -/
def State.storesSent (s : State) (b : Bundle) (p : StorePlan) (va : LaneCtx → Int) : State :=
  let held := slicesHold p.rel p.scope (b.sends (storeParts p va b s))
  (s.issued b (some .st) false [] (fun wi w ls _ id =>
    { MemOp.plain (b.wid wi) b.g.core b.pc .store ls (sendsOf (storeParts p va b s) wi w ls) id with
      group := s.nextId, pol := p.pol, scope := p.scope, rel := held, cleared := !held })
    (fun wi w ls t => if b.u.cfg.det = 0 then t else t.modWarp (b.wid wi) (·.addDigest (storeDigest p va b s wi w ls)))).storeL1All
    b.g.core (p.pol == .byp) (opParts s.nextId (b.parts.map fun (wi, w, ls) => sendsOf (storeParts p va b s) wi w ls))

/-- A warp's store outside deterministic mode leaves its digest alone. -/
theorem sendStores_eq {t : State} {b : Bundle} {p : StorePlan} {held : Bool} {group wi : Nat} {ps : List Part} {ls : List Nat}
    (digest : Nat) : t.sendStores b p held group wi ps (if b.u.cfg.det = 0 then 0 else digest) ls =
      t.sendStores b p held group wi ps digest ls := by
  unfold State.sendStores
  split <;> rfl

section
variable {p : StorePlan} {va : LaneCtx → Int}

/-- A store that no lane's address and no wait keeps from going sends its operations. -/
theorem storeBody_done {s : State} {b : Bundle} (hproper : b.proper = true)
    (hok : ∀ c ∈ b.each s, inReg (c.th.ar p.n.toNat) (va c) p.bytes false true = true)
    (hgo : b.mayGo s (some .st) (fun _ => 0) = true) (hknown : b.carriedKnown p.mask = true)
    (hfree : storesFree b s (storeParts p va b s)) (hrel : releaseGoes b s p.rel p.scope (b.sends (storeParts p va b s))) :
    storeBody p va b s = .done ((s.storesSent b p va).past b false sameThread) := by
  have hwait : (!b.mayGo s (some .st) (fun _ => 0) || !b.carriedKnown p.mask ||
      (b.storePlaces (storeParts p va b s)).any fun (_, ps) => s.heldUp b.u ps) = false := by
    rw [hgo, hknown, storesFree_heldUp hfree]
    rfl
  have hplain : ((heldParts p.rel p.scope ((b.storePlaces (storeParts p va b s)).flatMap (·.2))).2 && !b.relReady s p.scope) = false := by
    rw [storePlaces_flatMap, heldParts_eq]
    exact releaseGoes_plain hrel
  have hheld : (heldParts p.rel p.scope ((b.storePlaces (storeParts p va b s)).flatMap (·.2))).1 =
      slicesHold p.rel p.scope (b.sends (storeParts p va b s)) := by
    rw [storePlaces_flatMap, heldParts_eq]
  unfold storeBody
  refine (store_goes (outHits_inReg hok) hwait hplain (storesFree_forceLoops hproper hfree)).trans (congrArg Res.done ?_)
  rw [State.storesSent, ← hheld]
  refine congrArg (fun t => State.past (State.storeL1All t b.g.core (p.pol == .byp) _) b false sameThread)
    (List.foldl_ext _ _ _ fun t q _ => ?_)
  exact sendStores_eq (storeDigest p va b s q.1 q.2.1 q.2.2)
end

/-- The store of an issue: its register group, dual where its size and its launch make it so. -/
def Bundle.groupStore (b : Bundle) (g : GNum) (n : ANum) (sz : Size) (idx : List RegName) (can : Bool) (pol : Policy) (scope : Scope)
    (rel : Bool) : StorePlan := storePlan g n sz idx (b.dualAccess can sz) pol scope rel
theorem store_does {i : Instr} {g : GNum} {n : ANum} {sz : Size} {idx : List RegName} {can : Bool} {pol : Policy} {scope : Scope}
    {rel : Bool} {va : LaneCtx → Int}
    (he : exec i = issueStd i fun b s => storeBody (b.groupStore g n sz idx can pol scope rel) va b s) :
    AccessDoes i (fun c => inReg (c.th.ar n.toNat) (va c) sz.bytes false true)
      (fun b s => b.mayGo s (some .st) (fun _ => 0) = true ∧
        b.carriedKnown (fun t => t.maskOf (.a n.toNat :: (idx ++ gGroup g sz.group))) = true ∧
        storesFree b s (storeParts (b.groupStore g n sz idx can pol scope rel) va b s) ∧
        releaseGoes b s rel scope (b.sends (storeParts (b.groupStore g n sz idx can pol scope rel) va b s)))
      (fun b s => (s.storesSent b (b.groupStore g n sz idx can pol scope rel) va).past b false sameThread) := by
  intro s b hb hr hproper hok ⟨hgo, hknown, hfree, hrel⟩
  have hdone := storeBody_done (p := b.groupStore g n sz idx can pol scope rel) hproper hok hgo hknown hfree hrel
  rw [he, issueStd_ready hb hr, hdone]
theorem dualMem_eq (b : Bundle) (sz : Size) : b.dualMem sz = b.dualAccess true sz := by
  rw [Bundle.dualMem, dualSize_eq]
  rfl

/-- Settles O21: no lane faults, nothing makes the issue wait and no LOOP is forced first, so the warps send their stores
(`storeBody_done`). -/
theorem laneStores : Obligations.LaneStores := by
  unfold Obligations.LaneStores
  intro g x n off off7 sz pol sc store
  have hst : exec (.st g n off sz pol) = issueStd (.st g n off sz pol) fun b s =>
      storeBody (b.groupStore g n sz [] true pol .dev false) (offsetAddr n sz off) b s := by
    simp only [Bundle.groupStore, ← dualMem_eq, ← offsetEa_eq]
    rfl
  have hstx : exec (.stx g n x sz pol) = issueStd (.stx g n x sz pol) fun b s =>
      storeBody (b.groupStore g n sz (gOne x) true pol .dev false) (indexEa n x) b s := by
    simp only [Bundle.groupStore, ← dualMem_eq]
    rfl
  have hstRel : exec (.stRel g n sc off7 sz pol) = issueStd (.stRel g n sc off7 sz pol) fun b s =>
      storeBody (b.groupStore g n sz [] false pol sc true) (acqEa n sz off7) b s := rfl
  have hplain := store_does hst
  have hindexed := store_does hstx
  have hrelease := store_does hstRel
  exact ⟨hplain, hindexed, hrelease⟩

end Sys2Proof.Machine
end

section
/-! Proofs of the barrier instructions and of the completion of barrier phases (R172 to R175, R312, R385, R434, R465). -/

namespace Sys2Proof.Machine

/-! ### What an event at an object leaves of the objects (R173, R174, R312) -/

/-- The objects of a unit, by workgroup. -/
def State.bars? (s : State) (unit : Nat) : Option (List (List Barrier)) := (s.unit? unit).map fun u => u.wgs.map (·.bars)
theorem bar_eq (s : State) (unit wg n : Nat) :
    s.bar unit wg n = ((((s.bars? unit).bind (·[barWg wg n]?)).bind (·[n]?)).getD Barrier.zero) := by
  unfold State.bar State.bars? State.wg?
  cases s.unit? unit with
  | none => rfl
  | some u =>
    simp only [Option.bind_some, Option.map_some, List.getElem?_map]
    cases u.wgs[barWg wg n]? <;> rfl
theorem bar_congr {s t : State} {unit : Nat} (h : t.bars? unit = s.bars? unit) (wg n : Nat) : t.bar unit wg n = s.bar unit wg n := by
  rw [bar_eq, bar_eq, h]
theorem bars?_map_units {s : State} {f : Placed → Placed} (hid : ∀ u, (f u).id = u.id)
    (hf : ∀ u, (f u).wgs.map (·.bars) = u.wgs.map (·.bars)) (unit : Nat) :
    ({ s with units := s.units.map f } : State).bars? unit = s.bars? unit := by
  have hfind : (s.units.map f).find? (·.id == unit) = (s.units.find? (·.id == unit)).map f := by
    rw [List.find?_map]
    simp only [Function.comp_def, hid]
  simp only [State.bars?, State.unit?, hfind, Option.map_map, Function.comp_def, hf]
theorem map_zipIdx_bars {f : Workgroup × Nat → Workgroup} (hf : ∀ p, (f p).bars = p.1.bars) (gs : List Workgroup) :
    ((gs.zipIdx).map f).map (·.bars) = gs.map (·.bars) := by
  calc ((gs.zipIdx).map f).map (·.bars) = ((gs.zipIdx).map Prod.fst).map (·.bars) := by
        rw [List.map_map, List.map_map]
        exact List.map_congr_left fun p _ => hf p
    _ = gs.map (·.bars) := by rw [List.zipIdx_map_fst]
theorem bars?_progress (s : State) (party : Option WarpId) (unit : Nat) : (s.progress party).bars? unit = s.bars? unit := by
  refine bars?_map_units (fun u => ?_) (fun u => ?_) unit
  · rfl
  · exact map_zipIdx_bars (fun p => by dsimp only) u.wgs
theorem bars?_seeBar (s : State) (u wg n : Nat) (phase : Bool) (unit : Nat) : (s.seeBar u wg n phase).bars? unit = s.bars? unit := by
  refine bars?_map_units (fun v => ?_) (fun v => ?_) unit
  · split <;> rfl
  · split
    · refine map_zipIdx_bars (fun p => ?_) v.wgs
      dsimp only
      split <;> rfl
    · rfl
theorem wg?_modWg_self (s : State) (unit wg : Nat) (f : Workgroup → Workgroup) :
    (s.modWg unit wg f).wg? unit wg = (s.wg? unit wg).map f := by
  simp only [State.wg?, State.modWg, unit?_modUnit s unit unit (fun u => { u with wgs := modAt u.wgs wg f }) fun _ => rfl]
  cases hu : s.unit? unit with
  | none => rfl
  | some u => simp [unit?_id hu, modAt_getElem?]
/-- An object takes a new content, and no other object of its workgroup changes. -/
theorem bar_putBar {s : State} {unit wg n k : Nat} {g : Workgroup} (hg : s.wg? unit (barWg wg n) = some g) (hn : n < g.bars.length)
    (hk : barWg wg k = barWg wg n) (b : Barrier) :
    (s.putBar unit wg n b).bar unit wg k = if k = n then b else s.bar unit wg k := by
  rw [State.putBar, bar_congr (bars?_seeBar ..)]
  simp only [State.bar, State.setBar, hk, wg?_modWg_self, hg, Option.map_some, Option.bind_some, modAt_getElem?]
  split
  · rename_i hkn
    simp [hkn, hn]
  · rfl
theorem bar_barEvent {s : State} {unit wg n k : Nat} {g : Workgroup} (hg : s.wg? unit (barWg wg n) = some g) (hn : n < g.bars.length)
    (hk : barWg wg k = barWg wg n) (party : Option WarpId) (f : Barrier → Barrier) :
    (s.barEvent unit wg n party f).bar unit wg k = if k = n then (f (s.bar unit wg n)).test.1 else s.bar unit wg k := by
  rw [← bar_putBar hg hn hk]
  unfold State.barEvent
  dsimp only
  split
  · exact bar_congr (bars?_progress ..) wg k
  · rfl
/-- R174: the test after an event at an object. -/
theorem test_eq (x : Barrier) : x.test.1 = if (x.count = 0 ∨ x.pending = 0) ∧ x.bytes = 0 then
      { x with ltime := x.time, time := 0, err := decide (x.curErr.kind ≠ 0), phase := !x.phase, pending := x.count
               lastErr := x.curErr, curErr := ⟨0, 0, 0⟩ }
    else x := by
  have herr : (x.curErr.kind != 0) = decide (x.curErr.kind ≠ 0) := by simp [bne, BEq.beq]
  simp only [Barrier.test, herr, Bool.and_eq_true, Bool.or_eq_true, decide_eq_true_eq]
  split <;> rfl

/-- Settles O29: the object takes what the test leaves (`bar_barEvent`, `test_eq`). -/
theorem barrierPhases : Obligations.BarrierPhases := by
  unfold Obligations.BarrierPhases
  intro s unit wg n party f g hg hn x
  refine ⟨?_, fun k hkn hk => ?_⟩
  · rw [bar_barEvent hg hn rfl, if_pos rfl, test_eq]
  · have hsame : barWg wg k = barWg wg n := by simp only [barWg, hk]
    rw [bar_barEvent hg hn hsame, if_neg hkn]

/-! ### Barrier instructions at issue (R172 to R174, R434) -/

theorem expecting_false {s : State} {b : Bundle}
    (h : ∀ o ∈ s.ops, (∃ k vals, o.kind = .expect k vals) → ∀ x ∈ b.parts, o.w ≠ b.wid x.1) : s.expecting b = false := by
  simp only [State.expecting, List.any_eq_false, Bool.and_eq_true, List.any_eq_true, beq_iff_eq, not_and, not_exists]
  intro o ho hkind x hx
  refine h o ho ?_ x hx
  split at hkind
  · exact ⟨_, _, by assumption⟩
  · cases hkind
/-- No lane is picked of an issue none of whose lanes is to be. -/
theorem pick_parts_nil {b : Bundle} {s : State} {f : Thread → Bool} (h : ∀ c ∈ b.each s, f c.th = false) : (b.pick f).parts = [] := by
  refine List.filterMap_eq_nil_iff.2 fun ⟨wi, w, ls⟩ hp => ?_
  have hnone : (ls.filter fun l => ((w.threads[l]?).map f).getD false) = [] := by
    refine filter_eq_nil_of_false fun l hl => ?_
    cases ht : w.threads[l]? with
    | none => rfl
    | some t => exact h _ (mem_each hp hl ht)
  simp only [hnone]
theorem initBarrier_eq (count : Nat) : initBarrier count =
    ⟨0, 0, 0, BitVec.ofNat 13 count, BitVec.ofNat 13 count, false, false, ⟨0, 0, 0⟩, ⟨0, 0, 0⟩⟩ := rfl
theorem countIllegal_false {v : Word} (h : decide (v.toNat ≤ 4096) = true) : countIllegal v = false := by
  simpa [countIllegal] using h

/-! ### Expectations and arrivals that reach their object (R174, R175, R385) -/

section
variable {s : State} {o : MemOp} (ho : s.op? o.id = some o) (hstores : ∀ k ∈ o.waitSt, ∀ x ∈ s.ops, x.id ≠ k)
  (hahead : s.barAhead o = false)
include ho hstores hahead

theorem exec_arrival_expect {n : Nat} {vals : List (Nat × Nat)} (hk : o.kind = .expect n vals) :
    exec (.barrierArrivalApply o.id) s = .next (vals.foldl (fun t (_, v) => t.expectAt o.w n v) (s.dropOp o.id)) := by
  have hdone : s.storesDone o = true := by simpa [State.storesDone] using hstores
  change execBarrierArrivalApply o.id s = _
  simp only [execBarrierArrivalApply, ho, hdone, hahead, hk, Bool.not_true, Bool.or_self, Bool.false_eq_true, if_false]
theorem exec_arrival {n : Nat} {b : Bundle} (hk : o.kind = .arrive n) (hturn : s.mayRetire o.w = true)
    (hb : ({ s with ops := s.ops.filter (·.group != o.group) } : State).bundleOf o.w.unit o.w.wg (s.groupLanes o) = some b) :
    exec (.barrierArrivalApply o.id) s =
      let s1 := { s with ops := s.ops.filter (·.group != o.group) }
      if (s1.bar o.w.unit o.w.wg n).count = 0 then
        .next (s1.takeFault o.w.unit o.w.wg 0x01 true o.pc (b.hits ((encode (.barArrive (BitVec.ofNat 5 n))).getD 0) 0))
      else .next (((s1.arriveAll o.w.unit o.w.wg n ((s.groupLanes o).flatMap fun (wi, ls) => ls.map fun l => (wi, l))).retire b true
        fun _ _ t => { t with busy := none }).stay b) := by
  have hdone : s.storesDone o = true := by simpa [State.storesDone] using hstores
  change execBarrierArrivalApply o.id s = _
  simp only [execBarrierArrivalApply, ho, hdone, hahead, hk, hturn, hb, Bool.not_true, Bool.or_self, Bool.false_eq_true, if_false]
end

/-- Settles O28: at issue, no expectation of the issue's warps is under way (`expecting_false`), and each body goes on or waits; an
operation that reaches its object does what its kind says (`exec_arrival_expect`, `exec_arrival`). -/
theorem barrierInstructions : Obligations.BarrierInstructions := by
  unfold Obligations.BarrierInstructions
  intro n g none_ sent seen
  refine ⟨access_does rfl fun s b hok hnone => ?init, access_does rfl fun s b hok hnone => ?expect,
    access_does rfl fun s b hok hnone => ?arrive, access_does rfl fun s b hok hpass => ?pass, fun s b hb hr _ _ hstay => ?stay,
    fun s o ho hstores hahead => ⟨fun vals hk => ?expects, fun b hk hturn hb => ⟨fun hcount => ?arrives, fun hcount => ?fault⟩⟩⟩
  case init =>
    have hcounts : ∀ c ∈ b.each s, countIllegal (c.th.gr g.toNat).val = false := fun c hc => countIllegal_false (hok c hc)
    have hlegal : (b.pick fun t => countIllegal (t.gr g.toNat).val).hits ((encode (.barInit n g)).getD 0) 0 = [] := by
      rw [Bundle.hits, pick_parts_nil hcounts]
      rfl
    simp only [hlegal, expecting_false hnone, bne_self_eq_false, Bool.false_eq_true, if_false, Bundle.ordered, List.foldl_map,
      initBarrier_eq]
    rfl
  case expect =>
    simp only [expecting_false hnone, Bool.false_eq_true, if_false]
    rfl
  case arrive =>
    simp only [expecting_false hnone, Bool.false_eq_true, if_false, Bundle.ordered, List.foldl_map]
    rfl
  case pass =>
    obtain ⟨hnone, htime, hseen⟩ := hpass
    have hgo : (b.lanes.all (fun (_, _, _, t) => barPassed (s.bar b.u.id b.wg n.toNat) g t) &&
        decide ((s.bar b.u.id b.wg n.toNat).ltime.toNat ≤ s.now b.g.core)) = true := by
      rw [Bool.and_eq_true, List.all_eq_true, decide_eq_true_eq]
      exact ⟨hseen, htime⟩
    simp only [expecting_false hnone, hgo, Bool.false_eq_true, if_false, if_true]
    rfl
  case stay =>
    obtain ⟨hnone, hwaits⟩ := hstay
    have hstop : (b.lanes.all (fun (_, _, _, t) => barPassed (s.bar b.u.id b.wg n.toNat) g t) &&
        decide ((s.bar b.u.id b.wg n.toNat).ltime.toNat ≤ s.now b.g.core)) = false := by
      rw [Bool.and_eq_false_iff, List.all_eq_false, decide_eq_false_iff_not, not_le]
      rcases hwaits with htime | ⟨x, hx, hseen⟩
      · exact .inr htime
      · exact .inl ⟨x, hx, Bool.eq_false_iff.1 hseen⟩
    change execBarWait n g s = _
    rw [execBarWait, issueStd_ready hb hr]
    simp only [expecting_false hnone, hstop, Bool.false_eq_true, if_false, Bundle.ordered, List.foldl_map]
    rfl
  case expects => exact exec_arrival_expect ho hstores hahead hk
  case arrives => exact (exec_arrival ho hstores hahead hk hturn hb).trans (if_neg hcount)
  case fault =>
    refine ((exec_arrival ho hstores hahead hk hturn hb).trans (if_pos hcount)).trans ?_
    rw [BitVec.ofNat_toNat, BitVec.setWidth_eq]
    rfl

end Sys2Proof.Machine
end

section
/-! Refutation of what stands before an instruction (R85, R95, R99, R385): a warp whose turn it is not executes no collective. -/

namespace Sys2Proof.Machine

/-! ### A collective out of its warp's turn (R385) -/

/-- R385: a warp that may retire nothing executes no collective, whatever fault stands before it. -/
theorem collective_out_of_turn {s : State} {w : WarpId} (ends : Bool) (body : Bundle → State → Res) (h : s.mayRetire w = false) :
    s.collective w ends body = s := by
  simp only [State.collective, h, Bool.not_false, Bool.true_or, if_true]
  repeat' split
  all_goals rfl
/-- The lanes of one warp that is not on turn join its arrival set, and nothing else happens. -/
theorem collIssue_out_of_turn {i : Instr} {ends : Bool} {body : Bundle → State → Res} {s : State} {b : Bundle} {wi : Nat} {w : Warp}
    {ls : List Nat} (hb : s.bundle? = some b) (hidle : b.idle = true) (hparts : b.parts = [(wi, w, ls)]) (harr : w.arrival = none)
    (hturn : (s.joined b i).mayRetire (b.wid wi) = false) : collIssue i ends body s = .next (s.joined b i) := by
  have hnone : b.diverge i = ([], false) := by simp [Bundle.diverge, hparts, harr]
  have hgather : b.parts.foldl (fun t (wi, _, _) => t.collective (b.wid wi) ends body) (s.joined b i) = s.joined b i := by
    simp only [hparts, List.foldl_cons, List.foldl_nil]
    exact collective_out_of_turn ends body hturn
  simp only [collIssue, hb, hidle, hnone, Bool.not_true, Bool.false_eq_true, if_false]
  exact congrArg Host.Outcome.next hgather

/-- A unit of one warp in deterministic mode, whose one live lane issues; its launch declares one tile, and the turn of its warp has
retired a whole quantum. -/
def spentTurn : State :=
  let s := State.reset.probe 32 0
  { s with
    issue := ⟨1, 0, [(0, [0])]⟩
    units := s.units.map fun u => { u with cfg := { u.cfg with det := 1, tiles := 1 }, turnCount := u.cfg.quantum } }
/-- TZERO of a tile that the header does not declare. -/
def undeclaredTile : Instr := .tzero 1
/-- The issue's bundle, its warp `w`, and the bundle and warp once its lanes have arrived, `b1` and `x`, meet the hypotheses on such
a tile; the warp may not retire; and the fault that the statement has it take would end its unit. -/
def gathersSpent (b : Bundle) (w : Warp) (b1 : Bundle) (x : Warp) : Bool :=
  let t := spentTurn.joined b undeclaredTile
  b.idle && b.parts == [(0, w, w.live)] && w.arrival == none && b1.parts == [(0, x, x.live)] && b1.u.state == .running &&
    !undeclaredTile.illegalIn b1.u.cfg && undeclaredTile.badHint b1.u.cfg b1.hints == none && undeclaredTile.regOver b1.u.cfg == none &&
    undeclaredTile.tiles.find? (· ≥ b1.u.cfg.tiles) == some 1 && !t.mayRetire (b.wid 0) &&
    t.units.map (·.faulted) == [false] && (t.takeFault b.u.id b.wg 0x0A true b.pc (b1.hits 1 0)).units.map (·.faulted) == [true]
theorem spentTurn_gathers : (spentTurn.bundle?.any fun b => (spentTurn.warp? (b.wid 0)).any fun w =>
    ((spentTurn.joined b undeclaredTile).warp? (b.wid 0)).any fun x =>
      ((spentTurn.joined b undeclaredTile).bundleOf b.u.id b.wg [(0, x.live)]).any fun b1 => gathersSpent b w b1 x) = true := by
  decide +kernel

/-- Refutes O38: its clauses about the faults of a collective's word lack the hypothesis that the warp may retire (`State.mayRetire`).
In deterministic mode a collective waits for its warp's turn before it meets these faults (`collective_out_of_turn`): in `spentTurn`
the lanes join the arrival set and no fault is taken. -/
theorem not_issueFaults : ¬ Obligations.IssueFaults := by
  unfold Obligations.IssueFaults
  intro h
  obtain ⟨b, hb, hgathers⟩ := (Option.any_eq_true _ _).1 spentTurn_gathers
  obtain ⟨w, -, hgathers⟩ := (Option.any_eq_true _ _).1 hgathers
  obtain ⟨x, -, hgathers⟩ := (Option.any_eq_true _ _).1 hgathers
  obtain ⟨b1, hb1, hgathers⟩ := (Option.any_eq_true _ _).1 hgathers
  simp only [gathersSpent, Bool.and_eq_true, beq_iff_eq, Bool.not_eq_true'] at hgathers
  obtain ⟨⟨⟨⟨⟨⟨⟨⟨⟨⟨⟨hidle, hparts⟩, harr⟩, hparts1⟩, hrun⟩, hlegal⟩, hhint⟩, hreg⟩, htile⟩, hturn⟩, hruns⟩, hends⟩ := hgathers
  obtain ⟨-, hcollective, -⟩ := h
  have hword := hcollective undeclaredTile spentTurn b b1 0 w x rfl (fun k hk => nomatch hk) hb hidle hparts harr hb1 hparts1 hrun
  have hstated := hword.2.2.2 hlegal hhint hreg 1 htile
  have hmodel : exec undeclaredTile spentTurn = .next (spentTurn.joined b undeclaredTile) :=
    collIssue_out_of_turn (body := bodyTzero 1) hb hidle hparts harr hturn
  have hsame := Host.Outcome.next.inj (hmodel.symm.trans hstated)
  exact absurd (hruns.symm.trans ((congrArg (fun t => t.units.map (·.faulted)) hsame).trans hends)) (by decide)

end Sys2Proof.Machine
end

section
/-! Proof of what appending a node to a tile changes and leaves (R196, R213, R215, R216, R236, R246). -/

namespace Sys2Proof.Machine

/-! ### A tile after a write of a tile (R213) -/

theorem tile_setTile_self {w : Warp} {m : Nat} (hm : m < w.tiles.length) (f : Tile → Tile) :
    (w.setTile m f).tile m = f (w.tile m) := by
  simp [Warp.tile, Warp.setTile, modAt_getElem?, List.getElem?_eq_getElem hm]
theorem tile_setTile_of_ne {m k : Nat} (h : k ≠ m) (w : Warp) (f : Tile → Tile) : (w.setTile m f).tile k = w.tile k := by
  simp [Warp.tile, Warp.setTile, modAt_getElem?, h]

/-! ### What the drops leave (R216) -/

@[simp] theorem dropFrom_tile (k : Nat) (w : Warp) (m : Nat) : (dropFrom k w).tile m = w.tile m := by
  induction k generalizing w with
  | zero => rfl
  | succ k ih => exact ih (dropOnce w)
@[simp] theorem dropFrom_threads (k : Nat) (w : Warp) : (dropFrom k w).threads = w.threads := by
  induction k generalizing w with
  | zero => rfl
  | succ k ih => exact ih (dropOnce w)
/-- R216: no drop takes a node whose result is its tile's version. -/
theorem mem_dropFrom {w : Warp} {y : Node} (k : Nat) (hy : y ∈ w.graph) (hver : superseded w y = false) :
    y ∈ (dropFrom k w).graph := by
  induction k generalizing w with
  | zero => exact hy
  | succ k ih => exact ih (List.mem_filter.2 ⟨hy, by simp [hver]⟩) hver
/-- A last node whose result is its tile's version stays last, and the drops only thin out the nodes before it. -/
theorem dropFrom_append {w : Warp} {g : List Node} {x : Node} (k : Nat) (hg : w.graph = g ++ [x]) (hver : superseded w x = false) :
    ∃ g', (dropFrom k w).graph = g' ++ [x] ∧ g' ⊆ g := by
  induction k generalizing w g with
  | zero => exact ⟨g, hg, List.Subset.refl g⟩
  | succ k ih =>
    have honce : (dropOnce w).graph = (g.filter fun n => !(superseded w n && !w.graph.any fun m => nodeReads m n.dst)) ++ [x] := by
      simp only [dropOnce]
      conv_lhs => arg 2; rw [hg]
      simp [List.filter_append, hver]
    obtain ⟨g', hgraph, hsub⟩ := ih honce hver
    exact ⟨g', hgraph, fun y hy => List.mem_of_mem_filter (hsub hy)⟩

/-! ### The draws that a node reserves (R196, R246) -/

/-- R196: the elements of a node of n that draw from lane l. -/
theorem countP_lane (n : Nat) {l : Nat} (hl : l < 32) :
    ((List.range n).countP fun e => e % 32 == l) = n / 32 + if l < n % 32 then 1 else 0 := by
  have hcount := Nat.count_modEq_card n (by decide : 0 < 32) l
  rw [Nat.mod_eq_of_lt hl] at hcount
  rw [← hcount, Nat.count]
  refine List.countP_congr fun e _ => ?_
  simp [Nat.ModEq, Nat.mod_eq_of_lt hl]
/-- The warp once a node of n elements has reserved its draws; a node that does not round by SR has n = 0 and reserves none. -/
def Warp.reserved (w : Warp) (n : Nat) : Warp := if n = 0 then w else (reserveDraws w n).1
@[simp] theorem reserved_tiles (w : Warp) (n : Nat) : (w.reserved n).tiles = w.tiles := by
  rw [Warp.reserved]; split <;> rfl
theorem reserved_threads_length (w : Warp) (n : Nat) : (w.reserved n).threads.length = w.threads.length := by
  rw [Warp.reserved]; split
  · rfl
  · simp [reserveDraws]
theorem reserved_thread {w : Warp} {l : Nat} {t : Thread} (n : Nat) (hl : l < 32) (ht : w.threads[l]? = some t) :
    (w.reserved n).threads[l]? =
      some { t with draws := t.draws + BitVec.ofNat 34 ((List.range n).countP fun e => e % 32 == l) } := by
  rw [Warp.reserved]
  split
  case isTrue h => simpa [h] using ht
  case isFalse => simp [reserveDraws, List.getElem?_zipIdx, ht, countP_lane n hl]

/-! ### The append itself (R213, R215, R236) -/

/-- R236: the union of what the append brings and the taints of the operands. -/
def opsTaint (w : Warp) (ops : List Nat) (extra : Mask) : Mask := ops.foldl (fun k o => k ||| (w.tile o).mask) extra
/-- R215: the node that an append files, from the warp as it stood. -/
def filedNode (w : Warp) (kind : NodeKind) (m : Nat) (ops : List Nat) (slot : SlotNum) (dual : Bool) (pc : VAddr) (extra : Mask)
    (n : Nat) : Node :=
  ⟨kind, (m, (w.tile m).ver + 1), ops.map fun o => (o, (w.tile o).ver), slot, dual, pc, opsTaint w ops extra,
    if n = 0 then [] else w.threads.map (·.draws)⟩
/-- The warp with the draws reserved, the new version of the destination and the node filed, before any drop. -/
def Warp.filed (w : Warp) (ops : List Nat) (extra : Mask) (n : Nat) (x : Node) : Warp :=
  { (w.reserved n).setTile x.dst.1 fun t => { t with ver := x.dst.2, mask := opsTaint w ops extra } with graph := w.graph ++ [x] }
theorem appendNode_eq (w : Warp) (kind : NodeKind) (m : Nat) (ops : List Nat) (slot : SlotNum) (dual : Bool) (pc : VAddr)
    (extra : Mask) (n : Nat) : appendNode w kind m ops slot dual pc extra n =
      (w.filed ops extra n (filedNode w kind m ops slot dual pc extra n)).dropDead := by
  by_cases h : n = 0
  · simp only [appendNode, Warp.filed, Warp.reserved, filedNode, if_pos h]; rfl
  · simp only [appendNode, Warp.filed, Warp.reserved, filedNode, if_neg h]; rfl
theorem filed_tile_self {w : Warp} {x : Node} (hx : x.dst.1 < w.tiles.length) (ops : List Nat) (extra : Mask) (n : Nat) :
    (w.filed ops extra n x).tile x.dst.1 = { w.tile x.dst.1 with ver := x.dst.2, mask := opsTaint w ops extra } :=
  (tile_setTile_self (w := w.reserved n) (by simpa using hx) _).trans (by simp [Warp.tile])
theorem filed_tile_of_ne {x : Node} {k : Nat} (h : k ≠ x.dst.1) (w : Warp) (ops : List Nat) (extra : Mask) (n : Nat) :
    (w.filed ops extra n x).tile k = w.tile k :=
  (tile_setTile_of_ne h (w.reserved n) _).trans (by simp [Warp.tile])

/-- Settles O17: an append is `Warp.filed` and then the drops (`appendNode_eq`), which take no node whose result is its tile's version
(`mem_dropFrom`, `dropFrom_append`); the draws of a lane by `reserved_thread`. -/
theorem nodeAppended : Obligations.NodeAppended := by
  unfold Obligations.NodeAppended
  intro w kind m ops slot dual pc extra n hm w'
  let x := filedNode w kind m ops slot dual pc extra n
  have hw' : w' = (w.filed ops extra n x).dropDead := appendNode_eq ..
  have hself : w'.tile m = { w.tile m with ver := (w.tile m).ver + 1, mask := opsTaint w ops extra } := by
    rw [hw', Warp.dropDead, dropFrom_tile]
    exact filed_tile_self (x := x) hm ops extra n
  have hother (k : Nat) (hk : k ≠ m) : w'.tile k = w.tile k := by
    rw [hw', Warp.dropDead, dropFrom_tile]
    exact filed_tile_of_ne (x := x) hk w ops extra n
  have hthreads : w'.threads = (w.reserved n).threads := by
    rw [hw', Warp.dropDead, dropFrom_threads]
    rfl
  have hfresh : superseded (w.filed ops extra n x) x = false := by
    rw [superseded, filed_tile_self (x := x) hm]
    exact bne_self_eq_false _
  obtain ⟨g, hgraph, hsub⟩ := dropFrom_append (w.filed ops extra n x).graph.length (g := w.graph) rfl hfresh
  have hgraph' : w'.graph = g ++ [x] := hw' ▸ hgraph
  refine ⟨?ver, ?data, ?cfg, hother, ?taint, ?last, ?lanes, ?draws, ?older, ?kept⟩
  case ver => rw [hself]
  case data => rw [hself]
  case cfg => rw [hself]
  case taint => rw [hself]; rfl
  case last => rw [hgraph', List.getLast?_concat]; rfl
  case lanes => rw [hthreads, reserved_threads_length]
  case draws => exact fun l t hl ht => by rw [hthreads, reserved_thread n hl ht]
  case older =>
    intro y hy
    rw [hgraph', List.dropLast_concat] at hy
    exact hsub hy
  case kept =>
    intro y hy hdst hver
    rw [hw']
    refine mem_dropFrom _ (List.mem_append_left _ hy) ?_
    rw [superseded, filed_tile_of_ne (x := x) hdst, hver]
    exact bne_self_eq_false _

end Sys2Proof.Machine
end

section
/-! Proof of the eager writes of a tile by TCFG, TDROP and TWR (R207, R208, R217, R249, R265, R267, R269). -/

namespace Sys2Proof.Machine

/-! ### A collective whose live lanes have arrived (R99, R100) -/

theorem live_ne_nil_of_bundleOf {s : State} {u wg wi : Nat} {x : Warp} {b : Bundle} (h : s.bundleOf u wg [(wi, x.live)] = some b) :
    x.live ≠ [] := by
  intro hnil
  rw [hnil, State.bundleOf] at h
  cases hu : s.unit? u with
  | none => simp [hu] at h
  | some un =>
    cases hg : un.wgs[wg]? with
    | none => simp [hu, hg] at h
    | some g => cases hw : g.warps[wi]? <;> simp [hu, hg, hw] at h
/-- The warp whose lanes have arrived is the one that the hypotheses on a collective name, and all its live lanes stand in its arrival
set. -/
theorem CollReady.gathered {i : Instr} {s : State} {b : Bundle} {wi : Nat} {b1 : Bundle} {x : Warp} (h : CollReady i s b wi b1 x) :
    (s.joined b i).warp? (b.wid wi) = some x ∧ x.arrival = some ⟨b.pc, b.hints, i, x.live⟩ := by
  obtain ⟨hb, -, ⟨w, hparts, harr⟩, hb1, hparts1, -⟩ := h
  have hw : s.warp? (b.wid wi) = some w := warp?_of_bundleOf (l := w.live) hb (by simp [hparts])
  obtain ⟨hunit, hwg, -⟩ := bundleOf_u hb1
  have hwid : b1.wid wi = b.wid wi := by rw [Bundle.wid, Bundle.wid, hunit, hwg]
  have hx : (s.joined b i).warp? (b.wid wi) = some x := hwid ▸ warp?_of_bundleOf (l := x.live) hb1 (by simp [hparts1])
  have hjoined : (s.joined b i).warp? (b.wid wi) = some (arrive b i w.live w) := by
    simp [State.joined, hparts, warp?_modWarp_self, hw]
  obtain rfl : x = arrive b i w.live w := Option.some.inj (hx.symm.trans hjoined)
  exact ⟨hx, by rw [arrive_live]; simp [arrive, harr]⟩
/-- R99: the last arrival executes the collective. -/
theorem CollReady.exec_eq {i : Instr} {body : Bundle → State → Res} (he : exec i = collIssue i false body) {s : State} {b : Bundle}
    {wi : Nat} {b1 : Bundle} {x : Warp} (h : CollReady i s b wi b1 x) :
    exec i s = .next ((s.joined b i).collective (b.wid wi) false body) := by
  obtain ⟨hb, hidle, ⟨w, hparts, harr⟩, -⟩ := h
  have hnone : b.diverge i = ([], false) := by simp [Bundle.diverge, hparts, harr]
  have hgather : b.parts.foldl (fun t (wi, _, _) => t.collective (b.wid wi) false body) (s.joined b i) =
      (s.joined b i).collective (b.wid wi) false body := by
    rw [hparts, List.foldl_cons, List.foldl_nil]
  simp only [he, collIssue, hb, hidle, hnone, Bool.not_true, Bool.false_eq_true, if_false]
  exact congrArg Host.Outcome.next hgather
/-- R85, R112: a collective whose meaning is a fault takes it, with these hits. -/
theorem coll_faults {i : Instr} {body : Bundle → State → Res} {code : Nat} {bad : Bundle → Warp → Prop}
    {hits : Bundle → Nat → Warp → List Hit} (he : exec i = collIssue i false body)
    (hbody : ∀ b1 s1 wi x, b1.parts = [(wi, x, x.live)] → bad b1 x → body b1 s1 = .bad code (hits b1 wi x)) :
    CollFaults i code bad hits := by
  intro s b wi b1 x h hbad
  obtain ⟨hx, harr⟩ := h.gathered
  rw [h.exec_eq he]
  obtain ⟨-, -, -, hb1, hparts1, -, hfree, hpend, hturn, hgoing⟩ := h
  have hlanes : (x.live.any fun l => !x.live.contains l) = false := by simp
  have hhalt : (b1.lanes.any fun (_, _, _, t) => t.halted) = false := by
    rw [List.any_eq_false]
    intro y hy
    simpa using List.all_eq_true.1 hgoing y hy
  have hunit : (s.joined b i).bundleOf (b.wid wi).unit (b.wid wi).wg [((b.wid wi).warp, x.live)] = some b1 := hb1
  simp only [State.collective, hx, harr, live_ne_nil_of_bundleOf hb1, hlanes, decide_false, Bool.or_self, Bool.false_eq_true, if_false,
    hunit, hturn, hhalt, Bool.not_true, early_none hfree, hpend, hbody b1 _ wi x hparts1 hbad]
  rfl
/-- A collective whose body changes its warp, and nothing else. -/
theorem warp_does {i : Instr} {body : Bundle → State → Res} {ok : Bundle → State → Nat → Warp → Prop}
    {eff : Bundle → State → Nat → Warp → Warp} (he : exec i = collIssue i false body)
    (hbody : ∀ b1 s1 wi x, b1.parts = [(wi, x, x.live)] → x.live ≠ [] → ok b1 s1 wi x →
      ∃ f, body b1 s1 = .done (s1.modWarp (b1.wid wi) f) ∧ f x = eff b1 s1 wi x) : CollDoes i ok eff sameOps := by
  refine coll_does he fun b1 s1 wi x hx hparts hlive hok => ?_
  obtain ⟨f, hdone, heff⟩ := hbody b1 s1 wi x hparts hlive hok
  refine ⟨_, hdone, modWarp_home .., ?_, fun t' hops _ => hops.trans (modWarp_ops ..)⟩
  rw [warp?_modWarp_self, hx, Option.map_some, heff]

/-! ### The operands of a tile instruction, and what it waits for (R212, R217, R218, R221) -/

theorem thread_of_mem_live {w : Warp} {l : Nat} (h : l ∈ w.live) : ∃ t, w.threads[l]? = some t := by
  cases ht : w.threads[l]? with
  | none => simp [Warp.live, ht] at h
  | some t => exact ⟨t, rfl⟩
theorem lead_of_live {w : Warp} (h : w.live ≠ []) : ∃ t, w.lead = some t := by
  obtain ⟨l, ls, hl⟩ := List.exists_cons_of_ne_nil h
  obtain ⟨t, ht⟩ := thread_of_mem_live (w := w) (l := l) (by simp [hl])
  exact ⟨t, by simp [Warp.lead, hl, ht]⟩
theorem tileBody_eq {f : Nat → Warp → List Nat → Thread → Bundle → State → Res} {b : Bundle} {wi : Nat} {w : Warp} {t : Thread}
    (hparts : b.parts = [(wi, w, w.live)]) (hlead : w.lead = some t) (s : State) : tileBody f b s = f wi w w.live t b s := by
  obtain ⟨l, hhead, ht⟩ := Option.bind_eq_some_iff.1 hlead
  obtain ⟨ls, hl⟩ := List.head?_eq_some_iff.1 hhead
  simp only [tileBody, hparts, hl, ht]
/-- R210: a tile instruction whose tile has no configuration raises TILE_SHAPE. -/
theorem conf_faults {i : Instr} {f : Nat → Warp → List Nat → Thread → Bundle → State → Res} {m : Nat}
    (he : exec i = collIssue i false (tileBody f))
    (hf : ∀ wi w ls t b s, w.conf b.u.cfg m = none → f wi w ls t b s = b.shapeBad i) :
    WordFault i 0x0B fun b x => x.conf b.u.cfg m = none ∧ x.lead.isSome :=
  coll_faults he fun b1 s1 wi x hparts ⟨hconf, hlead⟩ => by
    obtain ⟨t, hlead⟩ := Option.isSome_iff_exists.1 hlead
    rw [tileBody_eq hparts hlead, hf _ _ _ _ _ _ hconf]
    rfl
theorem forceReaders_none {b : Bundle} {s : State} {wi : Nat} {w : Warp} {m : Nat} (hunread : unread w m)
    (hfree : tileFree b s wi w m) (ls : List Nat) : forceReaders s b wi w ls m = none := by
  obtain ⟨hland, heval⟩ := hfree
  have hreaders : (w.graph.filter fun n => n.ops.any fun o => o.1 == m) = [] :=
    List.filter_eq_nil_iff.2 fun n hn hreads => by
      obtain ⟨o, ho, hm⟩ := List.any_eq_true.1 hreads
      exact hunread n hn o ho (beq_iff_eq.1 hm)
  simp [forceReaders, hreaders, hland, heval]
theorem forceTile_none {b : Bundle} {s : State} {wi : Nat} {w : Warp} {m : Nat} (hval : evaluated w m)
    (hfree : tileFree b s wi w m) (ls : List Nat) : forceTile s b wi w ls m = none := by
  obtain ⟨hland, heval⟩ := hfree
  have hpending : (w.graph.any fun n => n.dst == (m, (w.tile m).ver)) = false := by
    simpa [evaluated] using hval
  simp [forceTile, hpending, hland, heval]

/-! ### Index words (R267) -/

/-- A lane whose index word names no element and no scale of the tile. -/
def Warp.idxFails (w : Warp) (tc : TCfg) (idx : GNum) (l : Nat) : Bool :=
  ((w.threads[l]?).map fun t => !tidxOk tc (t.gr idx.toNat).val.toNat).getD false
theorem filter_idxFails (w : Warp) (tc : TCfg) (idx : GNum) :
    (w.live.filter fun l => !tidxOk tc (((w.threads[l]?).map fun t => (t.gr idx.toNat).val.toNat).getD 0)) =
      w.live.filter (w.idxFails tc idx) := by
  refine List.filter_congr fun l hl => ?_
  obtain ⟨t, ht⟩ := thread_of_mem_live hl
  simp [Warp.idxFails, ht]
theorem idxBad_nil {w : Warp} {tc : TCfg} {idx : GNum}
    (h : ∀ l ∈ w.live, ∀ t, w.threads[l]? = some t → tidxOk tc (t.gr idx.toNat).val.toNat = true) (b : Bundle) (wi word : Nat) :
    b.idxBad wi w w.live tc idx word = [] := by
  have hnone : w.live.filter (w.idxFails tc idx) = [] := by
    refine List.filter_eq_nil_iff.2 fun l hl => ?_
    obtain ⟨t, ht⟩ := thread_of_mem_live hl
    simp [Warp.idxFails, ht, h l hl t ht]
  simp only [Bundle.idxBad, filter_idxFails, hnone]
theorem idxBad_cons {w : Warp} {tc : TCfg} {idx : GNum} (h : w.live.any (w.idxFails tc idx) = true) (b : Bundle) (wi word : Nat) :
    b.idxBad wi w w.live tc idx word = [⟨wi, w.live.filter (w.idxFails tc idx), word, 0, []⟩] := by
  simp only [Bundle.idxBad, filter_idxFails]
  split
  case h_1 hnone =>
    obtain ⟨l, hl, hfails⟩ := List.any_eq_true.1 h
    exact absurd hfails (List.filter_eq_nil_iff.1 hnone l hl)
  case h_2 => rfl

/-! ### TCFG, TDROP and TWR (R249, R265, R269) -/

section
variable {b : Bundle} {s : State} {wi : Nat} {x : Warp} {m : MNum} {g idx : GNum}

/-- R249: the new version has the configuration word and zero data. -/
theorem bodyTcfg_ok {t : Thread} (hparts : b.parts = [(wi, x, x.live)]) (hlead : x.lead = some t)
    (hword : cfgWord b.u.cfg (t.gr g.toNat).val.toNat = .ok) (hunread : unread x m.toNat) (hfree : tileFree b s wi x m.toNat) :
    bodyTcfg m g b s = .done (s.modWarp (b.wid wi) fun x => eagerWrite x m.toNat fun y =>
      ⟨some (t.gr g.toNat).val, [], [], y.ver, 0, [], [], none⟩) := by
  rw [bodyTcfg, tileBody_eq hparts hlead]
  simp only [hword, forceReaders_none hunread hfree]
  rfl
/-- R265: the new version has the configuration and zero data. -/
theorem bodyTdrop_ok {t : Thread} (hparts : b.parts = [(wi, x, x.live)]) (hlead : x.lead = some t)
    (hconf : (x.conf b.u.cfg m.toNat).isSome) (hunread : unread x m.toNat) (hfree : tileFree b s wi x m.toNat) :
    bodyTdrop m b s = .done (s.modWarp (b.wid wi) fun x => eagerWrite x m.toNat fun y => ⟨y.cfg, [], [], y.ver, 0, [], [], none⟩) := by
  rw [bodyTdrop, tileBody_eq hparts hlead]
  simp only [Option.isNone_eq_false_iff.2 hconf, forceReaders_none hunread hfree]
  rfl
/-- The tile once each live lane's element has been written, lanes ascending (R269, log entry 107), with the taints of what was read
(R236). -/
def Warp.written (x : Warp) (c : LaunchCfg) (tc : TCfg) (m : MNum) (g idx : GNum) (y : Tile) : Tile :=
  let sl := c.slot tc.slot
  let ths := x.live.filterMap fun l => x.threads[l]?
  { ths.foldl (fun z t => tileWrite tc ((sl.map (·.sat)).getD false) ((sl.map (·.isat)).getD false) z
      (t.gr idx.toNat).val.toNat (t.gr g.toNat).val) y with
    mask := ths.foldl (fun k t => k ||| ((t.gr g.toNat).mask ||| (t.gr idx.toNat).mask)) (x.tile m.toNat).mask
    shData := []
    shScales := [] }
/-- R269: the new version has the elements of the live lanes. -/
theorem bodyTwr_ok {t : Thread} {tc : TCfg} (hparts : b.parts = [(wi, x, x.live)]) (hlead : x.lead = some t)
    (hconf : x.conf b.u.cfg m.toNat = some tc)
    (hidx : ∀ l ∈ x.live, ∀ t, x.threads[l]? = some t → tidxOk tc (t.gr idx.toNat).val.toNat = true)
    (hunread : unread x m.toNat) (hval : evaluated x m.toNat) (hfree : tileFree b s wi x m.toNat) :
    bodyTwr m g idx b s = .done (s.modWarp (b.wid wi) fun w => eagerWrite w m.toNat (x.written b.u.cfg tc m g idx)) := by
  rw [bodyTwr, tileBody_eq hparts hlead]
  simp only [hconf, idxBad_nil hidx, forceTile_none hval hfree, forceReaders_none hunread hfree, maskOf_gg]
  rfl
end

/-- Settles O18: with no pending reader and nothing that holds the tile, the body writes it in its warp (`warp_does`); otherwise its
meaning is a fault (`coll_faults`). -/
theorem tileEagerWrites : Obligations.TileEagerWrites := by
  unfold Obligations.TileEagerWrites
  intro m g idx
  refine ⟨?tcfg, ?tdrop, ?twr, ?word, ?bare, ?index⟩
  case tcfg =>
    refine warp_does rfl fun b1 s1 wi x hparts _ ⟨hunread, hfree, t, hlead, hword⟩ => ?_
    exact ⟨_, bodyTcfg_ok hparts hlead hword hunread hfree, by rw [hlead]⟩
  case tdrop =>
    refine warp_does rfl fun b1 s1 wi x hparts hlive ⟨hunread, hfree, hconf⟩ => ?_
    obtain ⟨t, hlead⟩ := lead_of_live hlive
    exact ⟨_, bodyTdrop_ok hparts hlead hconf hunread hfree, rfl⟩
  case twr =>
    refine warp_does rfl fun b1 s1 wi x hparts hlive ⟨hunread, hval, hfree, tc, hconf, hidx⟩ => ?_
    obtain ⟨t, hlead⟩ := lead_of_live hlive
    exact ⟨_, bodyTwr_ok hparts hlead hconf hidx hunread hval hfree, by rw [hconf]; rfl⟩
  case word =>
    intro y hy
    refine coll_faults rfl fun b1 s1 wi x hparts ⟨t, hlead, hword⟩ => ?_
    rw [bodyTcfg, tileBody_eq hparts hlead]
    simp only [List.mem_cons, List.not_mem_nil, or_false] at hy
    rcases hy with rfl | rfl
    · simp only [hword]
    · simp only [hword]
      rfl
  case bare =>
    intro i hi
    simp only [List.mem_cons, List.not_mem_nil, or_false] at hi
    rcases hi with rfl | rfl
    · exact conf_faults rfl fun wi w ls t b s hconf => by simp only [hconf]; rfl
    · exact conf_faults rfl fun wi w ls t b s hconf => by simp only [hconf]
  case index =>
    intro tc bad
    refine coll_faults rfl fun b1 s1 wi x hparts ⟨hconf, hlead, hbad⟩ => ?_
    obtain ⟨t, hlead⟩ := Option.isSome_iff_exists.1 hlead
    rw [bodyTwr, tileBody_eq hparts hlead]
    simp only [hconf, idxBad_cons (idx := idx) (tc := tc) hbad]
    rfl

end Sys2Proof.Machine
end

section
/-! Refutation of the statement about tile loads and stores at issue (R217, R236, R250 to R254, R393). -/

namespace Sys2Proof.Machine

/-! ### The taint of a tile load whose operation has a number of its own (R107, R236, R251) -/

/-- An operation is found by its number when no other under way has that number. -/
theorem op?_addOp_fresh {s : State} {W : WarpId} {w : Warp} {ctr : Option Counter} {tagged : Bool} {regs : List RegName}
    {mk : Option Nat → Nat → MemOp} (hw : s.warp? W = some w) (hid : ∀ tag id, (mk tag id).id = id)
    (hfresh : ∀ o ∈ s.ops, o.id ≠ s.nextId) :
    (s.addOp W ctr tagged regs mk).op? s.nextId = some (mk (tagFor tagged w (s.now (s.coreOf W))) s.nextId) := by
  have hnone : s.ops.find? (·.id == s.nextId) = none := List.find?_eq_none.2 fun o ho => by simpa using hfresh o ho
  simp [State.op?, ops_addOp hw, List.find?_append, hnone, hid]
/-- The operation of a tile load (R250, R251, R406). -/
def tileLoadOp (b : Bundle) (s : State) (wi m : Nat) (ls : List Nat) (ps : List Part) (mask : Mask) (tag : Option Nat) (id : Nat) : MemOp :=
  { MemOp.plain (b.wid wi) b.g.core b.pc (.tld m) ls ps id with
    tag := tag, mask := (tag.map tagMask).getD 0 ||| mask, waitSt := s.forwarders b.g.core ps
    due := if ps.all (·.st == .done) then s.clk + 32 else 0 }
/-- The clauses that the refutation below turns on, with the hypothesis that they lack: the new version has the taint of the load's tag
and of its operands. -/
theorem beginTileLoad_fresh {s : State} {b : Bundle} {wi : Nat} {w : Warp} (hw : s.warp? (b.wid wi) = some w)
    (hfresh : ∀ o ∈ s.ops, o.id ≠ s.nextId) (m : Nat) (ls : List Nat) (ps : List Part) (tagged : Bool) (mask : Mask) :
    s.beginTileLoad b wi m ls ps tagged mask =
      (s.addOp (b.wid wi) (some .ld) tagged [] (tileLoadOp b s wi m ls ps mask)).modWarp (b.wid wi) fun x =>
        (eagerWrite x m fun y =>
          { y with
            data := [], scales := [], shData := [], shScales := [], inflight := some s.nextId
            mask := ((tagFor tagged w (s.now (s.coreOf (b.wid wi)))).map tagMask).getD 0 ||| mask }).addCounter .tl true := by
  have hop := op?_addOp_fresh (ctr := some .ld) (tagged := tagged) (regs := []) (mk := tileLoadOp b s wi m ls ps mask) hw
    (fun _ _ => rfl) hfresh
  have hmask : (((s.addOp (b.wid wi) (some .ld) tagged [] (tileLoadOp b s wi m ls ps mask)).op? s.nextId).map (·.mask)).getD mask =
      ((tagFor tagged w (s.now (s.coreOf (b.wid wi)))).map tagMask).getD 0 ||| mask := by rw [hop]; rfl
  rw [← hmask]
  rfl

/-! ### An operation with the number that the next one takes -/

/-- One unit of one warp, whose one live lane issues; its tile 0 is configured, of two rows of 4 bytes. The one operation under way
has the taint of tag 0, and the number that the next operation takes. -/
def doubledState : State :=
  let s := State.reset.probe 32 0
  { s with
    issue := ⟨1, 0, [(0, [0])]⟩
    units := s.units.map fun u => { u with
      cfg := { u.cfg with slots := [2] }
      wgs := u.wgs.map fun g => { g with warps := g.warps.map fun w => w.setTile 0 fun t => { t with cfg := some 193 } } }
    ops := [{ MemOp.plain ⟨1, 0, 0⟩ 0 0x1000 .store [0] [] s.nextId with mask := 1 }] }
/-- A load of tile 0 from the start of the scratchpad, by registers that hold 0 and carry no taint. -/
def doubledLoad : Instr := .tlds 0 0 0
/-- The issue's bundle; its warp, and the bundle again, once the lane has arrived. -/
def doubledIssue : Bundle := doubledState.bundle?.get (by decide +kernel)
def doubledWarp : Warp := ((doubledState.joined doubledIssue doubledLoad).warp? ⟨1, 0, 0⟩).get (by decide +kernel)
def doubledBundle : Bundle :=
  ((doubledState.joined doubledIssue doubledLoad).bundleOf 1 0 [(0, doubledWarp.live)]).get (by decide +kernel)
/-- The taint of tile 0 of the warp, in the next state of an outcome. -/
def tileTaint : Host.Outcome State Fault Refusal → Option Mask
  | .next t => (t.warp? ⟨1, 0, 0⟩).map fun w => (w.tile 0).mask
  | _ => none

theorem doubledIssue_parts : (doubledState.warp? ⟨1, 0, 0⟩).any (fun w =>
    doubledIssue.parts == [(0, w, w.live)] && w.arrival == none) = true := by decide +kernel
theorem doubledState_gathers : CollReady doubledLoad doubledState doubledIssue 0 doubledBundle doubledWarp := by
  obtain ⟨w, -, hw⟩ := (Option.any_eq_true _ _).1 doubledIssue_parts
  rw [Bool.and_eq_true, beq_iff_eq, beq_iff_eq] at hw
  refine ⟨(Option.some_get _).symm, ?_, ⟨w, hw⟩, ?_, ?_, ?_, ?_, ?_, ?_, ?_⟩
  all_goals decide +kernel

/-- Refutes O32: its TLD and TLDS clauses lack the hypothesis that no operation under way has the number that the next one takes
(with it, `beginTileLoad_fresh`). The model gives the new version the taint of the operation that it finds under that number: in
`doubledState` that is the older operation, whose taint is 1, where the statement gives the load's own, 0. -/
theorem not_tileMemory : ¬ Obligations.TileMemory := by
  unfold Obligations.TileMemory
  intro h
  obtain ⟨-, -, -, -, hload, -⟩ := h 0 0 0 0 0
  obtain ⟨t, hlead⟩ := Option.isSome_iff_exists.1 (by decide +kernel : doubledWarp.lead.isSome)
  obtain ⟨tc, hconf⟩ := Option.isSome_iff_exists.1 (by decide +kernel : (doubledWarp.conf doubledBundle.u.cfg 0).isSome)
  have hgraph : doubledWarp.graph = [] := by decide +kernel
  have hunread : unread doubledWarp 0 := by simp [unread, hgraph]
  have hstated := hload doubledState doubledIssue 0 doubledBundle doubledWarp doubledState_gathers
    ⟨⟨t, tc, hlead, hconf, by decide +kernel⟩, by decide +kernel, by decide +kernel, hunread, by decide +kernel, by decide +kernel⟩
  exact absurd (congrArg tileTaint hstated) (by decide +kernel)

end Sys2Proof.Machine
end

section
/-! Proof of the Transfer engine's instructions at issue (R276, R296, R302, R305, R309, R313). -/

namespace Sys2Proof.Machine

/-! ### One change of every thread of an issue -/

/-- Every thread of an issue changed by `f`. -/
def State.eachThread (s : State) (b : Bundle) (f : Thread → Thread) : State :=
  b.lanes.foldl (fun t x => t.modThread (b.wid x.1) x.2.2.1 f) s
theorem markFence_eq (s : State) (b : Bundle) :
    s.markFence b = s.eachThread b fun t => { t with fenceAt := some (b.fenceBound s) } := rfl
theorem mem_lanes {b : Bundle} {x : Nat × Warp × Nat × Thread} (hx : x ∈ b.lanes) :
    ∃ ls, (x.1, x.2.1, ls) ∈ b.parts ∧ x.2.2.1 ∈ ls ∧ x.2.1.threads[x.2.2.1]? = some x.2.2.2 := by
  obtain ⟨⟨wi, w, ls⟩, hp, hx⟩ := List.mem_flatMap.1 hx
  obtain ⟨l, hl, hx⟩ := List.mem_filterMap.1 hx
  obtain ⟨t, ht, rfl⟩ := Option.map_eq_some_iff.1 hx
  exact ⟨ls, hp, hl, ht⟩
theorem thread?_modThread (s : State) (w v : WarpId) (l k : Nat) (f : Thread → Thread) :
    (s.modThread w l f).thread? v k = if v = w ∧ k = l then (s.thread? v k).map f else s.thread? v k := by
  by_cases hv : v = w
  · subst hv
    simp only [State.thread?, State.modThread, warp?_modWarp_self, Option.bind_map, Function.comp_def, modAt_getElem?, true_and]
    cases s.warp? v <;> split <;> rfl
  · simp only [State.thread?, State.modThread, warp?_modWarp_other _ _ _ _ hv, hv, false_and, if_false]
theorem leaves_eachThread (s : State) (b : Bundle) (f : Thread → Thread) : b.Leaves s (s.eachThread b f) :=
  .foldl _ s fun t _ hx => by
    obtain ⟨ls, hp, -⟩ := mem_lanes hx
    exact leaves_modWarp (List.mem_map_of_mem hp) t _
theorem ops_eachThread (s : State) (b : Bundle) (f : Thread → Thread) : (s.eachThread b f).ops = s.ops :=
  foldl_keeps State.ops (fun (t : State) (x : Nat × Warp × Nat × Thread) => t.modThread (b.wid x.1) x.2.2.1 f) (fun _ _ => rfl) b.lanes s

/-! ### What the retirement of an issue will leave of its warps (R63, R302) -/

/-- A change of a thread of which its retirement leaves nothing. -/
def Fades (pc : VAddr) (f : Thread → Thread) : Prop := ∀ t, retireThread pc true (f t) = retireThread pc true t
/-- A thread that has had its channel. -/
def Thread.served (t : Thread) : Thread := { t with granted := true }
theorem fades_served (pc : VAddr) : Fades pc Thread.served := fun _ => rfl
theorem fades_fence (pc : VAddr) (k : Option Nat) : Fades pc fun t => { t with fenceAt := k } := fun _ => rfl
/-- A warp past an instruction that ends a region (R156) and changes its threads no further. -/
def Warp.pastEnd (pc : VAddr) (ls : List Nat) (w : Warp) : Warp := retireWarp pc true (fun _ t => t) ls w
/-- Each warp of the issue will retire as `f` of what it was at the issue. -/
def Bundle.WillRetire (b : Bundle) (f : Warp → Warp) (t : State) : Prop :=
  ∀ p ∈ b.parts, ∃ y, t.warp? (b.wid p.1) = some y ∧ y.pastEnd b.pc p.2.2 = (f p.2.1).pastEnd b.pc p.2.2

theorem pastEnd_modAt {pc : VAddr} {f : Thread → Thread} (hf : Fades pc f) {ls : List Nat} (hn : ls.Nodup) {l : Nat} (hl : l ∈ ls)
    (w : Warp) : Warp.pastEnd pc ls { w with threads := modAt w.threads l f } = w.pastEnd pc ls := by
  have hthreads : ls.foldl (fun ts k => modAt ts k (retireThread pc true)) (modAt w.threads l f) =
      ls.foldl (fun ts k => modAt ts k (retireThread pc true)) w.threads := by
    refine List.ext_getElem? fun k => ?_
    have hget := foldl_modAt_getElem? (f := fun _ => retireThread pc true) hn
    rw [hget, hget, modAt_getElem?]
    by_cases hk : k = l
    · subst hk
      simp only [if_pos hl, if_true, Option.map_map]
      exact Option.map_congr fun t _ => hf t
    · rw [if_neg hk]
  unfold Warp.pastEnd retireWarp
  rw [hthreads]
theorem willRetire_modThread {b : Bundle} (hproper : b.proper = true) {F : Warp → Warp} {f : Thread → Thread} (hf : Fades b.pc f)
    {x : Nat × Warp × Nat × Thread} (hx : x ∈ b.lanes) {t : State} (ht : b.WillRetire F t) :
    b.WillRetire F (t.modThread (b.wid x.1) x.2.2.1 f) := by
  intro p hp
  obtain ⟨y, hy, hret⟩ := ht p hp
  by_cases hwi : p.1 = x.1
  · obtain ⟨ls, hq, hl, -⟩ := mem_lanes hx
    have hpq : p = (x.1, x.2.1, ls) := List.inj_on_of_nodup_map (proper_warps hproper) hp hq hwi
    have hls : x.2.2.1 ∈ p.2.2 := hpq ▸ hl
    refine ⟨{ y with threads := modAt y.threads x.2.2.1 f }, ?_, (pastEnd_modAt hf (proper_lanes hproper hp) hls y).trans hret⟩
    rw [State.modThread, ← hwi, warp?_modWarp_self, hy, Option.map_some]
  · refine ⟨y, ?_, hret⟩
    rw [State.modThread, warp?_modWarp_other _ _ _ _ fun h => hwi (congrArg WarpId.warp h), hy]
theorem willRetire_eachThread {b : Bundle} (hproper : b.proper = true) {F : Warp → Warp} {f : Thread → Thread} (hf : Fades b.pc f)
    {s : State} (hs : b.WillRetire F s) : b.WillRetire F (s.eachThread b f) :=
  List.foldlRecOn (motive := b.WillRetire F) b.lanes _ hs fun _ ht _ hx => willRetire_modThread hproper hf hx ht
/-- `xf` rises in each warp of the issue (R302), before its threads retire or after. -/
theorem willRetire_addXf {b : Bundle} (hproper : b.proper = true) {s : State} (hs : b.WillRetire id s) :
    b.WillRetire (·.addCounter .xf true) (b.parts.foldl (fun t p => t.modWarp (b.wid p.1) (·.addCounter .xf true)) s) := by
  intro p hp
  obtain ⟨y, hy, hret⟩ := hs p hp
  refine ⟨y.addCounter .xf true,
    warp?_foldl_modWarp (f := fun _ => (·.addCounter .xf true)) (proper_warps hproper) hp hy, ?_⟩
  exact congrArg (·.addCounter .xf true) hret

/-! ### Channels (R276, R302) -/

/-- The channel that a thread of an issue takes. -/
def Bundle.channelOf (b : Bundle) (op bar : Nat) (chk : Bool) (ask : Thread → XferAsk) (x : Nat × Warp × Nat × Thread) (ch : Nat) :
    Channel :=
  let a := ask x.2.2.2
  ⟨b.u.pcl, ch, op, b.wid x.1, x.2.2.1, b.pc, a.kind, a.dst, a.srcs, bar, chk, a.mask, false, false, none, [],
    0, 0, 0, 0, none, 0, 0, b.parts.map (·.1), 0⟩

theorem freeChannels_nodup (s : State) (pcl : Nat) : (s.freeChannels pcl).Nodup := List.nodup_range.filter _
/-- Once the lowest free channel is taken, the others are free. -/
theorem freeChannels_taken {s : State} {c : Channel} {ns : List Nat} (h : s.freeChannels c.pcl = c.ch :: ns) :
    { s with channels := s.channels ++ [c] }.freeChannels c.pcl = ns := by
  have hnot : c.ch ∉ ns := (List.nodup_cons.1 (h ▸ freeChannels_nodup s c.pcl)).1
  have hrest : { s with channels := s.channels ++ [c] }.freeChannels c.pcl = (s.freeChannels c.pcl).filter (c.ch != ·) := by
    rw [State.freeChannels, State.freeChannels, List.filter_filter]
    refine List.filter_congr fun n _ => ?_
    simp [Bool.and_comm, bne]
  rw [hrest, h, List.filter_cons, if_neg (by simp), List.filter_eq_self]
  exact fun n hn => bne_iff_ne.2 fun heq => hnot (heq ▸ hn)
theorem foldl_modThread_channels (b : Bundle) (f : Thread → Thread) (xs : List (Nat × Warp × Nat × Thread)) (cs : List Channel)
    (s : State) : xs.foldl (fun t x => t.modThread (b.wid x.1) x.2.2.1 f) { s with channels := cs } =
      { xs.foldl (fun t x => t.modThread (b.wid x.1) x.2.2.1 f) s with channels := cs } := by
  induction xs generalizing s with
  | nil => rfl
  | cons x xs ih => exact ih (s.modThread (b.wid x.1) x.2.2.1 f)
/-- With a free channel for each, the threads take the free channels in order. -/
theorem foldl_grant {b : Bundle} {op bar : Nat} {chk : Bool} {ask : Thread → XferAsk} {xs : List (Nat × Warp × Nat × Thread)}
    {s : State} (h : xs.length ≤ (s.freeChannels b.u.pcl).length) :
    xs.foldl (fun t x => t.grant b op x.1 x.2.2.1 bar chk (ask x.2.2.2)) s =
      { xs.foldl (fun t x => t.modThread (b.wid x.1) x.2.2.1 Thread.served) s with
        channels := s.channels ++ (xs.zip (s.freeChannels b.u.pcl)).map fun y => b.channelOf op bar chk ask y.1 y.2 } := by
  induction xs generalizing s with
  | nil => simp
  | cons x xs ih =>
    cases hfree : s.freeChannels b.u.pcl with
    | nil => simp [hfree] at h
    | cons n ns =>
      have hgrant : s.grant b op x.1 x.2.2.1 bar chk (ask x.2.2.2) =
          { s.modThread (b.wid x.1) x.2.2.1 Thread.served with
            channels := s.channels ++ [b.channelOf op bar chk ask x n] } := by
        rw [State.grant, hfree]
        rfl
      have hrest : (s.grant b op x.1 x.2.2.1 bar chk (ask x.2.2.2)).freeChannels b.u.pcl = ns := by
        rw [hgrant]
        exact freeChannels_taken (c := b.channelOf op bar chk ask x n) hfree
      have hroom : xs.length ≤ ns.length := by simpa [hfree] using h
      rw [List.foldl_cons, ih (by rwa [hrest]), hrest, hgrant, foldl_modThread_channels]
      simp
theorem served_eachThread {b : Bundle} {x : Nat × Warp × Nat × Thread} (hx : x ∈ b.lanes) (s : State) :
    (((s.eachThread b Thread.served).thread? (b.wid x.1) x.2.2.1).map (·.granted)).getD true = true := by
  unfold State.eachThread
  generalize b.lanes = xs at hx ⊢
  induction xs using List.reverseRecOn with
  | nil => exact absurd hx List.not_mem_nil
  | append_singleton xs z ih =>
    rw [List.foldl_append, List.foldl_cons, List.foldl_nil, thread?_modThread]
    split
    · rw [Option.map_map]
      cases State.thread? _ _ _ <;> rfl
    · rename_i hne
      refine ih ((List.mem_append.1 hx).resolve_right fun hz => hne ?_)
      rw [List.mem_singleton.1 hz]
      exact ⟨rfl, rfl⟩

/-! ### XCP, XRED and XWALK at issue (R276, R296, R302) -/

/-- The issue has its number, its threads wait for what came before it, and it counts in each of its warps. -/
def State.counted (s : State) (b : Bundle) : State :=
  b.parts.foldl (fun t p => t.modWarp (b.wid p.1) (·.addCounter .xf true)) { s.markFence b with nextId := s.nextId + 1 }
/-- Each thread of the issue has had its channel. -/
def State.asked (s : State) (b : Bundle) (bar : Nat) (chk : Bool) (ask : Thread → XferAsk) : State :=
  { (s.counted b).eachThread b Thread.served with
    channels := s.channels ++ (b.lanes.zip (s.freeChannels b.u.pcl)).map fun y => b.channelOf s.nextId bar chk ask y.1 y.2 }

theorem leaves_counted (s : State) (b : Bundle) : b.Leaves s (s.counted b) := by
  have hmark : b.Leaves s (s.markFence b) := by
    rw [markFence_eq]
    exact leaves_eachThread ..
  have hnumber : b.Leaves (s.markFence b) { s.markFence b with nextId := s.nextId + 1 } := ⟨rfl, fun _ => rfl, fun _ _ => rfl⟩
  exact (hmark.trans hnumber).trans (.foldl _ _ fun t p hp => leaves_modWarp (List.mem_map_of_mem hp) t _)
theorem channels_counted (s : State) (b : Bundle) : (s.counted b).channels = s.channels := by
  obtain ⟨-, -, -, -, -, -, hchannels, -⟩ := (leaves_counted s b).frame
  exact hchannels
theorem ops_counted (s : State) (b : Bundle) : (s.counted b).ops = s.ops := by
  rw [State.counted, foldl_modWarp_ops]
  exact ops_eachThread s b _

section
variable {s : State} {b : Bundle} {bar : Nat} {chk : Bool} {ask : Thread → XferAsk}

theorem home_asked : (s.asked b bar chk ask).home = s.home :=
  ((leaves_counted s b).trans (leaves_eachThread (s.counted b) b Thread.served)).frame.1
theorem ops_asked : (s.asked b bar chk ask).ops = s.ops := (ops_eachThread (s.counted b) b _).trans (ops_counted s b)
theorem willRetire_asked (hb : s.bundle? = some b) (hproper : b.proper = true) :
    b.WillRetire (·.addCounter .xf true) (s.asked b bar chk ask) := by
  have hstart : b.WillRetire id s := fun p hp => ⟨p.2.1, warp?_of_bundle? hb hp, rfl⟩
  have hmark : b.WillRetire id (s.markFence b) := by
    rw [markFence_eq]
    exact willRetire_eachThread hproper (fades_fence b.pc (some (b.fenceBound s))) hstart
  have hcounted : b.WillRetire (·.addCounter .xf true) (s.counted b) :=
    willRetire_addXf (s := { s.markFence b with nextId := s.nextId + 1 }) hproper hmark
  exact willRetire_eachThread hproper (fades_served b.pc) hcounted

/-- Threads that wait for nothing yet wait for what was issued before them. -/
theorem fenceBound_fresh (h : ∀ x ∈ b.lanes, x.2.2.2.fenceAt = none) : b.fenceBound s = s.nextId := by
  have hnone : (b.lanes.filterMap fun (_, _, _, t) => t.fenceAt) = [] := List.filterMap_eq_nil_iff.2 h
  rw [Bundle.fenceBound, hnone]
  rfl
/-- The threads of an issue that has not begun take their channels in order. -/
theorem grants_counted (hnew : ∀ x ∈ b.lanes, x.2.2.2.granted = false)
    (hroom : b.lanes.length ≤ (s.freeChannels b.u.pcl).length) :
    b.lanes.foldl (fun t (wi, _, l, th) => if th.granted then t else t.grant b s.nextId wi l bar chk (ask th)) (s.counted b) =
      s.asked b bar chk ask := by
  have hfree : (s.counted b).freeChannels b.u.pcl = s.freeChannels b.u.pcl := by
    rw [State.freeChannels, channels_counted]
    rfl
  rw [List.foldl_ext _ (fun t x => t.grant b s.nextId x.1 x.2.2.1 bar chk (ask x.2.2.2)) _ fun t x hx => ?_,
    foldl_grant (by rwa [hfree]), hfree, channels_counted]
  · rfl
  · simp only [hnew x hx, Bool.false_eq_true, if_false]
/-- An issue that finds a channel for each of its threads and room in `xf`, and before which no LOOP is forced, goes on. -/
theorem xferBody_done (hcount : ∀ p ∈ b.parts, p.2.1.xf < 62)
    (hnew : ∀ x ∈ b.lanes, x.2.2.2.granted = false ∧ x.2.2.2.fenceAt = none)
    (hroom : b.lanes.length ≤ (s.freeChannels b.u.pcl).length) (hforce : forceForXfer s b ask = none) :
    xferBody bar chk ask b s = .done ((s.asked b bar chk ask).past b true sameThread) := by
  have hbegun : (b.lanes.any fun (_, _, _, t) => t.granted) = false :=
    List.any_eq_false.2 fun x hx => Bool.eq_false_iff.1 (hnew x hx).1
  have hfull : (decide (s.freeChannels b.u.pcl = []) && b.lanes.any fun (_, _, _, t) => !t.granted) = false := by
    cases hfree : s.freeChannels b.u.pcl with
    | nil => simp [List.eq_nil_of_length_eq_zero (Nat.le_zero.1 (hfree ▸ hroom))]
    | cons n ns => rfl
  have hcounts : (b.parts.any fun (_, w, _) => decide (w.xf ≥ 62)) = false :=
    List.any_eq_false.2 fun p hp => by simpa using hcount p hp
  have hop : b.fenceBound s = s.nextId := fenceBound_fresh fun x hx => (hnew x hx).2
  have hgrants := grants_counted (bar := bar) (chk := chk) (ask := ask) (fun x hx => (hnew x hx).1) hroom
  have hall : (b.lanes.all fun (wi, _, l, _) => (((s.asked b bar chk ask).thread? (b.wid wi) l).map (·.granted)).getD true) = true :=
    List.all_eq_true.2 fun x hx => served_eachThread hx (s.counted b)
  rw [State.counted] at hgrants
  simp only [xferBody, hbegun, hfull, hcounts, hforce, hop, hgrants, hall, Bool.not_false, Bool.and_false, Bool.or_self,
    Bool.false_eq_true, if_false, if_true]
  rfl
/-- What such an issue leaves of memory, of the operations, of the channels and of its warps. -/
theorem xfer_does {i : Instr} (he : exec i = issueStd i (xferBody bar chk ask)) (hb : s.bundle? = some b)
    (hr : b.ready i = true) (hproper : b.proper = true) (hcount : ∀ p ∈ b.parts, p.2.1.xf < 62)
    (hnew : ∀ p ∈ b.parts, ∀ th ∈ p.2.1.threads, th.granted = false ∧ th.fenceAt = none)
    (hroom : b.lanes.length ≤ (s.freeChannels b.u.pcl).length) (hforce : forceForXfer s b ask = none) :
    ∃ u, exec i s = .next u ∧ u.home = s.home ∧ u.ops = s.ops ∧
      u.channels = s.channels ++ (b.lanes.zip (s.freeChannels b.u.pcl)).map (fun y => b.channelOf s.nextId bar chk ask y.1 y.2) ∧
      ∀ p ∈ b.parts, u.warp? (b.wid p.1) = some ((p.2.1.addCounter .xf true).pastEnd b.pc p.2.2) := by
  have hlanes : ∀ x ∈ b.lanes, x.2.2.2.granted = false ∧ x.2.2.2.fenceAt = none := fun x hx => by
    obtain ⟨ls, hp, -, ht⟩ := mem_lanes hx
    exact hnew _ hp _ (List.mem_of_getElem? ht)
  obtain ⟨hhome, -, -, -, -, -, hchannels, -⟩ := (leaves_past (s.asked b bar chk ask) b true sameThread).frame
  refine ⟨(s.asked b bar chk ask).past b true sameThread, ?_, hhome.trans home_asked, (ops_past ..).trans ops_asked, hchannels,
    fun p hp => ?_⟩
  · rw [he, issueStd_ready hb hr, xferBody_done hcount hlanes hroom hforce]
  · obtain ⟨y, hy, hret⟩ := willRetire_asked (bar := bar) (chk := chk) (ask := ask) hb hproper p hp
    rw [warp?_past hproper hp hy]
    exact congrArg some hret
end

/-- R83, R296: what a thread of XWALK asks, by the fields of its walk word. -/
def walkFields (sp : LNum) (g : GNum) (act : WalkAct) (t : Thread) : XferAsk :=
  let v := (t.gr g.toNat).val.toNat
  ⟨.xwalk act (v / 2 ^ 8 % 2 ^ 8) (if v ≥ 2 ^ 24 ∨ v / 2 ^ 8 % 2 ^ 8 ≥ v / 2 ^ 16 % 2 ^ 8 then 0 else v / 2 ^ 16 % 2 ^ 8),
    v / 2 ^ 4 % 2 ^ 4, sp.toNat :: (if act = .coord then [] else [v / 2 ^ 0 % 2 ^ 4]), (t.gr g.toNat).mask⟩
theorem walkAsk_eq (sp : LNum) (g : GNum) (act : WalkAct) : walkAsk sp g act = walkFields sp g act := by
  funext t
  simp only [walkAsk, beq_iff_eq, Bool.or_eq_true, decide_eq_true_eq]
  rfl

/-! ### XLR at issue (R305) -/

/-- The address of the record that a lane reads. -/
def recordAddr (n : ANum) (off : BitVec 10) (c : LaneCtx) : Int :=
  (c.th.ar n.toNat).ptr.toNat + 64 * (match c.hints.imm with | none => off.toInt | some q => (q ++ off).toInt)
theorem xlrEa_eq (n : ANum) (off : BitVec 10) : xlrEa n off = recordAddr n off :=
  funext fun c => congrArg (fun v : Int => (c.th.ar n.toNat).ptr.toNat + 64 * v) (immValue_eq c.hints off)
theorem outHits_record {b : Bundle} {s : State} {n : ANum} {va : LaneCtx → Int}
    (h : ∀ c ∈ b.each s, (inReg (c.th.ar n.toNat) (va c) 64 true false && va c % 64 == 0) = true) :
    b.outHits s (fun c => if ((c.th.ar n.toNat).allows (va c) 64 true false && va c % 64 == 0) = true then LaneOut.ok []
      else .bad 0x04 (BitVec.ofInt 64 (va c)).toNat 0) = none :=
  outHits_none fun c hc => by rw [allows_eq_inReg, if_pos (h c hc)]; rfl

/-! ### XSTAT (R313) -/

/-- The words of an error record. -/
theorem xstatWord_eq (r : ErrRec) (sel : BitVec 2) : xstatWord r sel.toNat =
    if sel = 0 then BitVec.ofNat 32 r.kind.toNat else if sel = 1 then r.extent.extractLsb' 0 32
      else if sel = 2 then r.extent.extractLsb' 32 32 else r.chunk := by
  match sel with
  | 0 => exact (BitVec.ofNat_toNat ..).symm
  | 1 => exact BitVec.setWidth_eq_extractLsb' (show 32 ≤ 64 by decide)
  | 2 => exact BitVec.setWidth_ushiftRight_eq_extractLsb
  | 3 => rfl
/-- R173: an object out of range has had no error. -/
theorem lastErr_bar (u : Placed) (wg n : Nat) : (u.bar wg n).lastErr =
    (((u.wgs[if n < 16 then wg else 0]?).bind fun x => x.bars[n]?).map (·.lastErr)).getD ⟨0, 0, 0⟩ := by
  rw [Placed.bar, barWg]
  cases (u.wgs[if n < 16 then wg else 0]?).bind fun x => x.bars[n]? <;> rfl

/-- Settles O30: XLR's body goes on with one operation for each warp; an issue of XCP, XRED or XWALK finds a channel for each thread
(`xfer_does`); XSTAT reads the words of the record (`xstatWord_eq`). -/
theorem transferIssues : Obligations.TransferIssues := by
  unfold Obligations.TransferIssues
  intro d l first n off b t chk nm2 act g sel addr parts channels
  have takes {i : Instr} {ask : Thread → XferAsk} (he : exec i = issueStd i (xferBody b.toNat chk ask)) :
      channels i (fun th => (ask th).kind) (fun th => (ask th).dst) (fun th => (ask th).srcs) fun th => (ask th).mask :=
    fun s bu hb hr hproper hwarps hnew hroom hforce =>
      xfer_does he hb hr hproper (fun p hp => (hwarps p hp).1) hnew hroom hforce
  refine ⟨access_does rfl fun s bu hok hgo => ?xlr, takes (ask := fun _ => ⟨.xcp t, d.toNat, [l.toNat], 0⟩) rfl,
    takes (ask := fun _ => ⟨.xred (nm2.toNat + 2), d.toNat, (List.range (nm2.toNat + 2)).map (first.toNat + ·), 0⟩) rfl,
    ?xwalk, ?xstat⟩
  case xlr =>
    obtain ⟨hgo, hheld⟩ := hgo
    have hea : xlrEa n off = addr := xlrEa_eq n off
    have hwait : (!bu.mayGo s (some .xf) (fun th => (th.ar n.toNat).mask) || bu.lanes.any fun (wi, w, ln, th) =>
        s.heldUp bu.u (placesOf (parts bu s wi w ln th))) = false := by
      rw [hgo, List.any_eq_false.2 fun x hx => Bool.eq_false_iff.1 (hheld x hx)]
      rfl
    simp only [hea, maskOf_address]
    exact goes_on (outHits_record hok) hwait
  case xwalk =>
    have he : exec (.xwalk l g b act chk) = issueStd (.xwalk l g b act chk) (xferBody b.toNat chk (walkFields l g act)) := by
      rw [← walkAsk_eq]
      rfl
    exact takes he
  case xstat => exact alu_plain rfl (fun _ => rfl) fun c => by rw [lastErr_bar, xstatWord_eq]

end Sys2Proof.Machine
end

section
/-! Proof of the doorbell, the reset of a queue, packets without work, refusals and completions (R317 to R323). -/

namespace Sys2Proof.Machine

/-! ### The queues -/

/-- Of the queues of a state, queue `q` alone may have changed: it stands as `y` in `t`. -/
def State.sets (s t : State) (q : Nat) (y : Queue) : Prop := t.queues = modAt s.queues q fun _ => y
theorem modAt_const {α : Type} (xs : List α) (n : Nat) (f : α → α) (d : α) : modAt xs n f = modAt xs n fun _ => f ((xs[n]?).getD d) := by
  refine List.ext_getElem? fun k => ?_
  rw [modAt_getElem?, modAt_getElem?]
  split
  · next h =>
    subst h
    cases xs[k]? <;> rfl
  · rfl
theorem sets_modQueue (s : State) (q : Nat) (f : Queue → Queue) : s.sets (s.modQueue q f) q (f (s.queue q)) :=
  modAt_const s.queues q f Queue.reset
theorem sets_refl (s : State) (q : Nat) : s.sets s q (s.queue q) := by
  refine Eq.trans ?_ (modAt_const s.queues q id Queue.reset)
  refine List.ext_getElem? fun k => ?_
  rw [modAt_getElem?, Option.map_id, id, ite_self]
section
variable {s t : State} {q : Nat} {y : Queue} (h : s.sets t q y)
include h
theorem State.sets.modQueue (f : Queue → Queue) : s.sets (t.modQueue q f) q (f y) := by
  unfold State.sets at h ⊢
  rw [State.modQueue, h, modAt_modAt]
theorem State.sets.congr {r : State} (hr : r.queues = t.queues) : s.sets r q y := hr.trans h
theorem State.sets.queue (hq : q < s.queues.length) : t.queue q = y ∧ ∀ k, k ≠ q → t.queue k = s.queue k := by
  unfold State.queue
  rw [show t.queues = _ from h]
  refine ⟨?_, fun k hk => ?_⟩
  · rw [modAt_getElem?, if_pos rfl, List.getElem?_eq_getElem hq]
    rfl
  · rw [modAt_getElem?, if_neg hk]
theorem State.sets.length : t.queues.length = s.queues.length := by
  rw [show t.queues = _ from h, modAt_length]
end

/-- A record posted by the Task engine: its queue counts one more, its vector is raised, and what else may have changed is memory, the
stages of parts and the trace records made. -/
theorem postTask_eq (s : State) (q : Nat) (r : Record) : ∃ home ops watch, s.postTask q r =
    { s.modQueue q fun x => { x with seq := (s.queue q).seq + 1 } with
      home := home, ops := ops, watch := watch, irqs := (32 + q) :: s.irqs } := by
  have hpost : ∃ home ops, s.post q r false =
      { s.modQueue q fun x => { x with seq := (s.queue q).seq + 1 } with home := home, ops := ops, irqs := (32 + q) :: s.irqs } := by
    have hirq {t : State} (hw : (s.modQueue q fun x => { x with seq := (s.queue q).seq + 1 }).writes t) : ∃ home ops, t.irq (32 + q) =
        { s.modQueue q fun x => { x with seq := (s.queue q).seq + 1 } with home := home, ops := ops, irqs := (32 + q) :: s.irqs } := by
      obtain ⟨⟨m, o, rfl⟩, -⟩ := hw
      exact ⟨m, o, rfl⟩
    unfold State.post
    dsimp only
    split
    · exact hirq (writes_writeSpan ..)
    · exact hirq (writes_refl _)
  obtain ⟨m, o, hpost⟩ := hpost
  unfold State.postTask State.trace
  rw [hpost]
  dsimp only
  split
  · split
    · exact ⟨m, o, _, rfl⟩
    · exact ⟨m, o, _, rfl⟩
  · exact ⟨m, o, _, rfl⟩
theorem State.sets.postTask {s t : State} {q : Nat} {y : Queue} (h : s.sets t q y) (hq : q < s.queues.length) (r : Record) :
    s.sets (t.postTask q r) q { y with seq := y.seq + 1 } := by
  obtain ⟨m, o, w, hpost⟩ := postTask_eq t q r
  have hseq : (t.queue q).seq = y.seq := congrArg Queue.seq (h.queue hq).1
  rw [hpost, hseq]
  exact h.modQueue _

/-! ### Packets taken up (R317 to R323) -/

/-- The record or card that a packet names at its TARGET. -/
def State.recordAt (s : State) (q type target : Nat) : Rec :=
  if type = 1 then s.readRec (s.queue q).ctx.toNat target 256
  else if type = 2 then s.readRec (s.queue q).ctx.toNat target 128 else .val 0
/-- The state once the packet at HEAD is the youngest of its queue. -/
def State.taken (s : State) (q : Nat) (next : BitVec 64) (p : Packet) : State :=
  { s.modQueue q fun x => { x with head := x.head + 1, packets := x.packets ++ [p] } with nextLaunch := next, pass := q + 1 }
theorem packetBad_eq (v : Nat) : packetBad v = malformed v := by
  simp only [packetBad, malformed, bitsOf, bne, beq_eq_decide, decide_not, pow_zero, Nat.div_one, ne_eq]
theorem bitsOf_low (v n : Nat) : bitsOf v 0 n = v % 2 ^ n := by rw [bitsOf, pow_zero, Nat.div_one]
theorem bpHit_none {s : State} (h : ∀ b ∈ s.watch.bps, b.en = false) (q : Nat) (addr : Option Nat) : s.bpHit q addr = none :=
  List.findIdx?_eq_none_iff.2 fun b hb => by rw [h b hb]; rfl
theorem ofNat_mod_width (w n : Nat) : BitVec.ofNat w (n % 2 ^ w) = BitVec.ofNat w n := BitVec.eq_of_toNat_eq (by simp)
theorem takeId_eq (s : State) (v : Nat) : s.takeId (v / 2 ^ 136 % 2 ^ 64) =
    ({ s with nextLaunch := if v / 2 ^ 136 % 2 ^ 64 = 0 then s.nextLaunch + 1 else s.nextLaunch }, launchId s v) := by
  unfold State.takeId launchId
  split
  · rfl
  · exact congrArg (Prod.mk s) (ofNat_mod_width ..)
/-- The launch identifier of a packet of a type, with the counter past it (R327). -/
def State.numbered (s : State) (type v : Nat) : State × BitVec 64 :=
  if type = 1 || type = 2 then s.takeId (v / 2 ^ 136 % 2 ^ 64) else (s, BitVec.ofNat 64 (v / 2 ^ 136 % 2 ^ 64))
section
variable {s : State} {q : Nat} (hs : serves s q)
include hs
theorem serves_goes : (!s.up || !(s.queue q).waiting || s.watch.feHalted || s.nextQueue != some q) = false := by
  obtain ⟨hmode, hen, hhalt, hne, hnext, hfe, -, -, -⟩ := hs
  have hup : s.up = true := by
    unfold State.up
    rcases hmode with h | h <;> rw [h] <;> rfl
  simp [hup, Queue.waiting, hen, hhalt, hne, hnext, hfe]
/-- Every packet before has started, so the next one is read. -/
theorem packetEvent_accepts (type : Nat) : s.packetEvent q type = s.accept q type := by
  obtain ⟨-, -, -, -, -, -, -, -, hstarted⟩ := hs
  have hnone : (s.queue q).packets.zipIdx.find? (fun (p, i) => !p.started && p.type == type &&
      (!p.waitPrev || ((s.queue q).packets.take i).all s.packetDone)) = none :=
    List.find?_eq_none.2 fun x hx => by simp [hstarted _ (List.fst_mem_of_mem_zipIdx hx)]
  simp only [State.packetEvent, hnone, Option.map_none]
theorem accept_refuses {type : Nat}
    (h : (s.queue q).size.toNat < 4 ∨ (s.queue q).size.toNat > 20 ∨
      ((s.queue q).tail - (s.queue q).head).toNat > 2 ^ (s.queue q).size.toNat ∨ s.readPacket q = .bad ∨ ∃ v, atHead s q v ∧
        (malformed v = true ∨ v % 2 ^ 8 = type ∧ s.recordAt q type (v / 2 ^ 64 % 2 ^ 72) = .bad)) :
    s.accept q type = s.refuse q := by
  unfold State.accept
  dsimp only
  rw [serves_goes hs, if_neg Bool.false_ne_true]
  split
  · rfl
  · next hsize =>
    simp only [Bool.or_eq_true, decide_eq_true_eq, not_or] at hsize
    obtain ⟨⟨h4, h20⟩, htail⟩ := hsize
    rcases h with h | h | h | h | ⟨v, ⟨-, -, -, hv⟩, hbad⟩
    · exact absurd h h4
    · exact absurd h h20
    · exact absurd h htail
    · rw [h]
    · simp only [hv]
      rw [packetBad_eq]
      split
      · rfl
      · next hm =>
        obtain ⟨htype, hrec⟩ := hbad.resolve_left hm
        rw [State.recordAt] at hrec
        rw [bitsOf_low, htype, bne_self_eq_false, if_neg Bool.false_ne_true]
        simp only [bitsOf, hrec]
theorem accept_takes {v type rv : Nat} {next id : BitVec 64} (hv : atHead s q v) (hm : malformed v = false) (ht : v % 2 ^ 8 = type)
    (hr : s.recordAt q type (v / 2 ^ 64 % 2 ^ 72) = .val rv)
    (hid : s.numbered type v = ({ s with nextLaunch := next }, id)) :
    ((s.taken q next (packetOf v id (type = 0 || type = 3) none (BitVec.ofNat 2048 rv))).startPacket q (s.queue q).packets.length).caches
      (s.accept q type) := by
  obtain ⟨h4, h20, htail, hv⟩ := hv
  have hsize : (decide ((s.queue q).size.toNat < 4) || decide ((s.queue q).size.toNat > 20) ||
      decide (((s.queue q).tail - (s.queue q).head).toNat > 2 ^ (s.queue q).size.toNat)) = false := by
    simp only [Bool.or_eq_false_iff, decide_eq_false_iff_not]
    omega
  have hgo := serves_goes hs
  obtain ⟨-, -, -, -, -, -, hpass, hbps, -⟩ := hs
  unfold State.accept
  dsimp only
  rw [hgo, if_neg Bool.false_ne_true, hsize, if_neg Bool.false_ne_true]
  simp only [hv]
  rw [packetBad_eq, hm, if_neg Bool.false_ne_true, bitsOf_low, ht, bne_self_eq_false, if_neg Bool.false_ne_true]
  rw [State.recordAt] at hr
  rw [State.numbered] at hid
  simp only [bitsOf, hr, hpass, Bool.false_and, bpHit_none hbps, Bool.false_eq_true, if_false, ite_self, hid]
  subst ht
  exact caches_trans (cacheSpan_caches ..) (cacheRecs_caches ..)
/-- An accepted packet is the youngest of its queue; its launch identifier is `id`, and the counter stands at `next` after it. -/
theorem exec_accepted {i : Instr} {type v rv : Nat} {next id : BitVec 64} (hi : exec i s = .next (s.packetEvent q type))
    (hv : atHead s q v) (hm : malformed v = false) (ht : v % 2 ^ 8 = type) (hr : s.recordAt q type (v / 2 ^ 64 % 2 ^ 72) = .val rv)
    (hid : s.numbered type v = ({ s with nextLaunch := next }, id)) : ∃ t, exec i s = .next t ∧
    ((s.taken q next (packetOf v id (type = 0 || type = 3) none (BitVec.ofNat 2048 rv))).startPacket q
      (s.queue q).packets.length).caches t :=
  ⟨_, hi, packetEvent_accepts hs type ▸ accept_takes hs hv hm ht hr hid⟩
end
theorem sets_taken (s : State) (q : Nat) (next : BitVec 64) (p : Packet) : s.sets (s.taken q next p) q
    { s.queue q with head := (s.queue q).head + 1, packets := (s.queue q).packets ++ [p] } := sets_modQueue s q _
theorem packets_taken {s : State} {q : Nat} (hq : q < s.queues.length) (next : BitVec 64) (p : Packet) :
    ((s.taken q next p).queue q).packets = (s.queue q).packets ++ [p] :=
  congrArg Queue.packets ((sets_taken s q next p).queue hq).1
theorem startPacket_started {s : State} {q i : Nat} {p : Packet} (hp : (s.queue q).packets[i]? = some p) (h : p.started = true) :
    s.startPacket q i = s := by
  simp only [State.startPacket, hp, h, Bool.true_or, if_true]

/-- R318, R319: a NOP or SIGNAL packet has no work to start. -/
theorem accepted_alone {s : State} {q type v : Nat} {i : Instr} (hs : serves s q) (hq : q < s.queues.length)
    (hi : exec i s = .next (s.packetEvent q type)) (hv : atHead s q v) (hm : malformed v = false) (ht : v % 2 ^ 8 = type)
    (h03 : type = 0 ∨ type = 3) : ∃ t, exec i s = .next t ∧ t.home = { s.home with tlb := t.home.tlb } ∧ t.works = s.works ∧
      t.pass = q + 1 ∧ t.units = s.units ∧ s.sets t q { s.queue q with
        head := (s.queue q).head + 1
        packets := (s.queue q).packets ++ [packetOf v (BitVec.ofNat 64 (v / 2 ^ 136)) true none 0] } := by
  have hid : s.numbered type v = ({ s with nextLaunch := s.nextLaunch }, BitVec.ofNat 64 (v / 2 ^ 136)) := by
    rw [State.numbered, ofNat_mod_width]
    rcases h03 with rfl | rfl <;> rfl
  have hrec : s.recordAt q type (v / 2 ^ 64 % 2 ^ 72) = .val 0 := by rcases h03 with rfl | rfl <;> rfl
  have hstarted : (decide (type = 0) || decide (type = 3)) = true := by rcases h03 with rfl | rfl <;> rfl
  obtain ⟨t, hexec, hcaches⟩ := exec_accepted hs hi hv hm ht hrec hid
  rw [hstarted, startPacket_started (by rw [packets_taken hq, List.getElem?_concat_length]) rfl] at hcaches
  obtain ⟨c, rfl⟩ := hcaches
  exact ⟨_, hexec, rfl, rfl, rfl, rfl, sets_taken s q s.nextLaunch _⟩

/-- R323: a refusal posts its record and halts the queue. -/
theorem refuse_does (s : State) (q : Nat) (hq : q < s.queues.length) : (s.refuse q).works = s.works ∧ (s.refuse q).units = s.units ∧
    (s.refuse q).irqs = (32 + q) :: s.irqs ∧
    s.sets (s.refuse q) q { s.queue q with halted := true, seq := (s.queue q).seq + 1 } := by
  have hsets := ((sets_refl s q).postTask hq (plainRecord 0x25 0 (s.queue q).head.toNat 0)).modQueue fun x => { x with halted := true }
  obtain ⟨m, o, w, hpost⟩ := postTask_eq s q (plainRecord 0x25 0 (s.queue q).head.toNat 0)
  have hrefuse : s.refuse q = (s.postTask q (plainRecord 0x25 0 (s.queue q).head.toNat 0)).modQueue q fun x => { x with halted := true } :=
    rfl
  refine ⟨?_, ?_, ?_, hsets⟩ <;> rw [hrefuse, hpost] <;> rfl

/-! ### The completion of a packet (R320, R321) -/

/-- The state once the oldest packet has issued its signal: its interrupt raised, the packet and its work gone, the samplers of its
queue's context stopped. -/
def State.completed (t : State) (q ctx : Nat) (p : Packet) (ps : List Packet) : State :=
  let r := (if p.irq then t.irq q else t).modQueue q fun x => { x with packets := ps }
  { r with
    works := r.works.filter fun v => some v.id != p.work
    cores := r.cores.map fun c => { c with samplers := c.samplers.filter (·.ctx != ctx) } }
theorem completed_eq (t : State) (q ctx : Nat) (p : Packet) (ps : List Packet) : t.completed q ctx p ps =
    { t.modQueue q fun x => { x with packets := ps } with
      irqs := if p.irq then q :: t.irqs else t.irqs
      works := t.works.filter fun v => some v.id != p.work
      cores := t.cores.map fun c => { c with samplers := c.samplers.filter (·.ctx != ctx) } } := by
  unfold State.completed
  split <;> rfl
section
variable {s : State} {q : BitVec 5} {p : Packet} {ps : List Packet} (hps : (s.queue q.toNat).packets = p :: ps)
  (hdone : s.packetDone p = true)
include hps hdone
theorem completion_plain (h : p.sigaddr = 0) :
    exec (.packetCompletion q) s = .next (s.completed q.toNat (s.queue q.toNat).ctx.toNat p ps) := by
  change execPacketCompletion q s = _
  simp only [execPacketCompletion, hps, hdone, h, Bool.not_true, Bool.false_eq_true, if_false, if_true]
  rfl
theorem completion_misaligned (h : p.sigaddr % 8 ≠ 0) : exec (.packetCompletion q) s =
    .next ((s.postTask q.toNat (plainRecord 0x28 p.id (p.sigaddr % 2 ^ 64) 1)).completed q.toNat (s.queue q.toNat).ctx.toNat p ps) := by
  have h0 : p.sigaddr ≠ 0 := fun h0 => h (by rw [h0])
  change execPacketCompletion q s = _
  simp only [execPacketCompletion, hps, hdone, h0, bne_iff_ne.2 h, Bool.not_true, Bool.false_eq_true, if_false, if_true]
  rfl
theorem completion_stored {a pa : Nat} (h0 : p.sigaddr ≠ 0) (h8 : p.sigaddr % 8 = 0)
    (hmap : s.mapAddr (s.queue q.toNat).ctx.toNat p.sigaddr 8 = some (.local, a)) (hline : a % 256 + 8 ≤ 256)
    (hw : writable s (s.queue q.toNat).ctx.toNat a 8 pa) : ∃ t, wrote s t pa (natBytes 8 p.sigval.toNat) ∧ s.writes t ∧
      exec (.packetCompletion q) s = .next ((t.progress none).completed q.toNat (s.queue q.toNat).ctx.toNat p ps) := by
  have hlen : (natBytes 8 p.sigval.toNat).length = 8 := natBytes_length ..
  have hfree : s.spanBusy (s.queue q.toNat).ctx.toNat .local a 8 = false := by
    obtain ⟨-, -, htr, -⟩ := hw
    simp only [State.spanBusy, lineParts_of_line (by decide : 0 < 8) hline, List.any_cons, List.any_nil, htr]
    rfl
  obtain ⟨t, hspan, hwrote, -⟩ := writeSpan_of_writable (bs := natBytes 8 p.sigval.toNat) (by rw [hlen]; exact hline)
    (by rw [hlen]; exact hw) (((p.work.bind s.work?).map (·.gwct)).getD 0)
  have hwrites := writes_writeSpan s (s.queue q.toNat).ctx.toNat .local a (natBytes 8 p.sigval.toNat)
    (((p.work.bind s.work?).map (·.gwct)).getD 0)
  rw [hspan] at hwrites
  refine ⟨t, hwrote, hwrites, ?_⟩
  change execPacketCompletion q s = _
  have hva : s.writeVA (s.queue q.toNat).ctx.toNat p.sigaddr (natBytes 8 p.sigval.toNat)
      (((p.work.bind s.work?).map (·.gwct)).getD 0) = some (t, gwct s a 8 0 (((p.work.bind s.work?).map (·.gwct)).getD 0), none) := by
    simp only [State.writeVA, hlen, hmap, hfree, hspan, Bool.false_eq_true, if_false, Option.map_none]
  simp only [execPacketCompletion, hps, hdone, h0, h8, hva, bne_self_eq_false, Bool.not_true, Bool.false_eq_true, if_false]
  rfl
end

/-- Settles O52: a packet that is read is refused (`accept_refuses`, `refuse_does`) or the youngest of its queue (`exec_accepted`); the
oldest one that is done issues its signal and leaves (`completed_eq`). -/
theorem packets : Obligations.Packets := by
  unfold Obligations.Packets
  intro s q hlen x only
  have hq : q.toNat < s.queues.length := hlen ▸ q.isLt
  refine ⟨fun v => ⟨_, rfl, rfl, rfl, rfl, (sets_modQueue s q.toNat _).queue hq⟩, ?reset, fun v i hs hv hm hi => ?accepted,
    fun i hs hi hcause => ?refused, fun p ps hps hdone => ⟨fun h0 => ?plain, fun h8 => ?misaligned, fun a pa h0 h8 hmap hline hw => ?stored⟩⟩
  case reset =>
    have hsets := (sets_modQueue s q.toNat fun x => { x with head := x.tail, halted := false, seq := 0 }).queue hq
    refine ⟨_, rfl, ?_⟩
    split
    · exact ⟨rfl, rfl, rfl, hsets⟩
    · exact ⟨rfl, rfl, rfl, hsets⟩
  case accepted =>
    obtain ⟨type, ht, h03, hexec⟩ : ∃ type, v % 2 ^ 8 = type ∧ (type = 0 ∨ type = 3) ∧ exec i s = .next (s.packetEvent q.toNat type) := by
      rcases hi with ⟨rfl, ht⟩ | ⟨rfl, ht⟩
      · exact ⟨0, ht, .inl rfl, rfl⟩
      · exact ⟨3, ht, .inr rfl, rfl⟩
    obtain ⟨t, hexec, hhome, hworks, hpass, hunits, hsets⟩ := accepted_alone hs hq hexec hv hm ht h03
    exact ⟨t, hexec, hhome, hworks, hpass, hunits, hsets.queue hq⟩
  case refused =>
    obtain ⟨type, hexec, hrec⟩ : ∃ type, exec i s = .next (s.packetEvent q.toNat type) ∧
        ∀ v, (i = .launch q ∧ v % 2 ^ 8 = 1 ∧ s.readRec x.ctx.toNat (v / 2 ^ 64 % 2 ^ 72) 256 = .bad ∨
            i = .job q ∧ v % 2 ^ 8 = 2 ∧ s.readRec x.ctx.toNat (v / 2 ^ 64 % 2 ^ 72) 128 = .bad) →
          v % 2 ^ 8 = type ∧ s.recordAt q.toNat type (v / 2 ^ 64 % 2 ^ 72) = .bad := by
      rcases hi with rfl | rfl | rfl | rfl
      · exact ⟨0, rfl, fun v h => by simp at h⟩
      · exact ⟨1, rfl, fun v h => by simpa [State.recordAt] using h⟩
      · exact ⟨2, rfl, fun v h => by simpa [State.recordAt] using h⟩
      · exact ⟨3, rfl, fun v h => by simp at h⟩
    have hrefuse : s.accept q.toNat type = s.refuse q.toNat := accept_refuses hs <| hcause.imp_right <| Or.imp_right <| Or.imp_right <|
      Or.imp_right fun ⟨v, hv, hbad⟩ => ⟨v, hv, hbad.imp_right (hrec v)⟩
    obtain ⟨hworks, hunits, hirqs, hsets⟩ := refuse_does s q.toNat hq
    exact ⟨_, hexec.trans (by rw [packetEvent_accepts hs, hrefuse]), hworks, hirqs, hunits, hsets.queue hq⟩
  case plain =>
    rw [Does, completion_plain hps hdone h0, completed_eq]
    exact ⟨_, rfl, rfl, rfl, rfl, rfl, (sets_modQueue s q.toNat _).queue hq⟩
  case misaligned =>
    have hsets := ((sets_refl s q.toNat).postTask hq (plainRecord 0x28 p.id (p.sigaddr % 2 ^ 64) 1)).modQueue fun x => { x with packets := ps }
    obtain ⟨m, o, w, hpost⟩ := postTask_eq s q.toNat (plainRecord 0x28 p.id (p.sigaddr % 2 ^ 64) 1)
    rw [Does, completion_misaligned hps hdone h8, completed_eq]
    refine ⟨_, rfl, ?_, by rw [hpost]; rfl, by rw [hpost]; rfl, hsets.queue hq⟩
    rw [hpost]
    cases p.irq <;> rfl
  case stored =>
    obtain ⟨t, hwrote, ⟨⟨m, o, rfl⟩, -⟩, hexec⟩ := completion_stored hps hdone h0 h8 hmap hline hw
    rw [Does, hexec, completed_eq]
    exact ⟨_, rfl, hwrote, rfl, rfl, ((sets_modQueue s q.toNat _).queue hq).1⟩

end Sys2Proof.Machine
end

section
/-! Proof of how launches and jobs start, fail or wait, and of JSUB's submissions (R319, R320, R324, R326, R327, R333, R335, R341, R372,
R399). -/

namespace Sys2Proof.Machine

/-! ### What the checks of a launch or a job depend on (R326, R335, R348, R349) -/

/-- What the gain fields of a job read; none are read in ORDERED mode. -/
def State.gainsRead (s : State) (ctx : Nat) (j : JobCfg) : List Rec := if j.gainMode then s.readGains ctx j else []
section
variable {s t : State} (hh : t.home = s.home) (hc : t.ctxs = s.ctxs)
include hh hc
theorem mapEntry_congr (ctx n : Nat) : t.mapEntry ctx n = s.mapEntry ctx n := by
  unfold State.mapEntry State.mapEntryAt State.ctx
  rw [hh, hc]
theorem mapOf_congr (ctx : Nat) (spans : List (Nat × Nat)) : t.mapOf ctx spans = s.mapOf ctx spans := by
  have hfind (ns : List Nat) : t.mapFind ctx spans ns = s.mapFind ctx spans ns := by
    induction ns with
    | nil => rfl
    | cons k ns ih => simp only [State.mapFind, mapEntry_congr hh hc, ih]
  simp only [State.mapOf, hfind, State.ctx, hc]
theorem mapPoison_congr : t.mapPoison = s.mapPoison := by
  funext ctx
  simp only [State.mapPoison, mapEntry_congr hh hc, State.mapEntryAt, State.ctx, hc, hh]
theorem resolveAll_congr : t.resolveAll = s.resolveAll := by
  have hwin : t.resolveWin = s.resolveWin := by
    funext ctx d range x
    simp only [State.resolveWin, mapOf_congr hh hc]
  unfold State.resolveAll
  rw [hwin]
section
variable (ht : t.tick = s.tick)
include ht
theorem readRec_congr : t.readRec = s.readRec := by
  funext ctx va n
  simp only [State.readRec, readVA_congr hh ht hc]
theorem checkLaunch_congr : t.checkLaunch = s.checkLaunch := by
  unfold State.checkLaunch State.regionTable State.ctx
  rw [readRec_congr hh hc ht, resolveAll_congr hh hc, mapPoison_congr hh hc, hc]
theorem gainsRead_congr : t.gainsRead = s.gainsRead := by
  unfold State.gainsRead State.readGains
  rw [readRec_congr hh hc ht]
theorem checkJob_congr (ha : t.amc = s.amc) : t.checkJob = s.checkJob := by
  unfold State.checkJob State.cardOk State.dies
  rw [readRec_congr hh hc ht, checkLaunch_congr hh hc ht, ha]
end
end
theorem packetDone_congr {s t : State} (hw : t.works = s.works) (ht : t.tick = s.tick) (hl : t.lags = s.lags) :
    t.packetDone = s.packetDone := by
  have hwork : t.work? = s.work? := funext (work?_congr hw)
  funext p
  simp only [State.packetDone, hwork, clockOf_congr ht hl]

/-! ### Work that begins (R326, R327, R333, R335, R341) -/

/-- The launch that a record with value `r` begins. -/
def State.launchWork (s : State) (q ctx target r : Nat) (id : BitVec 64) (c : LaunchCfg) (ws : List Window) : Work :=
  { newWork s.nextId q ctx id target c ws with
    grid := recGrid r, pos := List.replicate ((recGrid r).1 * (recGrid r).2.1 * (recGrid r).2.2) .waiting }
theorem beginLaunch_ok {s : State} {ctx r : Nat} {c : LaunchCfg} {ws : List Window}
    (h : s.checkLaunch ctx r (r % 2 ^ 72) 0x21 false = .ok c ws) (q target : Nat) (id : BitVec 64) :
    s.beginLaunch q ctx target r id = .ok (s.launchWork q ctx target r id c ws) := by
  rw [State.beginLaunch, bitsOf_low, h]
  rfl
theorem beginLaunch_bad {s : State} {ctx r code d : Nat} (h : s.checkLaunch ctx r (r % 2 ^ 72) 0x21 false = .bad code d)
    (q target : Nat) (id : BitVec 64) : s.beginLaunch q ctx target r id = .bad code d := by
  rw [State.beginLaunch, bitsOf_low, h]
/-- The record of a task at its Sett, with what was read at its gain field. -/
def State.gainOf (s : State) (r : Rec) (i : Nat) : GainRec :=
  ⟨match r with | .val g => BitVec.ofNat 32 g | _ => 0, 0, s.homeDie i, false, none, []⟩
/-- The job that a card with value `v` begins, with what was read at its gain fields. -/
def State.jobWork (s : State) (q ctx card v : Nat) (id : BitVec 64) (child : Bool) (c : LaunchCfg) (ws : List Window) (gs : List Rec) :
    Work :=
  { newWork s.nextId q ctx id (bitsOf v 72 72) c ws with
    job := some (cardJob card v), pos := List.replicate (cardJob card v).count .waiting
    gains := (gs.zipIdx).map fun (r, i) => s.gainOf r i
    resid := (BitVec.ofNat 128 (v / 2 ^ 896)).toInt
    deques := (s.jobClusters (cardJob card v)).map fun p => (p, []), child := child, winResident := false }
section
variable {s : State} {ctx v : Nat}
theorem beginJob_bad {code d : Nat} (h : s.checkJob ctx v = .bad code d) (q card : Nat) (id : BitVec 64) (child : Bool) :
    s.beginJob q ctx card v id child = .bad code d := by
  rw [State.beginJob, h]
theorem beginJob_ok {c : LaunchCfg} {ws : List Window} (h : s.checkJob ctx v = .ok c ws) {card : Nat}
    (hg : ∀ r ∈ s.gainsRead ctx (cardJob card v), r ≠ .busy) (q : Nat) (id : BitVec 64) (child : Bool) :
    s.beginJob q ctx card v id child = .ok (s.jobWork q ctx card v id child c ws (s.gainsRead ctx (cardJob card v))) := by
  have hnot : (s.gainsRead ctx (cardJob card v)).any (· == .busy) = false := List.any_eq_false.2 fun r hr => by simpa using hg r hr
  unfold State.gainsRead at hnot
  rw [State.beginJob, h]
  dsimp only
  rw [hnot]
  rfl
end
theorem failUnread_eq {s : State} {w : Work} (h : ∀ j, w.job = some j → ∀ r ∈ s.gainsRead w.ctx j, r ≠ .bad) : s.failUnread w = s := by
  unfold State.failUnread
  cases hj : w.job with
  | none => rfl
  | some j =>
    have hread := h j hj
    rw [State.gainsRead] at hread
    cases hg : j.gainMode with
    | false => simp [hg]
    | true =>
      rw [hg, if_pos rfl] at hread
      have hnone : ((s.readGains w.ctx j).zipIdx.filterMap fun (r, i) => if r == .bad then some i else none) = [] :=
        List.filterMap_eq_nil_iff.2 fun x hx => if_neg (by simpa using hread x.1 (List.fst_mem_of_mem_zipIdx hx))
      simp only [hg, if_true, hnone, List.foldl_nil]
/-- Work whose gain fields have all been read is added, and nothing fails. -/
theorem addWork_eq {s : State} {w : Work} (h : ∀ j, w.job = some j → ∀ r ∈ s.gainsRead w.ctx j, r ≠ .bad) :
    s.addWork w = { s with nextId := s.nextId + 1, works := s.works ++ [w.gainStop] } := by
  have hread : State.gainsRead { s with nextId := s.nextId + 1, works := s.works ++ [w.gainStop] } = s.gainsRead :=
    gainsRead_congr rfl rfl rfl
  exact failUnread_eq (by rwa [hread])
theorem gainStop_launch {w : Work} (h : w.job = none) : w.gainStop = w := by rw [Work.gainStop, h]
theorem gainStop_ordered {w : Work} {j : JobCfg} (h : w.job = some j) (hj : j.gainMode = false) : w.gainStop = w := by
  simp [Work.gainStop, h, hj]
/-- R345: dispatch stops at once when no task has positive gain. -/
theorem gainStop_stopped {w : Work} {j : JobCfg} (h : w.job = some j) (hj : j.gainMode = true) (h0 : w.stopped = 0)
    (hidle : ∀ g ∈ w.gains, g.running = false) :
    w.gainStop = { w with stopped := if w.gains.any fun g => gainPositive g.gain then 0 else 2 } := by
  have hany : (w.gains.any fun g => g.running || gainPositive g.gain) = w.gains.any fun g => gainPositive g.gain := by
    rw [Bool.eq_iff_iff, List.any_eq_true, List.any_eq_true]
    exact exists_congr fun g => and_congr_right fun hg => by rw [hidle g hg, Bool.false_or]
  rw [Work.gainStop, h]
  dsimp only
  rw [hj, h0, hany]
  cases hpos : w.gains.any fun g => gainPositive g.gain
  · simp
  · simp [← h0, ← h]

/-! ### A packet's start (R320, R322, R326) -/

/-- A packet of a queue's list has started, with its work. -/
def State.marked (s : State) (q i : Nat) (work : Option Nat) : State :=
  s.modQueue q fun x => { x with packets := modAt x.packets i fun p => { p with started := true, work := work } }
/-- What the start of a packet gives. -/
def State.begins (s : State) (q : Nat) (p : Packet) : Begun :=
  if p.type = 1 then s.beginLaunch q (s.queue q).ctx.toNat p.target p.record.toNat p.id
  else s.beginJob q (s.queue q).ctx.toNat p.target p.record.toNat p.id false
section
variable {s : State} {q i : Nat} {p : Packet} (hp : (s.queue q).packets[i]? = some p) (hnew : p.started = false)
include hp
theorem startPacket_waits (hw : p.waitPrev = true) (hprev : ((s.queue q).packets.take i).all s.packetDone = false) :
    s.startPacket q i = s := by
  simp only [State.startPacket, hp, hw, hprev, Bool.not_false, Bool.and_self, Bool.or_true, if_true]
include hnew
variable (hgo : p.waitPrev = false ∨ ((s.queue q).packets.take i).all s.packetDone = true)
include hgo
omit hp in
theorem packet_goes : (p.started || p.waitPrev && !((s.queue q).packets.take i).all s.packetDone) = false := by
  rcases hgo with h | h <;> simp [h, hnew]
theorem startPacket_bad {code d : Nat} (hb : s.begins q p = .bad code d) :
    s.startPacket q i = (s.postTask q (beginFault code p.id d p.record.toNat)).marked q i none := by
  rw [State.begins] at hb
  simp only [State.startPacket, hp, packet_goes hnew hgo, hb, Bool.false_eq_true, if_false]
  rfl
theorem startPacket_ok {w : Work} (hb : s.begins q p = .ok w) : ((s.addWork w).marked q i (some w.id)).caches (s.startPacket q i) := by
  obtain ⟨c, hc⟩ := cacheRecs_caches (s.addWork w) (s.queue q).ctx.toNat
    (s.startSpans (s.queue q).ctx.toNat p.target p.record.toNat (p.type != 1))
  rw [State.begins] at hb
  simp only [State.startPacket, hp, packet_goes hnew hgo, hb, Bool.false_eq_true, if_false, hc]
  exact ⟨c, rfl⟩
end

/-! ### A LAUNCH or JOB packet accepted (R319, R320, R327) -/

theorem modAt_concat {α : Type} (xs : List α) (x : α) (f : α → α) : modAt (xs ++ [x]) xs.length f = xs ++ [f x] := by
  induction xs with
  | nil => rfl
  | cons y ys ih => exact congrArg (y :: ·) ih
/-- The launch counter once a packet has its identifier (R327). -/
def State.launchAfter (s : State) (v : Nat) : BitVec 64 := if v / 2 ^ 136 % 2 ^ 64 = 0 then s.nextLaunch + 1 else s.nextLaunch
/-- A LAUNCH or JOB packet of which the record or card reads `rv`. -/
def State.workPacket (s : State) (v rv : Nat) (started : Bool) (work : Option Nat) : Packet :=
  packetOf v (launchId s v) started work (BitVec.ofNat 2048 rv)
/-- The state once a LAUNCH or JOB packet, not started, is the youngest of its queue. -/
def State.takenWork (s : State) (q v rv : Nat) : State :=
  s.taken q (s.launchAfter v) (s.workPacket v rv false none)
/-- Queue `q` has taken up packet `p`, read as `v`; its records number `seq`. -/
def took (s t : State) (q v : Nat) (p : Packet) (seq : Nat) : Prop :=
  t.units = s.units ∧ t.nextLaunch = s.launchAfter v ∧
    s.sets t q { s.queue q with head := (s.queue q).head + 1, packets := (s.queue q).packets ++ [p], seq := seq }
section
variable {s : State} {q v rv type : Nat} {i : Instr}
theorem packetDone_takenWork : (s.takenWork q v rv).packetDone = s.packetDone := packetDone_congr rfl rfl rfl
theorem gainsRead_takenWork : (s.takenWork q v rv).gainsRead = s.gainsRead := gainsRead_congr rfl rfl rfl
theorem checkLaunch_takenWork : (s.takenWork q v rv).checkLaunch = s.checkLaunch := checkLaunch_congr rfl rfl rfl
theorem checkJob_takenWork : (s.takenWork q v rv).checkJob = s.checkJob := checkJob_congr rfl rfl rfl rfl
variable (hq : q < s.queues.length) (hs : serves s q)
  (hi : exec i s = .next (s.packetEvent q type)) (hv : atHead s q v) (hm : malformed v = false) (ht : v % 2 ^ 8 = type)
  (h12 : type = 1 ∨ type = 2) (hr : s.recordAt q type (v / 2 ^ 64 % 2 ^ 72) = .val rv)
theorem marked_takenWork {t : State} {y : Queue} (h : s.sets t q y)
    (hy : y.packets = (s.queue q).packets ++ [s.workPacket v rv false none]) (work : Option Nat) :
    s.sets (t.marked q (s.queue q).packets.length work) q { y with
      packets := (s.queue q).packets ++ [s.workPacket v rv true work] } := by
  have hmark := h.modQueue fun x => { x with
    packets := modAt x.packets (s.queue q).packets.length fun p => { p with started := true, work := work } }
  rw [hy, modAt_concat] at hmark
  exact hmark
section
include hq
theorem takenWork_packet : ((s.takenWork q v rv).queue q).packets[(s.queue q).packets.length]? =
    some (s.workPacket v rv false none) := by
  rw [State.takenWork, packets_taken hq, List.getElem?_concat_length]
theorem takenWork_before : ((s.takenWork q v rv).queue q).packets.take (s.queue q).packets.length = (s.queue q).packets := by
  rw [State.takenWork, packets_taken hq, List.take_left]
end
include hs hi hv hm ht h12 hr
theorem exec_takenWork : ∃ t, exec i s = .next t ∧ ((s.takenWork q v rv).startPacket q (s.queue q).packets.length).caches t := by
  have hid : s.numbered type v = ({ s with nextLaunch := s.launchAfter v }, launchId s v) := by
    rw [State.numbered, if_pos (by simpa using h12)]
    exact takeId_eq s v
  have hnew : (decide (type = 0) || decide (type = 3)) = false := by rcases h12 with rfl | rfl <;> rfl
  have hexec := exec_accepted hs hi hv hm ht hr hid
  rw [hnew] at hexec
  exact hexec
include hq
theorem work_waits (hgo : ¬ (v / 2 ^ 8 % 2 = 0 ∨ ∀ p ∈ (s.queue q).packets, s.packetDone p = true)) :
    ∃ t, exec i s = .next t ∧ t.works = s.works ∧ t.home = { s.home with tlb := t.home.tlb } ∧
      took s t q v (s.workPacket v rv false none) (s.queue q).seq := by
  obtain ⟨hwait, hprev⟩ := not_or.1 hgo
  have hwaits : (s.workPacket v rv false none).waitPrev = true := beq_iff_eq.2 (by omega)
  have hbefore : (((s.takenWork q v rv).queue q).packets.take (s.queue q).packets.length).all (s.takenWork q v rv).packetDone = false := by
    rw [takenWork_before hq, packetDone_takenWork]
    exact Bool.eq_false_iff.2 fun h => hprev (List.all_eq_true.1 h)
  obtain ⟨t, hexec, hcaches⟩ := exec_takenWork hs hi hv hm ht h12 hr
  rw [startPacket_waits (takenWork_packet hq) hwaits hbefore] at hcaches
  obtain ⟨c, rfl⟩ := hcaches
  exact ⟨_, hexec, rfl, rfl, rfl, rfl, sets_taken s q (s.launchAfter v) _⟩
section
variable (hgo : v / 2 ^ 8 % 2 = 0 ∨ ∀ p ∈ (s.queue q).packets, s.packetDone p = true)
include hgo
omit hs hi hv hm ht h12 hr in
theorem takenWork_goes : (s.workPacket v rv false none).waitPrev = false ∨
    (((s.takenWork q v rv).queue q).packets.take (s.queue q).packets.length).all (s.takenWork q v rv).packetDone = true := by
  rw [takenWork_before hq, packetDone_takenWork, List.all_eq_true]
  exact hgo.imp_left fun h => beq_eq_false_iff_ne.2 (by omega)
/-- R326, R335: a packet whose record fails its checks has done with one record posted. -/
theorem work_fails {code d : Nat}
    (hb : (s.takenWork q v rv).begins q (s.workPacket v rv false none) = .bad code d) :
    ∃ t, exec i s = .next t ∧ t.works = s.works ∧ t.irqs = (32 + q) :: s.irqs ∧
      took s t q v (s.workPacket v rv true none) ((s.queue q).seq + 1) := by
  have hsets (r : Record) := marked_takenWork (v := v) (rv := rv) ((sets_taken s q (s.launchAfter v)
    (s.workPacket v rv false none)).postTask hq r) rfl none
  obtain ⟨t, hexec, hcaches⟩ := exec_takenWork hs hi hv hm ht h12 hr
  rw [startPacket_bad (takenWork_packet hq) rfl (takenWork_goes hq hgo) hb] at hcaches
  obtain ⟨c, rfl⟩ := hcaches
  obtain ⟨m, o, w, hpost⟩ := postTask_eq (s.takenWork q v rv) q (beginFault code (launchId s v) d (BitVec.ofNat 2048 rv).toNat)
  have hworks := congrArg State.works hpost
  have hirqs := congrArg State.irqs hpost
  have hunits := congrArg State.units hpost
  have hnext := congrArg State.nextLaunch hpost
  exact ⟨_, hexec, hworks, hirqs, hunits, hnext, hsets _⟩
/-- R326, R333: a packet whose record passes its checks has its work under way. -/
theorem work_starts {w : Work}
    (hb : (s.takenWork q v rv).begins q (s.workPacket v rv false none) = .ok w)
    (hread : ∀ j, w.job = some j → ∀ r ∈ s.gainsRead w.ctx j, r ≠ .bad) :
    ∃ t, exec i s = .next t ∧ t.home = { s.home with tlb := t.home.tlb } ∧
      took s t q v (s.workPacket v rv true (some w.id)) (s.queue q).seq ∧
      t.works = s.works ++ [w.gainStop] := by
  have hadd : (s.takenWork q v rv).addWork w = _ := addWork_eq (by rwa [gainsRead_takenWork])
  have hsets := marked_takenWork (v := v) (rv := rv) (sets_taken s q (s.launchAfter v)
    (s.workPacket v rv false none)) rfl (some w.id)
  obtain ⟨t, hexec, hcaches⟩ := exec_takenWork hs hi hv hm ht h12 hr
  replace hcaches := caches_trans (startPacket_ok (takenWork_packet hq) rfl (takenWork_goes hq hgo) hb) hcaches
  rw [hadd] at hcaches
  obtain ⟨c, rfl⟩ := hcaches
  exact ⟨_, hexec, rfl, ⟨rfl, rfl, hsets⟩, rfl⟩
end
end

/-! ### What the start of an accepted packet gives -/

theorem toNat_ofNat_of_lt {w n : Nat} (h : n < 2 ^ w) : (BitVec.ofNat w n).toNat = n := by
  rw [BitVec.toNat_ofNat, Nat.mod_eq_of_lt h]
section
variable {s : State} {q v rv : Nat} (hq : q < s.queues.length) (hrv : rv < 2 ^ 2048)
include hq hrv
theorem begins_takenWork : (s.takenWork q v rv).begins q (s.workPacket v rv false none) =
    if v % 2 ^ 8 = 1 then (s.takenWork q v rv).beginLaunch q (s.queue q).ctx.toNat (v / 2 ^ 64 % 2 ^ 72) rv (launchId s v)
    else (s.takenWork q v rv).beginJob q (s.queue q).ctx.toNat (v / 2 ^ 64 % 2 ^ 72) rv (launchId s v) false := by
  obtain ⟨hqueue, -⟩ := (sets_taken s q (s.launchAfter v) (s.workPacket v rv false none)).queue hq
  have hctx : ((s.takenWork q v rv).queue q).ctx = (s.queue q).ctx := by rw [State.takenWork, hqueue]
  simp only [State.begins, State.workPacket, packetOf, hctx, toNat_ofNat_of_lt hrv]
theorem begins_launch {c : LaunchCfg} {ws : List Window} (ht : v % 2 ^ 8 = 1)
    (hc : s.checkLaunch (s.queue q).ctx.toNat rv (rv % 2 ^ 72) 0x21 false = .ok c ws) :
    (s.takenWork q v rv).begins q (s.workPacket v rv false none) =
      .ok (s.launchWork q (s.queue q).ctx.toNat (v / 2 ^ 64 % 2 ^ 72) rv (launchId s v) c ws) := by
  rw [← checkLaunch_takenWork (q := q) (v := v) (rv := rv)] at hc
  rw [begins_takenWork hq hrv, if_pos ht, beginLaunch_ok hc]
  rfl
theorem begins_job {c : LaunchCfg} {ws : List Window} (ht : v % 2 ^ 8 = 2) (hc : s.checkJob (s.queue q).ctx.toNat rv = .ok c ws)
    (hg : ∀ r ∈ s.gainsRead (s.queue q).ctx.toNat (cardJob (v / 2 ^ 64 % 2 ^ 72) rv), r ≠ .busy) :
    (s.takenWork q v rv).begins q (s.workPacket v rv false none) =
      .ok (s.jobWork q (s.queue q).ctx.toNat (v / 2 ^ 64 % 2 ^ 72) rv (launchId s v) false c ws
        (s.gainsRead (s.queue q).ctx.toNat (cardJob (v / 2 ^ 64 % 2 ^ 72) rv))) := by
  have hne : ¬ v % 2 ^ 8 = 1 := by omega
  rw [← checkJob_takenWork (q := q) (v := v) (rv := rv)] at hc
  rw [← gainsRead_takenWork (q := q) (v := v) (rv := rv)] at hg ⊢
  rw [begins_takenWork hq hrv, if_neg hne, beginJob_ok hc hg]
  rfl
theorem begins_bad {code d : Nat}
    (h : v % 2 ^ 8 = 1 ∧ s.checkLaunch (s.queue q).ctx.toNat rv (rv % 2 ^ 72) 0x21 false = .bad code d ∨
      v % 2 ^ 8 = 2 ∧ s.checkJob (s.queue q).ctx.toNat rv = .bad code d) :
    (s.takenWork q v rv).begins q (s.workPacket v rv false none) = .bad code d := by
  rw [begins_takenWork hq hrv]
  rcases h with ⟨ht, hc⟩ | ⟨ht, hc⟩
  · rw [← checkLaunch_takenWork (q := q) (v := v) (rv := rv)] at hc
    rw [if_pos ht, beginLaunch_bad hc]
  · have hne : ¬ v % 2 ^ 8 = 1 := by omega
    rw [← checkJob_takenWork (q := q) (v := v) (rv := rv)] at hc
    rw [if_neg hne, beginJob_bad hc]
end
/-- The gain fields of a GAIN job that can all be read (R341). -/
theorem gainsRead_vals {s : State} {ctx : Nat} {j : JobCfg} {g : Nat → Nat} (hj : j.gainMode = true)
    (h : ∀ k < j.count, s.readRec ctx (j.recAt k + j.goff) 8 = .val (g k)) :
    s.gainsRead ctx j = (List.range j.count).map fun k => .val (g k) := by
  rw [State.gainsRead, if_pos hj]
  exact List.map_congr_left fun k hk => h k (List.mem_range.1 hk)
theorem gainsRead_ordered {s : State} {ctx : Nat} {j : JobCfg} (hj : j.gainMode = false) : s.gainsRead ctx j = [] := by
  simp [State.gainsRead, hj]
/-- No gain field is on the move or unreadable: none is read in ORDERED mode, or all can be read. -/
theorem gainsRead_sound {s : State} {ctx : Nat} {j : JobCfg}
    (h : j.gainMode = true → ∃ g : Nat → Nat, ∀ k < j.count, s.readRec ctx (j.recAt k + j.goff) 8 = .val (g k)) :
    ∀ r ∈ s.gainsRead ctx j, r ≠ .busy ∧ r ≠ .bad := by
  intro r hr
  cases hj : j.gainMode with
  | false => rw [gainsRead_ordered hj] at hr; cases hr
  | true =>
    obtain ⟨g, hg⟩ := h hj
    rw [gainsRead_vals hj hg] at hr
    obtain ⟨k, -, rfl⟩ := List.mem_map.1 hr
    exact ⟨Rec.noConfusion, Rec.noConfusion⟩
/-- R345: a GAIN job none of whose tasks has positive gain dispatches none. -/
theorem gainStop_jobWork {s : State} {q ctx card v : Nat} {id : BitVec 64} {child : Bool} {c : LaunchCfg} {ws : List Window}
    {gs : List Rec} (hj : (cardJob card v).gainMode = true) : (s.jobWork q ctx card v id child c ws gs).gainStop =
      { s.jobWork q ctx card v id child c ws gs with
        stopped := if (s.jobWork q ctx card v id child c ws gs).gains.any fun g => gainPositive g.gain then 0 else 2 } := by
  refine gainStop_stopped rfl hj rfl fun g hg => ?_
  obtain ⟨x, -, rfl⟩ := List.mem_map.1 hg
  rfl
theorem gainOf_vals (s : State) (n : Nat) (g : Nat → Nat) :
    (((List.range n).map fun k => Rec.val (g k)).zipIdx.map fun (r, i) => s.gainOf r i) =
      (List.range n).map fun k => ⟨BitVec.ofNat 32 (g k), 0, s.homeDie k, false, none, []⟩ := by
  refine List.ext_getElem? fun k => ?_
  simp only [List.getElem?_map, List.getElem?_zipIdx, Nat.zero_add]
  cases hk : (List.range n)[k]? with
  | none => rfl
  | some x =>
    obtain rfl : k = x := (List.getElem_range _).symm.trans (List.getElem?_eq_some_iff.1 hk).2
    rfl

/-- R333, R341: a JOB packet whose gain fields, if it has any, can be read has its job under way. -/
theorem job_starts {s : State} {q v rv : Nat} {i : Instr} {c : LaunchCfg} {ws : List Window} (hq : q < s.queues.length)
    (hs : serves s q) (hi : exec i s = .next (s.packetEvent q 2)) (hv : atHead s q v) (hm : malformed v = false) (ht : v % 2 ^ 8 = 2)
    (hrv : rv < 2 ^ 2048) (hr : s.readRec (s.queue q).ctx.toNat (v / 2 ^ 64 % 2 ^ 72) 128 = .val rv)
    (hgo : v / 2 ^ 8 % 2 = 0 ∨ ∀ p ∈ (s.queue q).packets, s.packetDone p = true)
    (hc : s.checkJob (s.queue q).ctx.toNat rv = .ok c ws)
    (hg : ∀ r ∈ s.gainsRead (s.queue q).ctx.toNat (cardJob (v / 2 ^ 64 % 2 ^ 72) rv), r ≠ .busy ∧ r ≠ .bad) :
    ∃ t, exec i s = .next t ∧ t.home = { s.home with tlb := t.home.tlb } ∧
      took s t q v (s.workPacket v rv true (some s.nextId)) (s.queue q).seq ∧
      t.works = s.works ++ [(s.jobWork q (s.queue q).ctx.toNat (v / 2 ^ 64 % 2 ^ 72) rv (launchId s v) false c ws
        (s.gainsRead (s.queue q).ctx.toNat (cardJob (v / 2 ^ 64 % 2 ^ 72) rv))).gainStop] :=
  work_starts hq hs hi hv hm ht (.inr rfl) hr hgo (begins_job hq hrv ht hc fun r h => (hg r h).1)
    (by rintro j ⟨⟩; exact fun r h => (hg r h).2)

/-! ### A packet that has waited (R320) -/

theorem packetEvent_starts {s : State} {q k : Nat} {p : Packet} (hp : (s.queue q).packets[k]? = some p) (hnew : p.started = false)
    (hbefore : ∀ j < k, ∀ o, (s.queue q).packets[j]? = some o → o.started = true ∧ s.packetDone o = true) :
    ((s.queue q).packets.take k).all s.packetDone = true ∧ s.packetEvent q p.type = s.startPacket q k := by
  have hdone : ((s.queue q).packets.take k).all s.packetDone = true := by
    refine List.all_eq_true.2 fun o ho => ?_
    obtain ⟨j, hj, rfl⟩ := List.mem_take_iff_getElem.1 ho
    exact (hbefore j (by omega) _ (List.getElem?_eq_getElem _)).2
  refine ⟨hdone, ?_⟩
  have hfind : (s.queue q).packets.zipIdx.find? (fun (o, i) => !o.started && o.type == p.type &&
      (!o.waitPrev || ((s.queue q).packets.take i).all s.packetDone)) = some (p, k) := by
    obtain ⟨hk, hpk⟩ := List.getElem?_eq_some_iff.1 hp
    refine List.find?_eq_some_iff_getElem.2 ⟨by simp [hnew, hdone], k, by simpa using hk, by simp [hpk], fun j hj => ?_⟩
    obtain ⟨hstarted, -⟩ := hbefore j hj _ (List.getElem?_eq_getElem (by omega))
    simp [hstarted]
  simp only [State.packetEvent, hfind, Option.map_some]
/-- R320: a LAUNCH packet that has waited starts once every earlier one has completed. -/
theorem launch_starts {s : State} {q : BitVec 5} {k : Nat} {p : Packet} {c : LaunchCfg} {ws : List Window}
    (hq : q.toNat < s.queues.length) (hp : (s.queue q.toNat).packets[k]? = some p) (hnew : p.started = false) (ht : p.type = 1)
    (hbefore : ∀ j < k, ∀ o, (s.queue q.toNat).packets[j]? = some o → o.started = true ∧ s.packetDone o = true)
    (hc : s.checkLaunch (s.queue q.toNat).ctx.toNat p.record.toNat (p.record.toNat % 2 ^ 72) 0x21 false = .ok c ws) :
    Does (.launch q) s fun t => t.home = { s.home with tlb := t.home.tlb } ∧ (t.queue q.toNat).head = (s.queue q.toNat).head ∧
      (t.queue q.toNat).packets[k]? = some { p with started := true, work := some s.nextId } ∧
      ∃ w, t.works = s.works ++ [w] ∧ w.id = s.nextId ∧ w.cfg = c ∧ w.launchid = p.id := by
  obtain ⟨hdone, hevent⟩ := packetEvent_starts hp hnew hbefore
  have hb : s.begins q.toNat p = .ok (s.launchWork q.toNat (s.queue q.toNat).ctx.toNat p.target p.record.toNat p.id c ws) := by
    rw [State.begins, if_pos ht, beginLaunch_ok hc]
  have hcaches := startPacket_ok hp hnew (.inr hdone) hb
  rw [addWork_eq (by intro j hj; cases hj), gainStop_launch rfl] at hcaches
  have hsets := (sets_refl s q.toNat).modQueue fun x => { x with
    packets := modAt x.packets k fun p => { p with started := true, work := some s.nextId } }
  obtain ⟨cache, hcache⟩ := hcaches
  obtain ⟨hqueue, -⟩ := hsets.queue hq
  rw [ht, hcache] at hevent
  have hexec : exec (.launch q) s = .next (s.packetEvent q.toNat 1) := rfl
  have hhead := congrArg Queue.head hqueue
  have hpackets := congrArg (fun x : Queue => x.packets[k]?) hqueue
  rw [modAt_getElem?, if_pos rfl, hp] at hpackets
  exact ⟨_, hexec.trans (congrArg _ hevent), rfl, hhead, hpackets, _, rfl, rfl, rfl, rfl⟩

/-! ### JSUB's submissions (R372, R399) -/

theorem popItem_eq (s : State) (o : MemOp) (k : OpKind) (more : Bool) : ∃ ops, s.popItem o k more = { s with ops := ops } := by
  unfold State.popItem
  split
  · exact ⟨_, rfl⟩
  · exact ⟨_, rfl⟩
theorem op?_popItem {s : State} {o : MemOp} (h : s.op? o.id = some o) (k : OpKind) (more : Bool) :
    (s.popItem o k more).op? o.id = if more then some { o with kind := k } else none := by
  unfold State.popItem
  split
  · exact op?_modOp_self h fun _ => rfl
  · exact List.find?_eq_none.2 fun x hx => by simpa using (List.mem_filter.1 hx).2
theorem jsubWrite_eq (s : State) (o : MemOp) (dst lane : Nat) (id : BitVec 64) (last : Bool) :
    ∃ us, s.jsubWrite o dst lane id last = { s with units := us } := by
  unfold State.jsubWrite
  split
  · exact ⟨s.units, rfl⟩
  · exact ⟨_, rfl⟩
theorem jsubWrite_returned {s : State} {o : MemOp} (h : o.returned = true) (dst lane : Nat) (id : BitVec 64) (last : Bool) :
    s.jsubWrite o dst lane id last = s := if_pos h
theorem warp?_jsubWrite {s : State} {o : MemOp} {u : Placed} {x : Warp} (h : o.returned = false) (hu : s.unit? o.w.unit = some u)
    (hx : s.warp? o.w = some x) (dst lane : Nat) (id : BitVec 64) (last : Bool) :
    let y := x.applyWrites [(lane, [.g dst (BitVec.ofNat 32 id.toNat) (List.replicate u.cfg.d 0) 0])]
    (s.jsubWrite o dst lane id last).warp? o.w = some (if last then y.clearSb [.g dst] else y) := by
  intro y
  rw [State.jsubWrite, if_neg (by simp [h]), hu, warp?_modWarp_self, hx]
  rfl
/-- The identifier of a submitted job: the counter's, or the one that its unit has numbered (R372, R399). -/
def State.jobId (s : State) (given : Nat) : BitVec 64 := if given = 0 then s.nextLaunch else BitVec.ofNat 64 (given - 1)
/-- The state with the launch counter past it. -/
def State.pastJobId (s : State) (given : Nat) : State :=
  { s with nextLaunch := if given = 0 then s.nextLaunch + 1 else s.nextLaunch }
/-- The state in which a submission has its identifier, its item is gone and the identifier is in its register. -/
def State.submitted (s : State) (o : MemOp) (q ctx dst lane given : Nat) (rest : List (Nat × Nat × Nat)) : State :=
  ((s.pastJobId given).popItem o (.jsub q ctx dst rest) (rest != [])).jsubWrite o dst lane (s.jobId given) (rest == [])
theorem jobSubmit_caches {s : State} {o : MemOp} {q ctx dst lane ea given v : Nat} {rest : List (Nat × Nat × Nat)} {c : LaunchCfg}
    {ws : List Window} (ho : s.op? o.id = some o) (hk : o.kind = .jsub q ctx dst ((lane, ea, given) :: rest))
    (hready : s.taskReady o = true) (hfirst : s.laneFirst o = true) (hfe : s.watch.feHalted = false) (hpass : s.watch.fePass = false)
    (hbps : ∀ b ∈ s.watch.bps, b.en = false) (hroom : s.childJobs ctx < 64) (hcard : s.readRec ctx ea 128 = .val v)
    (hc : s.checkJob ctx v = .ok c ws) (hg : (cardJob ea v).gainMode = false) : ∃ t, exec (.jobSubmit o.id) s = .next t ∧
      ((s.submitted o q ctx dst lane given rest).addWork (s.jobWork q ctx ea v (s.jobId given) true c ws [])).caches t := by
  have hid : (if given = 0 then s.takeId 0 else (s, BitVec.ofNat 64 (given - 1))) = (s.pastJobId given, s.jobId given) := by
    unfold State.pastJobId State.jobId
    split <;> rfl
  have hbegin : (s.pastJobId given).beginJob q ctx ea v (s.jobId given) true =
      .ok (s.jobWork q ctx ea v (s.jobId given) true c ws []) := by
    have hread := gainsRead_ordered (s := s.pastJobId given) (ctx := ctx) hg
    rw [← checkJob_congr (t := s.pastJobId given) (s := s) rfl rfl rfl rfl] at hc
    rw [beginJob_ok hc (by rw [hread]; exact fun r hr => absurd hr List.not_mem_nil), hread]
    rfl
  have hsubmit : exec (.jobSubmit o.id) s = .next (s.submit o) := by
    change Host.Outcome.next (((s.op? o.id).map s.submit).getD s) = _
    rw [ho]
    rfl
  refine ⟨_, hsubmit, ?_⟩
  have hskip : (!s.submitReady o || !s.laneFirst o || s.watch.feHalted || decide (s.childJobs ctx ≥ 64)) = false := by
    simp [State.submitReady, hk, isJsub, hready, hfirst, hfe, hroom]
  have hnb : (Rec.val v == Rec.busy) = false := rfl
  have hbp : s.bpHit q (some (bitsOf v 0 72)) = none := bpHit_none hbps _ _
  rw [State.submit, hk]
  simp only [hskip, hcard, hnb, hpass, hbp, hid, hbegin, Bool.false_and, Bool.false_or, Option.isNone_some, Bool.false_eq_true, if_false]
  exact cacheRecs_caches ..
theorem submitted_eq (s : State) (o : MemOp) (q ctx dst lane given : Nat) (rest : List (Nat × Nat × Nat)) : ∃ ops us,
    s.submitted o q ctx dst lane given rest =
      { s.pastJobId given with ops := ops, units := us } := by
  obtain ⟨ops, hpop⟩ := popItem_eq (s.pastJobId given) o (.jsub q ctx dst rest) (rest != [])
  unfold State.submitted
  rw [hpop]
  obtain ⟨us, hwrite⟩ := jsubWrite_eq { s.pastJobId given with ops := ops } o dst lane (s.jobId given) (rest == [])
  exact ⟨ops, us, hwrite⟩
theorem op?_submitted {s : State} {o : MemOp} (ho : s.op? o.id = some o) (q ctx dst lane given : Nat) (rest : List (Nat × Nat × Nat)) :
    (s.submitted o q ctx dst lane given rest).op? o.id = if rest = [] then none else some { o with kind := .jsub q ctx dst rest } := by
  have hpop := op?_popItem (s := s.pastJobId given) ho (.jsub q ctx dst rest) (rest != [])
  obtain ⟨us, hwrite⟩ := jsubWrite_eq ((s.pastJobId given).popItem o (.jsub q ctx dst rest) (rest != [])) o dst lane
    (s.jobId given) (rest == [])
  unfold State.submitted
  rw [hwrite]
  refine hpop.trans ?_
  cases rest <;> rfl
theorem units_submitted {s : State} {o : MemOp} (h : o.returned = true) (q ctx dst lane given : Nat) (rest : List (Nat × Nat × Nat)) :
    (s.submitted o q ctx dst lane given rest).units = s.units := by
  obtain ⟨ops, hpop⟩ := popItem_eq (s.pastJobId given) o (.jsub q ctx dst rest) (rest != [])
  unfold State.submitted
  rw [jsubWrite_returned h, hpop]
  rfl
theorem warp?_submitted {s : State} {o : MemOp} {u : Placed} {x : Warp} (h : o.returned = false) (hu : s.unit? o.w.unit = some u)
    (hx : s.warp? o.w = some x) (q ctx dst lane given : Nat) (rest : List (Nat × Nat × Nat)) :
    let y := x.applyWrites [(lane, [.g dst (BitVec.ofNat 32 (s.jobId given).toNat) (List.replicate u.cfg.d 0) 0])]
    (s.submitted o q ctx dst lane given rest).warp? o.w = some (if rest = [] then y.clearSb [.g dst] else y) := by
  intro y
  obtain ⟨ops, hpop⟩ := popItem_eq (s.pastJobId given) o (.jsub q ctx dst rest) (rest != [])
  have hwrite := warp?_jsubWrite (s := { s.pastJobId given with ops := ops }) h hu hx dst lane (s.jobId given) (rest == [])
  unfold State.submitted
  rw [hpop]
  refine hwrite.trans ?_
  cases rest <;> rfl

/-- Settles O53: a packet's work starts (`work_starts`), fails (`work_fails`) or waits (`work_waits`), or starts once it has waited
(`launch_starts`); JSUB's job starts with its identifier in its register (`jobSubmit_caches`, `warp?_submitted`). -/
theorem launchesAndJobs : Obligations.LaunchesAndJobs := by
  unfold Obligations.LaunchesAndJobs
  refine ⟨?packet, ?waited, ?jsub⟩
  case waited =>
    intro s q k p c ws hlen hp hnew ht hbefore rv hc
    exact launch_starts (hlen ▸ q.isLt) hp hnew ht hbefore hc
  case packet =>
    intro s q v rv type i checked hlen hs hv hm ht hrv x made target hcheck tookAs goes
    have hq : q.toNat < s.queues.length := hlen ▸ q.isLt
    have hi : exec i s = .next (s.packetEvent q.toNat type) := by
      rcases hcheck with ⟨rfl, rfl, -⟩ | ⟨rfl, rfl, -⟩ <;> rfl
    have h12 : type = 1 ∨ type = 2 := hcheck.imp And.left And.left
    have hr : s.recordAt q.toNat type target = .val rv := by
      rcases hcheck with ⟨rfl, -, hrec, -⟩ | ⟨rfl, -, hrec, -⟩ <;> exact hrec
    have htook {t : State} {p : Packet} {seq : Nat} (h : took s t q.toNat v p seq) : tookAs t p seq := by
      obtain ⟨hunits, hnext, hsets⟩ := h
      exact ⟨hunits, hnext, hsets.queue hq⟩
    refine ⟨fun hgo code d hbad => ?fails, fun hgo ht1 c ws hok => ?launch, fun hgo ht2 c ws hok hmode => ?ordered,
      fun hgo ht2 c ws g hok hmode hg => ?gain, fun hgo => ?waits⟩
    case fails =>
      have hb := begins_bad hq hrv (code := code) (d := d) <| hcheck.imp
        (fun ⟨htype, _, _, hc⟩ => ⟨ht.trans htype, hc.trans hbad⟩) (fun ⟨htype, _, _, hc⟩ => ⟨ht.trans htype, hc.trans hbad⟩)
      obtain ⟨t, hexec, hworks, hirqs, h⟩ := work_fails hq hs hi hv hm ht h12 hr hgo hb
      exact ⟨t, hexec, hworks, hirqs, htook h⟩
    case launch =>
      obtain ⟨-, -, -, hc⟩ | ⟨htype, -⟩ := hcheck
      · obtain ⟨t, hexec, hhome, h, hworks⟩ := work_starts hq hs hi hv hm ht h12 hr hgo
          (begins_launch hq hrv (ht.trans ht1) (hc.trans hok)) (by intro j hj; cases hj)
        rw [gainStop_launch rfl] at hworks
        exact ⟨t, hexec, hhome, htook h, _, hworks, rfl, rfl, rfl, rfl, rfl, rfl, rfl, rfl, rfl⟩
      · omega
    case ordered =>
      obtain ⟨htype, -⟩ | ⟨-, -, hrec, hc⟩ := hcheck
      · omega
      · subst ht2
        obtain ⟨t, hexec, hhome, h, hworks⟩ := job_starts hq hs hi hv hm ht hrv hrec hgo (hc.trans hok)
          (gainsRead_sound fun h => absurd h (by rw [hmode]; exact Bool.false_ne_true))
        rw [gainsRead_ordered hmode, gainStop_ordered rfl hmode] at hworks
        exact ⟨t, hexec, hhome, htook h, _, hworks, rfl, rfl, rfl, rfl, rfl, rfl, rfl, rfl, rfl, rfl, rfl⟩
    case gain =>
      obtain ⟨htype, -⟩ | ⟨-, -, hrec, hc⟩ := hcheck
      · omega
      · subst ht2
        obtain ⟨t, hexec, hhome, h, hworks⟩ := job_starts hq hs hi hv hm ht hrv hrec hgo (hc.trans hok) (gainsRead_sound fun _ => ⟨g, hg⟩)
        rw [gainsRead_vals hmode hg, gainStop_jobWork hmode] at hworks
        exact ⟨t, hexec, hhome, htook h, _, hworks, rfl, rfl, if_congr List.any_eq_true rfl rfl, gainOf_vals s _ g⟩
    case waits =>
      obtain ⟨t, hexec, hworks, hhome, h⟩ := work_waits hq hs hi hv hm ht h12 hr hgo
      exact ⟨t, hexec, hworks, hhome, htook h⟩
  case jsub =>
    intro s o q ctx dst lane ea given v rest c ws ho hk hready hfirst hfe hpass hbps hroom hcard hc hmode id
    obtain ⟨t, hexec, hcaches⟩ := jobSubmit_caches ho hk hready hfirst hfe hpass hbps hroom hcard hc hmode
    obtain ⟨ops, us, hsub⟩ := submitted_eq s o q ctx dst lane given rest
    have hop := op?_submitted ho q ctx dst lane given rest
    have hunits (h) := units_submitted (s := s) (o := o) h q ctx dst lane given rest
    have hwarp {u : Placed} {x : Warp} (h hu hx) := warp?_submitted (s := s) (o := o) (u := u) (x := x) h hu hx q ctx dst lane given rest
    have hsound (t : State) := gainsRead_sound (s := t) (ctx := ctx) (j := cardJob ea v)
      fun h => absurd h (by rw [hmode]; exact Bool.false_ne_true)
    have hadd : (s.submitted o q ctx dst lane given rest).addWork (s.jobWork q ctx ea v (s.jobId given) true c ws []) = _ :=
      addWork_eq (by rintro j ⟨⟩; exact fun r h => (hsound _ r h).2)
    rw [hadd, gainStop_ordered rfl hmode] at hcaches
    rw [hsub] at hcaches hop
    simp only [hsub] at hunits hwarp
    obtain ⟨cache, rfl⟩ := hcaches
    exact ⟨_, hexec, rfl, rfl, hop, ⟨_, rfl, rfl, rfl, rfl, rfl, rfl, rfl⟩, hunits, fun u x h hu hx => hwarp h hu hx⟩

end Sys2Proof.Machine
end

section
/-! Proof of how tasks are dealt, held, popped, stolen and dispatched (R335, R336, R338, R339, R341, R342, R344, R354). -/

namespace Sys2Proof.Machine

/-! ### Sorting by a key -/

theorem mem_insertKey {α : Type} (k : α → Nat) (x y : α) (xs : List α) : y ∈ insertKey k x xs ↔ y = x ∨ y ∈ xs := by
  induction xs with
  | nil => simp [insertKey]
  | cons z zs ih =>
    unfold insertKey
    split
    · exact List.mem_cons
    · rw [List.mem_cons, ih, List.mem_cons, or_left_comm]
theorem mem_sortKey {α : Type} (k : α → Nat) (y : α) (xs : List α) : y ∈ sortKey k xs ↔ y ∈ xs := by
  have hfold (acc : List α) : y ∈ xs.foldl (fun ys x => insertKey k x ys) acc ↔ y ∈ acc ∨ y ∈ xs := by
    induction xs generalizing acc with
    | nil => simp
    | cons x xs ih => rw [List.foldl_cons, ih, mem_insertKey, List.mem_cons, or_assoc, or_left_comm]
  rw [sortKey, hfold, or_iff_right List.not_mem_nil]
/-- Every victim of a thief holds an entry (R339). -/
theorem victims_holds {w : Work} {pcl p : Nat} {ts : List Nat} {rest : List (Nat × List Nat)} (h : w.victims pcl = (p, ts) :: rest) :
    ts ≠ [] := by
  have hmem (ds : List (Nat × List Nat)) (d : Nat × List Nat)
      (hd : d ∈ sortKey (fun d => 4096 - d.2.length) (sortKey (·.1) ds)) : d ∈ ds := by
    rwa [mem_sortKey, mem_sortKey] at hd
  have hfull : (p, ts) ∈ w.deques.filter fun d => d.2 != [] := by
    unfold Work.victims at h
    dsimp only at h
    split at h
    · next d ds hd =>
      obtain ⟨rfl, -⟩ := List.cons.inj h
      exact (List.mem_filter.1 (hmem _ _ (hd ▸ List.mem_cons_self))).1
    · exact hmem _ _ (h ▸ List.mem_cons_self)
  simpa using (List.mem_filter.1 hfull).2

/-! ### What a thief takes (R339) -/

/-- Inside its die a thief takes the upper half of a deque. -/
theorem takeTop_near (s : State) (w : Work) (j : JobCfg) (ts : List Nat) : s.takeTop w j false ts = ts.drop (ts.length / 2) := by
  have hhalf : ts.length - (ts.length + 1) / 2 = ts.length / 2 := by omega
  simp only [State.takeTop, Bool.false_eq_true, if_false]
  rw [List.take_reverse, List.reverse_reverse, hhalf]
/-- From another die it takes, of the upper half, the entries from the top whose records have MIG. -/
theorem takeTop_far {s : State} {w : Work} {j : JobCfg} {ts : List Nat} {k : Nat} (hk : k ≤ ts.length)
    (hmig : ∀ i ∈ ts.drop k, s.mig w j i = true) (hhalf : ts.length - k ≤ (ts.length + 1) / 2)
    (hstop : ts.length - k = (ts.length + 1) / 2 ∨ ∃ i, ts[k - 1]? = some i ∧ s.mig w j i = false) :
    s.takeTop w j true ts = ts.drop k := by
  simp only [State.takeTop, if_true]
  have htop : (ts.reverse.take ((ts.length + 1) / 2)).takeWhile (s.mig w j) = (ts.drop k).reverse := by
    have hsplit : ts.reverse = (ts.drop k).reverse ++ (ts.take k).reverse := by
      rw [← List.reverse_append, List.take_append_drop]
    have hlen : (ts.drop k).reverse.length = ts.length - k := by rw [List.length_reverse, List.length_drop]
    rw [hsplit, List.take_append, List.take_of_length_le (by omega), hlen,
      List.takeWhile_append_of_pos fun i hi => hmig i (List.mem_reverse.1 hi)]
    suffices hnone : ((ts.take k).reverse.take ((ts.length + 1) / 2 - (ts.length - k))).takeWhile (s.mig w j) = [] by
      rw [hnone, List.append_nil]
    rcases hstop with hall | ⟨i, hi, hno⟩
    · rw [hall, Nat.sub_self]
      rfl
    · cases k with
      | zero =>
        rw [List.take_zero, List.reverse_nil, List.take_nil]
        rfl
      | succ m =>
        rw [List.take_add_one, show ts[m]? = some i from hi, Option.toList_some, List.reverse_append, List.reverse_singleton,
          List.singleton_append]
        cases (ts.length + 1) / 2 - (ts.length - (m + 1)) with
        | zero => rfl
        | succ n => rw [List.take_succ_cons, List.takeWhile_cons_of_neg (by simp [hno])]
  rw [htop, List.reverse_reverse]

/-! ### Tasks committed (R336) -/

/-- The unit that a placement of a task makes, on core `core`. -/
def taskArgs (w : Work) (i pcl slot core : Nat) (r : TaskRec) (ws : List Window) (arg : Option (Nat × Nat × Space × Nat)) : PlaceArgs :=
  ⟨w, i, ws, arg, r.user, [core], pcl, slot, false⟩
/-- A task can be loaded and is held, and a save slot is free. -/
structure Loads (s : State) (w : Work) (j : JobCfg) (i slot : Nat) (r : TaskRec) (ws : List Window)
    (arg : Option (Nat × Nat × Space × Nat)) : Prop where
  record : s.taskRec w j i = some r
  load : s.taskLoad w j i r = some (ws, arg)
  slot : s.freeSave w.ctx = some slot
  code : codeReads s w.cfg w.ctx
  held : w.pos[i]? = some .holding
section
variable {s : State} {w : Work} {j : JobCfg} {i slot pcl : Nat} {r : TaskRec} {ws : List Window}
  {arg : Option (Nat × Nat × Space × Nat)} (hl : Loads s w j i slot r ws arg)
include hl
theorem Loads.not_bad : s.taskBad w j i = false := by
  rw [State.taskBad, hl.record]
  dsimp only
  rw [hl.load]
  exact Bool.and_false _
/-- R336: a task that can be loaded is committed as one workgroup on the lowest core that fits. -/
theorem dispatchTask_seats {core : Nat} {cs : List Nat} (hfit : s.fitting w.cfg pcl = core :: cs) (hw : s.work? w.id = some w) :
    ∃ t, s.dispatchTask w j i pcl false = some t ∧ seats s t (taskArgs w i pcl slot core r ws arg) ∧
      t.work? w.id = some (w.setPos i .placed) := by
  let t := (s.commit (taskArgs w i pcl slot core r ws arg)).modWork w.id fun x => x.setPos i .placed
  obtain ⟨c, hc⟩ := cacheRecs_caches t w.ctx (taskSpan j i :: placeSpans w)
  have hdispatch : s.dispatchTask w j i pcl false = some (t.cacheRecs w.ctx (taskSpan j i :: placeSpans w)) := by
    simp only [State.dispatchTask, hl.record, hl.load, hl.slot, hfit, codeReady_of_reads hl.code, Bool.not_true, Bool.false_eq_true, if_false]
    rfl
  obtain ⟨hworks, -⟩ := commit_keeps s (taskArgs w i pcl slot core r ws arg)
  refine ⟨_, hdispatch, seats_congr (commit_seats hl.code) ⟨c, by rw [hc]; rfl⟩ (by rw [hc]; rfl) (by rw [hc]; rfl), ?_⟩
  rw [work?_congr (congrArg State.works hc)]
  exact work?_modWork_self ((work?_congr hworks _).trans hw) fun _ => rfl
/-- R341: a task dispatched on a die has run once more and is homed there. -/
theorem gainDispatch_does {die core : Nat} {cs : List Nat} (hdie : s.dieCluster w die = some pcl) (hfit : s.fitting w.cfg pcl = core :: cs)
    (hw : s.work? w.id = some w) : ∃ t, s.gainDispatch w j i die = t ∧ seats s t (taskArgs w i pcl slot core r ws arg) ∧
      t.work? w.id = some { w.setPos i .placed with
        gains := modAt w.gains i fun g => { g with runs := g.runs + 1, running := true, home := die } } := by
  obtain ⟨t, hdispatch, hseats, hwork⟩ := dispatchTask_seats hl hfit hw
  have hran : s.gainDispatch w j i die = t.modGain w.id i fun g => { g with runs := g.runs + 1, running := true, home := die } := by
    simp only [State.gainDispatch, hl.not_bad, hl.held, hdie, Option.bind_some, hdispatch, bne_self_eq_false, Bool.false_eq_true, if_false]
  exact ⟨_, hran, seats_congr hseats ⟨_, rfl⟩ rfl rfl, work?_modWork_self hwork fun _ => rfl⟩
end

/-! ### A task that fails before it runs (R335) -/

theorem gainStop_eq (w : Work) : ∃ n, w.gainStop = { w with stopped := n } := by
  unfold Work.gainStop
  split
  · split
    · exact ⟨2, rfl⟩
    · exact ⟨w.stopped, rfl⟩
  · exact ⟨w.stopped, rfl⟩
theorem gainTest_eq (w : Work) : ∃ n, w.gainTest = { w with stopped := n } := by
  unfold Work.gainTest
  split
  · split
    · obtain ⟨n, hn⟩ := gainStop_eq { w with stopped := 1 }
      exact ⟨n, hn⟩
    · exact gainStop_eq w
  · exact ⟨w.stopped, rfl⟩
theorem gainTest_id (w : Work) : w.gainTest.id = w.id := by
  obtain ⟨n, hn⟩ := gainTest_eq w
  rw [hn]
theorem gainTest_faults (w : Work) : w.gainTest.faults = w.faults := by
  obtain ⟨n, hn⟩ := gainTest_eq w
  rw [hn]
theorem gainTest_pos (w : Work) : w.gainTest.pos = w.pos := by
  obtain ⟨n, hn⟩ := gainTest_eq w
  rw [hn]
theorem dropReq_eq {s : State} {work : Nat} {w : Work} (hw : s.work? work = some w) (who : Option Nat) : ∃ home, s.dropReq work who =
    { s with home := home }.modWork work fun x => { x with reqs := x.reqs.filter (·.who != who) } := by
  unfold State.dropReq
  rw [hw]
  exact ⟨_, rfl⟩
theorem failTask_does {s : State} {w : Work} {j : JobCfg} (hw : s.work? w.id = some w) (i : Nat) (poison : Option Nat) :
    (s.failTask w j i poison).units = s.units ∧ (s.failTask w j i poison).irqs = (32 + w.queue) :: s.irqs ∧
      ∃ x, (s.failTask w j i poison).work? w.id = some x ∧ x.faults = w.faults + 1 ∧
        x.pos = (w.setPos i (if j.gainMode then .waiting else .finished 0 true 0 false 0)).pos := by
  obtain ⟨m, o, watch, hpost⟩ := postTask_eq s w.queue (w.lost11 (s.taskInvalid w i) poison)
  have hposted : (s.postTask w.queue (w.lost11 (s.taskInvalid w i) poison)).work? w.id = some w := by rw [hpost]; exact hw
  obtain ⟨home, hdrop⟩ := dropReq_eq hposted (some i)
  rw [hpost] at hposted hdrop
  have hdropped := work?_modWork_self (s := { s with home := home }) hw (f := fun x => { x with reqs := x.reqs.filter (·.who != some i) })
    fun _ => rfl
  unfold State.failTask
  dsimp only
  rw [hpost, hdrop]
  exact ⟨rfl, rfl, _, work?_modWork_self hdropped fun x => gainTest_id _, gainTest_faults _, gainTest_pos _⟩

/-! ### The events of a job's tasks (R338, R339, R341, R342, R344, R354) -/

section
variable {s : State} {w : Work} {j : JobCfg} (hw : s.work? w.id = some w) (hj : w.job = some j)
section
include hj
theorem orderedJob_eq (hmode : j.gainMode = false) : orderedJob w = some j := by simp [orderedJob, hj, hmode]
theorem gainModeJob_eq (hmode : j.gainMode = true) : gainModeJob w = some j := by simp [gainModeJob, hj, hmode]
end
include hw hj
theorem taskHold_done {i : Nat} {spans : List (Nat × Nat)} {t : State} {held : List Nat} (hspans : s.taskSpans w j i = some spans)
    (hmay : w.mayHold j i = true) (hbusy : s.taskBusy w j i = false) (hwait : (w.req (some i)).waiting = false)
    (hhold : s.hold w.ctx spans (w.req (some i)).held = .done t held) :
    Does (.residencyHold w.id i) s fun u => u.home = { t.home with tlb := u.home.tlb } ∧ u.units = s.units ∧
      ∃ x, u.work? w.id = some x ∧ x.pos = (w.setPos i .holding).pos ∧ (x.req (some i)).held = held := by
  obtain ⟨home, hhome⟩ := homeOnly_hold hhold
  replace hhome : t = { s with home := home } := hhome
  have hwt : t.work? w.id = some w := by rw [hhome]; exact hw
  have hsaved := work?_modWork_self hwt (f := fun x => x.setReq { w.req (some i) with held := held, posted := none }) fun _ => rfl
  have hplaced := work?_modWork_self hsaved (f := fun x => x.setPos i .holding) fun _ => rfl
  have hexec : exec (.residencyHold w.id i) s = .next (((t.modWork w.id fun x => x.setReq { w.req (some i) with
      held := held, posted := none }).modWork w.id fun x => x.setPos i .holding).cacheRecs w.ctx [taskSpan j i]) := by
    change execResidencyHold w.id i s = _
    simp only [execResidencyHold, hw, hj, hspans, hmay, hbusy, State.request, hwait, hhold, Bool.not_true, Bool.or_self,
      Bool.false_eq_true, if_false]
  obtain ⟨c, hc⟩ := cacheRecs_caches ((t.modWork w.id fun x => x.setReq { w.req (some i) with
      held := held, posted := none }).modWork w.id fun x => x.setPos i .holding) w.ctx [taskSpan j i]
  rw [hc] at hexec
  have hget := req_setReq w { w.req (some i) with held := held, posted := none }
  rw [show ({ w.req (some i) with held := held, posted := none } : Req).who = some i from who_req w (some i)] at hget
  exact ⟨_, hexec, rfl, by rw [hhome]; rfl, _, hplaced, rfl, congrArg Req.held hget⟩
section
variable (hmode : j.gainMode = false)
include hmode
/-- R338: a chunk is dealt to an empty deque. -/
theorem chunkDeal_does {pcl : Nat} (hfin : w.finished = false) (hdeque : w.deque pcl = some []) (hdealt : w.dealt < j.count)
    (hchunk : 0 < j.minchunk) :
    let n := chunkSize j.minchunk (j.count - w.dealt) w.deques.length
    Does (.chunkDeal w.id pcl) s fun t => t.home = s.home ∧ t.units = s.units ∧
      t.work? w.id = some { w.setDeque pcl ((List.range n).map (w.dealt + ·)) with dealt := w.dealt + n } := by
  intro n
  have hn : chunkSize j.minchunk (j.count - w.dealt) w.deques.length ≠ 0 := by
    simp only [chunkSize]
    omega
  have hgo : (w.finished || decide (chunkSize j.minchunk (j.count - w.dealt) w.deques.length = 0)) = false := by
    rw [hfin, decide_eq_false hn, Bool.or_false]
  have hexec : exec (.chunkDeal w.id pcl) s = .next (s.modWork w.id fun x =>
      { (x.setDeque pcl ((List.range n).map (x.dealt + ·))) with dealt := x.dealt + n }) := by
    change execChunkDeal w.id pcl s = _
    simp only [execChunkDeal, hw, orderedJob_eq hj hmode, hdeque, hgo, Bool.false_eq_true, if_false]
    rfl
  exact ⟨_, hexec, rfl, rfl, work?_modWork_self hw fun _ => rfl⟩
/-- R339: the owner of a deque pops its bottom entry, whose task is committed. -/
theorem dequePop_does {pcl i slot : Nat} {r : TaskRec} {ws : List Window} {arg : Option (Nat × Nat × Space × Nat)}
    (hnext : s.dequeNext w j pcl = some i) (hp : s.topPriority w = true) (hl : Loads s w j i slot r ws arg) {core : Nat} {cs : List Nat}
    (hfit : s.fitting w.cfg pcl = core :: cs) :
    Does (.dequePop w.id pcl) s fun t => seats s t (taskArgs w i pcl slot core r ws arg) ∧
      t.work? w.id = some ((w.setPos i .placed).setDeque pcl (((w.deque pcl).getD []).drop 1)) := by
  obtain ⟨t, hdispatch, hseats, hwork⟩ := dispatchTask_seats hl hfit hw
  have hexec : exec (.dequePop w.id pcl) s = .next (t.modWork w.id fun x => x.setDeque pcl (((x.deque pcl).getD []).drop 1)) := by
    change execDequePop w.id pcl s = _
    simp only [execDequePop, hw, orderedJob_eq hj hmode, hj, Option.getD_some, hnext, hp, hl.not_bad, hl.held, hdispatch, Bool.not_true,
      bne_self_eq_false, Bool.false_eq_true, if_false]
  exact ⟨_, hexec, seats_congr hseats ⟨_, rfl⟩ rfl rfl, work?_modWork_self hwork fun _ => rfl⟩
/-- R335: a task whose record fails its checks is finished, and has not run. -/
theorem dequePop_fails {pcl i : Nat} (hnext : s.dequeNext w j pcl = some i) (hp : s.topPriority w = true)
    (hbad : s.taskBad w j i = true) : exec (.dequePop w.id pcl) s = .next (s.failTask w j i (s.taskPoison w j i)) := by
  change execDequePop w.id pcl s = _
  simp only [execDequePop, hw, orderedJob_eq hj hmode, hj, Option.getD_some, hnext, hp, hbad, Bool.not_true, Bool.false_eq_true, if_false,
    if_true]
/-- R339: a thief takes entries from the top of the first deque that it tries. -/
theorem dequeSteal_does {pcl p : Nat} {ts us : List Nat} {rest : List (Nat × List Nat)} (hfin : w.finished = false)
    (hdeque : w.deque pcl = some []) (hdealt : w.dealt ≥ j.count) (hvictim : w.victims pcl = (p, ts) :: rest)
    (howner : s.ownerTakes w j p ts = false) (htop : s.takeTop w j (p / Config.dieClusters != pcl / Config.dieClusters) ts = us)
    (hsome : us ≠ []) : Does (.dequeSteal w.id pcl) s fun t => t.home = s.home ∧ t.units = s.units ∧
      t.work? w.id = some ((w.setDeque p (ts.take (ts.length - us.length))).setDeque pcl us) := by
  obtain ⟨u, us, rfl⟩ := List.exists_cons_of_ne_nil hsome
  have hexec : exec (.dequeSteal w.id pcl) s = .next (s.modWork w.id fun x =>
      (x.setDeque p (ts.take (ts.length - (u :: us).length))).setDeque pcl (u :: us)) := by
    change execDequeSteal w.id pcl s = _
    have hgo : (w.finished || decide (w.dealt < j.count)) = false := by simp [hfin, hdealt]
    simp only [execDequeSteal, hw, orderedJob_eq hj hmode, hdeque, hgo, hvictim, List.findSome?_cons, howner, htop, Bool.false_eq_true,
      if_false]
  exact ⟨_, hexec, rfl, rfl, work?_modWork_self hw fun _ => rfl⟩
end
section
variable (hmode : j.gainMode = true) {die pcl i : Nat} (hopen : s.gainOpen w = true) (hdie : s.dieCluster w die = some pcl)
include hmode hopen hdie
/-- R342: a die dispatches its task of largest gain. -/
theorem settDispatch_does {g : GainRec} (hg : w.gains[i]? = some g) (hhome : g.home = die)
    (hbest : w.bestGain (s.gainCands w j fun d => w.cfg.det != 0 || d == die) = some i) :
    exec (.settDispatch w.id die) s = .next (s.gainDispatch w j i die) := by
  have hgo : (s.gainOpen w && (s.dieCluster w die).isSome && (w.gains[i]?).map (·.home) == some die) = true := by
    simp [hopen, hdie, hg, hhome]
  change execSettDispatch w.id die s = _
  simp only [execSettDispatch, hw, gainModeJob_eq hj hmode, hbest, hgo, if_true]
/-- R344: an idle die takes a task from the busiest. -/
theorem gainSteal_does {b : Nat} (hbusiest : s.busiest w = some b) (hne : b ≠ die) (hdet : w.cfg.det = 0)
    (hidle : s.gainCands w j (· == die) = []) (hbest : w.bestGain ((s.gainCands w j (· == b)).filter (s.mig w j)) = some i) :
    exec (.gainSteal w.id die) s = .next (s.gainDispatch w j i die) := by
  have hgo : (w.cfg.det != 0 || b == die || !s.gainOpen w || (s.dieCluster w die).isNone || s.gainCands w j (· == die) != []) = false := by
    simp [hdet, hne, hopen, hdie, hidle]
  change execGainSteal w.id die s = _
  simp only [execGainSteal, hw, gainModeJob_eq hj hmode, hbusiest, hgo, hbest, Bool.false_eq_true, if_false]
end
end

/-- Settles O55: a task that can be loaded is committed on the lowest core that fits (`dispatchTask_seats`), for the owner that pops it
(`dequePop_does`) and for the die that takes it (`gainDispatch_does`); a thief takes what `takeTop_near` and `takeTop_far` say. -/
theorem taskDispatch : Obligations.TaskDispatch := by
  unfold Obligations.TaskDispatch
  intro s w j hw hj hfin seated loads
  have hloads {i slot : Nat} {r : TaskRec} {ws : List Window} {arg : Option (Nat × Nat × Space × Nat)} (h : loads i slot r ws arg) :
      Loads s w j i slot r ws arg := by
    obtain ⟨hrec, hload, hslot, hcode, hheld⟩ := h
    exact ⟨hrec, hload, hslot, hcode, hheld⟩
  refine ⟨fun i spans t held hspans hmay hbusy hwait hhold => taskHold_done hw hj hspans hmay hbusy hwait hhold,
    fun hmode => ⟨fun pcl hdeque hdealt hchunk => chunkDeal_does hw hj hmode hfin hdeque hdealt hchunk,
      fun pcl i slot r ws arg hnext hp hl hfit => ?pops, fun pcl i hnext hp hbad => ?fails,
      fun pcl p ts rest hdeque hdealt hvictim howner => ⟨fun hnear => ?near, fun k hfar hlast hk hmig hhalf hstop => ?far⟩⟩,
    fun hmode die pcl i slot r ws arg g hopen hdie hl hfit hg => ?gain⟩
  case pops =>
    obtain ⟨core, cs, hcores⟩ := List.exists_cons_of_ne_nil hfit
    obtain ⟨t, hexec, hseats, hwork⟩ := dequePop_does hw hj hmode hnext hp (hloads hl) hcores
    exact ⟨t, hexec, ⟨core, cs, hcores, hseats⟩, hwork⟩
  case fails =>
    obtain ⟨hunits, hirqs, x, hx, hfaults, hpos⟩ := failTask_does (j := j) hw i (s.taskPoison w j i)
    rw [hmode] at hpos
    exact ⟨_, dequePop_fails hw hj hmode hnext hp hbad, congrArg List.length hunits, hirqs, x, hx, hfaults, hpos⟩
  case near =>
    have htop : s.takeTop w j (p / Config.dieClusters != pcl / Config.dieClusters) ts = ts.drop (ts.length / 2) := by
      rw [show (p / Config.dieClusters != pcl / Config.dieClusters) = false from bne_eq_false_iff_eq.2 hnear]
      exact takeTop_near s w j ts
    have hlen : 0 < ts.length := List.length_pos_iff.2 (victims_holds hvictim)
    have hleft : ts.length - (ts.drop (ts.length / 2)).length = ts.length / 2 := by rw [List.length_drop]; omega
    have hsome : ts.drop (ts.length / 2) ≠ [] := by rw [ne_eq, List.drop_eq_nil_iff]; omega
    have hsteal := dequeSteal_does hw hj hmode hfin hdeque hdealt hvictim howner htop hsome
    rwa [hleft] at hsteal
  case far =>
    have htop : s.takeTop w j (p / Config.dieClusters != pcl / Config.dieClusters) ts = ts.drop k := by
      rw [show (p / Config.dieClusters != pcl / Config.dieClusters) = true from bne_iff_ne.2 hfar]
      exact takeTop_far hk hmig hhalf hstop
    have hlen : 0 < ts.length := List.length_pos_iff.2 (victims_holds hvictim)
    have hlt : k < ts.length := by
      refine Nat.lt_of_le_of_ne hk fun hall => ?_
      subst hall
      rcases hstop with hnone | ⟨i, hi, hno⟩
      · omega
      · rw [List.getLast?_eq_getElem?, hi, Option.map_some, hno] at hlast
        cases hlast
    have hleft : ts.length - (ts.drop k).length = k := by rw [List.length_drop]; omega
    have hsome : ts.drop k ≠ [] := by rw [ne_eq, List.drop_eq_nil_iff]; omega
    have hsteal := dequeSteal_does hw hj hmode hfin hdeque hdealt hvictim howner htop hsome
    rwa [hleft] at hsteal
  case gain =>
    intro ran
    obtain ⟨core, cs, hcores⟩ := List.exists_cons_of_ne_nil hfit
    obtain ⟨t, ht, hseats, hwork⟩ := gainDispatch_does (hloads hl) hdie hcores hw
    exact ⟨fun hbest hhome => ⟨t, ht ▸ settDispatch_does hw hj hmode hopen hdie hg hhome hbest, ⟨core, cs, hcores, hseats⟩, hwork⟩,
      fun b hbusiest hne hdet hidle hbest =>
        ⟨t, ht ▸ gainSteal_does hw hj hmode hopen hdie hbusiest hne hdet hidle hbest, ⟨core, cs, hcores, hseats⟩, hwork⟩⟩

end Sys2Proof.Machine
end

section
namespace Sys2Proof.Machine
open Laws

/-! ## The encoder's words, and the form every step keeps the memories in (O41, O42, O43, O45) -/

/-- Settles O42: the round trip of each constructor. -/
theorem decodeEncode : Obligations.DecodeEncode
  | .iadd x1 x2 x3 x4 x5, w, h, e => RoundTrip.iadd x1 x2 x3 x4 x5 w e h
  | .isub x1 x2 x3 x4 x5, w, h, e => RoundTrip.isub x1 x2 x3 x4 x5 w e h
  | .iaddi x1 x2 x3, w, h, e => RoundTrip.iaddi x1 x2 x3 w e h
  | .imul x1 x2 x3 x4 x5, w, h, e => RoundTrip.imul x1 x2 x3 x4 x5 w e h
  | .imulhi x1 x2 x3 x4 x5, w, h, e => RoundTrip.imulhi x1 x2 x3 x4 x5 w e h
  | .imad x1 x2 x3 x4 x5, w, h, e => RoundTrip.imad x1 x2 x3 x4 x5 w e h
  | .imin x1 x2 x3 x4 x5, w, h, e => RoundTrip.imin x1 x2 x3 x4 x5 w e h
  | .imax x1 x2 x3 x4 x5, w, h, e => RoundTrip.imax x1 x2 x3 x4 x5 w e h
  | .clz x1 x2 x3, w, h, e => RoundTrip.clz x1 x2 x3 w e h
  | .popc x1 x2 x3, w, h, e => RoundTrip.popc x1 x2 x3 w e h
  | .brev x1 x2 x3, w, h, e => RoundTrip.brev x1 x2 x3 w e h
  | .iabs x1 x2 x3, w, h, e => RoundTrip.iabs x1 x2 x3 w e h
  | .and_ x1 x2 x3 x4, w, h, e => RoundTrip.and_ x1 x2 x3 x4 w e h
  | .or_ x1 x2 x3 x4, w, h, e => RoundTrip.or_ x1 x2 x3 x4 w e h
  | .xor_ x1 x2 x3 x4, w, h, e => RoundTrip.xor_ x1 x2 x3 x4 w e h
  | .andn x1 x2 x3 x4, w, h, e => RoundTrip.andn x1 x2 x3 x4 w e h
  | .shl x1 x2 x3 x4, w, h, e => RoundTrip.shl x1 x2 x3 x4 w e h
  | .shr x1 x2 x3 x4, w, h, e => RoundTrip.shr x1 x2 x3 x4 w e h
  | .sar x1 x2 x3 x4, w, h, e => RoundTrip.sar x1 x2 x3 x4 w e h
  | .rotl x1 x2 x3 x4, w, h, e => RoundTrip.rotl x1 x2 x3 x4 w e h
  | .shli x1 x2 x3, w, h, e => RoundTrip.shli x1 x2 x3 w e h
  | .shri x1 x2 x3, w, h, e => RoundTrip.shri x1 x2 x3 w e h
  | .sari x1 x2 x3, w, h, e => RoundTrip.sari x1 x2 x3 w e h
  | .bfxN32 x1 x2 x3 x4, w, h, e => RoundTrip.bfxN32 x1 x2 x3 x4 w e h
  | .bfxI32 x1 x2 x3 x4, w, h, e => RoundTrip.bfxI32 x1 x2 x3 x4 w e h
  | .bfi x1 x2 x3 x4, w, h, e => RoundTrip.bfi x1 x2 x3 x4 w e h
  | .icmp x1 x2 x3 x4 x5, w, h, e => RoundTrip.icmp x1 x2 x3 x4 x5 w e h
  | .plop x1 x2 x3 x4, w, h, e => RoundTrip.plop x1 x2 x3 x4 w e h
  | .mov x1 x2 x3, w, h, e => RoundTrip.mov x1 x2 x3 w e h
  | .movx x1 x2 x3 x4, w, h, e => RoundTrip.movx x1 x2 x3 x4 w e h
  | .movxw x1 x2 x3 x4, w, h, e => RoundTrip.movxw x1 x2 x3 x4 w e h
  | .selP0P3 x1 x2 x3 x4 x5, w, h, e => RoundTrip.selP0P3 x1 x2 x3 x4 x5 w e h
  | .selP4P7 x1 x2 x3 x4 x5, w, h, e => RoundTrip.selP4P7 x1 x2 x3 x4 x5 w e h
  | .movi x1 x2, w, h, e => RoundTrip.movi x1 x2 w e h
  | .fadd x1 x2 x3 x4, w, h, e => RoundTrip.fadd x1 x2 x3 x4 w e h
  | .fsub x1 x2 x3 x4, w, h, e => RoundTrip.fsub x1 x2 x3 x4 w e h
  | .fmul x1 x2 x3 x4, w, h, e => RoundTrip.fmul x1 x2 x3 x4 w e h
  | .ffma x1 x2 x3 x4, w, h, e => RoundTrip.ffma x1 x2 x3 x4 w e h
  | .fmin x1 x2 x3 x4, w, h, e => RoundTrip.fmin x1 x2 x3 x4 w e h
  | .fmax x1 x2 x3 x4, w, h, e => RoundTrip.fmax x1 x2 x3 x4 w e h
  | .fcmp x1 x2 x3 x4, w, h, e => RoundTrip.fcmp x1 x2 x3 x4 w e h
  | .frcp x1 x2 x3, w, h, e => RoundTrip.frcp x1 x2 x3 w e h
  | .frsq x1 x2 x3, w, h, e => RoundTrip.frsq x1 x2 x3 w e h
  | .fsqrt x1 x2 x3, w, h, e => RoundTrip.fsqrt x1 x2 x3 w e h
  | .fexp2 x1 x2 x3, w, h, e => RoundTrip.fexp2 x1 x2 x3 w e h
  | .flog2 x1 x2 x3, w, h, e => RoundTrip.flog2 x1 x2 x3 w e h
  | .fsin x1 x2 x3, w, h, e => RoundTrip.fsin x1 x2 x3 w e h
  | .fcos x1 x2 x3, w, h, e => RoundTrip.fcos x1 x2 x3 w e h
  | .fdiv x1 x2 x3 x4, w, h, e => RoundTrip.fdiv x1 x2 x3 x4 w e h
  | .fscale x1 x2 x3 x4, w, h, e => RoundTrip.fscale x1 x2 x3 x4 w e h
  | .dadd x1 x2 x3 x4, w, h, e => RoundTrip.dadd x1 x2 x3 x4 w e h
  | .dmul x1 x2 x3 x4, w, h, e => RoundTrip.dmul x1 x2 x3 x4 w e h
  | .dfma x1 x2 x3 x4, w, h, e => RoundTrip.dfma x1 x2 x3 x4 w e h
  | .hadd2F16 x1 x2 x3 x4, w, h, e => RoundTrip.hadd2F16 x1 x2 x3 x4 w e h
  | .hmul2F16 x1 x2 x3 x4, w, h, e => RoundTrip.hmul2F16 x1 x2 x3 x4 w e h
  | .hfma2F16 x1 x2 x3 x4, w, h, e => RoundTrip.hfma2F16 x1 x2 x3 x4 w e h
  | .hadd2Bf16 x1 x2 x3 x4, w, h, e => RoundTrip.hadd2Bf16 x1 x2 x3 x4 w e h
  | .hmul2Bf16 x1 x2 x3 x4, w, h, e => RoundTrip.hmul2Bf16 x1 x2 x3 x4 w e h
  | .hfma2Bf16 x1 x2 x3 x4, w, h, e => RoundTrip.hfma2Bf16 x1 x2 x3 x4 w e h
  | .hmin2F16 x1 x2 x3 x4, w, h, e => RoundTrip.hmin2F16 x1 x2 x3 x4 w e h
  | .hmax2F16 x1 x2 x3 x4, w, h, e => RoundTrip.hmax2F16 x1 x2 x3 x4 w e h
  | .hmin2Bf16 x1 x2 x3 x4, w, h, e => RoundTrip.hmin2Bf16 x1 x2 x3 x4 w e h
  | .hmax2Bf16 x1 x2 x3 x4, w, h, e => RoundTrip.hmax2Bf16 x1 x2 x3 x4 w e h
  | .cvt x1 x2 x3 x4 x5, w, h, e => RoundTrip.cvt x1 x2 x3 x4 x5 w e h
  | .cvtn x1 x2 x3 x4 x5, w, h, e => RoundTrip.cvtn x1 x2 x3 x4 x5 w e h
  | .cvtw x1 x2 x3 x4 x5, w, h, e => RoundTrip.cvtw x1 x2 x3 x4 x5 w e h
  | .shflIdx x1 x2 x3 x4, w, h, e => RoundTrip.shflIdx x1 x2 x3 x4 w e h
  | .shflUp x1 x2 x3 x4, w, h, e => RoundTrip.shflUp x1 x2 x3 x4 w e h
  | .shflDown x1 x2 x3 x4, w, h, e => RoundTrip.shflDown x1 x2 x3 x4 w e h
  | .shflXor x1 x2 x3 x4, w, h, e => RoundTrip.shflXor x1 x2 x3 x4 w e h
  | .voteAny x1 x2 x3, w, h, e => RoundTrip.voteAny x1 x2 x3 w e h
  | .voteAll x1 x2 x3, w, h, e => RoundTrip.voteAll x1 x2 x3 w e h
  | .voteBallot x1 x2 x3, w, h, e => RoundTrip.voteBallot x1 x2 x3 w e h
  | .lreduce x1 x2 x3, w, h, e => RoundTrip.lreduce x1 x2 x3 w e h
  | .ader x1 x2, w, h, e => RoundTrip.ader x1 x2 w e h
  | .anarrow x1 x2 x3 x4, w, h, e => RoundTrip.anarrow x1 x2 x3 x4 w e h
  | .aadv x1 x2 x3, w, h, e => RoundTrip.aadv x1 x2 x3 w e h
  | .aget x1 x2 x3 x4, w, h, e => RoundTrip.aget x1 x2 x3 x4 w e h
  | .aadvi x1 x2, w, h, e => RoundTrip.aadvi x1 x2 w e h
  | .dget x1 x2 x3 x4, w, h, e => RoundTrip.dget x1 x2 x3 x4 w e h
  | .dset x1 x2 x3 x4, w, h, e => RoundTrip.dset x1 x2 x3 x4 w e h
  | .dseed x1 x2 x3, w, h, e => RoundTrip.dseed x1 x2 x3 w e h
  | .sread x1 x2, w, h, e => RoundTrip.sread x1 x2 w e h
  | .rand x1, w, h, e => RoundTrip.rand x1 w e h
  | .ld x1 x2 x3 x4 x5, w, h, e => RoundTrip.ld x1 x2 x3 x4 x5 w e h
  | .st x1 x2 x3 x4 x5, w, h, e => RoundTrip.st x1 x2 x3 x4 x5 w e h
  | .ldx x1 x2 x3 x4 x5, w, h, e => RoundTrip.ldx x1 x2 x3 x4 x5 w e h
  | .stx x1 x2 x3 x4 x5, w, h, e => RoundTrip.stx x1 x2 x3 x4 x5 w e h
  | .lds x1 x2 x3 x4, w, h, e => RoundTrip.lds x1 x2 x3 x4 w e h
  | .sts x1 x2 x3 x4, w, h, e => RoundTrip.sts x1 x2 x3 x4 w e h
  | .aldp x1 x2 x3 x4 x5, w, h, e => RoundTrip.aldp x1 x2 x3 x4 x5 w e h
  | .brp x1 x2 x3, w, h, e => RoundTrip.brp x1 x2 x3 w e h
  | .bra x1 x2 x3, w, h, e => RoundTrip.bra x1 x2 x3 w e h
  | .call x1 x2 x3, w, h, e => RoundTrip.call x1 x2 x3 w e h
  | .ret x1 x2, w, h, e => RoundTrip.ret x1 x2 w e h
  | .brx x1, w, h, e => RoundTrip.brx x1 w e h
  | .exit x1 x2, w, h, e => RoundTrip.exit x1 x2 w e h
  | .nop, w, h, e => RoundTrip.nop w e h
  | .reform, w, h, e => RoundTrip.reform w e h
  | .yield, w, h, e => RoundTrip.yield w e h
  | .region x1, w, h, e => RoundTrip.region x1 w e h
  | .trap x1, w, h, e => RoundTrip.trap x1 w e h
  | .untaint x1, w, h, e => RoundTrip.untaint x1 w e h
  | .waitc x1 x2 x3 x4, w, h, e => RoundTrip.waitc x1 x2 x3 x4 w e h
  | .barInit x1 x2, w, h, e => RoundTrip.barInit x1 x2 w e h
  | .barArrive x1, w, h, e => RoundTrip.barArrive x1 w e h
  | .barExpect x1 x2, w, h, e => RoundTrip.barExpect x1 x2 w e h
  | .barWait x1 x2, w, h, e => RoundTrip.barWait x1 x2 w e h
  | .tcfg x1 x2, w, h, e => RoundTrip.tcfg x1 x2 w e h
  | .tld x1 x2 x3 x4, w, h, e => RoundTrip.tld x1 x2 x3 x4 w e h
  | .tst x1 x2 x3 x4, w, h, e => RoundTrip.tst x1 x2 x3 x4 w e h
  | .tlds x1 x2 x3, w, h, e => RoundTrip.tlds x1 x2 x3 w e h
  | .tsts x1 x2 x3, w, h, e => RoundTrip.tsts x1 x2 x3 w e h
  | .tmma x1 x2 x3 x4 x5 x6 x7, w, h, e => RoundTrip.tmma x1 x2 x3 x4 x5 x6 x7 w e h
  | .tmloop x1 x2 x3 x4, w, h, e => RoundTrip.tmloop x1 x2 x3 x4 w e h
  | .tadd x1 x2 x3 x4 x5 x6 x7 x8, w, h, e => RoundTrip.tadd x1 x2 x3 x4 x5 x6 x7 x8 w e h
  | .temul x1 x2 x3 x4 x5 x6 x7, w, h, e => RoundTrip.temul x1 x2 x3 x4 x5 x6 x7 w e h
  | .tscl x1 x2 x3 x4 x5 x6 x7, w, h, e => RoundTrip.tscl x1 x2 x3 x4 x5 x6 x7 w e h
  | .tsclPow x1 x2 x3 x4 x5, w, h, e => RoundTrip.tsclPow x1 x2 x3 x4 x5 w e h
  | .ttr x1 x2, w, h, e => RoundTrip.ttr x1 x2 w e h
  | .tcvt x1 x2 x3 x4 x5, w, h, e => RoundTrip.tcvt x1 x2 x3 x4 x5 w e h
  | .tact x1 x2 x3 x4 x5, w, h, e => RoundTrip.tact x1 x2 x3 x4 x5 w e h
  | .trsum x1 x2 x3 x4 x5, w, h, e => RoundTrip.trsum x1 x2 x3 x4 x5 w e h
  | .tzero x1, w, h, e => RoundTrip.tzero x1 w e h
  | .teval x1, w, h, e => RoundTrip.teval x1 w e h
  | .tdrop x1, w, h, e => RoundTrip.tdrop x1 w e h
  | .trd x1 x2 x3, w, h, e => RoundTrip.trd x1 x2 x3 w e h
  | .twr x1 x2 x3, w, h, e => RoundTrip.twr x1 x2 x3 w e h
  | .tstat x1 x2 x3, w, h, e => RoundTrip.tstat x1 x2 x3 w e h
  | .xlr x1 x2 x3, w, h, e => RoundTrip.xlr x1 x2 x3 w e h
  | .xcp x1 x2 x3 x4 x5, w, h, e => RoundTrip.xcp x1 x2 x3 x4 x5 w e h
  | .xred x1 x2 x3 x4 x5, w, h, e => RoundTrip.xred x1 x2 x3 x4 x5 w e h
  | .xwalk x1 x2 x3 x4 x5, w, h, e => RoundTrip.xwalk x1 x2 x3 x4 x5 w e h
  | .xstat x1 x2 x3, w, h, e => RoundTrip.xstat x1 x2 x3 w e h
  | .jsub x1 x2 x3, w, h, e => RoundTrip.jsub x1 x2 x3 w e h
  | .gainadd x1 x2, w, h, e => RoundTrip.gainadd x1 x2 w e h
  | .gainset x1 x2, w, h, e => RoundTrip.gainset x1 x2 w e h
  | .gainget x1 x2, w, h, e => RoundTrip.gainget x1 x2 w e h
  | .resadd x1, w, h, e => RoundTrip.resadd x1 w e h
  | .resget x1 x2, w, h, e => RoundTrip.resget x1 x2 w e h
  | .ordwait x1, w, h, e => RoundTrip.ordwait x1 w e h
  | .ordpost x1, w, h, e => RoundTrip.ordpost x1 w e h
  | .atom x1 x2 x3 x4 x5 x6, w, h, e => RoundTrip.atom x1 x2 x3 x4 x5 x6 w e h
  | .cas x1 x2 x3 x4 x5, w, h, e => RoundTrip.cas x1 x2 x3 x4 x5 w e h
  | .waitcmp x1 x2 x3 x4 x5, w, h, e => RoundTrip.waitcmp x1 x2 x3 x4 x5 w e h
  | .ldAcq x1 x2 x3 x4 x5 x6, w, h, e => RoundTrip.ldAcq x1 x2 x3 x4 x5 x6 w e h
  | .stRel x1 x2 x3 x4 x5 x6, w, h, e => RoundTrip.stRel x1 x2 x3 x4 x5 x6 w e h
  | .fence x1, w, h, e => RoundTrip.fence x1 w e h
  | .smap x1 x2, w, h, e => RoundTrip.smap x1 x2 w e h
  | .sunmap x1, w, h, e => RoundTrip.sunmap x1 w e h
  | .sflush x1, w, h, e => RoundTrip.sflush x1 w e h
  | .pref x1 x2 x3 x4, w, h, e => RoundTrip.pref x1 x2 x3 x4 w e h
  | .bkpt x1, w, h, e => RoundTrip.bkpt x1 w e h
  | .tmark x1 x2, w, h, e => RoundTrip.tmark x1 x2 w e h
  | .sysrd x1 x2, w, h, e => RoundTrip.sysrd x1 x2 w e h
  | .syswr x1 x2, w, h, e => RoundTrip.syswr x1 x2 w e h
  | .imm x1, w, h, e => RoundTrip.imm x1 w e h
  | .mod_ x1 x2 x3 x4 x5 x6, w, h, e => RoundTrip.mod_ x1 x2 x3 x4 x5 x6 w e h
  | .tan, w, h, e => RoundTrip.tan w e h
  | .threadFiling x1 x2, w, h, e => RoundTrip.threadFiling x1 x2 w e h
  | .binAged x1 x2 x3, w, h, e => RoundTrip.binAged x1 x2 x3 w e h
  | .collectiveExecute x1, w, h, e => RoundTrip.collectiveExecute x1 w e h
  | .loadReturn x1, w, h, e => RoundTrip.loadReturn x1 w e h
  | .storeAck x1, w, h, e => RoundTrip.storeAck x1 w e h
  | .tagFree x1 x2, w, h, e => RoundTrip.tagFree x1 x2 w e h
  | .idemDefer x1 x2, w, h, e => RoundTrip.idemDefer x1 x2 w e h
  | .orderStall x1, w, h, e => RoundTrip.orderStall x1 w e h
  | .barrierArrivalApply x1, w, h, e => RoundTrip.barrierArrivalApply x1 w e h
  | .evalStart x1, w, h, e => RoundTrip.evalStart x1 w e h
  | .evalComplete x1, w, h, e => RoundTrip.evalComplete x1 w e h
  | .tileLoadLanded x1, w, h, e => RoundTrip.tileLoadLanded x1 w e h
  | .xlrComplete x1, w, h, e => RoundTrip.xlrComplete x1 w e h
  | .channelStart x1 x2, w, h, e => RoundTrip.channelStart x1 x2 w e h
  | .chunkLand x1 x2, w, h, e => RoundTrip.chunkLand x1 x2 w e h
  | .storeApply x1 x2, w, h, e => RoundTrip.storeApply x1 x2 w e h
  | .atomicApply x1 x2, w, h, e => RoundTrip.atomicApply x1 x2 w e h
  | .loadServe x1 x2 x3, w, h, e => RoundTrip.loadServe x1 x2 x3 w e h
  | .releaseClearance x1, w, h, e => RoundTrip.releaseClearance x1 w e h
  | .releaseApply x1 x2, w, h, e => RoundTrip.releaseApply x1 x2 w e h
  | .monitorArm x1 x2 x3, w, h, e => RoundTrip.monitorArm x1 x2 x3 w e h
  | .waitcmpPoll x1 x2, w, h, e => RoundTrip.waitcmpPoll x1 x2 w e h
  | .hdmRead x1 x2 x3, w, h, e => RoundTrip.hdmRead x1 x2 x3 w e h
  | .hdmWrite x1 x2, w, h, e => RoundTrip.hdmWrite x1 x2 w e h
  | .backInvalidationResponse x1, w, h, e => RoundTrip.backInvalidationResponse x1 w e h
  | .pageMigration x1 x2 x3, w, h, e => RoundTrip.pageMigration x1 x2 x3 w e h
  | .impreciseFault x1, w, h, e => RoundTrip.impreciseFault x1 w e h
  | .tail x1 x2, w, h, e => RoundTrip.tail x1 x2 w e h
  | .reset x1, w, h, e => RoundTrip.reset x1 w e h
  | .nopPacket x1, w, h, e => RoundTrip.nopPacket x1 w e h
  | .launch x1, w, h, e => RoundTrip.launch x1 w e h
  | .job x1, w, h, e => RoundTrip.job x1 w e h
  | .signal x1, w, h, e => RoundTrip.signal x1 w e h
  | .packetCompletion x1, w, h, e => RoundTrip.packetCompletion x1 w e h
  | .jobSubmit x1, w, h, e => RoundTrip.jobSubmit x1 w e h
  | .residencyHold x1 x2, w, h, e => RoundTrip.residencyHold x1 x2 w e h
  | .clusterPlace x1, w, h, e => RoundTrip.clusterPlace x1 w e h
  | .wavePlace x1, w, h, e => RoundTrip.wavePlace x1 w e h
  | .chunkDeal x1 x2, w, h, e => RoundTrip.chunkDeal x1 x2 w e h
  | .dequePop x1 x2, w, h, e => RoundTrip.dequePop x1 x2 w e h
  | .dequeSteal x1 x2, w, h, e => RoundTrip.dequeSteal x1 x2 w e h
  | .settDispatch x1 x2, w, h, e => RoundTrip.settDispatch x1 x2 w e h
  | .gainSteal x1 x2, w, h, e => RoundTrip.gainSteal x1 x2 w e h
  | .gainUpdateApply x1, w, h, e => RoundTrip.gainUpdateApply x1 w e h
  | .residualUpdateApply x1, w, h, e => RoundTrip.residualUpdateApply x1 w e h
  | .ordpostEffect x1, w, h, e => RoundTrip.ordpostEffect x1 w e h
  | .retirementPublish x1 x2, w, h, e => RoundTrip.retirementPublish x1 x2 w e h
  | .verifyRerun x1 x2, w, h, e => RoundTrip.verifyRerun x1 x2 w e h
  | .jobEnd x1, w, h, e => RoundTrip.jobEnd x1 w e h
  | .priorityPreempt x1, w, h, e => RoundTrip.priorityPreempt x1 w e h
  | .preemptionSave x1 x2, w, h, e => RoundTrip.preemptionSave x1 x2 w e h
  | .clusterRestore x1 x2, w, h, e => RoundTrip.clusterRestore x1 x2 w e h
  | .swapOut x1, w, h, e => RoundTrip.swapOut x1 w e h
  | .detTurn x1, w, h, e => RoundTrip.detTurn x1 w e h
  | .preempt x1, w, h, e => RoundTrip.preempt x1 w e h
  | .resume x1, w, h, e => RoundTrip.resume x1 w e h
  | .retry x1, w, h, e => RoundTrip.retry x1 w e h
  | .inval x1, w, h, e => RoundTrip.inval x1 w e h
  | .invalidationDone x1, w, h, e => RoundTrip.invalidationDone x1 w e h
  | .stop x1, w, h, e => RoundTrip.stop x1 w e h
  | .dbgResume x1, w, h, e => RoundTrip.dbgResume x1 w e h
  | .step x1, w, h, e => RoundTrip.step x1 w e h
  | .capture x1, w, h, e => RoundTrip.capture x1 w e h
  | .feResume, w, h, e => RoundTrip.feResume w e h
  | .registerWrite x1, w, h, e => RoundTrip.registerWrite x1 w e h
  | .sampleTick x1 x2, w, h, e => RoundTrip.sampleTick x1 x2 w e h
  | .ringRecordWritten x1 x2, w, h, e => RoundTrip.ringRecordWritten x1 x2 w e h
  | .traceRecord x1, w, h, e => RoundTrip.traceRecord x1 w e h
  | .dumpStart, w, h, e => RoundTrip.dumpStart w e h
  | .dumpComplete, w, h, e => RoundTrip.dumpComplete w e h
  | .moduleReset _, _, _, e => nomatch e
  | .sensorRefresh x1, w, h, e => RoundTrip.sensorRefresh x1 w e h
  | .softErrorCorrection x1, w, h, e => RoundTrip.softErrorCorrection x1 w e h
  | .flitRetry x1, w, h, e => RoundTrip.flitRetry x1 w e h
  | .uncorrectableError x1 x2, w, h, e => RoundTrip.uncorrectableError x1 x2 w e h
  | .peerRequest x1 x2, w, h, e => RoundTrip.peerRequest x1 x2 w e h
  | .leaseClockTick x1, w, h, e => RoundTrip.leaseClockTick x1 w e h
  | .laneWriteCompletion x1 x2, w, h, e => RoundTrip.laneWriteCompletion x1 x2 w e h
  | .fetchComplete x1 x2, w, h, e => RoundTrip.fetchComplete x1 x2 w e h
  | .status x1, w, h, e => RoundTrip.status x1 w e h
  | .write x1, w, h, e => RoundTrip.write x1 w e h
  | .verify x1, w, h, e => RoundTrip.verify x1 w e h
  | .activate x1, w, h, e => RoundTrip.activate x1 w e h
  | .retryStarts x1, w, h, e => RoundTrip.retryStarts x1 w e h
  | .errcnt x1, w, h, e => RoundTrip.errcnt x1 w e h
  | .sensors x1, w, h, e => RoundTrip.sensors x1 w e h
  | .logread x1, w, h, e => RoundTrip.logread x1 w e h
  | .abort x1, w, h, e => RoundTrip.abort x1 w e h
  | .getVersion x1, w, h, e => RoundTrip.getVersion x1 w e h
  | .getCapabilities x1, w, h, e => RoundTrip.getCapabilities x1 w e h
  | .negotiateAlgorithms x1, w, h, e => RoundTrip.negotiateAlgorithms x1 w e h
  | .getDigests x1, w, h, e => RoundTrip.getDigests x1 w e h
  | .getCertificate x1, w, h, e => RoundTrip.getCertificate x1 w e h
  | .challenge x1, w, h, e => RoundTrip.challenge x1 w e h
  | .getMeasurements x1, w, h, e => RoundTrip.getMeasurements x1 w e h
  | .keyExchange x1, w, h, e => RoundTrip.keyExchange x1 w e h
  | .pskExchange x1, w, h, e => RoundTrip.pskExchange x1 w e h

/-- Settles O43: each of the words is written out, and the decoder is run on it. -/
theorem decodeWords : Obligations.DecodeWords := by
  unfold Obligations.DecodeWords
  decide

/-! ### Every memory in canonical form: the updates of the state -/

/-- The memories of a warp: its tiles; those of a workgroup: its warps'. -/
abbrev Warp.memWf (w : Warp) : Prop := ∀ t ∈ w.tiles, t.memWf
abbrev Workgroup.memWf (g : Workgroup) : Prop := ∀ w ∈ g.warps, w.memWf

theorem mem_modAt {α : Type} {xs : List α} {n : Nat} {f : α → α} {y : α} (h : y ∈ modAt xs n f) :
    y ∈ xs ∨ ∃ x ∈ xs, y = f x := by
  obtain ⟨k, hk⟩ := List.mem_iff_getElem?.1 h
  rw [modAt_getElem?] at hk
  split at hk
  · obtain ⟨x, hx, rfl⟩ := Option.map_eq_some_iff.1 hk
    exact .inr ⟨x, List.mem_of_getElem? hx, rfl⟩
  · exact .inl (List.mem_of_getElem? hk)
theorem forall_modAt {α : Type} {P : α → Prop} {xs : List α} {n : Nat} {f : α → α} (h : ∀ x ∈ xs, P x)
    (hf : ∀ x, P x → P (f x)) : ∀ y ∈ modAt xs n f, P y := by
  intro y hy
  rcases mem_modAt hy with hy | ⟨x, hx, rfl⟩
  · exact h y hy
  · exact hf x (h x hx)

theorem Warp.memWf.setTile {w : Warp} (h : w.memWf) {m : Nat} {f : Tile → Tile}
    (hf : ∀ t : Tile, t.memWf → (f t).memWf) : (w.setTile m f).memWf := forall_modAt h hf
theorem Workgroup.memWf.mapWarps {g : Workgroup} (h : g.memWf) {f : Warp → Warp}
    (hf : ∀ w : Warp, w.memWf → (f w).memWf) : ({ g with warps := g.warps.map f } : Workgroup).memWf := by
  intro w hw
  obtain ⟨x, hx, rfl⟩ := List.mem_map.1 hw
  exact hf x (h x hx)
theorem Workgroup.memWf.modWarp {g : Workgroup} (h : g.memWf) {n : Nat} {f : Warp → Warp}
    (hf : ∀ w : Warp, w.memWf → (f w).memWf) : ({ g with warps := modAt g.warps n f } : Workgroup).memWf :=
  forall_modAt h hf
theorem Placed.memWf.mapWgs {u : Placed} (h : u.memWf) {f : Workgroup → Workgroup}
    (hf : ∀ g : Workgroup, g.memWf → (f g).memWf) : ({ u with wgs := u.wgs.map f } : Placed).memWf := by
  refine ⟨h.1, h.2.1, fun g hg => ?_⟩
  obtain ⟨x, hx, rfl⟩ := List.mem_map.1 hg
  exact hf x (h.2.2 x hx)
theorem Placed.memWf.modWgs {u : Placed} (h : u.memWf) {n : Nat} {f : Workgroup → Workgroup}
    (hf : ∀ g : Workgroup, g.memWf → (f g).memWf) : ({ u with wgs := modAt u.wgs n f } : Placed).memWf :=
  ⟨h.1, h.2.1, forall_modAt h.2.2 hf⟩

theorem State.allWf.unit {s : State} (h : s.allWf) {u : Placed} (hu : u ∈ s.units) : u.memWf :=
  h.2.1 u (List.mem_append_left _ hu)
theorem State.allWf.unit? {s : State} (h : s.allWf) {id : Nat} {u : Placed} (hu : s.unit? id = some u) : u.memWf :=
  h.unit (List.mem_of_find?_eq_some hu)
/-- Units changed one by one, each keeping its memories. -/
theorem State.allWf.mapUnits {s : State} (h : s.allWf) {f : Placed → Placed}
    (hf : ∀ u : Placed, u.memWf → (f u).memWf) : ({ s with units := s.units.map f } : State).allWf := by
  refine ⟨h.1, fun u hu => ?_, h.2.2⟩
  rcases List.mem_append.1 hu with hu | hu
  · obtain ⟨v, hv, rfl⟩ := List.mem_map.1 hu
    exact hf v (h.unit hv)
  · exact h.2.1 u (List.mem_append_right _ hu)
theorem State.allWf.modUnit {s : State} (h : s.allWf) {id : Nat} {f : Placed → Placed}
    (hf : ∀ u : Placed, u.memWf → (f u).memWf) : (s.modUnit id f).allWf :=
  h.mapUnits fun u hu => by
    split
    · exact hf u hu
    · exact hu
theorem State.allWf.modWg {s : State} (h : s.allWf) {id wg : Nat} {f : Workgroup → Workgroup}
    (hf : ∀ g : Workgroup, g.memWf → (f g).memWf) : (s.modWg id wg f).allWf :=
  h.modUnit fun _ hu => hu.modWgs hf
theorem State.allWf.modWarp {s : State} (h : s.allWf) {w : WarpId} {f : Warp → Warp}
    (hf : ∀ x : Warp, x.memWf → (f x).memWf) : (s.modWarp w f).allWf :=
  h.modWg fun _ hg => hg.modWarp hf
theorem State.allWf.modThread {s : State} (h : s.allWf) {w : WarpId} {l : Nat} {f : Thread → Thread} : (s.modThread w l f).allWf :=
  h.modWarp (by exact fun _ h => h)
theorem State.allWf.modCore {s : State} (h : s.allWf) {id : Nat} {f : Core → Core} : (s.modCore id f).allWf := by
  unfold State.modCore
  split <;> exact h
theorem State.allWf.withOps {s : State} (h : s.allWf) {ops : List MemOp} : ({ s with ops := ops } : State).allWf := h
theorem State.allWf.foldl {α : Type} {s : State} (h : s.allWf) {f : State → α → State} {xs : List α}
    (hf : ∀ (t : State) (a : α), t.allWf → (f t a).allWf) : (xs.foldl f s).allWf :=
  List.foldlRecOn (motive := fun t => t.allWf) xs f h fun t ht a _ => hf t a ht
theorem State.allWf.ite {s t : State} {c : Prop} [Decidable c] (h : s.allWf) (k : t.allWf) : (if c then s else t).allWf := by
  split
  · exact h
  · exact k
/-- The memories with the units, the ones that have left and the slots are all that the form speaks of. -/
theorem State.allWf.of_memWf {s t : State} (h : s.allWf) (hm : t.memWf) (hu : t.units = s.units) (hl : t.left = s.left)
    (ha : t.amc.slots = s.amc.slots) : t.allWf := ⟨hm, by rw [hu, hl]; exact h.2.1, by rw [ha]; exact h.2.2⟩

theorem State.allWf.progress {s : State} (h : s.allWf) {p : Option WarpId} : (s.progress p).allWf := by
  refine h.mapUnits fun u hu => ⟨hu.1, hu.2.1, fun g hg => ?_⟩
  obtain ⟨⟨g', gi⟩, hg', rfl⟩ := List.mem_map.1 hg
  intro w hw
  obtain ⟨⟨w', wi⟩, hw', rfl⟩ := List.mem_map.1 hw
  have hwf := hu.2.2 g' (List.fst_mem_of_mem_zipIdx hg') w' (List.fst_mem_of_mem_zipIdx hw')
  dsimp only
  split <;> exact hwf
theorem State.allWf.caches {s t : State} (h : s.allWf) (hc : s.caches t) : t.allWf := by
  obtain ⟨c, rfl⟩ := hc
  exact h
theorem State.allWf.writes {s t : State} (h : s.allWf) (hw : s.writes t) (hm : t.memWf) : t.allWf := by
  obtain ⟨⟨m, o, rfl⟩, -⟩ := hw
  exact h.of_memWf hm rfl rfl rfl
theorem State.allWf.writeLocal {s t : State} (h : s.allWf) {ctx ia : Nat} {bs : List Byte} {k c : Nat}
    (ht : (∃ g b, s.writeLocal ctx ia bs k c = .ok t g b) ∨ s.writeLocal ctx ia bs k c = .wait t) : t.allWf :=
  h.writes (writes_writeLocal ht) (writeLocal_memWf h.1 ht)
theorem State.allWf.writeSpan {s : State} (h : s.allWf) {ctx : Nat} {sp : Space} {a : Nat} {bs : List Byte} {c : Nat} :
    (s.writeSpan ctx sp a bs c).1.allWf := h.writes (writes_writeSpan ..) (writeSpan_memWf h.1 ..)
theorem State.allWf.flushLate {s : State} (h : s.allWf) : s.flushLate.allWf :=
  State.allWf.foldl (s := { s with home := { s.home with late := [] } }) h fun _ _ ht => ht.writeSpan
theorem State.allWf.setWatchWord {s : State} (h : s.allWf) {ctx sel v : Nat} : (s.setWatchWord ctx sel v).allWf :=
  h.of_memWf (setWatchWord_memWf h.1 ..) rfl rfl rfl
theorem State.allWf.trace {s : State} (h : s.allWf) {src ctx bit : Nat} {d : BitVec 256} : (s.trace src ctx bit d).allWf := by
  unfold State.trace
  exact .ite h h
theorem State.allWf.post {s : State} (h : s.allWf) {q : Nat} {r : Record} {d : Bool} : (s.post q r d).allWf := by
  unfold State.post
  dsimp only
  split
  · exact State.allWf.writeSpan (s := s.modQueue q fun x => { x with seq := (s.queue q).seq + 1 }) h
  · exact h
theorem State.allWf.postTask {s : State} (h : s.allWf) {q : Nat} {r : Record} : (s.postTask q r).allWf := by
  unfold State.postTask
  exact .ite h.post.trace h.post
theorem State.allWf.capture {s : State} (h : s.allWf) {d : Dump} {new : List Capture} : (s.capture d new).1.allWf := by
  unfold State.capture
  dsimp only
  repeat' split
  all_goals exact h
theorem State.allWf.endUnit {s : State} (h : s.allWf) {id : Nat} : (s.endUnit id).allWf :=
  State.allWf.modUnit (s := s) h fun _ hu => hu.mapWgs fun _ hg => hg.mapWarps (by exact fun _ h => h)
theorem State.allWf.traceFault {s : State} (h : s.allWf) {u : Placed} {w : WarpId} {code : Nat} {pc : VAddr} {lane : Nat} :
    (s.traceFault u w code pc lane).allWf := h.trace
theorem State.allWf.peerFaults {s : State} (h : s.allWf) {u : Placed} {wg code : Nat} : (s.peerFaults u wg code).allWf :=
  h.foldl fun _ _ ht => ht.post.traceFault
theorem State.allWf.takeHits {s : State} (h : s.allWf) {unit wg : Nat} {p : Bool} {pc : VAddr} {hits : List (Nat × Hit)} :
    (s.takeHits unit wg p pc hits).allWf := by
  unfold State.takeHits
  split
  · exact h
  · refine .ite h ?_
    exact (((h.capture.foldl fun _ _ ht => ht.post).foldl fun _ _ ht => ht.traceFault).peerFaults).endUnit
theorem State.allWf.takeFault {s : State} (h : s.allWf) {unit wg code : Nat} {p : Bool} {pc : VAddr} {hits : List Hit} :
    (s.takeFault unit wg code p pc hits).allWf := h.takeHits
theorem State.allWf.storeL1 {s : State} (h : s.allWf) {core : Nat} {byp : Bool} {op : Nat} {ps : List Part} :
    (s.storeL1 core byp op ps).allWf := h.modCore
theorem State.allWf.newOp {s : State} (h : s.allWf) {o : Nat → MemOp} : (s.newOp o).allWf := h
theorem State.allWf.writeBackAll {s : State} (h : s.allWf) {id : Nat} : (s.writeBackAll id).allWf := by
  unfold State.writeBackAll
  split
  · exact h
  · exact .ite (h.modUnit (by exact fun _ h => h)) (h.modUnit (by exact fun _ h => h)).newOp.storeL1

/-! ### The shared operations of an issue -/

theorem State.allWf.modSlots {s : State} (h : s.allWf) {b : Bundle} {f : Slot → Option Slot} : (s.modSlots b f).allWf := h.modCore
theorem State.allWf.stay {s : State} (h : s.allWf) {b : Bundle} : (s.stay b).allWf := h.modSlots
theorem State.allWf.leave {s : State} (h : s.allWf) {b : Bundle} : (s.leave b).allWf := h.modSlots
theorem State.allWf.fileNow {s : State} (h : s.allWf) {core port : Nat} {f : Filing} : (s.fileNow core port f).allWf := by
  unfold State.fileNow
  dsimp only
  split
  · exact h.modCore
  · exact h
theorem State.allWf.file {s : State} (h : s.allWf) {u wg core : Nat} {ts : List (Nat × Nat)} {due rdy : Nat} {nf : Bool} :
    (s.file u wg core ts due rdy nf).allWf := h.foldl fun _ _ ht => .ite ht.fileNow ht.modCore
theorem State.allWf.dissolve {s : State} (h : s.allWf) {b : Bundle} {due : Nat} {nf : Bool} : (s.dissolve b due nf).allWf :=
  h.modSlots.file
theorem State.allWf.countTurn {s : State} (h : s.allWf) {b : Bundle} : (s.countTurn b).allWf := .ite h (h.modUnit (by exact fun _ h => h))
theorem State.allWf.retire {s : State} (h : s.allWf) {b : Bundle} {ends : Bool} {f : Nat → Nat → Thread → Thread} :
    (s.retire b ends f).allWf := (h.foldl fun _ _ ht => ht.modWarp (by exact fun _ h => h)).countTurn
theorem State.allWf.commitAlu {s : State} (h : s.allWf) {b : Bundle} {due : Option Nat} {src : PendSrc} {f : LaneCtx → LaneOut} :
    (s.commitAlu b due src f).allWf := (h.foldl fun _ _ ht => ht.modWarp (by exact fun _ h => h)).countTurn.stay
theorem State.allWf.pendColl {s : State} (h : s.allWf) {b : Bundle} {outs : List (Nat × List RegWrite)} : (s.pendColl b outs).allWf :=
  h.foldl fun _ _ ht => ht.modWarp (by exact fun _ h => h)

/-! ### Outcomes that go on, every memory in canonical form if it was -/

/-- The outcome is a next state, every memory of which is in canonical form if every one of `s` was. -/
def Goes (s : State) (r : Host.Outcome State Fault Refusal) : Prop := ∃ t, r = .next t ∧ (s.allWf → t.allWf)
theorem goes_next {s t : State} (h : s.allWf → t.allWf) : Goes s (.next t) := ⟨t, rfl, h⟩
theorem goes_same (s : State) : Goes s (.next s) := ⟨s, rfl, id⟩
theorem goes_ite {s : State} {c : Prop} [Decidable c] {x y : Host.Outcome State Fault Refusal} (hx : Goes s x) (hy : Goes s y) :
    Goes s (if c then x else y) := by
  split
  · exact hx
  · exact hy
/-- What a meaning answers keeps the canonical form. -/
def Res.Keeps (s : State) : Res → Prop
  | .done t | .hold t => s.allWf → t.allWf
  | _ => True
/-- A meaning that keeps it at every bundle. -/
def BodyKeeps (body : Bundle → State → Res) : Prop := ∀ (b : Bundle) (s : State), (body b s).Keeps s
theorem Res.keeps_ite {s : State} {c : Prop} [Decidable c] {x y : Res} (hx : x.Keeps s) (hy : y.Keeps s) :
    (if c then x else y).Keeps s := by
  split
  · exact hx
  · exact hy

theorem issueOn_goes {i : Instr} {waits : List RegName} {body : Bundle → State → Res} (hbody : BodyKeeps body) (s : State) :
    Goes s (issueOn i waits body s) := by
  unfold issueOn
  split
  · exact goes_same s
  · next b _ =>
    have hb := hbody b s
    refine goes_ite (goes_same s) ?_
    split
    · exact goes_next fun h => h.takeFault
    · refine goes_ite (goes_same s) ?_
      split
      · next heq => rw [heq] at hb; exact goes_next hb
      · exact goes_same s
      · next heq => rw [heq] at hb; exact goes_next hb
      · exact goes_next fun h => h.takeFault
theorem issueStd_goes {i : Instr} {body : Bundle → State → Res} (hbody : BodyKeeps body) (s : State) :
    Goes s (issueStd i body s) := issueOn_goes hbody s
theorem aluIssue_goes {i : Instr} {lat : Option Nat} {f : LaneCtx → LaneOut} (s : State) : Goes s (aluIssue i lat f s) := by
  refine issueStd_goes (fun b s => ?_) s
  dsimp only
  split
  · trivial
  · exact Res.keeps_ite trivial fun h => h.commitAlu
theorem State.allWf.collective {s : State} (h : s.allWf) {w : WarpId} {ends : Bool} {body : Bundle → State → Res}
    (hbody : BodyKeeps body) : (s.collective w ends body).allWf := by
  unfold State.collective
  split
  · exact h
  split
  · exact h
  refine .ite h ?_
  split
  · exact h
  next b _ =>
  refine .ite h ?_
  split
  · exact h.takeFault
  refine .ite h ?_
  have hb := hbody b s
  split
  · exact h
  · next heq => rw [heq] at hb; exact hb h
  · exact h.takeFault
  · next heq => rw [heq] at hb; exact ((hb h).retire.modWarp (by exact fun _ h => h)).file
theorem collIssue_goes {i : Instr} {ends : Bool} {body : Bundle → State → Res} (hbody : BodyKeeps body) (s : State) :
    Goes s (collIssue i ends body s) := by
  unfold collIssue
  split
  · exact goes_same s
  refine goes_ite (goes_same s) ?_
  split
  · exact goes_next fun h => h.takeFault
  · exact goes_next fun h => State.allWf.foldl (State.allWf.leave (h.foldl fun _ _ ht => ht.modWarp (by exact fun _ h => h))) fun _ _ ht => ht.collective hbody
theorem crossBody_keeps {f : LaunchCfg → Warp → List Nat → Nat → Thread → List RegWrite} : BodyKeeps (crossBody f) :=
  fun _ _ h => h.foldl fun _ _ ht => ht.pendColl

/-! ### Control flow and barrier objects -/

theorem branchWith_goes {i : Instr} {taken : LaneCtx → Option Int} {link : LaneCtx → List RegWrite} (s : State) :
    Goes s (branchWith i taken link s) := by
  refine issueStd_goes (fun b s => ?_) s
  refine Res.keeps_ite trivial fun h => State.allWf.dissolve (State.allWf.countTurn (h.foldl fun _ _ ht => ht.modWarp fun x hx => ?_))
  show Warp.memWf (if _ then x else _)
  split <;> exact hx
theorem memWf_dropGraph {w : Warp} (h : w.memWf) : (dropGraph w).memWf := by
  unfold dropGraph
  split <;> exact h
theorem execExit_goes (p : PNum) (sense : Bool) (s : State) : Goes s (execExit p sense s) := by
  refine issueStd_goes (fun b s => ?_) s
  exact fun h => State.allWf.stay (State.allWf.leave (h.retire.foldl fun _ _ ht => (ht.modWarp fun _ => memWf_dropGraph).modCore))
theorem execWaitc_goes (ld st xf tl : BitVec 6) (s : State) : Goes s (execWaitc ld st xf tl s) := by
  refine issueStd_goes (fun b s => ?_) s
  exact Res.keeps_ite (fun h => h.retire.stay) trivial
theorem State.allWf.setBar {s : State} (h : s.allWf) {unit wg n : Nat} {b : Barrier} : (s.setBar unit wg n b).allWf := h.modWg (by exact fun _ h => h)
theorem State.allWf.seeBar {s : State} (h : s.allWf) {unit wg n : Nat} {phase : Bool} : (s.seeBar unit wg n phase).allWf :=
  h.modUnit fun u hu => by
    refine ⟨hu.1, hu.2.1, fun g hg => ?_⟩
    obtain ⟨⟨x, i⟩, hx, rfl⟩ := List.mem_map.1 hg
    have hwf : x.memWf := hu.2.2 x (List.fst_mem_of_mem_zipIdx hx)
    dsimp only
    split
    · exact hwf.mapWarps (by exact fun _ h => h)
    · exact hwf
theorem State.allWf.putBar {s : State} (h : s.allWf) {unit wg n : Nat} {b : Barrier} : (s.putBar unit wg n b).allWf := h.setBar.seeBar
theorem State.allWf.barEvent {s : State} (h : s.allWf) {unit wg n : Nat} {p : Option WarpId} {f : Barrier → Barrier} :
    (s.barEvent unit wg n p f).allWf := by
  unfold State.barEvent
  exact .ite h.putBar.progress h.putBar
theorem State.allWf.sendBar {s : State} (h : s.allWf) {b : Bundle} {kind : Nat → Warp → List Nat → OpKind} {ws : List Nat} :
    (s.sendBar b kind ws).allWf := h.foldl fun _ _ ht => ht.newOp
theorem State.allWf.arriveAll {s : State} (h : s.allWf) {unit wg n : Nat} {ls : List (Nat × Nat)} :
    (s.arriveAll unit wg n ls).allWf := h.foldl fun _ _ ht => ht.barEvent
theorem execBarInit_goes (n : BNum) (g : GNum) (s : State) : Goes s (execBarInit n g s) := by
  refine issueStd_goes (fun b s => ?_) s
  exact Res.keeps_ite trivial (Res.keeps_ite trivial fun h => (State.allWf.retire (h.foldl fun _ _ ht => ht.putBar)).stay)
theorem execBarExpect_goes (n : BNum) (g : GNum) (s : State) : Goes s (execBarExpect n g s) := by
  refine issueStd_goes (fun b s => ?_) s
  exact Res.keeps_ite trivial fun h => h.sendBar.retire.stay
theorem execBarArrive_goes (n : BNum) (s : State) : Goes s (execBarArrive n s) := by
  refine issueStd_goes (fun b s => ?_) s
  exact Res.keeps_ite trivial fun h => h.sendBar.foldl fun _ _ ht => ht.modThread
theorem execBarWait_goes (n : BNum) (g : GNum) (s : State) : Goes s (execBarWait n g s) := by
  refine issueStd_goes (fun b s => ?_) s
  exact Res.keeps_ite trivial (Res.keeps_ite (fun h => h.retire.stay) fun h => h.foldl fun _ _ ht => ht.modThread)
theorem execBarrierArrivalApply_goes (op : Nat) (s : State) : Goes s (execBarrierArrivalApply op s) := by
  unfold execBarrierArrivalApply
  split
  · exact goes_same s
  refine goes_ite (goes_same s) ?_
  split
  · exact goes_next fun h => State.allWf.foldl (s := s.dropOp op) h fun _ _ ht => ht.barEvent
  · refine goes_ite (goes_same s) ?_
    dsimp only
    split
    · exact goes_same s
    · exact goes_ite (goes_next fun h => h.withOps.takeFault) (goes_next fun h => h.withOps.arriveAll.retire.stay)
  · exact goes_same s

/-! ### Tiles: what evaluations and eager writes leave -/

theorem nil_wf : Memory.wf [] := ⟨List.Pairwise.nil, by simp⟩
theorem fresh_memWf : Tile.fresh.memWf := ⟨nil_wf, nil_wf, nil_wf, nil_wf⟩
theorem Warp.memWf.tile {w : Warp} (h : w.memWf) (m : Nat) : (w.tile m).memWf := by
  unfold Warp.tile
  cases hm : w.tiles[m]? with
  | none => exact fresh_memWf
  | some t => exact h t (List.mem_of_getElem? hm)
/-- A node's result is in canonical form. -/
def TileOut.memWf (o : TileOut) : Prop :=
  Memory.wf o.data ∧ Memory.wf o.scales ∧ Memory.wf o.shData ∧ Memory.wf o.shScales
theorem zeroOut_memWf : zeroOut.memWf := fresh_memWf
theorem put_memWf {t : Tile} {o : TileOut} (h : o.memWf) : (t.put o).memWf := h
theorem ite_wf {c : Prop} [Decidable c] {m n : Memory} (hm : Memory.wf m) (hn : Memory.wf n) : Memory.wf (if c then m else n) := by
  split
  · exact hm
  · exact hn
theorem rowsMem_wf (t : TCfg) (rows : List (List Nat)) : Memory.wf (rowsMem t rows) :=
  foldl_wf _ (fun _ _ h => memWrite_wf _ _ h) _ nil_wf
theorem accMem_wf (t : TCfg) (codes : List Nat) : Memory.wf (accMem t codes) := rowsMem_wf t _
theorem writeElems_wf (t : TCfg) (sat isat : Bool) (mode : Nat → RMode) (tang : Bool) (xs : List Elt) :
    Memory.wf (writeElems t sat isat mode tang xs).1 ∧ Memory.wf (writeElems t sat isat mode tang xs).2.1 := by
  unfold writeElems
  dsimp only
  split
  · exact ⟨rowsMem_wf t _, foldl_wf _ (fun _ _ h => memSet_wf _ _ h) _ nil_wf⟩
  · exact ⟨rowsMem_wf t _, ite_wf (memWrite_wf _ _ nil_wf) nil_wf⟩
theorem mmaOut_memWf (t : TCfg) (sat isat dual : Bool) (e : Int) (x : MmaArgs) (d sh : Memory) :
    (mmaOut t sat isat dual e x d sh).memWf := by
  unfold mmaOut
  split <;> exact ⟨accMem_wf t _, nil_wf, ite_wf (accMem_wf t _) nil_wf, nil_wf⟩
theorem eltOut_memWf (t : TCfg) (sat isat dual : Bool) (mode : Nat → RMode) (ps : List Elt × List Elt) :
    (eltOut t sat isat dual mode ps).memWf := by
  obtain ⟨hd, hs⟩ := writeElems_wf t sat isat mode false ps.1
  obtain ⟨hd', hs'⟩ := writeElems_wf t sat isat mode true ps.2
  unfold eltOut
  dsimp only
  split
  · exact ⟨hd, hs, hd', hs'⟩
  · exact ⟨hd, hs, nil_wf, nil_wf⟩
theorem chainOut_memWf (td : TCfg) (sat : Bool) (e : Int) (fs : List Factor) (t : Tree) (d : Memory) :
    (chainOut td sat e fs t d).memWf := by
  cases t with
  | leaf => exact zeroOut_memWf
  | mul a b => exact ⟨accMem_wf td _, nil_wf, nil_wf, nil_wf⟩
/-- A transposed copy keeps the scales of the tile it is of; every other result is written anew. -/
theorem evalNode_memWf (v : EvalEnv) {w : Warp} (h : w.memWf) (n : Node) (e : Int) : (evalNode v w n e).memWf := by
  unfold evalNode
  dsimp only
  split
  · exact zeroOut_memWf
  · split
    case h_7 =>
      obtain ⟨-, hs, -, hs'⟩ := h.tile (((n.ops[0]?).map (·.1)).getD 0)
      exact ⟨rowsMem_wf _ _, hs, ite_wf (rowsMem_wf _ _) nil_wf, ite_wf hs' nil_wf⟩
    case h_11 => exact zeroOut_memWf
    case h_1 | h_2 => exact mmaOut_memWf ..
    case h_3 => split <;> exact eltOut_memWf ..
    all_goals exact eltOut_memWf ..

/-- An evaluation under way whose tiles and folded results are in canonical form. -/
def EvalAcc.memWf (a : EvalAcc) : Prop := a.w.memWf ∧ ∀ x ∈ a.folded, x.2.memWf
theorem EvalAcc.memWf.fold {a : EvalAcc} (h : a.memWf) {c : Prop} [Decidable c] {d : Nat × BitVec 16} {f : TileOut} (hf : f.memWf) :
    ∀ x ∈ (if c then (d, f) :: a.folded else a.folded), x.2.memWf := by
  split
  · exact List.forall_mem_cons.2 ⟨hf, h.2⟩
  · exact h.2
theorem evalMember_memWf (v : EvalEnv) (w0 : Warp) (cl : List Node) (rw : List (Chain × Tree)) (reassoc : Bool) {a : EvalAcc}
    (h : a.memWf) (n : Node) (i : Nat) : (evalMember v w0 cl rw reassoc a n i).memWf := by
  unfold evalMember
  dsimp only
  split
  · next ch t k _ =>
    split
    · exact h
    · split
      · exact h
      · exact ⟨h.1.setTile fun _ _ => put_memWf (chainOut_memWf ..), h.fold (chainOut_memWf ..)⟩
  · split
    · exact h
    · split
      · next o _ heq =>
        have ho : o.memWf := by
          obtain ⟨d, _, hd⟩ := Option.bind_eq_some_iff.1 heq
          exact h.2 _ (List.mem_of_find?_eq_some hd)
        exact ⟨h.1.setTile fun _ _ => put_memWf (evalNode_memWf v (h.1.setTile fun _ _ => put_memWf ho) _ _), h.2⟩
      · refine ⟨h.1.setTile fun _ _ => put_memWf (evalNode_memWf v h.1 n 0), h.fold ?_⟩
        split
        · split <;> exact evalNode_memWf v h.1 n _
        · exact evalNode_memWf v h.1 n 0
theorem evalClosure_memWf (v : EvalEnv) {w : Warp} (h : w.memWf) (cl graph : List Node) (reassoc : Bool) :
    (evalClosure v w cl graph reassoc).1.memWf :=
  (List.foldlRecOn (motive := EvalAcc.memWf) _ _ ⟨h, by simp⟩ fun _ ha x _ => evalMember_memWf v _ cl _ reassoc ha x.1 x.2).1

theorem tiles_dropFrom (k : Nat) (w : Warp) : (dropFrom k w).tiles = w.tiles := by
  induction k generalizing w with
  | zero => rfl
  | succ k ih => exact ih (dropOnce w)
theorem memWf_of_tiles {w x : Warp} (h : w.memWf) (ht : x.tiles = w.tiles) : x.memWf := by
  unfold Warp.memWf
  rwa [ht]
theorem memWf_appendNode {w : Warp} (h : w.memWf) (kind : NodeKind) (m : Nat) (ops : List Nat) (slot : SlotNum) (dual : Bool)
    (pc : VAddr) (extra : Mask) (n : Nat) : (appendNode w kind m ops slot dual pc extra n).memWf := by
  unfold appendNode
  dsimp only
  refine memWf_of_tiles ?_ (tiles_dropFrom _ _)
  refine Warp.memWf.setTile (w := (if n = 0 then (w, []) else reserveDraws w n).1) ?_ fun _ ht => ht
  split <;> exact h
theorem memWf_eagerWrite {w : Warp} (h : w.memWf) (m : Nat) {f : Tile → Tile} (hf : ∀ t : Tile, t.memWf → (f t).memWf) :
    (eagerWrite w m f).memWf :=
  memWf_of_tiles (w := w.setTile m fun t => f { t with ver := t.ver + 1 }) (h.setTile fun _ ht => hf _ ht) (tiles_dropFrom _ _)

/-! ### What forces an evaluation only asks for it -/

theorem State.allWf.askEval {s : State} (h : s.allWf) {core : Nat} {r : EvalReq} : (s.askEval core r).allWf := .ite h h.modCore

/-- A state in which a forcing issue waits, when there is one, keeps the form. -/
structure WaitsKeep (s : State) (o : Option State) : Prop where
  keep : ∀ t, o = some t → s.allWf → t.allWf
theorem waitsKeep_ask {s : State} {core : Nat} {r : EvalReq} : WaitsKeep s (some (s.askEval core r)) :=
  ⟨by rintro _ ⟨⟩ h; exact h.askEval⟩
theorem waitsKeep_same {s : State} : WaitsKeep s (some s) := ⟨by rintro _ ⟨⟩ h; exact h⟩
theorem waitsKeep_none {s : State} : WaitsKeep s none := ⟨by rintro _ ⟨⟩⟩
theorem forceTile_keeps (s : State) (b : Bundle) (wi : Nat) (w : Warp) (ls : List Nat) (m : Nat) :
    WaitsKeep s (forceTile s b wi w ls m) := by
  unfold forceTile
  dsimp only
  split
  · exact waitsKeep_ask
  · split
    · exact waitsKeep_same
    · exact waitsKeep_none
theorem forceReaders_keeps (s : State) (b : Bundle) (wi : Nat) (w : Warp) (ls : List Nat) (m : Nat) :
    WaitsKeep s (forceReaders s b wi w ls m) := by
  unfold forceReaders
  split
  · exact waitsKeep_ask
  · split
    · exact waitsKeep_same
    · exact waitsKeep_none
theorem forceAll_keeps (s : State) (b : Bundle) (wi : Nat) (w : Warp) (ls : List Nat) : WaitsKeep s (forceAll s b wi w ls) := by
  unfold forceAll
  split
  · exact waitsKeep_none
  · exact waitsKeep_ask
theorem makeRoom_keeps (s : State) (b : Bundle) (wi : Nat) (w : Warp) (ls : List Nat) (dual : Bool) :
    WaitsKeep s (makeRoom s b wi w ls dual) := by
  unfold makeRoom
  dsimp only
  split
  · exact forceAll_keeps s b wi w ls
  · split
    · exact waitsKeep_none
    · split
      · exact waitsKeep_ask
      · exact waitsKeep_same

/-! ### Lane accesses at issue -/

theorem Res.keeps_waits {s : State} {o : Option State} (h : WaitsKeep s o) {t : State} (ht : o = some t) : (Res.hold t).Keeps s := h.keep t ht
theorem forceLoops_keeps (s : State) (b : Bundle) (stores : List (Nat × List (Space × Nat × Nat))) :
    WaitsKeep s (forceLoops s b stores) := by
  unfold forceLoops
  split
  · exact waitsKeep_ask
  · exact waitsKeep_none
theorem findSome?_keeps {α : Type} {s : State} {f : α → Option State} (hf : ∀ x, WaitsKeep s (f x)) (xs : List α) :
    WaitsKeep s (xs.findSome? f) := by
  refine ⟨fun t ht => ?_⟩
  obtain ⟨x, -, hx⟩ := List.exists_of_findSome?_eq_some ht
  exact (hf x).keep t hx
theorem forceTiles_keeps (s : State) (b : Bundle) (wi : Nat) (w : Warp) (ls ms : List Nat) : WaitsKeep s (forceTiles s b wi w ls ms) :=
  findSome?_keeps (fun m => forceTile_keeps s b wi w ls m) ms
theorem State.allWf.addOp {s : State} (h : s.allWf) {w : WarpId} {ctr : Option Counter} {tagged : Bool} {sb : List RegName}
    {mk : Option Nat → Nat → MemOp} : (s.addOp w ctr tagged sb mk).allWf :=
  h.newOp.modWarp fun x hx => memWf_of_tiles hx (by cases ctr with
    | none => rfl
    | some c => cases c <;> rfl)
theorem State.allWf.sendLoads {s : State} (h : s.allWf) {b : Bundle} {p : LoadPlan} {parts : Nat → Thread → List Part} :
    (s.sendLoads b p parts).allWf := h.foldl fun _ _ ht => ht.addOp
theorem loadBody_keeps {dst : GNum} {sz : Size} {pol : Policy} {n : ANum} {va : LaneCtx → Int} {idx : List RegName} {canDual : Bool}
    {scope : Scope} {acq : Bool} : BodyKeeps (loadBody dst sz pol n va idx canDual scope acq) := by
  intro b s
  unfold loadBody
  dsimp only
  split
  · trivial
  · exact Res.keeps_ite trivial fun h => (State.allWf.retire (h.foldl fun _ _ ht => ht.sendLoads)).stay
theorem State.allWf.markFence {s : State} (h : s.allWf) {b : Bundle} : (s.markFence b).allWf := h.foldl fun _ _ ht => ht.modThread
theorem State.allWf.sendStores {s : State} (h : s.allWf) {b : Bundle} {p : StorePlan} {held : Bool} {group wi : Nat} {ps : List Part}
    {digest : Nat} {ls : List Nat} : (s.sendStores b p held group wi ps digest ls).allWf := .ite h.addOp (h.addOp.modWarp (by exact fun _ h => h))
theorem State.allWf.storeL1All {s : State} (h : s.allWf) {core : Nat} {byp : Bool} {ps : List OpPart} :
    (s.storeL1All core byp ps).allWf := h.foldl fun _ _ ht => ht.storeL1
theorem storeBody_keeps {p : StorePlan} {va : LaneCtx → Int} : BodyKeeps (storeBody p va) := by
  intro b s
  unfold storeBody
  dsimp only
  split
  · trivial
  refine Res.keeps_ite trivial (Res.keeps_ite (fun h => h.markFence) ?_)
  split
  · next heq => exact Res.keeps_waits (forceLoops_keeps ..) heq
  · exact fun h => (State.allWf.storeL1All (h.foldl fun _ _ ht => ht.sendStores)).retire.stay
theorem execLds_goes (d a : GNum) (sz : Size) (off : BitVec 8) (s : State) : Goes s (execLds d a sz off s) := by
  refine issueStd_goes (fun b s => ?_) s
  split
  · trivial
  · exact Res.keeps_ite trivial fun h => h.sendLoads.retire.stay
theorem execSts_goes (d a : GNum) (sz : Size) (off : BitVec 8) (s : State) : Goes s (execSts d a sz off s) := by
  refine issueStd_goes (fun b s => ?_) s
  split
  · trivial
  · exact Res.keeps_ite trivial fun h => (State.allWf.retire (h.foldl fun _ _ ht => ht.addOp)).stay
theorem execAldp_goes (n m : ANum) (off : BitVec 10) (b128 : Bool) (pol : Policy) (s : State) : Goes s (execAldp n m off b128 pol s) := by
  refine issueStd_goes (fun b s => ?_) s
  dsimp only
  split
  · trivial
  · exact Res.keeps_ite trivial fun h => State.allWf.foldl (h.foldl fun _ _ ht => ht.addOp) fun _ _ ht => ht.modThread

/-! ### Checkpoints -/

/-- Bytes written at physical places of device memory. -/
theorem State.allWf.writePhys {s : State} (h : s.allWf) (pa : Nat) (bs : List Byte) :
    ({ s with home := (writePhys s.home pa bs).1 } : State).allWf :=
  h.of_memWf (memWf_of_mem h.1 (writePhys_wf pa bs h.1.1) rfl rfl rfl) rfl rfl rfl
theorem State.allWf.writeImage {s : State} (h : s.allWf) (base : Nat) (img : List (Nat × List Byte)) :
    ({ s with home := img.foldl (fun h (o, bs) => (Machine.writePhys h (base + o) bs).1) s.home } : State).allWf := by
  induction img generalizing s with
  | nil => exact h
  | cons x xs ih => exact ih (s := { s with home := (Machine.writePhys s.home (base + x.1) x.2).1 }) (h.writePhys _ _)
theorem State.allWf.slotWrite {s : State} (h : s.allWf) {u : Placed} {img : List (Nat × List Byte)} : (s.slotWrite u img).allWf :=
  h.writeImage _ img
theorem State.allWf.slotPut {s : State} (h : s.allWf) {b : Bundle} {group wi : Nat} {ls : List Nat} {img : List (Nat × List Byte)} :
    (s.slotPut b group wi ls img).allWf := by
  unfold State.slotPut
  dsimp only
  split <;> exact h.slotWrite
theorem State.allWf.writeCkpt {s : State} (h : s.allWf) {b : Bundle} {k : Thread → Nat} {xg xa : List Nat} {tiles : Bool} :
    (s.writeCkpt b k xg xa tiles).allWf := h.foldl fun _ _ ht => (ht.modWarp (by exact fun _ h => h)).slotPut
theorem State.allWf.renewTurn {s : State} (h : s.allWf) {b : Bundle} {group : Nat} : (s.renewTurn b group).allWf := by
  refine .ite h (h.foldl fun t x ht => ?_)
  dsimp only
  split
  · exact (ht.modWarp (by exact fun _ h => h)).slotWrite
  · exact ht
theorem bodyRegion_keeps (k : BitVec 10) : BodyKeeps (bodyRegion k) := by
  intro b s
  refine Res.keeps_ite trivial ?_
  split
  · next heq => exact Res.keeps_waits (findSome?_keeps (fun _ => forceTiles_keeps ..) _) heq
  · exact fun h => h.writeCkpt
theorem execRegion_goes (k : BitVec 10) (s : State) : Goes s (execRegion k s) :=
  goes_ite (collIssue_goes (bodyRegion_keeps k) s) (by
    refine issueStd_goes (fun b s => ?_) s
    exact Res.keeps_ite trivial fun h => h.writeCkpt.retire.stay)

/-! ### Fences, atomics, monitors, stash windows -/

theorem execFence_goes (sc : Scope) (s : State) : Goes s (execFence sc s) := by
  refine issueStd_goes (fun b s => ?_) s
  exact Res.keeps_ite (fun h => h.retire.stay) fun h => h.markFence
theorem atomBody_keeps (p : AtomPlan) : BodyKeeps (atomBody p) := by
  intro b s
  unfold atomBody
  dsimp only
  split
  · trivial
  refine Res.keeps_ite trivial (Res.keeps_ite (fun h => h.markFence) ?_)
  split
  · next heq => exact Res.keeps_waits (forceLoops_keeps ..) heq
  · exact fun h => (State.allWf.retire (h.foldl fun _ _ ht => ht.addOp.modCore)).stay
theorem State.allWf.sendWaitcmp {s : State} (h : s.allWf) {b : Bundle} {g : GNum} {n : ANum} {sys : Bool} {c : WCond} {b64 : Bool} :
    (s.sendWaitcmp b g n sys c b64).allWf :=
  State.allWf.foldl (h.foldl fun _ _ ht => ht.addOp) fun _ _ ht => ht.modThread
theorem execWaitcmp_goes (g : GNum) (n : ANum) (sys : Bool) (c : WCond) (b64 : Bool) (s : State) :
    Goes s (execWaitcmp g n sys c b64 s) := by
  refine issueStd_goes (fun b s => ?_) s
  dsimp only
  split
  · trivial
  split
  · trivial
  refine Res.keeps_ite trivial ?_
  split
  · next heq => exact Res.keeps_waits (findSome?_keeps (fun _ => forceTiles_keeps ..) _) heq
  · exact fun h => h.writeCkpt.sendWaitcmp
theorem execPref_goes (n : ANum) (off : BitVec 10) (sz : BitVec 3) (pol : Policy) (s : State) : Goes s (execPref n off sz pol s) := by
  refine issueStd_goes (fun b s => ?_) s
  exact fun h => (State.allWf.retire (h.foldl fun _ _ ht => .ite ht ht.newOp)).stay
theorem execSmap_goes (n : ANum) (g : GNum) (s : State) : Goes s (execSmap n g s) := by
  refine issueStd_goes (fun b s => ?_) s
  dsimp only
  split
  · trivial
  · exact Res.keeps_ite trivial fun h => (h.modUnit (by exact fun _ h => h)).retire.stay
theorem State.allWf.flushStash {s : State} (h : s.allWf) {b : Bundle} {n : ANum} {sts : List Stash} {unbind : Bool} :
    (s.flushStash b n sts unbind).allWf :=
  State.allWf.modUnit (List.foldlRecOn (motive := fun x : State × List (Nat × Nat) => x.1.allWf) _ _ h
    fun _ hx _ _ => hx.addOp.storeL1) (by exact fun _ h => h)
theorem flushBody_keeps (n : ANum) (unbind : Bool) : BodyKeeps (flushBody n unbind) := by
  intro b s
  unfold flushBody
  split
  · trivial
  · exact Res.keeps_ite trivial fun h => h.flushStash.retire.stay

/-! ### The home slices -/

theorem State.allWf.setPart {s : State} (h : s.allWf) {op i : Nat} {f : Part → Part} : (s.setPart op i f).allWf := h
theorem State.allWf.cacheWalk {s : State} (h : s.allWf) {ctx ia : Nat} : (s.cacheWalk ctx ia).allWf := h.caches (cacheWalk_caches ..)
theorem State.allWf.cacheSpan {s : State} (h : s.allWf) {ctx : Nat} {sp : Space} {a n : Nat} : (s.cacheSpan ctx sp a n).allWf :=
  h.caches (cacheSpan_caches ..)
theorem State.allWf.cacheVA {s : State} (h : s.allWf) {ctx va n : Nat} : (s.cacheVA ctx va n).allWf := h.caches (cacheVA_caches ..)
theorem State.allWf.cacheRecs {s : State} (h : s.allWf) {ctx : Nat} {spans : List (Nat × Nat)} : (s.cacheRecs ctx spans).allWf :=
  h.caches (cacheRecs_caches ..)
theorem State.allWf.fillLine {s s' : State} (h : s.allWf) {o : MemOp} {u : Placed} {st st' : Stash} {va v : Nat}
    (hf : s.fillLine o u st va = .ok s' st' v) : s'.allWf := by
  unfold State.fillLine at hf
  dsimp only at hf
  split at hf
  · cases hf
    exact h
  · split at hf
    · cases hf
    · split at hf
      · cases hf
      · cases hf
      · cases hf
        exact h.cacheWalk.modUnit fun u hu => ⟨hu.1, memWrite_wf _ _ hu.2.1, hu.2.2⟩
theorem State.allWf.stashWrite {s : State} (h : s.allWf) {u : Placed} {st : Stash} {va : Nat} {bs : List Byte} :
    (s.stashWrite u st va bs).1.allWf :=
  h.modUnit fun _ hu => ⟨hu.1, foldl_wf _ (fun _ _ hm => memSet_wf _ _ hm) _ hu.2.1, hu.2.2⟩
theorem State.allWf.withEmax {s : State} (h : s.allWf) {m : List (Nat × Nat)} :
    ({ s with home := { s.home with emax := m } } : State).allWf := h
theorem State.allWf.fillBlock {s s' : State} (h : s.allWf) {o : MemOp} {p : Part} {c : ServeChoice} {v : Nat}
    (hf : s.fillBlock o p c = some (s', v)) : s'.allWf := by
  unfold State.fillBlock at hf
  dsimp only at hf
  split at hf
  · cases hf
    exact h.withEmax.modCore
  · cases hf
theorem State.allWf.serve {s : State} (h : s.allWf) {o : MemOp} {i : Nat} {p : Part} {c : ServeChoice} : (s.serve o i p c).allWf := by
  unfold State.serve
  dsimp only
  split
  · split <;> exact h
  · split <;> exact h
  · exact h
  · split
    · exact h
    · split
      · exact h
      · exact h
      · next heq => split <;> exact (h.fillLine heq).setPart
  · split
    · exact h
    · exact h
    · split
      · next heq =>
        split at heq
        · exact (h.cacheWalk.fillBlock heq).setPart
        · cases heq
      · exact h.cacheWalk.setPart
theorem execLoadServe_goes (op part : Nat) (c : ServeChoice) (s : State) : Goes s (execLoadServe op part c s) := by
  unfold execLoadServe
  split
  · exact goes_next fun h => .ite h.serve h
  · exact goes_same s
theorem State.allWf.of_eq {s t : State} (e : s = t) (h : s.allWf) : t.allWf := e ▸ h
theorem State.allWf.applyWrite {s : State} (h : s.allWf) {o : MemOp} {i : Nat} {p : Part} : (s.applyWrite o i p).allWf := by
  unfold State.applyWrite
  dsimp only
  split
  · have hw := h.writeSpan (ctx := 0) (sp := p.space) (a := p.addr) (bs := p.data) (c := 0)
    split
    · next heq => rw [heq] at hw; exact hw
    · next heq => rw [heq] at hw; exact hw
  · have hw := h.writeSpan (ctx := 0) (sp := p.space) (a := p.addr) (bs := p.data) (c := 0)
    split
    · next heq => rw [heq] at hw; exact hw
    · next heq => rw [heq] at hw; exact hw
  · have hw := State.allWf.modUnit h (id := o.w.unit) (f := fun u => { u with spad := memWrite u.spad p.addr p.data })
      fun u hu => ⟨hu.1, memWrite_wf _ _ hu.2.1, hu.2.2⟩
    exact hw.setPart.progress
  · split
    · exact h
    · split
      · exact h
      · exact h
      · next heq =>
        have hw (u : Placed) (st : Stash) : (State.stashWrite _ u st p.addr p.data).1.allWf := (h.fillLine heq).stashWrite
        split
        · next hs => exact (State.allWf.of_eq (congrArg Prod.fst hs) (hw _ _)).setPart.progress
        · next hs => exact (State.allWf.of_eq (congrArg Prod.fst hs) (hw _ _)).setPart.progress
  · split
    · next heq => exact h.writeLocal (.inr heq)
    · next heq => exact (h.writeLocal (.inl ⟨_, _, heq⟩)).setPart.progress
    · next heq => exact (h.writeLocal (.inl ⟨_, _, heq⟩)).setPart.progress
theorem execStoreApply_goes (op part : Nat) (s : State) : Goes s (execStoreApply op part s) := by
  unfold execStoreApply
  split
  · exact goes_ite (goes_same s) (goes_ite (goes_next fun h => .ite h.setPart h) (goes_ite (goes_next fun h => h.setPart)
      (goes_next fun h => h.applyWrite)))
  · exact goes_same s
theorem State.allWf.atomDone {s : State} (h : s.allWf) {o : MemOp} {p : Part} {old : List Byte} {new : Option (List Byte)} {g : Nat} :
    (s.atomDone o p old new g).allWf := by
  unfold State.atomDone
  extract_lets s₁ s₂ s₃
  have h₃ : s₃.allWf := .ite (State.allWf.modCore (s := s₂) h) h
  clear_value s₃
  split
  · exact h₃
  · exact .ite (.ite h₃ (h₃.modWarp (by exact fun _ h => h))) (State.allWf.progress (.ite h₃ (h₃.modWarp (by exact fun _ h => h))))

/-- The pieces of an atomic access that have been read, or what they wait for or fail of, in canonical form. -/
def Got.allWf : Got → Prop
  | .ok s _ | .wait s | .bad s .. => s.allWf
theorem Got.allWf.of_ok {s : State} {old : List Byte} (h : (Got.ok s old).allWf) : s.allWf := h
theorem State.allWf.readPiece {s : State} (h : s.allWf) (o : MemOp) (q : Part) : (s.readPiece o q).allWf := by
  unfold State.readPiece
  split
  · exact h
  · split
    · exact h
    · split
      · exact h
      · exact h
      · next heq => split <;> exact h.fillLine heq
  · split
    · exact h
    · split
      · exact h.cacheSpan
      · exact h
      · exact h
def WriteRes.allWf : WriteRes → Prop
  | .ok s .. | .wait s => s.allWf
theorem WriteRes.allWf.of_ok {s : State} {g : Nat} {b : Option (Nat × Nat × Nat)} (h : (WriteRes.ok s g b).allWf) : s.allWf := h
theorem State.allWf.writePiece {s : State} (h : s.allWf) (o : MemOp) (q : Part) (bs : List Byte) : (s.writePiece o q bs).allWf := by
  unfold State.writePiece
  split
  · split
    · exact h
    · exact h.stashWrite
  · cases hw : s.writeLocal (s.ctxOf o) q.addr bs q.carried o.tclear with
    | ok t g b => exact h.writeLocal (.inl ⟨g, b, hw⟩)
    | wait t => exact h.writeLocal (.inr hw)
  · exact h.writeSpan
theorem State.allWf.applyAtomic {s : State} (h : s.allWf) {o : MemOp} {p : Part} : (s.applyAtomic o p).allWf := by
  unfold State.applyAtomic
  dsimp only
  have hr : ((o.pieces p).foldl (fun r q => match r with
    | .ok s bs => (match s.readPiece o q with | .ok s' cs => .ok s' (bs ++ cs) | x => x)
    | x => x) (Got.ok s [])).allWf := by
    refine List.foldlRecOn (motive := Got.allWf) _ _ h fun r hr q _ => ?_
    cases r with
    | ok t bs =>
      have ht := State.allWf.readPiece (s := t) hr o q
      dsimp only
      cases hp : t.readPiece o q <;> rw [hp] at ht <;> exact ht
    | wait t => exact hr
    | bad t c a d => exact hr
  split
  · next heq => exact (heq ▸ hr : Got.allWf _)
  · next heq => exact (heq ▸ hr : Got.allWf _)
  · next t old heq =>
    have ht : t.allWf := Got.allWf.of_ok (heq ▸ hr : Got.allWf _)
    split
    · exact ht.atomDone
    · next bs _ =>
      have hw : ((o.pieces p).foldl (fun (r : WriteRes × List Byte) q => match r with
        | (.ok s g none, bs) => (match s.writePiece o q (bs.take q.n) with
          | .ok s' g' bad => (.ok s' (max g g') bad, bs.drop q.n)
          | .wait _ => (.wait t, bs))
        | r => r) (WriteRes.ok t 0 none, bs)).1.allWf := by
        refine List.foldlRecOn (motive := fun x : WriteRes × List Byte => x.1.allWf) _ _ ht fun r hr q _ => ?_
        split
        · next s1 g bs1 =>
          have hp := State.allWf.writePiece (s := s1) hr o q (bs1.take q.n)
          cases hq : s1.writePiece o q (bs1.take q.n) with
          | ok s2 g2 bad => rw [hq] at hp; exact hp
          | wait s2 => exact ht
        · exact hr
      split
      · next heq => exact (heq ▸ hw : WriteRes.allWf _)
      · next heq => exact State.allWf.atomDone (WriteRes.allWf.of_ok (heq ▸ hw : WriteRes.allWf _))
      · next heq => exact (heq ▸ hw : WriteRes.allWf _)
theorem execAtomicApply_goes (op part : Nat) (s : State) : Goes s (execAtomicApply op part s) := by
  unfold execAtomicApply
  split
  · exact goes_ite (goes_same s) (goes_ite (goes_next fun h => .ite h.setPart h) (goes_ite (goes_next fun h => h.setPart)
      (goes_ite (goes_same s) (goes_next fun h => h.applyAtomic))))
  · exact goes_same s
theorem execReleaseClearance_goes (op : Nat) (s : State) : Goes s (execReleaseClearance op s) := by
  unfold execReleaseClearance
  split
  · exact goes_ite (goes_next fun h => State.allWf.progress (s := s.modOp _ _) h) (goes_same s)
  · exact goes_same s
theorem execReleaseApply_goes (op part : Nat) (s : State) : Goes s (execReleaseApply op part s) := by
  unfold execReleaseApply
  split
  · exact goes_ite (goes_same s) (goes_ite (goes_next fun h => .ite h.applyAtomic h) (goes_next fun h => h.applyWrite))
  · exact goes_same s
theorem State.allWf.sendFault {s : State} (h : s.allWf) {o : MemOp} {ls : List Nat} : (s.sendFault o ls).allWf := by
  unfold State.sendFault
  split
  · exact h
  · split <;> exact h
theorem execImpreciseFault_goes (fid : Nat) (s : State) : Goes s (execImpreciseFault fid s) := by
  unfold execImpreciseFault
  split
  · exact goes_same s
  refine goes_ite (goes_same s) ?_
  dsimp only
  split
  · refine goes_ite (goes_next fun h => State.allWf.takeHits ?_) (goes_next fun h => h)
    exact h
  · exact goes_next fun h => h
theorem State.allWf.acquired {s : State} (h : s.allWf) {o : MemOp} {all : Bool} {time : Nat} : (s.acquired o all time).allWf :=
  .ite h (h.foldl fun _ _ ht => .ite ht ht.modThread)
theorem State.allWf.land {s : State} (h : s.allWf) {o : MemOp} : (s.land o).allWf := State.allWf.acquired (h.modWarp (by exact fun _ h => h))
theorem State.allWf.arrived {s : State} (h : s.allWf) {o : MemOp} : (s.arrived o).allWf := by
  unfold State.arrived
  have ha (x : MemOp) : ((s.modOp o.id fun _ => x).acquired x false 0).allWf := State.allWf.acquired (s := s.modOp _ _) h
  exact .ite (ha _) (ha _).land
theorem memWf_counted {w : Warp} (h : w.memWf) {ws : List (Nat × List RegWrite)} {rs : List RegName} {c : Counter} {up : Bool} :
    (((w.applyWrites ws).clearSb rs).addCounter c up).memWf := by
  cases c <;> exact h
theorem State.allWf.returnLanes {s : State} (h : s.allWf) {o : MemOp} : (s.returnLanes o).allWf := by
  unfold State.returnLanes
  refine State.allWf.arrived (.ite (State.allWf.modWarp ?_ (by exact fun _ h => h)) ?_)
  all_goals exact h.sendFault.modWarp fun _ hx => memWf_counted hx
theorem State.allWf.returnPtrs {s : State} (h : s.allWf) {o : MemOp} {n : Nat} {b128 : Bool} : (s.returnPtrs o n b128).allWf := by
  unfold State.returnPtrs
  dsimp only
  split
  · exact h
  · exact .ite h.takeFault (State.allWf.stay (State.allWf.retire
      (h.foldl fun _ _ ht => (ht.modWarp fun _ hx => memWf_counted hx).arrived)))
theorem State.allWf.returnWait {s : State} (h : s.allWf) {o : MemOp} {dst : Nat} {b64 : Bool} : (s.returnWait o dst b64).allWf := by
  unfold State.returnWait
  dsimp only
  split
  · exact h
  · exact State.allWf.stay (State.allWf.retire (State.allWf.renewTurn
      (State.allWf.foldl (h.foldl fun _ _ ht => (ht.modWarp (by exact fun _ h => h)).arrived) fun _ _ ht => ht.foldl fun _ _ hr => hr.modThread)))
theorem State.allWf.groupFault {s : State} (h : s.allWf) {o : MemOp} : (s.groupFault o).allWf := by
  unfold State.groupFault
  refine State.allWf.withOps (h.foldl fun t x ht => ?_)
  dsimp only
  split
  · exact ht.sendFault.modWarp fun _ hx => memWf_counted hx
  · exact ht.sendFault
theorem execLoadReturn_goes (op : Nat) (s : State) : Goes s (execLoadReturn op s) := by
  unfold execLoadReturn
  split
  · exact goes_same s
  dsimp only
  refine goes_ite (goes_same s) ?_
  split
  case h_5 => exact goes_next fun h => h
  case h_6 => exact goes_ite (goes_same s) (goes_ite (goes_next fun h => h.groupFault) (goes_next fun h => h.returnPtrs))
  case h_7 => exact goes_ite (goes_next fun h => h.groupFault) (goes_ite (goes_same s) (goes_next fun h => h.returnWait))
  case h_8 => exact goes_same s
  all_goals exact goes_next fun h => h.returnLanes
theorem execTagFree_goes (w : WarpId) (tag : Nat) (s : State) : Goes s (execTagFree w tag s) := by
  unfold execTagFree
  split
  · exact goes_next fun h => .ite (h.modWarp (by exact fun _ h => h)) h
  · exact goes_same s
theorem State.allWf.ackForwards {s : State} (h : s.allWf) {id g : Nat} : (s.ackForwards id g).allWf :=
  State.allWf.foldl (State.allWf.withOps h) fun _ _ ht => ht.land
theorem State.allWf.unbind {s : State} (h : s.allWf) {o : MemOp} : (s.unbind o).allWf := by
  unfold State.unbind
  split
  · exact h.modUnit (by exact fun _ h => h)
  · exact h
theorem execStoreAck_goes (op : Nat) (s : State) : Goes s (execStoreAck op s) := by
  unfold execStoreAck
  split
  · exact goes_same s
  · refine goes_ite (goes_same s) (goes_next fun h => State.allWf.unbind (State.allWf.ackForwards (s := State.dropOp _ _) ?_))
    exact State.allWf.sendFault ((h.modCore.modWarp (by exact fun _ h => h)).modWarp (by exact fun _ h => h))
theorem State.allWf.park {s : State} (h : s.allWf) {o : MemOp} {l : Nat} : (s.park o l).allWf := h.modThread
theorem execMonitorArm_goes (op part : Nat) (o : Bool) (s : State) : Goes s (execMonitorArm op part o s) := by
  unfold execMonitorArm
  split
  · split
    · refine goes_ite (goes_same s) ?_
      split
      · exact goes_same s
      · exact goes_next fun h => h
      · exact goes_ite (goes_next fun h => h.cacheWalk.setPart) (goes_next fun h => h.cacheWalk.setPart.park)
    · exact goes_same s
  · exact goes_same s
theorem execWaitcmpPoll_goes (op part : Nat) (s : State) : Goes s (execWaitcmpPoll op part s) := by
  unfold execWaitcmpPoll
  split
  · split
    · refine goes_ite (goes_same s) ?_
      split
      · exact goes_ite (goes_next fun h => h) (goes_next fun h => h.setPart.park)
      · exact goes_next fun h => h
      · exact goes_same s
    · exact goes_same s
  · exact goes_same s

/-! ### The Transfer engine -/

theorem execXlr_goes (l : LNum) (n : ANum) (off : BitVec 10) (s : State) : Goes s (execXlr l n off s) := by
  refine issueStd_goes (fun b s => ?_) s
  dsimp only
  split
  · trivial
  · exact Res.keeps_ite trivial fun h => (State.allWf.retire (h.foldl fun _ _ ht => ht.addOp)).stay
theorem State.allWf.loadHandles {s : State} (h : s.allWf) {u : Placed} {l : Nat} {anyBad : Bool} {o : MemOp} :
    (s.loadHandles u l anyBad o).allWf := by
  unfold State.loadHandles
  extract_lets bad s₁
  have h₁ : s₁.allWf := h.foldl fun _ _ ht => .ite ht (ht.modWg (by exact fun _ h => h))
  clear_value s₁ bad
  split
  · exact .ite h₁ h₁.sendFault
  · exact h₁
theorem State.allWf.dropOp {s : State} (h : s.allWf) {op : Nat} : (s.dropOp op).allWf := h
theorem execXlrComplete_goes (op : Nat) (s : State) : Goes s (execXlrComplete op s) := by
  unfold execXlrComplete
  split
  · exact goes_same s
  split
  · refine goes_ite (goes_same s) ?_
    split
    · exact goes_next fun h => h
    · exact goes_next fun h => h.foldl fun _ _ ht => State.allWf.dropOp (ht.loadHandles.modWarp (by exact fun _ h => h))
  · exact goes_same s
theorem forceForXfer_keeps (s : State) (b : Bundle) (ask : Thread → XferAsk) : WaitsKeep s (forceForXfer s b ask) := by
  unfold forceForXfer
  dsimp only
  split
  · next t heq =>
    refine ⟨?_⟩
    rintro _ ⟨⟩
    refine (findSome?_keeps (fun p => ?_) b.parts).keep t heq
    split
    · generalize List.find? _ _ = n
      cases n
      · exact waitsKeep_none
      · exact waitsKeep_ask
    · exact waitsKeep_none
  · split
    · exact waitsKeep_none
    · exact forceLoops_keeps ..
theorem State.allWf.grant {s : State} (h : s.allWf) {b : Bundle} {op wi l bar : Nat} {chk : Bool} {x : XferAsk} :
    (s.grant b op wi l bar chk x).allWf := by
  unfold State.grant
  split
  · exact h
  · exact State.allWf.modThread (s := { s with channels := _ }) h
theorem xferBody_keeps (bar : Nat) (chk : Bool) (ask : Thread → XferAsk) : BodyKeeps (xferBody bar chk ask) := by
  intro b s
  unfold xferBody
  extract_lets begun
  refine Res.keeps_ite trivial ?_
  split
  · next t heq =>
    split at heq
    · cases heq
    · exact (forceForXfer_keeps s b ask).keep t heq
  · next _ _ t t' _ _ _ =>
    have ht (h : s.allWf) : t.allWf := .ite h (State.allWf.foldl (s := { s.markFence b with nextId := s.nextId + 1 }) h.markFence
      fun _ _ ht => ht.modWarp (by exact fun _ h => h))
    have ht' (h : s.allWf) : t'.allWf := (ht h).foldl fun _ x hx => by
      obtain ⟨wi, w, l, th⟩ := x
      exact .ite hx hx.grant
    exact Res.keeps_ite (fun h => (ht' h).retire.stay) ht'
theorem State.allWf.setChannel {s : State} (h : s.allWf) {c : Channel} : (s.setChannel c).allWf := h
theorem State.allWf.joinGwct {s : State} (h : s.allWf) {w : WarpId} {g : Nat} : (s.joinGwct w g).allWf := h.modWarp (by exact fun _ h => h)
theorem State.allWf.closeChannel {s : State} (h : s.allWf) {c : Channel} : (s.closeChannel c).allWf :=
  State.allWf.joinGwct (s := { s with channels := _, ops := _ }) h
theorem State.allWf.xferDone {s : State} (h : s.allWf) {c : Channel} : (s.xferDone c).allWf := by
  unfold State.xferDone
  exact .ite h.closeChannel (h.closeChannel.foldl fun _ _ ht => ht.modWarp (by exact fun _ h => h))
theorem State.allWf.postBytes {s : State} (h : s.allWf) {c : Channel} {n time : Nat} {err : Option (Nat × Nat × Nat)} :
    (s.postBytes c n time err).allWf := h.barEvent
theorem State.allWf.errorEvent {s : State} (h : s.allWf) {c : Channel} : (s.errorEvent c).allWf := h.postBytes.xferDone
theorem execChannelStart_goes (pcl ch : Nat) (s : State) : Goes s (execChannelStart pcl ch s) := by
  unfold execChannelStart
  split
  · exact goes_same s
  split
  · exact goes_next fun h => h.closeChannel
  refine goes_ite (goes_same s) (goes_ite (goes_ite (goes_same s) (goes_ite (goes_next fun h => h.closeChannel)
    (goes_ite (goes_next fun h => h) (goes_next fun h => h)))) (goes_ite (goes_same s) (goes_ite (goes_next fun h => h.xferDone)
    (goes_ite (goes_same s) (goes_next fun h => h)))))
theorem State.allWf.commitChunk {s : State} (h : s.allWf) {c : Channel} {u : Placed} {ws : List (Nat × List Byte)}
    {err : Option (Nat × Nat × Nat)} : (s.commitChunk c u ws err).allWf := by
  unfold State.commitChunk
  split
  · exact h
  · extract_lets carried ps s₁ s₂
    have h₁ : s₁.allWf := h
    have h₂ : s₂.allWf := .ite h₁ (h₁.modUnit (by exact fun _ h => h))
    exact .ite h h₂.setChannel
theorem State.allWf.moreReads {s : State} (h : s.allWf) {c : Channel} {u : Placed} {xs : List Span} : (s.moreReads c u xs).allWf := by
  unfold State.moreReads
  dsimp only
  split
  · exact h
  · exact .ite h h
theorem State.allWf.landChunk {s : State} (h : s.allWf) {c : Channel} {o : MemOp} : (s.landChunk c o).allWf :=
  .ite h (.ite h (State.allWf.setChannel (State.allWf.postBytes (s := s.dropOp o.id) h)))
theorem State.allWf.dropOrphans {s : State} (h : s.allWf) {pcl ch : Nat} {mine : MemOp → Bool} : (s.dropOrphans pcl ch mine).allWf :=
  h.foldl fun _ _ ht => State.allWf.joinGwct ht
theorem Goes.of_start {s t : State} {r : Host.Outcome State Fault Refusal} (ht : s.allWf → t.allWf) (h : Goes t r) : Goes s r := by
  obtain ⟨v, hv, hk⟩ := h
  exact ⟨v, hv, fun hs => hk (ht hs)⟩
theorem execChunkLand_goes (pcl ch : Nat) (s : State) : Goes s (execChunkLand pcl ch s) := by
  unfold execChunkLand
  split
  · exact goes_next fun h => h.dropOrphans
  next c _ =>
  refine .of_start (t := s.dropOrphans pcl ch c.writing) (fun h => h.dropOrphans) ?_
  dsimp only
  generalize s.dropOrphans pcl ch c.writing = s
  split
  · exact goes_next fun h => h.closeChannel
  refine goes_ite (goes_same s) ?_
  split
  · exact goes_next fun h => h.sendFault.closeChannel
  split
  · exact goes_next fun h => .ite h h.landChunk
  split
  · exact goes_next fun h => h.moreReads
  · exact goes_next fun h => h.commitChunk
  · exact goes_next fun h => h
  · exact goes_next fun h => .ite h.xferDone h.commitChunk
  · exact goes_ite (goes_same s) (goes_ite (goes_next fun h => .ite h h.errorEvent) (goes_next fun h => h.xferDone))

/-! ### The tile instructions -/

theorem tileBody_keeps {f : Nat → Warp → List Nat → Thread → Bundle → State → Res} (hf : ∀ wi w ls t, BodyKeeps (f wi w ls t)) :
    BodyKeeps (tileBody f) := by
  intro b s
  unfold tileBody
  split
  · split
    · exact hf _ _ _ _ b s
    · trivial
  · trivial
theorem appendBody_keeps (i : Instr) (a : Append) : BodyKeeps (appendBody i a) := by
  refine tileBody_keeps fun wi w ls t b s => ?_
  dsimp only
  split
  · trivial
  · refine Res.keeps_ite trivial (Res.keeps_ite trivial ?_)
    split
    · next heq => exact Res.keeps_waits (makeRoom_keeps ..) heq
    · exact fun h => h.modWarp fun _ hx => memWf_appendNode hx _ _ _ _ _ _ _ _
theorem bodyTcfg_keeps (m : MNum) (g : GNum) : BodyKeeps (bodyTcfg m g) := by
  refine tileBody_keeps fun wi w ls t b s => ?_
  dsimp only
  split
  · trivial
  · trivial
  · split
    · next heq => exact Res.keeps_waits (forceReaders_keeps ..) heq
    · exact fun h => h.modWarp fun _ hx => memWf_eagerWrite hx _ fun _ _ => fresh_memWf
theorem State.allWf.beginTileLoad {s : State} (h : s.allWf) {b : Bundle} {wi m : Nat} {ls : List Nat} {ps : List Part} {tagged : Bool}
    {mask : Mask} : (s.beginTileLoad b wi m ls ps tagged mask).allWf := by
  refine State.allWf.modWarp h.addOp fun _ hx => ?_
  exact memWf_eagerWrite hx m fun _ _ => ⟨nil_wf, nil_wf, nil_wf, nil_wf⟩
theorem bodyTld_keeps (m : MNum) (n : ANum) (off pitch : GNum) : BodyKeeps (bodyTld m n off pitch) := by
  refine tileBody_keeps fun wi w ls t b s => ?_
  dsimp only
  split
  · trivial
  · split
    · trivial
    · refine Res.keeps_ite trivial ?_
      split
      · next heq => exact Res.keeps_waits (forceReaders_keeps ..) heq
      · exact fun h => h.beginTileLoad
theorem State.allWf.beginTileStore {s : State} (h : s.allWf) {b : Bundle} {wi : Nat} {ls : List Nat} {ps : List Part} {digest : Nat} :
    (s.beginTileStore b wi ls ps digest).allWf := State.allWf.storeL1 (.ite h.addOp (h.addOp.modWarp (by exact fun _ h => h)))
theorem bodyTst_keeps (m : MNum) (n : ANum) (off pitch : GNum) : BodyKeeps (bodyTst m n off pitch) := by
  refine tileBody_keeps fun wi w ls t b s => ?_
  dsimp only
  split
  · trivial
  · split
    · trivial
    · split
      · next heq => exact Res.keeps_waits (forceTile_keeps ..) heq
      · split
        · trivial
        · refine Res.keeps_ite trivial ?_
          split
          · next heq => exact Res.keeps_waits (forceLoops_keeps ..) heq
          · exact fun h => h.beginTileStore
theorem bodyTlds_keeps (m : MNum) (addr pitch : GNum) : BodyKeeps (bodyTlds m addr pitch) := by
  refine tileBody_keeps fun wi w ls t b s => ?_
  dsimp only
  split
  · trivial
  · split
    · trivial
    · refine Res.keeps_ite trivial ?_
      split
      · next heq => exact Res.keeps_waits (forceReaders_keeps ..) heq
      · exact fun h => h.beginTileLoad
theorem bodyTsts_keeps (m : MNum) (addr pitch : GNum) : BodyKeeps (bodyTsts m addr pitch) := by
  refine tileBody_keeps fun wi w ls t b s => ?_
  dsimp only
  split
  · trivial
  · split
    · trivial
    · split
      · next heq => exact Res.keeps_waits (forceTile_keeps ..) heq
      · exact Res.keeps_ite trivial fun h => h.beginTileStore
theorem bodyTeval_keeps (td : MNum) : BodyKeeps (bodyTeval td) := by
  refine tileBody_keeps fun wi w ls t b s => ?_
  exact Res.keeps_ite trivial (Res.keeps_ite id (Res.keeps_ite trivial fun h => h.askEval.modWarp (by exact fun _ h => h)))
theorem bodyTdrop_keeps (td : MNum) : BodyKeeps (bodyTdrop td) := by
  refine tileBody_keeps fun wi w ls t b s => ?_
  dsimp only
  refine Res.keeps_ite trivial ?_
  split
  · next heq => exact Res.keeps_waits (forceReaders_keeps ..) heq
  · exact fun h => h.modWarp fun _ hx => memWf_eagerWrite hx _ fun _ _ => fresh_memWf
theorem bodyTrd_keeps (d : GNum) (m : MNum) (idx : GNum) : BodyKeeps (bodyTrd d m idx) := by
  refine tileBody_keeps fun wi w ls t b s => ?_
  dsimp only
  split
  · trivial
  · split
    · trivial
    · split
      · next heq => exact Res.keeps_waits (forceTile_keeps ..) heq
      · exact fun h => h.pendColl
/-- A lane's write of an element or of a scale keeps the tile's memories in canonical form. -/
theorem tileWrite_memWf (t : TCfg) (sat isat : Bool) {y : Tile} (h : y.memWf) (v : Nat) (g : Word) : (tileWrite t sat isat y v g).memWf := by
  obtain ⟨hd, hs, hshd, hshs⟩ := h
  unfold tileWrite
  dsimp only
  split
  · exact ⟨hd, ite_wf (memSet_wf _ _ hs) (memWrite_wf _ _ hs), hshd, hshs⟩
  · exact ⟨memWrite_wf _ _ hd, hs, hshd, hshs⟩
theorem tileWrites_memWf (t : TCfg) (sat isat : Bool) {y : Tile} (h : y.memWf) (v : Thread → Nat) (g : Thread → Word) (ths : List Thread) :
    (ths.foldl (fun z th => tileWrite t sat isat z (v th) (g th)) y).memWf :=
  List.foldlRecOn (motive := Tile.memWf) _ _ h fun _ hz th _ => tileWrite_memWf t sat isat hz (v th) (g th)
theorem bodyTwr_keeps (m : MNum) (src idx : GNum) : BodyKeeps (bodyTwr m src idx) := by
  refine tileBody_keeps fun wi w ls t b s => ?_
  dsimp only
  split
  · trivial
  · split
    · trivial
    · split
      · next heq => exact Res.keeps_waits (forceTile_keeps ..) heq
      · split
        · next heq => exact Res.keeps_waits (forceReaders_keeps ..) heq
        · exact fun h => h.modWarp fun _ hx => memWf_eagerWrite hx _ fun _ hy =>
            have hz := tileWrites_memWf _ _ _ hy (fun th => (th.gr idx.toNat).val.toNat) (fun th => (th.gr src.toNat).val) _
            ⟨hz.1, hz.2.1, nil_wf, nil_wf⟩
theorem bodyTstat_keeps (d : GNum) (m : MNum) (sel : BitVec 3) : BodyKeeps (bodyTstat d m sel) := by
  refine tileBody_keeps fun wi w ls t b s => ?_
  extract_lets forced v t
  have hf : WaitsKeep s forced := by
    unfold forced
    split
    · split
      · next heq => exact ⟨by rintro _ ⟨⟩; exact (forceAll_keeps ..).keep _ heq⟩
      · split
        · exact waitsKeep_same
        · exact waitsKeep_none
    · exact forceTile_keeps ..
  clear_value forced
  split
  · exact hf.keep _ rfl
  · exact fun h => .ite (h.pendColl.modWarp (by exact fun _ h => h)) h.pendColl

theorem collBody_keeps {i : Instr} {f : Bundle → State → Res} (hf : collBody i = some f) : BodyKeeps f := by
  unfold collBody at hf
  split at hf <;> cases hf
  iterate 8 exact crossBody_keeps
  · exact bodyRegion_keeps _
  · exact bodyTcfg_keeps _ _
  · exact bodyTld_keeps _ _ _ _
  · exact bodyTst_keeps _ _ _ _
  · exact bodyTlds_keeps _ _ _
  · exact bodyTsts_keeps _ _ _
  iterate 11 exact appendBody_keeps _ _
  · exact bodyTeval_keeps _
  · exact bodyTdrop_keeps _
  · exact bodyTrd_keeps _ _ _
  · exact bodyTwr_keeps _ _ _
  · exact bodyTstat_keeps _ _ _
theorem execCollectiveExecute_goes (w : WarpId) (s : State) : Goes s (execCollectiveExecute w s) := by
  unfold execCollectiveExecute
  split
  · next f heq =>
    obtain ⟨a, -, ha⟩ := Option.bind_eq_some_iff.1 heq
    exact goes_next fun h => h.collective (collBody_keeps ha)
  · exact goes_same s

/-! ### Evaluations and tile loads that land -/

theorem State.allWf.evalFault {s : State} (h : s.allWf) {r : EvalReq} {code d e : Nat} : (s.evalFault r code d e).allWf := h.takeFault
theorem memWf_endEval {r : EvalReq} {w : Warp} (h : w.memWf) : (endEval r w).memWf := by
  unfold endEval
  refine memWf_dropGraph ?_
  split <;> exact h
/-- Tiles changed place by place, each keeping its memories. -/
theorem Warp.memWf.mapTiles {w : Warp} (h : w.memWf) {f : Tile × Nat → Tile} (hf : ∀ t i, t.memWf → (f (t, i)).memWf) :
    ∀ t ∈ w.tiles.zipIdx.map f, t.memWf := by
  intro t ht
  obtain ⟨⟨x, i⟩, hx, rfl⟩ := List.mem_map.1 ht
  exact hf x i (h x (List.fst_mem_of_mem_zipIdx hx))
theorem memWf_spread {w : Warp} (h : w.memWf) (tag : Mask) (v : Nat × BitVec 16) : (w.spread tag v).memWf := by
  refine h.mapTiles fun t i ht => ?_
  dsimp only
  split <;> exact ht
theorem State.allWf.sendLoop {s : State} (h : s.allWf) {r : EvalReq} {core : Nat} {u : Placed} {w : Warp} {n : Node} :
    (s.sendLoop r core u w n).allWf := h.addOp.modWarp fun _ hx => memWf_spread hx _ _
theorem execEvalStart_goes (core : Nat) (s : State) : Goes s (execEvalStart core s) := by
  unfold execEvalStart
  dsimp only
  split
  · split
    · split
      · exact goes_next fun h => State.allWf.modWarp h.modCore fun _ hx => memWf_endEval hx
      · refine goes_ite (goes_same s) ?_
        split
        · exact goes_next fun h => h.modCore.evalFault
        · exact goes_next fun h => State.allWf.foldl h.modCore fun _ _ ht => ht.sendLoop
    · exact goes_next fun h => h.modCore
  · exact goes_same s
theorem memWf_dropDead {w : Warp} (h : w.memWf) : w.dropDead.memWf := memWf_of_tiles h (tiles_dropFrom _ _)
theorem memWf_closeEval {w w' : Warp} (h : w.memWf) (h' : w'.memWf) (r : EvalReq) (cl : List Node) (reps : List Report) :
    (closeEval r cl w' reps w).memWf := by
  refine memWf_endEval (memWf_dropDead (h.mapTiles fun t i ht => ?_))
  dsimp only
  split
  · exact h'.tile i
  · exact ht
theorem State.allWf.warp? {s : State} (h : s.allWf) {id : WarpId} {w : Warp} (hw : s.warp? id = some w) : w.memWf := by
  unfold State.warp? at hw
  obtain ⟨g, hg, hw⟩ := Option.bind_eq_some_iff.1 hw
  obtain ⟨u, hu, hg⟩ := Option.bind_eq_some_iff.1 hg
  exact (h.unit? hu).2.2 g (List.mem_of_getElem? hg) w (List.mem_of_getElem? hw)
theorem State.allWf.closed {s t : State} (hs : s.allWf) (ht : t.allWf) {r : EvalReq} {w : Warp} (hw : s.warp? r.w = some w) {v : EvalEnv}
    {cl graph : List Node} {reassoc : Bool} {reps : List Report} :
    (t.modWarp r.w (closeEval r cl (evalClosure v w cl graph reassoc).1 reps)).allWf :=
  ht.modWarp fun _ hx => memWf_closeEval hx (evalClosure_memWf v (hs.warp? hw) cl graph reassoc) r cl reps
theorem execEvalComplete_goes (core : Nat) (s : State) : Goes s (execEvalComplete core s) := by
  unfold execEvalComplete
  split
  · exact goes_same s
  next r cl _ =>
  split
  · next u w hu hw =>
    refine goes_ite (goes_same s) ?_
    dsimp only
    have ha (h : s.allWf) : (List.foldl (fun s o => State.arrived s o) (s.modCore core fun c => { c with evalCur := none })
        (s.loopOps r)).allWf := State.allWf.foldl h.modCore fun _ _ ht => ht.arrived
    split
    · exact goes_next fun h => (ha h).evalFault
    · split
      · exact goes_next fun h => .ite (h.closed (ha h) hw).evalFault (h.closed (ha h) hw)
      · exact goes_next fun h => h.closed (ha h) hw
  · exact goes_next fun h => h.modCore
/-- Bytes written part by part keep a memory in canonical form. -/
theorem foldl_memWrite_wf {α : Type} (ps : List α) (a : α → Nat) (d : α → List Byte) :
    Memory.wf (ps.foldl (fun (m : Memory) p => memWrite m (a p) (d p)) []) := foldl_wf _ (fun _ _ h => memWrite_wf _ _ h) _ nil_wf
theorem memWf_landTile {w : Warp} (h : w.memWf) (o : MemOp) (m : Nat) : (landTile o m w).memWf := by
  refine h.setTile fun t ht => ?_
  split
  · exact ⟨foldl_memWrite_wf .., foldl_memWrite_wf .., foldl_memWrite_wf .., foldl_memWrite_wf ..⟩
  · exact ht
theorem execTileLoadLanded_goes (op : Nat) (s : State) : Goes s (execTileLoadLanded op s) := by
  unfold execTileLoadLanded
  split
  · exact goes_same s
  split
  · refine goes_ite (goes_same s) (goes_next fun h => State.allWf.arrived (h.sendFault.modWarp fun x hx => memWf_dropGraph ?_))
    show Warp.memWf (if _ then x else _)
    split
    · exact hx
    · exact memWf_landTile hx _ _
  · exact goes_same s

/-! ### The task instructions and their operations -/

theorem sendTask_keeps {kind : Nat → Warp → List Nat → OpKind} : BodyKeeps (sendTask kind) :=
  fun _ _ h => (State.allWf.retire (h.foldl fun _ _ ht => ht.newOp)).stay
theorem execJsub_goes (g : GNum) (n : ANum) (off : BitVec 10) (s : State) : Goes s (execJsub g n off s) := by
  refine issueStd_goes (fun b s => ?_) s
  dsimp only
  split
  · trivial
  · refine fun h => (State.allWf.retire (State.allWf.modUnit (h.foldl fun t x ht => ?_) (by exact fun _ h => h))).stay
    refine State.allWf.modWarp (s := t.newOp _) ht fun y hy => ?_
    show Warp.memWf (if _ then _ else _)
    split <;> exact hy
theorem gainBody_keeps (set : Bool) (i v : GNum) : BodyKeeps (gainBody set i v) := by
  intro b s
  unfold gainBody
  split
  · trivial
  · exact sendTask_keeps b s
theorem askLanes_keeps (d : GNum) (src : Thread → PendSrc) : BodyKeeps (askLanes d src) :=
  fun _ s h => (State.allWf.retire (State.allWf.foldl (s := { s with nextId := s.nextId + 1 }) h fun _ _ ht => ht.modWarp (by exact fun _ h => h))).stay
theorem execGainget_goes (d i : GNum) (s : State) : Goes s (execGainget d i s) := by
  refine issueStd_goes (fun b s => ?_) s
  split
  · trivial
  · exact askLanes_keeps _ _ b s
theorem execResadd_goes (v : GNum) (s : State) : Goes s (execResadd v s) := by
  refine issueStd_goes (fun b s => ?_) s
  split
  · trivial
  · exact sendTask_keeps b s
theorem execResget_goes (d : GNum) (k : BitVec 3) (s : State) : Goes s (execResget d k s) := by
  refine issueStd_goes (fun b s => ?_) s
  exact Res.keeps_ite (askLanes_keeps _ _ b s) trivial
theorem execOrdwait_goes (p : GNum) (s : State) : Goes s (execOrdwait p s) := by
  refine issueStd_goes (fun b s => ?_) s
  exact Res.keeps_ite (fun h => h.retire.stay) fun h => h.foldl fun _ _ ht => ht.modThread
theorem execOrdpost_goes (p : GNum) (s : State) : Goes s (execOrdpost p s) := by
  refine issueStd_goes (fun b s => ?_) s
  dsimp only
  split
  · trivial
  · exact sendTask_keeps b s
theorem State.allWf.modWork {s : State} (h : s.allWf) {id : Nat} {f : Work → Work} : (s.modWork id f).allWf := h
theorem State.allWf.popItem {s : State} (h : s.allWf) {o : MemOp} {k : OpKind} {more : Bool} : (s.popItem o k more).allWf := .ite h h
theorem State.allWf.takeEffect {s : State} (h : s.allWf) {o : MemOp} : (s.takeEffect o).allWf := by
  unfold State.takeEffect
  split
  · exact (State.allWf.popItem (s := State.modGain _ _ _ _) h).progress
  · exact h.modWork.popItem
  · exact h.modWork.popItem.progress
  · exact h
  · exact h
  · exact h
  · exact h
theorem State.allWf.applyUpdate {s : State} (h : s.allWf) {kind first : MemOp → Bool} {op : Nat} : (s.applyUpdate kind first op).allWf := by
  unfold State.applyUpdate
  split
  · exact .ite h.takeEffect h
  · exact h
theorem execGainUpdateApply_goes (op : Nat) (s : State) : Goes s (execGainUpdateApply op s) := goes_next fun h => h.applyUpdate
theorem execResidualUpdateApply_goes (op : Nat) (s : State) : Goes s (execResidualUpdateApply op s) := goes_next fun h => h.applyUpdate
theorem execOrdpostEffect_goes (op : Nat) (s : State) : Goes s (execOrdpostEffect op s) := by
  unfold execOrdpostEffect
  split
  · exact goes_next fun h => .ite h.takeEffect h
  · exact goes_same s

/-! ### The Lane engine's own events -/

theorem execFetchComplete_goes (unit addr : Nat) (s : State) : Goes s (execFetchComplete unit addr s) := by
  unfold execFetchComplete
  split
  · exact goes_same s
  next u _ =>
  have hf (x : Nat × Nat × Nat) (h : s.allWf) : (match u.waitingAt (BitVec.ofNat 72 addr) with
      | some (gi, wi, ls) => s.takeFault unit gi x.1 false (BitVec.ofNat 72 addr) [⟨wi, ls, x.2.1 % 2 ^ 64, x.2.2, []⟩]
      | none => s).allWf := by
    split
    · exact h.takeFault
    · exact h
  dsimp only
  split
  · exact goes_same s
  refine goes_ite (goes_same s) ?_
  split
  · exact goes_next (hf _)
  · split
    · exact goes_next fun h => h.cacheSpan.modUnit fun u hu => ⟨memWrite_wf _ _ hu.1, hu.2⟩
    · exact goes_same s
    · exact goes_next (hf _)
theorem execThreadFiling_goes (core port : Nat) (s : State) : Goes s (execThreadFiling core port s) := by
  unfold execThreadFiling
  split
  · exact goes_same s
  · exact goes_next fun h => State.allWf.fileNow h.modCore
theorem execBinAged_goes (core port slot : Nat) (s : State) : Goes s (execBinAged core port slot s) := by
  unfold execBinAged
  split
  · exact goes_same s
  · exact goes_next fun h => h.modCore
theorem State.allWf.advance {s : State} (h : s.allWf) {core port : Nat} {x : Slot} : (s.advance core port x).allWf := .ite h h.modCore
theorem State.allWf.noteIssue {s t : State} (h : t.allWf) {port : Nat} {b : Bundle} : (s.noteIssue t port b).allWf := by
  unfold State.noteIssue
  split
  · exact h
  · exact .ite h.modCore (State.allWf.modSlots h.modCore)
theorem State.allWf.limitFault {s : State} (h : s.allWf) {w : WarpId} {ls : List Nat} {code : Nat} : (s.limitFault w ls code).allWf := by
  unfold State.limitFault
  split
  · refine .ite h ?_
    split
    · exact .ite h.takeFault h
    · exact h
  · exact h
theorem execIdemDefer_goes (w : WarpId) (lane : Nat) (s : State) : Goes s (execIdemDefer w lane s) := goes_next fun h => h.limitFault
theorem execOrderStall_goes (w : WarpId) (s : State) : Goes s (execOrderStall w s) := by
  unfold execOrderStall
  split
  · exact goes_next fun h => .ite h.limitFault h
  · exact goes_same s
theorem execLaneWriteCompletion_goes (w : WarpId) (idx : Nat) (s : State) : Goes s (execLaneWriteCompletion w idx s) := by
  unfold execLaneWriteCompletion
  split
  · exact goes_ite (goes_same s) (goes_next fun h => h.modWarp (by exact fun _ h => h))
  · exact goes_same s
theorem memWf_nextTurn {u : Placed} (h : u.memWf) : u.nextTurn.memWf := by
  unfold Placed.nextTurn
  dsimp only
  split
  · split
    · split
      · exact Placed.memWf.modWgs (u := { u with turn := _, turnCount := _ }) h fun _ hg => hg.modWarp (by exact fun _ h => h)
      · exact h
    · exact h
  · exact h
theorem memWf_haltUnit {u : Placed} (h : u.memWf) : (haltUnit u).memWf :=
  Placed.memWf.mapWgs (u := { u with stopAt := _, stepTurn := _, dumps := _ }) h fun _ hg => hg.mapWarps (by exact fun _ h => h)
theorem State.allWf.stopDump {s : State} (h : s.allWf) {u : Placed} {kind wg warp : Nat} {pc : VAddr} {code : Nat} :
    (s.stopDump u kind wg warp pc code).allWf := by
  unfold State.stopDump
  split
  · exact h
  · exact h.capture
theorem State.allWf.takeDumps {s : State} (h : s.allWf) {u : Placed} {ds : List (Nat × Nat × Nat × VAddr × Nat)} :
    (s.takeDumps u ds).allWf := h.foldl fun _ _ ht => ht.stopDump
theorem execLeaseClockTick_goes (lag : ClockLag) (s : State) : Goes s (execLeaseClockTick lag s) := goes_next fun h => h

/-! ### Placement -/

/-- A state whose units all are in canonical form, its other memories being those of a state that is. -/
theorem State.allWf.of_units {s t : State} (h : s.allWf) (hm : t.memWf) (hu : ∀ u ∈ t.units, u.memWf) (hl : ∀ u ∈ t.left, u.memWf)
    (ha : t.amc.slots = s.amc.slots) : t.allWf := by
  refine ⟨hm, fun u hmem => ?_, ha ▸ h.2.2⟩
  rcases List.mem_append.1 hmem with hmem | hmem
  · exact hu u hmem
  · exact hl u hmem
theorem State.allWf.gone {s : State} (h : s.allWf) {u : Placed} (hu : u ∈ s.left) : u.memWf := h.2.1 u (List.mem_append_right _ hu)
theorem memWf_freshWarp (u : Placed) (job : Bool) (wg warp slot : Nat) : (freshWarp u job wg warp slot).memWf :=
  fun _ ht => (List.mem_replicate.1 ht).2 ▸ fresh_memWf
theorem memWf_freshWg (u : Placed) (job : Bool) (wg core : Nat) (slots : List Nat) : (freshWg u job wg core slots).memWf := by
  intro w hw
  obtain ⟨n, -, rfl⟩ := List.mem_map.1 hw
  exact memWf_freshWarp u job wg n _
theorem memWf_unitOf (s : State) (a : PlaceArgs) : (unitOf s a).memWf := by
  refine ⟨nil_wf, nil_wf, fun g hg => ?_⟩
  obtain ⟨⟨core, j⟩, -, rfl⟩ := List.mem_map.1 hg
  exact memWf_freshWg _ _ _ _ _
theorem State.allWf.loadCode {s : State} (h : s.allWf) {u : Placed} : (s.loadCode u).allWf := by
  unfold State.loadCode
  refine .ite h ?_
  split
  · exact h.modUnit fun u hu => ⟨memWrite_wf _ _ nil_wf, hu.2⟩
  · exact h
  · exact h.takeFault
theorem State.allWf.startSampler {s : State} (h : s.allWf) {ctx core : Nat} : (s.startSampler ctx core).allWf := .ite h h.modCore
theorem State.allWf.fileUnit {s : State} (h : s.allWf) {id : Nat} : (s.fileUnit id).allWf := by
  unfold State.fileUnit
  split
  · exact h
  · exact h.foldl fun _ _ ht => ht.file.startSampler
theorem State.allWf.commit {s : State} (h : s.allWf) {a : PlaceArgs} : (s.commit a).allWf := by
  refine State.allWf.fileUnit (State.allWf.loadCode (State.allWf.trace ?_))
  refine h.of_units h.1 (fun u hu => ?_) (fun u hu => ?_) rfl
  · rcases List.mem_append.1 hu with hu | hu
    · exact h.unit hu
    · exact List.mem_singleton.1 hu ▸ memWf_unitOf s a
  · exact h.gone (List.mem_of_mem_filter hu)

/-! ### Residency holds -/

def HoldRes.allWf : HoldRes → Prop
  | .done s _ | .missing s .. | .busy s _ | .invalid s _ | .poisoned s .. => s.allWf
theorem State.allWf.addHold {s : State} (h : s.allWf) {ctx ia log leaf : Nat} : (s.addHold ctx ia log leaf).allWf := h
theorem State.allWf.holdFrom {ctx fuel : Nat} {s : State} (h : s.allWf) (spans : List (Nat × Nat)) (held : List Nat) :
    (s.holdFrom ctx fuel spans held).allWf := by
  induction fuel generalizing s spans held with
  | zero => exact h
  | succ fuel ih =>
    match spans with
    | [] => exact h
    | (a, n) :: rest =>
      have next {t : State} (ht : t.allWf) (base log : Nat) (held : List Nat) :
          (if a + n ≤ base + 2 ^ log then t.holdFrom ctx fuel rest held
           else t.holdFrom ctx fuel ((base + 2 ^ log, a + n - (base + 2 ^ log)) :: rest) held).allWf := by
        split
        · exact ih ht _ _
        · exact ih ht _ _
      rw [State.holdFrom]
      split
      · exact ih h _ _
      dsimp only
      split
      · exact next h _ _ _
      split
      · exact next h.addHold _ _ _
      split
      · split
        · exact h
        · exact next h.cacheWalk.addHold _ _ _
      · exact h
      · exact h
      · exact h
theorem State.allWf.hold {s : State} (h : s.allWf) (ctx : Nat) (spans : List (Nat × Nat)) (held : List Nat) :
    (s.hold ctx spans held).allWf := h.holdFrom spans held
theorem State.allWf.release {s : State} (h : s.allWf) {ctx : Nat} {held : List Nat} : (s.release ctx held).allWf := h
theorem State.allWf.dropReq {s : State} (h : s.allWf) {work : Nat} {who : Option Nat} : (s.dropReq work who).allWf := by
  unfold State.dropReq
  split
  · exact h
  · exact h.release.modWork
theorem State.allWf.tookTurn {s : State} (h : s.allWf) {w : Work} : (s.tookTurn w).allWf := .ite h h

/-! ### The front end -/

theorem execTail_goes (q : BitVec 5) (v : Word) (s : State) : Goes s (execTail q v s) := goes_next fun h => h
theorem execReset_goes (q : BitVec 5) (s : State) : Goes s (execReset q s) := goes_next fun h => .ite h h
theorem State.allWf.failUnread {s : State} (h : s.allWf) {w : Work} : (s.failUnread w).allWf := by
  unfold State.failUnread
  split
  · exact h.foldl fun _ _ ht => ht.postTask.modWork
  · exact h
theorem State.allWf.addWork {s : State} (h : s.allWf) {w : Work} : (s.addWork w).allWf := by
  refine State.allWf.failUnread ?_
  exact h
theorem State.allWf.modQueue {s : State} (h : s.allWf) {q : Nat} {f : Queue → Queue} : (s.modQueue q f).allWf := h
theorem State.allWf.startPacket {s : State} (h : s.allWf) {q i : Nat} : (s.startPacket q i).allWf := by
  unfold State.startPacket
  dsimp only
  split
  · exact h
  refine .ite h ?_
  split
  · exact h
  · exact h.postTask.modQueue
  · exact h.addWork.cacheRecs.modQueue
theorem State.allWf.refuse {s : State} (h : s.allWf) {q : Nat} : (s.refuse q).allWf := h.postTask.modQueue
theorem State.allWf.bpHalt {s : State} (h : s.allWf) {n q : Nat} {op : Option Nat} {ctx : Nat} {addr : Option Nat} :
    (s.bpHalt n q op ctx addr).allWf := by
  refine State.allWf.trace ?_
  exact h
theorem State.allWf.takeId {s : State} (h : s.allWf) {given : Nat} : (s.takeId given).1.allWf := by
  unfold State.takeId
  split <;> exact h
theorem State.allWf.withPass {s : State} (h : s.allWf) {n : Nat} : ({ s with pass := n } : State).allWf := h
theorem State.allWf.accept {s : State} (h : s.allWf) {q type : Nat} : (s.accept q type).allWf := by
  unfold State.accept
  extract_lets qu ctx
  refine .ite h (.ite h.refuse ?_)
  split
  · exact h
  · exact h.refuse
  · rename_i passed _ s₁ _ v _
    have h₁ : s₁.allWf := .ite h h
    clear_value s₁
    refine .ite h.refuse (.ite h ?_)
    dsimp only
    split
    · exact h
    · exact h.refuse
    · split
      · exact h.bpHalt
      · refine State.allWf.cacheRecs (State.allWf.cacheSpan (State.allWf.startPacket ?_))
        split
        · exact h₁.takeId
        · exact h₁
theorem State.allWf.packetEvent {s : State} (h : s.allWf) {q type : Nat} : (s.packetEvent q type).allWf := by
  unfold State.packetEvent
  dsimp only
  split
  · exact h.startPacket
  · exact h.accept
theorem State.allWf.writeVA {s t : State} (h : s.allWf) {ctx va : Nat} {bs : List Byte} {c g : Nat} {bad : Option Nat}
    (hw : s.writeVA ctx va bs c = some (t, g, bad)) : t.allWf := by
  unfold State.writeVA at hw
  split at hw
  · cases hw
    exact h
  · split at hw
    · cases hw
    · cases hw
      exact h.writeSpan
theorem State.allWf.withWorks {s : State} (h : s.allWf) {ws : List Work} {cs : List Core} :
    ({ s with works := ws, cores := cs } : State).allWf := h
theorem execPacketCompletion_goes (q : BitVec 5) (s : State) : Goes s (execPacketCompletion q s) := by
  unfold execPacketCompletion
  dsimp only
  split
  · exact goes_same s
  next p _ _ =>
  refine goes_ite (goes_same s) ?_
  split
  · exact goes_same s
  next t _ bad heq =>
  refine goes_next fun h => ?_
  have ht : t.allWf := by
    split at heq
    · cases heq
      exact h
    · split at heq
      · cases heq
        exact h
      · exact h.writeVA heq
  refine State.allWf.withWorks (State.allWf.modQueue ?_)
  have hp : ∀ w v, (match (generalizing := false) bad with
      | some cause => t.postTask q.toNat (plainRecord 0x28 w v cause)
      | none => if p.sigaddr = 0 then t else t.progress none : State).allWf := by
    intro w v
    split
    · exact ht.postTask
    · exact .ite ht ht.progress
  exact .ite (hp _ _) (hp _ _)
theorem State.allWf.jsubWrite {s : State} (h : s.allWf) {o : MemOp} {dst lane : Nat} {id : BitVec 64} {last : Bool} :
    (s.jsubWrite o dst lane id last).allWf := by
  unfold State.jsubWrite
  refine .ite h (h.modWarp fun x hx => ?_)
  show Warp.memWf (if _ then _ else _)
  split <;> exact hx
theorem State.allWf.submit {s : State} (h : s.allWf) {o : MemOp} : (s.submit o).allWf := by
  unfold State.submit
  split
  · refine .ite h ?_
    extract_lets card passed addr
    refine .ite h ?_
    split
    · exact h.bpHalt
    · split
      next t id heq =>
      have ht : t.allWf := by
        split at heq
        · exact State.allWf.of_eq (congrArg Prod.fst heq) h.takeId
        · exact State.allWf.of_eq (congrArg Prod.fst heq) h
      extract_lets b _ t₁ t₂
      have h₁ : t₁.allWf := .ite ht ht
      have h₂ : t₂.allWf := h₁.popItem.jsubWrite
      clear_value b t₂
      split
      · exact h
      · exact h₂.postTask
      · exact h₂.addWork.cacheRecs
  · exact h
  · exact h
theorem execJobSubmit_goes (op : Nat) (s : State) : Goes s (execJobSubmit op s) := by
  unfold execJobSubmit
  refine goes_next fun h => ?_
  cases s.op? op
  · exact h
  · exact h.submit
theorem State.allWf.failTask {s : State} (h : s.allWf) {w : Work} {j : JobCfg} {i : Nat} {p : Option Nat} : (s.failTask w j i p).allWf :=
  h.postTask.dropReq.modWork
theorem State.allWf.failLaunch {s : State} (h : s.allWf) {w : Work} {p : Option Nat} : (s.failLaunch w p).allWf :=
  h.postTask.dropReq.modWork
theorem State.allWf.request {s : State} (h : s.allWf) {w : Work} {who : Option Nat} {spans : List (Nat × Nat)} {ok : State → State}
    {bad : Option Nat → State → State} (hok : ∀ t, t.allWf → (ok t).allWf) (hbad : ∀ p t, t.allWf → (bad p t).allWf) :
    (s.request w who spans ok bad).allWf := by
  unfold State.request
  dsimp only
  refine .ite h ?_
  have hh := h.hold w.ctx spans (w.req who).held
  split <;> rename_i heq <;> rw [heq] at hh
  · exact hok _ (State.allWf.modWork hh)
  · exact State.allWf.modWork hh
  · exact State.allWf.modWork (.ite hh (State.allWf.postTask hh))
  · exact hbad _ _ (State.allWf.modWork hh)
  · exact hbad _ _ (State.allWf.modWork hh)
theorem execResidencyHold_goes (work idx : Nat) (s : State) : Goes s (execResidencyHold work idx s) := by
  unfold execResidencyHold
  split
  · exact goes_same s
  split
  · exact goes_ite (goes_same s) (goes_next fun h => h.request (fun _ ht => ht.modWork) fun _ _ ht => ht.failLaunch)
  · split
    · exact goes_same s
    · exact goes_ite (goes_same s) (goes_next fun h => h.request (fun _ ht => ht.modWork.cacheRecs) fun _ _ ht => ht.failTask)
theorem State.allWf.commitAt {s t : State} (h : s.allWf) {w : Work} {n pcl : Nat} {again : Bool} (hc : s.commitAt w n pcl again = some t) :
    t.allWf := by
  unfold State.commitAt at hc
  split at hc
  · split at hc
    · cases hc
    · cases hc
      exact h.commit.modWork.cacheRecs
  · cases hc
theorem State.allWf.failRest {s : State} (h : s.allWf) {w : Work} {p : Option Nat} : (s.failRest w p).allWf := h.postTask.modWork
theorem execClusterPlace_goes (work : Nat) (s : State) : Goes s (execClusterPlace work s) := by
  unfold execClusterPlace
  split
  · exact goes_same s
  split
  · refine goes_ite (goes_same s) ?_
    split
    · exact goes_next fun h => h.failRest
    · next heq => exact goes_next fun h => State.allWf.tookTurn (h.commitAt heq)
    · exact goes_same s
  · exact goes_same s
theorem State.allWf.placeWave {s t : State} (h : s.allWf) {w : Work} {a : Nat} {rs : List Nat} (hp : s.placeWave w a rs = some t) :
    t.allWf := by
  induction rs generalizing s with
  | nil => exact Option.some.inj hp ▸ h
  | cons r rs ih =>
    obtain ⟨x, hx, hp⟩ := Option.bind_eq_some_iff.1 hp
    obtain ⟨pcl, -, hx⟩ := Option.bind_eq_some_iff.1 hx
    exact ih (h.commitAt hx) hp
theorem execWavePlace_goes (work : Nat) (s : State) : Goes s (execWavePlace work s) := by
  unfold execWavePlace
  split
  · exact goes_same s
  split
  · exact goes_same s
  refine goes_ite (goes_same s) ?_
  split
  · exact goes_next fun h => h.failRest
  · next heq => exact goes_next fun h => (h.placeWave heq).tookTurn.modWork
  · exact goes_same s

/-! ### Jobs -/

theorem execChunkDeal_goes (work pcl : Nat) (s : State) : Goes s (execChunkDeal work pcl s) := by
  unfold execChunkDeal
  split
  · exact goes_same s
  split
  · exact goes_ite (goes_same s) (goes_next fun h => h.modWork)
  · exact goes_same s
theorem State.allWf.dispatchTask {s t : State} (h : s.allWf) {w : Work} {j : JobCfg} {i pcl : Nat} {again : Bool}
    (hd : s.dispatchTask w j i pcl again = some t) : t.allWf := by
  unfold State.dispatchTask at hd
  split at hd
  · split at hd
    · cases hd
    · obtain ⟨x, -, rfl⟩ := Option.map_eq_some_iff.1 hd
      exact h.commit.modWork.cacheRecs
  · cases hd
theorem execDequePop_goes (work pcl : Nat) (s : State) : Goes s (execDequePop work pcl s) := by
  unfold execDequePop
  split
  · exact goes_same s
  split
  · refine goes_ite (goes_same s) (goes_ite (goes_next fun h => h.failTask) (goes_ite (goes_same s) ?_))
    split
    · next heq => exact goes_next fun h => (h.dispatchTask heq).modWork
    · exact goes_same s
  · exact goes_same s
theorem execDequeSteal_goes (work pcl : Nat) (s : State) : Goes s (execDequeSteal work pcl s) := by
  unfold execDequeSteal
  split
  · exact goes_same s
  split
  · refine goes_ite (goes_same s) ?_
    dsimp only
    split
    · exact goes_next fun h => h.modWork
    · exact goes_same s
  · exact goes_same s
theorem State.allWf.gainDispatch {s : State} (h : s.allWf) {w : Work} {j : JobCfg} {i die : Nat} : (s.gainDispatch w j i die).allWf := by
  unfold State.gainDispatch
  refine .ite h.failTask (.ite h ?_)
  split
  · next heq =>
    obtain ⟨pcl, -, hd⟩ := Option.bind_eq_some_iff.1 heq
    exact (h.dispatchTask hd).modWork
  · exact h
theorem execSettDispatch_goes (work die : Nat) (s : State) : Goes s (execSettDispatch work die s) := by
  unfold execSettDispatch
  split
  · exact goes_same s
  split
  · exact goes_same s
  dsimp only
  split
  · exact goes_ite (goes_next fun h => h.gainDispatch) (goes_same s)
  · exact goes_same s
theorem execGainSteal_goes (work die : Nat) (s : State) : Goes s (execGainSteal work die s) := by
  unfold execGainSteal
  split
  · exact goes_same s
  split
  · refine goes_ite (goes_same s) ?_
    split
    · exact goes_next fun h => h.gainDispatch
    · exact goes_same s
  · exact goes_same s
theorem State.allWf.clearUnit {s : State} (h : s.allWf) {id : Nat} : (s.clearUnit id).allWf :=
  h.of_units h.1 (fun _ hu => h.unit (List.mem_of_mem_filter hu)) (fun _ hu => h.gone hu) rfl
theorem State.allWf.notePreempted {s : State} (h : s.allWf) {c : Nat} : (s.notePreempted c).allWf := .ite h h
theorem State.allWf.leaveCores {s : State} (h : s.allWf) {w : Work} {n : Nat} {u : Placed} (hu : u.memWf) {f : Bool} {d : Nat} :
    (s.leaveCores w n u f d).allWf := by
  unfold State.leaveCores
  extract_lets s₁
  have h₁ : s₁.allWf := (State.allWf.clearUnit (s := s.detachOps u) h).modWork
  refine State.allWf.notePreempted ?_
  refine h₁.of_units h₁.1 (fun _ hv => h₁.unit hv) (fun v hv => ?_) rfl
  rcases List.mem_append.1 hv with hv | hv
  · exact h₁.gone hv
  · exact List.mem_singleton.1 hv ▸ hu
theorem State.allWf.finishUnit {s : State} (h : s.allWf) {w : Work} {n : Nat} {u : Placed} (hu : u.memWf) : (s.finishUnit w n u).allWf :=
  .ite h.writeBackAll (h.leaveCores hu)
theorem State.allWf.deferred {s : State} (h : s.allWf) {w : Work} {n unit : Nat} {keep : Bool} : (s.deferred w n unit keep).allWf := by
  unfold State.deferred
  refine State.allWf.withOps (.ite h (h.foldl fun t o ht => ?_))
  split
  · exact ht.foldl fun _ _ hx => State.allWf.modWork hx
  · exact ht.modWork
  · exact ht.modWork
  · exact ht
theorem State.allWf.publish {s : State} (h : s.allWf) {w : Work} {n unit : Nat} {f : Bool} : (s.publish w n unit f).allWf := by
  unfold State.publish
  extract_lets s₁ s₂ s₃ s₄
  have h₁ : s₁.allWf := .ite h.deferred h
  have h₄ : s₄.allWf := h₁.trace.progress.dropReq.modWork
  exact .ite h₄.dropReq h₄
theorem State.allWf.digestFault {s : State} (h : s.allWf) {w : Work} {n unit code d e : Nat} : (s.digestFault w n unit code d e).allWf :=
  h.postTask.publish
theorem State.allWf.publishAt {s : State} (h : s.allWf) {w : Work} {n unit : Nat} {f : Bool} {d : Nat} {again : Bool} {g : Nat} :
    (s.publishAt w n unit f d again g).allWf :=
  .ite h (.ite h.publish (.ite (State.allWf.publish (h.writePhys _ _)) (.ite h.deferred.digestFault (.ite h.publish
    (.ite h.deferred.digestFault h.deferred.modWork)))))
theorem execRetirementPublish_goes (work idx : Nat) (s : State) : Goes s (execRetirementPublish work idx s) := by
  unfold execRetirementPublish
  split
  · exact goes_same s
  split
  · split
    · next heq =>
      exact goes_next fun h => .ite (h.finishUnit (h.unit (List.mem_of_mem_filter (List.mem_of_find?_eq_some heq)))) h
    · exact goes_same s
  · exact goes_next fun h => h.publishAt
  · exact goes_same s
theorem execVerifyRerun_goes (work idx : Nat) (s : State) : Goes s (execVerifyRerun work idx s) := by
  unfold execVerifyRerun
  split
  · exact goes_same s
  refine goes_ite (goes_same s) ?_
  split
  · refine goes_ite (goes_same s) ?_
    split
    · exact goes_next fun h => h.failRest
    · next heq =>
      obtain ⟨pcl, -, hp⟩ := Option.bind_eq_some_iff.1 heq
      obtain ⟨x, hx, hy⟩ := Option.map_eq_some_iff.1 hp
      cases hy
      exact goes_next fun h => State.allWf.tookTurn (h.commitAt hx)
    · exact goes_same s
  · refine goes_ite (goes_next fun h => h.failTask) ?_
    split
    · next heq =>
      obtain ⟨pcl, -, hd⟩ := Option.bind_eq_some_iff.1 heq
      exact goes_next fun h => h.dispatchTask hd
    · exact goes_same s
theorem State.allWf.writeFields {s t : State} (h : s.allWf) {w : Work} {c : Nat} {fs : List (Nat × List Byte)}
    (hw : s.writeFields w c fs = some t) : t.allWf := by
  induction fs generalizing s with
  | nil => exact Option.some.inj hw ▸ h
  | cons f fs ih =>
    obtain ⟨a, bs⟩ := f
    rw [State.writeFields] at hw
    split at hw
    · cases hw
    · next heq =>
      have hv := h.writeVA heq
      exact ih (.ite hv.modWork.progress hv.modWork) hw
theorem execJobEnd_goes (work : Nat) (s : State) : Goes s (execJobEnd work s) := by
  unfold execJobEnd
  split
  · exact goes_same s
  split
  · refine goes_ite (goes_same s) (goes_ite ?_ (goes_ite ?_ (goes_ite (goes_same s) ?_)))
    · split
      · next heq => exact goes_next fun h => (h.writeFields heq).modWork
      · exact goes_same s
    · split
      · next t heq =>
        refine goes_next fun h => State.allWf.modWork ?_
        split
        · exact (h.writeFields heq).postTask
        · exact h.writeFields heq
      · exact goes_same s
    · exact goes_next fun h => .ite (h.foldl fun _ _ ht => ht.dropReq) (State.allWf.modWork (h.foldl fun _ _ ht => ht.dropReq))
  · exact goes_same s

/-! ### Pre-emption, saving and restoring -/

/-- A property of every element of a list, kept by a change of each of them in its place. -/
theorem forall_zipIdx_map {α : Type} {P : α → Prop} {xs : List α} {f : α × Nat → α} (h : ∀ x ∈ xs, P x)
    (hf : ∀ x i, P x → P (f (x, i))) : ∀ y ∈ xs.zipIdx.map f, P y := by
  intro y hy
  obtain ⟨⟨x, i⟩, hx, rfl⟩ := List.mem_map.1 hy
  exact hf x i (h x (List.fst_mem_of_mem_zipIdx hx))
/-- The warps of a unit changed in their places, each keeping its memories. -/
theorem Placed.memWf.mapWarps {u : Placed} (h : u.memWf) {f : Nat → Nat → Warp → Warp}
    (hf : ∀ gi wi w, w.memWf → (f gi wi w).memWf) :
    ∀ g ∈ u.wgs.zipIdx.map fun (g, gi) => ({ g with warps := g.warps.zipIdx.map fun (w, wi) => f gi wi w } : Workgroup), g.memWf :=
  forall_zipIdx_map (P := Workgroup.memWf) h.2.2 fun _ gi hg => forall_zipIdx_map hg fun w wi hw => hf gi wi w hw
theorem State.allWf.askPreempt {s : State} (h : s.allWf) {p : Placed → Bool} : (s.askPreempt p).allWf :=
  h.mapUnits fun u hu => by
    split <;> exact hu
theorem execPreempt_goes (c : BitVec 8) (s : State) : Goes s (execPreempt c s) :=
  goes_next fun h => State.allWf.notePreempted (State.allWf.askPreempt (s := s.modCtx _ _) h)
theorem execResume_goes (c : BitVec 8) (s : State) : Goes s (execResume c s) := goes_next fun h => h
theorem execRetry_goes (c : BitVec 8) (s : State) : Goes s (execRetry c s) := goes_next fun h => h
theorem execInval_goes (c : BitVec 8) (s : State) : Goes s (execInval c s) := goes_next fun h => h
theorem execInvalidationDone_goes (c : BitVec 8) (s : State) : Goes s (execInvalidationDone c s) := by
  unfold execInvalidationDone
  split
  · exact goes_same s
  · exact goes_next fun h => h
theorem State.allWf.emptyBins {s : State} (h : s.allWf) {id : Nat} : (s.emptyBins id).allWf := h
theorem State.allWf.stopUnit {s : State} (h : s.allWf) {u : Placed} : (s.stopUnit u).allWf := by
  refine State.allWf.emptyBins (State.allWf.withOps (h.modUnit fun v hv => ?_))
  exact ⟨hv.1, hv.2.1, hv.mapWarps (f := s.stopWarp v) fun _ _ _ hw => hw⟩
theorem State.allWf.detachOps {s : State} (h : s.allWf) {u : Placed} : (s.detachOps u).allWf := h
theorem State.allWf.modCtx {s : State} (h : s.allWf) {c : Nat} {f : Ctx → Ctx} : (s.modCtx c f).allWf := h
theorem State.allWf.discard {s : State} (h : s.allWf) {u : Placed} (hu : u.memWf) {r : Record} : (s.discard u r).allWf := by
  unfold State.discard
  dsimp only
  split
  · exact h.postTask.leaveCores hu
  · exact h.postTask.detachOps.clearUnit.notePreempted
theorem State.allWf.saveFault {s : State} (h : s.allWf) {u : Placed} (hu : u.memWf) : (s.saveFault u).allWf := h.modCtx.discard hu
theorem memWf_savedWarp (u : Placed) (job : Bool) (gi wi : Nat) (w : Warp) : (savedWarp u job gi wi w).memWf :=
  memWf_freshWarp u job gi wi w.slot
theorem State.allWf.withCtr {s : State} (h : s.allWf) {n : Nat} : ({ s with freeCtr := n } : State).allWf := h
theorem State.allWf.withCores {s : State} (h : s.allWf) {cs : List Core} : ({ s with cores := cs } : State).allWf := h
theorem State.allWf.saveUnit {s : State} (h : s.allWf) {u : Placed} (hu : u.memWf) {ok : Bool} : (s.saveUnit u ok).allWf := by
  refine .ite (h.saveFault hu) (State.allWf.notePreempted (State.allWf.withCores (State.allWf.modUnit ?_ fun v hv => ?_)))
  · exact State.allWf.withCtr h.detachOps.slotWrite
  · exact ⟨hv.1, hv.2.1, hv.mapWarps (f := fun gi wi w => savedWarp v _ gi wi w) fun gi wi w _ => memWf_savedWarp v _ gi wi w⟩
theorem State.allWf.saveStopped {s : State} (h : s.allWf) {u : Placed} (hu : u.memWf) {ok : Bool} : (s.saveStopped u ok).allWf :=
  .ite (h.modUnit (by exact fun _ h => h)) (.ite h.writeBackAll (h.saveUnit hu))
theorem execPreemptionSave_goes (unit : Nat) (ok : Bool) (s : State) : Goes s (execPreemptionSave unit ok s) := by
  unfold execPreemptionSave
  split
  · exact goes_same s
  next u hu =>
  exact goes_ite (goes_ite (goes_next fun h => h.modUnit (by exact fun _ h => h)) (goes_next fun h => .ite (h.foldl fun _ _ ht => ht.stopUnit) h))
    (goes_next fun h => .ite (h.saveStopped (h.unit? hu)) h)
theorem execSwapOut_goes (unit : Nat) (s : State) : Goes s (execSwapOut unit s) := by
  unfold execSwapOut
  split
  · exact goes_same s
  · exact goes_ite (goes_next fun h => h.modUnit (by exact fun _ h => h)) (goes_same s)
/-- Elements put at some places of a list. -/
theorem forall_putAll {α : Type} {P : α → Prop} {f : Nat → α} {ns : List Nat} {xs : List α} (h : ∀ x ∈ xs, P x) (hf : ∀ n, P (f n)) :
    ∀ y ∈ putAll f ns xs, P y :=
  List.foldlRecOn (motive := fun ys : List α => ∀ y ∈ ys, P y) ns _ h fun _ hys n _ => forall_modAt hys fun _ _ => hf n
theorem loadBytes_wf (bs : List Byte) : Memory.wf (loadBytes bs) := memWrite_wf _ _ nil_wf
theorem memWf_slotTile (s : State) (u : Placed) (o n : Nat) : (s.slotTile u o n).memWf := by
  unfold State.slotTile
  simp only [Tile.memWf]
  refine ⟨?_, ?_, ?_, ?_⟩ <;> generalize s.slotRead u _ _ = bs <;> exact loadBytes_wf bs
theorem memWf_loadWarp (s : State) (u : Placed) (job : Bool) (gi wi : Nat) {w : Warp} (h : w.memWf) : (s.loadWarp u job gi wi w).memWf := by
  unfold State.loadWarp
  dsimp only
  split
  · exact h
  split
  · exact memWf_freshWarp u job gi wi w.slot
  · exact forall_putAll (memWf_freshWarp u job gi wi w.slot) fun n => memWf_slotTile s u _ n
theorem memWf_loadUnit (s : State) {u : Placed} (h : u.memWf) : (s.loadUnit u).memWf :=
  ⟨h.1, loadBytes_wf _, h.mapWarps (f := s.loadWarp u _) fun gi wi _ hw => memWf_loadWarp s u _ gi wi hw⟩
theorem memWf_seatWarps {ws : List Warp} (h : ∀ w ∈ ws, w.memWf) (ks : List Nat) : ∀ w ∈ seatWarps ws ks, w.memWf := by
  induction ws generalizing ks with
  | nil => exact h
  | cons w ws ih =>
    obtain ⟨hw, hws⟩ := List.forall_mem_cons.1 h
    unfold seatWarps
    split
    · exact List.forall_mem_cons.2 ⟨hw, ih hws _⟩
    · split
      · exact List.forall_mem_cons.2 ⟨hw, ih hws _⟩
      · exact List.forall_mem_cons.2 ⟨hw, ih hws _⟩
theorem memWf_seatWgs (s : State) {gs : List Workgroup} (h : ∀ g ∈ gs, g.memWf) (cs : List Nat) : ∀ g ∈ s.seatWgs gs cs, g.memWf := by
  induction gs generalizing cs with
  | nil => exact h
  | cons g gs ih =>
    obtain ⟨hg, hgs⟩ := List.forall_mem_cons.1 h
    have hw : ∀ ks, ∀ w ∈ seatWarps g.warps ks, w.memWf := memWf_seatWarps hg
    unfold State.seatWgs
    split
    · exact List.forall_mem_cons.2 ⟨hw _, ih hgs _⟩
    · split
      · exact List.forall_mem_cons.2 ⟨hg, ih hgs _⟩
      · exact List.forall_mem_cons.2 ⟨hw _, ih hgs _⟩
theorem memWf_firstTurn {u : Placed} (h : u.memWf) : u.firstTurn.memWf := by
  unfold Placed.firstTurn
  split
  · split
    · exact Placed.memWf.modWgs (u := { u with turnCount := _ }) h fun _ hg => hg.modWarp (by exact fun _ h => h)
    · exact h
  · exact h
theorem memWf_seated (s : State) {u : Placed} (h : u.memWf) (cores : List Nat) (pcl : Nat) (ws : List Window)
    (arg : Option (Nat × Nat × Space × Nat)) : (s.seated u cores pcl ws arg).memWf :=
  have hv := memWf_loadUnit s h
  ⟨hv.1, hv.2.1, memWf_seatWgs s hv.2.2 cores⟩
theorem Goes.keeps {s t : State} {r : Host.Outcome State Fault Refusal} (h : Goes s r) (hr : r = .next t) (hs : s.allWf) : t.allWf := by
  obtain ⟨v, hv, hk⟩ := h
  cases hv.symm.trans hr
  exact hk hs
theorem State.allWf.armNow {s : State} (h : s.allWf) {id : Nat} : (s.armNow id).allWf := by
  unfold State.armNow
  split
  · refine h.foldl fun t k ht => ?_
    split
    · next heq =>
      have hm := (execMonitorArm_goes id k false t).keeps heq ht
      split
      · next heq => exact (execWaitcmpPoll_goes id k _).keeps heq hm
      · exact hm
    · exact ht
  · exact h
theorem memWf_unpark {w : Warp} (h : w.memWf) (ls : List Nat) : (w.unpark ls).memWf := h
theorem State.allWf.armParked {s : State} (h : s.allWf) {id : Nat} : (s.armParked id).allWf := by
  unfold State.armParked
  split
  · exact h
  refine .ite h (State.allWf.foldl (h.foldl fun _ _ ht => ht.armNow) fun t x ht => ?_)
  dsimp only
  split
  · split
    · exact (ht.sendWaitcmp.modWarp (by exact fun _ h => h)).armNow
    · exact .ite ht (ht.modWarp fun _ hw => memWf_unpark hw _)
  · exact ht
theorem State.allWf.armUnit {s : State} (h : s.allWf) {id : Nat} : (s.armUnit id).allWf := .ite (h.armParked.modUnit (by exact fun _ h => h)) h.armParked
theorem State.allWf.restoreAt {s : State} (h : s.allWf) {u : Placed} (hu : u.memWf) {pcl : Nat} {ws : List Window}
    {arg : Option (Nat × Nat × Space × Nat)} : (s.restoreAt u pcl ws arg).allWf := by
  unfold State.restoreAt
  extract_lets cores v s₁ s₂ s₃ s₄ s₅
  have hv : v.memWf := memWf_firstTurn (memWf_seated s hu _ _ _ _)
  have h₁ : s₁.allWf := h.of_units h.1 (fun _ hx => h.unit hx) (fun _ hx => h.gone (List.mem_of_mem_filter hx)) rfl
  have h₄ : s₄.allWf := (State.allWf.loadCode (h₁.modUnit fun _ _ => hv)).trace.modCtx
  have h₅ : s₅.allWf := by
    unfold s₅
    split
    · exact h₄.cacheRecs
    · exact h₄
  exact h₅.fileUnit.armUnit
theorem State.allWf.restoreOr {s : State} (h : s.allWf) {u : Placed} (hu : u.memWf) {w : Work} {ok : Bool}
    {go : List Window → Option (Nat × Nat × Space × Nat) → State} (hgo : ∀ ws arg, (go ws arg).allWf) : (s.restoreOr u w ok go).allWf := by
  unfold State.restoreOr
  refine .ite h (.ite (h.saveFault hu) ?_)
  split
  · exact hgo _ _
  · split
    · exact h.discard hu
    · exact h.discard hu
theorem State.allWf.restoreWave {s t : State} (h : s.allWf) {w : Work} {a : Nat} {us : List Placed} (hus : ∀ u ∈ us, u.memWf)
    (hr : s.restoreWave w a us = some t) : t.allWf := by
  induction us generalizing s with
  | nil => exact Option.some.inj hr ▸ h
  | cons u us ih =>
    obtain ⟨hu, hus⟩ := List.forall_mem_cons.1 hus
    rw [State.restoreWave] at hr
    split at hr
    · obtain ⟨pcl, -, hr⟩ := Option.bind_eq_some_iff.1 hr
      exact ih (h.restoreAt hu) hus hr
    · cases hr
theorem State.allWf.withLast {s : State} (h : s.allWf) {p : Option Nat} : ({ s with lastPcl := p } : State).allWf := h
theorem execClusterRestore_goes (unit : Nat) (ok : Bool) (s : State) : Goes s (execClusterRestore unit ok s) := by
  unfold execClusterRestore
  split
  · next u w hu _ =>
    refine goes_ite (goes_same s) (goes_next fun h => h.restoreOr (h.unit? hu) fun ws arg => ?_)
    have hus : ∀ v ∈ w.unitsOf s, v.memWf := fun v hv => h.unit (List.mem_of_mem_filter hv)
    refine .ite (.ite ?_ (.ite ?_ h)) ?_
    · exact List.foldlRecOn (motive := State.allWf) _ _ h fun _ ht v hv => ht.saveFault (hus v (List.mem_of_mem_filter hv))
    · cases hr : s.restoreWave w (w.waveA.getD 1) (w.unitsOf s)
      · exact h
      · exact (h.restoreWave hus hr).tookTurn
    · split
      · exact State.allWf.withLast (State.allWf.tookTurn (h.restoreAt (h.unit? hu)))
      · exact h
  · exact goes_same s
theorem execPriorityPreempt_goes (work : Nat) (s : State) : Goes s (execPriorityPreempt work s) := by
  unfold execPriorityPreempt
  split
  · exact goes_same s
  refine goes_ite (goes_same s) ?_
  split
  · exact goes_next fun h => h.askPreempt
  · exact goes_same s
theorem execDetTurn_goes (unit : Nat) (s : State) : Goes s (execDetTurn unit s) := by
  unfold execDetTurn
  split
  · exact goes_same s
  refine goes_ite (goes_next fun h => .ite h.armUnit h) ?_
  split
  · exact goes_same s
  · exact goes_ite (goes_same s) (goes_next fun h => .ite
      (State.allWf.takeDumps (State.allWf.modUnit (h.modUnit fun _ => memWf_nextTurn) fun _ => memWf_haltUnit))
      (h.modUnit fun _ => memWf_nextTurn))

/-! ### The host, peers and migrations -/

theorem State.allWf.hdmAnswer {s : State} (h : s.allWf) {hpa : Nat} {bs : List Byte} {v : Nat} : (s.hdmAnswer hpa bs v).allWf := .ite h h
theorem State.allWf.hdmPoison {s : State} (h : s.allWf) {hpa : Nat} : (s.hdmPoison hpa).allWf := h
theorem State.allWf.writeSpan_fst {s t : State} (h : s.allWf) {ctx : Nat} {sp : Space} {a : Nat} {bs : List Byte} {c g : Nat}
    {bad : Option (Nat × Nat × Nat)} (hw : s.writeSpan ctx sp a bs c = (t, g, bad)) : t.allWf := .of_eq (congrArg Prod.fst hw) h.writeSpan
theorem execHdmRead_goes (hpa n : Nat) (keep : Bool) (s : State) : Goes s (execHdmRead hpa n keep s) := by
  unfold execHdmRead
  split
  · exact goes_same s
  split
  · exact goes_same s
  · exact goes_next fun h => h
  · refine goes_next fun h => State.allWf.cacheSpan (State.allWf.hdmAnswer ?_)
    exact .ite h h
theorem execHdmWrite_goes (hpa : Nat) (data : List Byte) (s : State) : Goes s (execHdmWrite hpa data s) := by
  unfold execHdmWrite
  split
  · exact goes_same s
  refine goes_ite (goes_same s) ?_
  split
  next heq =>
  have hw (h : s.allWf) := (h.writeSpan_fst heq).progress (p := none)
  exact goes_next fun h => .ite (hw h).hdmPoison (hw h).hdmAnswer
theorem execBackInvalidationResponse_goes (line : Nat) (s : State) : Goes s (execBackInvalidationResponse line s) :=
  goes_ite (goes_next fun h => h) (goes_same s)
theorem State.allWf.peerAnswer {s : State} (h : s.allWf) {peer : Nat} {bs : List Byte} {err : Bool} : (s.peerAnswer peer bs err).allWf := h
theorem State.allWf.peerAtomic {s : State} (h : s.allWf) {peer ctx a n : Nat} {f : List Byte → List Byte} :
    (s.peerAtomic peer ctx a n f).allWf := by
  unfold State.peerAtomic
  split
  · exact h
  · exact h
  · refine .ite h ?_
    split
    next heq =>
    have hw := h.writeSpan_fst heq
    exact State.allWf.cacheSpan (State.allWf.peerAnswer (.ite hw hw.progress))
theorem execPeerRequest_goes (peer : Nat) (r : PeerReq) (s : State) : Goes s (execPeerRequest peer r s) := by
  unfold execPeerRequest
  refine goes_ite (goes_same s) ?_
  cases r with
  | read ctx a n =>
    dsimp only
    split
    · exact goes_same s
    · exact goes_next fun h => h
    · exact goes_next fun h => h.peerAnswer.cacheSpan
  | write ctx a data =>
    refine goes_ite (goes_same s) ?_
    split
    next heq => exact goes_next fun h => (h.writeSpan_fst heq).progress.peerAnswer
  | atomic ctx a op data => exact goes_next fun h => h.peerAtomic
  | cas ctx a e n => exact goes_next fun h => h.peerAtomic
theorem State.allWf.uncache {s : State} (h : s.allWf) {ctx base n : Nat} : ({ s with home := s.home.uncache ctx base n } : State).allWf := h
theorem State.allWf.writeLeaf {s : State} (h : s.allWf) (level slot : Nat) (p : Page) (leaf : Nat) :
    ({ s with home := writeLeaf s.home level slot p leaf } : State).allWf :=
  List.foldlRecOn (motive := fun m : Home => ({ s with home := m } : State).allWf) _ _ h fun m hm _ _ =>
    State.allWf.writePhys (s := { s with home := m }) hm _ _
theorem State.allWf.moveFrame {s : State} (h : s.allWf) (src dst n : Nat) : ({ s with home := moveFrame s.home src dst n } : State).allWf :=
  ⟨⟨memWrite_wf _ _ h.1.1, h.1.2⟩, h.2⟩
theorem State.allWf.walkFault {s : State} (h : s.allWf) {ctx ia code level : Nat} : (s.walkFault ctx ia code level).allWf := by
  unfold State.walkFault
  split
  · exact h.postTask
  · exact h
theorem execPageMigration_goes (ctx ia frame : Nat) (s : State) : Goes s (execPageMigration ctx ia frame s) := by
  unfold execPageMigration
  refine goes_ite (goes_same s) ?_
  split
  · exact goes_same s
  · exact goes_next fun h => h.walkFault
  · refine goes_ite (goes_same s) (goes_ite (goes_next fun h => (h.writeLeaf _ _ _ _).uncache) (goes_next fun h => State.allWf.flushLate ?_))
    exact ((h.writeLeaf _ _ _ _).moveFrame _ _ _).uncache

/-! ### The Watch engine -/

theorem memWf_stopThreads {g : Workgroup} (h : g.memWf) : (stopThreads g).memWf := h.mapWarps (by exact fun _ h => h)
theorem memWf_resumeThreads {g : Workgroup} (h : g.memWf) : (resumeThreads g).memWf := h.mapWarps (by exact fun _ h => h)
theorem execBkpt_goes (code : BitVec 10) (s : State) : Goes s (execBkpt code s) := by
  refine issueStd_goes (fun b s => ?_) s
  refine Res.keeps_ite (fun h => h.retire.stay) fun h => State.allWf.modUnit (.ite ?_ ?_) (by exact fun _ h => h)
  · exact h.retire.stay.modWg fun _ => memWf_stopThreads
  · exact h.retire.stay.modUnit (by exact fun _ h => h)
theorem execTmark_goes (g : GNum) (id : BitVec 10) (s : State) : Goes s (execTmark g id s) := by
  refine issueStd_goes (fun b s => ?_) s
  exact Res.keeps_ite (fun h => h.markFence) fun h => (State.allWf.retire (h.foldl fun _ _ ht => ht.trace)).stay
theorem execSyswr_goes (sel : BitVec 10) (g : GNum) (s : State) : Goes s (execSyswr sel g s) := by
  refine issueStd_goes (fun b s => ?_) s
  exact fun h => (State.allWf.retire (h.foldl fun _ _ ht => ht.setWatchWord)).stay
theorem State.allWf.stopWg {s : State} (h : s.allWf) {id wg : Nat} : (s.stopWg id wg).allWf := by
  unfold State.stopWg
  split
  · next u g _ _ =>
    have ht : (if (u.cfg.det != 0 && !g.anyStopped) = true then s.modUnit id fun u => { u with stopAt := true }
        else s.modWg id wg stopThreads).allWf := .ite (h.modUnit (by exact fun _ h => h)) (h.modWg fun _ => memWf_stopThreads)
    exact .ite ht.stopDump (ht.modUnit (by exact fun _ h => h))
  · exact h
theorem execStop_goes (c : BitVec 8) (s : State) : Goes s (execStop c s) := goes_next fun h => h.foldl fun _ _ ht => ht.stopWg
theorem State.allWf.resumeWg {s : State} (h : s.allWf) {id wg : Nat} : (s.resumeWg id wg).allWf := by
  unfold State.resumeWg
  split
  · exact .ite h (.ite (h.modUnit fun _ hu => hu.mapWgs fun _ => memWf_resumeThreads)
      (State.allWf.file (h.modWg fun _ => memWf_resumeThreads)))
  · exact h
theorem execDbgResume_goes (c : BitVec 8) (s : State) : Goes s (execDbgResume c s) := goes_next fun h => h.foldl fun _ _ ht => ht.resumeWg
theorem execStep_goes (c : BitVec 8) (s : State) : Goes s (execStep c s) := by
  unfold execStep
  dsimp only
  split
  · refine goes_ite (goes_same s) (goes_ite (goes_next fun h => h.modUnit fun u hu => ?_) ?_)
    · exact Placed.memWf.mapWgs (u := { u with stepTurn := _, dumps := _ }) hu fun _ => memWf_resumeThreads
    · split
      · exact goes_ite (goes_same s) (goes_next fun h => State.allWf.modThread h.modCore)
      · exact goes_same s
  · exact goes_same s
theorem execCapture_goes (c : BitVec 8) (s : State) : Goes s (execCapture c s) := by
  refine goes_next fun h => h.foldl fun t x ht => ?_
  split
  · exact .ite ht.stopDump ht
  · exact ht
theorem State.allWf.settleStops {s : State} (h : s.allWf) {u : Placed} : (s.settleStops u).allWf := .ite h (State.allWf.takeDumps (h.modUnit (by exact fun _ h => h)))
theorem State.allWf.settle {s : State} (h : s.allWf) : s.settle.allWf :=
  State.allWf.foldl (h.foldl fun _ _ ht => State.allWf.stopDump (ht.modWarp (by exact fun _ h => h))) fun _ _ ht => ht.settleStops
theorem execFeResume_goes (s : State) : Goes s (execFeResume s) := by
  unfold execFeResume
  refine goes_ite (goes_same s) ?_
  dsimp only
  split
  · next op _ =>
    refine goes_next fun h => ?_
    cases ho : State.op? _ op
    · exact h
    · refine State.allWf.submit ?_
      exact h
  · refine goes_ite (goes_next fun h => h) (goes_next fun h => State.allWf.accept ?_)
    exact h
theorem Goes.andThen {s : State} {x : Host.Outcome State Fault Refusal} (hx : Goes s x) {go : Bool}
    {f : State → Host.Outcome State Fault Refusal} (hf : ∀ t, Goes t (f t)) : Goes s (andThen x go f) := by
  obtain ⟨t, rfl, ht⟩ := hx
  exact goes_ite (.of_start ht (hf t)) (goes_next ht)
theorem writeQueue_goes (s : State) (q word v : Nat) : Goes s (s.writeQueue q word v) :=
  .andThen (goes_next fun h => h) (execReset_goes _)
theorem writeCtx_goes (s : State) (c word v : Nat) : Goes s (s.writeCtx c word v) :=
  .andThen (.andThen (.andThen (.andThen (goes_next fun h => h) (execPreempt_goes _)) (execResume_goes _)) (execRetry_goes _))
    (execInval_goes _)
theorem writeWatch_goes (s : State) (c sel v : Nat) : Goes s (s.writeWatch c sel v) := by
  unfold State.writeWatch
  refine goes_ite ?_ (goes_ite (goes_same s) (goes_next fun h => State.allWf.withCores h.setWatchWord))
  split
  · exact execStop_goes _ s
  · exact execDbgResume_goes _ s
  · exact execStep_goes _ s
  · exact execCapture_goes _ s
  · exact goes_same s
theorem dumpWrite_words (x : Watch) (word v : Nat) : (dumpWrite x word v).words = x.words := by
  unfold dumpWrite
  split <;> rfl
theorem State.allWf.withWatch {s : State} (h : s.allWf) {x : Watch} (hx : x.words = s.watch.words) : ({ s with watch := x } : State).allWf := by
  obtain ⟨⟨hm, hh, hp, hw⟩, hu, ha⟩ := h
  exact ⟨⟨hm, hh, hp, by rw [hx]; exact hw⟩, hu, ha⟩
theorem execRegisterWrite_goes (w : BarWrite) (s : State) : Goes s (execRegisterWrite w s) := by
  refine goes_ite (goes_same s) (goes_ite (writeQueue_goes ..) (goes_ite (writeCtx_goes ..) (goes_ite (writeWatch_goes ..)
    (goes_ite (goes_next fun h => h) (goes_ite (goes_ite (execFeResume_goes s) (goes_same s)) (goes_ite (goes_next fun h => ?_)
      (goes_same s)))))))
  exact h.withWatch (dumpWrite_words ..)
theorem State.allWf.ringDrop {s : State} (h : s.allWf) {ctx : Nat} {trace : Bool} : (s.ringDrop ctx trace).allWf := h.setWatchWord
theorem State.allWf.ringPlace {s : State} (h : s.allWf) {ctx : Nat} {trace : Bool} {d : BitVec 256} : (s.ringPlace ctx trace d).allWf :=
  .ite h.ringDrop h
theorem State.allWf.ringAdvance {s : State} (h : s.allWf) {k : Nat} {r : RingRec} : (s.ringAdvance k r).allWf := by
  refine State.allWf.setWatchWord ?_
  exact h
theorem execRingRecordWritten_goes (k : Nat) (ok : Bool) (s : State) : Goes s (execRingRecordWritten k ok s) := by
  unfold execRingRecordWritten
  split
  · exact goes_same s
  refine goes_ite (goes_ite (goes_next fun h => ?_) (goes_next fun h => .ite h.ringDrop.ringAdvance h))
    (goes_next fun h => .ite h.ringAdvance h)
  exact State.allWf.withWatch (s := { s with home := _ }) (h.writePhys _ _) rfl
theorem execTraceRecord_goes (src : Nat) (s : State) : Goes s (execTraceRecord src s) := by
  unfold execTraceRecord
  split
  · exact goes_same s
  split
  · exact goes_same s
  · refine goes_next fun h => State.allWf.ringPlace ?_
    exact h
theorem execSampleTick_goes (core : Nat) (c : BitVec 8) (s : State) : Goes s (execSampleTick core c s) := by
  unfold execSampleTick
  split
  · exact goes_same s
  · exact goes_ite (goes_same s) (goes_next fun h => State.allWf.ringPlace h.modCore)
theorem State.allWf.postCapture {s : State} (h : s.allWf) {e : Capture} {d : Bool} : (s.postCapture e d).allWf := by
  unfold State.postCapture
  split
  · exact .ite h h.post
  · exact h
theorem execDumpStart_goes (s : State) : Goes s (execDumpStart s) := by
  unfold execDumpStart
  split
  · exact goes_next fun h => h
  · refine goes_ite (goes_next fun h => State.allWf.foldl ?_ fun _ _ ht => ht.postCapture) (goes_next fun h => h)
    exact h
  · exact goes_same s
theorem State.allWf.dumpEntry {s : State} (h : s.allWf) {slot f : Nat} {e : Capture} : (s.dumpEntry slot f e).allWf := by
  refine State.allWf.postCapture ?_
  exact List.foldlRecOn (motive := fun m : Home => ({ s with home := m } : State).allWf) _ _ h fun m hm _ _ =>
    State.allWf.writePhys (s := { s with home := m }) hm _ _
theorem execDumpComplete_goes (s : State) : Goes s (execDumpComplete s) := by
  unfold execDumpComplete
  split
  · exact goes_same s
  · refine goes_ite (goes_same s) (goes_next fun h => State.allWf.foldl ?_ fun _ _ ht => ht.dumpEntry)
    exact State.allWf.withWatch (s := { s with home := _ }) (h.writePhys _ _) rfl

/-! ### The controller -/

/-- The controller changed beside its slots. -/
theorem State.allWf.withAmc {s : State} (h : s.allWf) {a : Amc} (ha : a.slots = s.amc.slots) : ({ s with amc := a } : State).allWf :=
  h.of_memWf h.1 rfl rfl ha
theorem State.allWf.log {s : State} (h : s.allWf) {source code d e : Nat} : (s.log source code d e).allWf := by
  unfold State.log
  exact h.withAmc rfl
theorem State.allWf.answer {s : State} (h : s.allWf) {x : MgmtResp} : (s.answer x).allWf := h
theorem State.allWf.respond {s : State} (h : s.allWf) {r : MgmtReq} {status : Nat} {p : List Byte} : (s.respond r status p).allWf := h.answer
theorem State.allWf.refuseCmd {s : State} (h : s.allWf) {r : MgmtReq} {status : Nat} : (s.refuseCmd r status).allWf := h.respond.log
theorem start_slots (a : Amc) (failing : Option (BitVec 3)) : (a.start failing).slots = a.slots := by
  unfold Amc.start
  split
  · rfl
  · split <;> rfl
theorem State.allWf.resetKeep {s : State} (h : s.allWf) {a : Amc} (ha : a.slots = s.amc.slots) : (s.resetKeep a).allWf := by
  obtain ⟨⟨hm, hh, hp, hw⟩, hu, hs⟩ := h
  refine ⟨⟨nil_wf, hh, hp, List.Pairwise.nil⟩, fun u hu => ?_, ?_⟩
  · exact absurd hu List.not_mem_nil
  show ∀ x ∈ a.slots, Memory.wf x.image
  rwa [ha]
theorem execModuleReset_goes (failing : Option (BitVec 3)) (s : State) : Goes s (execModuleReset failing s) :=
  goes_next fun h => State.allWf.foldl (h.resetKeep (start_slots ..)) fun _ _ ht => ht.log
theorem command_goes (s : State) (r : MgmtReq) (cmd flags : Nat) (len : Nat → Bool) {go : State → State} (hgo : s.allWf → (go s).allWf) :
    Goes s (s.command r cmd flags len go) :=
  goes_next fun h => .ite h (.ite h.refuseCmd (.ite h (.ite h.refuseCmd (hgo h))))
theorem State.allWf.updateCmd {s : State} (h : s.allWf) {r : MgmtReq} {opens : Bool} {go : State → State} (hgo : (go s).allWf) :
    (s.updateCmd r opens go).allWf := by
  unfold State.updateCmd
  refine .ite h.refuseCmd ?_
  split
  · exact .ite hgo h.refuseCmd
  · exact .ite hgo h.refuseCmd
theorem State.allWf.closeUpdate {s : State} (h : s.allWf) : s.closeUpdate.allWf := h.withAmc rfl
/-- A firmware slot changed, its image staying in canonical form. -/
theorem State.allWf.withSlot {s : State} (h : s.allWf) {b : Bool} {f : FwSlot → FwSlot}
    (hf : ∀ x : FwSlot, Memory.wf x.image → Memory.wf (f x).image) {a : Amc} (ha : a.slots = (s.amc.modSlot b f).slots) :
    ({ s with amc := a } : State).allWf := by
  refine ⟨h.1, h.2.1, ?_⟩
  show ∀ x ∈ a.slots, Memory.wf x.image
  rw [ha]
  exact forall_modAt h.2.2 hf
theorem execStatus_goes (r : MgmtReq) (s : State) : Goes s (execStatus r s) := command_goes _ _ _ _ _ fun h => h.respond
theorem execWrite_goes (r : MgmtReq) (s : State) : Goes s (execWrite r s) := by
  refine command_goes _ _ _ _ _ fun h => h.updateCmd (.ite h.refuseCmd (State.allWf.log (State.allWf.respond ?_)))
  exact h.withSlot (b := !s.amc.slot) (f := fun x => ⟨memWrite x.image _ _, false⟩) (fun _ hx => memWrite_wf _ _ hx) rfl
theorem execVerify_goes (r : MgmtReq) (s : State) : Goes s (execVerify r s) := by
  refine command_goes _ _ _ _ _ fun h => h.updateCmd (State.allWf.log (State.allWf.respond ?_))
  exact h.withSlot (b := !s.amc.slot) (f := fun x => { x with verified := (s.amc.slotN (!s.amc.slot)).verifies })
    (fun _ hx => hx) rfl
theorem execActivate_goes (r : MgmtReq) (s : State) : Goes s (execActivate r s) := by
  refine command_goes _ _ _ _ _ fun h => h.updateCmd (.ite h.refuseCmd (State.allWf.log (State.allWf.respond
    (State.allWf.closeUpdate ?_))))
  exact h.withAmc rfl
theorem execRetryStarts_goes (r : MgmtReq) (s : State) : Goes s (execRetryStarts r s) := by
  refine command_goes _ _ _ _ _ fun h => State.allWf.respond ?_
  exact h.withAmc rfl
theorem execErrcnt_goes (r : MgmtReq) (s : State) : Goes s (execErrcnt r s) := by
  refine command_goes _ _ _ _ _ fun h => .ite ?_ h.respond
  exact State.allWf.withAmc (s := s.respond ..) h rfl
theorem execSensors_goes (r : MgmtReq) (s : State) : Goes s (execSensors r s) := command_goes _ _ _ _ _ fun h => h.respond
theorem execLogread_goes (r : MgmtReq) (s : State) : Goes s (execLogread r s) := command_goes _ _ _ _ _ fun h => h.respond
theorem execAbort_goes (r : MgmtReq) (s : State) : Goes s (execAbort r s) := by
  refine command_goes _ _ _ _ _ fun h => h.updateCmd (State.allWf.log (State.allWf.respond (State.allWf.closeUpdate ?_)))
  exact h.withSlot (b := !s.amc.slot) (f := fun x => { x with verified := false }) (fun _ hx => hx) rfl
theorem State.allWf.spdm {s : State} (h : s.allWf) {r : MgmtReq} {code : Nat} {about : SpdmAnswer} : (s.spdm r code about).allWf := .ite h h
theorem unsupported_goes (r : MgmtReq) (code : Nat) (s : State) : Goes s (.next (s.unsupported r code)) := goes_next fun h => .ite h.spdm.log h
theorem execSensorRefresh_goes (readings : List Byte) (s : State) : Goes s (execSensorRefresh readings s) :=
  goes_ite (goes_same s) (goes_next fun h => h)
theorem State.allWf.count {s : State} (h : s.allWf) {n d : Nat} : (s.count n d).allWf := by
  refine State.allWf.log ?_
  exact h.withAmc rfl
theorem execUncorrectableError_goes (addr : Nat) (site : ErrSite) (s : State) : Goes s (execUncorrectableError addr site s) := by
  cases site <;> refine goes_next fun h => State.allWf.count ?_ <;> exact h

/-! ### Every instruction goes on -/

theorem execNop_goes (s : State) : Goes s (execNop s) := by
  refine issueStd_goes (fun b s => ?_) s
  exact fun h => h.retire.stay
theorem execReform_goes (s : State) : Goes s (execReform s) := by
  refine issueStd_goes (fun b s => ?_) s
  exact fun h => h.retire.dissolve
theorem execYield_goes (s : State) : Goes s (execYield s) := by
  refine issueStd_goes (fun b s => ?_) s
  exact fun h => h.retire.dissolve
theorem execTrap_goes (code : BitVec 10) (s : State) : Goes s (execTrap code s) := by
  refine issueStd_goes (fun b s => ?_) s
  trivial
theorem execUntaint_goes (d : GNum) (s : State) : Goes s (execUntaint d s) := by
  refine issueOn_goes (fun b s => ?_) s
  exact fun h => h.retire.stay
theorem execHint_goes {i : Instr} {f : Hints → Hints} (s : State) : Goes s (execHint i f s) := by
  refine issueOn_goes (fun b s => ?_) s
  exact fun h => h.retire.stay
theorem execBrp_goes (p : PNum) (sense : Bool) (off : BitVec 21) (s : State) : Goes s (execBrp p sense off s) := by
  unfold execBrp branch
  exact branchWith_goes s
theorem execBra_goes (g : GNum) (cond : BraCond) (off : BitVec 11) (s : State) : Goes s (execBra g cond off s) := by
  unfold execBra branch
  exact branchWith_goes s
theorem execCall_goes (p : PNum) (sense : Bool) (off : BitVec 21) (s : State) : Goes s (execCall p sense off s) := by
  unfold execCall
  exact branchWith_goes s
theorem execRet_goes (p : PNum) (sense : Bool) (s : State) : Goes s (execRet p sense s) := by
  unfold execRet branch
  exact branchWith_goes s
theorem execBrx_goes (a : GNum) (s : State) : Goes s (execBrx a s) := by
  unfold execBrx branch
  exact branchWith_goes s
theorem execImm_goes (p : BitVec 25) (s : State) : Goes s (execImm p s) := by
  unfold execImm
  exact execHint_goes s
theorem execMod_goes (sat clamp neg abs : Bool) (scl : BitVec 6) (ovr : Option LTy) (s : State) : Goes s (execMod sat clamp neg abs scl ovr s) := by
  unfold execMod
  exact execHint_goes s
theorem execTan_goes (s : State) : Goes s (execTan s) := by
  unfold execTan
  exact execHint_goes s
/-- Whatever instruction executes, it goes on, and keeps the memories in canonical form. -/
theorem exec_goes (s : State) : ∀ i : Instr, Goes s (exec i s)
  | .iadd .. => aluIssue_goes s
  | .isub .. => aluIssue_goes s
  | .iaddi .. => aluIssue_goes s
  | .imul .. => aluIssue_goes s
  | .imulhi .. => aluIssue_goes s
  | .imad .. => aluIssue_goes s
  | .imin .. => aluIssue_goes s
  | .imax .. => aluIssue_goes s
  | .clz .. => aluIssue_goes s
  | .popc .. => aluIssue_goes s
  | .brev .. => aluIssue_goes s
  | .iabs .. => aluIssue_goes s
  | .and_ .. => aluIssue_goes s
  | .or_ .. => aluIssue_goes s
  | .xor_ .. => aluIssue_goes s
  | .andn .. => aluIssue_goes s
  | .shl .. => aluIssue_goes s
  | .shr .. => aluIssue_goes s
  | .sar .. => aluIssue_goes s
  | .rotl .. => aluIssue_goes s
  | .shli .. => aluIssue_goes s
  | .shri .. => aluIssue_goes s
  | .sari .. => aluIssue_goes s
  | .bfxN32 .. => aluIssue_goes s
  | .bfxI32 .. => aluIssue_goes s
  | .bfi .. => aluIssue_goes s
  | .icmp .. => aluIssue_goes s
  | .plop .. => aluIssue_goes s
  | .mov .. => aluIssue_goes s
  | .movx .. => aluIssue_goes s
  | .movxw .. => aluIssue_goes s
  | .selP0P3 .. => aluIssue_goes s
  | .selP4P7 .. => aluIssue_goes s
  | .movi .. => aluIssue_goes s
  | .fadd .. => aluIssue_goes s
  | .fsub .. => aluIssue_goes s
  | .fmul .. => aluIssue_goes s
  | .ffma .. => aluIssue_goes s
  | .fmin .. => aluIssue_goes s
  | .fmax .. => aluIssue_goes s
  | .fcmp .. => aluIssue_goes s
  | .frcp .. => aluIssue_goes s
  | .frsq .. => aluIssue_goes s
  | .fsqrt .. => aluIssue_goes s
  | .fexp2 .. => aluIssue_goes s
  | .flog2 .. => aluIssue_goes s
  | .fsin .. => aluIssue_goes s
  | .fcos .. => aluIssue_goes s
  | .fdiv .. => aluIssue_goes s
  | .fscale .. => aluIssue_goes s
  | .dadd .. => aluIssue_goes s
  | .dmul .. => aluIssue_goes s
  | .dfma .. => aluIssue_goes s
  | .hadd2F16 .. => aluIssue_goes s
  | .hmul2F16 .. => aluIssue_goes s
  | .hfma2F16 .. => aluIssue_goes s
  | .hadd2Bf16 .. => aluIssue_goes s
  | .hmul2Bf16 .. => aluIssue_goes s
  | .hfma2Bf16 .. => aluIssue_goes s
  | .hmin2F16 .. => aluIssue_goes s
  | .hmax2F16 .. => aluIssue_goes s
  | .hmin2Bf16 .. => aluIssue_goes s
  | .hmax2Bf16 .. => aluIssue_goes s
  | .cvt .. => aluIssue_goes s
  | .cvtn .. => aluIssue_goes s
  | .cvtw .. => aluIssue_goes s
  | .shflIdx .. => collIssue_goes crossBody_keeps s
  | .shflUp .. => collIssue_goes crossBody_keeps s
  | .shflDown .. => collIssue_goes crossBody_keeps s
  | .shflXor .. => collIssue_goes crossBody_keeps s
  | .voteAny .. => collIssue_goes crossBody_keeps s
  | .voteAll .. => collIssue_goes crossBody_keeps s
  | .voteBallot .. => collIssue_goes crossBody_keeps s
  | .lreduce .. => collIssue_goes crossBody_keeps s
  | .ader .. => aluIssue_goes s
  | .anarrow .. => aluIssue_goes s
  | .aadv .. => aluIssue_goes s
  | .aget .. => aluIssue_goes s
  | .aadvi .. => aluIssue_goes s
  | .dget .. => aluIssue_goes s
  | .dset .. => aluIssue_goes s
  | .dseed .. => aluIssue_goes s
  | .sread .. => aluIssue_goes s
  | .rand .. => aluIssue_goes s
  | .ld .. => issueStd_goes loadBody_keeps s
  | .st .. => issueStd_goes (fun b s => storeBody_keeps b s) s
  | .ldx .. => issueStd_goes loadBody_keeps s
  | .stx .. => issueStd_goes (fun b s => storeBody_keeps b s) s
  | .lds .. => execLds_goes _ _ _ _ s
  | .sts .. => execSts_goes _ _ _ _ s
  | .aldp .. => execAldp_goes _ _ _ _ _ s
  | .brp .. => execBrp_goes _ _ _ s
  | .bra .. => execBra_goes _ _ _ s
  | .call .. => execCall_goes _ _ _ s
  | .ret .. => execRet_goes _ _ s
  | .brx .. => execBrx_goes _ s
  | .exit .. => execExit_goes _ _ s
  | .nop => execNop_goes s
  | .reform => execReform_goes s
  | .yield => execYield_goes s
  | .region .. => execRegion_goes _ s
  | .trap .. => execTrap_goes _ s
  | .untaint .. => execUntaint_goes _ s
  | .waitc .. => execWaitc_goes _ _ _ _ s
  | .barInit .. => execBarInit_goes _ _ s
  | .barArrive .. => execBarArrive_goes _ s
  | .barExpect .. => execBarExpect_goes _ _ s
  | .barWait .. => execBarWait_goes _ _ s
  | .tcfg .. => collIssue_goes (bodyTcfg_keeps _ _) s
  | .tld .. => collIssue_goes (bodyTld_keeps _ _ _ _) s
  | .tst .. => collIssue_goes (bodyTst_keeps _ _ _ _) s
  | .tlds .. => collIssue_goes (bodyTlds_keeps _ _ _) s
  | .tsts .. => collIssue_goes (bodyTsts_keeps _ _ _) s
  | .tmma .. => collIssue_goes (appendBody_keeps _ _) s
  | .tmloop .. => collIssue_goes (appendBody_keeps _ _) s
  | .tadd .. => collIssue_goes (appendBody_keeps _ _) s
  | .temul .. => collIssue_goes (appendBody_keeps _ _) s
  | .tscl .. => collIssue_goes (appendBody_keeps _ _) s
  | .tsclPow .. => collIssue_goes (appendBody_keeps _ _) s
  | .ttr .. => collIssue_goes (appendBody_keeps _ _) s
  | .tcvt .. => collIssue_goes (appendBody_keeps _ _) s
  | .tact .. => collIssue_goes (appendBody_keeps _ _) s
  | .trsum .. => collIssue_goes (appendBody_keeps _ _) s
  | .tzero .. => collIssue_goes (appendBody_keeps _ _) s
  | .teval .. => collIssue_goes (bodyTeval_keeps _) s
  | .tdrop .. => collIssue_goes (bodyTdrop_keeps _) s
  | .trd .. => collIssue_goes (bodyTrd_keeps _ _ _) s
  | .twr .. => collIssue_goes (bodyTwr_keeps _ _ _) s
  | .tstat .. => collIssue_goes (bodyTstat_keeps _ _ _) s
  | .xlr .. => execXlr_goes _ _ _ s
  | .xcp .. => issueStd_goes (xferBody_keeps _ _ _) s
  | .xred .. => issueStd_goes (xferBody_keeps _ _ _) s
  | .xwalk .. => issueStd_goes (xferBody_keeps _ _ _) s
  | .xstat .. => aluIssue_goes s
  | .jsub .. => execJsub_goes _ _ _ s
  | .gainadd .. => issueStd_goes (gainBody_keeps _ _ _) s
  | .gainset .. => issueStd_goes (gainBody_keeps _ _ _) s
  | .gainget .. => execGainget_goes _ _ s
  | .resadd .. => execResadd_goes _ s
  | .resget .. => execResget_goes _ _ s
  | .ordwait .. => execOrdwait_goes _ s
  | .ordpost .. => execOrdpost_goes _ s
  | .atom .. => issueStd_goes (fun b s => atomBody_keeps _ b s) s
  | .cas .. => issueStd_goes (fun b s => atomBody_keeps _ b s) s
  | .waitcmp .. => execWaitcmp_goes _ _ _ _ _ s
  | .ldAcq .. => issueStd_goes loadBody_keeps s
  | .stRel .. => issueStd_goes (fun b s => storeBody_keeps b s) s
  | .fence .. => execFence_goes _ s
  | .smap .. => execSmap_goes _ _ s
  | .sunmap .. => issueStd_goes (flushBody_keeps _ _) s
  | .sflush .. => issueStd_goes (flushBody_keeps _ _) s
  | .pref .. => execPref_goes _ _ _ _ s
  | .bkpt .. => execBkpt_goes _ s
  | .tmark .. => execTmark_goes _ _ s
  | .sysrd .. => issueStd_goes (askLanes_keeps _ _) s
  | .syswr .. => execSyswr_goes _ _ s
  | .imm .. => execImm_goes _ s
  | .mod_ .. => execMod_goes _ _ _ _ _ _ s
  | .tan => execTan_goes s
  | .threadFiling .. => execThreadFiling_goes _ _ s
  | .binAged .. => execBinAged_goes _ _ _ s
  | .collectiveExecute .. => execCollectiveExecute_goes _ s
  | .loadReturn .. => execLoadReturn_goes _ s
  | .storeAck .. => execStoreAck_goes _ s
  | .tagFree .. => execTagFree_goes _ _ s
  | .idemDefer .. => execIdemDefer_goes _ _ s
  | .orderStall .. => execOrderStall_goes _ s
  | .barrierArrivalApply .. => execBarrierArrivalApply_goes _ s
  | .evalStart .. => execEvalStart_goes _ s
  | .evalComplete .. => execEvalComplete_goes _ s
  | .tileLoadLanded .. => execTileLoadLanded_goes _ s
  | .xlrComplete .. => execXlrComplete_goes _ s
  | .channelStart .. => execChannelStart_goes _ _ s
  | .chunkLand .. => execChunkLand_goes _ _ s
  | .storeApply .. => execStoreApply_goes _ _ s
  | .atomicApply .. => execAtomicApply_goes _ _ s
  | .loadServe .. => execLoadServe_goes _ _ _ s
  | .releaseClearance .. => execReleaseClearance_goes _ s
  | .releaseApply .. => execReleaseApply_goes _ _ s
  | .monitorArm op part o => execMonitorArm_goes op part o s
  | .waitcmpPoll .. => execWaitcmpPoll_goes _ _ s
  | .hdmRead .. => execHdmRead_goes _ _ _ s
  | .hdmWrite .. => execHdmWrite_goes _ _ s
  | .backInvalidationResponse .. => execBackInvalidationResponse_goes _ s
  | .pageMigration .. => execPageMigration_goes _ _ _ s
  | .impreciseFault .. => execImpreciseFault_goes _ s
  | .tail .. => execTail_goes _ _ s
  | .reset .. => execReset_goes _ s
  | .nopPacket .. => goes_next fun h => h.packetEvent
  | .launch .. => goes_next fun h => h.packetEvent
  | .job .. => goes_next fun h => h.packetEvent
  | .signal .. => goes_next fun h => h.packetEvent
  | .packetCompletion .. => execPacketCompletion_goes _ s
  | .jobSubmit .. => execJobSubmit_goes _ s
  | .residencyHold .. => execResidencyHold_goes _ _ s
  | .clusterPlace .. => execClusterPlace_goes _ s
  | .wavePlace .. => execWavePlace_goes _ s
  | .chunkDeal .. => execChunkDeal_goes _ _ s
  | .dequePop .. => execDequePop_goes _ _ s
  | .dequeSteal .. => execDequeSteal_goes _ _ s
  | .settDispatch .. => execSettDispatch_goes _ _ s
  | .gainSteal .. => execGainSteal_goes _ _ s
  | .gainUpdateApply .. => execGainUpdateApply_goes _ s
  | .residualUpdateApply .. => execResidualUpdateApply_goes _ s
  | .ordpostEffect .. => execOrdpostEffect_goes _ s
  | .retirementPublish .. => execRetirementPublish_goes _ _ s
  | .verifyRerun .. => execVerifyRerun_goes _ _ s
  | .jobEnd .. => execJobEnd_goes _ s
  | .priorityPreempt .. => execPriorityPreempt_goes _ s
  | .preemptionSave .. => execPreemptionSave_goes _ _ s
  | .clusterRestore .. => execClusterRestore_goes _ _ s
  | .swapOut .. => execSwapOut_goes _ s
  | .detTurn .. => execDetTurn_goes _ s
  | .preempt .. => execPreempt_goes _ s
  | .resume .. => execResume_goes _ s
  | .retry .. => execRetry_goes _ s
  | .inval .. => execInval_goes _ s
  | .invalidationDone .. => execInvalidationDone_goes _ s
  | .stop .. => execStop_goes _ s
  | .dbgResume .. => execDbgResume_goes _ s
  | .step .. => execStep_goes _ s
  | .capture .. => execCapture_goes _ s
  | .feResume => execFeResume_goes s
  | .registerWrite .. => execRegisterWrite_goes _ s
  | .sampleTick .. => execSampleTick_goes _ _ s
  | .ringRecordWritten .. => execRingRecordWritten_goes _ _ s
  | .traceRecord .. => execTraceRecord_goes _ s
  | .dumpStart => execDumpStart_goes s
  | .dumpComplete => execDumpComplete_goes s
  | .moduleReset .. => execModuleReset_goes _ s
  | .sensorRefresh .. => execSensorRefresh_goes _ s
  | .softErrorCorrection .. => goes_next fun h => .ite h.count h
  | .flitRetry .. => goes_next fun h => .ite h.count h
  | .uncorrectableError .. => execUncorrectableError_goes _ _ s
  | .peerRequest .. => execPeerRequest_goes _ _ s
  | .leaseClockTick .. => execLeaseClockTick_goes _ s
  | .laneWriteCompletion .. => execLaneWriteCompletion_goes _ _ s
  | .fetchComplete .. => execFetchComplete_goes _ _ s
  | .status .. => execStatus_goes _ s
  | .write .. => execWrite_goes _ s
  | .verify .. => execVerify_goes _ s
  | .activate .. => execActivate_goes _ s
  | .retryStarts .. => execRetryStarts_goes _ s
  | .errcnt .. => execErrcnt_goes _ s
  | .sensors .. => execSensors_goes _ s
  | .logread .. => execLogread_goes _ s
  | .abort .. => execAbort_goes _ s
  | .getVersion .. => goes_next fun h => h.spdm
  | .getCapabilities .. => goes_next fun h => h.spdm
  | .negotiateAlgorithms .. => goes_next fun h => h.spdm
  | .getDigests .. => goes_next fun h => h.spdm
  | .getCertificate .. => goes_next fun h => h.spdm
  | .challenge .. => goes_next fun h => h.spdm
  | .getMeasurements .. => goes_next fun h => h.spdm
  | .keyExchange .. => unsupported_goes _ _ s
  | .pskExchange .. => unsupported_goes _ _ s

/-! ### Every move goes on -/

theorem State.allWf.withIssue {s : State} (h : s.allWf) {c : Issue} : ({ s with issue := c } : State).allWf := h
theorem runAt_goes (s : State) (unit wg : Nat) (parts : List (Nat × List Nat)) : Goes s (s.runAt unit wg parts) := by
  unfold State.runAt
  refine .of_start (t := { s with issue := ⟨unit, wg, parts⟩ }) (fun h => h) ?_
  dsimp only
  generalize ({ s with issue := ⟨unit, wg, parts⟩ } : State) = s
  split
  · exact goes_same s
  refine goes_ite (goes_same s) ?_
  split
  · exact goes_same s
  · exact goes_next fun h => h.takeFault
  · split
    · exact goes_next fun h => h.takeFault
    · exact exec_goes s _
theorem issueWith_goes (s : State) (unit wg port : Nat) (parts : List (Nat × List Nat)) {after : State → State}
    {else_ : State → Host.Outcome State Fault Refusal} (hafter : ∀ t, t.allWf → (after t).allWf) (helse : ∀ t, Goes t (else_ t)) :
    Goes s (s.issueWith unit wg port parts after else_) := by
  unfold State.issueWith
  have hr := runAt_goes s unit wg parts
  obtain ⟨t, ht, hk⟩ := hr
  rw [ht]
  dsimp only
  refine goes_ite (.of_start hk (helse t)) ?_
  split
  · exact goes_next fun h => hafter _ (hk h).noteIssue
  · exact goes_next fun h => hafter _ (hk h)
theorem tryBundles_goes (core port : Nat) (xs : List Slot) (s : State) : Goes s (tryBundles core port xs s) := by
  induction xs generalizing s with
  | nil => exact goes_same s
  | cons x xs ih => exact issueWith_goes s _ _ _ _ (fun _ ht => ht.advance) ih
theorem issueWarp_goes (s : State) (w : WarpId) (ls : List Nat) : Goes s (s.issueWarp w ls) :=
  goes_ite (issueWith_goes s _ _ _ _ (fun _ ht => ht) goes_same) (goes_same s)
theorem move_goes (s : State) (m : Move) : Goes s (s.move m) := by
  cases m with
  | event i => exact goes_ite (exec_goes s i) (goes_same s)
  | clk => exact goes_next fun h => h
  | issue core port =>
    show Goes s (s.issuePort core port)
    unfold State.issuePort
    split
    · exact goes_ite (tryBundles_goes ..) (goes_same s)
    · exact goes_same s
  | turn unit =>
    show Goes s (s.issueTurn unit)
    unfold State.issueTurn
    split
    · exact goes_same s
    · split
      · exact goes_same s
      · exact goes_ite (goes_same s) (issueWarp_goes ..)
  | lane w l => exact goes_ite (issueWarp_goes ..) (goes_same s)
theorem moveOn_goes (s : State) (m : Move) : Goes s (s.moveOn m) := by
  obtain ⟨t, ht, hk⟩ := move_goes s m
  unfold State.moveOn
  rw [ht]
  exact goes_next fun h => (hk h).settle
theorem step_goes (s : State) : Goes s (step s) := by
  unfold step State.next
  split
  · exact .of_start (fun h => h) (moveOn_goes { s with agenda := _ } _)
  · exact goes_next fun h => h

/-- Settles O41: every instruction, and so every move, answers a next state. -/
theorem everyStepGoesOn : Obligations.EveryStepGoesOn := fun s => (step_goes s).imp fun _ h => h.1
/-- Settles O45: every instruction, and so every move, keeps the memories in canonical form. -/
theorem stepKeepsMemory : Obligations.StepKeepsMemory := fun s _ hs ht => (step_goes s).keeps ht hs

end Sys2Proof.Machine
end

section
/-! Proof of BKPT, TMARK, SYSRD and SYSWR at issue (R460, R461, R464, R465, R468, R474, R475). -/

namespace Sys2Proof.Machine

/-! ### Watch words and trace records (R460, R468) -/

theorem bitOf_zero (v : Nat) : bitOf v 0 = decide (v % 2 = 1) := by
  simp only [bitOf, pow_zero, Nat.div_one]
  rfl
/-- The records of a source, one after the other, are made while its enable bit is set. -/
theorem foldl_trace {α : Type} (src : α → Nat) (ctx : Nat) (data : α → BitVec 256) (xs : List α) (s : State) :
    xs.foldl (fun t x => t.trace (src x) ctx 0 (data x)) s =
      if natGet s.watch.words (32 * ctx + 8) % 2 = 1 then
        { s with watch := { s.watch with made := s.watch.made ++ xs.map fun x => ⟨src x, ctx, data x⟩ } }
      else s := by
  induction xs generalizing s with
  | nil => simp
  | cons x xs ih =>
    have hx : s.trace (src x) ctx 0 (data x) = if natGet s.watch.words (32 * ctx + 8) % 2 = 1 then
        { s with watch := { s.watch with made := s.watch.made ++ [⟨src x, ctx, data x⟩] } } else s := by
      simp only [State.trace, State.watchWord, bitOf_zero, decide_eq_true_eq]
    rw [List.foldl_cons, ih, hx]
    by_cases h : natGet s.watch.words (32 * ctx + 8) % 2 = 1
    · simp only [h, if_true, List.map_cons, List.append_assoc, List.singleton_append]
    · simp only [h, if_false]

/-- Settles O36: each body goes on (`access_always`, `access_does`); a BKPT by the bit DBGEN, TMARK's records by `foldl_trace`. -/
theorem watchInstructions : Obligations.WatchInstructions := by
  unfold Obligations.WatchInstructions
  intro code id sel d g past dbgen
  have hbit (b : Bundle) (s : State) : bitOf (s.watchWord b.u.ctx 0x10) 0 = decide (dbgen b s) := bitOf_zero _
  refine ⟨access_does rfl fun s b _ hdb => ?off, access_does rfl fun s b _ hdb => ?on,
    access_does rfl fun s b _ hclear => ?tmark, access_always rfl, access_always rfl⟩
  case off => simp only [hbit, hdb, decide_false, Bool.not_false, if_true]; rfl
  case on =>
    simp only [hbit, hdb, decide_true, Bool.not_true, Bool.false_eq_true, if_false]
    rfl
  case tmark =>
    have hdone : (b.parts.all fun (wi, _, _) => s.fenceDone (b.wid wi) .dev (b.fenceBound s)) = true :=
      List.all_eq_true.2 fun x hx => by
        obtain ⟨hacks, htimes⟩ := hclear x hx
        simp only [State.fenceDone, hacks, htimes, Bool.and_self]
    simp only [hdone, Bool.not_true, Bool.false_eq_true, if_false]
    refine congrArg (fun t => Res.done (past b t)) ?_
    exact foldl_trace (fun _ => b.g.core) b.u.ctx _ b.lanes s

end Sys2Proof.Machine
end

section
/-! Proof of the precise faults of the task instructions (R371, R372, R376 to R378). -/

namespace Sys2Proof.Machine

/-! ### Lanes that fault with a cause (R85, R371) -/

/-- A hit under the cause that the fault reports. -/
def Hit.under (cause : Nat) (h : Hit) : Hit := { h with det1 := cause }

theorem firstHit_under (wi cause : Nat) (xs : List (Nat × Nat × Nat × Nat)) :
    firstHit wi (xs.map fun x => (x.1, x.2.1, x.2.2.1, cause)) = (firstHit wi xs).map fun p => (p.1, p.2.under cause) := by
  cases xs with
  | nil => rfl
  | cons x xs => simp [firstHit, Hit.under, List.filter_map, Function.comp_def]
theorem firstCode_under (cause : Nat) (xs : List (Nat × Hit)) :
    firstCode (xs.map fun p => (p.1, p.2.under cause)) = (firstCode xs).map fun p => (p.1, p.2.map (Hit.under cause)) := by
  cases xs with
  | nil => rfl
  | cons x xs => simp [firstCode, List.filter_map, Function.comp_def]
/-- Lanes that all fault with one code and one cause. -/
theorem outHits_cause {b : Bundle} {s : State} {f : LaneCtx → LaneOut} {code cause : Nat} {bad : LaneCtx → Bool}
    {det0 : LaneCtx → Nat} (hf : ∀ c, (f c).fault = if bad c then some (code, det0 c, cause) else none)
    (he : ∃ c ∈ b.each s, bad c = true) :
    b.outHits s f = some (code, (b.hitsOf s bad det0).map (Hit.under cause)) := by
  have hplain : b.outHits s (fun c => if bad c then .bad code (det0 c) 0 else .ok []) = some (code, b.hitsOf s bad det0) := by
    have hbad := outHits_bad (b := b) (s := s) (f := fun c => if bad c then .bad code (det0 c) 0 else .ok [])
      (ok := fun c => !bad c) (det0 := det0) (code := code) (fun c hc => by rw [Bool.not_eq_false'] at hc; rw [hc]; rfl)
      (fun c hc => by rw [Bool.not_eq_true'] at hc; rw [hc]; rfl) (by simpa using he)
    simpa only [Bool.not_not] using hbad
  have hlanes (p : Nat × Warp × List Nat) : laneFaults (b.outs s f p.1 p.2.1 p.2.2) =
      (laneFaults (b.outs s (fun c => if bad c then .bad code (det0 c) 0 else .ok []) p.1 p.2.1 p.2.2)).map
        fun x => (x.1, x.2.1, x.2.2.1, cause) := by
    rw [laneFaults_outs, laneFaults_outs, List.map_filterMap]
    refine List.filterMap_congr fun c _ => ?_
    rw [hf]
    cases bad c <;> rfl
  have hmap : b.outHits s f = (b.outHits s fun c => if bad c then .bad code (det0 c) 0 else .ok []).map
      fun p => (p.1, p.2.map (Hit.under cause)) := by
    simp only [Bundle.outHits, hlanes, firstHit_under, ← firstCode_under, List.map_filterMap]
  rw [hmap, hplain]
  rfl
theorem exec_bad {i : Instr} {s : State} {b : Bundle} {code : Nat} {hits : List Hit} {body : Bundle → State → Res}
    (he : exec i = issueStd i body) (hb : s.bundle? = some b) (hr : b.ready i = true) (hbody : body b s = .bad code hits) :
    exec i s = .next (s.takeFault b.u.id b.wg code true b.pc hits) := by
  rw [he, issueStd_bad hb hr hbody]
/-- An issue whose lane checks find a fault raises it. -/
theorem exec_outHits {i : Instr} {s : State} {b : Bundle} {f : LaneCtx → LaneOut} {next : Res} {code : Nat} {hits : List Hit}
    {body : Bundle → State → Res} (he : exec i = issueStd i body) (hb : s.bundle? = some b) (hr : b.ready i = true)
    (hbody : body b s = match b.outHits s f with | some (code, hits) => .bad code hits | none => next)
    (hh : b.outHits s f = some (code, hits)) : exec i s = .next (s.takeFault b.u.id b.wg code true b.pc hits) :=
  exec_bad he hb hr (hbody.trans (by rw [hh]))

/-! ### The checks of the task instructions (R371, R372, R376 to R378) -/

section
variable {s : State} {b : Bundle}

theorem gainJob_none (h : ∀ w, s.work? b.u.work = some w → ¬ ∃ j, w.job = some j ∧ j.gainMode = true) : s.gainJob b.u = none := by
  unfold State.gainJob State.workOf
  cases hw : s.work? b.u.work with
  | none => rfl
  | some w =>
    cases hj : w.job with
    | none => simp only [Option.bind_some, hj]
    | some j =>
      have hm : j.gainMode = false := by simpa [hj] using h w hw
      simp only [Option.bind_some, hj, hm, Bool.false_eq_true, if_false]
theorem gainJob_some {w : Work} {j : JobCfg} (hw : s.work? b.u.work = some w) (hj : w.job = some j) (hm : j.gainMode = true) :
    s.gainJob b.u = some (w, j) := by
  simp only [State.gainJob, State.workOf, hw, Option.bind_some, hj, hm, if_true]
theorem inJob_false (h : ∀ w, s.work? b.u.work = some w → w.job = none) : s.inJob b.u = false := by
  unfold State.inJob State.workOf
  cases hw : s.work? b.u.work with
  | none => rfl
  | some w => simp [h w hw]
theorem gainCheck_noJob {i : GNum} (h : s.gainJob b.u = none) (c : LaneCtx) :
    (s.gainCheck b i c).fault = if true then some (0x16, (c.g i).toNat, 1) else none := by
  simp only [State.gainCheck, h]
  rfl
theorem gainCheck_inJob {i : GNum} {w : Work} {j : JobCfg} (h : s.gainJob b.u = some (w, j)) (c : LaneCtx) :
    (s.gainCheck b i c).fault = if decide ((c.g i).toNat ≥ j.count) then some (0x16, (c.g i).toNat, 2) else none := by
  simp only [State.gainCheck, h, decide_eq_true_eq]
  split <;> rfl
end

/-- The posts of a warp's lanes that are ahead of the count, each with those before it counted. -/
theorem postsAhead_eq (post : Nat → Option Nat) (ls : List Nat) (c : Nat) :
    postsAhead c (ls.filterMap fun l => (post l).map fun q => (l, q)) = (ls.zipIdx).filterMap fun x =>
      ((post x.1).filter fun q => afterPosts c ((ls.take x.2).filterMap post) < q).map fun q => (x.1, q) := by
  induction ls generalizing c with
  | nil => rfl
  | cons l ls ih =>
    have hrest (c' : Nat) (h : ∀ ps, afterPosts c (((post l).toList) ++ ps) = afterPosts c' ps) :
        ((ls.zipIdx 1).filterMap fun x =>
          ((post x.1).filter fun q => afterPosts c (((l :: ls).take x.2).filterMap post) < q).map fun q => (x.1, q)) =
        postsAhead c' (ls.filterMap fun l => (post l).map fun q => (l, q)) := by
      have hshift : ls.zipIdx 1 = ls.zipIdx.map fun x => (x.1, x.2 + 1) := by
        rw [List.zipIdx_succ]
      rw [ih, hshift, List.filterMap_map]
      refine List.filterMap_congr fun x _ => ?_
      have htake : ((l :: ls).take (x.2 + 1)).filterMap post = (post l).toList ++ (ls.take x.2).filterMap post := by
        rw [List.take_succ_cons]
        cases hp : post l <;> simp [hp]
      simp only [Function.comp_apply, htake, h]
    rw [List.zipIdx_cons]
    cases hp : post l with
    | none =>
      have hskip := hrest c fun ps => by rw [hp]; rfl
      simp only [List.filterMap_cons, hp, Option.map_none, Option.filter_none, ← hskip]
    | some p =>
      by_cases hlt : c < p
      · have hskip := hrest c fun ps => by
          rw [hp]
          change List.foldl _ (if p = c then c + 1 else c) ps = _
          rw [if_neg (by omega)]
          rfl
        simp [hp, postsAhead, hlt, Option.filter, afterPosts, ← hskip]
      · have hskip := hrest (if p = c then c + 1 else c) fun ps => by rw [hp]; rfl
        simp [hp, postsAhead, hlt, Option.filter, afterPosts, ← hskip]

/-- The gain instructions check their record index (R371, R374, R375). -/
theorem gain_faults {s : State} {b : Bundle} {x : Instr} {body : Bundle → State → Res} {next : Res} {i : GNum}
    (he : exec x = issueStd x body) (hb : s.bundle? = some b) (hr : b.ready x = true)
    (hbody : body b s = match b.outHits s (s.gainCheck b i) with | some (code, hits) => .bad code hits | none => next)
    (hne : b.each s ≠ []) :
    ((∀ w, s.work? b.u.work = some w → ¬ ∃ j, w.job = some j ∧ j.gainMode = true) →
      exec x s = .next (s.takeFault b.u.id b.wg 0x16 true b.pc
        ((b.hitsOf s (fun _ => true) fun c => (c.g i).toNat).map (Hit.under 1)))) ∧
    ∀ w j, s.work? b.u.work = some w → w.job = some j → j.gainMode = true → (∃ c ∈ b.each s, (c.g i).toNat ≥ j.count) →
      exec x s = .next (s.takeFault b.u.id b.wg 0x16 true b.pc
        ((b.hitsOf s (fun c => decide ((c.g i).toNat ≥ j.count)) fun c => (c.g i).toNat).map (Hit.under 2))) := by
  obtain ⟨c, hc⟩ := List.exists_mem_of_ne_nil _ hne
  refine ⟨fun hno => exec_outHits he hb hr hbody ?_, fun w j hw hj hm hbad => exec_outHits he hb hr hbody ?_⟩
  · exact outHits_cause (gainCheck_noJob (gainJob_none hno)) ⟨c, hc, rfl⟩
  · exact outHits_cause (gainCheck_inJob (gainJob_some hw hj hm)) (by simpa using hbad)

/-- Settles O35: an issue some of whose lanes fail a check raises their fault under the check's cause (`outHits_cause`); of ORDPOST the
lanes are those of `postsAhead_eq`. -/
theorem taskArguments : Obligations.TaskArguments := by
  unfold Obligations.TaskArguments
  refine ⟨?jsub, ?task⟩
  case jsub =>
    intro g n off card s b hb hr hbad
    have hcard (c : LaneCtx) : jsubEa n off c = card c := by rw [jsubEa, immValue_eq]
    refine exec_outHits (i := .jsub g n off) rfl hb hr rfl (outHits_bad (fun c hc => ?_) (fun c hc => ?_) hbad) <;>
      rw [allows_eq_inReg, hcard, hc] <;> rfl
  intro s b i v d k hb hne fault isGain
  refine ⟨?gains, fun hno => ⟨?resadd, ?resget⟩, ?ordpost⟩
  case gains =>
    intro x hx hr
    simp only [List.mem_cons, List.not_mem_nil, or_false] at hx
    obtain rfl | rfl | rfl := hx <;> exact gain_faults rfl hb hr rfl hne
  case resadd =>
    intro hr
    obtain ⟨c, hc⟩ := List.exists_mem_of_ne_nil _ hne
    refine exec_outHits (i := .resadd v) rfl hb hr rfl (outHits_cause (fun c => ?_) ⟨c, hc, rfl⟩)
    rw [inJob_false hno]
    rfl
  case resget =>
    intro hr
    exact exec_bad (i := .resget d k) rfl hb hr (by rw [inJob_false hno]; rfl)
  case ordpost =>
    intro post early hr hahead
    have hposts (x : Nat × Warp × List Nat) : postsAhead (s.chainOf b.u (b.wid x.1))
        (laneItems x.2.1 x.2.2 fun l t => (l, (t.gr v.toNat).val.toNat)) = early x.1 x.2.1 x.2.2 := by
      have hitems : (laneItems x.2.1 x.2.2 fun l t => (l, (t.gr v.toNat).val.toNat)) =
          x.2.2.filterMap fun l => (post x.2.1 l).map fun q => (l, q) := by
        refine List.filterMap_congr fun l _ => ?_
        cases h : x.2.1.threads[l]? <;> simp [post, h]
      rw [hitems, postsAhead_eq (post x.2.1)]
    refine exec_bad (i := .ordpost v) rfl hb hr ?_
    simp only [hposts]
    split
    · next h hs heq => exact congrArg (Res.bad 0x16) heq.symm
    · next heq =>
      obtain ⟨x, hx, hex⟩ := hahead
      have hnone := List.filterMap_eq_nil_iff.1 heq x hx
      split at hnone
      · next hnil => exact absurd hnil hex
      · exact absurd hnone (Option.some_ne_none _)

end Sys2Proof.Machine
end

section
/-! Proof of the task instructions at issue (R368 to R379, R398, R399). -/

namespace Sys2Proof.Machine

/-! ### The numbers of an issue's lanes (R368, R398, R399) -/

/-- The lanes of an issue in ascending lane order. -/
def laneOrder (ps : List (Nat × Warp × List Nat)) : List (Nat × Nat) :=
  sortKey (·.2) (ps.flatMap fun (wi, _, ls) => ls.map fun l => (wi, l))
theorem mem_laneOrder {ps : List (Nat × Warp × List Nat)} {p : Nat × Warp × List Nat} (hp : p ∈ ps) {l : Nat} (hl : l ∈ p.2.2) :
    (p.1, l) ∈ laneOrder ps :=
  (mem_sortKey ..).2 (List.mem_flatMap.2 ⟨p, hp, List.mem_map_of_mem hl⟩)
theorem numberLanes_length (ps : List (Nat × Warp × List Nat)) (k : Nat) : (numberLanes ps k).length = (laneOrder ps).length := by
  simp [numberLanes, laneOrder]
/-- The place of a listed lane is found beside it. -/
theorem find?_numbered {xs : List (Nat × Nat)} {wi l : Nat} (h : (wi, l) ∈ xs) (k n : Nat) :
    ((xs.zipIdx n).map fun ((w, x), i) => (w, x, k + i)).find? (fun (w, x, _) => w == wi && x == l) =
      some (wi, l, k + (n + xs.idxOf (wi, l))) := by
  induction xs generalizing n with
  | nil => exact absurd h List.not_mem_nil
  | cons y ys ih =>
    rw [List.zipIdx_cons, List.map_cons, List.find?_cons, List.idxOf_cons]
    by_cases hy : y = (wi, l)
    · subst hy
      simp
    · have htail : (wi, l) ∈ ys := (List.mem_cons.1 h).resolve_left fun he => hy he.symm
      have hno : (y.1 == wi && y.2 == l) = false := by
        rw [← Bool.not_eq_true]
        simpa [Prod.ext_iff] using hy
      have hne : (y == (wi, l)) = false := by simpa using hy
      simp only [hno, ih htail, hne, cond_false]
      congr 4
      omega
theorem find?_numberLanes {ps : List (Nat × Warp × List Nat)} {p : Nat × Warp × List Nat} (hp : p ∈ ps) {l : Nat} (hl : l ∈ p.2.2)
    (k : Nat) : (numberLanes ps k).find? (fun (w, x, _) => w == p.1 && x == l) =
      some (p.1, l, k + (laneOrder ps).idxOf (p.1, l)) := by
  have h := find?_numbered (mem_laneOrder hp hl) k 0
  rwa [Nat.zero_add] at h

/-- The identifier of a lane of an issue of JSUB (R399). -/
def Bundle.jsubName (b : Bundle) (wi l : Nat) : Nat :=
  match (numberLanes b.parts b.u.jsubs).find? fun (w, x, _) => w == wi && x == l with
  | some (_, _, k) => jsubId b.u k
  | none => 0
theorem jsubName_eq {b : Bundle} {p : Nat × Warp × List Nat} (hp : p ∈ b.parts) {l : Nat} (hl : l ∈ p.2.2) :
    b.jsubName p.1 l = jsubId b.u (b.u.jsubs + (laneOrder b.parts).idxOf (p.1, l)) := by
  simp only [Bundle.jsubName, find?_numberLanes hp hl]
/-- One warp of an issue of JSUB: its operation, of the cards given, and its register, of the values given in verify mode. -/
def State.jsubWarp (s : State) (b : Bundle) (g : GNum) (group wi : Nat) (ls : List Nat) (cards : List (Nat × Nat × Nat))
    (outs : List (Nat × LaneOut)) : State :=
  (s.newOp fun id => { MemOp.plain (b.wid wi) b.g.core b.pc (.jsub b.u.queue b.u.ctx g.toNat cards) ls [] id with
    group := group }).modWarp (b.wid wi) fun x =>
      if b.u.cfg.det = 2 then pendWarp b.pc none .known outs x else x.setSb [.g g.toNat] b.pc

/-! ### When the task instructions go on (R371, R376 to R378) -/

section
variable {s : State} {b : Bundle}

theorem gainCheck_passes {i : GNum} {w : Work} {j : JobCfg} (hw : s.work? b.u.work = some w) (hj : w.job = some j)
    (hm : j.gainMode = true) (hc : ∀ c ∈ b.each s, (c.g i).toNat < j.count) : b.outHits s (s.gainCheck b i) = none :=
  outHits_none fun c hmem => by
    rw [gainCheck_inJob (gainJob_some hw hj hm), if_neg (by simpa using hc c hmem)]
theorem inJob_true {w : Work} (hw : s.work? b.u.work = some w) (hj : w.job.isSome = true) : s.inJob b.u = true := by
  simp only [State.inJob, State.workOf, hw, Option.map_some, Option.getD_some, hj]
theorem chain_eq {w : Work} (hw : s.work? b.u.work = some w) : s.chain b.u = (w.chainC, w.chainT) := by
  simp only [State.chain, State.workOf, hw, Option.map_some, Option.getD_some]
end
theorem sends_without_hits {code : Nat} {r : Res} : ∀ {hits : List Hit}, hits = [] →
    (match hits with | h :: hs => Res.bad code (h :: hs) | [] => r) = r
  | [], _ => rfl
/-- The posts of lanes that are behind the count, each counted after those before it. -/
theorem postsAhead_nil {post : Nat → Option Nat} {ls : List Nat} {c : Nat}
    (h : ∀ (j l : Nat), ls[j]? = some l → ∀ q, post l = some q → q ≤ afterPosts c ((ls.take j).filterMap post)) :
    postsAhead c (ls.filterMap fun l => (post l).map fun q => (l, q)) = [] := by
  rw [postsAhead_eq, List.filterMap_eq_nil_iff]
  rintro ⟨l, j⟩ hx
  have hj : ls[j]? = some l := List.mem_zipIdx_iff_getElem?.1 hx
  cases hq : post l with
  | none => rfl
  | some q =>
    have hle := h j l hj q hq
    simp [Option.filter, Nat.not_lt.2 hle]

/-- Settles O34: each body goes on (`access_does`): the numbers of JSUB's lanes are those of `find?_numberLanes`, the checks of the
others pass, and no post is ahead of its count (`postsAhead_nil`). -/
theorem taskInstructions : Obligations.TaskInstructions := by
  unfold Obligations.TaskInstructions
  intro g i v d p n off k send each ask counted inJob card
  have hfree {s : State} {b : Bundle} (h : counted s b) : b.outHits s (s.gainCheck b i) = none := by
    obtain ⟨w, j, hw, hj, hm, hc⟩ := h
    exact gainCheck_passes hw hj hm hc
  have hjob {s : State} {b : Bundle} (h : inJob s b) : s.inJob b.u = true := by
    obtain ⟨w, hw, hj⟩ := h
    exact inJob_true hw hj
  refine ⟨access_does rfl fun s b hok _ => ?jsub, access_does rfl fun s b _ h => ?gainadd, access_does rfl fun s b _ h => ?gainset,
    access_does rfl fun s b _ h => ?gainget, access_does rfl fun s b _ h => ?resadd, access_does rfl fun s b _ h => ?resget,
    access_does rfl fun s b _ h => ?ordwait, access_does rfl fun s b _ h => ?ordpost⟩
  case gainadd => simp only [gainBody, hfree h]; rfl
  case gainset => simp only [gainBody, hfree h]; rfl
  case gainget => simp only [hfree h]; rfl
  case resadd =>
    simp only [hjob h, if_true, outHits_none (f := fun _ => LaneOut.ok []) fun _ _ => rfl]
    rfl
  case resget => simp only [hjob h, if_true]; rfl
  case ordwait =>
    obtain ⟨w, hw, htime, hcount⟩ := h
    have hall : (b.lanes.all fun (_, _, _, t) => (t.gr p.toNat).val.toNat ≤ w.chainC) = true :=
      List.all_eq_true.2 fun x hx => decide_eq_true (hcount x hx)
    simp only [chain_eq hw, hall, htime, decide_true, Bool.and_self, if_true]
    rfl
  case ordpost =>
    have hnone : (b.parts.filterMap fun (wi, w, ls) => match postsAhead (s.chainOf b.u (b.wid wi))
        (laneItems w ls fun l t => (l, (t.gr p.toNat).val.toNat)) with
      | [] => none
      | (l, q) :: rest => some (⟨wi, l :: rest.map (·.1), q, 4, (l, q) :: rest⟩ : Hit)) = [] := by
      refine List.filterMap_eq_nil_iff.2 fun x hx => ?_
      have hitems : (laneItems x.2.1 x.2.2 fun l t => (l, (t.gr p.toNat).val.toNat)) =
          x.2.2.filterMap fun l => ((x.2.1.threads[l]?).map fun t => (t.gr p.toNat).val.toNat).map fun q => (l, q) := by
        refine List.filterMap_congr fun l _ => ?_
        cases x.2.1.threads[l]? <;> rfl
      have hnil : postsAhead (s.chainOf b.u (b.wid x.1)) (laneItems x.2.1 x.2.2 fun l t => (l, (t.gr p.toNat).val.toNat)) = [] := by
        rw [hitems]
        refine postsAhead_nil fun j l hl q hq => ?_
        obtain ⟨t, ht, rfl⟩ := Option.map_eq_some_iff.1 hq
        exact h x hx j l hl t ht
      simp only [hnil]
    exact (sends_without_hits hnone).trans rfl
  case jsub =>
    have hcard (c : LaneCtx) : jsubEa n off c = card c := by rw [jsubEa, immValue_eq]
    have hpass : b.outHits s (fun c => if ((c.th.ar n.toNat).allows (jsubEa n off c) 128 true true && jsubEa n off c % 64 == 0) = true
        then LaneOut.ok [] else .bad 0x04 (BitVec.ofInt 64 (jsubEa n off c)).toNat 0) = none :=
      outHits_none fun c hc => by rw [allows_eq_inReg, hcard, if_pos (hok c hc)]; rfl
    simp only [hpass, numberLanes_length]
    refine congrArg (fun t => Res.done (State.past (State.modUnit t _ _) b true sameThread)) (List.foldl_ext _ _ _ fun t x hx => ?_)
    have hname {l : Nat} (hl : l ∈ x.2.2) := jsubName_eq hx hl
    refine congrArg₂ (t.jsubWarp b g s.nextId x.1 x.2.2) (List.filterMap_congr fun l hl => ?_) (List.map_congr_left fun l hl => ?_)
    · change (x.2.1.threads[l]?).map (fun th => (l, _, if b.u.cfg.det = 0 then 0 else b.jsubName x.1 l + 1)) = _
      simp only [hname hl, hcard]
      rfl
    · change (l, LaneOut.ok [.g g.toNat (BitVec.ofNat 32 (b.jsubName x.1 l)) (zeroSh b.u.cfg) 0]) = _
      rw [hname hl]
      rfl

end Sys2Proof.Machine
end

section
/-! Proof of ATOM and CAS at issue (R437 to R444, R393). -/

namespace Sys2Proof.Machine

/-! ### Operations of an issue that also change their core (R105, R442) -/

/-- The warps of the operations of two states, with the operations' numbers, and the next number, are alike. -/
def State.sameNumbers (s t : State) : Prop := t.ops.map (fun o => (o.w, o.id)) = s.ops.map (fun o => (o.w, o.id)) ∧ t.nextId = s.nextId
theorem opOfWarp_sameNumbers {s t : State} (h : s.sameNumbers t) (w : WarpId) : opOfWarp t w = opOfWarp s w := by
  have hkeys (r : State) : opOfWarp r w =
      ((((r.ops.map fun o => (o.w, o.id)).filter (·.1 == w)).getLast?).map (·.2)).getD 0 := by
    simp only [opOfWarp, List.filter_map, Function.comp_def, List.getLast?_map, Option.map_map]
  rw [hkeys, hkeys, h.1]
/-- An issue that changes cores beside its operations numbers these as it would without. -/
theorem opOfWarp_issued_modCore {s : State} {b : Bundle} (hb : s.bundle? = some b) (hproper : b.proper = true) {ctr : Option Counter}
    {tagged : Bool} {regs : List RegName} {op : Nat → Warp → List Nat → Option Nat → Nat → MemOp} {n : Nat}
    {f : Nat → Warp → List Nat → Core → Core}
    (hw : ∀ wi w ls tag id, (op wi w ls tag id).w = b.wid wi) (hid : ∀ wi w ls tag id, (op wi w ls tag id).id = id)
    {wi : Nat} (hwi : wi ∈ b.parts.map (·.1)) :
    opOfWarp (s.issued b ctr tagged regs op fun wi w ls t => t.modCore n (f wi w ls)) (b.wid wi) = opNumber b s wi := by
  have hsame : (s.issued b ctr tagged regs op onlyOps).sameNumbers
      (s.issued b ctr tagged regs op fun wi w ls t => t.modCore n (f wi w ls)) := by
    refine List.foldl_rel (r := State.sameNumbers) ⟨rfl, rfl⟩ fun p _ t t' ht => ?_
    obtain ⟨hops, hnext⟩ := ht
    refine ⟨?_, (modCore_nextId ..).trans (congrArg (· + 1) hnext)⟩
    simp only [modCore_ops, onlyOps, State.addOp, State.newOp, modWarp_ops, List.map_append, hops, hnext, List.map_cons, List.map_nil,
      hw, hid]
  rw [opOfWarp_sameNumbers hsame, opOfWarp_issued hb hproper hw hid hwi]

/-! ### ATOM and CAS at issue (R437 to R444) -/

/-- The parts that a lane of an ATOM or a CAS sends. -/
def atomParts (p : AtomPlan) (b : Bundle) (_ : Nat) (w : Warp) (l : Nat) (t : Thread) : List Part := p.parts b w l t
theorem atomParts_eq (p : AtomPlan) (b : Bundle) : atomParts p b = fun _ w l t =>
    let a := t.ar p.n.toNat
    (0 :: (if p.dual && decide (b.u.stride a > 0) then (List.range b.u.cfg.d).map (· + 1) else [])).flatMap fun j =>
      let va := a.ptr.toNat + j * b.u.stride a
      (accParts b.u a l j va p.bytes 0 ((visTime w.tags (t.maskOf (.a p.n.toNat :: p.data))).getD 0) []).map fun q =>
        { q with data := p.value t j, off := a.win + 16 * (va - ((b.u.windows[a.win]?).map (·.base)).getD 0) } := by
  funext _ w l t
  dsimp only
  unfold atomParts AtomPlan.parts
  by_cases hd : (p.dual && decide (b.u.stride (t.ar p.n.toNat) > 0)) = true
  · simp only [hd, if_true, List.flatMap_cons, List.flatMap_map]
    rfl
  · simp only [hd, Bool.false_eq_true, if_false, List.flatMap_cons, List.flatMap_nil]
    rfl
/-- What the operations of an issue leave in flight; blocks of the core's L1 that they touch are dropped. -/
def State.atomsSent (s : State) (b : Bundle) (p : AtomPlan) (acq rel : Bool) : State :=
  let held := slicesHold rel p.scope (b.sends (atomParts p b))
  s.issued b (some .ld) true p.regs (fun wi w ls tag id =>
    { MemOp.plain (b.wid wi) b.g.core b.pc p.kind ls (sendsOf (atomParts p b) wi w ls) id with
      group := s.nextId, tag := tag, mask := (tag.map tagMask).getD 0, scope := p.scope, acq := acq
      rel := held, cleared := !held })
    (fun wi w ls t => t.modCore b.g.core fun c => (sendsOf (atomParts p b) wi w ls).foldl
      (fun c q => if q.space == .local then c.l1Drop q.addr q.n else c) c)

/-- An ATOM or a CAS that no lane's address and no wait keeps from going sends its operations. -/
theorem atomBody_done {p : AtomPlan} {s : State} {b : Bundle} (hproper : b.proper = true)
    (hok : ∀ c ∈ b.each s, (inReg (c.th.ar p.n.toNat) (c.th.ar p.n.toNat).ptr.toNat p.bytes true true &&
      (c.th.ar p.n.toNat).ptr.toNat % p.bytes == 0) = true)
    (hgo : b.mayGo s (some .ld) (fun t => (t.ar p.n.toNat).mask) = true)
    (hknown : b.carriedKnown (fun t => t.maskOf (.a p.n.toNat :: p.data)) = true)
    (hfree : storesFree b s (atomParts p b)) (hrel : releaseGoes b s (Order.rel p.ord) p.scope (b.sends (atomParts p b))) :
    atomBody p b s = .done ((s.atomsSent b p (Order.acq p.ord) (Order.rel p.ord)).past b true fun wi _ t =>
      acquires (Order.acq p.ord) (opOfWarp (s.atomsSent b p (Order.acq p.ord) (Order.rel p.ord)) (b.wid wi)) t) := by
  have hhits : b.outHits s (atomCheck p.n p.bytes true) = none :=
    outHits_none fun c hc => by
      have h := hok c hc
      rw [← allows_eq_inReg] at h
      simp only [atomCheck, h, if_true]
      rfl
  have hwait : (!b.mayGo s (some .ld) (fun t => t.maskOf [.a p.n.toNat]) ||
      !b.carriedKnown (fun t => t.maskOf (.a p.n.toNat :: p.data)) ||
      (b.storePlaces (atomParts p b)).any fun (_, ps) => s.heldUp b.u ps) = false := by
    simp only [maskOf_address, hgo, hknown, storesFree_heldUp hfree, Bool.not_true, Bool.or_self]
  have hplain : ((heldParts (Order.rel p.ord) p.scope ((b.storePlaces (atomParts p b)).flatMap (·.2))).2 && !b.relReady s p.scope) = false := by
    rw [storePlaces_flatMap, heldParts_eq]
    exact releaseGoes_plain hrel
  have hheld : (heldParts (Order.rel p.ord) p.scope ((b.storePlaces (atomParts p b)).flatMap (·.2))).1 =
      slicesHold (Order.rel p.ord) p.scope (b.sends (atomParts p b)) := by
    rw [storePlaces_flatMap, heldParts_eq]
  unfold atomBody
  refine (store_goes hhits hwait hplain (storesFree_forceLoops hproper hfree)).trans (congrArg Res.done ?_)
  rw [State.atomsSent, ← hheld]
  rfl
theorem atom_does {i : Instr} {plan : Bundle → AtomPlan} {n : ANum} {bytes : Nat} {sc : Scope} {acq rel : Bool}
    {data : List RegName} (he : exec i = issueStd i fun b s => atomBody (plan b) b s)
    (hplan : ∀ b, (plan b).n = n ∧ (plan b).bytes = bytes ∧ (plan b).scope = sc ∧ Order.acq (plan b).ord = acq ∧ Order.rel (plan b).ord = rel ∧
      (plan b).data = data) :
    AccessDoes i (fun c => inReg (c.th.ar n.toNat) (c.th.ar n.toNat).ptr.toNat bytes true true &&
        (c.th.ar n.toNat).ptr.toNat % bytes == 0)
      (fun b s => b.mayGo s (some .ld) (fun t => (t.ar n.toNat).mask) = true ∧
        b.carriedKnown (fun t => t.maskOf (.a n.toNat :: data)) = true ∧
        storesFree b s (atomParts (plan b) b) ∧ releaseGoes b s rel sc (b.sends (atomParts (plan b) b)))
      (fun b s => (s.atomsSent b (plan b) acq rel).past b true fun wi _ t => acquires acq (opNumber b s wi) t) := by
  intro s b hb hr hproper hok ⟨hgo, hknown, hfree, hrel⟩
  obtain ⟨rfl, rfl, rfl, rfl, rfl, rfl⟩ := hplan b
  rw [he, issueStd_ready hb hr, atomBody_done hproper hok hgo hknown hfree hrel]
  refine congrArg Host.Outcome.next (past_congr fun wi hwi => ?_)
  rw [State.atomsSent, opOfWarp_issued_modCore hb hproper (fun _ _ _ _ _ => rfl) (fun _ _ _ _ _ => rfl) hwi]

/-- Settles O23: no lane faults, nothing makes the issue wait and no LOOP is forced first, so the warps send their operations
(`atomBody_done`). -/
theorem atomicIssues : Obligations.AtomicIssues := by
  unfold Obligations.AtomicIssues
  intro g n sc op b64 ord k acq rel atomic dual
  have hatom := atom_does (i := .atom g n sc op b64 ord) (plan := fun b =>
    ⟨n, gGroup g k, gGroup g k, 4 * k, dual b, sc, ord, .atom g.toNat op b64 (dual b), fun t j => match j with
      | 0 => groupBytes t g.toNat (4 * k)
      | j + 1 => groupShBytes t g.toNat j (4 * k)⟩) (n := n) (bytes := 4 * k) (sc := sc) (acq := acq) (rel := rel) (data := gGroup g k)
    rfl fun b => ⟨rfl, rfl, rfl, by cases ord <;> rfl, by cases ord <;> rfl, rfl⟩
  have hcas := atom_does (i := .cas g n sc b64 ord) (plan := fun b =>
    ⟨n, gGroup g (2 * k), gGroup g k, 4 * k, false, sc, ord, .cas g.toNat b64, fun t _ => groupBytes t g.toNat (8 * k)⟩)
    (n := n) (bytes := 4 * k) (sc := sc) (acq := acq) (rel := rel) (data := gGroup g (2 * k))
    rfl fun b => ⟨rfl, rfl, rfl, by cases ord <;> rfl, by cases ord <;> rfl, rfl⟩
  refine ⟨?_, ?_⟩
  · simp only [atomParts_eq, State.atomsSent] at hatom
    exact hatom
  · simp only [atomParts_eq, State.atomsSent] at hcas
    exact hcas

end Sys2Proof.Machine
end

section
/-! Proof of WAITCMP, PREF and FENCE at issue (R422 to R425, R445 to R447, R456, R499). -/

namespace Sys2Proof.Machine

/-! ### A WAITCMP whose checkpoint meets poison (R110, R447, R495) -/

/-- Lane 0 of one warp at the one word of its kernel, whose save slot has a poisoned unit that the image of g0 covers in part. -/
def poisonedSlot : State :=
  let s := State.reset.probe 32 0
  { s with issue := ⟨1, 0, [(0, [0])]⟩, home := { s.home with poison := [threadSlot 0 0 0 + 32] } }
/-- A WAITCMP of g0 at the pointer of a0. -/
def slotWaitcmp : Instr := .waitcmp 0 0 false .eq false
/-- The address checks that the statement gives the WAITCMP's lanes. -/
def slotWaitcmpOk (c : LaneCtx) : Bool :=
  inReg (c.th.ar 0) (c.th.ar 0).ptr.toNat 4 true false && (c.th.ar 0).ptr.toNat % 4 == 0 &&
    (c.unit.resolve (c.th.ar 0) (c.th.ar 0).ptr.toNat).1 != .stash
/-- The state that the statement gives the WAITCMP. -/
def statedWaitcmp (b : Bundle) (s : State) : State :=
  let s1 := s.writeCkpt b Thread.lastRegion ((List.range 1).map (0 + ·)) [0] true
  b.lanes.foldl (fun t (wi, _, l, _) => t.modThread (b.wid wi) l fun x => { x with busy := some s.nextId })
    (s1.issued b none true (gGroup 0 1) (fun wi w ls tag id =>
      let ps := sendsOf (fun _ _ l t =>
        (accParts b.u (t.ar 0) l 0 (t.ar 0).ptr.toNat (4 * 1) 0 0 []).map fun p => match t.matched with
          | some (v, time) => { p with st := .done, data := natBytes (4 * 1) v, time := time }
          | none => p) wi w ls
      { MemOp.plain (b.wid wi) b.g.core b.pc (.waitcmp 0 .eq false
          (ls.filterMap fun l => (w.threads[l]?).map fun t => (l, bytesNat (groupBytes t 0 (4 * 1))))) ls ps id with
        group := s.nextId, tag := tag, mask := (tag.map tagMask).getD 0, scope := .dev
        acq := true }) onlyOps)
/-- The number by which lane 0 waits inside an instruction. -/
def State.waitsBy (s : State) : Option Nat := (s.thread? ⟨1, 0, 0⟩ 0).bind (·.busy)
/-- The bundle meets the hypotheses of the clause, and in the stated state lane 0 waits by the number 2. -/
def waitcmpTells (b : Bundle) : Bool :=
  b.ready slotWaitcmp && b.proper && (b.each poisonedSlot).all slotWaitcmpOk && !b.ckptWaits poisonedSlot Thread.lastRegion &&
    b.mayGo poisonedSlot none (fun t => (t.ar 0).mask) && (b.lanes.all fun x => regionTiles b.u.cfg x.2.2.2.lastRegion == []) &&
    (statedWaitcmp b poisonedSlot).waitsBy == some 2
theorem poisonedSlot_tells : poisonedSlot.bundle?.any waitcmpTells = true := by decide +kernel
/-- In the state of the model lane 0 waits by the number 3: the imprecise fault of the checkpoint has taken the number 2. -/
theorem poisonedSlot_waits : (match exec slotWaitcmp poisonedSlot with | .next t => t.waitsBy | _ => none) = some 3 := by
  decide +kernel

/-- Refutes O24: its WAITCMP waits by the number that stood before the issue, where a checkpoint that meets a poisoned unit files an
imprecise fault, which takes that number, and the threads wait by the next one. In `poisonedSlot` the two differ. -/
theorem not_waitsAndPrefetch : ¬ Obligations.WaitsAndPrefetch := by
  unfold Obligations.WaitsAndPrefetch
  intro h
  obtain ⟨b, hb, htells⟩ := (Option.any_eq_true _ _).1 poisonedSlot_tells
  simp only [waitcmpTells, Bool.and_eq_true, List.all_eq_true, Bool.not_eq_true', beq_iff_eq] at htells
  obtain ⟨⟨⟨⟨⟨⟨hready, hproper⟩, hok⟩, hckpt⟩, hgo⟩, htiles⟩, hwaits⟩ := htells
  obtain ⟨hwaitcmp, -⟩ := h 0 0 false false .eq 0 0 .norm .dev
  have hstated : exec slotWaitcmp poisonedSlot = .next (statedWaitcmp b poisonedSlot) :=
    hwaitcmp poisonedSlot b hb hready hproper hok ⟨hckpt, hgo, htiles⟩
  have hmodel := poisonedSlot_waits
  rw [hstated] at hmodel
  exact absurd (hwaits.symm.trans hmodel) (by decide)

end Sys2Proof.Machine
end

section
/-! Proof of SMAP, SFLUSH and SUNMAP at issue (R452 to R455). -/

namespace Sys2Proof.Machine

/-! ### Binding windows (R452, R455) -/

/-- What SMAP asks of a lane's window, against the windows bound before it. -/
def bindable (u : Placed) (st : List Stash) (a : AReg) (off : Nat) : Bool :=
  let len := a.limit.toNat + 1 - a.base.toNat
  a.valid && !a.arg && decide (8 ≤ a.win) && ((u.windows[a.win]?).map fun w => w.range && w.w && w.used).getD false &&
    decide (a.base.toNat % 256 = 0 ∧ len % 256 = 0 ∧ len ≤ 2 ^ 21 ∧ off % 256 = 0 ∧ off + len ≤ u.cfg.csize * u.cfg.spad ∧
      st.length < 8) &&
    st.all fun x => !overlaps x.vbase x.length a.base.toNat len && !overlaps x.soff x.length off len
theorem smapCause_none {u : Placed} {st : List Stash} {a : AReg} {off : Nat} (h : bindable u st a off = true) :
    smapCause u st a off = none := by
  simp only [bindable, Bool.and_eq_true, decide_eq_true_eq, List.all_eq_true, Bool.not_eq_true'] at h
  obtain ⟨⟨⟨⟨⟨hvalid, harg⟩, hwin⟩, hused⟩, hbase, hlen, hmax, hoff, hspad, hroom⟩, hapart⟩ := h
  have hva : (st.any fun x => overlaps x.vbase x.length a.base.toNat (spanLen a)) = false :=
    List.any_eq_false.2 fun x hx => by simp [spanLen, (hapart x hx).1]
  have hso : (st.any fun x => overlaps x.soff x.length off (spanLen a)) = false :=
    List.any_eq_false.2 fun x hx => by simp [spanLen, (hapart x hx).2]
  unfold smapCause
  dsimp only
  rw [if_neg (by simp [hvalid, harg, hwin, hused]), if_neg (by simpa [spanLen, hbase, hlen] using hmax),
    if_neg (by simpa [spanLen, LaunchCfg.spadSize, hoff] using hspad), hva, hso, if_neg (by simp), if_neg (by simp), if_neg (Nat.not_le.2 hroom)]

section
variable {b : Bundle} (n : ANum) (g : GNum)

/-- What SMAP takes of a lane. -/
def smapLane (x : Nat × Warp × Nat × Thread) : Nat × Nat × AReg × Nat :=
  (x.1, x.2.2.1, x.2.2.2.ar n.toNat, (x.2.2.2.gr g.toNat).val.toNat)
/-- The windows bound once some lanes have bound theirs. -/
def boundBy (u : Placed) (xs : List (Nat × Warp × Nat × Thread)) (st : List Stash) : List Stash :=
  xs.foldl (fun st x => smapBind u st (x.2.2.2.ar n.toNat) (x.2.2.2.gr g.toNat).val.toNat) st
/-- Every lane may bind its window against those of the lanes before it. -/
def BindAll (u : Placed) (xs : List (Nat × Warp × Nat × Thread)) (st : List Stash) : Prop :=
  ∀ k x, xs[k]? = some x → bindable u (boundBy n g u (xs.take k) st) (x.2.2.2.ar n.toNat) (x.2.2.2.gr g.toNat).val.toNat = true

theorem smapAll_stops {u : Placed} {x : Nat × Warp × Nat × Thread} {xs : List (Nat × Nat × AReg × Nat)} {st : List Stash} {c d0 : Nat}
    (h : smapCause u st (x.2.2.2.ar n.toNat) (x.2.2.2.gr g.toNat).val.toNat = some (c, d0)) :
    smapAll u (smapLane n g x :: xs) st = (st, some (x.1, x.2.2.1, c, d0)) := by
  simp only [smapAll, smapLane, h]
theorem smapAll_append {u : Placed} {xs ys : List (Nat × Warp × Nat × Thread)} {st : List Stash} (h : BindAll n g u xs st) :
    smapAll u ((xs ++ ys).map (smapLane n g)) st = smapAll u (ys.map (smapLane n g)) (boundBy n g u xs st) := by
  induction xs generalizing st with
  | nil => rfl
  | cons x xs ih =>
    have hx := smapCause_none (h 0 x rfl)
    have hxs : BindAll n g u xs (smapBind u st (x.2.2.2.ar n.toNat) (x.2.2.2.gr g.toNat).val.toNat) := fun k y hy => h (k + 1) y hy
    have hcons : smapAll u (((x :: xs) ++ ys).map (smapLane n g)) st = smapAll u ((xs ++ ys).map (smapLane n g))
        (smapBind u st (x.2.2.2.ar n.toNat) (x.2.2.2.gr g.toNat).val.toNat) := by
      rw [boundBy, List.take_zero] at hx
      simp only [List.cons_append, List.map_cons, smapAll, smapLane]
      rw [show smapCause u st (x.2.2.2.ar n.toNat) (x.2.2.2.gr g.toNat).val.toNat = none from hx]
    exact hcons.trans (ih hxs)
end

/-! ### Writing windows back (R406, R453, R454) -/

section
variable (b : Bundle) (n : ANum)

/-- Whether the lanes of a part name a window of this address. -/
def Bundle.names (x : Nat × Warp × List Nat) (v : Nat) : Bool := (b.namedBy n x.2.1 x.2.2).any (·.vbase == v)
/-- The windows that a part names first, whose bytes go in its operation. -/
def Bundle.firsts (x : Nat × Warp × List Nat) : List Stash := (b.namedBy n x.2.1 x.2.2).filter fun st =>
  (b.parts.find? fun y => b.names n y st.vbase).map (·.1) == some x.1
/-- The operations that bring the bytes of the windows named by earlier parts. -/
def Bundle.sentBy (s : State) (xs : List (Nat × Warp × List Nat)) : List (Nat × Nat) :=
  xs.flatMap fun x => (b.firsts n x).map fun st => (st.vbase, opNumber b s x.1)
end

section
variable {s : State} {b : Bundle} {n : ANum} {pre ps : List (Nat × Warp × List Nat)} {p : Nat × Warp × List Nat}
  (hparts : b.parts = pre ++ p :: ps) (hproper : b.proper = true)
include hparts hproper

theorem ne_of_mem_before {y : Nat × Warp × List Nat} (hy : y ∈ pre) : y.1 ≠ p.1 := by
  have hn := proper_warps hproper
  rw [hparts, List.map_append, List.map_cons, List.nodup_append] at hn
  exact hn.2.2 _ (List.mem_map_of_mem hy) _ List.mem_cons_self
theorem takeWhile_before : b.parts.takeWhile (·.1 != p.1) = pre := by
  rw [hparts, List.takeWhile_append_of_pos fun y hy => by simpa using ne_of_mem_before hparts hproper hy,
    List.takeWhile_cons_of_neg (by simp), List.append_nil]
theorem opNumber_at : opNumber b s p.1 = s.nextId + pre.length := by
  have hno : p.1 ∉ pre.map (·.1) := fun h => by
    obtain ⟨y, hy, heq⟩ := List.mem_map.1 h
    exact ne_of_mem_before hparts hproper hy heq
  rw [opNumber, hparts, List.map_append, List.idxOf_append_of_notMem hno, List.map_cons, List.idxOf_cons_self, List.length_map,
    Nat.add_zero]
/-- A part before this one brings the window when a part before this one names it. -/
theorem sentBy_any (v : Nat) : ((b.sentBy n s pre).any fun y => y.1 == v) = pre.any fun y => b.names n y v := by
  rw [Bool.eq_iff_iff, List.any_eq_true, List.any_eq_true]
  constructor
  · rintro ⟨y, hy, hv⟩
    obtain ⟨x, hx, hy⟩ := List.mem_flatMap.1 hy
    obtain ⟨st, hst, rfl⟩ := List.mem_map.1 hy
    exact ⟨x, hx, List.any_eq_true.2 ⟨st, (List.mem_filter.1 hst).1, hv⟩⟩
  · rintro ⟨y, hy, hv⟩
    obtain ⟨x, hx⟩ := Option.isSome_iff_exists.1 (List.find?_isSome (p := fun y => b.names n y v).2 ⟨y, hy, hv⟩)
    have hall : (b.parts.find? fun y => b.names n y v) = some x := by rw [hparts, List.find?_append, hx, Option.some_or]
    have hnames : b.names n x v = true := List.find?_some (p := fun y => b.names n y v) hx
    obtain ⟨st, hst, hvb⟩ := List.any_eq_true.1 hnames
    obtain rfl : st.vbase = v := by simpa using hvb
    refine ⟨_, List.mem_flatMap.2 ⟨x, List.mem_of_find?_eq_some hx, List.mem_map_of_mem (List.mem_filter.2 ⟨hst, ?_⟩)⟩, by simp⟩
    rw [hall]
    exact beq_self_eq_true _
/-- The windows that a part names first are those that nothing has brought before. -/
theorem firsts_eq : (b.namedBy n p.2.1 p.2.2).filter (fun st => !(b.sentBy n s pre).any fun y => y.1 == st.vbase) = b.firsts n p := by
  refine List.filter_congr fun st hst => ?_
  rw [sentBy_any hparts hproper]
  have hhere : b.names n p st.vbase = true := List.any_eq_true.2 ⟨st, hst, beq_self_eq_true _⟩
  rw [hparts, List.find?_append, List.find?_cons_of_pos (p := fun y => b.names n y st.vbase) hhere]
  cases hfind : pre.find? fun y => b.names n y st.vbase with
  | none =>
    have hnone : (pre.any fun y => b.names n y st.vbase) = false :=
      List.any_eq_false.2 fun y hy => List.find?_eq_none.1 hfind y hy
    simp [hnone]
  | some y =>
    have hany : (pre.any fun y => b.names n y st.vbase) = true :=
      List.any_eq_true.2 ⟨y, List.mem_of_find?_eq_some hfind, List.find?_some (p := fun y => b.names n y st.vbase) hfind⟩
    have hne := ne_of_mem_before hparts hproper (List.mem_of_find?_eq_some hfind)
    simp [hany, hne]
end

section
variable (s : State) (b : Bundle) (n : ANum) (unbind : Bool)

/-- The operation of one warp of a write-back. -/
def flushOp (wi : Nat) (w : Warp) (ls : List Nat) (id : Nat) : MemOp :=
  { MemOp.plain (b.wid wi) b.g.core b.pc (.sflush ((b.namedBy n w ls).map (·.vbase)) unbind) ls
      ((b.firsts n (wi, w, ls)).flatMap (stashParts b.u)) id with
    group := s.nextId
    waitSt := (b.sentBy n s (b.parts.takeWhile (·.1 != wi))).filterMap fun y =>
      if (b.namedBy n w ls).any (·.vbase == y.1) then some y.2 else none }
/-- The state once each warp of an issue has its write-back, which updates its core's L1 as a store does. -/
def State.flushed : State :=
  s.issued b (some .st) false [] (fun wi w ls _ id => flushOp s b n unbind wi w ls id)
    fun wi w ls t => t.storeL1 b.g.core false (opNumber b s wi) ((b.firsts n (wi, w, ls)).flatMap (stashParts b.u))
/-- One warp's turn in the model's write-back, which carries the windows brought so far. -/
def flushStep (x : State × List (Nat × Nat)) (p : Nat × Warp × List Nat) : State × List (Nat × Nat) :=
  let mine := b.namedBy n p.2.1 p.2.2
  let news := mine.filter fun st => !x.2.any (·.1 == st.vbase)
  let olds := (x.2.filter fun y => mine.any (·.vbase == y.1)).map (·.2)
  let ps := news.flatMap (stashParts b.u)
  let t := x.1.addOp (b.wid p.1) (some .st) false [] fun _ id =>
    { MemOp.plain (b.wid p.1) b.g.core b.pc (.sflush (mine.map (·.vbase)) unbind) p.2.2 ps id with group := s.nextId, waitSt := olds }
  (t.storeL1 b.g.core false x.1.nextId ps, x.2 ++ news.map fun st => (st.vbase, x.1.nextId))

theorem flushStep_eq {pre ps : List (Nat × Warp × List Nat)} {p : Nat × Warp × List Nat} (hparts : b.parts = pre ++ p :: ps)
    (hproper : b.proper = true) {t : State} (hid : t.nextId = s.nextId + pre.length) :
    flushStep s b n unbind (t, b.sentBy n s pre) p =
      ((t.addOp (b.wid p.1) (some .st) false [] fun _ id => flushOp s b n unbind p.1 p.2.1 p.2.2 id).storeL1 b.g.core false
        (opNumber b s p.1) ((b.firsts n p).flatMap (stashParts b.u)), b.sentBy n s (pre ++ [p])) := by
  have hnum : t.nextId = opNumber b s p.1 := by rw [opNumber_at hparts hproper, hid]
  have holds (f : Nat × Nat → Bool) (ys : List (Nat × Nat)) :
      (ys.filter f).map (·.2) = ys.filterMap fun y => if f y = true then some y.2 else none := by
    rw [← List.filterMap_eq_filter, List.map_filterMap]
    refine List.filterMap_congr fun y _ => ?_
    cases hf : f y <;> simp [Option.guard, hf]
  simp only [flushStep, flushOp, firsts_eq hparts hproper, takeWhile_before hparts hproper, hnum, holds]
  simp only [Bundle.sentBy, List.flatMap_append, List.flatMap_cons, List.flatMap_nil, List.append_nil]
/-- A write-back sends the operations of the issue's warps, and leaves the named windows clean. -/
theorem flushStash_eq (hproper : b.proper = true) (sts : List Stash) : s.flushStash b n sts unbind =
    (s.flushed b n unbind).modUnit b.u.id fun u =>
      { u with stash := u.stash.map fun st => if sts.any (·.vbase == st.vbase) then { st with dirty := [] } else st } := by
  have hfold (pre ps : List (Nat × Warp × List Nat)) (hparts : b.parts = pre ++ ps) (t : State)
      (hid : t.nextId = s.nextId + pre.length) :
      (ps.foldl (flushStep s b n unbind) (t, b.sentBy n s pre)).1 = ps.foldl (fun t p =>
        (t.addOp (b.wid p.1) (some .st) false [] fun _ id => flushOp s b n unbind p.1 p.2.1 p.2.2 id).storeL1 b.g.core false
          (opNumber b s p.1) ((b.firsts n p).flatMap (stashParts b.u))) t := by
    induction ps generalizing pre t with
    | nil => rfl
    | cons p ps ih =>
      rw [List.foldl_cons, List.foldl_cons, flushStep_eq s b n unbind hparts hproper hid]
      refine ih (pre ++ [p]) (by rw [hparts, List.append_assoc]; rfl) _ ?_
      rw [State.storeL1, modCore_nextId, nextId_addOp, hid, List.length_append]
      rfl
  have hsent : (b.parts.foldl (flushStep s b n unbind) (s, [])).1 = s.flushed b n unbind := hfold [] b.parts rfl s rfl
  rw [← hsent]
  rfl
end

/-- A lane that names no bound window, with the address of its pointer. -/
def Bundle.lost (b : Bundle) (n : ANum) (w : Warp) (l : Nat) : Option Nat := (w.threads[l]?).bind fun t =>
  if (b.u.stashAt (t.ar n.toNat).ptr.toNat).isNone then some (t.ar n.toNat).ptr.toNat else none
/-- The faults of the lanes that name no bound window. -/
theorem named_hits (b : Bundle) (n : ANum) : (b.named n).2 = b.parts.filterMap fun (wi, w, ls) =>
    match ls.filterMap fun l => (b.lost n w l).map fun a => (l, a) with
    | [] => none
    | (l, a) :: rest => some ⟨wi, l :: rest.map (·.1), a, 6, []⟩ := by
  refine List.filterMap_congr fun x _ => ?_
  obtain ⟨wi, w, ls⟩ := x
  dsimp only
  have hlanes : (ls.filter fun l => ((w.threads[l]?).map fun t => (b.u.stashAt (t.ar n.toNat).ptr.toNat).isNone).getD false) =
      (ls.filterMap fun l => (b.lost n w l).map fun a => (l, a)).map (·.1) := by
    rw [List.map_filterMap, ← List.filterMap_eq_filter]
    refine List.filterMap_congr fun l _ => ?_
    cases ht : w.threads[l]? with
    | none => simp [Bundle.lost, Option.guard, ht]
    | some t => cases hs : b.u.stashAt (t.ar n.toNat).ptr.toNat <;> simp [Bundle.lost, Option.guard, ht, hs]
  rw [hlanes]
  cases hlost : ls.filterMap fun l => (b.lost n w l).map fun a => (l, a) with
  | nil => rfl
  | cons y rest =>
    obtain ⟨l, a⟩ := y
    have hmem : (l, a) ∈ ls.filterMap fun l => (b.lost n w l).map fun a => (l, a) := hlost ▸ List.mem_cons_self
    obtain ⟨l', -, hl⟩ := List.mem_filterMap.1 hmem
    obtain ⟨a', ha, heq⟩ := Option.map_eq_some_iff.1 hl
    obtain ⟨rfl, rfl⟩ := Prod.mk.inj heq
    obtain ⟨t, ht, hptr⟩ := Option.bind_eq_some_iff.1 ha
    have hval : (t.ar n.toNat).ptr.toNat = a' := by
      split at hptr
      · exact Option.some.inj hptr
      · exact absurd hptr (by simp)
    simp [ht, hval]

/-- A write-back of which no lane is lost and that nothing makes wait goes on. -/
theorem flush_does {i : Instr} {n : ANum} {unbind : Bool} (he : exec i = issueStd i (flushBody n unbind)) :
    AccessDoes i (fun c => (c.unit.stashAt (c.th.ar n.toNat).ptr.toNat).isSome)
      (fun b s => b.mayGo s (some .st) (fun _ => 0) = true ∧
        ∀ st ∈ (b.named n).1, s.unbinding b.u st.vbase = false ∧ s.stashBusy b.u st = false)
      (fun b s => ((s.flushed b n unbind).modUnit b.u.id fun u =>
        { u with stash := u.stash.map fun st => if (b.named n).1.any (·.vbase == st.vbase) then { st with dirty := [] } else st }).past
        b unbind sameThread) := by
  intro s b hb hr hproper hok ⟨hgo, hfree⟩
  have hnone : (b.named n).2 = [] := by
    rw [named_hits, List.filterMap_eq_nil_iff]
    rintro ⟨wi, w, ls⟩ hx
    have hlost : (ls.filterMap fun l => (b.lost n w l).map fun a => (l, a)) = [] := by
      refine List.filterMap_eq_nil_iff.2 fun l hl => ?_
      cases ht : w.threads[l]? with
      | none => simp [Bundle.lost, ht]
      | some t =>
        have hc : b.laneCtx s wi w l t ∈ b.each s :=
          List.mem_flatMap.2 ⟨_, hx, List.mem_filterMap.2 ⟨l, hl, by rw [ht]; rfl⟩⟩
        have hnamed : b.u.stashAt (t.ar n.toNat).ptr.toNat ≠ none := Option.isSome_iff_ne_none.1 (hok _ hc)
        simp [Bundle.lost, ht, hnamed]
    simp only [hlost]
  have hwait : (!b.mayGo s (some .st) (fun _ => 0) ||
      (b.named n).1.any fun st => s.unbinding b.u st.vbase || s.stashBusy b.u st) = false := by
    rw [hgo, Bool.not_true, Bool.false_or, List.any_eq_false]
    intro st hst
    simp [hfree st hst]
  have hpair : b.named n = ((b.named n).1, []) := by rw [← hnone]
  rw [he, issueStd_ready hb hr, flushBody, hpair]
  simp only [hwait, Bool.false_eq_true, if_false, flushStash_eq s b n unbind hproper]
  rfl

/-- Settles O31: SMAP's lanes bind one after another up to the first that fails (`smapAll_append`); a write-back's operations are those of
`flushStash_eq`, and its lost lanes those of `named_hits`. -/
theorem stashInstructions : Obligations.StashInstructions := by
  unfold Obligations.StashInstructions
  intro n g bindOk bind off bound named mine firsts flush lost
  refine ⟨fun s b hb => ⟨fun hr k x c d0 hk hbefore hcause => ?fails, fun i hi hr hlost => ?lost⟩, ?smap, flush_does rfl, flush_does rfl⟩
  case fails =>
    have hall : BindAll n g b.u (b.lanes.take k) b.u.stash := fun j y hy => by
      rw [List.getElem?_take] at hy
      split at hy
      · next hj =>
        rw [List.take_take, Nat.min_eq_left (Nat.le_of_lt hj)]
        exact hbefore j y hj hy
      · exact absurd hy (by simp)
    obtain ⟨hlt, rfl⟩ := List.getElem?_eq_some_iff.1 hk
    have hsplit : b.lanes = b.lanes.take k ++ b.lanes[k] :: b.lanes.drop (k + 1) := by
      rw [← List.drop_eq_getElem_cons hlt, List.take_append_drop]
    have hres : smapAll b.u (b.lanes.map (smapLane n g)) b.u.stash =
        (boundBy n g b.u (b.lanes.take k) b.u.stash, some (b.lanes[k].1, b.lanes[k].2.2.1, c, d0)) := by
      have h := smapAll_append n g (ys := b.lanes[k] :: b.lanes.drop (k + 1)) hall
      rw [← hsplit, List.map_cons] at h
      exact h.trans (smapAll_stops n g hcause)
    refine exec_bad (i := .smap n g) rfl hb hr ?_
    change (match smapAll b.u (b.lanes.map (smapLane n g)) b.u.stash with
      | (_, some (wi, l, c, d0)) => Res.bad 0x17 [⟨wi, [l], d0, c, []⟩]
      | (stash, none) => _) = _
    rw [hres]
  case lost =>
    have hbody : ∀ unbind, flushBody n unbind b s = .bad 0x17 (b.named n).2 := fun unbind => by
      obtain ⟨x, hx, l, hl, hsome⟩ := hlost
      have hne : (b.named n).2 ≠ [] := by
        rw [named_hits]
        intro hnil
        have hnone := List.filterMap_eq_nil_iff.1 hnil x hx
        obtain ⟨a, ha⟩ := Option.isSome_iff_exists.1 hsome
        have hmem : (l, a) ∈ x.2.2.filterMap fun l => (b.lost n x.2.1 l).map fun a => (l, a) :=
          List.mem_filterMap.2 ⟨l, hl, by rw [show b.lost n x.2.1 l = some a from ha]; rfl⟩
        dsimp only at hnone
        split at hnone
        · next heq => rw [heq] at hmem; exact absurd hmem List.not_mem_nil
        · exact absurd hnone (Option.some_ne_none _)
      rw [flushBody]
      split
      · next heq => rw [heq]
      · next heq => exact absurd (congrArg Prod.snd heq) hne
    rw [named_hits] at hbody
    simp only [List.mem_cons, List.not_mem_nil, or_false] at hi
    obtain rfl | rfl := hi
    · exact exec_bad (i := .sunmap n) rfl hb hr (hbody true)
    · exact exec_bad (i := .sflush n) rfl hb hr (hbody false)
  case smap =>
    refine access_does rfl fun s b _ ⟨hbind, hquiet⟩ => ?_
    have hall : BindAll n g b.u b.lanes b.u.stash := hbind
    have hres : smapAll b.u (b.lanes.map (smapLane n g)) b.u.stash = (boundBy n g b.u b.lanes b.u.stash, none) := by
      have h := smapAll_append n g (ys := []) hall
      rw [List.append_nil] at h
      exact h
    have hwait : ((b.lanes.map (smapLane n g)).any fun (_, _, a, off) => s.channelOn b.u.id off (spanLen a)) = false := by
      rw [List.any_map, List.any_eq_false]
      exact fun x hx => Bool.not_eq_true _ ▸ hquiet x hx
    change (match smapAll b.u (b.lanes.map (smapLane n g)) b.u.stash with
      | (_, some (wi, l, c, d0)) => Res.bad 0x17 [⟨wi, [l], d0, c, []⟩]
      | (stash, none) =>
        if (b.lanes.map (smapLane n g)).any fun (_, _, a, off) => s.channelOn b.u.id off (spanLen a) then .wait else _) = _
    rw [hres, hwait]
    rfl

end Sys2Proof.Machine
end

section
/-! Proof of the management and attestation commands (R482, R484 to R486, R488, R490, R492 to R494). -/

namespace Sys2Proof.Machine

/-! ### Requests and their headers (R484; log entry 14) -/

theorem bytesNat_natBytes (n v : Nat) : bytesNat (natBytes n v) = v % 256 ^ n := by
  induction n generalizing v with
  | zero => simp [natBytes, bytesNat, Nat.mod_one]
  | succ n ih =>
    have hpow : 256 ^ (n + 1) = 256 * 256 ^ n := by rw [Nat.pow_succ, Nat.mul_comm]
    rw [natBytes, bytesNat, ih, BitVec.toNat_ofNat, hpow, Nat.mod_mul]
/-- A request of the vendor-defined type under the device's vendor identifier. -/
abbrev Ours (r : MgmtReq) : Prop :=
  r.vendor = Config.vendorId ∧ (r.iface = .doe ∧ r.type = 0x01 ∨ r.iface = .mctp ∧ r.type = 0x7E)
theorem isCommand_iff (r : MgmtReq) : r.isCommand = true ↔ Ours r := by
  simp only [MgmtReq.isCommand, Bool.and_eq_true, beq_iff_eq, and_comm (b := r.vendor = _), Ours]
  cases r.iface <;> simp [mgmtType]
/-- The request's TAG. -/
abbrev reqTag (r : MgmtReq) : Nat := r.header.toNat / 2 ^ 16 % 2 ^ 16
/-- A response under the request's TAG, with its LENGTH, STATUS and CMD, and nothing else of the device changed. -/
def Answers (r : MgmtReq) (s t : State) (cmd status : Nat) (payload : List Byte) : Prop :=
  t.amc.responses = s.amc.responses ++ [⟨r.iface, r.vendor, r.type,
    BitVec.ofNat 64 (payload.length * 2 ^ 32 + reqTag r * 2 ^ 16 + status * 2 ^ 8 + cmd), payload, none⟩] ∧
  t.home = s.home ∧ t.units = s.units ∧ t.queues = s.queues ∧ t.works = s.works
/-- A refusal changes nothing beside the response and the log. -/
def Refuses (r : MgmtReq) (s : State) (i : Instr) (cmd status : Nat) : Prop :=
  Does i s fun t => Answers r s t cmd status [] ∧ t.amc = { s.amc with responses := t.amc.responses, log := t.amc.log } ∧
    t.amc.log.getLast? ≠ none

section
variable {r : MgmtReq} {s : State}

theorem respHeader_eq (n : Nat) {status : Nat} (hs : status < 2 ^ 8) : respHeader n r.tag status r.cmd =
    BitVec.ofNat 64 (n * 2 ^ 32 + reqTag r * 2 ^ 16 + status * 2 ^ 8 + r.header.toNat % 2 ^ 8) := by
  refine BitVec.eq_of_toNat_eq ?_
  simp only [respHeader, MgmtReq.tag, MgmtReq.cmd, bitsOf, reqTag, BitVec.toNat_ofNat, pow_zero, Nat.div_one]
  omega
theorem answers_respond {t : State} {cmd status : Nat} (hc : r.header.toNat % 2 ^ 8 = cmd) (hresp : t.amc.responses = s.amc.responses)
    (hkept : t.home = s.home ∧ t.units = s.units ∧ t.queues = s.queues ∧ t.works = s.works) (hs : status < 2 ^ 8)
    (payload : List Byte) : Answers r s (t.respond r status payload) cmd status payload := by
  refine ⟨?_, hkept⟩
  simp only [State.respond, State.answer, respHeader_eq payload.length hs, hresp, hc]
theorem answers_log {t : State} {cmd status : Nat} {payload : List Byte} (h : Answers r s t cmd status payload) (a b c d : Nat) :
    Answers r s (t.log a b c d) cmd status payload := by
  obtain ⟨l, hl, -⟩ := log_eq t a b c d
  rw [hl]
  exact h
theorem log_getLast?_ne_none (t : State) (a b c d : Nat) : (t.log a b c d).amc.log.getLast? ≠ none := by
  rw [Ne, List.getLast?_eq_none_iff, ← List.length_eq_zero_iff, log_length]
  omega
theorem refuseCmd_refuses {i : Instr} {status : Nat} (he : exec i s = .next (s.refuseCmd r status)) (hs : status < 2 ^ 8) :
    Refuses r s i (r.header.toNat % 2 ^ 8) status := by
  refine ⟨_, he, answers_log (answers_respond rfl rfl ⟨rfl, rfl, rfl, rfl⟩ hs []) .., ?_, log_getLast?_ne_none (s.respond r status []) 2 r.cmd status 0⟩
  obtain ⟨l, hl, -⟩ := log_eq (s.respond r status []) 2 r.cmd status 0
  rw [State.refuseCmd, hl]
  rfl

/-! ### Which requests a command takes up (R484 to R486) -/

variable {cmd flags : Nat} {len : Nat → Bool} {go : State → State}

theorem command_foreign (h : ¬ Ours r) : s.command r cmd flags len go = .next s := by
  have hc : r.isCommand = false := by rwa [← Bool.not_eq_true, isCommand_iff]
  simp only [State.command, hc, Bool.not_false, if_true]
theorem command_unknown (h : Ours r) (hk : knownCmd r.cmd = false) : s.command r cmd flags len go = .next (s.refuseCmd r 3) := by
  simp only [State.command, (isCommand_iff r).2 h, hk, Bool.not_true, Bool.not_false, Bool.false_eq_true, if_false, if_true]
theorem command_other (h : Ours r) (hk : knownCmd r.cmd = true) (hc : r.cmd ≠ cmd) : s.command r cmd flags len go = .next s := by
  have hne : (r.cmd != cmd) = true := bne_iff_ne.2 hc
  simp only [State.command, (isCommand_iff r).2 h, hk, hne, Bool.not_true, Bool.false_eq_true, if_false, if_true]
theorem command_malformed (h : Ours r) (hk : knownCmd cmd = true) (hc : r.cmd = cmd) (hm : r.malformed flags len = true) :
    s.command r cmd flags len go = .next (s.refuseCmd r 3) := by
  simp only [State.command, (isCommand_iff r).2 h, hc, hk, hm, bne_self_eq_false, Bool.not_true, Bool.false_eq_true, if_false, if_true]
theorem command_takes (h : Ours r) (hk : knownCmd cmd = true) (hc : r.cmd = cmd) (hm : r.malformed flags len = false) :
    s.command r cmd flags len go = .next (go s) := by
  simp only [State.command, (isCommand_iff r).2 h, hc, hk, hm, bne_self_eq_false, Bool.not_true, Bool.false_eq_true, if_false]

/-- The header of a request whose fields are in range. -/
theorem header_fields {n f c : Nat} (hf : f < 2 ^ 8) (hc : c < 2 ^ 8)
    (h : r.header.toNat = n * 2 ^ 32 + reqTag r * 2 ^ 16 + f * 2 ^ 8 + c) :
    r.length = n ∧ r.flags = f ∧ r.cmd = c ∧ r.header.toNat % 2 ^ 8 = c := by
  have hlt := r.header.isLt
  simp only [reqTag] at h
  simp only [MgmtReq.length, MgmtReq.flags, MgmtReq.cmd, bitsOf]
  omega
theorem wellformed {n f c : Nat} (hf : f < 2 ^ 8) (hc : c < 2 ^ 8)
    (h : r.header.toNat = n * 2 ^ 32 + reqTag r * 2 ^ 16 + f * 2 ^ 8 + c) (hn : r.payload.length = n) (hlen : len n = true)
    (h4 : n % 4 = 0) (hmax : n ≤ 4096) (hflags : f / 2 ^ flags = 0) : r.malformed flags len = false := by
  obtain ⟨hl, hfl, -, -⟩ := header_fields hf hc h
  simp [MgmtReq.malformed, hl, hfl, hn, hlen, h4, hflags, Nat.not_lt.2 hmax]

/-! ### The commands (R485, R490, R492) -/

/-- A request that carries no payload and no flags. -/
theorem command_plain (hours : Ours r) (hp : r.payload = []) (hh : r.header.toNat = reqTag r * 2 ^ 16 + cmd) (hk : knownCmd cmd = true)
    (hlen : len 0 = true) : s.command r cmd flags len go = .next (go s) ∧ r.header.toNat % 2 ^ 8 = cmd := by
  have hc : cmd < 2 ^ 8 := by
    simp only [knownCmd, Bool.and_eq_true, decide_eq_true_eq] at hk
    omega
  have hfields : r.header.toNat = 0 * 2 ^ 32 + reqTag r * 2 ^ 16 + 0 * 2 ^ 8 + cmd := by simpa using hh
  obtain ⟨-, -, hcmd, hmod⟩ := header_fields (by decide) hc hfields
  exact ⟨command_takes hours hk hcmd (wellformed (by decide) hc hfields (by rw [hp]; rfl) hlen rfl (by decide) (Nat.zero_div _)), hmod⟩
theorem updateCmd_goes {opens : Bool} (hm : s.amc.mode ≠ 0) (hu : s.amc.update = some r.iface ∨ opens = true ∧ s.amc.update = none) :
    s.updateCmd r opens go = go s := by
  have hmode : (s.amc.mode == 0) = false := beq_false_of_ne hm
  obtain hu | ⟨ho, hu⟩ := hu
  · simp only [State.updateCmd, hmode, hu, beq_self_eq_true, Bool.false_eq_true, if_false, if_true]
  · simp only [State.updateCmd, hmode, hu, ho, Bool.false_eq_true, if_false, if_true]
theorem updateCmd_none (hm : s.amc.mode ≠ 0) (hu : s.amc.update = none) : s.updateCmd r false go = s.refuseCmd r 5 := by
  have hmode : (s.amc.mode == 0) = false := beq_false_of_ne hm
  simp only [State.updateCmd, hmode, hu, Bool.false_eq_true, if_false]
theorem updateCmd_busy {opens : Bool} (h : s.amc.mode = 0 ∨ ∃ k, s.amc.update = some k ∧ k ≠ r.iface) :
    s.updateCmd r opens go = s.refuseCmd r 1 := by
  unfold State.updateCmd
  split
  · rfl
  · next hm =>
    obtain h0 | ⟨k, hk, hne⟩ := h
    · exact absurd (beq_iff_eq.2 h0) hm
    · have hif : (k == r.iface) = false := beq_false_of_ne hne
      simp only [hk, hif, Bool.false_eq_true, if_false]

theorem slotN_modSlot_same {a : Amc} (b : Bool) (f : FwSlot → FwSlot) (h : a.slots.length = 2) :
    (a.modSlot b f).slotN b = f (a.slotN b) := by
  have hlt : (if b then 1 else 0) < a.slots.length := by rw [h]; cases b <;> decide
  simp only [Amc.modSlot, Amc.slotN, modAt_getElem?, if_true, List.getElem?_eq_getElem hlt, Option.map_some, Option.getD_some]
theorem slotN_modSlot_other {a : Amc} (b : Bool) (f : FwSlot → FwSlot) : (a.modSlot (!b) f).slotN b = a.slotN b := by
  have hne : ¬ (if b then 1 else 0) = (if (!b) = true then 1 else 0) := by cases b <;> decide
  simp only [Amc.modSlot, Amc.slotN, modAt_getElem?, hne, if_false]

theorem status_does (hours : Ours r) (hp : r.payload = []) (hh : r.header.toNat = reqTag r * 2 ^ 16 + 1) :
    Does (.status r) s fun t => t.amc.log = s.amc.log ∧ Answers r s t 1 0 (natBytes 8 s.amc.statusWord) := by
  obtain ⟨he, hmod⟩ := command_plain (s := s) (flags := 0) (len := (· == 0))
    (go := fun s => s.respond r 0 (natBytes 8 s.amc.statusWord)) hours hp hh rfl rfl
  exact ⟨_, he, rfl, answers_respond hmod rfl ⟨rfl, rfl, rfl, rfl⟩ (by decide) _⟩
/-- The controller once bytes are written into the slot that is not running, in an update of an interface. -/
def State.written (s : State) (k : MgmtIf) (off : Nat) (bs : List Byte) : State :=
  let a := s.amc.modSlot (!s.amc.slot) fun x => ⟨memWrite x.image off bs, false⟩
  { s with amc := { a with update := some k, mode := if a.mode == 2 then 2 else 3 } }
/-- What a WRITE does once its update is open. -/
def writeGo (r : MgmtReq) (s : State) : State :=
  let off := bytesNat (r.payload.take 4)
  let bs := r.payload.drop 4
  if off % 4 != 0 || off + bs.length > 2 ^ 25 then s.refuseCmd r 4
  else ((s.written r.iface off bs).respond r 0 []).log 3 0x02 off bs.length
theorem exec_write {off : Nat} {bs : List Byte} (hours : Ours r) (hp : r.payload = natBytes 4 off ++ bs)
    (h4 : r.payload.length % 4 = 0) (hmax : r.payload.length ≤ 4096)
    (hh : r.header.toNat = r.payload.length * 2 ^ 32 + reqTag r * 2 ^ 16 + 2) (hm : s.amc.mode ≠ 0)
    (hu : s.amc.update = none ∨ s.amc.update = some r.iface) :
    exec (.write r) s = .next (writeGo r s) ∧ r.header.toNat % 2 ^ 8 = 2 := by
  have hfields : r.header.toNat = r.payload.length * 2 ^ 32 + reqTag r * 2 ^ 16 + 0 * 2 ^ 8 + 2 := by simpa using hh
  obtain ⟨-, -, hcmd, hmod⟩ := header_fields (by decide) (by decide) hfields
  have hlen : decide (4 ≤ r.payload.length) = true := by simp [hp]
  have hgo : exec (.write r) s = .next (s.updateCmd r true (writeGo r)) :=
    command_takes (flags := 0) (len := (4 ≤ ·)) (go := fun s => s.updateCmd r true (writeGo r)) hours rfl hcmd
      (wellformed (by decide) (by decide) hfields rfl hlen h4 hmax (Nat.zero_div _))
  rw [updateCmd_goes hm (hu.symm.imp id fun h => ⟨rfl, h⟩)] at hgo
  exact ⟨hgo, hmod⟩

theorem write_does {off : Nat} {bs : List Byte} (hours : Ours r) (hp : r.payload = natBytes 4 off ++ bs) (hoff : off < 2 ^ 32)
    (h4 : r.payload.length % 4 = 0) (hmax : r.payload.length ≤ 4096)
    (hh : r.header.toNat = r.payload.length * 2 ^ 32 + reqTag r * 2 ^ 16 + 2) (hm : s.amc.mode ≠ 0)
    (hu : s.amc.update = none ∨ s.amc.update = some r.iface) :
    (off % 4 = 0 → off + bs.length ≤ 2 ^ 25 → Does (.write r) s fun t => Answers r s t 2 0 [] ∧ t.amc.update = some r.iface ∧
      t.amc.slotN s.amc.slot = s.amc.slotN s.amc.slot ∧ t.amc.mode = (if s.amc.mode = 2 then 2 else 3) ∧
      (s.amc.slots.length = 2 → t.amc.slotN (!s.amc.slot) = ⟨memWrite (s.amc.slotN (!s.amc.slot)).image off bs, false⟩)) ∧
    (off % 4 ≠ 0 ∨ off + bs.length > 2 ^ 25 → Refuses r s (.write r) 2 4) := by
  obtain ⟨he, hmod⟩ := exec_write hours hp h4 hmax hh hm hu
  have htake : bytesNat (r.payload.take 4) = off := by
    rw [hp, List.take_left' (natBytes_length 4 off), bytesNat_natBytes, Nat.mod_eq_of_lt (hoff.trans_eq (by norm_num))]
  have hdrop : r.payload.drop 4 = bs := by rw [hp, List.drop_left' (natBytes_length 4 off)]
  refine ⟨fun ha hlen => ?_, fun hbad => ?_⟩
  · have hgo : writeGo r s = ((s.written r.iface off bs).respond r 0 []).log 3 0x02 off bs.length := by
      unfold writeGo
      rw [htake, hdrop, if_neg (by simpa [ha] using hlen)]
    obtain ⟨l, hl, -⟩ := log_eq ((s.written r.iface off bs).respond r 0 []) 3 0x02 off bs.length
    refine ⟨_, he.trans (congrArg _ hgo), answers_log (answers_respond hmod rfl ⟨rfl, rfl, rfl, rfl⟩ (by decide) []) .., ?_⟩
    rw [hl]
    refine ⟨rfl, slotN_modSlot_other (a := s.amc) .., ?_, fun h2 => slotN_modSlot_same (a := s.amc) _ _ h2⟩
    change (if s.amc.mode == 2 then 2 else 3) = _
    simp only [beq_iff_eq]
  · have hgo : writeGo r s = s.refuseCmd r 4 := by
      unfold writeGo
      rw [htake, hdrop, if_pos (by simpa using hbad)]
    exact hmod ▸ refuseCmd_refuses (he.trans (congrArg _ hgo)) (by decide)
/-- An update command that carries nothing. -/
theorem update_plain {i : Instr} (he : exec i s = s.command r cmd 0 (· == 0) fun s => s.updateCmd r false go) (hours : Ours r)
    (hp : r.payload = []) (hh : r.header.toNat = reqTag r * 2 ^ 16 + cmd) (hk : knownCmd cmd = true) :
    exec i s = .next (s.updateCmd r false go) ∧ r.header.toNat % 2 ^ 8 = cmd := by
  obtain ⟨hgo, hmod⟩ := command_plain (s := s) (flags := 0) (len := (· == 0)) (go := fun s => s.updateCmd r false go) hours hp hh hk rfl
  exact ⟨he.trans hgo, hmod⟩
theorem update_owned {i : Instr} (he : exec i s = s.command r cmd 0 (· == 0) fun s => s.updateCmd r false go) (hours : Ours r)
    (hp : r.payload = []) (hh : r.header.toNat = reqTag r * 2 ^ 16 + cmd) (hk : knownCmd cmd = true) (hm : s.amc.mode ≠ 0)
    (hu : s.amc.update = some r.iface) : exec i s = .next (go s) ∧ r.header.toNat % 2 ^ 8 = cmd := by
  obtain ⟨hgo, hmod⟩ := update_plain he hours hp hh hk
  exact ⟨hgo.trans (by rw [updateCmd_goes hm (.inl hu)]), hmod⟩
theorem update_refuses {i : Instr} (he : exec i s = s.command r cmd 0 (· == 0) fun s => s.updateCmd r false go) (hours : Ours r)
    (hp : r.payload = []) (hh : r.header.toNat = reqTag r * 2 ^ 16 + cmd) (hk : knownCmd cmd = true) :
    (s.amc.mode ≠ 0 → s.amc.update = none → Refuses r s i cmd 5) ∧
    (s.amc.mode = 0 ∨ (∃ k, s.amc.update = some k ∧ k ≠ r.iface) → Refuses r s i cmd 1) := by
  obtain ⟨hgo, hmod⟩ := update_plain he hours hp hh hk
  refine ⟨fun hm hu => ?_, fun hbusy => ?_⟩
  · rw [updateCmd_none hm hu] at hgo
    exact hmod ▸ refuseCmd_refuses hgo (by decide)
  · rw [updateCmd_busy hbusy] at hgo
    exact hmod ▸ refuseCmd_refuses hgo (by decide)
/-- The controller once the image of the slot that is not running has been checked. -/
def State.checked (s : State) : State :=
  let v := (s.amc.slotN (!s.amc.slot)).verifies
  { s with amc := s.amc.modSlot (!s.amc.slot) fun x => { x with verified := v } }
/-- What a VERIFY does in its own update. -/
def verifyGo (r : MgmtReq) (s : State) : State :=
  let x := s.amc.slotN (!s.amc.slot)
  (s.checked.respond r 0 (natBytes 4 x.version ++ natBytes 4 (if x.verifies then 1 else 0))).log 3 0x03 x.version 0
theorem verify_does (hours : Ours r) (hp : r.payload = []) (hh : r.header.toNat = reqTag r * 2 ^ 16 + 3) (hm : s.amc.mode ≠ 0)
    (hu : s.amc.update = some r.iface) :
    let x := s.amc.slotN (!s.amc.slot)
    Does (.verify r) s fun t => Answers r s t 3 0 (natBytes 4 x.version ++ natBytes 4 (if x.verifies then 1 else 0)) ∧
      (s.amc.slots.length = 2 → t.amc.slotN (!s.amc.slot) = { x with verified := x.verifies }) := by
  intro x
  obtain ⟨he, hmod⟩ := update_owned (s := s) (i := .verify r) (go := verifyGo r) rfl hours hp hh rfl hm hu
  obtain ⟨l, hl, -⟩ := log_eq (s.checked.respond r 0 (natBytes 4 x.version ++ natBytes 4 (if x.verifies then 1 else 0))) 3 0x03
    x.version 0
  refine ⟨_, he, answers_log (answers_respond hmod rfl ⟨rfl, rfl, rfl, rfl⟩ (by decide) _) .., fun h2 => ?_⟩
  rw [verifyGo, hl]
  exact slotN_modSlot_same _ _ h2
/-- The controller once the slot that is not running is to start next. -/
def State.activated (s : State) : State := { s with amc := { s.amc with pending := true } }.closeUpdate
/-- What an ACTIVATE does in its own update. -/
def activateGo (r : MgmtReq) (s : State) : State :=
  let x := s.amc.slotN (!s.amc.slot)
  if !x.verified || x.version < (s.amc.slotN s.amc.slot).minver then s.refuseCmd r 2
  else (s.activated.respond r 0 []).log 3 0x04 x.version 0
theorem activate_does (hours : Ours r) (hp : r.payload = []) (hh : r.header.toNat = reqTag r * 2 ^ 16 + 4) (hm : s.amc.mode ≠ 0)
    (hu : s.amc.update = some r.iface) :
    let x := s.amc.slotN (!s.amc.slot)
    (x.verified = true → (s.amc.slotN s.amc.slot).minver ≤ x.version → Does (.activate r) s fun t => Answers r s t 4 0 [] ∧
      t.amc.pending = true ∧ t.amc.update = none ∧ t.amc.mode = (if s.amc.mode = 3 then 1 else s.amc.mode) ∧ t.amc.slot = s.amc.slot) ∧
    (x.verified = false ∨ x.version < (s.amc.slotN s.amc.slot).minver → Refuses r s (.activate r) 4 2) := by
  intro x
  obtain ⟨he, hmod⟩ := update_owned (s := s) (i := .activate r) (go := activateGo r) rfl hours hp hh rfl hm hu
  refine ⟨fun hv hver => ?_, fun hbad => ?_⟩
  · have hgo : activateGo r s = (s.activated.respond r 0 []).log 3 0x04 x.version 0 :=
      if_neg (by rw [show (s.amc.slotN (!s.amc.slot)).verified = true from hv]; simpa using hver)
    obtain ⟨l, hl, -⟩ := log_eq (s.activated.respond r 0 []) 3 0x04 x.version 0
    refine ⟨_, he.trans (congrArg _ hgo), answers_log (answers_respond hmod rfl ⟨rfl, rfl, rfl, rfl⟩ (by decide) []) .., ?_⟩
    rw [hl]
    refine ⟨rfl, rfl, ?_, rfl⟩
    change (if s.amc.mode == 3 then 1 else s.amc.mode) = _
    simp only [beq_iff_eq]
  · have hgo : activateGo r s = s.refuseCmd r 2 := if_pos (by simpa [x] using hbad)
    exact hmod ▸ refuseCmd_refuses (he.trans (congrArg _ hgo)) (by decide)
/-- What an ABORT does in its own update. -/
def abortGo (r : MgmtReq) (s : State) : State :=
  let t := { s with amc := s.amc.modSlot (!s.amc.slot) fun x => { x with verified := false } }.closeUpdate
  (t.respond r 0 []).log 3 0x09 0 0
theorem abort_does (hours : Ours r) (hp : r.payload = []) (hh : r.header.toNat = reqTag r * 2 ^ 16 + 9) (hm : s.amc.mode ≠ 0)
    (hu : s.amc.update = some r.iface) :
    Does (.abort r) s fun t => Answers r s t 9 0 [] ∧ t.amc.update = none ∧ t.amc.pending = s.amc.pending ∧
      (s.amc.slots.length = 2 → t.amc.slotN (!s.amc.slot) = { s.amc.slotN (!s.amc.slot) with verified := false }) := by
  obtain ⟨he, hmod⟩ := update_owned (s := s) (i := .abort r) (go := abortGo r) rfl hours hp hh rfl hm hu
  refine ⟨_, he, answers_log (answers_respond hmod rfl ⟨rfl, rfl, rfl, rfl⟩ (by decide) _) .., rfl, rfl, fun h2 => ?_⟩
  exact slotN_modSlot_same (a := s.amc) (!s.amc.slot) (fun x => { x with verified := false }) h2
theorem retryStarts_does (hours : Ours r) (hp : r.payload = []) (hh : r.header.toNat = reqTag r * 2 ^ 16 + 5) :
    Does (.retryStarts r) s fun t => Answers r s t 5 0 [] ∧ t.amc.fails = 0 ∧ t.amc.pending = s.amc.pending := by
  obtain ⟨he, hmod⟩ := command_plain (s := s) (flags := 0) (len := (· == 0))
    (go := fun s => { s with amc := { s.amc with fails := 0 } }.respond r 0 []) hours hp hh rfl rfl
  exact ⟨_, he, answers_respond hmod rfl ⟨rfl, rfl, rfl, rfl⟩ (by decide) _, rfl, rfl⟩
theorem sensors_does (hours : Ours r) (hp : r.payload = []) (hh : r.header.toNat = reqTag r * 2 ^ 16 + 7) :
    Does (.sensors r) s fun t => Answers r s t 7 0 s.amc.sensors := by
  obtain ⟨he, hmod⟩ := command_plain (s := s) (flags := 0) (len := (· == 0)) (go := fun s => s.respond r 0 s.amc.sensors)
    hours hp hh rfl rfl
  exact ⟨_, he, answers_respond hmod rfl ⟨rfl, rfl, rfl, rfl⟩ (by decide) _⟩
/-- What a LOGREAD does. -/
def logreadGo (r : MgmtReq) (s : State) : State :=
  s.respond r 0 (((s.amc.log.drop (bytesNat r.payload)).take 64).flatMap fun x => natBytes 64 x.toNat)
theorem logread_does {k : Nat} (hours : Ours r) (hk : k < 2 ^ 32) (hp : r.payload = natBytes 4 k)
    (hh : r.header.toNat = 4 * 2 ^ 32 + reqTag r * 2 ^ 16 + 8) :
    Does (.logread r) s fun t => Answers r s t 8 0 (((s.amc.log.drop k).take 64).flatMap fun x => natBytes 64 x.toNat) := by
  have hfields : r.header.toNat = 4 * 2 ^ 32 + reqTag r * 2 ^ 16 + 0 * 2 ^ 8 + 8 := by simpa using hh
  obtain ⟨-, -, hcmd, hmod⟩ := header_fields (by decide) (by decide) hfields
  have he : exec (.logread r) s = .next (logreadGo r s) := command_takes (s := s) (go := logreadGo r) hours rfl hcmd
    (wellformed (flags := 0) (len := (· == 4)) (by decide) (by decide) hfields (by rw [hp, natBytes_length]) rfl rfl (by decide)
      (Nat.zero_div _))
  rw [logreadGo, hp, bytesNat_natBytes, Nat.mod_eq_of_lt (hk.trans_eq (by norm_num))] at he
  exact ⟨_, he, answers_respond hmod rfl ⟨rfl, rfl, rfl, rfl⟩ (by decide) _⟩
theorem counters_flatMap {cs : List Word} (h : cs.length = 7) :
    ((List.range 7).flatMap fun k => natBytes 4 (((cs[k]?).map (·.toNat)).getD 0)) = cs.flatMap fun c => natBytes 4 c.toNat := by
  have hmap : (List.range 7).map (fun k => (cs[k]?).getD 0) = cs := by
    refine List.ext_getElem? fun k => ?_
    rw [List.getElem?_map, ← h]
    by_cases hk : k < cs.length
    · simp [List.getElem?_range hk, List.getElem?_eq_getElem hk]
    · simp [hk]
  conv_rhs => rw [← hmap]
  rw [List.flatMap_map]
  refine List.flatMap_congr fun k _ => ?_
  cases cs[k]? <;> rfl
/-- What an ERRCNT does. -/
def errcntGo (r : MgmtReq) (s : State) : State :=
  let t := s.respond r 0 ((List.range 7).flatMap fun k => natBytes 4 (((s.amc.counters[k]?).map (·.toNat)).getD 0))
  if bitOf r.flags 0 then { t with amc := { t.amc with counters := List.replicate 7 0 } } else t
theorem errcnt_does {f : Nat} (hours : Ours r) (hp : r.payload = []) (hf : f < 2)
    (hh : r.header.toNat = reqTag r * 2 ^ 16 + f * 2 ^ 8 + 6) (h7 : s.amc.counters.length = 7) :
    Does (.errcnt r) s fun t => Answers r s t 6 0 (s.amc.counters.flatMap fun c => natBytes 4 c.toNat) ∧
      t.amc.counters = if f = 1 then List.replicate 7 0 else s.amc.counters := by
  have hfields : r.header.toNat = 0 * 2 ^ 32 + reqTag r * 2 ^ 16 + f * 2 ^ 8 + 6 := by simpa using hh
  obtain ⟨-, hflags, hcmd, hmod⟩ := header_fields (by omega) (by decide) hfields
  have he : exec (.errcnt r) s = .next (errcntGo r s) := command_takes (s := s) (go := errcntGo r) hours rfl hcmd
    (wellformed (flags := 1) (len := (· == 0)) (by omega) (by decide) hfields (by rw [hp]; rfl) rfl rfl (by decide)
      (Nat.div_eq_of_lt (by omega)))
  have hanswers := answers_respond (r := r) (s := s) (t := s) hmod rfl ⟨rfl, rfl, rfl, rfl⟩ (by decide : 0 < 2 ^ 8)
    (s.amc.counters.flatMap fun c => natBytes 4 c.toNat)
  rw [errcntGo, counters_flatMap h7, hflags] at he
  obtain rfl | rfl : f = 0 ∨ f = 1 := by omega
  · exact ⟨_, he, hanswers, rfl⟩
  · exact ⟨_, he, hanswers, rfl⟩

/-! ### Requests that a row refuses, or leaves alone (R484, R486) -/

/-- Why a row refuses a request with the status 3. -/
abbrev Misshaped (r : MgmtReq) (cmd : Nat) : Prop :=
  r.header.toNat / 2 ^ 32 ≠ r.payload.length ∨ r.header.toNat / 2 ^ 8 % 2 ^ 8 ≥ 2 ∨ (cmd ≠ 6 ∧ r.header.toNat / 2 ^ 8 % 2 ^ 8 ≠ 0) ∨
    (cmd = 2 ∧ (r.payload.length < 4 ∨ r.payload.length > 4096 ∨ r.payload.length % 4 ≠ 0)) ∨
    (cmd = 8 ∧ r.payload.length ≠ 4) ∨ (cmd ≠ 2 ∧ cmd ≠ 8 ∧ r.payload ≠ [])
theorem fields_of_wellformed (h : r.malformed flags len = false) : r.header.toNat / 2 ^ 32 = r.payload.length ∧
    len r.payload.length = true ∧ r.payload.length % 4 = 0 ∧ r.payload.length ≤ 4096 ∧
    r.header.toNat / 2 ^ 8 % 2 ^ 8 / 2 ^ flags = 0 := by
  have hl : r.length = r.header.toNat / 2 ^ 32 := Nat.mod_eq_of_lt (by have := r.header.isLt; omega)
  have hf : r.flags = r.header.toNat / 2 ^ 8 % 2 ^ 8 := rfl
  simp only [MgmtReq.malformed, hl, hf, Bool.or_eq_false_iff, bne_eq_false_iff_eq, Bool.not_eq_false', decide_eq_false_iff_not,
    Nat.not_lt] at h
  obtain ⟨⟨⟨⟨hpay, hlen⟩, h4⟩, hmax⟩, hflags⟩ := h
  rw [hpay] at hlen h4 hmax
  exact ⟨hpay, hlen, h4, hmax, hflags⟩
/-- A request without a payload, of a command that takes none. -/
theorem malformed_of_misshaped {c : Nat} (h2 : c ≠ 2) (h8 : c ≠ 8) (hf : flags = if c = 6 then 1 else 0) (h : Misshaped r c) :
    r.malformed flags (· == 0) = true := by
  by_contra hno
  obtain ⟨hl, hlen, -, -, hflags⟩ := fields_of_wellformed (Bool.not_eq_true _ ▸ hno)
  have hnil : r.payload = [] := by simpa using hlen
  subst hf
  obtain h | h | h | h | h | h := h
  · exact h hl
  · split at hflags <;> omega
  · rw [if_neg h.1] at hflags
    omega
  · exact h2 h.1
  · exact h8 h.1
  · exact h.2.2 hnil
theorem write_malformed (h : Misshaped r 2) : r.malformed 0 (4 ≤ ·) = true := by
  by_contra hno
  obtain ⟨hl, hlen, h4, hmax, hflags⟩ := fields_of_wellformed (Bool.not_eq_true _ ▸ hno)
  have hmin : 4 ≤ r.payload.length := of_decide_eq_true hlen
  unfold Misshaped at h
  omega
theorem logread_malformed (h : Misshaped r 8) : r.malformed 0 (· == 4) = true := by
  by_contra hno
  obtain ⟨hl, hlen, h4, hmax, hflags⟩ := fields_of_wellformed (Bool.not_eq_true _ ▸ hno)
  have hfour : r.payload.length = 4 := by simpa using hlen
  unfold Misshaped at h
  omega
/-- What a row does with a request that is not well formed, of another command, or of none. -/
theorem row_refuses {i : Instr} (he : exec i s = s.command r cmd flags len go) (hk : knownCmd cmd = true)
    (hbad : Misshaped r cmd → r.malformed flags len = true) :
    (Ours r → r.header.toNat % 2 ^ 8 = cmd → Misshaped r cmd → Refuses r s i cmd 3) ∧
    (Ours r → r.header.toNat % 2 ^ 8 = 0 ∨ r.header.toNat % 2 ^ 8 > 9 → Refuses r s i (r.header.toNat % 2 ^ 8) 3) ∧
    (¬ Ours r ∨ 0 < r.header.toNat % 2 ^ 8 ∧ r.header.toNat % 2 ^ 8 ≤ 9 ∧ r.header.toNat % 2 ^ 8 ≠ cmd → exec i s = .next s) := by
  have hcmd : r.cmd = r.header.toNat % 2 ^ 8 := by simp only [MgmtReq.cmd, bitsOf, pow_zero, Nat.div_one]
  refine ⟨fun hours hc hshape => ?_, fun hours hout => ?_, fun hother => ?_⟩
  · have hgo := he.trans (command_malformed hours hk (hcmd.trans hc) (hbad hshape))
    exact hc ▸ refuseCmd_refuses hgo (by decide)
  · have hunknown : knownCmd r.cmd = false := by
      rw [hcmd, knownCmd, Bool.and_eq_false_iff, decide_eq_false_iff_not, decide_eq_false_iff_not]
      omega
    exact refuseCmd_refuses (he.trans (command_unknown hours hunknown)) (by decide)
  · by_cases hours : Ours r
    · obtain ⟨hpos, hle, hne⟩ := hother.resolve_left (not_not_intro hours)
      have hknown : knownCmd r.cmd = true := by
        rw [hcmd, knownCmd, Bool.and_eq_true, decide_eq_true_eq, decide_eq_true_eq]
        omega
      exact he.trans (command_other hours hknown (hcmd ▸ hne))
    · exact he.trans (command_foreign hours)

/-! ### Attestation (R493) -/

/-- The response to an attestation message tells `about`, and nothing else of the device changes. -/
def Told (r : MgmtReq) (s t : State) (about : SpdmAnswer) : Prop :=
  (∃ payload, t.amc.responses = s.amc.responses ++ [⟨r.iface, r.vendor, r.type, 0, payload, some about⟩]) ∧
    t.home = s.home ∧ t.units = s.units ∧ t.queues = s.queues ∧ t.works = s.works
theorem isSpdm_of (h : r.iface = .doe ∧ r.type = 0x01 ∧ r.vendor = 0x0001 ∨ r.iface = .mctp ∧ r.type = 0x05) : r.isSpdm = true := by
  obtain ⟨hi, ht, hv⟩ | ⟨hi, ht⟩ := h
  · simp [MgmtReq.isSpdm, hi, ht, hv]
  · simp [MgmtReq.isSpdm, hi, ht]
theorem spdm_told (h : r.isSpdm = true) (code : Nat) (about : SpdmAnswer) : Told r s (s.spdm r code about) about ∧
    (s.spdm r code about).amc = { s.amc with responses := (s.spdm r code about).amc.responses } := by
  have hgo : ∃ payload, s.spdm r code about =
      ({ s with freeCtr := s.freeCtr + 1 } : State).answer ⟨r.iface, r.vendor, r.type, 0, payload, some about⟩ :=
    ⟨_, if_neg (by rw [h]; decide)⟩
  obtain ⟨payload, hgo⟩ := hgo
  rw [hgo]
  exact ⟨⟨⟨payload, rfl⟩, rfl, rfl, rfl, rfl⟩, rfl⟩
theorem attests {i : Instr} {code : Nat} {about : SpdmAnswer} (he : exec i s = .next (s.spdm r code about)) (h : r.isSpdm = true) :
    Does i s fun t => Told r s t about ∧ t.amc = { s.amc with responses := t.amc.responses } :=
  ⟨_, he, spdm_told h code about⟩
theorem unsupported_refuses {i : Instr} {code : Nat} (he : exec i s = .next (s.unsupported r code)) (h : r.isSpdm = true) :
    Does i s fun t => Told r s t .unsupportedRequest ∧
      t.amc = { s.amc with responses := t.amc.responses, log := t.amc.log } ∧ t.amc.log.getLast? ≠ none := by
  have hgo : s.unsupported r code = (s.spdm r code .unsupportedRequest).log 2 code 0x07 0 := if_pos h
  obtain ⟨htold, hamc⟩ := spdm_told (s := s) h code .unsupportedRequest
  obtain ⟨l, hl, -⟩ := log_eq (s.spdm r code .unsupportedRequest) 2 code 0x07 0
  refine ⟨_, he.trans (congrArg _ hgo), ?_, ?_, ?_⟩
  · rw [hl]
    exact htold
  · rw [hl]
    exact congrArg (fun a : Amc => { a with log := l }) hamc
  · exact log_getLast?_ne_none (s.spdm r code .unsupportedRequest) 2 code 0x07 0
end

/-- Settles O59: the lemma of each row, `row_refuses` for what it refuses, and `attests` and `unsupported_refuses` for attestation. -/
theorem managementCommands : Obligations.ManagementCommands := by
  unfold Obligations.ManagementCommands
  intro s r h tag flags ours rows kept answers refuses other x plain owned
  refine ⟨fun ⟨ho, hp, hh⟩ => status_does ho hp hh, fun off bs ho hp hoff h4 hmax hh hm hu => write_does ho hp hoff h4 hmax hh hm hu,
    fun ⟨ho, hp, hh⟩ ⟨hm, hu⟩ => verify_does ho hp hh hm hu, fun ⟨ho, hp, hh⟩ ⟨hm, hu⟩ => activate_does ho hp hh hm hu,
    fun ⟨ho, hp, hh⟩ ⟨hm, hu⟩ => abort_does ho hp hh hm hu, fun i cmd hi ⟨ho, hp, hh⟩ => ?updates,
    fun ⟨ho, hp, hh⟩ => retryStarts_does ho hp hh, fun f ho hp hf hh h7 => errcnt_does ho hp hf hh h7,
    fun ⟨ho, hp, hh⟩ => sensors_does ho hp hh, fun k ho hk hp hh => logread_does ho hk hp hh, fun i cmd hi => ?rows, ?attestation⟩
  case updates =>
    simp only [List.mem_cons, Prod.mk.injEq, List.not_mem_nil, or_false] at hi
    obtain ⟨rfl, rfl⟩ | ⟨rfl, rfl⟩ | ⟨rfl, rfl⟩ := hi <;> exact update_refuses rfl ho hp hh rfl
  case rows =>
    simp only [rows, List.mem_cons, Prod.mk.injEq, List.not_mem_nil, or_false] at hi
    obtain ⟨rfl, rfl⟩ | ⟨rfl, rfl⟩ | ⟨rfl, rfl⟩ | ⟨rfl, rfl⟩ | ⟨rfl, rfl⟩ | ⟨rfl, rfl⟩ | ⟨rfl, rfl⟩ | ⟨rfl, rfl⟩ | ⟨rfl, rfl⟩ := hi
    · exact row_refuses (go := fun s => s.respond r 0 (natBytes 8 s.amc.statusWord)) rfl rfl
        (malformed_of_misshaped (by decide) (by decide) rfl)
    · exact row_refuses (go := fun s => s.updateCmd r true (writeGo r)) rfl rfl write_malformed
    · exact row_refuses (go := fun s => s.updateCmd r false (verifyGo r)) rfl rfl
        (malformed_of_misshaped (by decide) (by decide) rfl)
    · exact row_refuses (go := fun s => s.updateCmd r false (activateGo r)) rfl rfl
        (malformed_of_misshaped (by decide) (by decide) rfl)
    · exact row_refuses (go := fun s => { s with amc := { s.amc with fails := 0 } }.respond r 0 []) rfl rfl
        (malformed_of_misshaped (by decide) (by decide) rfl)
    · exact row_refuses (go := errcntGo r) rfl rfl
        (malformed_of_misshaped (by decide) (by decide) rfl)
    · exact row_refuses (go := fun s => s.respond r 0 s.amc.sensors) rfl rfl
        (malformed_of_misshaped (by decide) (by decide) rfl)
    · exact row_refuses (go := logreadGo r) rfl rfl logread_malformed
    · exact row_refuses (go := fun s => s.updateCmd r false (abortGo r)) rfl rfl
        (malformed_of_misshaped (by decide) (by decide) rfl)
  case attestation =>
    intro blocks op told hreq
    have hspdm := isSpdm_of hreq
    refine ⟨fun i about hi => ?_, fun i hi => ?_⟩
    · simp only [List.mem_cons, Prod.mk.injEq, List.not_mem_nil, or_false] at hi
      obtain ⟨rfl, rfl⟩ | ⟨rfl, rfl⟩ | ⟨rfl, rfl⟩ | ⟨rfl, rfl⟩ | ⟨rfl, rfl⟩ | ⟨rfl, rfl⟩ | ⟨rfl, rfl⟩ := hi <;>
        exact attests rfl hspdm
    · simp only [List.mem_cons, List.not_mem_nil, or_false] at hi
      obtain rfl | rfl := hi <;> exact unsupported_refuses rfl hspdm

end Sys2Proof.Machine
end

section
/-! Proof of the nodes that the tile instructions append (R213, R215, R255 to R265). -/

namespace Sys2Proof.Machine

/-! ### The append of a node (R213, R215, R220, R222 to R224) -/

/-- R222 to R224: no evaluation is asked for where there is room for the node. -/
theorem makeRoom_none {b : Bundle} {s : State} {wi : Nat} {w : Warp} {dual : Bool} (h : hasRoom b s wi w dual) (ls : List Nat) :
    makeRoom s b wi w ls dual = none := by
  obtain ⟨hlimit, hpool⟩ := h
  have hunder : (decide (w.pendingCount + nodeCost dual > b.u.cfg.limit) && w.graph != []) = false := by
    rcases hlimit with hnil | hle
    · simp [hnil]
    · simp [Nat.not_lt.2 hle]
  have hroom : (b.u.cfg.det != 0 || s.poolRoom b.g.core (b.wid wi) (nodeCost dual)) = true := by
    rcases hpool with hdet | hpool
    · simp [hdet]
    · simp [hpool]
  simp only [makeRoom, hunder, hroom, Bool.false_eq_true, if_false, if_true]
theorem loads_iff (k : NodeKind) : k.loads = true ↔ ∃ l, k = .loop l := by
  cases k <;> simp [NodeKind.loads]
/-- What an append leaves of its warp. -/
def Append.node (a : Append) (b : Bundle) (td : TCfg) (t : Thread) (x : Warp) : Warp :=
  appendNode x (a.kind t) a.td a.ops a.slot (a.canDual && b.dualTile td) b.pc (a.extra t)
    (if a.sr b.u.cfg then td.rows * td.cols else 0)

section
variable {i : Instr} {a : Append} {b : Bundle} {s : State} {wi : Nat} {x : Warp} {t : Thread}

/-- R213, R215: the shape rule holds, nothing evaluates a tile of the append, and there is room: the node is appended. -/
theorem appendBody_ok {td : TCfg} (hparts : b.parts = [(wi, x, x.live)]) (hconf : x.conf b.u.cfg a.td = some td)
    (hlead : x.lead = some t) (hok : a.ok b.u.cfg x t td = true)
    (hfree : ∀ k ∈ a.td :: a.ops, (s.core b.g.core).evaluating (b.wid wi) x k = false)
    (hacq : (∃ l, a.kind t = .loop l) → b.acqDone s = true) (hroom : hasRoom b s wi x (a.canDual && b.dualTile td)) :
    appendBody i a b s = .done (s.modWarp (b.wid wi) (a.node b td t)) := by
  have hbusy : s.tilesBusy b wi x (a.td :: a.ops) = false := by
    rw [State.tilesBusy, List.any_eq_false]
    exact fun k hk => by simp [hfree k hk]
  have hmay : ((a.kind t).loads && !b.acqDone s) = false := by
    cases hloads : (a.kind t).loads with
    | false => rfl
    | true => simp [hacq ((loads_iff _).1 hloads)]
  rw [appendBody, tileBody_eq hparts hlead]
  simp only [hconf, hok, hbusy, hmay, makeRoom_none hroom, Bool.not_true, Bool.or_self, Bool.false_eq_true, if_false]
  rfl
/-- R213: a destination without a configuration, or one for which the shape rule fails, raises TILE_SHAPE. -/
theorem appendBody_bad (hparts : b.parts = [(wi, x, x.live)]) (hlead : x.lead = some t)
    (hbad : ∀ td, x.conf b.u.cfg a.td = some td → a.ok b.u.cfg x t td = false) : appendBody i a b s = b.shapeBad i := by
  rw [appendBody, tileBody_eq hparts hlead]
  cases hconf : x.conf b.u.cfg a.td with
  | none => simp only [hconf]
  | some td => simp only [hconf, hbad td hconf, Bool.not_false, if_true]
end

/-- R213, R215: what every instruction that appends a node does, by the node of its rule. -/
theorem append_does {i : Instr} {m : Nat} {ops : List Nat} {slot : SlotNum} {okf : LaunchCfg → Warp → Thread → TCfg → Bool}
    {kind : Thread → NodeKind} {extra : Thread → Mask} {sr : LaunchCfg → Bool} {canDual : Bool}
    (he : exec i = collIssue i false (appendBody i ⟨m, ops, slot, okf, kind, extra, sr, canDual⟩)) :
    TileAppends i m ops slot okf kind extra sr canDual := by
  refine ⟨warp_does he fun b1 s1 wi x hparts _ ⟨td, t, hconf, hlead, hok, hfree, hacq, hroom⟩ => ?_,
    coll_faults he fun b1 s1 wi x hparts ⟨hlead, hbad⟩ => ?_⟩
  · exact ⟨_, appendBody_ok hparts hconf hlead hok hfree hacq hroom, by rw [hconf, hlead]; rfl⟩
  · obtain ⟨t, hlead⟩ := Option.isSome_iff_exists.1 hlead
    exact appendBody_bad hparts hlead fun td hconf => hbad td t hconf hlead

/-- R257: the ports of a TMLOOP, whose control word has no other bit set. -/
theorem loopOk_eq (q : GNum) : loopOk q = fun _ _ t td => td.acc && (t.gr (q.toNat + 3)).val.toNat % 2 ^ 21 == 0 := by
  funext c w t td
  simp [loopOk, bitsOf]

/-- Settles O16: each instruction is `appendBody` of its node (`append_does`); the shape rules are those of the model but for their
spelling. -/
theorem tileNodes : Obligations.TileNodes := by
  unfold Obligations.TileNodes
  intro d a b f ov bc ac sub pcol addto br n r fn aA aB q shape like pair bySlot
  have hpair (br : Bcast) : pair br = binOk a b br bc ac := by
    funext c w t td
    cases br <;> rfl
  have hops : (if addto then [a.toNat, d.toNat] else [a.toNat]) = a.toNat :: (if addto then [d.toNat] else []) := by
    cases addto <;> rfl
  have hloopMask : (fun t : Thread => (t.ar aA.toNat).mask ||| (t.ar aB.toNat).mask) =
      fun t => t.maskOf [.a aA.toNat, .a aB.toNat] := by
    funext t
    simp [Thread.maskOf]
  refine ⟨append_does rfl, ?tmloop, ?tadd, ?temul, ?tscl, append_does rfl, append_does rfl, append_does rfl, append_does rfl, ?trsum,
    append_does rfl⟩
  case tmloop =>
    rw [← loopOk_eq, hloopMask]
    exact append_does rfl
  case tadd => rw [hpair]; exact append_does rfl
  case temul => rw [hpair]; exact append_does rfl
  case tscl => rw [hpair]; exact append_does rfl
  case trsum => rw [hops]; exact append_does rfl

end Sys2Proof.Machine
end

section
/-! Proof of the Matrix and Transfer engines' events (R166, R219 to R221, R232 to R236, R251, R258, R276, R285, R286, R292, R296 to R311, R498). -/

namespace Sys2Proof.Machine

/-! ### The start of an evaluation (R166, R220, R235, R236, R498) -/

/-- The first primal read of a node that its register does not allow, as the details of its fault (R166, R498). -/
def Node.refused (n : Node) (u : Placed) (w : Warp) : Option (Nat × Nat) :=
  (n.accs u w).findSome? fun x =>
    if x.tang = 0 && !x.a.allows x.va x.n true false then some (n.origin.toNat, (BitVec.ofInt 64 x.va).toNat) else none
/-- A node that reads memory. -/
def Node.reads (n : Node) : Bool := match n.kind with | .loop _ => true | _ => false
theorem accs_of_not_reads {n : Node} (h : n.reads = false) (u : Placed) (w : Warp) : n.accs u w = [] := by
  cases hk : n.kind <;> simp_all [Node.accs, Node.reads]
theorem loopWaits_of_not_reads {n : Node} (h : n.reads = false) (s : State) (core : Nat) (u : Placed) (w : Warp) :
    s.loopWaits core u w n = false := by
  cases hk : n.kind <;> simp_all [State.loopWaits, Node.reads]
theorem refused_none {n : Node} {u : Placed} {w : Warp}
    (h : ∀ x ∈ n.accs u w, x.tang = 0 → x.a.allows x.va x.n true false = true) : n.refused u w = none := by
  refine List.findSome?_eq_none_iff.2 fun x hx => ?_
  by_cases ht : x.tang = 0 <;> simp [ht, h x hx]
theorem refused_some {n : Node} {u : Placed} {w : Warp} {f : Nat × Nat} (h : n.refused u w = some f) :
    ∃ x ∈ n.accs u w, x.tang = 0 ∧ x.a.allows x.va x.n true false = false ∧
      f = (n.origin.toNat, (BitVec.ofInt 64 x.va).toNat) := by
  obtain ⟨x, hx, hf⟩ := List.exists_of_findSome?_eq_some h
  split at hf
  · rename_i hbad
    simp only [Bool.and_eq_true, decide_eq_true_eq, Bool.not_eq_true'] at hbad
    exact ⟨x, hx, hbad.1, hbad.2, (Option.some.inj hf).symm⟩
  · cases hf

section
variable {s : State} {core : Nat} {r : EvalReq} {rs : List EvalReq} {u : Placed} {w : Warp}
  (hcur : (s.core core).evalCur = none) (hq : (s.core core).evalQ = r :: rs) (hu : s.unit? r.w.unit = some u)
  (hw : s.warp? r.w = some w)
include hcur hq hu hw

theorem evalStart_empty (hcl : r.members w = []) :
    exec (.evalStart core) s = .next ((s.modCore core (·.popEval none)).modWarp r.w (endEval r)) := by
  change execEvalStart core s = _
  simp only [execEvalStart, hcur, hq, hu, hw, hcl]
theorem evalStart_waits {n : Node} (hn : n ∈ r.members w) (hwait : s.loopWaits core u w n = true) :
    exec (.evalStart core) s = .next s := by
  have hany : (r.members w).any (s.loopWaits core u w) = true := List.any_eq_true.2 ⟨n, hn, hwait⟩
  obtain ⟨m, ms, hcl⟩ := List.exists_cons_of_ne_nil (List.ne_nil_of_mem hn)
  change execEvalStart core s = _
  rw [hcl] at hany
  simp only [execEvalStart, hcur, hq, hu, hw, hcl, hany, if_true]
theorem evalStart_faults {f : Nat × Nat} (hgo : ∀ n ∈ r.members w, s.loopWaits core u w n = false)
    (hf : (r.members w).findSome? (·.refused u w) = some f) :
    exec (.evalStart core) s = .next ((s.modCore core (·.popEval none)).evalFault r 0x04 f.2 f.1) := by
  have hany : (r.members w).any (s.loopWaits core u w) = false := List.any_eq_false.2 fun n hn => by simp [hgo n hn]
  obtain ⟨n, hn, -⟩ := List.exists_of_findSome?_eq_some hf
  obtain ⟨m, ms, hcl⟩ := List.exists_cons_of_ne_nil (List.ne_nil_of_mem hn)
  change execEvalStart core s = _
  rw [hcl] at hany hf
  unfold Node.refused at hf
  simp only [execEvalStart, hcur, hq, hu, hw, hcl, hany, hf, Bool.false_eq_true, if_false]
theorem evalStart_sends (hne : r.members w ≠ []) (hgo : ∀ n ∈ r.members w, s.loopWaits core u w n = false)
    (hok : ∀ n ∈ r.members w, n.refused u w = none) :
    exec (.evalStart core) s = .next (((r.members w).filter Node.reads).foldl (fun t n => t.sendLoop r core u w n)
      (s.modCore core (·.popEval (some (r, r.members w))))) := by
  have hany : (r.members w).any (s.loopWaits core u w) = false := List.any_eq_false.2 fun n hn => by simp [hgo n hn]
  have hf : (r.members w).findSome? (·.refused u w) = none := List.findSome?_eq_none_iff.2 hok
  obtain ⟨m, ms, hcl⟩ := List.exists_cons_of_ne_nil hne
  change execEvalStart core s = _
  rw [hcl] at hany hf
  unfold Node.refused at hf
  simp only [execEvalStart, hcur, hq, hu, hw, hcl, hany, hf, Bool.false_eq_true, if_false]
  rfl
/-- R220, R221: an evaluation of no node ends with its request. -/
theorem evalStart_empty_does (hcl : r.members w = []) : Does (.evalStart core) s fun t => t.home = s.home ∧ t.ops = s.ops ∧
    (t.core core).evalQ = rs ∧ (t.core core).evalCur = none ∧
    t.warp? r.w = some (dropGraph (if r.teval then { w with tl := w.tl - 1 } else w)) := by
  refine ⟨_, evalStart_empty hcur hq hu hw hcl, by simp, by simp, ?_, ?_, ?_⟩
  · simp [core_modCore, Core.popEval, hq]
  · simp [core_modCore, Core.popEval]
  · simp only [warp?_modWarp_self, warp?_modCore, hw]
    rfl
/-- R220: an evaluation of nodes that read nothing is under way at once. -/
theorem evalStart_quiet (hne : r.members w ≠ []) (hno : ∀ n ∈ r.members w, n.reads = false) :
    Does (.evalStart core) s fun t => t.home = s.home ∧ t.ops = s.ops ∧ (t.core core).evalQ = rs ∧
      (t.core core).evalCur = some (r, r.members w) ∧ t.warp? r.w = some w := by
  have hgo : ∀ n ∈ r.members w, s.loopWaits core u w n = false := fun n hn => loopWaits_of_not_reads (hno n hn) s core u w
  have hok : ∀ n ∈ r.members w, n.refused u w = none := fun n hn => refused_none fun x hx => by
    rw [accs_of_not_reads (hno n hn)] at hx
    cases hx
  have hsent : exec (.evalStart core) s = .next (s.modCore core (·.popEval (some (r, r.members w)))) := by
    rw [evalStart_sends hcur hq hu hw hne hgo hok, filter_eq_nil_of_false hno, List.foldl_nil]
  refine ⟨_, hsent, by simp, by simp, ?_, ?_, by simp [hw]⟩
  · simp [core_modCore, Core.popEval, hq]
  · simp [core_modCore, Core.popEval]
/-- R166, R235, R498: the evaluation faults at the first primal read that its register does not allow. -/
theorem evalStart_refused (hgo : ∀ n ∈ r.members w, s.loopWaits core u w n = false)
    (hbad : ∃ n ∈ r.members w, ∃ x ∈ n.accs u w, x.tang = 0 ∧ x.a.allows x.va x.n true false = false) :
    ∃ n ∈ r.members w, ∃ x ∈ n.accs u w, x.tang = 0 ∧ x.a.allows x.va x.n true false = false ∧
      exec (.evalStart core) s = .next ((s.modCore core (·.popEval none)).evalFault r 0x04 (BitVec.ofInt 64 x.va).toNat n.origin.toNat) := by
  cases hf : (r.members w).findSome? (·.refused u w) with
  | none =>
    obtain ⟨n, hn, x, hx, ht, ha⟩ := hbad
    have hx' := List.findSome?_eq_none_iff.1 (List.findSome?_eq_none_iff.1 hf n hn) x hx
    simp [ht, ha] at hx'
  | some f =>
    obtain ⟨n, hn, hrefused⟩ := List.exists_of_findSome?_eq_some hf
    obtain ⟨x, hx, ht, ha, rfl⟩ := refused_some hrefused
    have hfaults := evalStart_faults hcur hq hu hw hgo hf
    exact ⟨n, hn, x, hx, ht, ha, hfaults⟩
end

/-! ### The end of an evaluation (R219, R221, R232 to R234) -/

section
variable {s : State} {core : Nat} {r : EvalReq} {cl : List Node} {u : Placed} {w : Warp}
  (hcur : (s.core core).evalCur = some (r, cl)) (hu : s.unit? r.w.unit = some u) (hw : s.warp? r.w = some w)
  (hload : ∀ n ∈ cl, n.loading w = false) (hops : ∀ o ∈ s.loopOps r, o.ready s.clk = true ∧ o.failure = none)
include hcur hu hw hload hops

/-- The state in which an evaluation has ended, before its fault. -/
def State.evalEnded (s : State) (core : Nat) (r : EvalReq) (cl : List Node) (v : Warp × List Report) : State :=
  ((s.loopOps r).foldl (fun t o => t.arrived o) (s.modCore core fun c => { c with evalCur := none })).modWarp r.w
    (closeEval r cl v.1 v.2)
def State.evalResult (s : State) (r : EvalReq) (cl : List Node) (u : Placed) (w : Warp) : Warp × List Report :=
  evalClosure ⟨u, r.w.wg, r.w.warp, loopImages (s.loopOps r)⟩ w cl r.graph u.cfg.reassoc
theorem exec_evalComplete : exec (.evalComplete core) s = .next (match (s.evalResult r cl u w).2 with
    | e :: _ => if u.cfg.mxtrap then (s.evalEnded core r cl (s.evalResult r cl u w)).evalFault r 0x0C e.origin.toNat (mxDet1 e)
      else s.evalEnded core r cl (s.evalResult r cl u w)
    | [] => s.evalEnded core r cl (s.evalResult r cl u w)) := by
  have hready : (s.loopOps r).all (·.ready s.clk) = true := List.all_eq_true.2 fun o ho => (hops o ho).1
  have hany : (cl.any fun n => n.loading w) = false := List.any_eq_false.2 fun n hn => by simp [hload n hn]
  have hfail : ((s.loopOps r).findSome? fun o => o.failure.map fun f => (o.pc.toNat, f)) = none :=
    List.findSome?_eq_none_iff.2 fun o ho => by simp [(hops o ho).2]
  change execEvalComplete core s = _
  simp only [execEvalComplete, hcur, hu, hw, hready, hany, hfail, Bool.not_true, Bool.or_self, Bool.false_eq_true, if_false]
  change (match (s.evalResult r cl u w).2 with | _ :: _ => _ | [] => _) = _
  cases (s.evalResult r cl u w).2 <;> rfl
end

/-! ### A tile load that has landed (R106, R251, R253) -/

theorem dropGraph_of_live {w : Warp} (h : w.live ≠ []) : dropGraph w = w := by
  simp [dropGraph, h]
/-- An operation that is no acquire lets go of no thread. -/
theorem landed_of_not_acq {o : MemOp} (h : o.acq = false) (w : Warp) (now time : Nat) : w.landed o now time = w.takesTime o now time := by
  simp [Warp.landed, Warp.letGo, h]
/-- What a tile load that has come whole leaves of its warp. -/
def Warp.tileLanded (w : Warp) (o : MemOp) (m : Nat) : Warp := ((landTile o m w).addCounter .ld false).addCounter .tl false
theorem exec_tileLoadLanded {s : State} {o : MemOp} {m : Nat} (ho : s.op? o.id = some o) (hk : o.kind = .tld m)
    (hdone : ∀ p ∈ o.parts, p.st = .done) (hdue : o.due ≤ s.clk) (hret : o.returned = false) (hfwd : s.forwarding o = false) :
    exec (.tileLoadLanded o.id) s = .next ((s.modWarp o.w fun w => (dropGraph (w.tileLanded o m)).landed o (s.now o.core)
      (o.arrival (s.now o.core))).dropOp o.id) := by
  have hfail : o.parts.any Part.failing = false :=
    List.any_eq_false.2 fun p hp => by simp [Part.failing, hdone p hp]
  have hlands : (s.modWarp o.w fun w => dropGraph (w.tileLanded o m)).arrived o = _ := arrived_lands (by exact hfwd)
  rw [modWarp_modWarp] at hlands
  refine Eq.trans ?_ (congrArg Host.Outcome.next hlands)
  change execTileLoadLanded o.id s = _
  simp only [execTileLoadLanded, ho, hk, ready_of_done hdone hdue hret, badLanes_of_done hdone, hfail, Bool.not_true, Bool.false_eq_true,
    if_false]
  rfl
theorem tileLoadLanded_does {s : State} {o : MemOp} {m : Nat} {w : Warp} (ho : s.op? o.id = some o) (hk : o.kind = .tld m)
    (hdone : ∀ p ∈ o.parts, p.st = .done) (hdue : o.due ≤ s.clk) (hret : o.returned = false) (hacq : o.acq = false)
    (hfwd : s.forwarding o = false) (hw : s.warp? o.w = some w) (hin : (w.tile m).inflight = some o.id) (hm : m < w.tiles.length)
    (hlive : w.live ≠ []) :
    let image (tang : Nat) (sc : Bool) : Memory := (o.parts.filter fun p => p.tang == tang && (decide (p.off ≥ scaleOff) == sc)).foldl
      (fun d p => memWrite d (if sc then p.off - scaleOff else p.off) p.data) []
    Does (.tileLoadLanded o.id) s fun t => t.home = s.home ∧ t.ops = s.ops.filter (·.id != o.id) ∧ ∃ y, t.warp? o.w = some y ∧
      y.ld = w.ld - 1 ∧ y.tl = w.tl - 1 ∧ (∀ k, k ≠ m → y.tile k = w.tile k) ∧ y.threads = w.threads ∧ y.graph = w.graph ∧
      y.tile m = { w.tile m with data := image 0 false, scales := image 0 true, shData := image 1 false, shScales := image 1 true
                                 inflight := none } := by
  intro image
  have hdrop : dropGraph (w.tileLanded o m) = w.tileLanded o m := dropGraph_of_live hlive
  refine ⟨_, exec_tileLoadLanded ho hk hdone hdue hret hfwd, rfl, rfl, (w.tileLanded o m).takesTime o (s.now o.core)
    (o.arrival (s.now o.core)), ?_, rfl, rfl, fun k hne => tile_setTile_of_ne hne w _, rfl, rfl, ?_⟩
  · refine (warp?_modWarp_self s o.w _).trans ?_
    rw [hw, Option.map_some, hdrop, landed_of_not_acq hacq]
  · refine (tile_setTile_self hm _).trans ?_
    rw [hin, beq_self_eq_true, if_pos rfl]

/-! ### The records of an XLR (R305 to R307, R314) -/

section
variable {s : State} {o : MemOp} {l : Nat} {u : Placed} (ho : s.op? o.id = some o) (hk : o.kind = .xlr l)
  (hu : s.unit? o.w.unit = some u) (hxlr : s.xlrBefore o.w.unit o.w.wg l o.group = false)
  (hcopy : s.copyBefore o.w.unit o.w.wg l o.group = false)
  (hgroup : ∀ x ∈ s.ops.filter (·.group == o.group), x.ready s.clk = true ∧ x.waitSt = [])
include ho hk hu hxlr hcopy hgroup

/-- The records of one operation of an XLR's issue take effect, and it ends. -/
def State.xlrReturn (s : State) (u : Placed) (l : Nat) (anyBad : Bool) (x : MemOp) : State :=
  ((s.loadHandles u l anyBad x).modWarp x.w fun w => { w with xf := w.xf - 1 }).dropOp x.id
theorem exec_xlrComplete : exec (.xlrComplete o.id) s = .next ((s.ops.filter (·.group == o.group)).foldl (fun t x =>
    t.xlrReturn u l ((s.ops.filter (·.group == o.group)).any fun y => s.badRecords u y != []) x) s) := by
  have hready : ((s.ops.filter (·.group == o.group)).all fun x => x.ready s.clk && x.waitSt == []) = true :=
    List.all_eq_true.2 fun x hx => by simp [hgroup x hx]
  change execXlrComplete o.id s = _
  simp only [execXlrComplete, ho, hk, hready, hxlr, hcopy, hu, Bool.not_true, Bool.or_self, Bool.false_eq_true, if_false]
  rfl
end

/-! ### What an XLR's record leaves of its handle (R305, R306, R314) -/

theorem handle_modWg_self (s : State) (unit wg l : Nat) (h : Handle) {g : Workgroup} (hg : s.wg? unit wg = some g)
    (hl : l < g.handles.length) :
    (s.modWg unit wg fun g => { g with handles := modAt g.handles l fun _ => some h }).handle unit wg l = some h := by
  simp only [State.handle, wg?_modWg_self, hg, Option.map_some, Option.bind_some, modAt_getElem?]
  simp [hl]
theorem handle_modWarp (s : State) (w : WarpId) (f : Warp → Warp) (l : Nat) :
    (s.modWarp w f).handle w.unit w.wg l = s.handle w.unit w.wg l := by
  simp only [State.handle, State.modWarp, wg?_modWg_self]
  cases s.wg? w.unit w.wg <;> rfl
theorem warp?_modHandles (s : State) (w : WarpId) (l : Nat) (f : Option Handle → Option Handle) :
    (s.modWg w.unit w.wg fun g => { g with handles := modAt g.handles l f }).warp? w = s.warp? w := by
  simp only [State.warp?, wg?_modWg_self]
  cases s.wg? w.unit w.wg <;> rfl
/-- The record that one lane of an XLR has read, and its time (R305). -/
def MemOp.record (o : MemOp) (ln : Nat) : BitVec 512 := BitVec.ofNat 512 (assemble (o.laneParts ln 0))
def State.recordTime (s : State) (o : MemOp) (ln : Nat) : Nat :=
  max o.tclear (maxOf ((o.laneParts ln 0).map fun p => if p.far then s.now o.core else p.time))
theorem records_one {s : State} {o : MemOp} {ln : Nat} (hl : o.lanes = [ln]) (hdone : ∀ p ∈ o.parts, p.st = .done) :
    s.records o = [(ln, o.record ln, s.recordTime o ln)] := by
  simp [State.records, badLanes_of_done hdone, hl, MemOp.record, State.recordTime]
theorem badRecords_one {s : State} {o : MemOp} {u : Placed} {ln : Nat} (hl : o.lanes = [ln]) (hdone : ∀ p ∈ o.parts, p.st = .done) :
    s.badRecords u o = match layCheck u (o.record ln) with | some k => [(ln, k)] | none => [] := by
  simp only [State.badRecords, records_one hl hdone]
  cases h : layCheck u (o.record ln) <;> simp [h]
theorem loadHandles_good {s : State} {o : MemOp} {u : Placed} {l ln : Nat} (hl : o.lanes = [ln]) (hdone : ∀ p ∈ o.parts, p.st = .done)
    (hc : layCheck u (o.record ln) = none) (anyBad : Bool) : s.loadHandles u l anyBad o = s.modWg o.w.unit o.w.wg fun g =>
      { g with handles := modAt g.handles l fun _ => some (handleOf u (o.record ln) (s.recordTime o ln)) } := by
  simp only [State.loadHandles, badRecords_one hl hdone, records_one hl hdone, hc, badLanes_of_done hdone, List.foldl_cons,
    List.foldl_nil, Option.isSome_none, Bool.false_eq_true, if_false]
  cases anyBad <;> rfl
theorem loadHandles_bad {s : State} {o : MemOp} {u : Placed} {l ln k : Nat} (hl : o.lanes = [ln]) (hdone : ∀ p ∈ o.parts, p.st = .done)
    (hc : layCheck u (o.record ln) = some k) (anyBad : Bool) :
    s.loadHandles u l anyBad o = s.layoutFault o.group o.w o.pc [ln] k := by
  simp [State.loadHandles, badRecords_one hl hdone, records_one hl hdone, hc]

section
variable {s : State} {o : MemOp} {l ln : Nat} {u : Placed} {w : Warp} (ho : s.op? o.id = some o) (hk : o.kind = .xlr l)
  (hu : s.unit? o.w.unit = some u) (hxlr : s.xlrBefore o.w.unit o.w.wg l o.group = false)
  (hcopy : s.copyBefore o.w.unit o.w.wg l o.group = false)
  (hgroup : ∀ x ∈ s.ops.filter (·.group == o.group), x.ready s.clk = true ∧ x.waitSt = [])
  (hone : s.ops.filter (·.group == o.group) = [o]) (hl : o.lanes = [ln]) (hdone : ∀ p ∈ o.parts, p.st = .done)
  (hw : s.warp? o.w = some w)
include ho hk hu hxlr hcopy hgroup hone hl hdone hw

theorem xlrComplete_loads {g : Workgroup} (hg : s.wg? o.w.unit o.w.wg = some g) (hin : l < g.handles.length)
    (hc : layCheck u (o.record ln) = none) : Does (.xlrComplete o.id) s fun t => t.home = s.home ∧
      t.ops = s.ops.filter (·.id != o.id) ∧ t.handle o.w.unit o.w.wg l = some (handleOf u (o.record ln) (s.recordTime o ln)) ∧
      (t.warp? o.w).map (·.xf) = some (w.xf - 1) := by
  refine ⟨_, exec_xlrComplete ho hk hu hxlr hcopy hgroup, ?_⟩
  rw [hone, List.foldl_cons, List.foldl_nil, State.xlrReturn, loadHandles_good hl hdone hc]
  refine ⟨rfl, rfl, (handle_modWarp _ o.w _ l).trans (handle_modWg_self s _ _ l _ hg hin), ?_⟩
  refine (congrArg (Option.map _) (warp?_modWarp_self _ o.w _)).trans ?_
  rw [warp?_modHandles, hw]
  rfl
theorem xlrComplete_faults {k : Nat} (hc : layCheck u (o.record ln) = some k) :
    Does (.xlrComplete o.id) s fun t => s.sameMemory t ∧
      t.handle o.w.unit o.w.wg l = s.handle o.w.unit o.w.wg l ∧ (t.warp? o.w).map (·.xf) = some (w.xf - 1) ∧
      t.home.faults = s.home.faults ++ [⟨s.nextId, o.group, o.w, o.pc, 0x0D, BitVec.ofNat 64 k, BitVec.ofNat 64 o.pc.toNat, [ln], [(ln, k)]⟩] := by
  refine ⟨_, exec_xlrComplete ho hk hu hxlr hcopy hgroup, ?_⟩
  rw [hone, List.foldl_cons, List.foldl_nil, State.xlrReturn, loadHandles_bad hl hdone hc]
  refine ⟨fun a => ⟨rfl, rfl, fun _ => rfl⟩, handle_modWarp (s.layoutFault o.group o.w o.pc [ln] k) o.w _ l, ?_, rfl⟩
  refine (congrArg (Option.map _) (warp?_modWarp_self (s.layoutFault o.group o.w o.pc [ln] k) o.w _)).trans ?_
  rw [show (s.layoutFault o.group o.w o.pc [ln] k).warp? o.w = some w from hw]
  rfl
end

/-! ### A channel before its chunks (R299, R305, R307, R309, R310) -/

section
variable {s : State} {c : Channel} {u : Placed} (hc : s.channel? c.pcl c.ch = some c) (hu : s.unit? c.w.unit = some u)
  (hstart : c.started = false)

/-- R310: the destination may be written. -/
theorem writes_allowed {h? : Option Handle} (h : ∀ h, h? = some h → h.w = true) : ((h?.map fun h => !h.w).getD false) = false := by
  cases h? with
  | none => rfl
  | some x => simp [h x rfl]
theorem mayStart_mask {w : Warp} (hw : s.warp? c.w = some w)
    (hvis : visReached w.tags c.mask (s.clockOf (.transfer c.pcl)) = false) : s.xferMayStart c = false := by
  simp [State.xferMayStart, hw, hvis]

include hc hu hstart
theorem channelStart_copies (hnot : c.copied = false) (hxlr : ∀ l ∈ c.dst :: c.srcs, s.xlrBefore c.w.unit c.w.wg l c.op = false) :
    exec (.channelStart c.pcl c.ch) s = .next (
      if (((c.copy s u).dstH.map fun h => !h.w).getD false) then
        (s.closeChannel (c.copy s u)).layoutFault s.nextId c.w c.pc [c.lane] 7
      else if (c.copy s u).err.isSome then s.setChannel { c.copy s u with started := true }
      else s.setChannel (c.copy s u)) := by
  have hany : ((c.dst :: c.srcs).any fun l => s.xlrBefore c.w.unit c.w.wg l c.op) = false :=
    List.any_eq_false.2 fun l hl => by simp [hxlr l hl]
  change execChannelStart c.pcl c.ch s = _
  simp only [execChannelStart, hc, hu, hstart, hnot, hany, Bool.not_false, Bool.false_eq_true, if_false, if_true]
  rw [apply_ite Host.Outcome.next, apply_ite Host.Outcome.next]
  rfl
theorem channelStart_waits (hcopied : c.copied = true) (hmay : s.xferMayStart c = false) :
    exec (.channelStart c.pcl c.ch) s = .next s := by
  change execChannelStart c.pcl c.ch s = _
  simp only [execChannelStart, hc, hu, hstart, hcopied, hmay, Bool.not_true, Bool.not_false, Bool.false_eq_true, if_false, if_true]
theorem channelStart_empty (hcopied : c.copied = true) (hmay : s.xferMayStart c = true) (h0 : c.chunks = 0) (hcsr : c.csr = false) :
    exec (.channelStart c.pcl c.ch) s = .next (s.xferDone c) := by
  change execChannelStart c.pcl c.ch s = _
  simp only [execChannelStart, hc, hu, hstart, hcopied, hmay, h0, hcsr, decide_true, Bool.and_self, Bool.not_true, Bool.not_false,
    Bool.false_eq_true, if_false, if_true]
theorem channelStart_reads (hcopied : c.copied = true) (hmay : s.xferMayStart c = true) (hsome : c.chunks ≠ 0 ∨ c.csr = true) :
    exec (.channelStart c.pcl c.ch) s = .next (
      if s.heldUp u (placesOf (c.reads u c.firstReads)) then s
      else (s.setChannel { c with started := true, vis := ((s.warp? c.w).bind fun w => visTime w.tags c.mask).getD 0 }).newOp fun id =>
        MemOp.plain c.w (engineCore c.pcl c.ch) c.pc (.xread c.pcl c.ch) [c.lane] (c.reads u c.firstReads) id) := by
  have hmore : (decide (c.chunks = 0) && !c.csr) = false := by
    rcases hsome with h | h <;> simp [h]
  change execChannelStart c.pcl c.ch s = _
  simp only [execChannelStart, hc, hu, hstart, hcopied, hmay, hmore, Bool.not_true, Bool.false_eq_true, if_false]
  rw [apply_ite Host.Outcome.next]
end

/-! ### A channel at its chunks (R286, R292, R297, R310, R311) -/

section
variable {s : State} {c : Channel} {u : Placed} (hc : s.channel? c.pcl c.ch = some c) (hu : s.unit? c.w.unit = some u)
  (hstart : c.started = true) (hmine : ∀ o ∈ s.ops, o.kind.writes c.pcl c.ch = true → o.w = c.w)

theorem dropOrphans_none (hmine : ∀ o ∈ s.ops, o.kind.writes c.pcl c.ch = true → o.w = c.w) :
    s.dropOrphans c.pcl c.ch c.writing = s := by
  have hnone : (s.ops.filter fun o => o.kind.writes c.pcl c.ch && o.settled && !c.writing o) = [] := by
    refine filter_eq_nil_of_false fun o ho => ?_
    cases hk : o.kind.writes c.pcl c.ch with
    | false => rfl
    | true => simp [Channel.writing, hk, hmine o ho hk]
  rw [State.dropOrphans, hnone, List.foldl_nil]

include hc hu hstart hmine
theorem chunkLand_fails {o : MemOp} (ho : s.ops.find? (fun o => c.owns o && o.parts.any Part.failing) = some o) :
    exec (.chunkLand c.pcl c.ch) s = .next ((s.sendFault o [c.lane]).closeChannel c) := by
  change execChunkLand c.pcl c.ch s = _
  simp only [execChunkLand, hc, dropOrphans_none hmine, hu, hstart, ho, Bool.not_true, Bool.false_eq_true, if_false]

variable (hok : ∀ o ∈ s.ops, c.owns o = true → ∀ p ∈ o.parts, p.failing = false)
include hok
omit hc hu hstart hmine in
theorem find_failing_none : s.ops.find? (fun o => c.owns o && o.parts.any Part.failing) = none := by
  refine List.find?_eq_none.2 fun o ho => ?_
  cases hown : c.owns o with
  | false => simp
  | true => simpa using hok o ho hown
theorem chunkLand_lands {o : MemOp} (ho : s.ops.find? (fun o => c.writing o && c.mayLand s o) = some o)
    (hahead : s.landAhead c = false) : exec (.chunkLand c.pcl c.ch) s = .next (s.landChunk c o) := by
  change execChunkLand c.pcl c.ch s = _
  simp only [execChunkLand, hc, dropOrphans_none hmine, hu, hstart, find_failing_none hok, ho, hahead, Bool.not_true,
    Bool.false_eq_true, if_false]
/-- The channel has more to commit: its next chunk, or the check with which a walk begins. -/
theorem chunkLand_goes_on (hno : ∀ o ∈ s.ops, (c.writing o && c.mayLand s o) = false)
    (hmore : c.written < c.chunks ∨ c.chunks = 0 ∧ c.csr = true) (herr : c.err = none) :
    exec (.chunkLand c.pcl c.ch) s = .next (match c.next (c.source s) with
      | .need xs => s.moreReads c u xs
      | .over ws line _ => s.commitChunk c u ws (some (3, c.dstLay.cap, line))
      | .stop kind extent chunk => s.setChannel { c with err := some (kind, extent, chunk), chunks := c.written }
      | .write ws => if c.chunks = 0 then s.xferDone c else s.commitChunk c u ws none) := by
  have hland : s.ops.find? (fun o => c.writing o && c.mayLand s o) = none := List.find?_eq_none.2 fun o ho => by simp [hno o ho]
  have hmore' : (decide (c.written < c.chunks) || (decide (c.chunks = 0) && c.csr)) = true := by
    rcases hmore with h | ⟨h, hcsr⟩
    · simp [h]
    · simp [h, hcsr]
  change execChunkLand c.pcl c.ch s = _
  simp only [execChunkLand, hc, dropOrphans_none hmine, hu, hstart, find_failing_none hok, hland, hmore', herr, Option.isNone_none,
    Bool.true_or, Bool.and_self, Bool.not_true, Bool.false_eq_true, if_false, if_true]
  cases c.next (c.source s) <;> rfl
theorem chunkLand_ends (hno : ∀ o ∈ s.ops, c.writing o = false) (hmore : c.written ≥ c.chunks)
    (hend : c.chunks ≠ 0 ∨ c.csr = false ∨ ∃ k x y, c.err = some (k, x, y) ∧ k ≠ 3) :
    exec (.chunkLand c.pcl c.ch) s = .next (if c.err.isSome then (if s.landAhead c then s else s.errorEvent c) else s.xferDone c) := by
  have hland : s.ops.find? (fun o => c.writing o && c.mayLand s o) = none := List.find?_eq_none.2 fun o ho => by simp [hno o ho]
  have hany : s.ops.any c.writing = false := List.any_eq_false.2 fun o ho => by simp [hno o ho]
  have hlt : decide (c.written < c.chunks) = false := by simpa using hmore
  have hstep : (decide (c.chunks = 0) && c.csr) = false ∨ ∃ k x y, c.err = some (k, x, y) ∧ k ≠ 3 := by
    rcases hend with h | h | h
    · simp [h]
    · simp [h]
    · exact .inr h
  change execChunkLand c.pcl c.ch s = _
  rw [apply_ite Host.Outcome.next]
  rcases hstep with hcsr | ⟨k, x, y, he, hk⟩
  · simp only [execChunkLand, hc, dropOrphans_none hmine, hu, hstart, find_failing_none hok, hland, hany, hlt, hcsr, Bool.not_true,
      Bool.or_self, Bool.false_and, Bool.false_eq_true, if_false]
  · simp [execChunkLand, hc, dropOrphans_none hmine, hu, hstart, find_failing_none hok, hland, hany, hlt, he, hk]
end

/-- Settles O51: each event by the rule of its case. -/
theorem engineEvents : Obligations.EngineEvents := by
  unfold Obligations.EngineEvents
  refine ⟨fun s core r rs u w hcur hq hu hw => ?_, fun s core r cl u w hcur hu hw hload hops => ?_,
    fun s o m w ho hk hdone hdue hret hacq hfwd hw hin hm hlive =>
      tileLoadLanded_does ho hk hdone hdue hret hacq hfwd hw hin hm hlive,
    fun s o l u ho hk hu hxlr hcopy => ?_, fun s c u hc hu hstart => ?_, fun s c u hc hu hstart hmine => ?_⟩
  · refine ⟨evalStart_empty_does hcur hq hu hw, fun hne hgo hok => ?_, evalStart_quiet hcur hq hu hw,
      evalStart_refused hcur hq hu hw, fun n hn hwait => evalStart_waits hcur hq hu hw hn hwait⟩
    exact evalStart_sends hcur hq hu hw hne hgo fun n hn => refused_none (hok n hn)
  · refine ⟨fun hno => ?_, fun e es hv htrap => ?_, fun hnil => ?_⟩
    · rw [exec_evalComplete hcur hu hw hload hops]
      rcases hno with hnil | htrap
      · rw [show (s.evalResult r cl u w).2 = [] from hnil]
        rfl
      · cases hv : (s.evalResult r cl u w).2 with
        | nil => rfl
        | cons e es => simp only [htrap, Bool.false_eq_true, if_false]; rfl
    · rw [exec_evalComplete hcur hu hw hload hops, show (s.evalResult r cl u w).2 = e :: es from hv]
      simp only [htrap, if_true]
      rfl
    · simp only [hnil, List.foldl_nil]
      refine ⟨by simp, by simp, by simp [core_modCore], ?_⟩
      simp only [warp?_modWarp_self, warp?_modCore, hw, Option.map_some]
  · intro issue hgroup
    refine ⟨exec_xlrComplete ho hk hu hxlr hcopy hgroup, fun ln w g hone hl hdone hg hin hw => ⟨fun hc => ?_, fun k hc => ?_⟩⟩
    · exact xlrComplete_loads ho hk hu hxlr hcopy hgroup hone hl hdone hw hg hin hc
    · exact xlrComplete_faults ho hk hu hxlr hcopy hgroup hone hl hdone hw hc
  · intro d
    refine ⟨fun hnot hxlr => ⟨rfl, rfl, rfl, fun hwr herr => ?_, fun hwr herr => ?_, fun h hd hwr => ?_⟩,
      fun hcopied hmay hsome => ⟨fun hheld => ?_, fun hheld w hw => ?_⟩, fun w hw hvis => mayStart_mask hw hvis,
      channelStart_empty hc hu hstart, channelStart_waits hc hu hstart⟩
    · rw [channelStart_copies hc hu hstart hnot hxlr, if_neg, if_neg]
      · simp [show (c.copy s u).err = none from herr]
      · rw [Bool.not_eq_true]
        exact writes_allowed hwr
    · rw [channelStart_copies hc hu hstart hnot hxlr, if_neg, if_pos]
      · exact Option.isSome_iff_ne_none.2 herr
      · rw [Bool.not_eq_true]
        exact writes_allowed hwr
    · rw [channelStart_copies hc hu hstart hnot hxlr, if_pos]
      simp [show (c.copy s u).dstH = some h from hd, hwr]
    · rw [channelStart_reads hc hu hstart hcopied hmay hsome, if_pos hheld]
    · rw [channelStart_reads hc hu hstart hcopied hmay hsome, if_neg (by simp [hheld]), hw]
      rfl
  · intro does lands
    refine ⟨fun o ho => chunkLand_fails hc hu hstart hmine ho, fun hok => ⟨fun o ho hahead =>
      chunkLand_lands hc hu hstart hmine hok ho hahead, fun hno hmore herr => ?_, fun hno h0 hcsr herr => ?_, fun hno hmore => ?_⟩⟩
    · have hgo := chunkLand_goes_on hc hu hstart hmine hok hno (.inl hmore) herr
      have h0 : c.chunks ≠ 0 := by omega
      simp only [Channel.next, h0, if_false] at hgo
      refine ⟨fun ws hres => ?_, fun xs hres => ?_, fun ws line posts hres => ?_, fun kind extent chunk hres => ?_⟩ <;>
        · rw [hres] at hgo
          exact hgo
    · have hgo := chunkLand_goes_on hc hu hstart hmine hok hno (.inr ⟨h0, hcsr⟩) herr
      simp only [Channel.next, h0, if_true] at hgo
      refine ⟨fun hres => ?_, fun kind extent chunk hres => ?_⟩ <;>
        · rw [hres] at hgo
          simpa only [h0] using hgo
    · refine ⟨fun herr hend => ?_, fun k x y herr hend hahead => ?_⟩
      · change exec (.chunkLand c.pcl c.ch) s = _
        rw [chunkLand_ends hc hu hstart hmine hok hno hmore (hend.imp_right .inl), herr]
        rfl
      · change exec (.chunkLand c.pcl c.ch) s = _
        rw [chunkLand_ends hc hu hstart hmine hok hno hmore ?_, herr, hahead]
        · rfl
        · rcases hend with hk | h | h
          · exact .inr (.inr ⟨k, x, y, herr, hk⟩)
          · exact .inl h
          · exact .inr (.inl h)

end Sys2Proof.Machine
end

section
/-! Proof of the Lane engine's own events (R25, R26, R92 to R95, R100, R105, R158, R386, R391, R466, R479). -/

namespace Sys2Proof.Machine

/-! ### Filing a thread (R92 to R94, R63, R64) -/

@[simp] theorem thread?_modCore (s : State) (c : Nat) (f : Core → Core) (w : WarpId) (l : Nat) : (s.modCore c f).thread? w l = s.thread? w l := by
  simp [State.thread?]
/-- Whether a thread of a bin has the hints pending that the thread filed has (R64). -/
def State.alike (s : State) (f : Filing) (th : Thread) (e : Nat × Nat) : Bool :=
  ((s.thread? ⟨f.unit, f.wg, e.1⟩ e.2).map (·.hints == th.hints)).getD true
/-- The slot of its port that a thread joins (R94). -/
def State.joins (s : State) (p : Port) (f : Filing) (th : Thread) : Option Nat :=
  joinAt (s.isDet f.unit) (s.alike f th) f th.pc p.slots
theorem formFull_fields (s : State) (port : Nat) (x : Slot) : (s.formFull port x).entries = x.entries ∧ (s.formFull port x).pc = x.pc ∧
    (s.formFull port x).unit = x.unit ∧ (s.formFull port x).wg = x.wg ∧ (s.formFull port x).filed = x.filed := by
  unfold State.formFull
  split <;> exact ⟨rfl, rfl, rfl, rfl, rfl⟩
theorem joinAt_lt {lone : Bool} {same : Nat × Nat → Bool} {f : Filing} {pc : VAddr} {slots : List (Option Slot)} {k : Nat}
    (h : joinAt lone same f pc slots = some k) : k < slots.length := by
  unfold joinAt at h
  dsimp only at h
  split at h
  · rename_i hk
    obtain rfl := Option.some.inj h
    exact (List.findIdx?_eq_some_iff_getElem.1 hk).1
  · exact (List.findIdx?_eq_some_iff_getElem.1 h).1
theorem port_modPort {s : State} {core port : Nat} {p : Port} (hp : (s.core core).ports[port]? = some p) (f : Port → Port) :
    ((s.modCore core fun c => { c with ports := modAt c.ports port f }).core core).ports[port]? = some (f p) := by
  rw [core_modCore s core core (fun c => { c with ports := modAt c.ports port f }) fun _ => rfl, if_pos rfl, modAt_getElem?, if_pos rfl, hp, Option.map_some]
/-- What a thread that joins, or that no slot takes, leaves of its port (R94). -/
def Port.join (q : Port) (f : Filing) (place : Option Nat) (g : Option Slot → Slot) : Port :=
  match place with
  | some i => { q with slots := modAt q.slots i fun x => some (g x) }
  | none => { q with queue := q.queue ++ [{ f with waiting := true }] }
theorem fileNow_port {s : State} {core port : Nat} {q : Port} {f : Filing} {th : Thread}
    (hq : (s.core core).ports[port]? = some q) (ht : s.thread? ⟨f.unit, f.wg, f.warp⟩ f.lane = some th) :
    ((s.fileNow core port f).core core).ports[port]? =
      some (q.join f (s.joins q f th) fun x => s.formFull port (joinSlot f th.pc s.clk x)) := by
  let joined (r : Port) : Port := r.join f (s.joins q f th) fun x => s.formFull port (joinSlot f th.pc s.clk x)
  have hfile : s.fileNow core port f = s.modCore core fun c => { c with ports := modAt c.ports port joined } := by
    simp only [State.fileNow, ht, hq]
    rfl
  rw [hfile, port_modPort hq]
theorem fileNow_units (s : State) (core port : Nat) (f : Filing) : (s.fileNow core port f).units = s.units := by
  unfold State.fileNow
  dsimp only
  split
  · exact modCore_units ..
  · rfl
theorem joins_lt {s : State} {p : Port} {f : Filing} {th : Thread} {k : Nat} (h : s.joins p f th = some k) : k < p.slots.length :=
  joinAt_lt h

section
variable {s : State} {core port : Nat} {p : Port} {f : Filing} {th : Thread} (hp : (s.core core).ports[port]? = some p)
  (hf : s.nextFiling p = some f) (ht : s.thread? ⟨f.unit, f.wg, f.warp⟩ f.lane = some th)
include hp hf ht

theorem threadFiling_does : Does (.threadFiling core port) s fun t => t.home = s.home ∧ t.units = s.units ∧ t.ops = s.ops ∧
    ∃ q, (t.core core).ports[port]? = some q ∧ q.ptr = p.ptr ∧
      (∀ k, s.joins p f th = some k → q.queue = p.queue.filter (· != f) ∧ (∀ j, j ≠ k → q.slots[j]? = p.slots[j]?) ∧
        ∃ x, q.slots[k]? = some (some x) ∧
          x.entries = (match p.slots[k]? with | some (some y) => y.entries | _ => []) ++ [(f.warp, f.lane)] ∧
          (p.slots[k]? = some none → x.pc = th.pc ∧ x.unit = f.unit ∧ x.wg = f.wg ∧ x.filed = s.clk)) ∧
      (s.joins p f th = none → q.slots = p.slots ∧ q.queue = p.queue.filter (· != f) ++ [{ f with waiting := true }]) := by
  let taken (p : Port) : Port := { p with queue := p.queue.filter (· != f), served := if f.waiting then s.clk + 1 else p.served }
  let t := s.modCore core fun c => { c with ports := modAt c.ports port taken }
  let g : Filing := { f with waiting := false }
  have hexec : exec (.threadFiling core port) s = .next (t.fileNow core port g) := by
    change execThreadFiling core port s = _
    simp only [execThreadFiling, hp, Option.bind_some, hf]
    rfl
  have hport : (t.core core).ports[port]? = some (taken p) := port_modPort hp taken
  have hthread : t.thread? ⟨g.unit, g.wg, g.warp⟩ g.lane = some th := (thread?_modCore ..).trans ht
  have hjoins : t.joins (taken p) g th = s.joins p f th := by
    have halike : t.alike g th = s.alike f th := by
      funext e
      simp only [State.alike]
      rw [show t.thread? _ _ = s.thread? _ _ from thread?_modCore ..]
    have hdet : t.isDet g.unit = s.isDet f.unit := by
      simp only [State.isDet]
      rw [show t.unit? g.unit = s.unit? f.unit from unit?_modCore ..]
    simp only [State.joins, halike, hdet]
    rfl
  have hclk : t.clk = s.clk := modCore_clk ..
  refine ⟨_, hexec, (fileNow_frame ..).1.trans (modCore_home ..), (fileNow_units ..).trans (modCore_units ..),
    (ops_fileNow ..).trans (modCore_ops ..), _, fileNow_port hport hthread, ?_, fun k hk => ?_, fun hk => ?_⟩
  · cases t.joins (taken p) g th <;> rfl
  · rw [hjoins, hk]
    have hlt := joins_lt hk
    obtain ⟨hentries, hpc, hunit, hwg, hfiled⟩ := formFull_fields t port (joinSlot g th.pc t.clk p.slots[k])
    refine ⟨rfl, fun j hne => by simp [Port.join, modAt_getElem?, hne, taken],
      t.formFull port (joinSlot g th.pc t.clk p.slots[k]), ?_, ?_, fun hnone => ?_⟩
    · simp only [Port.join, modAt_getElem?, if_pos, taken, List.getElem?_eq_getElem hlt, Option.map_some]
    · rw [hentries, List.getElem?_eq_getElem hlt]
      cases p.slots[k] <;> rfl
    · rw [List.getElem?_eq_getElem hlt, Option.some_inj] at hnone
      rw [hpc, hunit, hwg, hfiled, hnone]
      exact ⟨rfl, rfl, rfl, hclk⟩
  · rw [hjoins, hk]
    exact ⟨rfl, rfl⟩
end

/-! ### A bin that forms (R95, R387) -/

section
variable {s : State} {core port k : Nat} {p : Port} {x : Slot} (hp : (s.core core).ports[port]? = some p)
  (hx : p.slots[k]? = some (some x)) (hformed : x.formed = false) (hdet : s.isDet x.unit = false)
include hp hx hformed hdet

theorem binAged_does {y : Slot} (hy : (if x.filed + 16 ≤ s.clk then { x with formed := true, aged := true } else s.formFull port x) = y) :
    Does (.binAged core port k) s fun t => t.home = s.home ∧ t.units = s.units ∧ t.ops = s.ops ∧
      ∃ q, (t.core core).ports[port]? = some q ∧ q.queue = p.queue ∧ q.slots[k]? = some (some y) ∧
        ∀ j, j ≠ k → q.slots[j]? = p.slots[j]? := by
  have hexec : exec (.binAged core port k) s = .next (s.modCore core fun c => { c with ports := modAt c.ports port fun p => { p with
      slots := modAt p.slots k fun _ => some y } }) := by
    change execBinAged core port k s = _
    simp only [execBinAged, hp, hx, Option.bind_some, Option.join_some, hformed, hdet, Bool.or_self, Bool.false_eq_true, if_false, hy]
  refine ⟨_, hexec, modCore_home .., modCore_units .., modCore_ops .., _, port_modPort hp _, rfl, ?_, fun j hne => ?_⟩
  · simp only [modAt_getElem?, if_pos, hx, Option.map_some]
  · simp only [modAt_getElem?, if_neg hne]
end

/-! ### A collective that waits (R99, R100, R142) -/

section
variable {s : State} {w : WarpId} {x : Warp} {a : Arrival} {b : Bundle} (hx : s.warp? w = some x) (ha : x.arrival = some a)
  (hlive : x.live ≠ []) (hall : ∀ l ∈ x.live, l ∈ a.lanes) (hb : s.bundleOf w.unit w.wg [(w.warp, x.live)] = some b)
  (hmay : s.mayRetire w = true) (hstand : (b.lanes.all fun (_, _, _, t) => !t.halted) = true) (hfree : b.free a.instr = true)
  (hpend : b.pending (a.instr.waitRegs b.u.cfg) = false)
include hx ha hlive hall hb hmay hstand hfree hpend

/-- R99, R100: a collective whose live threads have all arrived does what its body says. -/
theorem collective_eq (ends : Bool) (body : Bundle → State → Res) : s.collective w ends body = match body b s with
    | .wait => s
    | .hold t => t
    | .bad code hits => s.takeFault w.unit w.wg code true a.pc hits
    | .done t => ((t.retire b ends sameThread).modWarp w fun y => { y with arrival := none }).file w.unit w.wg b.g.core
        (x.live.map fun l => (w.warp, l)) (s.clk + 1) (s.clk + 1) false := by
  have harrived : (x.live.any fun l => !a.lanes.contains l) = false :=
    List.any_eq_false.2 fun l hl => by simp [hall l hl]
  have hgoes : (b.lanes.any fun (_, _, _, t) => t.halted) = false :=
    List.any_eq_false.2 fun y hy => by simpa using List.all_eq_true.1 hstand y hy
  simp only [State.collective, hx, ha, hlive, harrived, hb, hmay, hgoes, early_none hfree, hpend, decide_false, Bool.or_self,
    Bool.not_true, Bool.false_eq_true, if_false] <;>
    (cases body b s <;> rfl)
theorem exec_collectiveExecute {body : Bundle → State → Res} (hbody : collBody a.instr = some body) :
    exec (.collectiveExecute w) s = .next (match body b s with
      | .wait => s
      | .hold t => t
      | .bad code hits => s.takeFault w.unit w.wg code true a.pc hits
      | .done t => ((t.retire b false sameThread).modWarp w fun y => { y with arrival := none }).file w.unit w.wg b.g.core
          (x.live.map fun l => (w.warp, l)) (s.clk + 1) (s.clk + 1) false) := by
  rw [← collective_eq hx ha hlive hall hb hmay hstand hfree hpend false body]
  change execCollectiveExecute w s = _
  simp only [execCollectiveExecute, hx, Option.bind_some, ha, hbody]
omit ha hlive hall hmay hstand hfree hpend in
theorem parts_of_live : b.parts = [(w.warp, x, x.live)] ∧ b.wid w.warp = w := by
  obtain ⟨hu, hg, -⟩ := bundleOf_u hb
  refine ⟨?_, by rw [Bundle.wid, hu, hg]⟩
  rw [bundleOf_parts hb]
  simp [hx]
/-- R142: VOTE.ANY leaves under way, in every live lane, whether the predicate holds in any. -/
theorem voteAny_does {pd pa : PNum} {h : BitVec 2} (hi : a.instr = .voteAny pd pa h) :
    Does (.collectiveExecute w) s fun t => t.home = s.home ∧ t.ops = s.ops ∧ t.warp? w =
      some { retireWarp b.pc false (fun _ t => t) x.live (pendWarp b.pc none .known (x.live.filterMap fun l =>
        (x.threads[l]?).map fun _ => (l, LaneOut.ok [.p pd.toNat
          (x.live.any fun k => ((x.threads[k]?).map fun t => (t.pr pa.toNat).val).getD false)
          ((x.live.filterMap fun k => (x.threads[k]?).map fun t => (t.pr pa.toNat).mask).foldl (· ||| ·) 0)])) x) with
        arrival := none } := by
  obtain ⟨hparts, hwid⟩ := parts_of_live hx hb
  have hbody : collBody a.instr = some (bodyVoteAny pd pa) := by rw [hi]; rfl
  refine ⟨_, exec_collectiveExecute hx ha hlive hall hb hmay hstand hfree hpend hbody, ?_⟩
  simp only [bodyVoteAny, crossBody, hparts, List.foldl_cons, List.foldl_nil, State.pendColl, hwid, State.retire, home_file, ops_file,
    warp?_file, modWarp_home, modWarp_ops, home_countTurn, ops_countTurn, warp?_countTurn, warp?_modWarp_self, hx, Option.map_some,
    true_and, voteReads_any, voteMask_eq, maskOf_p, List.map_filterMap, Option.map_map]
  rfl
end

/-! ### The deferral and order limits (R158, R391) -/

section
variable {s : State} {w : WarpId} {lanes : List Nat} {b : Bundle} {i : Instr} {x : Warp}
  (hb : s.bundleOf w.unit w.wg [(w.warp, lanes)] = some b) (hidle : b.idle = true) (hi : b.instr = some i)
  (hill : i.illegalIn b.u.cfg = false) (hhint : i.badHint b.u.cfg b.hints = none) (hreg : i.regOver b.u.cfg = none)
  (htiles : ∀ m ∈ i.tiles, m < b.u.cfg.tiles) (hx : s.warp? w = some x)

theorem parts_of_lanes (hb : s.bundleOf w.unit w.wg [(w.warp, lanes)] = some b) (hx : s.warp? w = some x) :
    b.parts = [(w.warp, x, lanes)] := by
  rw [bundleOf_parts hb]
  simp [hx]
theorem unit?_bundleOf {unit wg : Nat} {ls : List (Nat × List Nat)} (hb : s.bundleOf unit wg ls = some b) : s.unit? unit = some b.u := by
  unfold State.bundleOf at hb
  cases hu : s.unit? unit with
  | none => simp [hu] at hb
  | some u =>
    simp only [hu] at hb
    split at hb
    · cases hb
    · split at hb
      · obtain ⟨t, -, rfl⟩ := Option.map_eq_some_iff.1 hb
        rfl
      · cases hb
theorem limitFault_takes {code : Nat} {hits : List Hit} (hb : s.bundleOf w.unit w.wg [(w.warp, lanes)] = some b) (hidle : b.idle = true)
    (hi : b.instr = some i) (he : b.early i = some (code, hits)) :
    s.limitFault w lanes code = s.takeFault w.unit w.wg code true b.pc hits := by
  simp [State.limitFault, hb, hidle, hi, he]

include hill hhint hreg htiles
theorem early_limit : b.early i = if b.deferHits != [] then some (0x06, b.deferHits)
    else if b.stallHits != [] then some (0x15, b.stallHits) else none := by
  have hfind : i.tiles.find? (fun m => decide (m ≥ b.u.cfg.tiles)) = none :=
    List.find?_eq_none.2 fun m hm => by simpa using htiles m hm
  simp only [Bundle.early, hill, hhint, hreg, hfind, Bool.false_eq_true, if_false]
include hb hidle hi hx
theorem idemDefer_takes {lane : Nat} (hl : lanes = [lane]) {t : Thread} {d : Deferral} (ht : x.threads[lane]? = some t)
    (hd : t.defer = some d) (hcount : d.count ≥ 4096) :
    exec (.idemDefer w lane) s = .next (s.takeFault w.unit w.wg 0x06 true b.pc [⟨w.warp, [lane], d.pc.toNat, 0, []⟩]) := by
  subst hl
  have hhits : b.deferHits = [⟨w.warp, [lane], d.pc.toNat, 0, []⟩] := by
    simp [Bundle.deferHits, parts_of_lanes hb hx, ht, deferOver, hd, hcount]
  have he : b.early i = some (0x06, [⟨w.warp, [lane], d.pc.toNat, 0, []⟩]) := by
    rw [early_limit hill hhint hreg htiles, hhits]
    rfl
  exact congrArg Host.Outcome.next (limitFault_takes hb hidle hi he)
theorem orderStall_takes {u : Placed} (hu : s.unit? w.unit = some u) (howner : u.owner = w) (hdet : u.cfg.det ≠ 0)
    (hl : lanes = s.turnLanes w) (hdefer : b.deferHits = []) (hstall : x.stall + 1 ≥ 2 ^ 24) :
    exec (.orderStall w) s = .next (s.takeFault w.unit w.wg 0x15 true b.pc [⟨w.warp, lanes, x.retired.toNat, 0, []⟩]) := by
  have hunit : b.u = u := Option.some.inj ((unit?_bundleOf hb).symm.trans hu)
  have hhits : b.stallHits = [⟨w.warp, lanes, x.retired.toNat, 0, []⟩] := by
    simp only [Bundle.stallHits, hunit, if_neg hdet, parts_of_lanes hb hx, List.filterMap_cons, List.filterMap_nil, if_pos hstall]
  have he : b.early i = some (0x15, [⟨w.warp, lanes, x.retired.toNat, 0, []⟩]) := by
    rw [early_limit hill hhint hreg htiles, hdefer, hhits]
    rfl
  change execOrderStall w s = _
  simp only [execOrderStall, hu, howner, beq_self_eq_true, if_true, ← hl]
  rw [limitFault_takes hb hidle hi he]
end

/-! ### A delayed write (R104, R105, R375, R377, R461) -/

/-- What a delayed write leaves of its warp. -/
def Warp.wrote (x : Warp) (k : Nat) (p : PendWrite) (v : Option Word) : Warp :=
  let left := x.pend.eraseIdx k
  let regs := (p.writes.flatMap fun (_, rs) => rs.map RegWrite.reg).filter fun r =>
    !left.any fun q => q.writes.any fun (_, rs) => rs.any fun k => k.reg == r
  { (x.applyWrites (p.writes.map fun (l, rs) => (l, rs.map (setValue v)))).clearSb regs with pend := left }
/-- A register stays on the scoreboard unless this was its last pending write (R104). -/
theorem mem_sb_wrote {x : Warp} {k : Nat} {p : PendWrite} {v : Option Word} {e : SbEntry} : e ∈ (x.wrote k p v).sb ↔
    e ∈ x.sb ∧ ((∀ z ∈ p.writes, ∀ r ∈ z.2, r.reg ≠ e.reg) ∨ ∃ q ∈ x.pend.eraseIdx k, ∃ z ∈ q.writes, ∃ r ∈ z.2, r.reg = e.reg) := by
  have hleft : ((x.pend.eraseIdx k).any fun q => q.writes.any fun (_, rs) => rs.any fun k => k.reg == e.reg) = true ↔
      ∃ q ∈ x.pend.eraseIdx k, ∃ z ∈ q.writes, ∃ r ∈ z.2, r.reg = e.reg := by
    simp only [List.any_eq_true, beq_iff_eq]
  change e ∈ List.filter _ x.sb ↔ _
  rw [List.mem_filter, Bool.not_eq_true', List.contains_eq_mem, decide_eq_false_iff_not, List.mem_filter, List.mem_flatMap,
    Bool.not_eq_true', ← Bool.not_eq_true, hleft, not_and_or, not_not]
  simp only [List.mem_map, not_exists, not_and]
theorem exec_laneWriteCompletion {s : State} {w : WarpId} {k : Nat} {u : Placed} {x : Warp} {p : PendWrite}
    (hu : s.unit? w.unit = some u) (hx : s.warp? w = some x) (hp : x.pend[k]? = some p) (hdue : ∀ d, p.due = some d → d ≤ s.clk)
    (hlanes : u.lanesBefore p = false) :
    exec (.laneWriteCompletion w k) s = .next (s.modWarp w fun x => x.wrote k p (s.pendValue u p.src)) := by
  have hnow : ((p.due.map fun d => decide (s.clk < d)).getD false) = false := by
    cases hd : p.due with
    | none => rfl
    | some d => simpa using hdue d hd
  change execLaneWriteCompletion w k s = _
  simp only [execLaneWriteCompletion, hu, hx, Option.bind_some, hp, hnow, hlanes, Bool.or_self, Bool.false_eq_true, if_false]
  rfl

/-! ### A word of code that arrives (R24, R349) -/

theorem unit?_modUnit_same {s : State} {id : Nat} {u : Placed} {f : Placed → Placed} (hu : s.unit? id = some u)
    (hf : ∀ u, (f u).id = u.id) : (s.modUnit id f).unit? id = some (f u) := by
  rw [unit?_modUnit s id id f hf, hu, Option.map_some, if_pos (by simp [unit?_id hu])]
theorem fetchComplete_does {s : State} {unit addr a : Nat} {u : Placed} {xs : List Nat} {sp : Space} {bs : List Byte}
    (hu : s.unit? unit = some u) (hxs : u.fetched = some xs) (hlow : u.cfg.entry.toNat ≤ addr)
    (hhigh : addr < u.cfg.entry.toNat + u.cfg.codesize) (halign : (addr - u.cfg.entry.toNat) % 4 = 0)
    (hmap : s.mapAddr u.ctx addr 4 = some (sp, a)) (hread : s.readSpan u.ctx sp a 4 = .ok bs) :
    Does (.fetchComplete unit addr) s fun t => t.home = { s.home with tlb := t.home.tlb } ∧ t.ops = s.ops ∧ t.unit? unit = some { u with
      code := memWrite u.code (addr - u.cfg.entry.toNat) bs, fetched := some ((addr - u.cfg.entry.toNat) :: xs) } := by
  have hin : u.cfg.inCode addr = true := (inCode_iff u.cfg addr).2 ⟨hlow, hhigh⟩
  have hexec : exec (.fetchComplete unit addr) s = .next ((s.cacheSpan u.ctx sp a 4).modUnit unit fun u' => { u' with
      code := memWrite u'.code (addr - u.cfg.entry.toNat) bs, fetched := some ((addr - u.cfg.entry.toNat) :: xs) }) := by
    change execFetchComplete unit addr s = _
    simp only [execFetchComplete, hu, hxs, hin, halign, hmap, hread, bne_self_eq_false, Bool.not_true, Bool.or_self, Bool.false_eq_true,
      if_false]
  obtain ⟨c, hc⟩ := cacheSpan_caches s u.ctx sp a 4
  rw [hc] at hexec
  exact ⟨_, hexec, rfl, rfl, unit?_modUnit_same (s := { s with home := { s.home with tlb := c } }) hu fun _ => rfl⟩

/-! ### The end of a turn (R385, R386, R390, R468) -/

theorem exec_detTurn {s : State} {u : Placed} {w : Warp} (hu : s.unit? u.id = some u) (hw : s.warp? u.owner = some w)
    (hdet : u.cfg.det ≠ 0) (hrun : u.state = .running) (hstand : u.anyStopped = false) (harm : u.arming = false)
    (hover : s.turnOver u w = true) (hdrained : s.drained u.owner w = true) :
    exec (.detTurn u.id) s = .next (if (u.stopAt || u.stepTurn) && !u.hinted then
      ((s.modUnit u.id Placed.nextTurn).modUnit u.id haltUnit).takeDumps u u.dumps else s.modUnit u.id Placed.nextTurn) := by
  change execDetTurn u.id s = _
  simp [execDetTurn, hu, harm, hw, hdet, hrun, hstand, hover, hdrained]
theorem drained_of {s : State} {id : WarpId} {w : Warp} (hld : w.ld = 0) (hst : w.st = 0) (hxf : w.xf = 0) (htl : w.tl = 0)
    (hun : s.unacked id true = []) (hg : w.gwct ≤ s.now (s.coreOf id))
    (hops : ∀ o ∈ s.ops, o.w = id → match o.kind with | .expect .. => False | _ => True) : s.drained id w = true := by
  have hexpect : (s.ops.any fun o => o.w == id && (match o.kind with | .expect .. => true | _ => false)) = false := by
    refine List.any_eq_false.2 fun o ho => ?_
    by_cases hid : o.w = id
    · have hkind := hops o ho hid
      cases hk : o.kind <;> simp_all
    · simp [hid]
  refine Bool.and_eq_true_iff.2 ⟨?_, congrArg (!·) hexpect⟩
  simp [hld, hst, hxf, htl, hun, hg]
theorem nextTurn_of_no_resume {u : Placed} (h : ∀ g ∈ u.wgs, ∀ x ∈ g.warps, x.resumeAt = none) :
    u.nextTurn = { u with turn := u.turn + 1, turnCount := 0 } := by
  unfold Placed.nextTurn
  dsimp only
  split
  · rename_i w hw
    obtain ⟨g, hg, hgw⟩ := Option.bind_eq_some_iff.1 hw
    rw [h g (List.mem_of_getElem? hg) w (List.mem_of_getElem? hgw)]
  · rfl

/-! ### A tick of the lease clock (R25, R26, R414) -/

/-- How far an engine's copy lags after a tick. -/
def State.slip (s : State) (m : NatMap) (e : Nat × Nat) : NatMap := natSet m e.1 (min (min e.2 4) (natGet s.lags e.1 + 1))
/-- R26: no copy lags by more than 4, nor by more than one tick more than before. -/
theorem slip_bounds (s : State) (es : List (Nat × Nat)) {m : NatMap} (hs : m.Pairwise fun x y => x.1 < y.1)
    (hm : ∀ k, natGet m k ≤ 4 ∧ natGet m k ≤ natGet s.lags k + 1) (k : Nat) :
    natGet (es.foldl s.slip m) k ≤ 4 ∧ natGet (es.foldl s.slip m) k ≤ natGet s.lags k + 1 := by
  induction es generalizing m with
  | nil => exact hm k
  | cons e es ih =>
    refine ih (natSet_sorted _ _ hs) fun j => ?_
    rw [State.slip, natGet_natSet hs]
    split
    · rename_i hj
      subst hj
      omega
    · exact hm j
/-- The state after a tick, before the held host accesses whose time has passed return. -/
def State.ticked (s : State) (lag : ClockLag) : State := { s with
  tick := s.tick + 1
  phase := s.phase - 9
  lags := lag.engines.foldl s.slip []
  cores := (s.cores.zipIdx).map fun (c, i) => { c with clock := max c.clock (s.tick + 1 - min ((lag.cores[i]?).getD 0) 4) } }
/-- Whether the time of a held host access has passed (R414). -/
def State.dueRead (s : State) (r : Nat × List Byte × Nat) : Bool := s.hdmPassed r.1 (max 1 r.2.1.length) r.2.2
theorem leaseClockTick_does (s : State) (lag : ClockLag) : Does (.leaseClockTick lag) s fun t =>
    t.tick = s.tick + 1 ∧ t.units = s.units ∧ t.ops = s.ops ∧ s.sameMemory t ∧
    (∀ (k : Nat) (c : Core), s.cores[k]? = some c → ∃ d, t.cores[k]? = some { c with clock := d } ∧
      c.clock ≤ d ∧ s.tick + 1 ≤ d + 4 ∧ (c.clock ≤ s.tick + 1 → d ≤ s.tick + 1)) ∧
    (∀ e, s.clockOf e ≤ t.clockOf e ∧ t.clockOf e ≤ t.tick ∧ t.tick ≤ t.clockOf e + 4) ∧
    ∀ x ∈ s.home.hdmReads, if t.hdmPassed x.1 (max 1 x.2.1.length) x.2.2 = true then (x.1, x.2.1, false) ∈ t.home.hdmDone
      else x ∈ t.home.hdmReads := by
  refine ⟨{ s.ticked lag with home := { s.home with
    hdmReads := s.home.hdmReads.filter (!(s.ticked lag).dueRead ·)
    hdmDone := s.home.hdmDone ++ (s.home.hdmReads.filter (s.ticked lag).dueRead).map fun x => (x.1, x.2.1, false) } }, rfl, rfl, rfl, rfl,
    fun a => ⟨rfl, rfl, fun _ => rfl⟩, fun k c hc => ?_, fun e => ?_, fun x hx => ?_⟩
  · refine ⟨max c.clock (s.tick + 1 - min ((lag.cores[k]?).getD 0) 4), ?_, by omega, by omega, by omega⟩
    simp [State.ticked, hc]
  · obtain ⟨h4, h1⟩ := slip_bounds s lag.engines (m := []) List.Pairwise.nil (fun _ => ⟨Nat.zero_le _, Nat.zero_le _⟩) e.key
    change s.tick - natGet s.lags e.key ≤ s.tick + 1 - natGet (lag.engines.foldl s.slip []) e.key ∧ _ ∧
      s.tick + 1 ≤ s.tick + 1 - natGet (lag.engines.foldl s.slip []) e.key + 4
    refine ⟨by omega, Nat.sub_le _ _, by omega⟩
  · change if (s.ticked lag).hdmPassed x.1 (max 1 x.2.1.length) x.2.2 = true then _ else _
    split
    · rename_i hdue
      exact List.mem_append_right _ (List.mem_map.2 ⟨x, List.mem_filter.2 ⟨hx, hdue⟩, rfl⟩)
    · rename_i hdue
      exact List.mem_filter.2 ⟨hx, by simpa [State.dueRead] using hdue⟩

/-- Settles O50: each event by the rule of its case. -/
theorem laneEvents : Obligations.LaneEvents := by
  unfold Obligations.LaneEvents
  refine ⟨fun s core port p f th hp hf ht => threadFiling_does hp hf ht, fun s core port k p x hp hx hformed hdet => ?_,
    fun s w x a b body hx ha hbody hlive hall hb hmay hstand hfree hpend => ?_,
    fun s w x a b pd pa h hx ha hi hlive hall hb hmay hstand hfree hpend =>
      voteAny_does hx ha hlive hall hb hmay hstand hfree hpend hi,
    fun s w lane b i x t d hb hidle hi hill hhint hreg htiles hx ht hd hcount =>
      idemDefer_takes hb hidle hi hill hhint hreg htiles hx rfl ht hd hcount,
    fun s w u x b i hu hx howner hdet hb hidle hi hill hhint hreg htiles hdefer hstall =>
      orderStall_takes hb hidle hi hill hhint hreg htiles hx hu howner hdet rfl hdefer hstall,
    fun s w k u x p hu hx hp hdue hlanes => ?_,
    fun s unit addr u xs sp a bs hu hxs hlow hhigh halign hmap hread => fetchComplete_does hu hxs hlow hhigh halign hmap hread,
    fun s u w hu hw hdet hrun hstand harm hover hld hst hxf htl hun hg hops => ?_, fun s u w hends => ?_,
    fun u h => nextTurn_of_no_resume h, leaseClockTick_does⟩
  · intro becomes
    refine ⟨fun hold => binAged_does hp hx hformed hdet (if_pos hold), fun hyoung hfull hbin => binAged_does hp hx hformed hdet ?_⟩
    rw [if_neg (by omega), State.formFull, hformed, hfull, hbin]
    rfl
  · have hexec := exec_collectiveExecute hx ha hlive hall hb hmay hstand hfree hpend hbody
    refine ⟨fun t hres => ?_, fun t hres => ?_, fun hres => ?_, fun code hits hres => ?_⟩ <;>
      · rw [hres] at hexec
        exact hexec
  · intro value made
    have hvalue : value = s.pendValue u p.src := by
      dsimp only [value]
      cases p.src <;> rfl
    have hmade : made = setValue (s.pendValue u p.src) := by
      funext r
      dsimp only [made]
      rw [hvalue]
      cases s.pendValue u p.src <;> cases r <;> rfl
    refine ⟨_, exec_laneWriteCompletion hu hx hp hdue hlanes, rfl, rfl, x.wrote k p (s.pendValue u p.src), ?_, ?_, rfl,
      fun e => mem_sb_wrote, rfl, rfl, rfl, rfl⟩
    · rw [warp?_modWarp_self, hx, Option.map_some]
    · rw [hmade]
      rfl
  · have hexec := exec_detTurn hu hw hdet hrun hstand harm hover (drained_of hld hst hxf htl hun hg hops)
    refine ⟨fun hgo => ?_, fun hstop hhint => ?_⟩
    · rw [hexec, if_neg]
      rcases hgo with ⟨h1, h2⟩ | h
      · simp [h1, h2]
      · simp [h]
    · rw [hexec, if_pos]
      rcases hstop with h | h <;> simp [h, hhint]
  · have hthere : (decide (w.live = []) || w.resumeAt.isSome || decide (u.turnCount ≥ u.cfg.quantum)) = true := by
      rcases hends with h | h | h <;> simp [h]
    rw [State.turnOver, if_pos hthere]

end Sys2Proof.Machine
end

section
/-! Proof of the Watch engine's events (R5, R6, R317, R460 to R478). -/

namespace Sys2Proof.Machine

/-! ### The debug commands (R464 to R468) -/

theorem units_file (s : State) (u wg core : Nat) (ts : List (Nat × Nat)) (due rdy : Nat) (nf : Bool) :
    (s.file u wg core ts due rdy nf).units = s.units := by
  unfold State.file
  refine foldl_keeps State.units _ (fun s a => ?_) _ s
  dsimp only
  split
  · exact fileNow_units ..
  · exact modCore_units ..
theorem wg?_congr {s t : State} (h : t.units = s.units) (unit wg : Nat) : t.wg? unit wg = s.wg? unit wg := by
  simp only [State.wg?, State.unit?, h]
theorem bitOf_false {v i : Nat} (h : v / 2 ^ i % 2 = 0) : bitOf v i = false := by
  rw [bitOf, h]
  rfl
theorem namedUnit_ctx {s : State} {ctx : Nat} {u : Placed} (h : s.namedUnit ctx = some u) : u.ctx = ctx := by
  have hfound := List.find?_some h
  simp only [Bool.and_eq_true, beq_iff_eq] at hfound
  exact hfound.1.1
/-- The word of DBGSEL, which names a workgroup, a warp and a lane (R464). -/
def State.dbgSel (s : State) (ctx : Nat) : Nat := s.watchWord ctx 0x13

section
variable {s : State} {c : BitVec 8} {u : Placed} {g : Workgroup} (hn : s.namedUnit c.toNat = some u)
  (hv : s.dbgSel c.toNat / 2 ^ 31 % 2 = 0) (hu : s.unit? u.id = some u) (hg : u.wgs[s.dbgSel c.toNat % 4]? = some g)
include hu hg
theorem wg?_named : s.wg? u.id (s.dbgSel c.toNat % 4) = some g := by
  rw [State.wg?, hu, Option.bind_some, hg]
include hn hv
omit hu in
theorem named_one : s.named c.toNat = [(u.id, s.dbgSel c.toNat % 4)] := by
  have hlt : s.watchWord c.toNat 0x13 % 4 < u.wgs.length := (List.getElem?_eq_some_iff.1 hg).1
  have hbit : bitOf (s.watchWord c.toNat 0x13) 31 = false := bitOf_false hv
  simp only [State.named, hbit, hn, hlt, Bool.false_eq_true, if_false, if_true]
  rfl

/-- STOP stops the named workgroup's threads, or its unit at the end of the turn (R464, R466, R468). -/
theorem exec_stop : exec (.stop c) s = .next (s.stopWg u.id (s.dbgSel c.toNat % 4)) := by
  change execStop c s = _
  rw [execStop, named_one hn hv hg]
  rfl
theorem stop_does (hdet : u.cfg.det = 0) : Does (.stop c) s fun t => t.home = s.home ∧ t.ops = s.ops ∧ t.watch = s.watch ∧
    (t.unit? u.id).map (·.dumps) = some (u.dumps ++ [(2, s.dbgSel c.toNat % 4, 0, 0, 0)]) ∧
    t.wg? u.id (s.dbgSel c.toNat % 4) = some (stopThreads g) := by
  have hstop : s.stopWg u.id (s.dbgSel c.toNat % 4) = (s.modWg u.id (s.dbgSel c.toNat % 4) stopThreads).modUnit u.id fun u =>
      { u with dumps := u.dumps ++ [(2, s.dbgSel c.toNat % 4, 0, 0, 0)] } := by
    simp [State.stopWg, hu, wg?_named hu hg, hdet]
  have hunit : ((s.modWg u.id (s.dbgSel c.toNat % 4) stopThreads).modUnit u.id fun u =>
      { u with dumps := u.dumps ++ [(2, s.dbgSel c.toNat % 4, 0, 0, 0)] }).unit? u.id = _ :=
    unit?_modUnit_same (unit?_modUnit_same hu fun _ => rfl) fun _ => rfl
  refine ⟨_, exec_stop hn hv hu hg, ?_⟩
  rw [hstop]
  refine ⟨rfl, rfl, rfl, congrArg (Option.map _) hunit, ?_⟩
  rw [State.wg?, hunit, Option.bind_some]
  change (modAt u.wgs _ stopThreads)[_]? = _
  rw [modAt_getElem?, if_pos rfl, hg, Option.map_some]
theorem stop_turn (hdet : u.cfg.det ≠ 0) (hstand : g.anyStopped = false) : Does (.stop c) s fun t => t.home = s.home ∧ t.ops = s.ops ∧
    t.watch = s.watch ∧ t.unit? u.id = some { u with stopAt := true, dumps := u.dumps ++ [(2, s.dbgSel c.toNat % 4, 0, 0, 0)] } := by
  have hstop : s.stopWg u.id (s.dbgSel c.toNat % 4) = (s.modUnit u.id fun u => { u with stopAt := true }).modUnit u.id fun u =>
      { u with dumps := u.dumps ++ [(2, s.dbgSel c.toNat % 4, 0, 0, 0)] } := by
    simp [State.stopWg, hu, wg?_named hu hg, hdet, hstand]
  refine ⟨_, exec_stop hn hv hu hg, ?_⟩
  rw [hstop]
  exact ⟨rfl, rfl, rfl, unit?_modUnit_same (unit?_modUnit_same hu (by intro; rfl)) (by intro; rfl)⟩

/-- RESUME of a workgroup that stands (R466, R468). -/
theorem exec_dbgResume : exec (.dbgResume c) s = .next (s.resumeWg u.id (s.dbgSel c.toNat % 4)) := by
  change execDbgResume c s = _
  rw [execDbgResume, named_one hn hv hg]
  rfl
theorem dbgResume_does (hdet : u.cfg.det = 0) (hstand : g.stands = true) : Does (.dbgResume c) s fun t => t.home = s.home ∧
    t.ops = s.ops ∧ t.wg? u.id (s.dbgSel c.toNat % 4) = some (resumeThreads g) := by
  refine ⟨_, exec_dbgResume hn hv hu hg, ?_⟩
  have hresume : s.resumeWg u.id (s.dbgSel c.toNat % 4) = (s.modWg u.id (s.dbgSel c.toNat % 4) resumeThreads).file u.id
      (s.dbgSel c.toNat % 4) g.core (s.unfiled u.id (s.dbgSel c.toNat % 4) g) s.clk s.clk false := by
    simp [State.resumeWg, hu, wg?_named hu hg, hdet, hstand]
  rw [hresume]
  refine ⟨home_file .., ops_file .., ?_⟩
  rw [wg?_congr (units_file ..), wg?_modWg_self, wg?_named hu hg, Option.map_some]
theorem dbgResume_turn (hdet : u.cfg.det ≠ 0) (hstand : g.stands = true) : Does (.dbgResume c) s fun t => t.home = s.home ∧
    t.ops = s.ops ∧ t.watch = s.watch ∧ t.unit? u.id = some { u with wgs := u.wgs.map resumeThreads } := by
  refine ⟨_, exec_dbgResume hn hv hu hg, ?_⟩
  have hresume : s.resumeWg u.id (s.dbgSel c.toNat % 4) = s.modUnit u.id fun u => { u with wgs := u.wgs.map resumeThreads } := by
    simp [State.resumeWg, hu, wg?_named hu hg, hdet, hstand]
  rw [hresume]
  exact ⟨rfl, rfl, rfl, unit?_modUnit_same hu (by intro; rfl)⟩
theorem dbgResume_not (hstand : g.stands = false) : exec (.dbgResume c) s = .next s := by
  rw [exec_dbgResume hn hv hu hg]
  simp [State.resumeWg, hu, wg?_named hu hg, hstand]

/-- CAPTURE of a workgroup that stands (R466, R470). -/
theorem exec_capture : exec (.capture c) s = .next (if g.stands then
    s.stopDump u 2 (s.dbgSel c.toNat % 4) (s.dbgSel c.toNat / 4 % 32) 0 0 else s) := by
  change execCapture c s = _
  rw [execCapture, named_one hn hv hg, List.foldl_cons, List.foldl_nil]
  simp only [hu, wg?_named hu hg]
  rfl
omit hn hv hu hg in
theorem stopDump_watch (s : State) (u : Placed) (kind wg warp : Nat) (pc : VAddr) (code : Nat) :
    ∃ w, s.stopDump u kind wg warp pc code = { s with watch := w } := by
  unfold State.stopDump
  split
  · exact ⟨_, rfl⟩
  · exact capture_watch ..
omit hn hv hu hg in
theorem fillCaptures_length (s : State) (f : Nat) (cs : List Capture) : (s.fillCaptures f cs).length = cs.length := by
  simp [State.fillCaptures]
omit hn hv hu hg in
/-- A stop dump starts at once while nothing is before it and a slot is free. -/
theorem stopDump_starts {kind wg warp : Nat} {w : Warp} (hw : s.warp? ⟨u.id, wg, warp⟩ = some w) (hd : s.watch.dump = none)
    (hq : s.watch.dumpQ = []) (h0 : s.watch.dslots ≠ 0)
    (hfree : (s.watch.dhead - s.watch.dtail).toNat ≠ s.watch.dslots.toNat) (pc : VAddr) (code : Nat) :
    ∃ d, (s.stopDump u kind wg warp pc code).watch.dump = some d ∧ d.ctx = u.ctx ∧ d.kind = kind ∧ d.idx = u.idx ∧
      d.launchid = u.launchid ∧ d.stoppc = pc ∧ d.wgic = wg ∧ d.entries.length = 1 := by
  simp only [State.stopDump, hw]
  rw [capture_starts h0 hfree hd hq _ (by simp)]
  exact ⟨_, rfl, rfl, rfl, rfl, rfl, rfl, rfl, fillCaptures_length ..⟩

omit hn hv hu hg in
/-- A core without a lane in any slot of its ports. -/
def Core.unslot (k : Core) (unit wg warp lane : Nat) : Core := { k with ports := k.ports.map fun p => { p with
  slots := p.slots.map fun x => x.bind fun x =>
    if x.unit == unit && x.wg == wg then
      match x.entries.filter (· != (warp, lane)) with
      | [] => none
      | es => some { x with entries := es }
    else some x } }
/-- STEP of a lane of a workgroup that stands, or of a turn of a deterministic unit (R467, R468). -/
theorem step_does (hdet : u.cfg.det = 0) (hstand : g.stands = true) {th : Thread}
    (hth : s.thread? ⟨u.id, s.dbgSel c.toNat % 4, s.dbgSel c.toNat / 4 % 32⟩ (s.dbgSel c.toNat / 2 ^ 7 % 32) = some th)
    (hlive : th.exited = false) : Does (.step c) s fun t => t.home = s.home ∧ t.ops = s.ops ∧
      t.thread? ⟨u.id, s.dbgSel c.toNat % 4, s.dbgSel c.toNat / 4 % 32⟩ (s.dbgSel c.toNat / 2 ^ 7 % 32) = some { th with step := true } := by
  have hfound : ((g.warps[bitsOf (s.watchWord c.toNat 0x13) 2 5]?).bind fun w => w.threads[bitsOf (s.watchWord c.toNat 0x13) 7 5]?) = some th := by
    have hthread := hth
    simp only [State.thread?, State.warp?, wg?_named hu hg, Option.bind_some] at hthread
    exact hthread
  have hgroup : u.wgs[s.watchWord c.toNat 0x13 % 4]? = some g := hg
  have hexec : exec (.step c) s = .next ((s.modCore g.core (·.unslot u.id (s.dbgSel c.toNat % 4) (s.dbgSel c.toNat / 4 % 32)
      (s.dbgSel c.toNat / 2 ^ 7 % 32))).modThread ⟨u.id, s.dbgSel c.toNat % 4, s.dbgSel c.toNat / 4 % 32⟩ (s.dbgSel c.toNat / 2 ^ 7 % 32)
      fun t => { t with step := true }) := by
    change execStep c s = _
    simp only [execStep, hn, Option.bind_some, hgroup, hstand, hdet, hfound, hlive, bne_self_eq_false, Bool.not_true,
      Bool.false_eq_true, if_false]
    rfl
  refine ⟨_, hexec, ?_⟩
  refine ⟨modCore_home .., modCore_ops .., ?_⟩
  rw [thread?_modThread, if_pos ⟨rfl, rfl⟩, thread?_modCore, hth, Option.map_some]
theorem step_turn (hdet : u.cfg.det ≠ 0) (hstand : g.stands = true) : Does (.step c) s fun t => t.home = s.home ∧ t.ops = s.ops ∧
    t.watch = s.watch ∧ t.unit? u.id = some { u with
      wgs := u.wgs.map resumeThreads
      stepTurn := true
      dumps := [(3, s.dbgSel c.toNat % 4, s.dbgSel c.toNat / 4 % 32, 0, 0)] } := by
  have hgroup : u.wgs[s.watchWord c.toNat 0x13 % 4]? = some g := hg
  have hdet' : (u.cfg.det != 0) = true := by simp [hdet]
  have hexec : exec (.step c) s = .next (s.modUnit u.id fun u => { u with
      wgs := u.wgs.map resumeThreads
      stepTurn := true
      dumps := [(3, s.dbgSel c.toNat % 4, s.dbgSel c.toNat / 4 % 32, 0, 0)] }) := by
    change execStep c s = _
    simp only [execStep, hn, Option.bind_some, hgroup, hstand, hdet', Bool.not_true, Bool.false_eq_true, if_false, if_true]
    rfl
  exact ⟨_, hexec, rfl, rfl, rfl, unit?_modUnit_same hu (by intro; rfl)⟩
theorem step_not (hstand : g.stands = false) : exec (.step c) s = .next s := by
  have hgroup : u.wgs[s.watchWord c.toNat 0x13 % 4]? = some g := hg
  change execStep c s = _
  simp only [execStep, hn, Option.bind_some, hgroup, hstand, Bool.not_false, if_true]
end

/-! ### FE_RESUME (R462, R463) -/

theorem post_watch (s : State) (q : Nat) (r : Record) (dump : Bool) : (s.post q r dump).watch = s.watch := by
  have hirq : ∀ t, (s.modQueue q fun x => { x with seq := (s.queue q).seq + 1 }).writes t → (t.irq (32 + q)).watch = s.watch := by
    rintro t ⟨⟨m, o, rfl⟩, -⟩
    rfl
  unfold State.post
  dsimp only
  split
  · exact hirq _ (writes_writeSpan ..)
  · exact hirq _ (writes_refl _)
/-- The front end's state beside the packets, and what it reads next of a queue, are the same in both states. -/
def State.sameFe (s t : State) (q : Nat) : Prop :=
  t.watch.feHalted = s.watch.feHalted ∧ t.watch.fePass = s.watch.fePass ∧ t.watch.bps = s.watch.bps ∧
    (t.queue q).head = (s.queue q).head
theorem sameFe_refl (s : State) (q : Nat) : s.sameFe s q := ⟨rfl, rfl, rfl, rfl⟩
theorem State.sameFe.trans {s t r : State} {q : Nat} (h : s.sameFe t q) (k : t.sameFe r q) : s.sameFe r q := by
  obtain ⟨h1, h2, h3, h4⟩ := h
  obtain ⟨k1, k2, k3, k4⟩ := k
  exact ⟨k1.trans h1, k2.trans h2, k3.trans h3, k4.trans h4⟩
theorem sameFe_foldl {α : Type} {g : State → α → State} {q : Nat} (hg : ∀ (t : State) x, t.sameFe (g t x) q) (xs : List α) (s : State) :
    s.sameFe (xs.foldl g s) q := by
  induction xs generalizing s with
  | nil => exact sameFe_refl s q
  | cons x xs ih => exact (hg s x).trans (ih _)
theorem sameFe_caches {s t : State} (h : s.caches t) (q : Nat) : s.sameFe t q := by
  obtain ⟨c, rfl⟩ := h
  exact sameFe_refl s q
theorem sameFe_modQueue (s : State) (p q : Nat) {f : Queue → Queue} (hf : ∀ x, (f x).head = x.head) : s.sameFe (s.modQueue p f) q := by
  refine ⟨rfl, rfl, rfl, ?_⟩
  simp only [State.queue, State.modQueue, modAt_getElem?]
  cases s.queues[q]? <;> split <;> simp [hf]
theorem sameFe_trace (s : State) (src ctx bit : Nat) (data : BitVec 256) (q : Nat) : s.sameFe (s.trace src ctx bit data) q := by
  unfold State.trace
  split <;> exact sameFe_refl s q
theorem sameFe_post (s : State) (p : Nat) (r : Record) (dump : Bool) (q : Nat) : s.sameFe (s.post p r dump) q := by
  have hw := post_watch s p r dump
  have hq : ∀ t, (s.modQueue p fun x => { x with seq := (s.queue p).seq + 1 }).writes t → ((t.irq (32 + p)).queue q).head = (s.queue q).head := by
    rintro t ⟨⟨m, o, rfl⟩, -⟩
    exact (sameFe_modQueue s p q (f := fun x => { x with seq := (s.queue p).seq + 1 }) fun _ => rfl).2.2.2
  refine ⟨congrArg Watch.feHalted hw, congrArg Watch.fePass hw, congrArg Watch.bps hw, ?_⟩
  unfold State.post
  dsimp only
  split
  · exact hq _ (writes_writeSpan ..)
  · exact hq _ (writes_refl _)
theorem sameFe_postTask (s : State) (p : Nat) (r : Record) (q : Nat) : s.sameFe (s.postTask p r) q := by
  unfold State.postTask
  dsimp only
  split
  · exact (sameFe_post ..).trans (sameFe_trace ..)
  · exact sameFe_post ..
theorem sameFe_addWork (s : State) (w : Work) (q : Nat) : s.sameFe (s.addWork w) q := by
  unfold State.addWork State.failUnread
  split
  · exact sameFe_foldl (g := fun (t : State) i => (t.postTask w.queue (t.taskInvalid w i)).modWork w.id fun x => { x with faults := x.faults + 1 })
      (fun t i => sameFe_postTask t w.queue (t.taskInvalid w i) q) _ _
  · exact sameFe_refl s q
theorem sameFe_startPacket (s : State) (p i q : Nat) : s.sameFe (s.startPacket p i) q := by
  unfold State.startPacket
  dsimp only
  split
  · exact sameFe_refl s q
  · split
    · exact sameFe_refl s q
    · split
      · exact sameFe_refl s q
      · exact (sameFe_postTask ..).trans (sameFe_modQueue _ p q fun _ => rfl)
      · exact ((sameFe_addWork ..).trans (sameFe_caches (cacheRecs_caches ..) q)).trans (sameFe_modQueue _ p q fun _ => rfl)

theorem readPacket_congr {s t : State} (hh : t.home = s.home) (ht : t.tick = s.tick) (hc : t.ctxs = s.ctxs) (hq : t.queues = s.queues)
    (q : Nat) : t.readPacket q = s.readPacket q := by
  have hlocal (ctx a n : Nat) : t.readLocal ctx a n = s.readLocal ctx a n := by
    simp only [State.readLocal, translate_congr hh ht hc, hh]
  have hspan (ctx : Nat) (sp : Space) (a n : Nat) : t.readSpan ctx sp a n = s.readSpan ctx sp a n := by
    cases sp <;> simp only [State.readSpan, hlocal, hh]
  unfold State.readPacket State.packetAt State.queue
  rw [hq]
  simp only [hspan]

section
variable {s : State} {q v rv : Nat} (hq32 : q < 32) (hup : s.up = true) (hwait : (s.queue q).waiting = true)
  (hhalt : s.watch.feHalted = false) (hpass : s.pass = q) (hfe : s.watch.fePass = true) (hop : s.watch.feOp = none)
  (hqueue : s.watch.feQueue.toNat = q) (hv : atHead s q v) (hm : malformed v = false)
  (hr : s.recordAt q (v % 2 ^ 8) (v / 2 ^ 64 % 2 ^ 72) = .val rv)
theorem nextQueue_held (hq32 : q < 32) (hwait : (s.queue q).waiting = true) (hpass : s.pass = q) : s.nextQueue = some q := by
  have hfind : (List.range 32).find? (fun k => decide (s.pass ≤ k) && (s.queue k).waiting) = some q := by
    rw [List.find?_range_eq_some]
    refine ⟨by simp [hpass, hwait], List.mem_range.2 hq32, fun j hj => ?_⟩
    simp [hpass, Nat.not_le.2 hj]
  simp only [State.nextQueue, hfind]
include hq32 hup hwait hhalt hpass hfe hop hqueue hv hm hr
/-- R463: the packet that the front end held is accepted without being compared again. -/
theorem accept_held {next id : BitVec 64}
    (hid : State.numbered { s with watch := { s.watch with fePass := false } } (v % 2 ^ 8) v =
      ({ s with watch := { s.watch with fePass := false }, nextLaunch := next }, id)) :
    ((State.taken { s with watch := { s.watch with fePass := false } } q next
      (packetOf v id (v % 2 ^ 8 = 0 || v % 2 ^ 8 = 3) none (BitVec.ofNat 2048 rv))).startPacket q (s.queue q).packets.length).caches
      (s.accept q (v % 2 ^ 8)) := by
  obtain ⟨h4, h20, htail, hv⟩ := hv
  have hsize : (decide ((s.queue q).size.toNat < 4) || decide ((s.queue q).size.toNat > 20) ||
      decide (((s.queue q).tail - (s.queue q).head).toNat > 2 ^ (s.queue q).size.toNat)) = false := by
    simp only [Bool.or_eq_false_iff, decide_eq_false_iff_not]
    omega
  have hgo : (!s.up || !(s.queue q).waiting || s.watch.feHalted || s.nextQueue != some q) = false := by
    simp [hup, hwait, hhalt, nextQueue_held hq32 hwait hpass]
  have hpassed : (s.watch.fePass && s.watch.feOp.isNone && s.watch.feQueue.toNat == q) = true := by simp [hfe, hop, hqueue]
  unfold State.accept
  dsimp only
  rw [hgo, if_neg Bool.false_ne_true, hsize, if_neg Bool.false_ne_true]
  simp only [hv]
  rw [packetBad_eq, hm, if_neg Bool.false_ne_true, bitsOf_low, bne_self_eq_false, if_neg Bool.false_ne_true]
  rw [State.recordAt] at hr
  rw [State.numbered] at hid
  simp only [bitsOf, hr, hpassed, if_true, hid]
  exact caches_trans (cacheSpan_caches ..) (cacheRecs_caches ..)
end
theorem numbered_eq (s : State) (type v : Nat) : ∃ next id, s.numbered type v = ({ s with nextLaunch := next }, id) := by
  unfold State.numbered
  split
  · exact ⟨_, _, takeId_eq s v⟩
  · exact ⟨s.nextLaunch, _, rfl⟩

theorem feResume_does {s : State} {v : Nat} (hlen : s.queues.length = 32) (hhalt : s.watch.feHalted = true) (hop : s.watch.feOp = none)
    (hmode : s.amc.mode = 1 ∨ s.amc.mode = 3) (hwait : (s.queue s.watch.feQueue.toNat).waiting = true)
    (hv : atHead s s.watch.feQueue.toNat v) (hm : malformed v = false) {rv : Nat}
    (hr : s.recordAt s.watch.feQueue.toNat (v % 2 ^ 8) (v / 2 ^ 64 % 2 ^ 72) = .val rv) :
    Does .feResume s fun t => t.watch.feHalted = false ∧ t.watch.fePass = false ∧ t.watch.bps = s.watch.bps ∧
      (t.queue s.watch.feQueue.toNat).head = (s.queue s.watch.feQueue.toNat).head + 1 := by
  let t : State := { s with watch := { s.watch with feHalted := false, feOp := none, fePass := true }, pass := s.watch.feQueue.toNat }
  obtain ⟨h4, h20, htail, hread⟩ := hv
  have hread' : t.readPacket s.watch.feQueue.toNat = .val v := (readPacket_congr rfl rfl rfl rfl _).trans hread
  have hrec : t.recordAt s.watch.feQueue.toNat (v % 2 ^ 8) (v / 2 ^ 64 % 2 ^ 72) = .val rv := by
    refine Eq.trans ?_ hr
    simp only [State.recordAt]
    rw [readRec_congr (s := s) (t := t) rfl rfl rfl]
    rfl
  have hup : s.up = true := by
    rcases hmode with h | h <;> simp [State.up, h]
  have hq32 : s.watch.feQueue.toNat < 32 := s.watch.feQueue.isLt
  have hexec : exec .feResume s = .next (t.accept s.watch.feQueue.toNat (v % 2 ^ 8)) := by
    have htype : State.readPacket { s with watch := { s.watch with feHalted := false, fePass := true } } s.watch.feQueue.toNat = .val v :=
      (readPacket_congr (s := s) rfl rfl rfl rfl _).trans hread
    change execFeResume s = _
    unfold execFeResume
    dsimp only
    rw [hhalt, Bool.not_true, if_neg Bool.false_ne_true, hop]
    dsimp only
    refine Eq.trans (if_neg ?_) ?_
    · rw [Bool.not_eq_true, Bool.not_eq_false']
      exact hwait
    · split
      · next w hw =>
        obtain rfl : w = v := Rec.val.inj (hw.symm.trans htype)
        rw [bitsOf_low]
      · next hno => exact absurd htype (hno v)
  obtain ⟨next, id, hid⟩ := numbered_eq { t with watch := { t.watch with fePass := false } } (v % 2 ^ 8) v
  have htaken := accept_held (s := t) hq32 hup hwait rfl rfl rfl rfl rfl ⟨h4, h20, htail, hread'⟩ hm hrec hid
  obtain ⟨h1, h2, h3, h5⟩ := (sameFe_startPacket _ s.watch.feQueue.toNat (s.queue s.watch.feQueue.toNat).packets.length
    s.watch.feQueue.toNat).trans (sameFe_caches htaken s.watch.feQueue.toNat)
  refine ⟨_, hexec, h1, h2, h3, h5.trans ?_⟩
  exact congrArg Queue.head ((sets_taken _ _ _ _).queue (hlen ▸ hq32)).1

/-! ### Register writes (R5, R6, R317, R347, R460, R462) -/

section
variable {s : State} {w : BarWrite} {n k : Nat}
theorem exec_queueWord (hn : n < 32) (hk : k < 16) (ho : w.off = 0x10000 + 0x40 * n + 4 * k) :
    exec (.registerWrite w) s = s.writeQueue n k w.val.toNat := by
  have hdiv : (w.off - 0x10000) / 0x40 = n := by omega
  have hmod : w.off % 0x40 / 4 = k := by omega
  change execRegisterWrite w s = _
  unfold execRegisterWrite
  dsimp only
  rw [if_neg (by simp only [bne_iff_ne]; omega), if_pos (by simp only [Bool.and_eq_true, decide_eq_true_eq]; omega), hdiv, hmod]
theorem exec_ctxWord (hn : n < 256) (hk : k < 16) (ho : w.off = 0x20000 + 0x40 * n + 4 * k) :
    exec (.registerWrite w) s = s.writeCtx n k w.val.toNat := by
  have hdiv : (w.off - 0x20000) / 0x40 = n := by omega
  have hmod : w.off % 0x40 / 4 = k := by omega
  change execRegisterWrite w s = _
  unfold execRegisterWrite
  dsimp only
  rw [if_neg (by simp only [bne_iff_ne]; omega), if_neg (by simp only [Bool.and_eq_true, decide_eq_true_eq]; omega),
    if_pos (by simp only [Bool.and_eq_true, decide_eq_true_eq]; omega), hdiv, hmod]
theorem exec_watchWord (hn : n < 256) (hk : k < 32) (ho : w.off = 0x30000 + 0x80 * n + 4 * k) :
    exec (.registerWrite w) s = s.writeWatch n k w.val.toNat := by
  have hdiv : (w.off - 0x30000) / 0x80 = n := by omega
  have hmod : w.off % 0x80 / 4 = k := by omega
  change execRegisterWrite w s = _
  unfold execRegisterWrite
  dsimp only
  rw [if_neg (by simp only [bne_iff_ne]; omega), if_neg (by simp only [Bool.and_eq_true, decide_eq_true_eq]; omega),
    if_neg (by simp only [Bool.and_eq_true, decide_eq_true_eq]; omega),
    if_pos (by simp only [Bool.and_eq_true, decide_eq_true_eq]; omega), hdiv, hmod]
theorem exec_bpWord (hn : n < 8) (hk : k < 4) (ho : w.off = 0x40000 + 16 * n + 4 * k) :
    exec (.registerWrite w) s =
      .next { s with watch := { s.watch with bps := modAt s.watch.bps n fun b => bpWrite b k w.val.toNat } } := by
  have hdiv : (w.off - 0x40000) / 16 = n := by omega
  have hmod : w.off % 16 / 4 = k := by omega
  change execRegisterWrite w s = _
  unfold execRegisterWrite
  dsimp only
  rw [if_neg (by simp only [bne_iff_ne]; omega), if_neg (by simp only [Bool.and_eq_true, decide_eq_true_eq]; omega),
    if_neg (by simp only [Bool.and_eq_true, decide_eq_true_eq]; omega),
    if_neg (by simp only [Bool.and_eq_true, decide_eq_true_eq]; omega),
    if_pos (by simp only [Bool.and_eq_true, decide_eq_true_eq]; omega), hdiv, hmod]
theorem exec_dumpWord (hk : k < 16) (ho : w.off = 0x40100 + 4 * k) :
    exec (.registerWrite w) s = .next { s with watch := dumpWrite s.watch k w.val.toNat } := by
  have hdiv : (w.off - 0x40100) / 4 = k := by omega
  change execRegisterWrite w s = _
  unfold execRegisterWrite
  dsimp only
  rw [if_neg (by simp only [bne_iff_ne]; omega), if_neg (by simp only [Bool.and_eq_true, decide_eq_true_eq]; omega),
    if_neg (by simp only [Bool.and_eq_true, decide_eq_true_eq]; omega),
    if_neg (by simp only [Bool.and_eq_true, decide_eq_true_eq]; omega),
    if_neg (by simp only [Bool.and_eq_true, decide_eq_true_eq]; omega), if_neg (by omega),
    if_pos (by simp only [Bool.and_eq_true, decide_eq_true_eq]; omega), hdiv]
/-- R5, R6: a write outside the register blocks has no effect. -/
theorem exec_noWord (ho : w.off % 4 ≠ 0 ∨ w.off < 0x10000 ∨ w.off ≥ 0x40140) : exec (.registerWrite w) s = .next s := by
  change execRegisterWrite w s = _
  unfold execRegisterWrite
  dsimp only
  by_cases h4 : w.off % 4 = 0
  · rw [if_neg (by simp only [bne_iff_ne]; omega), if_neg (by simp only [Bool.and_eq_true, decide_eq_true_eq]; omega),
      if_neg (by simp only [Bool.and_eq_true, decide_eq_true_eq]; omega),
      if_neg (by simp only [Bool.and_eq_true, decide_eq_true_eq]; omega),
      if_neg (by simp only [Bool.and_eq_true, decide_eq_true_eq]; omega), if_neg (by omega),
      if_neg (by simp only [Bool.and_eq_true, decide_eq_true_eq]; omega)]
  · rw [if_pos (by simpa only [bne_iff_ne] using h4)]
end

/-- R317: a word of a queue's block, but for a write of RESET. -/
theorem queueWord_does {s : State} {w : BarWrite} {q k : Nat} (hlen : s.queues.length = 32) (hq : q < 32) (hk : k < 16)
    (ho : w.off = 0x10000 + 0x40 * q + 4 * k) (hreset : (k == 3 && bitOf w.val.toNat 20) = false) :
    Does (.registerWrite w) s fun t => (t.home = s.home ∧ t.units = s.units ∧ t.ops = s.ops ∧ t.works = s.works) ∧
      t.queue q = queueWrite (s.queue q) k w.val.toNat ∧ ∀ j, j ≠ q → t.queue j = s.queue j := by
  refine ⟨s.modQueue q fun x => queueWrite x k w.val.toNat, ?_, ⟨rfl, rfl, rfl, rfl⟩,
    (sets_modQueue s q fun x => queueWrite x k w.val.toNat).queue (hlen ▸ hq)⟩
  rw [exec_queueWord hq hk ho, State.writeQueue, hreset]
  rfl

theorem ctx_modCtx {s : State} {c : Nat} (hc : c < s.ctxs.length) (f : Ctx → Ctx) : (s.modCtx c f).ctx c = f (s.ctx c) := by
  simp only [State.ctx, State.modCtx, modAt_getElem?, if_true, List.getElem?_eq_getElem hc, Option.map_some, Option.getD_some]
/-- R360: the save area of a context: its slots and the low part of its base. -/
theorem saveWord_does {s : State} {w : BarWrite} {c : Nat} (hlen : s.ctxs.length = 256) (hc : c < 256)
    (ho : w.off = 0x20000 + 0x40 * c + 56) :
    Does (.registerWrite w) s fun t => (t.home = s.home ∧ t.units = s.units ∧ t.ops = s.ops ∧ t.works = s.works) ∧
      (t.ctx c).slots.toNat = w.val.toNat % 2 ^ 12 ∧
      (t.ctx c).save.toNat = (s.ctx c).save.toNat / 2 ^ 20 * 2 ^ 20 + w.val.toNat / 2 ^ 12 := by
  refine ⟨s.modCtx c fun x => ctxWrite x 14 w.val.toNat, exec_ctxWord (k := 14) hc (by omega) (by omega), ⟨rfl, rfl, rfl, rfl⟩, ?_⟩
  rw [ctx_modCtx (hlen ▸ hc)]
  refine ⟨BitVec.toNat_ofNat .., ?_⟩
  have hval : w.val.toNat < 2 ^ 32 := w.val.isLt
  have hsave : (s.ctx c).save.toNat < 2 ^ 52 := (s.ctx c).save.isLt
  change (putBits (s.ctx c).save 0 20 w.val.toNat 12).toNat = _
  simp only [putBits, bitsOf, BitVec.toNat_ofNat]
  omega
/-- R359: RESUME ends the hold of a context. -/
theorem resumeWord_does {s : State} {w : BarWrite} {c : Nat} (hlen : s.ctxs.length = 256) (hc : c < 256)
    (ho : w.off = 0x20000 + 0x40 * c) (hv : w.val.toNat % 32 = 0b00010) :
    Does (.registerWrite w) s fun t => (t.home = s.home ∧ t.units = s.units ∧ t.ops = s.ops ∧ t.works = s.works) ∧
      (t.ctx c).held = false := by
  have hbit (i : Nat) (b : Bool) (h : (w.val.toNat / 2 ^ i % 2 == 1) = b) : (0 == 0 && bitOf w.val.toNat i) = b := by
    rw [bitOf, h]
    rfl
  have h0 := hbit 0 false (by simp only [beq_eq_false_iff_ne]; omega)
  have h1 := hbit 1 true (by simp only [beq_iff_eq]; omega)
  have h2 := hbit 2 false (by simp only [beq_eq_false_iff_ne]; omega)
  have h4 := hbit 4 false (by simp only [beq_eq_false_iff_ne]; omega)
  have hname : (BitVec.ofNat 8 c).toNat = c := by
    rw [BitVec.toNat_ofNat]
    omega
  refine ⟨(s.modCtx c fun x => ctxWrite x 0 w.val.toNat).modCtx c fun x => { x with held := false }, ?_, ⟨rfl, rfl, rfl, rfl⟩, ?_⟩
  · rw [exec_ctxWord (k := 0) hc (by omega) (by omega), State.writeCtx]
    dsimp only
    rw [h0, h1, h2, h4]
    simp only [andThen, Bool.false_eq_true, if_false, if_true, execResume, hname]
  · rw [ctx_modCtx (by rw [show (s.modCtx c _).ctxs.length = _ from modAt_length .., hlen]; exact hc)]

/-- R460: the selector of a context's watch block that names a unit. -/
theorem selectWord_does {s : State} {w : BarWrite} {c : Nat} (hc : c < 256) (ho : w.off = 0x30000 + 0x80 * c + 4 * 0x12) (hm : s.memWf) :
    Does (.registerWrite w) s fun t => (t.home = s.home ∧ t.units = s.units ∧ t.ops = s.ops ∧ t.works = s.works) ∧
      t.watchWord c 0x12 = w.val.toNat ∧ ∀ k, k ≠ 32 * c + 0x12 → natGet t.watch.words k = natGet s.watch.words k := by
  obtain ⟨-, -, -, hsorted⟩ := hm
  have hval : (w.val.toNat &&& 0xFFFFFFFF) % 2 ^ 32 = w.val.toNat := by
    have hlt : w.val.toNat < 2 ^ 32 := w.val.isLt
    rw [show (0xFFFFFFFF : Nat) = 2 ^ 32 - 1 from rfl, Nat.and_two_pow_sub_one_eq_mod, Nat.mod_mod, Nat.mod_eq_of_lt hlt]
  refine ⟨_, exec_watchWord hc (by omega) ho, ⟨rfl, rfl, rfl, rfl⟩, ?_, fun k hk => ?_⟩
  · change natGet (natSet s.watch.words (32 * c + 0x12) ((w.val.toNat &&& 0xFFFFFFFF) % 2 ^ 32)) (32 * c + 0x12) = _
    rw [natGet_natSet hsorted, if_pos rfl, hval]
  · change natGet (natSet s.watch.words (32 * c + 0x12) ((w.val.toNat &&& 0xFFFFFFFF) % 2 ^ 32)) k = _
    rw [natGet_natSet hsorted, if_neg hk]
/-- R469: with EN 0 or PERIOD 0 no sampler of the context is left. -/
theorem sampleWord_does {s : State} {w : BarWrite} {c : Nat} (hc : c < 256) (ho : w.off = 0x30000 + 0x80 * c)
    (hoff : w.val.toNat / 2 ^ 31 % 2 = 0 ∨ w.val.toNat % 2 ^ 24 = 0) :
    Does (.registerWrite w) s fun t => (t.home = s.home ∧ t.units = s.units ∧ t.ops = s.ops ∧ t.works = s.works) ∧
      ∀ k ∈ t.cores, ∀ z ∈ k.samplers, z.ctx ≠ c := by
  have hends : (decide (0 = 0) && (!bitOf w.val.toNat 31 || bitsOf w.val.toNat 0 24 == 0)) = true := by
    rw [bitsOf_low]
    rcases hoff with h | h
    · simp [bitOf_false h]
    · simp only [h, beq_self_eq_true, Bool.or_true, decide_true, Bool.and_self]
  refine ⟨_, exec_watchWord (k := 0) hc (by omega) (by omega), ⟨rfl, rfl, rfl, rfl⟩, fun k hk z hz => ?_⟩
  obtain ⟨k', -, rfl⟩ := List.mem_map.1 hk
  have hkeep := (List.mem_filter.1 hz).2
  rw [hends] at hkeep
  simpa using hkeep
/-- R462: the control word of a breakpoint. -/
theorem bpWord_does {s : State} {w : BarWrite} {n : Nat} {b : CmdBp} (hn : n < 8) (ho : w.off = 0x40008 + 16 * n)
    (hb : s.watch.bps[n]? = some b) :
    Does (.registerWrite w) s fun t => (t.home = s.home ∧ t.units = s.units ∧ t.ops = s.ops ∧ t.works = s.works) ∧
      t.watch.bps[n]? = some (bpWrite b 2 w.val.toNat) := by
  refine ⟨_, exec_bpWord (k := 2) hn (by omega) (by omega), ⟨rfl, rfl, rfl, rfl⟩, ?_⟩
  change (modAt s.watch.bps n _)[n]? = _
  rw [modAt_getElem?, if_pos rfl, hb, Option.map_some]

/-! ### What a read of a register returns (R5, R6, R317, R347) -/

theorem barWord_queue (s : State) {q k : Nat} (hq : q < 32) (hk : k < 16) :
    s.barWord (0x10000 + 0x40 * q + 4 * k) = BitVec.ofNat 32 (queueRead (s.queue q) k) := by
  have hdiv : (0x10000 + 0x40 * q + 4 * k - 0x10000) / 0x40 = q := by omega
  have hmod : (0x10000 + 0x40 * q + 4 * k) % 0x40 / 4 = k := by omega
  unfold State.barWord
  rw [if_neg (by simp only [bne_iff_ne]; omega), if_pos (by simp only [Bool.and_eq_true, decide_eq_true_eq]; omega), hdiv, hmod]
theorem barWord_ctx (s : State) {c k : Nat} (hc : c < 256) (hk : k < 16) :
    s.barWord (0x20000 + 0x40 * c + 4 * k) = BitVec.ofNat 32 (ctxRead (s.ctx c) k) := by
  have hdiv : (0x20000 + 0x40 * c + 4 * k - 0x20000) / 0x40 = c := by omega
  have hmod : (0x20000 + 0x40 * c + 4 * k) % 0x40 / 4 = k := by omega
  unfold State.barWord
  rw [if_neg (by simp only [bne_iff_ne]; omega), if_neg (by simp only [Bool.and_eq_true, decide_eq_true_eq]; omega),
    if_pos (by simp only [Bool.and_eq_true, decide_eq_true_eq]; omega), hdiv, hmod]
theorem queueRead_3_lt (x : Queue) : queueRead x 3 < 2 ^ 32 := by
  have hctx : x.ctx.toNat < 2 ^ 8 := x.ctx.isLt
  have hsize : x.size.toNat < 2 ^ 5 := x.size.isLt
  simp only [queueRead]
  split <;> split <;> omega
theorem ctxRead_0_lt (x : Ctx) : ctxRead x 0 < 2 ^ 32 := by
  simp only [ctxRead]
  split <;> split <;> split <;> omega

/-! ### Places of a ring (R469, R471 to R474) -/

/-- Whether a ring has no place for a record (R471, R473). -/
def State.ringFull (s : State) (ctx : Nat) (trace : Bool) : Prop :=
  s.ringSize ctx trace < 4 ∨ s.ringSize ctx trace > 20 ∨
    (natGet s.watch.places (placeKey ctx trace) + 2 ^ 32 - s.watchWord ctx (ringSel trace + 4)) % 2 ^ 32 = 2 ^ s.ringSize ctx trace
theorem ringPlace_full {s : State} {ctx : Nat} {trace : Bool} (h : s.ringFull ctx trace) (data : BitVec 256) :
    s.ringPlace ctx trace data = s.ringDrop ctx trace := by
  refine if_pos ?_
  simp only [Bool.or_eq_true, decide_eq_true_eq]
  exact or_assoc.2 h
theorem ringPlace_free {s : State} {ctx : Nat} {trace : Bool} (h : ¬ s.ringFull ctx trace) (data : BitVec 256) :
    s.ringPlace ctx trace data = { s with watch := { s.watch with
      rings := s.watch.rings ++ [⟨ctx, trace, natGet s.watch.places (placeKey ctx trace), data, 0⟩]
      places := natSet s.watch.places (placeKey ctx trace) (natGet s.watch.places (placeKey ctx trace) + 1) } } := by
  refine if_neg ?_
  simp only [Bool.or_eq_true, decide_eq_true_eq]
  exact fun hfull => h (or_assoc.1 hfull)
theorem watchWord_setWatchWord_self (s : State) {c sel v : Nat} (hv : v % 2 ^ 32 ≠ 0) : (s.setWatchWord c sel v).watchWord c sel = v % 2 ^ 32 :=
  natGet_natSet_self _ _ hv
theorem watchWord_setWatchWord {s : State} (hs : s.watch.words.Pairwise fun x y => x.1 < y.1) (c sel k v : Nat) :
    (s.setWatchWord c sel v).watchWord c k = if k = sel then v % 2 ^ 32 else s.watchWord c k := by
  refine (natGet_natSet hs _ _ _).trans ?_
  have hkey : 32 * c + k = 32 * c + sel ↔ k = sel := by omega
  simp only [hkey]
  rfl

/-! ### The stall sampler (R469, R471 to R473) -/

section
variable {time pc blame ctx core warp lane cls : Nat}
theorem sampleBits_toNat : (sampleBits time pc blame ctx core warp lane cls).toNat = time % 2 ^ 64 * 2 ^ 192 + pc % 2 ^ 72 * 2 ^ 120 +
    blame % 2 ^ 72 * 2 ^ 48 + ctx % 256 * 2 ^ 40 + core % 1024 * 2 ^ 30 + warp % 32 * 2 ^ 25 + lane % 32 * 2 ^ 20 + cls % 32 := by
  rw [sampleBits, BitVec.toNat_ofNat]
  omega
theorem sampleBits_fields : (sampleBits time pc blame ctx core warp lane cls).toNat / 2 ^ 40 % 2 ^ 8 = ctx % 256 ∧
    (sampleBits time pc blame ctx core warp lane cls).toNat / 2 ^ 30 % 2 ^ 10 = core % 2 ^ 10 ∧
    (sampleBits time pc blame ctx core warp lane cls).toNat / 2 ^ 192 = time % 2 ^ 64 ∧
    (sampleBits time pc blame ctx core warp lane cls).toNat % 2 ^ 5 = cls % 32 := by
  rw [sampleBits_toNat]
  refine ⟨by omega, by omega, by omega, by omega⟩
end
/-- A sample is a record of its context and core at the time it is taken; of a core without warps of the context its class is 14. -/
theorem sample_bits (s : State) (core : Nat) (x : Sampler) : ∃ pc blame warp lane cls,
    (s.sample core x).1 = sampleBits (s.now core) pc blame x.ctx core warp lane cls ∧ (s.warpsOn x.ctx core = [] → cls = 14) := by
  unfold State.sample
  dsimp only
  split
  · exact ⟨_, _, _, _, _, rfl, fun _ => rfl⟩
  · next u id w hfound =>
    have hne : s.warpsOn x.ctx core ≠ [] := by
      intro hnil
      rw [hnil] at hfound
      simp at hfound
    split
    · exact ⟨_, _, _, _, _, rfl, fun hnil => absurd hnil hne⟩
    · exact ⟨_, _, _, _, _, rfl, fun hnil => absurd hnil hne⟩

section
variable {s : State} {core : Nat} {c : BitVec 8} {x : Sampler} (hx : (s.core core).samplers.find? (·.ctx == c.toNat) = some x)
include hx
theorem sampler_ctx : x.ctx = c.toNat := by simpa using List.find?_some hx
theorem exec_sampleTick : exec (.sampleTick core c) s = .next (
    if !s.sampleDue x || s.cores.any (fun k => k.id < core && k.samplers.any fun z => z.ctx == c.toNat && s.sampleDue z) then s
    else (s.modCore core fun k => { k with
      samplers := k.samplers.map fun z => if z.ctx == c.toNat then (s.sample core x).2 else z }).ringPlace c.toNat false (s.sample core x).1) := by
  change execSampleTick core c s = _
  rw [apply_ite Host.Outcome.next]
  simp only [execSampleTick, hx]
omit hx in
theorem sampleDue_iff (z : Sampler) : s.sampleDue z = true ↔ s.watchWord z.ctx 0 / 2 ^ 31 % 2 = 1 ∧ s.watchWord z.ctx 0 % 2 ^ 24 ≠ 0 ∧
    z.last < s.clk ∧ (s.clk - z.t0) % (s.watchWord z.ctx 0 % 2 ^ 24) = 0 := by
  simp only [State.sampleDue, bitsOf_low, bitOf, Bool.and_eq_true, beq_iff_eq, bne_iff_ne, decide_eq_true_eq, and_assoc]
/-- R473: a sample that is due takes the next place of its ring. -/
theorem sampleTick_takes (hdue : s.sampleDue x = true)
    (hfirst : ∀ k ∈ s.cores, k.id < core → ∀ z ∈ k.samplers, z.ctx = c.toNat → s.sampleDue z = false)
    (hfree : ¬ s.ringFull c.toNat false) : Does (.sampleTick core c) s fun t => t.home = s.home ∧
      t.units = s.units ∧ ∃ d : BitVec 256, t.watch.rings = s.watch.rings ++ [⟨c.toNat, false, natGet s.watch.places (2 * c.toNat), d, 0⟩] ∧
        natGet t.watch.places (2 * c.toNat) = natGet s.watch.places (2 * c.toNat) + 1 ∧ d.toNat / 2 ^ 40 % 2 ^ 8 = c.toNat ∧
        d.toNat / 2 ^ 30 % 2 ^ 10 = core % 2 ^ 10 ∧ d.toNat / 2 ^ 192 = s.now core % 2 ^ 64 ∧
        (s.warpsOn c.toNat core = [] → d.toNat % 2 ^ 5 = 14) := by
  have hbefore : (s.cores.any fun k => k.id < core && k.samplers.any fun z => z.ctx == c.toNat && s.sampleDue z) = false := by
    simp only [List.any_eq_false, Bool.and_eq_true, decide_eq_true_eq, List.any_eq_true, beq_iff_eq, not_and, not_exists]
    exact fun k hk hlt z hz hctx => by simp [hfirst k hk hlt z hz hctx]
  have hexec := exec_sampleTick hx
  rw [hdue, hbefore, if_neg (by decide)] at hexec
  let t := s.modCore core fun k => { k with samplers := k.samplers.map fun z => if z.ctx == c.toNat then (s.sample core x).2 else z }
  have hwatch : t.watch = s.watch := modCore_watch ..
  have hplace : ¬ t.ringFull c.toNat false := by
    simpa only [State.ringFull, State.ringSize, State.watchWord, hwatch] using hfree
  obtain ⟨pc, blame, warp, lane, cls, hbits, hcls⟩ := sample_bits s core x
  obtain ⟨hc, hcore, htime, hclass⟩ := sampleBits_fields (time := s.now core) (pc := pc) (blame := blame) (ctx := x.ctx) (core := core)
    (warp := warp) (lane := lane) (cls := cls)
  have hlt : c.toNat < 256 := c.isLt
  refine ⟨_, hexec, ?_⟩
  rw [ringPlace_free hplace]
  refine ⟨modCore_home .., modCore_units .., (s.sample core x).1, ?_, ?_, ?_, ?_, ?_, fun hnil => ?_⟩
  · change t.watch.rings ++ [⟨c.toNat, false, natGet t.watch.places (2 * c.toNat), _, 0⟩] = _
    rw [hwatch]
  · change natGet (natSet t.watch.places (2 * c.toNat) (natGet t.watch.places (2 * c.toNat) + 1)) (2 * c.toNat) = _
    rw [natGet_natSet_self _ _ (Nat.succ_ne_zero _), hwatch]
  · rw [hbits, hc, sampler_ctx hx, Nat.mod_eq_of_lt hlt]
  · rw [hbits, hcore]
  · rw [hbits, htime]
  · rw [hbits, hclass, hcls (by rw [sampler_ctx hx, hnil])]
theorem sampleTick_waits (h : s.sampleDue x = false ∨
    ∃ k ∈ s.cores, k.id < core ∧ ∃ z ∈ k.samplers, z.ctx = c.toNat ∧ s.sampleDue z = true) : exec (.sampleTick core c) s = .next s := by
  rw [exec_sampleTick hx, if_pos]
  rcases h with h | ⟨k, hk, hlt, z, hz, hctx, hdue⟩
  · simp [h]
  · refine Bool.or_eq_true_iff.2 (.inr (List.any_eq_true.2 ⟨k, hk, ?_⟩))
    simp only [hlt, decide_true, Bool.true_and]
    exact List.any_eq_true.2 ⟨z, hz, by simp [hctx, hdue]⟩
end

/-! ### Ring records written (R473) -/

/-- A write whose bytes no poisoned unit that it covers in part holds writes them all (R495). -/
theorem writePhys_get_whole {h : Home} {pa : Nat} {bs : List Byte} (hw : Memory.wf h.mem)
    (hp : ∀ u ∈ h.poison, ∀ i < bs.length, overlaps u 8 (pa + i) 1 = true → within u 8 pa bs.length = true) (x : Nat) :
    memGet (writePhys h pa bs).1.mem x = if pa ≤ x ∧ x < pa + bs.length then (bs[x - pa]?).getD 0 else memGet h.mem x := by
  have hmem : (writePhys h pa bs).1.mem = (writePhys { h with poison := [] } pa bs).1.mem := by
    refine List.foldl_ext _ _ _ fun m y hy => ?_
    have hlt : y.2 < bs.length := by simpa using List.snd_lt_of_mem_zipIdx hy
    have hfree : (h.poison.any fun u => overlaps u 8 (pa + y.2) 1 && !within u 8 pa bs.length) = false := by
      refine List.any_eq_false.2 fun u hu => ?_
      cases ho : overlaps u 8 (pa + y.2) 1 with
      | false => simp
      | true => simp [hp u hu y.2 hlt ho]
    simp only [hfree, List.any_nil, Bool.false_eq_true, if_false]
  rw [hmem]
  exact writePhys_get (h := { h with poison := [] }) hw (fun u hu => absurd hu List.not_mem_nil) x
theorem within_of_aligned {u pa i n : Nat} (hu : u % 8 = 0) (ha : pa % 8 = 0) (hn : n % 8 = 0) (hi : i < n)
    (h : overlaps u 8 (pa + i) 1 = true) : within u 8 pa n = true := by
  simp only [overlaps, within, Bool.and_eq_true, decide_eq_true_eq] at h ⊢
  omega

section
variable {s : State} {r : RingRec} {rs : List RingRec} (hr : s.watch.rings = r :: rs)
/-- The address of a ring record (R473). -/
def State.ringAt (s : State) (r : RingRec) : Nat :=
  s.ringBase r.ctx r.trace + 32 * (r.place % 2 ^ s.ringSize r.ctx r.trace)
include hr
theorem ringRecord_writes (hm : s.memWf) (h0 : r.written = 0) (hp : ∀ p ∈ s.home.poison, p % 8 = 0) :
    Does (.ringRecordWritten 0 true) s fun t => wrote s t (s.ringAt r) (natBytes 32 r.data.toNat) ∧
      t.watch = { s.watch with rings := { r with written := s.physGwct (s.ringAt r) 32 + 1 } :: rs } := by
  refine ⟨{ s with
    home := (writePhys s.home (s.ringAt r) (natBytes 32 r.data.toNat)).1
    watch := { s.watch with rings := modAt s.watch.rings 0 fun x => { x with written := s.physGwct (s.ringAt r) 32 + 1 } } }, ?_,
    writePhys_get_whole hm.1 fun u hu i hi ho => within_of_aligned (hp u hu) ?_ ?_ hi ho, by rw [hr]; rfl⟩
  · change execRingRecordWritten 0 true s = _
    simp only [execRingRecordWritten, hr, List.getElem?_cons_zero, h0, if_true]
    rfl
  · simp only [State.ringAt, State.ringBase]
    omega
  · rw [natBytes_length]
theorem ringRecord_written : exec (.ringRecordWritten 0 false) s = (if r.written = 0 then
    .next ((s.ringDrop r.ctx r.trace).ringAdvance 0 r)
    else .next (if s.clockOf .watch + 1 ≥ r.written then s.ringAdvance 0 r else s)) ∧
    (r.written ≠ 0 → ∀ ok, exec (.ringRecordWritten 0 ok) s =
      .next (if s.clockOf .watch + 1 ≥ r.written then s.ringAdvance 0 r else s)) := by
  have hwritten (h : r.written ≠ 0) (ok : Bool) : exec (.ringRecordWritten 0 ok) s =
      .next (if s.clockOf .watch + 1 ≥ r.written then s.ringAdvance 0 r else s) := by
    change execRingRecordWritten 0 ok s = _
    simp [execRingRecordWritten, hr, h]
  refine ⟨?_, hwritten⟩
  split
  · next h =>
    change execRingRecordWritten 0 false s = _
    simp [execRingRecordWritten, hr, h]
  · next h => exact hwritten h false
omit hr in
/-- HEAD passes the oldest record (R473). -/
theorem ringAdvance_passes {t : State} (hs : t.watch.words.Pairwise fun x y => x.1 < y.1) (ht : t.watch.rings = r :: rs) :
    (t.ringAdvance 0 r).home = t.home ∧ (t.ringAdvance 0 r).watch.rings = rs ∧
      ∀ k, (t.ringAdvance 0 r).watchWord r.ctx k = if k = ringSel r.trace + 3 then (t.watchWord r.ctx (ringSel r.trace + 3) + 1) % 2 ^ 32
        else t.watchWord r.ctx k := by
  refine ⟨rfl, ?_, fun k => ?_⟩
  · change t.watch.rings.eraseIdx 0 = rs
    rw [ht]
    rfl
  · exact watchWord_setWatchWord (s := { t with watch := { t.watch with rings := t.watch.rings.eraseIdx 0 } }) hs r.ctx
      (ringSel r.trace + 3) k _
end

/-! ### Trace records (R473 to R475) -/

theorem exec_traceRecord {s : State} {r : TraceRec} {rs : List TraceRec} (hr : s.watch.made = r :: rs) :
    exec (.traceRecord r.src) s = .next (State.ringPlace { s with watch := { s.watch with made := rs } } r.ctx true r.data) := by
  change execTraceRecord r.src s = _
  simp [execTraceRecord, hr, List.findIdx?_cons]

/-! ### Dumps (R470, R477, R478) -/

theorem full_iff (w : Watch) : w.full = true ↔ w.dslots.toNat = 0 ∨ (w.dhead - w.dtail).toNat = w.dslots.toNat := by
  simp only [Watch.full, Bool.or_eq_true, decide_eq_true_eq]
theorem postCapture_watch (s : State) (e : Capture) (dump : Bool) : (s.postCapture e dump).watch = s.watch := by
  unfold State.postCapture
  split
  · split
    · rfl
    · exact post_watch ..
  · rfl
/-- The vectors that a capture's record raises: that of its queue, unless it has none. -/
def Capture.vectors (e : Capture) : List Nat := ((e.record.filter (·.code != 0)).map fun _ => 32 + e.queue).toList
theorem postCapture_does (s : State) (e : Capture) (dump : Bool) : (s.postCapture e dump).units = s.units ∧
    (s.postCapture e dump).irqs = e.vectors ++ s.irqs := by
  unfold State.postCapture Capture.vectors
  cases e.record with
  | none => exact ⟨rfl, rfl⟩
  | some r =>
    by_cases hcode : r.code = 0
    · simp [hcode]
    · have hpost := posted_post s e.queue r dump
      simp only [hcode, if_false]
      refine ⟨hpost.units, hpost.irqs.trans ?_⟩
      rw [Option.filter_some, if_pos (by simpa using hcode)]
      rfl
theorem foldl_postCapture_watch (es : List Capture) (s : State) :
    (es.foldl (fun s e => s.postCapture e false) s).watch = s.watch :=
  foldl_keeps State.watch _ (fun s e => postCapture_watch s e false) es s

theorem dumpStart_running {s : State} {d : Dump} (hd : s.watch.dump = some d) :
    exec .dumpStart s = .next { s with watch := { s.watch with dump := some { d with started := true } } } := by
  change execDumpStart s = _
  simp only [execDumpStart, hd]
section
variable {s : State} {d : Dump} {ds : List Dump} (hd : s.watch.dump = none) (hq : s.watch.dumpQ = d :: ds)
include hd hq
theorem dumpStart_free (h0 : s.watch.dslots ≠ 0) (hfree : (s.watch.dhead - s.watch.dtail).toNat ≠ s.watch.dslots.toNat) :
    exec .dumpStart s = .next { s with watch := { s.watch with dumpQ := ds, dump := some { d with
      started := true, entries := s.fillCaptures 0 d.entries, time := s.clockOf .watch } } } := by
  have hfull : s.watch.full = false := by
    rw [← Bool.not_eq_true, full_iff]
    rintro (h | h)
    · exact h0 (BitVec.eq_of_toNat_eq h)
    · exact hfree h
  change execDumpStart s = _
  simp only [execDumpStart, hd, hq, hfull, Bool.false_eq_true, if_false]
theorem dumpStart_drops (h0 : s.watch.dslots = 0) (hn : s.watch.ddrop ≠ 0xFFFFFFFF) : Does .dumpStart s fun t =>
    t.watch.dump = none ∧ t.watch.dumpQ = ds ∧ t.watch.ddrop = s.watch.ddrop + 1 := by
  have hfull : s.watch.full = true := (full_iff _).2 (.inl (by rw [h0]; rfl))
  have hcount : s.watch.ddrop.toNat ≠ 2 ^ 32 - 1 := fun h => hn (BitVec.eq_of_toNat_eq h)
  let t : State := { s with watch := { s.watch with dump := none, dumpQ := ds, ddrop := s.watch.ddrop + 1 } }
  have hexec : exec .dumpStart s = .next (d.entries.foldl (fun s e => s.postCapture e false) t) := by
    change execDumpStart s = _
    simp only [execDumpStart, hd, hq, hfull, hcount, if_false, if_true]
    rfl
  have hwatch := foldl_postCapture_watch d.entries t
  exact ⟨_, hexec, congrArg Watch.dump hwatch, congrArg Watch.dumpQ hwatch, congrArg Watch.ddrop hwatch⟩
end

/-- A dump that ends: what its entries leave of the Watch engine, and the vectors that they raise. -/
theorem dumpEntry_does (s : State) (slot f : Nat) (e : Capture) : (s.dumpEntry slot f e).watch = s.watch ∧
    (s.dumpEntry slot f e).units = s.units ∧ (s.dumpEntry slot f e).irqs = e.vectors ++ s.irqs :=
  ⟨postCapture_watch .., postCapture_does ..⟩
theorem foldl_dumpEntry (slot k : Nat) (es : List Capture) (s : State) :
    ((es.zipIdx k).foldl (fun s x => s.dumpEntry slot x.2 x.1) s).watch = s.watch ∧
      ((es.zipIdx k).foldl (fun s x => s.dumpEntry slot x.2 x.1) s).units = s.units ∧
      ((es.zipIdx k).foldl (fun s x => s.dumpEntry slot x.2 x.1) s).irqs = (es.flatMap Capture.vectors).reverse ++ s.irqs := by
  induction es generalizing k s with
  | nil => exact ⟨rfl, rfl, rfl⟩
  | cons e es ih =>
    obtain ⟨hw, hu, hi⟩ := ih (k + 1) (s.dumpEntry slot k e)
    obtain ⟨hw', hu', hi'⟩ := dumpEntry_does s slot k e
    refine ⟨hw.trans hw', hu.trans hu', hi.trans ?_⟩
    rw [hi', List.flatMap_cons, List.reverse_append, List.append_assoc]
    congr 2
    unfold Capture.vectors
    cases (e.record.filter (·.code != 0)).map fun _ => 32 + e.queue <;> rfl
/-- The slot that the next dump takes (R470). -/
def Watch.slot (w : Watch) : Nat := w.dbase.toNat * 4096 + 2 ^ 20 * (w.dhead.toNat % max 1 w.dslots.toNat)
theorem dumpComplete_does {s : State} {d : Dump} (hd : s.watch.dump = some d) (hstart : d.started = true) :
    Does .dumpComplete s fun t => t.watch = { s.watch with dump := none, dhead := s.watch.dhead + 1 } ∧ t.units = s.units ∧
      t.irqs = (d.entries.filterMap fun e => (e.record.filter (·.code != 0)).map fun _ => 32 + e.queue).reverse ++ s.irqs ∧
      (s.memWf → d.entries = [] → (∀ p ∈ s.home.poison, overlaps p 8 s.watch.slot 64 = false) →
        wrote s t s.watch.slot (natBytes 64 (dumpHeader d))) := by
  let t : State := { s with
    home := (writePhys s.home s.watch.slot (natBytes 64 (dumpHeader d))).1
    watch := { s.watch with dump := none, dhead := s.watch.dhead + 1 } }
  have hexec : exec .dumpComplete s = .next (d.entries.zipIdx.foldl (fun r x => r.dumpEntry s.watch.slot x.2 x.1) t) := by
    change execDumpComplete s = _
    simp only [execDumpComplete, hd, hstart, Bool.not_true, Bool.false_eq_true, if_false]
    rfl
  obtain ⟨hwatch, hunits, hirqs⟩ := foldl_dumpEntry s.watch.slot 0 d.entries t
  have hvectors : d.entries.flatMap Capture.vectors =
      d.entries.filterMap fun e => (e.record.filter (·.code != 0)).map fun _ => 32 + e.queue :=
    (List.filterMap_eq_flatMap_toList _ _).symm
  refine ⟨_, hexec, hwatch, hunits, hirqs.trans (by rw [hvectors]), fun hm hnil hclear => ?_⟩
  rw [hnil]
  intro x
  have hwrite := writePhys_get (h := s.home) (pa := s.watch.slot) (bs := natBytes 64 (dumpHeader d)) hm.1
  rw [natBytes_length] at hwrite
  refine (hwrite (fun u hu => ?_) x).trans ?_
  · exact hclear u hu
  · rw [natBytes_length]

/-! ### What the debug commands leave, all of them (R464 to R468, R470) -/

section
variable {s : State} {c : BitVec 8} {u : Placed} {g : Workgroup} (hn : s.namedUnit c.toNat = some u)
  (hv : s.dbgSel c.toNat / 2 ^ 31 % 2 = 0) (hu : s.unit? u.id = some u) (hg : u.wgs[s.dbgSel c.toNat % 4]? = some g)
include hn hv hu hg
theorem capture_not (hstand : g.stands = false) : exec (.capture c) s = .next s := by
  rw [exec_capture hn hv hu hg, hstand]
  rfl
/-- CAPTURE dumps the named warp at once, while a slot is free for it. -/
theorem capture_does (hstand : g.stands = true) : Does (.capture c) s fun t => t.home = s.home ∧ t.units = s.units ∧ t.ops = s.ops ∧
    ∀ w, g.warps[s.dbgSel c.toNat / 4 % 32]? = some w → s.watch.dump = none → s.watch.dumpQ = [] → s.watch.dslots ≠ 0 →
      (s.watch.dhead - s.watch.dtail).toNat ≠ s.watch.dslots.toNat → ∃ d, t.watch.dump = some d ∧ d.ctx = c.toNat ∧ d.kind = 2 ∧
        d.idx = u.idx ∧ d.launchid = u.launchid ∧ d.stoppc = 0 ∧ d.wgic = s.dbgSel c.toNat % 4 ∧ d.entries.length = 1 := by
  have hexec := exec_capture hn hv hu hg
  rw [hstand, if_pos rfl] at hexec
  refine ⟨_, hexec, ?_⟩
  obtain ⟨w, hw⟩ := stopDump_watch s u 2 (s.dbgSel c.toNat % 4) (s.dbgSel c.toNat / 4 % 32) 0 0
  refine ⟨by rw [hw], by rw [hw], by rw [hw], fun w hwarp hd hq h0 hfree => ?_⟩
  have hwarp? : s.warp? ⟨u.id, s.dbgSel c.toNat % 4, s.dbgSel c.toNat / 4 % 32⟩ = some w := by
    rw [State.warp?, wg?_named hu hg, Option.bind_some, hwarp]
  obtain ⟨d, hdump, hctx, hrest⟩ := stopDump_starts hwarp? hd hq h0 hfree 0 0
  exact ⟨d, hdump, hctx.trans (namedUnit_ctx hn), hrest⟩
end

/-! ### What a record of a ring leaves (R471, R473) -/

section
variable {s : State} {r : RingRec} {rs : List RingRec} (hr : s.watch.rings = r :: rs) (hm : s.memWf)
include hr hm
/-- A record that cannot be written is dropped, and HEAD passes it (R473). -/
theorem ringRecord_drops (h0 : r.written = 0) : Does (.ringRecordWritten 0 false) s fun t => t.home = s.home ∧
    (t.watch.rings = rs ∧ t.watchWord r.ctx (ringSel r.trace + 3) = (s.watchWord r.ctx (ringSel r.trace + 3) + 1) % 2 ^ 32) ∧
    t.watchWord r.ctx (ringSel r.trace + 5) = min (s.watchWord r.ctx (ringSel r.trace + 5) + 1) (2 ^ 32 - 1) := by
  obtain ⟨-, -, -, hsorted⟩ := hm
  have hexec := (ringRecord_written hr).1
  rw [if_pos h0] at hexec
  have hdrop (k : Nat) := watchWord_setWatchWord hsorted r.ctx (ringSel r.trace + 5) k
    (min (s.watchWord r.ctx (ringSel r.trace + 5) + 1) (2 ^ 32 - 1))
  obtain ⟨hhome, hrings, hword⟩ := ringAdvance_passes (t := s.ringDrop r.ctx r.trace) (r := r) (rs := rs) (natSet_sorted _ _ hsorted) hr
  refine ⟨_, hexec, hhome, ⟨hrings, ?_⟩, ?_⟩
  · rw [hword, if_pos rfl]
    exact congrArg (fun x => (x + 1) % 2 ^ 32) ((hdrop _).trans (if_neg (by omega)))
  · rw [hword, if_neg (by omega)]
    refine ((hdrop _).trans (if_pos rfl)).trans (Nat.mod_eq_of_lt ?_)
    omega
/-- A record written stays until its GWCT has passed (R473). -/
theorem ringRecord_passes (ok : Bool) (hw : r.written ≠ 0) (hdue : r.written ≤ s.clockOf .watch + 1) :
    Does (.ringRecordWritten 0 ok) s fun t => t.home = s.home ∧
      (t.watch.rings = rs ∧ t.watchWord r.ctx (ringSel r.trace + 3) = (s.watchWord r.ctx (ringSel r.trace + 3) + 1) % 2 ^ 32) := by
  obtain ⟨-, -, -, hsorted⟩ := hm
  have hexec := (ringRecord_written hr).2 hw ok
  rw [if_pos hdue] at hexec
  obtain ⟨hhome, hrings, hword⟩ := ringAdvance_passes hsorted hr
  exact ⟨_, hexec, hhome, hrings, (hword _).trans (if_pos rfl)⟩
omit hm in
theorem ringRecord_waits (ok : Bool) (hw : r.written ≠ 0) (hdue : s.clockOf .watch + 1 < r.written) :
    exec (.ringRecordWritten 0 ok) s = .next s := by
  rw [(ringRecord_written hr).2 hw ok, if_neg (Nat.not_le.2 hdue)]
end

/-- A trace record takes a place of its ring, or is dropped and counted (R474, R475). -/
theorem traceRecord_does {s : State} {r : TraceRec} {rs : List TraceRec} (hr : s.watch.made = r :: rs) :
    Does (.traceRecord r.src) s fun t => t.home = s.home ∧ t.units = s.units ∧ t.watch.made = rs ∧
      (¬ s.ringFull r.ctx true → t.watch.rings = s.watch.rings ++ [⟨r.ctx, true, natGet s.watch.places (2 * r.ctx + 1), r.data, 0⟩]) ∧
      (s.ringFull r.ctx true → t.watch.rings = s.watch.rings ∧
        (s.watchWord r.ctx 13 < 2 ^ 32 - 1 → t.watchWord r.ctx 13 = s.watchWord r.ctx 13 + 1)) := by
  let t : State := { s with watch := { s.watch with made := rs } }
  refine ⟨_, exec_traceRecord hr, ?_⟩
  by_cases hfull : s.ringFull r.ctx true
  · rw [ringPlace_full (s := t) hfull]
    refine ⟨rfl, rfl, rfl, fun h => absurd hfull h, fun _ => ⟨rfl, fun hlt => ?_⟩⟩
    have hmin : min (s.watchWord r.ctx 13 + 1) (2 ^ 32 - 1) = s.watchWord r.ctx 13 + 1 := by omega
    have hmod : (s.watchWord r.ctx 13 + 1) % 2 ^ 32 = s.watchWord r.ctx 13 + 1 := Nat.mod_eq_of_lt (by omega)
    change (t.setWatchWord r.ctx 13 (min (s.watchWord r.ctx 13 + 1) (2 ^ 32 - 1))).watchWord r.ctx 13 = _
    rw [hmin, watchWord_setWatchWord_self _ (by omega), hmod]
  · rw [ringPlace_free (s := t) hfull]
    exact ⟨rfl, rfl, rfl, fun _ => rfl, fun h => absurd h hfull⟩

/-! ### Register writes and reads, all of them (R5, R6, R317, R347) -/

theorem word_ofNat_toNat (x : Word) : BitVec.ofNat 32 x.toNat = x := by
  rw [BitVec.ofNat_toNat, BitVec.setWidth_eq]
theorem registerWrites (s : State) (w : BarWrite) (hqs : s.queues.length = 32) (hcs : s.ctxs.length = 256) :
    let v := w.val.toNat
    let keeps (t : State) : Prop := t.home = s.home ∧ t.units = s.units ∧ t.ops = s.ops ∧ t.works = s.works
    (∀ q, q < 32 → w.off = 0x10000 + 0x40 * q + 28 → Does (.registerWrite w) s fun t => keeps t ∧
      t.queue q = { s.queue q with tail := w.val } ∧ ∀ k, k ≠ q → t.queue k = s.queue k) ∧
    (∀ q, q < 32 → w.off = 0x10000 + 0x40 * q + 12 → v / 2 ^ 20 % 2 = 0 → Does (.registerWrite w) s fun t => keeps t ∧
      t.queue q = { s.queue q with size := BitVec.ofNat 5 (v / 2 ^ 8), enable := v / 2 ^ 18 % 2 == 1, ctx := BitVec.ofNat 8 (v / 2 ^ 24) }) ∧
    (∀ n b, w.off = 0x40008 + 16 * n → s.watch.bps[n]? = some b → n < 8 → Does (.registerWrite w) s fun t => keeps t ∧
      ∃ b', t.watch.bps[n]? = some b' ∧ b'.en = (v / 2 ^ 16 % 2 == 1) ∧ b'.mentry = (v / 2 ^ 15 % 2 == 1) ∧
        b'.mqueue = (v / 2 ^ 14 % 2 == 1) ∧ b'.queue = BitVec.ofNat 5 (v / 2 ^ 8) ∧ b'.hit = (b.hit && v / 2 ^ 17 % 2 == 0)) ∧
    (w.off = 0x4010C → Does (.registerWrite w) s fun t => keeps t ∧ t.watch = { s.watch with dtail := w.val }) := by
  have hval : BitVec.ofNat 32 w.val.toNat = w.val := word_ofNat_toNat _
  refine ⟨fun q hq ho => ?_, fun q hq ho h20 => ?_, fun n b ho hb hn => ?_, fun ho => ?_⟩
  · obtain ⟨t, hexec, hkeep, hself, hother⟩ := queueWord_does hqs hq (k := 7) (by omega) (by omega) rfl
    refine ⟨t, hexec, hkeep, hself.trans ?_, hother⟩
    rw [queueWrite, hval]
  · obtain ⟨t, hexec, hkeep, hself, -⟩ := queueWord_does hqs hq (k := 3) (by omega) (by omega) (by rw [bitOf_false h20]; rfl)
    exact ⟨t, hexec, hkeep, hself⟩
  · obtain ⟨t, hexec, hkeep, hself⟩ := bpWord_does hn ho hb
    refine ⟨t, hexec, hkeep, _, hself, rfl, rfl, rfl, rfl, ?_⟩
    have hbit : (!bitOf w.val.toNat 17) = (w.val.toNat / 2 ^ 17 % 2 == 0) := by
      rw [bitOf]
      rcases Nat.mod_two_eq_zero_or_one (w.val.toNat / 2 ^ 17) with h | h <;> rw [h] <;> rfl
    exact congrArg (b.hit && ·) hbit
  · refine ⟨_, exec_dumpWord (k := 3) (by omega) (by omega), ⟨rfl, rfl, rfl, rfl⟩, ?_⟩
    rw [dumpWrite, hval]

/-- What a host read of the Watch engine's, a queue's and a context's words returns. -/
theorem registerReads (s : State) : s.barWord 0x40080 = BitVec.ofNat 32 (s.watch.feQueue.toNat * 2 ^ 16 + s.watch.feBp.toNat * 2 ^ 8 +
      (if s.watch.feHalted = true then 1 else 0)) ∧ s.barWord 0x40108 = s.watch.dhead ∧ s.barWord 0x4010C = s.watch.dtail ∧
    (∀ q, q < 32 → let x := s.queue q
      s.barWord (0x10000 + 0x40 * q + 24) = x.head ∧ s.barWord (0x10000 + 0x40 * q + 28) = x.tail ∧
      (s.barWord (0x10000 + 0x40 * q + 12)).toNat = x.ctx.toNat * 2 ^ 24 + (if x.halted = true then 2 ^ 19 else 0) +
        (if x.enable = true then 2 ^ 18 else 0) + x.size.toNat * 2 ^ 8) ∧
    ∀ c, c < 256 → let x := s.ctx c
      (s.barWord (0x20000 + 0x40 * c)).toNat = (if x.invbusy = true then 2 ^ 7 else 0) + (if x.failed = true then 2 ^ 6 else 0) +
        if x.preempted = true then 2 ^ 5 else 0 := by
  refine ⟨rfl, (word_ofNat_toNat _), (word_ofNat_toNat _), fun q hq => ⟨?_, ?_, ?_⟩, fun c hc => ?_⟩
  · exact (barWord_queue s hq (k := 6) (by omega)).trans (word_ofNat_toNat _)
  · exact (barWord_queue s hq (k := 7) (by omega)).trans (word_ofNat_toNat _)
  · exact (congrArg BitVec.toNat (barWord_queue s hq (k := 3) (by omega))).trans
      ((BitVec.toNat_ofNat ..).trans (Nat.mod_eq_of_lt (queueRead_3_lt _)))
  · exact (congrArg BitVec.toNat (barWord_ctx s hc (k := 0) (by omega))).trans
      ((BitVec.toNat_ofNat ..).trans (Nat.mod_eq_of_lt (ctxRead_0_lt _)))

/-- Settles O58, by what each debug command, register write and read, ring record and dump leaves. -/
theorem watchEvents_hold : Obligations.WatchEvents := by
  unfold Obligations.WatchEvents
  refine ⟨?_, ?_, ?_, ?_, registerReads, ?_, ?_, ?_, ?_, ?_⟩
  · intro s c u g hn v hv hu hg hdet dumped
    exact ⟨stop_does hn hv hu hg hdet, dbgResume_does hn hv hu hg hdet, capture_does hn hv hu hg,
      fun hstand th hth hlive => step_does hn hv hu hg hdet hstand hth hlive,
      fun hstand => ⟨dbgResume_not hn hv hu hg hstand, capture_not hn hv hu hg hstand, step_not hn hv hu hg hstand⟩⟩
  · intro s c u g hn v hv hu hg hdet go only
    exact ⟨stop_turn hn hv hu hg hdet, dbgResume_turn hn hv hu hg hdet, step_turn hn hv hu hg hdet⟩
  · intro s v q hlen hhalt hop hmode hwait hhead hm htype
    have hrec : ∃ rv, s.recordAt q (v % 2 ^ 8) (v / 2 ^ 64 % 2 ^ 72) = .val rv := by
      rcases htype with h | h | ⟨h, r, hr⟩ | ⟨h, r, hr⟩ <;> rw [h]
      · exact ⟨0, rfl⟩
      · exact ⟨0, rfl⟩
      · exact ⟨r, hr⟩
      · exact ⟨r, hr⟩
    obtain ⟨rv, hrv⟩ := hrec
    exact feResume_does hlen hhalt hop hmode hwait hhead hm hrv
  · intro s w hqs hcs v keeps
    obtain ⟨htail, hctl, hbp, hdump⟩ := registerWrites s w hqs hcs
    exact ⟨htail, hctl, fun c hc ho => saveWord_does hcs hc ho, fun c hc ho hval => resumeWord_does hcs hc ho hval,
      fun c hc ho hm => selectWord_does hc ho hm, hbp, hdump, fun c hc ho hoff => sampleWord_does hc ho hoff, exec_noWord⟩
  · intro s core c x hx period given n
    refine ⟨fun hen hper hlast hphase h4 h20 hfirst hfree => ?_, fun h => sampleTick_waits hx ?_⟩
    · refine sampleTick_takes hx ((sampleDue_iff x).2 ?_) hfirst fun hfull => ?_
      · rw [sampler_ctx hx]
        exact ⟨hen, hper, hlast, hphase⟩
      · rcases hfull with h | h | h
        · exact absurd h (Nat.not_lt.2 h4)
        · exact absurd h (Nat.not_lt.2 h20)
        · exact hfree h
    · by_cases hdue : s.sampleDue x = true
      · obtain ⟨-, hper, hlast, hphase⟩ := (sampleDue_iff x).1 hdue
        rw [sampler_ctx hx] at hper hphase
        rcases h with h | h | h | h
        · exact absurd h hper
        · exact absurd hlast (Nat.not_lt.2 h)
        · exact absurd hphase h
        · exact .inr h
      · exact .inl (Bool.not_eq_true _ ▸ hdue)
  · intro s r rs hr hm passed sel a
    exact ⟨fun h0 hp => ringRecord_writes hr hm h0 hp, ringRecord_drops hr hm,
      fun ok hw => ⟨ringRecord_passes hr hm ok hw, ringRecord_waits hr ok hw⟩⟩
  · intro s r rs hr given n full
    exact traceRecord_does hr
  · intro s d ds hd hq
    exact ⟨fun h0 hfree => ⟨_, dumpStart_free hd hq h0 hfree, rfl, rfl, rfl⟩, dumpStart_drops hd hq⟩
  · intro s d hd
    refine ⟨fun _ => ⟨_, dumpStart_running hd, rfl, rfl, rfl⟩, fun hstart => ?_, dumpComplete_does hd⟩
    change execDumpComplete s = _
    simp only [execDumpComplete, hd, hstart, Bool.not_false, if_true]

end Sys2Proof.Machine
end

section
/-! Proof of the task updates, retirement, digests, reruns and the end of a job (R332, R340, R343 to R346, R371, R373, R376, R378, R393 to R400). -/

namespace Sys2Proof.Machine

/-! ### The items of the task operations (R343, R371, R373, R376, R378) -/

theorem modAt_at {α : Type} {xs : List α} {n : Nat} {x : α} (h : xs[n]? = some x) (f : α → α) : modAt xs n f = modAt xs n fun _ => f x := by
  rw [modAt_const xs n f x, h, Option.getD_some]
theorem op?_congr {s t : State} (h : t.ops = s.ops) (id : Nat) : t.op? id = s.op? id := by
  simp only [State.op?, h]
/-- A gain updated at its Sett (R343, R373). -/
theorem gainUpdate_eq (set : Bool) (idx i : Nat) (v : Word) (g : GainRec) :
    let x := decodeF fp32 v.toNat
    let y := decodeF fp32 g.gain.toNat
    let stored : Word := if x.isNan = true then 0x7FC00000 else v
    let sum : Word := if x.isNan = true ∨ y.isNan = true then 0x7FC00000 else BitVec.ofNat 32 (toFmt fp32 .rne false (y.add x))
    gainUpdate set (idx == i) v g = if idx = i ∧ set = true then { g with rearm := some stored }
      else if idx = i ∨ g.running = true then { g with buffer := g.buffer ++ [(set, v)] }
      else { g with gain := if set = true then stored else sum } := by
  intro x y stored sum
  simp only [gainUpdate, gainNew, Bool.and_eq_true, Bool.or_eq_true, beq_iff_eq]
  rfl
/-- An addition to the residual, clamped at the bounds of R376. -/
theorem residAdd_number {w : Work} {v : Word} (h : (decodeF fp32 v.toNat).isNan = false) :
    let r := w.resid + residAddend (decodeF fp32 v.toNat)
    residAdd w v = { w with
      resid := max (-(2 ^ 127 - 1)) (min (2 ^ 127 - 1) r), sat := w.sat || decide (r > 2 ^ 127 - 1 ∨ r < -(2 ^ 127 - 1)) } := by
  intro r
  have hbound : residAdd w v = if r > residMax then { w with resid := residMax, sat := true }
      else if r < -residMax then { w with resid := -residMax, sat := true } else { w with resid := r } := by
    simp only [residAdd, h, Bool.false_eq_true, if_false]
    rfl
  have hmax : residMax = 2 ^ 127 - 1 := rfl
  rw [hbound, ← hmax]
  have hpos : (0 : Int) < residMax := by decide
  by_cases hhigh : r > residMax
  · rw [if_pos hhigh, min_eq_left hhigh.le, max_eq_right (by omega), decide_eq_true (.inl hhigh), Bool.or_true]
  · rw [if_neg hhigh, min_eq_right (by omega)]
    by_cases hlow : r < -residMax
    · rw [if_pos hlow, max_eq_left hlow.le, decide_eq_true (.inr hlow), Bool.or_true]
    · rw [if_neg hlow, max_eq_right (by omega), decide_eq_false (by omega), Bool.or_false]
theorem residAdd_nan {w : Work} {v : Word} (h : (decodeF fp32 v.toNat).isNan = true) : residAdd w v = { w with sat := true, nan := true } := by
  simp only [residAdd, h, if_true]
theorem bne_nil {α β : Type} [BEq (List α)] [LawfulBEq (List α)] (xs : List α) (a b : β) :
    (if (xs != []) = true then a else b) = if xs = [] then b else a := by
  by_cases h : xs = [] <;> simp [h]

section
variable {s : State} {o : MemOp} {work : Nat} {w : Work} (ho : s.op? o.id = some o) (hw : s.work? work = some w)
include ho hw
/-- An item's effect on its launch, with the item taken from its operation. -/
theorem effect_popItem {f : Work → Work} (hf : ∀ w, (f w).id = w.id) {α : Type} [BEq (List α)] [LawfulBEq (List α)] (rest : List α) (k : OpKind) :
    ((s.modWork work f).popItem o k (rest != [])).home = s.home ∧ ((s.modWork work f).popItem o k (rest != [])).units = s.units ∧
      ((s.modWork work f).popItem o k (rest != [])).work? work = some (f w) ∧
      ((s.modWork work f).popItem o k (rest != [])).op? o.id = if rest = [] then none else some { o with kind := k } := by
  obtain ⟨ops, hpop⟩ := popItem_eq (s.modWork work f) o k (rest != [])
  refine ⟨by rw [hpop]; rfl, by rw [hpop]; rfl, ?_, ?_⟩
  · rw [hpop]
    exact work?_modWork_self hw hf
  · rw [op?_popItem (s := s.modWork work f) ho, bne_nil]
/-- R343, R373: a GAINADD or GAINSET takes effect. -/
theorem gainUpdateApply_does {set : Bool} {idx l i : Nat} {v : Word} {rest : List (Nat × Nat × Word)} {g : GainRec}
    (hk : o.kind = .gain set work idx ((l, i, v) :: rest)) (hready : s.updateReady isGainOp o = true) (hfirst : s.updateFirst o = true)
    (hg : w.gains[i]? = some g) : Does (.gainUpdateApply o.id) s fun t => t.home = s.home ∧
      t.work? work = some { w with gains := modAt w.gains i fun _ => gainUpdate set (idx == i) v g } ∧
      t.op? o.id = if rest = [] then none else some { o with kind := .gain set work idx rest } := by
  obtain ⟨hhome, -, hwork, hop⟩ := effect_popItem ho hw (f := fun w => { w with gains := modAt w.gains i (gainUpdate set (idx == i) v) })
    (fun _ => rfl) rest (.gain set work idx rest)
  refine ⟨State.progress _ (some o.w), ?_, hhome, hwork.trans ?_, hop⟩
  · change execGainUpdateApply o.id s = _
    simp only [execGainUpdateApply, State.applyUpdate, ho, hready, hfirst, Bool.and_self, if_true, State.takeEffect, hk]
    rfl
  · rw [modAt_at hg]
/-- R376: a RESADD takes effect. -/
theorem residualUpdateApply_does {l : Nat} {v : Word} {rest : List (Nat × Word)} (hk : o.kind = .resadd work ((l, v) :: rest))
    (hready : s.updateReady isResidOp o = true) (hfirst : s.laneFirst o = true) :
    Does (.residualUpdateApply o.id) s fun t => t.home = s.home ∧ t.units = s.units ∧ t.work? work = some (residAdd w v) ∧
      t.op? o.id = if rest = [] then none else some { o with kind := .resadd work rest } := by
  refine ⟨_, ?_, effect_popItem ho hw (f := fun w => residAdd w v) (fun w => ?_) rest (.resadd work rest)⟩
  · change execResidualUpdateApply o.id s = _
    simp only [execResidualUpdateApply, State.applyUpdate, ho, hready, hfirst, Bool.and_self, if_true, State.takeEffect, hk]
  · cases hnan : (decodeF fp32 v.toNat).isNan
    · rw [residAdd_number hnan]
    · rw [residAdd_nan hnan]
/-- R378: a post takes effect at the chain. -/
theorem ordpostEffect_does {l p : Nat} {rest : List (Nat × Nat)} (hk : o.kind = .ordpost work ((l, p) :: rest))
    (hready : s.postReady o = true) (hfirst : s.laneFirst o = true) : Does (.ordpostEffect o.id) s fun t => t.home = s.home ∧
      t.work? work = some (chainPost p (s.opGwct o) w) ∧
      t.op? o.id = if rest = [] then none else some { o with kind := .ordpost work rest } := by
  obtain ⟨hhome, -, hwork, hop⟩ := effect_popItem ho hw (f := chainPost p (s.opGwct o))
    (fun w => by unfold chainPost; split <;> rfl) rest (.ordpost work rest)
  refine ⟨State.progress _ (some o.w), ?_, hhome, hwork, hop⟩
  change execOrdpostEffect o.id s = _
  simp only [execOrdpostEffect, ho, hready, hfirst, Bool.and_self, if_true, State.takeEffect, hk]
end

/-! ### A unit leaves its cores (R154, R332, R345, R363) -/

theorem notePreempted_eq (s : State) (c : Nat) : ∃ ctxs, s.notePreempted c = { s with ctxs := ctxs } := by
  unfold State.notePreempted
  dsimp only
  split
  · exact ⟨_, rfl⟩
  · exact ⟨s.ctxs, rfl⟩
theorem notePreempted_held {s : State} {c : Nat} (hh : (s.ctx c).held = true) (hc : c < s.ctxs.length)
    (hsaved : ∀ v ∈ s.units, v.ctx = c → v.state = .saved) : ((s.notePreempted c).ctx c).preempted = true := by
  have hall : (s.units.filter (·.ctx == c)).all (·.state == .saved) = true := by
    simp only [List.all_eq_true, List.mem_filter, beq_iff_eq]
    exact fun v hv => hsaved v hv.1 hv.2
  unfold State.notePreempted
  dsimp only
  rw [hall, hh, Bool.true_or, Bool.and_self, if_pos rfl, ctx_modCtx hc]
theorem exec_retirementPublish_placed {s : State} {w : Work} {n : Nat} {u : Placed} (hw : s.work? w.id = some w)
    (hp : w.pos[n]? = some .placed) (hu : (w.unitsOf s).find? (·.idx == w.virt n) = some u) :
    exec (.retirementPublish w.id n) s = .next (if s.unitDone u then s.finishUnit w n u else s) := by
  change execRetirementPublish w.id n s = _
  simp only [execRetirementPublish, hw, hp, hu]
theorem retirementPublish_leaves {s : State} {w : Work} {n : Nat} {u : Placed} (hw : s.work? w.id = some w)
    (hp : w.pos[n]? = some .placed) (hu : (w.unitsOf s).find? (·.idx == w.virt n) = some u) (hdone : s.unitDone u = true)
    (hclean : ∀ x ∈ u.stash, x.dirty = []) : Does (.retirementPublish w.id n) s fun t => t.home.mem = s.home.mem ∧
      t.units = s.units.filter (·.id != u.id) ∧ ∃ x, t.work? w.id = some x ∧ x.gwct = max w.gwct u.maxGwct ∧
        x.pos = (w.setPos n (.finished u.id u.faulted u.digest u.rerun u.maxGwct)).pos ∧
        ((s.ctx u.ctx).held = true → u.ctx < s.ctxs.length → (∀ v ∈ s.units, v.ctx = u.ctx → v.id = u.id ∨ v.state = .saved) →
          (t.ctx u.ctx).preempted = true) := by
  have hstash : (u.stash.any (·.dirty != [])) = false := by
    simpa only [List.any_eq_false, bne_iff_ne, ne_eq, not_not] using hclean
  let f : Work → Work := fun x => { (x.setPos n (u.outcome u.faulted u.digest)) with gwct := max x.gwct u.maxGwct }
  let t : State := { ((s.detachOps u).clearUnit u.id).modWork w.id f with left := s.left ++ [u] }
  have hwork : t.work? w.id = some (f w) := work?_modWork_self (s := (s.detachOps u).clearUnit u.id) hw fun _ => rfl
  obtain ⟨ctxs, hnote⟩ := notePreempted_eq t u.ctx
  refine ⟨t.notePreempted u.ctx, ?_, by rw [hnote]; rfl, by rw [hnote]; rfl, f w, ?_, rfl, rfl, fun hh hc hsaved => ?_⟩
  · rw [exec_retirementPublish_placed hw hp hu, hdone, if_pos rfl, State.finishUnit, hstash]
    rfl
  · rw [hnote]
    exact hwork
  · refine notePreempted_held (s := t) hh hc fun v hv hctx => ?_
    obtain ⟨hmem, hne⟩ := List.mem_filter.1 hv
    exact (hsaved v hmem hctx).resolve_left (bne_iff_ne.1 hne)

/-! ### A position published (R332, R343, R345, R394 to R398) -/

/-- What a publication reads of a launch. -/
def Work.outline (w : Work) : Nat × List PosState × Option JobCfg := (w.id, w.pos, w.job)
/-- What the updates of a unit that is published do not change. -/
def State.outline (s : State) : Home × List Nat × List (Nat × List PosState × Option JobCfg) := (s.home, s.irqs, s.works.map Work.outline)
theorem work?_outline {s t : State} (h : t.works.map Work.outline = s.works.map Work.outline) {id : Nat} {w : Work}
    (hw : s.work? id = some w) : ∃ y, t.work? id = some y ∧ y.outline = w.outline := by
  have hfind (r : State) : (r.works.map Work.outline).find? (·.1 == id) = (r.work? id).map Work.outline := List.find?_map ..
  have hmap := (hfind t).symm.trans ((congrArg _ h).trans (hfind s))
  rw [hw, Option.map_some] at hmap
  exact Option.map_eq_some_iff.1 hmap
theorem modWork_outline (s : State) (id : Nat) {f : Work → Work} (hf : ∀ w, (f w).outline = w.outline) :
    (s.modWork id f).outline = s.outline := by
  have hmap : (s.works.map fun w => if w.id == id then f w else w).map Work.outline = s.works.map Work.outline := by
    rw [List.map_map]
    refine List.map_congr_left fun w _ => ?_
    simp only [Function.comp_apply]
    split
    · exact hf w
    · rfl
  simp only [State.outline, State.modWork, hmap]
theorem modGain_outline (s : State) (id i : Nat) (f : GainRec → GainRec) : (s.modGain id i f).outline = s.outline :=
  modWork_outline s id fun _ => rfl
theorem residAdd_outline (w : Work) (v : Word) : (residAdd w v).outline = w.outline := by
  cases h : (decodeF fp32 v.toNat).isNan
  · rw [residAdd_number h]
    rfl
  · rw [residAdd_nan h]
    rfl
theorem chainPost_outline (p g : Nat) (w : Work) : (chainPost p g w).outline = w.outline := by
  unfold chainPost
  split <;> rfl
theorem foldl_outline {α : Type} {f : Work → α → Work} (hf : ∀ w x, (f w x).outline = w.outline) (xs : List α) (w : Work) :
    (xs.foldl f w).outline = w.outline :=
  List.foldlRecOn (motive := fun y : Work => y.outline = w.outline) xs f rfl fun y hy x _ => (hf y x).trans hy
/-- The operations of a published unit change of the launches only gains, residuals and chains (R398). -/
theorem deferred_outline (s : State) (w : Work) (n unit : Nat) (keep : Bool) : (s.deferred w n unit keep).outline = s.outline := by
  unfold State.deferred
  dsimp only
  change State.outline (if _ then _ else _) = _
  split
  · rfl
  · refine foldl_keeps State.outline _ (fun s o => ?_) _ s
    split
    · exact foldl_keeps State.outline _ (fun s x => modGain_outline s ..) _ s
    · exact modWork_outline s _ fun x => foldl_outline (fun x y => residAdd_outline x _) _ x
    · exact modWork_outline s _ fun x => foldl_outline (fun x y => chainPost_outline _ _ x) _ x
    · rfl
theorem deferred_works (s : State) (w : Work) (n unit : Nat) : (s.deferred w n unit false).works = s.works := rfl

/-- What the publication of a position does to its launch, once the deferred operations have taken effect. -/
def State.publishNow (s : State) (w : Work) (n unit : Nat) (faulted : Bool) : State :=
  let s := s.trace taskSrc w.ctx 2 (traceBits (s.clockOf .task) 0 (w.virt n) 0 w.ctx 0 0 0 4)
  let s := (s.progress none).dropReq w.id (some n)
  let s := s.modWork w.id fun x =>
    let x := if faulted && unit != 0 then { x with faults := x.faults + 1 } else x
    let x := if (gainModeJob x).isSome then x.gainPublish n faulted else x.setPos n (.published faulted)
    if x.job.isNone && x.pos.all PosState.isPublished then { x with finished := true } else x
  if ((s.work? w.id).map fun x => x.job.isNone && x.finished).getD false then s.dropReq w.id none else s
theorem publish_eq (s : State) (w : Work) (n unit : Nat) (faulted : Bool) : s.publish w n unit faulted =
    (if w.cfg.det = 2 then s.deferred w n unit true else s).publishNow w n unit faulted := rfl

/-! What a published position leaves of its launch: its faults counted, its position settled, the launch ended with its last one. -/

def Work.countFault (x : Work) (unit : Nat) (faulted : Bool) : Work := if faulted && unit != 0 then { x with faults := x.faults + 1 } else x
def Work.settlePos (x : Work) (n : Nat) (faulted : Bool) : Work :=
  if (gainModeJob x).isSome then x.gainPublish n faulted else x.setPos n (.published faulted)
def Work.endAll (x : Work) : Work := if x.job.isNone && x.pos.all PosState.isPublished then { x with finished := true } else x
def Work.publishedAt (x : Work) (n unit : Nat) (faulted : Bool) : Work := ((x.countFault unit faulted).settlePos n faulted).endAll
theorem countFault_eq (x : Work) (unit : Nat) (faulted : Bool) : x.countFault unit faulted =
    { x with faults := if faulted = true ∧ unit ≠ 0 then x.faults + 1 else x.faults } := by
  unfold Work.countFault
  by_cases h : faulted = true ∧ unit ≠ 0
  · rw [if_pos h, if_pos (by simpa using h)]
  · rw [if_neg h, if_neg (by simpa using h)]
theorem settlePos_grid {x : Work} (hj : x.job = none) (n : Nat) (faulted : Bool) : x.settlePos n faulted = x.setPos n (.published faulted) := by
  have hgain : (gainModeJob x).isSome = false := by
    rw [gainModeJob, hj]
    rfl
  rw [Work.settlePos, hgain]
  rfl
theorem endAll_grid {x : Work} (hj : x.job = none) : x.endAll = { x with finished := x.finished || x.pos.all PosState.isPublished } := by
  have hcond : (x.job.isNone && x.pos.all PosState.isPublished) = x.pos.all PosState.isPublished := by
    rw [hj]
    rfl
  rw [Work.endAll, hcond]
  by_cases hall : x.pos.all PosState.isPublished = true
  · rw [if_pos hall, hall, Bool.or_true]
  · rw [if_neg hall, Bool.eq_false_iff.2 hall, Bool.or_false]
theorem publishedAt_grid {x : Work} (hj : x.job = none) (n unit : Nat) (faulted : Bool) : x.publishedAt n unit faulted = { x with
    pos := (x.setPos n (.published faulted)).pos
    faults := if faulted = true ∧ unit ≠ 0 then x.faults + 1 else x.faults
    finished := x.finished || (x.setPos n (.published faulted)).pos.all PosState.isPublished } := by
  rw [Work.publishedAt, countFault_eq, settlePos_grid (by exact hj), endAll_grid (by exact hj)]
  rfl
theorem publishedAt_id (x : Work) (n unit : Nat) (faulted : Bool) : (x.publishedAt n unit faulted).id = x.id := by
  have hend (y : Work) : y.endAll.id = y.id := by
    unfold Work.endAll
    split <;> rfl
  have hsettle (y : Work) : (y.settlePos n faulted).id = y.id := by
    unfold Work.settlePos
    split
    · exact gainTest_id _
    · rfl
  rw [Work.publishedAt, hend, hsettle, countFault_eq]
theorem release_eq (s : State) (ctx : Nat) (held : List Nat) : ∃ holds pins, s.release ctx held =
    { s with home := { s.home with holds := holds, pins := pins } } := ⟨_, _, rfl⟩
theorem dropReq_keeps (s : State) (work : Nat) (who : Option Nat) : (s.dropReq work who).home.mem = s.home.mem ∧
    (s.dropReq work who).irqs = s.irqs ∧ (s.dropReq work who).units = s.units := by
  unfold State.dropReq
  split
  · exact ⟨rfl, rfl, rfl⟩
  · exact ⟨rfl, rfl, rfl⟩
theorem work?_dropReq {s : State} {id : Nat} {w : Work} (hw : s.work? id = some w) (who : Option Nat) :
    (s.dropReq id who).work? id = some { w with reqs := w.reqs.filter (·.who != who) } := by
  obtain ⟨home, hdrop⟩ := dropReq_eq hw who
  rw [hdrop]
  exact work?_modWork_self (s := { s with home := home }) hw fun _ => rfl
theorem trace_eq (s : State) (src ctx bit : Nat) (data : BitVec 256) : ∃ watch, s.trace src ctx bit data = { s with watch := watch } := by
  unfold State.trace
  split
  · exact ⟨_, rfl⟩
  · exact ⟨s.watch, rfl⟩
/-- R332: a position of a grid is published. -/
theorem publishNow_does {s : State} {w y : Work} (hy : s.work? w.id = some y) (hj : y.job = none) (n unit : Nat) (faulted : Bool) :
    (s.publishNow w n unit faulted).home.mem = s.home.mem ∧ (s.publishNow w n unit faulted).irqs = s.irqs ∧
      ∃ x, (s.publishNow w n unit faulted).work? w.id = some x ∧ x.pos = (y.setPos n (.published faulted)).pos ∧
        (x.finished = true ↔ y.finished = true ∨ ∀ p ∈ (y.setPos n (.published faulted)).pos, p.isPublished = true) ∧
        x.faults = if faulted = true ∧ unit ≠ 0 then y.faults + 1 else y.faults := by
  obtain ⟨watch, htrace⟩ := trace_eq s taskSrc w.ctx 2 (traceBits (s.clockOf .task) 0 (w.virt n) 0 w.ctx 0 0 0 4)
  let t : State := State.progress { s with watch := watch } none
  let z : Work := { y with reqs := y.reqs.filter (·.who != some n) }
  let r : State := (t.dropReq w.id (some n)).modWork w.id (·.publishedAt n unit faulted)
  have hpublish : s.publishNow w n unit faulted =
      if ((r.work? w.id).map fun x => x.job.isNone && x.finished).getD false then r.dropReq w.id none else r := by
    unfold State.publishNow
    rw [htrace]
    rfl
  obtain ⟨hmem, hirqs, -⟩ := dropReq_keeps t w.id (some n)
  have hdrop : (t.dropReq w.id (some n)).work? w.id = some z := work?_dropReq (s := t) hy (some n)
  have hwork : r.work? w.id = some (z.publishedAt n unit faulted) :=
    work?_modWork_self hdrop fun x => publishedAt_id x n unit faulted
  have hdone : ((z.publishedAt n unit faulted).finished = true ↔
      y.finished = true ∨ ∀ p ∈ (y.setPos n (.published faulted)).pos, p.isPublished = true) := by
    rw [publishedAt_grid (x := z) hj, Bool.or_eq_true, List.all_eq_true]
    rfl
  have hpos : (z.publishedAt n unit faulted).pos = (y.setPos n (.published faulted)).pos := by
    rw [publishedAt_grid (x := z) hj]
    rfl
  have hfaults : (z.publishedAt n unit faulted).faults = if faulted = true ∧ unit ≠ 0 then y.faults + 1 else y.faults := by
    rw [publishedAt_grid (x := z) hj]
  rw [hpublish]
  split
  · obtain ⟨hmem', hirqs', -⟩ := dropReq_keeps r w.id none
    exact ⟨hmem'.trans hmem, hirqs'.trans hirqs, _, work?_dropReq hwork none, hpos, hdone, hfaults⟩
  · exact ⟨hmem, hirqs, _, hwork, hpos, hdone, hfaults⟩

/-- What a publication leaves of memory, of the vectors and of its launch's positions. -/
def State.publishes (s t : State) (w : Work) (n : Nat) (faulted : Bool) : Prop := t.home.mem = s.home.mem ∧ t.irqs = s.irqs ∧
  ∃ x, t.work? w.id = some x ∧ x.pos = (w.setPos n (.published faulted)).pos
theorem publish_does {s : State} {w y : Work} (hy : s.work? w.id = some y) (ho : y.outline = w.outline) (hj : w.job = none) (n unit : Nat)
    (faulted : Bool) : s.publishes (s.publish w n unit faulted) w n faulted := by
  have hafter {t : State} (ht : t.outline = s.outline) : s.publishes (t.publishNow w n unit faulted) w n faulted := by
    obtain ⟨hhome, hrest⟩ := Prod.mk.injEq .. ▸ ht
    obtain ⟨hirqs, hworks⟩ := Prod.mk.injEq .. ▸ hrest
    obtain ⟨z, hz, hzo⟩ := work?_outline hworks hy
    obtain ⟨-, hpos, hjob⟩ := (by simpa [Work.outline] using hzo.trans ho : z.id = w.id ∧ z.pos = w.pos ∧ z.job = w.job)
    obtain ⟨hmem, hirq, x, hx, hxpos, -⟩ := publishNow_does hz (hjob.trans hj) n unit faulted
    refine ⟨hmem.trans (congrArg Home.mem hhome), hirq.trans hirqs, x, hx, hxpos.trans ?_⟩
    simp only [Work.setPos, hpos]
  rw [publish_eq]
  split
  · exact hafter (deferred_outline ..)
  · exact hafter rfl

section
variable {s : State} {w : Work} {n unit d time : Nat} {faulted again : Bool} (hw : s.work? w.id = some w)
  (hp : w.pos[n]? = some (.finished unit faulted d again time))
include hw hp
theorem exec_retirementPublish : exec (.retirementPublish w.id n) s = .next (s.publishAt w n unit faulted d again time) := by
  change execRetirementPublish w.id n s = _
  simp only [execRetirementPublish, hw, hp]
theorem retirementPublish_waits (h : (gainModeJob w).isNone = true ∧ w.oldest ≠ n ∨ s.clockOf .task < time ∨ s.updatesLeft w unit = true) :
    exec (.retirementPublish w.id n) s = .next s := by
  rw [exec_retirementPublish hw hp]
  refine congrArg _ (if_pos ?_)
  simpa [or_assoc] using h
/-- A position that is due is published, or its digest compared (R332, R396). -/
theorem exec_retirementPublish_due (hold : w.oldest = n) (htime : time ≤ s.clockOf .task) (hleft : s.updatesLeft w unit = false) :
    exec (.retirementPublish w.id n) s = .next (
      if w.cfg.det = 0 ∨ faulted = true then s.publish w n unit faulted
      else if w.cfg.det = 1 then
        State.publish { s with home := (writePhys s.home (s.digestAddr w (w.virt n)) (natBytes 8 d)).1 } w n unit false
      else if (poisonedIn s.home (s.digestAddr w (w.virt n)) 8).isSome then
        (s.deferred w n unit false).digestFault w n unit 0x11 (s.digestAddr w (w.virt n)) w.cfg.entry.toNat
      else if bytesNat (memRead s.home.mem (s.digestAddr w (w.virt n)) 8) = d then s.publish w n unit false
      else if again then (s.deferred w n unit false).digestFault w n unit 0x14 (bytesNat (memRead s.home.mem (s.digestAddr w (w.virt n)) 8)) d
      else (s.deferred w n unit false).modWork w.id fun x => x.setPos n .rerun) := by
  rw [exec_retirementPublish hw hp]
  refine congrArg _ ?_
  have hdue : ¬ ((gainModeJob w).isNone && w.oldest != n || s.clockOf .task < time || s.updatesLeft w unit) = true := by
    simp [hold, hleft, Nat.not_lt.2 htime]
  unfold State.publishAt
  dsimp only
  rw [if_neg hdue]
  simp only [Bool.or_eq_true, decide_eq_true_eq]
end
theorem digestFault_does {s : State} {w : Work} (hw : s.work? w.id = some w) (hj : w.job = none) (n unit code det0 det1 : Nat) :
    (s.digestFault w n unit code det0 det1).irqs = (32 + w.queue) :: s.irqs ∧
      ∃ x, (s.digestFault w n unit code det0 det1).work? w.id = some x ∧ x.pos = (w.setPos n (.published true)).pos := by
  have hposted := posted_postTask s w.queue { plainRecord code w.launchid det0 det1 with idx := w.virt n, user := s.userAt w n }
  obtain ⟨-, hirqs, hwork⟩ := publish_does ((work?_congr hposted.works _).trans hw) rfl hj n unit true
  exact ⟨hirqs.trans hposted.irqs, hwork⟩
theorem poisonedIn_none {h : Home} {pa n : Nat} : (poisonedIn h pa n).isSome = false ↔ ∀ p ∈ h.poison, overlaps p 8 pa n = false := by
  have hnil : (poisonedIn h pa n).isSome = false ↔ h.poison.filter (fun u => overlaps u 8 pa n) = [] := by
    unfold poisonedIn
    cases h.poison.filter fun u => overlaps u 8 pa n <;> simp
  simp only [hnil, List.filter_eq_nil_iff, Bool.not_eq_true]
theorem digestAddr_mod (s : State) (w : Work) (i : Nat) : s.digestAddr w i % 8 = 0 := by
  have hslot (k : Nat) : Config.slotBytes * k % 8 = 0 := by
    rw [show Config.slotBytes = 8 * 2 ^ 24 from rfl, Nat.mul_assoc, Nat.mul_mod_right]
  have hk := hslot (s.ctx w.ctx).slots.toNat
  unfold State.digestAddr
  dsimp only
  omega

/-! ### A second run of a position (R397) -/

/-- The unit that the second run of a position makes. -/
def State.againArgs (s : State) (w : Work) (n pcl slot : Nat) (ws : List Window) : PlaceArgs :=
  ⟨w, w.virt n, ws ++ List.replicate 8 Window.unused, none, 0, (s.fitting w.cfg pcl).take w.cfg.csize, pcl, slot, true⟩
theorem commitAt_again {s : State} {w : Work} {ws : List Window} {slot : Nat} (hw : s.work? w.id = some w)
    (hws : s.launchWins w = .ok ws) (hslot : s.freeSave w.ctx = some slot) (hcode : codeReads s w.cfg w.ctx) (n pcl : Nat) :
    ∃ t, s.commitAt w n pcl true = some t ∧ seats s t (s.againArgs w n pcl slot ws) ∧ t.work? w.id = some (w.setPos n .placed) := by
  let r : State := (s.commit (s.againArgs w n pcl slot ws)).modWork w.id fun x => x.setPos n .placed
  obtain ⟨c, hc⟩ := cacheRecs_caches r w.ctx (placeSpans w)
  obtain ⟨hworks, -⟩ := commit_keeps s (s.againArgs w n pcl slot ws)
  refine ⟨r.cacheRecs w.ctx (placeSpans w), ?_, seats_congr (t := r) (commit_seats hcode) ⟨c, ?_⟩ ?_ ?_, ?_⟩
  · simp only [State.commitAt, hws, hslot, codeReady_of_reads hcode, Bool.not_true, Bool.false_eq_true, if_false]
    rfl
  · rw [hc]
  · rw [hc]
  · rw [hc]
  · rw [work?_congr (congrArg State.works hc)]
    exact work?_modWork_self ((work?_congr hworks _).trans hw) fun _ => rfl
theorem verifyRerun_does {s : State} {w : Work} {n pcl slot : Nat} {ws : List Window} (hw : s.work? w.id = some w)
    (hws : s.launchWins w = .ok ws) (hj : w.job = none) (hp : w.pos[n]? = some .rerun) (hnone : w.unitsOf s = [])
    (hheld : (s.ctx w.ctx).held = false) (htop : s.topPriority w = true) (hturn : s.itsTurn w = true) (hpcl : s.choose w.cfg = some pcl)
    (hslot : s.freeSave w.ctx = some slot) (hcode : codeReads s w.cfg w.ctx) : Does (.verifyRerun w.id n) s fun t =>
      t.work? w.id = some (w.setPos n .placed) ∧ t.lastPcl = some pcl ∧ natGet t.turns w.cfg.priority = w.queue + 1 ∧
        seats s t (s.againArgs w n pcl slot ws) := by
  obtain ⟨t, hcommit, hseats, hwork⟩ := commitAt_again hw hws hslot hcode n pcl
  have hfailed : (s.launchWins w).failed = none := by
    rw [hws]
    rfl
  have hexec : exec (.verifyRerun w.id n) s = .next { t.tookTurn w with lastPcl := some pcl } := by
    change execVerifyRerun w.id n s = _
    simp only [execVerifyRerun, hw, hp, hnone, hheld, htop, hj, hturn, hfailed, hpcl, hcommit, Option.bind_some, Option.map_some,
      bne_self_eq_false, Bool.not_true, Bool.or_self, Bool.false_eq_true, if_false]
  rw [tookTurn_eq hj] at hexec
  exact ⟨_, hexec, hwork, rfl, natGet_natSet_self _ _ (Nat.succ_ne_zero _), seats_congr hseats ⟨t.home.tlb, rfl⟩ rfl rfl⟩

/-! ### The end of a job (R340, R346, R373) -/

theorem writeSpan_works (s : State) (ctx : Nat) (sp : Space) (a : Nat) (bs : List Byte) (c : Nat) :
    (s.writeSpan ctx sp a bs c).1.works = s.works := by
  obtain ⟨⟨m, o, hm⟩, -⟩ := writes_writeSpan s ctx sp a bs c
  rw [hm]
theorem writeVA_works {s t : State} {ctx va : Nat} {bs : List Byte} {c g : Nat} {bad : Option Nat}
    (h : s.writeVA ctx va bs c = some (t, g, bad)) : t.works = s.works := by
  unfold State.writeVA at h
  split at h
  · cases h
    rfl
  · split at h
    · cases h
    · cases h
      exact writeSpan_works ..
/-- A job's results are written with its launch still standing. -/
theorem writeFields_work? {w : Work} {tclear : Nat} {fs : List (Nat × List Byte)} {s t : State} {y : Work} (hy : s.work? w.id = some y)
    (h : s.writeFields w tclear fs = some t) : ∃ x, t.work? w.id = some x := by
  induction fs generalizing s y with
  | nil =>
    cases h
    exact ⟨y, hy⟩
  | cons f fs ih =>
    unfold State.writeFields at h
    split at h
    · cases h
    · next r g bad hwrite =>
      have hwork := work?_modWork_self ((work?_congr (writeVA_works hwrite) _).trans hy)
        (f := fun x => { x with gwct := max x.gwct g, lost := lowerLoss x.lost f.1 bad }) fun _ => rfl
      dsimp only at h
      split at h
      · exact ih ((work?_congr (progress_works ..) _).trans hwork) h
      · exact ih hwork h

section
variable {s : State} {w : Work} {j : JobCfg} {stop : Nat} (hw : s.work? w.id = some w) (hj : w.job = some j) (hfin : w.finished = false)
  (hstop : w.stopCode j = some stop)
include hw hj hfin hstop
theorem jobEnd_results {t : State} (h0 : w.ending = 0)
    (hwrite : s.writeFields w 0 ((if j.gainMode then gainFields w j else []) ++ resultFields w j) = some t) :
    Does (.jobEnd w.id) s fun r => r.home = t.home ∧ ∃ x, r.work? w.id = some x ∧ x.ending = 1 := by
  obtain ⟨y, hy⟩ := writeFields_work? hw hwrite
  refine ⟨t.modWork w.id fun x => { x with ending := 1 }, ?_, rfl, _, work?_modWork_self hy fun _ => rfl, rfl⟩
  change execJobEnd w.id s = _
  simp only [execJobEnd, hw, hj, Option.bind_some, hstop, hfin, h0, hwrite, Bool.false_eq_true, if_false, if_true]
theorem jobEnd_stop {a pa : Nat} (h1 : w.ending = 1) (hlost : w.lost = none) (hmap : s.mapAddr w.ctx (j.card + 72) 1 = some (.local, a))
    (hwritable : writable s w.ctx a 1 pa) : Does (.jobEnd w.id) s fun r => wrote s r pa [BitVec.ofNat 8 stop] ∧
      ∃ x, r.work? w.id = some x ∧ x.ending = 2 ∧ x.lost = none := by
  have hbytes : natBytes 1 stop = [BitVec.ofNat 8 stop] := rfl
  have hline : a % 256 + [BitVec.ofNat 8 stop].length ≤ 256 := by
    rw [List.length_singleton]
    omega
  obtain ⟨t, hspan, hwrote, -⟩ := writeSpan_of_writable hline hwritable w.gwct
  have hworks : t.works = s.works := by
    have h := writeSpan_works s w.ctx .local a [BitVec.ofNat 8 stop] w.gwct
    rwa [hspan] at h
  obtain ⟨-, -, htranslate, -⟩ := hwritable
  have hbusy : s.spanBusy w.ctx .local a 1 = false := by
    rw [State.spanBusy, lineParts_of_line Nat.one_pos (by omega)]
    simp [htranslate]
  let f : Work → Work := fun x => { x with gwct := max x.gwct (gwct s a 1 0 w.gwct), lost := lowerLoss x.lost (j.card + 72) none }
  let r : State := (t.modWork w.id f).progress none
  have hwrite : s.writeFields w w.gwct [(j.card + 72, natBytes 1 stop)] = some r := by
    simp only [State.writeFields, State.writeVA, hbytes, List.length_singleton, hmap, hbusy, hspan, Option.map_none, Option.isNone_none,
      Bool.false_eq_true, if_false, if_true]
    rfl
  have hwork : r.work? w.id = some (f w) := work?_modWork_self (s := t) ((work?_congr hworks _).trans hw) fun _ => rfl
  have hkept : (f w).lost = none := by
    change lowerLoss w.lost (j.card + 72) none = none
    rw [hlost]
    rfl
  refine ⟨r.modWork w.id fun x => { x with ending := 2 }, ?_, hwrote, _, work?_modWork_self hwork fun _ => rfl, rfl, hkept⟩
  change execJobEnd w.id s = _
  simp only [execJobEnd, hw, hj, Option.bind_some, hstop, hfin, h1, hwrite, hwork, hkept, Bool.false_eq_true, if_false, if_true,
    Nat.one_ne_zero]
theorem jobEnd_ends (h2 : w.ending = 2) (hg : w.gwct ≤ s.clockOf .task) (hreqs : w.reqs = []) : Does (.jobEnd w.id) s fun r =>
    r.home = s.home ∧ r.units = s.units ∧ (w.child = false → r.work? w.id = some { w with finished := true }) ∧
      (w.child = true → r.work? w.id = none) := by
  have hexec : exec (.jobEnd w.id) s = .next (if w.child then { s with works := s.works.filter (·.id != w.id) }
      else s.modWork w.id fun x => { x with finished := true }) := by
    change execJobEnd w.id s = _
    simp only [execJobEnd, hw, hj, Option.bind_some, hstop, hfin, h2, Nat.not_lt.2 hg, hreqs, List.foldl_nil, Bool.false_eq_true, if_false]
    rfl
  refine ⟨_, hexec, ?_⟩
  by_cases hchild : w.child = true
  · rw [if_pos hchild]
    refine ⟨rfl, rfl, fun h => absurd hchild (by rw [h]; exact Bool.false_ne_true), fun _ => List.find?_eq_none.2 fun x hx => ?_⟩
    simpa using (List.mem_filter.1 hx).2
  · rw [if_neg hchild]
    exact ⟨rfl, rfl, fun _ => work?_modWork_self hw fun _ => rfl, fun h => absurd h hchild⟩
end

theorem gainModeJob_none {w : Work} (h : w.job.all (·.gainMode == false) = true) : (gainModeJob w).isNone = true := by
  unfold gainModeJob
  cases hj : w.job with
  | none => rfl
  | some j =>
    have hmode : j.gainMode = false := by simpa [hj] using h
    simp [hmode]

/-- Settles O56, by what an item's effect, a unit's leaving, a publication, a second run and a job's end leave. -/
theorem taskEnds : Obligations.TaskEnds := by
  unfold Obligations.TaskEnds
  refine ⟨?_, ?_, ?_⟩
  · intro s o work w ho hw
    refine ⟨fun set idx l i v rest g hk hready hfirst hg => ?_, fun l v rest hk hready hfirst hnum => ?_,
      fun l v rest hk hready hfirst hnan => ?_, fun l p rest hk hready hfirst => ordpostEffect_does ho hw hk hready hfirst⟩
    · intro x y stored sum g'
      have hdoes := gainUpdateApply_does ho hw hk hready hfirst hg
      rwa [gainUpdate_eq] at hdoes
    · have hdoes := residualUpdateApply_does ho hw hk hready hfirst
      rwa [residAdd_number hnum] at hdoes
    · obtain ⟨t, hexec, -, -, hwork, -⟩ := residualUpdateApply_does ho hw hk hready hfirst
      exact ⟨t, hexec, hwork.trans (by rw [residAdd_nan hnan])⟩
  · intro s w n hw
    refine ⟨fun u hp hu hdone hclean => retirementPublish_leaves hw hp hu hdone hclean, ?_,
      fun pcl slot ws hws hj hp hnone hheld htop hturn hpcl hslot hcode =>
        verifyRerun_does hw hws hj hp hnone hheld htop hturn hpcl hslot hcode⟩
    intro unit faulted d again time hp entry clean due
    refine ⟨fun hold hgain => retirementPublish_waits hw hp (.inl ⟨?_, hold⟩), fun ht => retirementPublish_waits hw hp (.inr (.inl ht)),
      fun hl => retirementPublish_waits hw hp (.inr (.inr hl)), ?_, ?_, ?_, ?_, ?_⟩
    · exact gainModeJob_none hgain
    · rintro ⟨hold, hj, htime, hleft⟩ hdet
      have hexec := exec_retirementPublish_due hw hp hold htime hleft
      rw [if_pos (.inl hdet), publish_eq, if_neg (by omega)] at hexec
      obtain ⟨hmem, -, x, hx⟩ := publishNow_does hw hj n unit faulted
      exact ⟨_, hexec, hmem, x, hx⟩
    · rintro ⟨hold, hj, htime, hleft⟩ hdet hfaulted hm hpoison
      have hexec := exec_retirementPublish_due hw hp hold htime hleft
      rw [if_neg (by simp [hdet, hfaulted]), if_pos hdet] at hexec
      obtain ⟨hmem, -⟩ := publish_does (s := { s with home := (writePhys s.home entry (natBytes 8 d)).1 }) hw rfl hj n unit false
      refine ⟨_, hexec, fun x => (congrArg (memGet · x) hmem).trans (writePhys_get_whole hm.1 (fun u hu i hi ho => ?_) x)⟩
      exact within_of_aligned (hpoison u hu) (digestAddr_mod ..) (by rw [natBytes_length]) hi ho
    · rintro ⟨hold, hj, htime, hleft⟩ hdet hfaulted hclean hsame
      have hexec := exec_retirementPublish_due hw hp hold htime hleft
      rw [if_neg (by simp [hdet, hfaulted]), if_neg (by omega), poisonedIn_none.2 hclean, if_neg Bool.false_ne_true, if_pos hsame] at hexec
      obtain ⟨hmem, -, hwork⟩ := publish_does hw rfl hj n unit false
      exact ⟨_, hexec, hmem, hwork⟩
    · rintro ⟨hold, hj, htime, hleft⟩ hdet hfaulted hclean hagain hdiff
      have hexec := exec_retirementPublish_due hw hp hold htime hleft
      rw [if_neg (by simp [hdet, hfaulted]), if_neg (by omega), poisonedIn_none.2 hclean, if_neg Bool.false_ne_true, if_neg hdiff,
        hagain, if_neg Bool.false_ne_true] at hexec
      exact ⟨_, hexec, rfl, work?_modWork_self (s := s.deferred w n unit false) hw fun _ => rfl⟩
    · rintro ⟨hold, hj, htime, hleft⟩ hdet hfaulted hlost
      have hexec := exec_retirementPublish_due hw hp hold htime hleft
      rw [if_neg (by simp [hdet, hfaulted]), if_neg (by omega)] at hexec
      have hfault (code det0 det1 : Nat) := digestFault_does (s := s.deferred w n unit false) hw hj n unit code det0 det1
      by_cases hclean : clean
      · obtain ⟨hagain, hdiff⟩ := hlost.resolve_left (not_not.2 hclean)
        rw [poisonedIn_none.2 hclean, if_neg Bool.false_ne_true, if_neg hdiff, hagain, if_pos rfl] at hexec
        exact ⟨_, hexec, hfault ..⟩
      · rw [if_pos (by rw [← Bool.not_eq_false, poisonedIn_none]; exact hclean)] at hexec
        exact ⟨_, hexec, hfault ..⟩
  · intro s w j stop hw hj hfin hstop
    exact ⟨fun t h0 hwrite => jobEnd_results hw hj hfin hstop h0 hwrite,
      fun a pa h1 hlost hmap hwritable => jobEnd_stop hw hj hfin hstop h1 hlost hmap hwritable, jobEnd_ends hw hj hfin hstop⟩

end Sys2Proof.Machine
end

section
/-! Proof of how stores, releases and atomics are applied and acknowledged (R30, R356, R407, R411 to R413, R423, R438 to R444, R495). -/

namespace Sys2Proof.Machine

/-! ### What slices keep of a walk changes no translation (R353) -/

theorem bytesNat_bound (bs : List Byte) : bytesNat bs < 2 ^ (8 * bs.length) := by
  induction bs with
  | nil => exact Nat.one_pos
  | cons b bs ih =>
    have hb : b.toNat < 256 := b.isLt
    have hpow : 2 ^ (8 * (bs.length + 1)) = 256 * 2 ^ (8 * bs.length) := by rw [Nat.mul_succ, Nat.pow_add]; omega
    rw [List.length_cons, hpow, bytesNat]
    omega
theorem memRead_length (m : Memory) (a n : Nat) : (memRead m a n).length = n := by
  induction n generalizing a with
  | zero => rfl
  | succ n ih => rw [memRead, List.length_cons, ih]
/-- A table entry as it stands in memory, none where it is poisoned. -/
def Home.entry (h : Home) (pa : Nat) : Option Nat := if (poisonedIn h pa 8).isSome then none else some (bytesNat (memRead h.mem pa 8))
theorem entry_lt {h : Home} {pa e : Nat} (he : h.entry pa = some e) : e < 2 ^ 64 := by
  unfold Home.entry at he
  split at he
  · cases he
  · cases he
    have hlt := bytesNat_bound (memRead h.mem pa 8)
    rwa [memRead_length] at hlt
/-- A state whose slices keep one table entry more. -/
def State.keeping (s : State) (ctx level k e : Nat) : State := { s with home := s.home.keepEntry ctx level k e }
/-- An entry that a slice has read of memory, kept, reads as before; so does every other one. -/
theorem entryAt_keeping {s : State} {ctx level l k e ia pa : Nat}
    (h : l = level → k = slotNo level ia → s.entryAt ctx level ia pa = some e) :
    (s.keeping ctx l k e).entryAt ctx level ia pa = s.entryAt ctx level ia pa := by
  unfold State.keeping Home.keepEntry
  split
  · rfl
  · next hnew =>
    by_cases hkey : l = level ∧ k = slotNo level ia
    · obtain ⟨rfl, rfl⟩ := hkey
      have hread := h rfl rfl
      have hnone : (s.home.tlb.find? fun (c, l', n, _) => c == ctx && l' == l && n == slotNo l ia) = none :=
        List.find?_eq_none.2 fun x hx hmatch => hnew (List.any_eq_true.2 ⟨x, hx, hmatch⟩)
      have hfresh : s.entryAt ctx l ia pa = s.home.entry pa := by
        unfold State.entryAt
        dsimp only
        rw [hnone]
        rfl
      have hentry := hfresh.symm.trans hread
      have hval : (BitVec.ofNat 64 e).toNat = e := by rw [BitVec.toNat_ofNat, Nat.mod_eq_of_lt (entry_lt hentry)]
      rw [hfresh]
      unfold State.entryAt
      dsimp only
      rw [List.find?_cons_of_pos (by simp)]
      dsimp only
      change (if (s.home.entry pa == some (BitVec.ofNat 64 e).toNat) = true then s.home.entry pa else _) = _
      rw [hval, hentry, if_pos (beq_self_eq_true _)]
    · unfold State.entryAt
      dsimp only
      rw [List.find?_cons_of_neg (by simpa using hkey)]
      rfl
/-- A state whose slices keep the entries of a walk. -/
def State.keepingAll (s : State) (ctx x : Nat) (es : List (Nat × Nat)) : State :=
  es.foldl (fun s e => s.keeping ctx e.1 (slotNo e.1 x) e.2) s
theorem entryAt_keepingAll {ctx x level ia pa : Nat} {es : List (Nat × Nat)} {s : State}
    (h : ∀ y ∈ es, y.1 = level → slotNo level x = slotNo level ia → s.entryAt ctx level ia pa = some y.2) :
    (s.keepingAll ctx x es).entryAt ctx level ia pa = s.entryAt ctx level ia pa := by
  induction es generalizing s with
  | nil => rfl
  | cons y es ih =>
    have hone : (s.keeping ctx y.1 (slotNo y.1 x) y.2).entryAt ctx level ia pa = s.entryAt ctx level ia pa :=
      entryAt_keeping fun hl hk => h y List.mem_cons_self hl (by rw [← hl, hk, hl])
    refine (ih fun z hz hl hk => ?_).trans hone
    exact hone.trans (h z (List.mem_cons_of_mem _ hz) hl hk)
theorem slotNo_succ (level ia : Nat) : slotNo (level + 1) ia = slotNo level ia / 2 ^ 9 := by
  rw [slotNo, slotNo, Nat.div_div_eq_div_mul, ← Nat.pow_add]
  congr 2
theorem bitsOf_slot (level ia : Nat) : bitsOf ia (12 + 9 * level) 9 = slotNo level ia % 2 ^ 9 := rfl
/-- The levels of a walk's entries lie below the one that it starts at. -/
theorem walkFrom_levels (s : State) (ctx x k table : Nat) : ∀ y ∈ (s.walkFrom ctx x k table).2, y.1 < k := by
  induction k generalizing table with
  | zero => exact fun y hy => absurd hy List.not_mem_nil
  | succ level ih =>
    intro y hy
    unfold State.walkFrom at hy
    dsimp only at hy
    split at hy
    · exact absurd hy List.not_mem_nil
    · split at hy
      · exact absurd hy List.not_mem_nil
      · split at hy
        · split at hy
          · obtain rfl := List.mem_singleton.1 hy
            exact Nat.lt_succ_self level
          · exact absurd hy List.not_mem_nil
        · split at hy
          · exact absurd hy List.not_mem_nil
          · rcases List.mem_cons.1 hy with rfl | hy
            · exact Nat.lt_succ_self level
            · exact Nat.lt_succ_of_lt (ih _ y hy)
/-- The first entry of a walk is the one that the slice reads at its table; the others are those of the walk from the next. -/
theorem walkFrom_entry {s : State} {ctx x level table : Nat} {y : Nat × Nat} (hy : y ∈ (s.walkFrom ctx x (level + 1) table).2) :
    (y.1 = level → s.entryAt ctx level x (table + 8 * bitsOf x (12 + 9 * level) 9) = some y.2) ∧
      (y.1 < level → ∀ e, s.entryAt ctx level x (table + 8 * bitsOf x (12 + 9 * level) 9) = some e →
        y ∈ (s.walkFrom ctx x level (bitsOf e 12 40 * 4096)).2) := by
  unfold State.walkFrom at hy
  dsimp only at hy
  split at hy
  · exact absurd hy List.not_mem_nil
  · next e he =>
    split at hy
    · exact absurd hy List.not_mem_nil
    · split at hy
      · split at hy
        · obtain rfl := List.mem_singleton.1 hy
          exact ⟨fun _ => he, fun hlt => absurd hlt (Nat.lt_irrefl _)⟩
        · exact absurd hy List.not_mem_nil
      · split at hy
        · exact absurd hy List.not_mem_nil
        · rcases List.mem_cons.1 hy with rfl | hy
          · exact ⟨fun _ => he, fun hlt => absurd hlt (Nat.lt_irrefl _)⟩
          · refine ⟨fun heq => absurd (walkFrom_levels _ _ _ _ _ y hy) (by omega), fun _ e' he' => ?_⟩
            obtain rfl := Option.some.inj (he.symm.trans he')
            exact hy
/-- A walk meets what it met, whatever entries of another walk the slices keep. -/
theorem walkFrom_keepingAll {s : State} {ctx x ia : Nat} {es : List (Nat × Nat)} {k table : Nat}
    (h : ∀ y ∈ es, y.1 < k → slotNo k x = slotNo k ia → y ∈ (s.walkFrom ctx x k table).2) :
    (s.keepingAll ctx x es).walkFrom ctx ia k table = s.walkFrom ctx ia k table := by
  induction k generalizing table with
  | zero => rfl
  | succ level ih =>
    have hup : slotNo level x = slotNo level ia → slotNo (level + 1) x = slotNo (level + 1) ia := fun hk => by
      rw [slotNo_succ, slotNo_succ, hk]
    have hsame (hk : slotNo level x = slotNo level ia) (pa : Nat) : s.entryAt ctx level x pa = s.entryAt ctx level ia pa := by
      unfold State.entryAt
      rw [hk]
    have hentry : (s.keepingAll ctx x es).entryAt ctx level ia (table + 8 * bitsOf ia (12 + 9 * level) 9) =
        s.entryAt ctx level ia (table + 8 * bitsOf ia (12 + 9 * level) 9) := by
      refine entryAt_keepingAll fun y hy hl hk => ?_
      have hread := (walkFrom_entry (h y hy (by omega) (hup hk))).1 hl
      rwa [hsame hk, bitsOf_slot, hk, ← bitsOf_slot] at hread
    have hnext (e : Nat) (he : s.entryAt ctx level ia (table + 8 * bitsOf ia (12 + 9 * level) 9) = some e) :
        (s.keepingAll ctx x es).walkFrom ctx ia level (bitsOf e 12 40 * 4096) = s.walkFrom ctx ia level (bitsOf e 12 40 * 4096) := by
      refine ih fun y hy hl hk => ?_
      refine (walkFrom_entry (h y hy (by omega) (hup hk))).2 hl e ?_
      rwa [hsame hk, bitsOf_slot, hk, ← bitsOf_slot]
    rw [State.walkFrom, State.walkFrom, hentry]
    dsimp only
    split
    · rfl
    · next e he => rw [hnext e he]
theorem cacheWalk_eq (s : State) (ctx x : Nat) : s.cacheWalk ctx x = s ∨
    s.cacheWalk ctx x = s.keepingAll ctx x (s.walkFrom ctx x 5 ((s.ctx ctx).ptroot.toNat * 4096)).2 := by
  have hfold (es : List (Nat × Nat)) (s : State) : s.keepingAll ctx x es =
      { s with home := es.foldl (fun h y => h.keepEntry ctx y.1 (slotNo y.1 x) y.2) s.home } := by
    induction es generalizing s with
    | nil => rfl
    | cons y es ih => exact ih (s.keeping ctx y.1 (slotNo y.1 x) y.2)
  unfold State.cacheWalk
  split
  · exact .inl rfl
  · split
    · next p es hes =>
      refine .inr ?_
      rw [hfold, hes]
    · exact .inl rfl
theorem translate_cacheWalk (s : State) (ctx x ia : Nat) (write : Bool) :
    (s.cacheWalk ctx x).translate ctx ia write = s.translate ctx ia write := by
  have hcaches := cacheWalk_caches s ctx x
  rcases cacheWalk_eq s ctx x with h | h
  · rw [h]
  · have hwalk : (s.cacheWalk ctx x).walk ctx ia = s.walk ctx ia := by
      obtain ⟨c, hc⟩ := hcaches
      unfold State.walk
      rw [show ((s.cacheWalk ctx x).ctx ctx).ptroot = (s.ctx ctx).ptroot by rw [hc]; rfl, h]
      exact congrArg Prod.fst (walkFrom_keepingAll fun y hy _ _ => hy)
    have hpin : (s.cacheWalk ctx x).pinOf ctx ia = s.pinOf ctx ia := by
      obtain ⟨c, hc⟩ := hcaches
      rw [hc]
      rfl
    unfold State.translate
    rw [hpin, hwalk]
theorem translate_cacheSpan (s : State) (ctx a n ia : Nat) (write : Bool) :
    (s.cacheSpan ctx .local a n).translate ctx ia write = s.translate ctx ia write :=
  foldl_keeps (fun t => t.translate ctx ia write) _ (fun t _ => translate_cacheWalk t ..) _ s
/-- A write stays possible when the slices keep more table entries. -/
theorem writable_cacheSpan {s : State} {ctx a n ia m pa : Nat} (h : writable s ctx ia m pa) : writable (s.cacheSpan ctx .local a n) ctx ia m pa := by
  obtain ⟨hm, hlen, htr, hrest⟩ := h
  have htr' := (translate_cacheSpan s ctx a n ia true).trans htr
  obtain ⟨c, hc⟩ := cacheSpan_caches s ctx .local a n
  rw [hc] at htr' ⊢
  exact ⟨hm, hlen, htr', hrest⟩

/-! ### Bytes put, read back, and marked -/

/-- The bytes of one memory are those of another but for a span, which holds given ones. -/
def Memory.puts (old new : Memory) (a : Nat) (bs : List Byte) : Prop :=
  ∀ x, memGet new x = if a ≤ x ∧ x < a + bs.length then (bs[x - a]?).getD 0 else memGet old x
theorem memRead_getElem? (m : Memory) (a n i : Nat) : (memRead m a n)[i]? = if i < n then some (memGet m (a + i)) else none := by
  induction n generalizing a i with
  | zero => rfl
  | succ n ih =>
    cases i with
    | zero => rfl
    | succ i => rw [memRead, List.getElem?_cons_succ, ih, Nat.add_right_comm a 1 i, Nat.add_assoc]; simp
/-- A memory holds the bytes that are read of it. -/
theorem puts_memRead (m : Memory) (a n : Nat) : m.puts m a (memRead m a n) := by
  intro x
  rw [memRead_length]
  split
  · next h => rw [memRead_getElem?, if_pos (by omega), Option.getD_some]; congr 1; omega
  · rfl
theorem foldl_memSet (bs : List Byte) (m : Memory) (a k : Nat) :
    (bs.zipIdx k).foldl (fun m x => memSet m (a + x.2) x.1) m = memWrite m (a + k) bs := by
  induction bs generalizing m k with
  | nil => rfl
  | cons b bs ih => exact ih (memSet m (a + k) b) (k + 1)
theorem natGet_natSet_of_ne {m : NatMap} {a v : Nat} (hv : v ≠ 0) (x : Nat) : natGet (natSet m a v) x = if x = a then v else natGet m x := by
  by_cases hx : x = a
  · rw [hx, if_pos rfl, natGet_natSet_self _ _ hv]
  · rw [if_neg hx]
    induction m with
    | nil => simp [natSet, natGet, hv, hx]
    | cons y m ih =>
      obtain ⟨b, w⟩ := y
      simp only [natSet, hv, if_false]
      split
      · next hlt =>
        by_cases hxa : x < a
        · simp only [natGet, hx, hxa, if_false, if_true, show ¬ x = b by omega, show x < b by omega]
        · simp only [natGet, hx, hxa, if_false]
      · split
        · next heq => simp only [natGet, hx, if_false, ← heq]
        · simp only [natGet, ih]
theorem foldl_natSet (cs : List Nat) {v : Nat} (hv : v ≠ 0) (m : NatMap) (x : Nat) :
    natGet (cs.foldl (fun m c => natSet m c v) m) x = if x ∈ cs then v else natGet m x := by
  induction cs generalizing m with
  | nil => rfl
  | cons c cs ih =>
    rw [List.foldl_cons, ih, natGet_natSet_of_ne hv]
    by_cases h : x ∈ cs <;> by_cases hc : x = c <;> simp [h, hc]
theorem foldl_mark (bs : List Byte) (m : NatMap) (a k j : Nat) :
    natGet ((bs.zipIdx k).foldl (fun m x => natSet m (a + x.2) 1) m) j = if a + k ≤ j ∧ j < a + k + bs.length then 1 else natGet m j := by
  induction bs generalizing m k with
  | nil => rw [if_neg (by simp only [List.length_nil]; omega)]; rfl
  | cons b bs ih =>
    rw [List.zipIdx_cons, List.foldl_cons, ih, natGet_natSet_of_ne Nat.one_ne_zero, List.length_cons]
    by_cases hj : j = a + k
    · have hin : a + k ≤ j ∧ j < a + k + (bs.length + 1) := by omega
      rw [if_pos hj, if_pos hin]
      split <;> rfl
    · rw [if_neg hj]
      refine if_congr ?_ rfl rfl
      omega

/-! ### Units that an access leaves but for their warps -/

theorem unit?_progress {s : State} {id : Nat} {u : Placed} (hu : s.unit? id = some u) (party : Option WarpId) :
    ∃ gs, (s.progress party).unit? id = some { u with wgs := gs } := by
  have hmap : (s.progress party).unit? id = (s.unit? id).map _ := List.find?_map ..
  rw [hu] at hmap
  exact ⟨_, hmap⟩
theorem unit?_modWarp {s : State} {id : Nat} {u : Placed} (hu : s.unit? id = some u) (w : WarpId) (f : Warp → Warp) :
    ∃ gs, (s.modWarp w f).unit? id = some { u with wgs := gs } := by
  have hmap : (s.modWarp w f).unit? id = (s.unit? id).map _ := unit?_modUnit s w.unit id
    (fun u => { u with wgs := modAt u.wgs w.wg fun g => { g with warps := modAt g.warps w.warp f } }) fun _ => rfl
  rw [hu, Option.map_some] at hmap
  by_cases hid : (u.id == w.unit) = true
  · rw [if_pos hid] at hmap
    exact ⟨_, hmap⟩
  · rw [if_neg hid] at hmap
    exact ⟨u.wgs, hmap⟩
theorem unit?_congr {s t : State} (h : t.units = s.units) (id : Nat) : t.unit? id = s.unit? id := by
  simp only [State.unit?, h]

/-! ### What an atomic that has acted leaves (R394, R438 to R444) -/

section
variable {s : State} {o x : MemOp} {p q : Part} {i : Nat} (old : List Byte) (new : Option (List Byte)) (g : Nat)
/-- The parts of the atomic's access are answered with the old bytes, before its core's blocks and its digest are seen to. -/
def State.answered (s : State) (o : MemOp) (p : Part) (old : List Byte) (g : Nat) : State :=
  let t := s.modOp o.id fun x => x.setAccess p fun q => { q with st := .done, data := old, time := g }
  { t with ops := t.ops.map fun x => { x with parts := x.parts.map (t.pastAtomic o (o.pieces p) x) } }
theorem pastAtomic_eq (t : State) (qs : List Part) (x : MemOp) (p : Part) : ∃ fwd, t.pastAtomic o qs x p = { p with fwd := fwd } := by
  unfold State.pastAtomic
  split
  · exact ⟨p.fwd, rfl⟩
  · split
    · exact ⟨_, rfl⟩
    · split
      · exact ⟨_, rfl⟩
      · exact ⟨p.fwd, rfl⟩
theorem answered_part (ho : s.op? o.id = some x) (hq : x.parts[i]? = some q) (hl : q.lane = p.lane) (ht : q.tang = p.tang) :
    ∃ o' q', (s.answered o p old g).part? o.id i = some (o', q') ∧ q'.st = .done ∧ q'.time = g ∧ q'.data = old := by
  let f : MemOp → MemOp := fun x => x.setAccess p fun q => { q with st := .done, data := old, time := g }
  let t := s.modOp o.id f
  have hop : t.op? o.id = some (f x) := op?_modOp_self ho fun _ => rfl
  have hpart : (f x).parts[i]? = some { q with st := .done, data := old, time := g } := by
    have hmine : (q.lane == p.lane && q.tang == p.tang) = true := by rw [hl, ht, beq_self_eq_true, beq_self_eq_true, Bool.true_and]
    change (x.parts.map _)[i]? = _
    rw [List.getElem?_map, hq, Option.map_some]
    exact congrArg some (if_pos hmine)
  obtain ⟨fwd, hfwd⟩ := pastAtomic_eq (o := o) t (o.pieces p) (f x) { q with st := .done, data := old, time := g }
  refine ⟨{ f x with parts := (f x).parts.map (t.pastAtomic o (o.pieces p) (f x)) },
    t.pastAtomic o (o.pieces p) (f x) { q with st := .done, data := old, time := g }, part?_iff.2 ⟨?_, ?_⟩, ?_⟩
  · unfold State.op? State.answered
    dsimp only
    rw [List.find?_map]
    exact congrArg (Option.map _) hop
  · rw [List.getElem?_map, hpart, Option.map_some]
  · rw [hfwd]
    exact ⟨rfl, rfl, rfl⟩
/-- The blocks that the atomic overlaps leave its core. -/
def State.unblocked (s : State) (o : MemOp) (p : Part) : State :=
  if p.space == .local then s.modCore o.core fun c => (o.pieces p).foldl (fun c q => c.l1Drop q.addr q.n) c else s
/-- The digest counts what the atomic has written, in a checkpoint written since its issue too. -/
def State.digested (s : State) (o : MemOp) (p : Part) (bs : List Byte) : State :=
  let det := ((s.unit? o.w.unit).map (·.cfg.det)).getD 0
  let d := digestUnit (p.off % 16) (p.off / 16) bs
  let late (c : WarpCkpt) : WarpCkpt := if o.id < c.before then { c with digest := c.digest + BitVec.ofNat 64 d } else c
  if det = 0 then s else s.modWarp o.w fun w => { w.addDigest d with ckpt := w.ckpt.map late }
theorem atomDone_none (s : State) (o : MemOp) (p : Part) : s.atomDone o p old none g = (s.answered o p old g).unblocked o p := rfl
theorem atomDone_some (s : State) (o : MemOp) (p : Part) (bs : List Byte) : s.atomDone o p old (some bs) g =
    if p.far then ((s.answered o p old g).unblocked o p).digested o p bs
    else (((s.answered o p old g).unblocked o p).digested o p bs).progress o.party := rfl
/-- A state with the same memory and operations, whose units are the same but for their warps. -/
def State.warpsOnly (s t : State) : Prop := t.home = s.home ∧ t.ops = s.ops ∧
  ∀ id u, s.unit? id = some u → ∃ gs, t.unit? id = some { u with wgs := gs }
theorem warpsOnly_trans {s t r : State} (h : s.warpsOnly t) (k : t.warpsOnly r) : s.warpsOnly r := by
  obtain ⟨hhome, hops, hunit⟩ := h
  obtain ⟨khome, kops, kunit⟩ := k
  refine ⟨khome.trans hhome, kops.trans hops, fun id u hu => ?_⟩
  obtain ⟨gs, hgs⟩ := hunit id u hu
  obtain ⟨gs', hgs'⟩ := kunit id { u with wgs := gs } hgs
  exact ⟨gs', hgs'⟩
theorem warpsOnly_progress (s : State) (party : Option WarpId) : s.warpsOnly (s.progress party) :=
  ⟨rfl, rfl, fun _ _ hu => unit?_progress hu party⟩
theorem warpsOnly_unblocked (s : State) (o : MemOp) (p : Part) : s.warpsOnly (s.unblocked o p) := by
  unfold State.unblocked
  split
  · exact ⟨modCore_home .., modCore_ops .., fun id u hu => ⟨u.wgs, (unit?_congr (modCore_units ..) id).trans hu⟩⟩
  · exact ⟨rfl, rfl, fun id u hu => ⟨u.wgs, hu⟩⟩
theorem warpsOnly_digested (s : State) (o : MemOp) (p : Part) (bs : List Byte) : s.warpsOnly (s.digested o p bs) := by
  unfold State.digested
  dsimp only
  split
  · exact ⟨rfl, rfl, fun id u hu => ⟨u.wgs, hu⟩⟩
  · exact ⟨rfl, rfl, fun id u hu => unit?_modWarp hu ..⟩
/-- After the answer an atomic changes cores, and digests and stalls of warps. -/
theorem warpsOnly_atomDone (s : State) (o : MemOp) (p : Part) : (s.answered o p old g).warpsOnly (s.atomDone o p old new g) := by
  cases new with
  | none => exact warpsOnly_unblocked ..
  | some bs =>
    have hdigested := warpsOnly_trans (warpsOnly_unblocked (s.answered o p old g) o p) (warpsOnly_digested _ o p bs)
    rw [atomDone_some]
    split
    · exact hdigested
    · exact warpsOnly_trans hdigested (warpsOnly_progress ..)
theorem atomDone_keeps (s : State) (o : MemOp) (p : Part) : (s.atomDone o p old new g).home = s.home ∧
    ∀ id u, s.unit? id = some u → ∃ gs, (s.atomDone o p old new g).unit? id = some { u with wgs := gs } := by
  obtain ⟨hhome, -, hunit⟩ := warpsOnly_atomDone old new g s o p
  exact ⟨hhome, hunit⟩
/-- An access has been answered with the old bytes. -/
def gives (t : State) (op i time : Nat) (old : List Byte) : Prop :=
  partAt t op i .done time ∧ ∃ o' q, t.part? op i = some (o', q) ∧ q.data = old
theorem atomDone_gives (ho : s.op? o.id = some x) (hq : x.parts[i]? = some q) (hl : q.lane = p.lane) (ht : q.tang = p.tang) :
    gives (s.atomDone o p old new g) o.id i g old := by
  obtain ⟨-, hops, -⟩ := warpsOnly_atomDone old new g s o p
  obtain ⟨o', q', hpart, hst, htime, hdata⟩ := answered_part old g ho hq hl ht
  rw [← part?_congr hops] at hpart
  exact ⟨⟨o', q', hpart, hst, htime⟩, o', q', hpart, hdata⟩
end

/-! ### Atomics of one piece (R443) -/

section
variable {s s' t : State} {o : MemOp} {p : Part} {old bs : List Byte} {g : Nat} (hp : o.pieces p = [p]) (hr : s.readPiece o p = .ok s' old)
include hp hr
theorem applyAtomic_writes (ha : atomWrite o.kind p old = some bs) (hn : bs.length = p.n) (hw : s'.writePiece o p bs = .ok t g none) :
    s.applyAtomic o p = t.atomDone o p old (some bs) g := by
  have htake : bs.take p.n = bs := List.take_of_length_le hn.le
  simp only [State.applyAtomic, hp, List.foldl_cons, List.foldl_nil, hr, List.nil_append, ha, htake, hw, Nat.zero_max]
theorem applyAtomic_fails (ha : atomWrite o.kind p old = none) : s.applyAtomic o p = s'.atomDone o p old none
    (if p.space == .local then gwctOf s'.home (s'.clockOf (.slice p.addr)) p.addr p.n p.carried o.tclear else 0) := by
  simp only [State.applyAtomic, hp, List.foldl_cons, List.foldl_nil, hr, List.nil_append, ha, List.map_cons, List.map_nil]
  rfl
end

/-! ### What reaches the host, a peer or its slice (R411 to R413, R438) -/

section
variable {s : State} {op i : Nat} {o : MemOp} {p : Part} (hpart : s.part? op i = some (o, p))
include hpart
theorem exec_storeApply (hk : o.kind.isWrite = true) (hst : p.st = .sent) (hb : s.blocked o i p = false) (hbehind : s.behind o i p = false)
    (hrel : o.rel = true → o.cleared = true ∨ p.space = .stash) : exec (.storeApply op i) s = .next (s.applyWrite o i p) := by
  have hgo : (o.rel && !o.cleared && p.space != .stash) = false := by
    cases hr : o.rel with
    | false => rfl
    | true => rcases hrel hr with h | h <;> simp [h]
  change execStoreApply op i s = _
  simp only [execStoreApply, hpart, hk, hst, hb, hgo, hbehind, bne_self_eq_false, Bool.not_true, Bool.or_self, Bool.false_eq_true, if_false]
theorem storeApply_waits (hk : o.kind.isWrite = true) (hst : p.st = .sent) (hb : s.blocked o i p = false) (hbehind : s.behind o i p = true)
    (hrel : o.rel = true → o.cleared = true ∨ p.space = .stash) :
    exec (.storeApply op i) s = .next (s.setPart op i fun q => { q with st := .held }) := by
  have hgo : (o.rel && !o.cleared && p.space != .stash) = false := by
    cases hr : o.rel with
    | false => rfl
    | true => rcases hrel hr with h | h <;> simp [h]
  change execStoreApply op i s = _
  simp only [execStoreApply, hpart, hk, hst, hb, hgo, hbehind, bne_self_eq_false, Bool.not_true, Bool.or_self, Bool.false_eq_true, if_false,
    if_true]
theorem storeApply_holds (hk : o.kind.isWrite = true) (hst : p.st = .sent) (hb : s.blocked o i p = false) (hrel : o.rel = true)
    (hclear : o.cleared = false) (hs : p.space = .local) :
    exec (.storeApply op i) s = .next (s.setPart op i fun q => { q with st := .held }) := by
  change execStoreApply op i s = _
  simp only [execStoreApply, hpart, hk, hst, hb, hrel, hclear, hs]
  rfl
theorem exec_releaseApply (hk : o.kind.isAtomic = false) (hst : p.st = .held) (hclear : o.cleared = true) (hbehind : s.behind o i p = false) :
    exec (.releaseApply op i) s = .next (s.applyWrite o i p) := by
  change execReleaseApply op i s = _
  simp only [execReleaseApply, hpart, hk, hst, hclear, hbehind, bne_self_eq_false, Bool.not_true, Bool.or_self, Bool.false_eq_true, if_false]
theorem exec_atomicApply (hk : o.kind.isAtomic = true) (hst : p.st = .sent) (hb : s.blocked o i p = false) (hbehind : s.behind o i p = false)
    (hrel : o.rel = true → o.cleared = true ∨ p.space = .stash) (hfree : s.accessFree o p = true) (hfirst : s.firstLeft o i p = true) :
    exec (.atomicApply op i) s = .next (s.applyAtomic o p) := by
  have hgo : (o.rel && !o.cleared && p.space != .stash) = false := by
    cases hr : o.rel with
    | false => rfl
    | true => rcases hrel hr with h | h <;> simp [h]
  change execAtomicApply op i s = _
  simp only [execAtomicApply, hpart, hk, hst, hb, hgo, hbehind, hfree, hfirst, bne_self_eq_false, Bool.not_true, Bool.or_self,
    Bool.false_eq_true, if_false]
end

/-- The bytes of the host's memory change, and no others. -/
def Home.hostPut (h k : Home) (a : Nat) (bs : List Byte) : Prop := h.host.puts k.host a bs ∧
  ∀ x, memGet k.mem x = memGet h.mem x ∧ ∀ n, memGet (peerMem k n) x = memGet (peerMem h n) x
/-- The bytes of a peer's memory change, and no others. -/
def Home.peerPut (h k : Home) (n a : Nat) (bs : List Byte) : Prop := (peerMem h n).puts (peerMem k n) a bs ∧
  ∀ x, memGet k.mem x = memGet h.mem x ∧ memGet k.host x = memGet h.host x ∧
    ∀ j, j ≠ n → memGet (peerMem k j) x = memGet (peerMem h j) x
theorem peerMem_setPeer (h : Home) (n j : Nat) (m : Memory) : peerMem (setPeer h n m) j = if j = n then m else peerMem h j := by
  unfold peerMem setPeer
  dsimp only
  by_cases hj : j = n
  · rw [List.find?_cons_of_pos (by simp [hj]), if_pos hj]
    rfl
  · rw [List.find?_cons_of_neg (by simpa using fun h => hj h.symm), if_neg hj, List.find?_filter]
    congr 3
    funext x
    by_cases hx : x.1 = j <;> simp [hx, hj]
theorem writeSpan_hostPut {s : State} (hm : s.memWf) (ctx a : Nat) (bs : List Byte) (c : Nat) : ∃ t,
    s.writeSpan ctx .host a bs c = (t, 0, none) ∧ t.ops = s.ops ∧ s.home.hostPut t.home a bs := by
  obtain ⟨-, hhost, -⟩ := hm
  exact ⟨_, rfl, rfl, fun x => memGet_memWrite hhost a x bs, fun x => ⟨rfl, fun _ => rfl⟩⟩
theorem writeSpan_peerPut {s : State} (hm : s.memWf) {k a : Nat} {bs : List Byte}
    (hclean : ∀ y ∈ s.home.peerErrs, y.1 = k → overlaps y.2 8 a bs.length = false) (ctx c : Nat) : ∃ t,
    s.writeSpan ctx (.peer k) a bs c = (t, 0, none) ∧ t.ops = s.ops ∧ s.home.peerPut t.home k a bs := by
  have hnil : (s.home.peerErrs.filter fun (n, u) => n == k && overlaps u 8 a bs.length) = [] :=
    filter_eq_nil_of_false fun y hy => by
      by_cases hk : y.1 = k
      · simp [hclean y hy hk]
      · simp [hk]
  have hpeer (j : Nat) := peerMem_setPeer s.home k j (memWrite (peerMem s.home k) a bs)
  refine ⟨{ s with home := setPeer s.home k (memWrite (peerMem s.home k) a bs) }, ?_, rfl, fun x => ?_, fun x => ⟨rfl, rfl, fun j hj => ?_⟩⟩
  · simp only [State.writeSpan, hnil]
  · rw [hpeer, if_pos rfl]
    exact memGet_memWrite (peerMem_wf hm k) a x bs
  · rw [hpeer, if_neg hj]
theorem readSpan_host_ok {s : State} {ctx a n : Nat} {old : List Byte} (h : s.readSpan ctx .host a n = .ok old) :
    old = memRead s.home.host a n := by
  unfold State.readSpan at h
  dsimp only at h
  split at h
  · cases h
  · cases h
    rfl
theorem readSpan_peer_ok {s : State} {ctx k a n : Nat} {old : List Byte} (h : s.readSpan ctx (.peer k) a n = .ok old) :
    old = memRead (peerMem s.home k) a n ∧ ∀ y ∈ s.home.peerErrs, y.1 = k → overlaps y.2 8 a n = false := by
  unfold State.readSpan at h
  dsimp only at h
  split at h
  · cases h
  · next hnil =>
    cases h
    refine ⟨rfl, fun y hy hk => ?_⟩
    have hnot := List.filter_eq_nil_iff.1 hnil y hy
    simpa [hk] using hnot

/-- A store's part is done where it goes, once its bytes have been written there. -/
theorem applyWrite_far {s t : State} {op i : Nat} {o : MemOp} {p : Part} (hpart : s.part? op i = some (o, p))
    (hs : p.space = .host ∨ ∃ k, p.space = .peer k) (hw : s.writeSpan 0 p.space p.addr p.data 0 = (t, 0, none)) (hops : t.ops = s.ops) :
    (s.applyWrite o i p).home = t.home ∧ partAt (s.applyWrite o i p) op i .done p.time := by
  have happly : s.applyWrite o i p = t.setPart op i fun q => { q with st := .done } := by
    rw [State.applyWrite, part?_id hpart]
    rcases hs with h | ⟨k, h⟩
    · rw [h] at hw
      simp only [h, hw]
    · rw [h] at hw
      simp only [h, hw]
  rw [happly]
  exact ⟨rfl, partAt_setPart ((part?_congr hops op i).trans hpart) _⟩
/-- An atomic acts at the host or at a peer: its bytes are written, and the old ones answered. -/
theorem applyAtomic_far {s : State} {op i : Nat} {o : MemOp} {p : Part} {old bs : List Byte} (hpart : s.part? op i = some (o, p))
    (hs : p.space = .host ∨ ∃ k, p.space = .peer k) (hp : o.pieces p = [p]) (hr : s.readSpan 0 p.space p.addr p.n = .ok old)
    (hbs : bs = (atomWrite o.kind p old).getD old) (hn : bs.length = p.n) {put : Home → List Byte → Prop} (hold : put s.home old)
    (hw : ∃ t, s.writeSpan 0 p.space p.addr bs 0 = (t, 0, none) ∧ t.ops = s.ops ∧ put t.home bs) :
    put (s.applyAtomic o p).home bs ∧ gives (s.applyAtomic o p) op i 0 old := by
  have hread : s.readPiece o p = .ok s old := by
    rcases hs with h | ⟨k, h⟩
    · rw [h] at hr
      simp only [State.readPiece, h]
      rw [if_neg (by simp)]
      change (match s.readSpan 0 .host p.addr p.n with | .ok bs => Got.ok _ bs | .busy => _ | .bad code a d => _) = _
      rw [hr]
      rfl
    · rw [h] at hr
      simp only [State.readPiece, h]
      rw [if_neg (by simp)]
      change (match s.readSpan 0 (.peer k) p.addr p.n with | .ok bs => Got.ok _ bs | .busy => _ | .bad code a d => _) = _
      rw [hr]
      rfl
  have hnear : (p.space == .local) = false := by
    rcases hs with h | ⟨k, h⟩ <;> rw [h] <;> rfl
  obtain ⟨hop, hi⟩ := part?_iff.1 hpart
  obtain rfl := part?_id hpart
  cases ha : atomWrite o.kind p old with
  | none =>
    rw [ha, Option.getD_none] at hbs
    obtain ⟨hhome, -⟩ := atomDone_keeps old none 0 s o p
    rw [applyAtomic_fails hp hread ha, hnear, if_neg Bool.false_ne_true, hbs, hhome]
    exact ⟨hold, atomDone_gives old none 0 hop hi rfl rfl⟩
  | some b =>
    rw [ha, Option.getD_some] at hbs
    obtain ⟨t, hspan, hops, hput⟩ := hw
    have hpiece : s.writePiece o p b = .ok t 0 none := by
      rw [← hbs]
      rcases hs with h | ⟨k, h⟩
      · rw [h] at hspan
        simp only [State.writePiece, h, hspan]
      · rw [h] at hspan
        simp only [State.writePiece, h, hspan]
    obtain ⟨hhome, -⟩ := atomDone_keeps old (some b) 0 t o p
    rw [applyAtomic_writes hp hread ha (hbs ▸ hn) hpiece, hhome]
    exact ⟨hput, atomDone_gives old (some b) 0 ((op?_congr hops _).trans hop) hi rfl rfl⟩

/-! ### Stash lines written (R407, R444, R495) -/

theorem stashOf_iff {s : State} {o : MemOp} {p : Part} {u : Placed} {st : Stash} : s.stashOf o p = some (u, st) ↔
    s.unit? o.w.unit = some u ∧ s.unbinding u p.addr = false ∧ u.stashAt p.addr = some st := by
  unfold State.stashOf
  cases s.unit? o.w.unit with
  | none => simp
  | some v =>
    rw [Option.bind_some]
    constructor
    · intro h
      split at h
      · cases h
      · next hbind =>
        obtain ⟨x, hx, hpair⟩ := Option.map_eq_some_iff.1 h
        cases hpair
        exact ⟨rfl, Bool.not_eq_true _ ▸ hbind, hx⟩
    · rintro ⟨hv, hbind, hst⟩
      cases hv
      rw [hbind, if_neg Bool.false_ne_true, hst, Option.map_some]
/-- An entry that takes the place of the one found, and of others, is found. -/
theorem find?_replace {α : Type} {p f : α → Bool} {xs : List α} {a b : α} (h : xs.find? p = some a) (ha : f a = true) (hb : p b = true) :
    (xs.map fun x => if f x then b else x).find? p = some b := by
  induction xs with
  | nil => cases h
  | cons x xs ih =>
    rw [List.map_cons]
    by_cases hx : f x = true
    · rw [if_pos hx, List.find?_cons_of_pos hb]
    · rw [if_neg hx]
      by_cases hp : p x = true
      · rw [List.find?_cons_of_pos hp] at h
        obtain rfl := Option.some.inj h
        exact absurd ha hx
      · rw [List.find?_cons_of_neg hp] at h ⊢
        exact ih h
theorem stashAt_span {u : Placed} {st : Stash} {va : Nat} (h : u.stashAt va = some st) : st.vbase ≤ va ∧ va < st.vbase + st.length := by
  unfold Placed.stashAt at h
  have hfound := List.find?_some h
  simpa using hfound
/-- A window that takes the place of one with its address and span is found wherever that was. -/
theorem stashAt_setStash {u : Placed} {st st' : Stash} {va : Nat} (h : u.stashAt va = some st) (hb : st'.vbase = st.vbase)
    (hl : st'.length = st.length) : (u.setStash st').stashAt va = some st' := by
  have hspan := stashAt_span h
  rw [← hb, ← hl] at hspan
  exact find?_replace h (beq_iff_eq.2 hb.symm) (by simpa using hspan)
/-- A unit that holds a window with its address once it has been set. -/
theorem mem_setStash {u : Placed} {st st' : Stash} {va : Nat} (h : u.stashAt va = some st) (hb : st'.vbase = st.vbase) :
    st' ∈ (u.setStash st').stash :=
  List.mem_map.2 ⟨st, List.mem_of_find?_eq_some h, if_pos (beq_iff_eq.2 hb.symm)⟩
/-- A line made ready leaves the operations, and its unit with the window of the line. -/
theorem fillLine_keeps {s s' : State} {o : MemOp} {u : Placed} {st st' : Stash} {va v : Nat} (hu : s.unit? u.id = some u)
    (hst : u.stashAt va = some st) (h : s.fillLine o u st va = .ok s' st' v) : s'.ops = s.ops ∧ s'.clk = s.clk ∧ st'.vbase = st.vbase ∧
      ∃ x, s'.unit? u.id = some x ∧ x.id = u.id ∧ x.stashAt va = some st' := by
  unfold State.fillLine at h
  dsimp only at h
  split at h
  · cases h
    exact ⟨rfl, rfl, rfl, u, hu, rfl, hst⟩
  · split at h
    · cases h
    · split at h
      · cases h
      · cases h
      · next bs bad hline =>
        generalize hst' : ({ st with
          lines := natSet st.lines ((va - st.vbase) / 256)
            ((if (st.space == Space.local) = true then visOf s.home (st.ibase + 256 * ((va - st.vbase) / 256)) 256 else 0) + 1)
          poison := st.poison ++ bad.map (· - st.ibase) } : Stash) = w at h
        have hbase : w.vbase = st.vbase := by rw [← hst']
        have hlen : w.length = st.length := by rw [← hst']
        cases h
        obtain ⟨c, hc⟩ := cacheWalk_caches s u.ctx (st.ibase + 256 * ((va - st.vbase) / 256))
        rw [hc]
        refine ⟨rfl, rfl, hbase, _, unit?_modUnit_same hu (by intro; rfl), rfl, ?_⟩
        exact stashAt_setStash hst hbase hlen
/-- A window's bytes put, its line's mark and its poison (R407, R495). -/
def Stash.putAt (st : Stash) (x : Stash) (o n : Nat) : Prop := x.vbase = st.vbase ∧ x.lines = st.lines ∧
  (∀ j, natGet x.dirty j = if o ≤ j ∧ j < o + n then 1 else natGet st.dirty j) ∧
  ∀ y, y ∈ x.poison ↔ y ∈ st.poison ∧ within y 8 o n = false
theorem stashWrite_puts {s : State} {u v : Placed} {st : Stash} {va : Nat} {bs : List Byte} (hv : s.unit? u.id = some v)
    (hwf : Memory.wf v.spad) (hst : v.stashAt va = some st)
    (hclean : ∀ y ∈ st.poison, overlaps y 8 (va - st.vbase) bs.length = true → within y 8 (va - st.vbase) bs.length = true) :
    ∃ t w, s.stashWrite u st va bs = (t, none) ∧ t.home = s.home ∧ t.ops = s.ops ∧ t.unit? u.id = some w ∧
      v.spad.puts w.spad (st.soff + (va - st.vbase)) bs ∧ ∃ x ∈ w.stash, st.putAt x (va - st.vbase) bs.length := by
  have hfree (i : Nat) (hi : i < bs.length) :
      (st.poison.any fun x => overlaps x 8 (va - st.vbase + i) 1 && !within x 8 (va - st.vbase) bs.length) = false := by
    refine List.any_eq_false.2 fun y hy => ?_
    by_cases ho : overlaps y 8 (va - st.vbase + i) 1 = true
    · have hover : overlaps y 8 (va - st.vbase) bs.length = true := by
        simp only [overlaps, Bool.and_eq_true, decide_eq_true_eq] at ho ⊢
        omega
      simp [hclean y hy hover]
    · simp [ho]
  have hall : (bs.zipIdx.filter fun (_, i) =>
      !(st.poison.any fun x => overlaps x 8 (va - st.vbase + i) 1 && !within x 8 (va - st.vbase) bs.length)) = bs.zipIdx :=
    List.filter_eq_self.2 fun y hy => by
      have hlt : y.2 < bs.length := by simpa using List.snd_lt_of_mem_zipIdx hy
      simp only [hfree y.2 hlt, Bool.not_false]
  have hnone : ((List.range bs.length).find? fun i =>
      st.poison.any fun x => overlaps x 8 (va - st.vbase + i) 1 && !within x 8 (va - st.vbase) bs.length) = none :=
    List.find?_eq_none.2 fun i hi => by simp only [hfree i (List.mem_range.1 hi), Bool.false_eq_true, not_false_eq_true]
  let st' : Stash := { st with
    dirty := bs.zipIdx.foldl (fun m y => natSet m (va - st.vbase + y.2) 1) st.dirty
    poison := st.poison.filter fun x => !within x 8 (va - st.vbase) bs.length }
  let f : Placed → Placed := fun u => { u.setStash st' with
    spad := bs.zipIdx.foldl (fun m y => memSet m (st.soff + (va - st.vbase) + y.2) y.1) u.spad }
  refine ⟨s.modUnit u.id f, f v, ?_, rfl, rfl, unit?_modUnit_same hv (by intro; rfl), fun x => ?_, st', ?_, rfl, rfl, fun j => ?_, fun y => ?_⟩
  · unfold State.stashWrite
    dsimp only
    rw [hall, hnone]
    rfl
  · change memGet (bs.zipIdx.foldl (fun m y => memSet m (st.soff + (va - st.vbase) + y.2) y.1) v.spad) x = _
    rw [foldl_memSet, memGet_memWrite hwf, Nat.add_zero]
  · exact mem_setStash hst rfl
  · exact (foldl_mark bs st.dirty (va - st.vbase) 0 j).trans (by rw [Nat.add_zero])
  · simp only [st', List.mem_filter, Bool.not_eq_true']

/-- A line of a stash window made ready for a part (R407). -/
def State.readied (s : State) (o : MemOp) (p : Part) (u : Placed) (st : Stash) (s' : State) (st' : Stash) (v : Nat) : Prop :=
  p.space = .stash ∧ s.stashOf o p = some (u, st) ∧ s.fillLine o u st p.addr = .ok s' st' v ∧
    (∀ x, s'.unit? u.id = some x → Memory.wf x.spad) ∧
    ∀ y ∈ st'.poison, overlaps y 8 (p.addr - st'.vbase) p.n = true → within y 8 (p.addr - st'.vbase) p.n = true
/-- The bytes of a line put, with nothing else of memory changed. -/
def State.linePut (s' : State) (st : Stash) (p : Part) (u : Nat) (t : State) (bs : List Byte) : Prop := s'.sameMemory t ∧
  ∃ v w, s'.unit? u = some v ∧ t.unit? u = some w ∧ v.spad.puts w.spad (st.soff + (p.addr - st.vbase)) bs ∧
    ∃ x ∈ w.stash, st.putAt x (p.addr - st.vbase) bs.length
theorem sameMemory_of_home {s t : State} (h : t.home = s.home) : s.sameMemory t := fun x => by rw [h]; exact ⟨rfl, rfl, fun _ => rfl⟩
section
variable {s s' : State} {op i : Nat} {o : MemOp} {p : Part} {u : Placed} {st st' : Stash} {v : Nat}
  (hpart : s.part? op i = some (o, p)) (hready : s.readied o p u st s' st' v)
include hpart hready
/-- What a line made ready leaves of the part and of its unit. -/
theorem readied_keeps : s'.part? op i = some (o, p) ∧ ∃ x, s'.unit? u.id = some x ∧ x.id = u.id ∧ Memory.wf x.spad ∧
    x.stashAt p.addr = some st' ∧ s'.stashOf o p = some (x, st') := by
  obtain ⟨-, hof, hfill, hwf, -⟩ := hready
  obtain ⟨hu, hbind, hst⟩ := stashOf_iff.1 hof
  have hid := unit?_id hu
  obtain ⟨hops, -, hbase, x, hx, hxid, hxst⟩ := fillLine_keeps (by rw [hid]; exact hu) hst hfill
  refine ⟨(part?_congr hops op i).trans hpart, x, hx, hxid, hwf x hx, hxst, stashOf_iff.2 ⟨by rw [← hid]; exact hx, ?_, hxst⟩⟩
  simp only [State.unbinding, hst] at hbind
  simp only [State.unbinding, hxst, hops, hxid, hbase]
  exact hbind
theorem applyWrite_stash (hn : p.data.length = p.n) :
    s'.linePut st' p u.id (s.applyWrite o i p) p.data ∧ partAt (s.applyWrite o i p) op i .done 0 := by
  obtain ⟨hpart', x, hx, -, hwf, hxst, -⟩ := readied_keeps hpart hready
  obtain ⟨hs, hof, hfill, -, hclean⟩ := hready
  obtain ⟨t, w, hwrite, hhome, hops, hw, hput, hline⟩ := stashWrite_puts hx hwf hxst (bs := p.data) (by rw [hn]; exact hclean)
  have happly : s.applyWrite o i p = (t.setPart op i fun q => { q with st := .done, time := 0 }).progress o.party := by
    rw [State.applyWrite, part?_id hpart]
    simp only [hs, hof, hfill, hwrite]
  have hdone := partAt_setPart ((part?_congr hops op i).trans hpart') fun q => { q with st := .done, time := 0 }
  obtain ⟨gs, hgs⟩ := unit?_progress (s := t.setPart op i fun q => { q with st := .done, time := 0 }) hw o.party
  rw [happly]
  refine ⟨⟨sameMemory_of_home hhome, x, _, hx, hgs, hput, hline⟩, ?_⟩
  obtain ⟨o', q, hq, hst, htime⟩ := hdone
  exact ⟨o', q, hq, hst, htime⟩
theorem readPiece_stash {old : List Byte} (hclean : st'.poisonAt p.addr p.n = none)
    (hold : ∀ x, s'.unit? u.id = some x → memRead x.spad (st'.soff + (p.addr - st'.vbase)) p.n = old) : s.readPiece o p = .ok s' old := by
  obtain ⟨-, x, hx, -⟩ := readied_keeps hpart hready
  obtain ⟨hs, hof, hfill, -⟩ := hready
  simp only [State.readPiece, hs, hof, hfill, hclean, hx, Option.map_some, Option.getD_some, hold x hx]
theorem applyAtomic_stash {old bs : List Byte} (hp : o.pieces p = [p]) (hn : bs.length = p.n)
    (hclean : st'.poisonAt p.addr p.n = none)
    (hold : ∀ x, s'.unit? u.id = some x → memRead x.spad (st'.soff + (p.addr - st'.vbase)) p.n = old)
    (ha : atomWrite o.kind p old = some bs) :
    s'.linePut st' p u.id (s.applyAtomic o p) bs ∧ gives (s.applyAtomic o p) op i 0 old := by
  have hread := readPiece_stash hpart hready hclean hold
  obtain ⟨hpart', x, hx, hxid, hwf, hxst, hof'⟩ := readied_keeps hpart hready
  obtain ⟨hs, -, -, -, hpoison⟩ := hready
  obtain ⟨t, w, hwrite, hhome, hops, hw, hput, hline⟩ := stashWrite_puts (u := x) (by rw [hxid]; exact hx) hwf hxst (bs := bs)
    (by rw [hn]; exact hpoison)
  have hpiece : s'.writePiece o p bs = .ok t 0 none := by
    simp only [State.writePiece, hs, hof', hwrite, Option.map_none]
  obtain ⟨hop, hi⟩ := part?_iff.1 hpart'
  obtain rfl := part?_id hpart
  obtain ⟨hkeep, hunit⟩ := atomDone_keeps old (some bs) 0 t o p
  obtain ⟨gs, hgs⟩ := hunit _ w hw
  rw [applyAtomic_writes hp hread ha hn hpiece]
  rw [hxid] at hgs
  exact ⟨⟨sameMemory_of_home (hkeep.trans hhome), x, _, hx, hgs, hput, hline⟩,
    atomDone_gives old (some bs) 0 ((op?_congr hops _).trans hop) hi rfl rfl⟩
theorem applyAtomic_stash_fails {old : List Byte} (hp : o.pieces p = [p]) (hclean : st'.poisonAt p.addr p.n = none)
    (hold : ∀ x, s'.unit? u.id = some x → memRead x.spad (st'.soff + (p.addr - st'.vbase)) p.n = old)
    (ha : atomWrite o.kind p old = none) : gives (s.applyAtomic o p) op i 0 old ∧ s'.sameMemory (s.applyAtomic o p) ∧
      ∃ v w, s'.unit? u.id = some v ∧ (s.applyAtomic o p).unit? u.id = some w ∧ w.spad = v.spad ∧ w.stash = v.stash := by
  have hread := readPiece_stash hpart hready hclean hold
  obtain ⟨hpart', x, hx, -⟩ := readied_keeps hpart hready
  obtain ⟨hs, -⟩ := hready
  obtain ⟨hop, hi⟩ := part?_iff.1 hpart'
  obtain rfl := part?_id hpart
  obtain ⟨hkeep, hunit⟩ := atomDone_keeps old none 0 s' o p
  obtain ⟨gs, hgs⟩ := hunit _ x hx
  rw [applyAtomic_fails hp hread ha, hs, if_neg (by decide)]
  exact ⟨atomDone_gives old none 0 hop hi rfl rfl, sameMemory_of_home hkeep, x, _, hx, hgs, rfl, rfl⟩
end

/-! ### Writes and atomics at their home slices (R411 to R413, R438 to R444) -/

/-- What a write applied at its slice leaves of memory, of its part and of the V of its chunks. -/
def appliedAt (s t : State) (op i : Nat) (p : Part) (pa g : Nat) (bs : List Byte) : Prop := wrote s t pa bs ∧
  t.home.host = s.home.host ∧ t.home.peers = s.home.peers ∧ partAt t op i .done g ∧
    ∀ c, natGet t.home.vis c = if c ∈ chunksOf p.addr p.n then g else natGet s.home.vis c
/-- Monitors compared again change no part but in its stage. -/
theorem monitorsAfter_ops (s : State) (ia n : Nat) : ∃ f : MemOp → MemOp, (s.monitorsAfter ia n).ops = s.ops.map f ∧ ∀ o, (f o).id = o.id ∧
    ∀ (i : Nat) (p : Part), o.parts[i]? = some p → ∃ q, (f o).parts[i]? = some q ∧ q.lane = p.lane ∧ q.tang = p.tang := by
  refine ⟨_, rfl, fun o => ?_⟩
  split
  · refine ⟨rfl, fun i p hp => ⟨_, by rw [List.getElem?_map, hp]; rfl, ?_⟩⟩
    dsimp only
    split
    · split <;> exact ⟨rfl, rfl⟩
    · split
      · split
        · split <;> exact ⟨rfl, rfl⟩
        · exact ⟨rfl, rfl⟩
      · exact ⟨rfl, rfl⟩
    · exact ⟨rfl, rfl⟩
  · exact ⟨rfl, fun i p hp => ⟨p, hp, rfl, rfl⟩⟩
theorem monitorsAfter_part {s : State} {op i : Nat} {o : MemOp} {p : Part} (h : s.part? op i = some (o, p)) (ia n : Nat) :
    ∃ o' q, (s.monitorsAfter ia n).part? op i = some (o', q) ∧ q.lane = p.lane ∧ q.tang = p.tang := by
  obtain ⟨hop, hi⟩ := part?_iff.1 h
  obtain ⟨f, hops, hf⟩ := monitorsAfter_ops s ia n
  obtain ⟨q, hq, hl, ht⟩ := (hf o).2 i p hi
  refine ⟨f o, q, part?_iff.2 ⟨?_, hq⟩, hl, ht⟩
  have hfind : (s.monitorsAfter ia n).op? op = (s.op? op).map f := by
    unfold State.op?
    rw [hops, List.find?_map]
    refine congrArg (Option.map f) (congrArg (List.find? · s.ops) ?_)
    funext x
    exact congrArg (· == op) (hf x).1
  rw [hfind, hop, Option.map_some]
theorem applied_vis {s : State} {ia pa n g : Nat} {bs : List Byte} (hg : g ≠ 0) (hn : bs.length = n) (c : Nat) :
    natGet (s.applied ia pa bs g).home.vis c = if c ∈ chunksOf ia n then g else natGet s.home.vis c := by
  rw [← hn]
  exact foldl_natSet _ hg _ c
theorem gwct_ne_zero (s : State) (ia n carried tclear : Nat) : gwct s ia n carried tclear ≠ 0 := by
  unfold gwct
  omega
/-- What a write at its slice leaves, once it may be applied. -/
theorem writeLocal_does {s : State} {ctx ia pa : Nat} {bs : List Byte} (h : writable s ctx ia bs.length pa) (carried tclear : Nat) :
    ∃ t, s.writeLocal ctx ia bs carried tclear = .ok t (gwct s ia bs.length carried tclear) none ∧ wrote s t pa bs ∧
      t.home.host = s.home.host ∧ t.home.peers = s.home.peers ∧
      (∀ c, natGet t.home.vis c = if c ∈ chunksOf ia bs.length then gwct s ia bs.length carried tclear else natGet s.home.vis c) ∧
      ∀ op i o p, s.part? op i = some (o, p) → ∃ o' q, t.part? op i = some (o', q) ∧ q.lane = p.lane ∧ q.tang = p.tang := by
  obtain ⟨g, hg⟩ : ∃ g, gwct s ia bs.length carried tclear = g := ⟨_, rfl⟩
  have hcached := cacheWalk_caches (s.applied ia pa bs g) ctx ia
  have hframe := (applied_frame s ia pa bs g).of_caches hcached
  refine ⟨(s.applied ia pa bs g).cacheWalk ctx ia, hg ▸ writeLocal_of_writable h carried tclear,
    wrote_of_caches (applied_wrote h g) hcached, by rw [hframe.home], by rw [hframe.home], fun c => ?_, fun op i o p hpart => ?_⟩
  · have hvis : ((s.applied ia pa bs g).cacheWalk ctx ia).home.vis = (s.applied ia pa bs g).home.vis := by
      obtain ⟨c', hc⟩ := hcached
      rw [hc]
    rw [hvis, hg]
    exact applied_vis (hg ▸ gwct_ne_zero s ia bs.length carried tclear) rfl c
  · obtain ⟨o', q, hq, hl, ht⟩ := monitorsAfter_part (s := { s with home := (s.applied ia pa bs g).home }) hpart ia bs.length
    refine ⟨o', q, ?_, hl, ht⟩
    rw [part?_congr (t := (s.applied ia pa bs g).cacheWalk ctx ia) (s := s.applied ia pa bs g) (by obtain ⟨c', hc⟩ := hcached; rw [hc])]
    exact hq
section
variable {s : State} {op i pa : Nat} {o : MemOp} {p : Part} (hpart : s.part? op i = some (o, p)) (hs : p.space = .local)
  (hw : writable s (s.ctxOf o) p.addr p.n pa)
include hpart hs hw
theorem applyWrite_local (hn : p.data.length = p.n) :
    appliedAt s (s.applyWrite o i p) op i p pa (gwct s p.addr p.n p.carried o.tclear) p.data := by
  rw [← hn] at hw
  obtain ⟨t, hwrite, hwrote, hhost, hpeers, hvis, hparts⟩ := writeLocal_does hw p.carried o.tclear
  rw [hn] at hwrite hvis
  obtain ⟨g, hg⟩ : ∃ g, gwct s p.addr p.n p.carried o.tclear = g := ⟨_, rfl⟩
  rw [hg] at hwrite hvis ⊢
  have happly : s.applyWrite o i p = (t.setPart op i fun q => { q with st := .done, time := g }).progress o.party := by
    rw [State.applyWrite, part?_id hpart]
    simp only [hs, hwrite]
  obtain ⟨o', q, hq, -⟩ := hparts op i o p hpart
  rw [happly]
  exact ⟨hwrote, hhost, hpeers, partAt_setPart hq fun q => { q with st := .done, time := g }, hvis⟩
omit hpart in
theorem readPiece_local {old : List Byte} (hr : s.readSpan (s.ctxOf o) .local p.addr p.n = .ok old) :
    s.readPiece o p = .ok (s.cacheSpan (s.ctxOf o) .local p.addr p.n) old := by
  obtain ⟨-, -, -, hfree, -⟩ := hw
  have hnot : s.home.hostLines.contains (p.addr / 256) = false := by simpa using hfree
  simp only [State.readPiece, hs, hnot, hr, Bool.and_false, Bool.false_eq_true, if_false]
theorem applyAtomic_local {old bs : List Byte} (hp : o.pieces p = [p]) (hr : s.readSpan (s.ctxOf o) .local p.addr p.n = .ok old)
    (ha : atomWrite o.kind p old = some bs) (hn : bs.length = p.n) :
    appliedAt s (s.applyAtomic o p) op i p pa (gwct s p.addr p.n p.carried o.tclear) bs ∧
      ∃ o' q, (s.applyAtomic o p).part? op i = some (o', q) ∧ q.data = old := by
  have hread := readPiece_local hs hw hr
  let r := s.cacheSpan (s.ctxOf o) .local p.addr p.n
  obtain ⟨c, hc⟩ : s.caches r := cacheSpan_caches ..
  have hctx : r.ctxOf o = s.ctxOf o := by
    rw [hc]
    rfl
  have hgwct : gwct r p.addr p.n p.carried o.tclear = gwct s p.addr p.n p.carried o.tclear := by
    rw [hc]
    rfl
  have hwr : writable r (r.ctxOf o) p.addr bs.length pa := by
    rw [hctx, hn]
    exact writable_cacheSpan hw
  obtain ⟨t, hwrite, hwrote, hhost, hpeers, hvis, hparts⟩ := writeLocal_does hwr p.carried o.tclear
  rw [hn, hgwct, hctx] at hwrite
  rw [hn, hgwct] at hvis
  obtain ⟨g, hg⟩ : ∃ g, gwct s p.addr p.n p.carried o.tclear = g := ⟨_, rfl⟩
  rw [hg] at hwrite hvis ⊢
  have hpiece : r.writePiece o p bs = .ok t g none := by
    simp only [State.writePiece, hs, hctx, hwrite]
  obtain ⟨o', q, hq, hl, htg⟩ := hparts op i o p (by rw [hc]; exact hpart)
  obtain ⟨hop, hi⟩ := part?_iff.1 hq
  obtain ⟨hkeep, -⟩ := atomDone_keeps old (some bs) g t o p
  have hhome : r.home.mem = s.home.mem ∧ r.home.host = s.home.host ∧ r.home.peers = s.home.peers ∧ r.home.vis = s.home.vis := by
    rw [hc]
    exact ⟨rfl, rfl, rfl, rfl⟩
  obtain ⟨rmem, rhost, rpeers, rvis⟩ := hhome
  obtain rfl := part?_id hpart
  obtain ⟨hdone, hdata⟩ := atomDone_gives old (some bs) g hop hi hl htg
  rw [applyAtomic_writes hp hread ha hn hpiece]
  refine ⟨⟨fun x => ?_, ?_, ?_, hdone, fun k => ?_⟩, hdata⟩
  · rw [hkeep, hwrote x, rmem]
  · rw [hkeep, hhost, rhost]
  · rw [hkeep, hpeers, rpeers]
  · rw [hkeep, hvis k, rvis]
theorem applyAtomic_local_fails {old : List Byte} (hp : o.pieces p = [p]) (hr : s.readSpan (s.ctxOf o) .local p.addr p.n = .ok old)
    (ha : atomWrite o.kind p old = none) : (s.applyAtomic o p).home = { s.home with tlb := (s.applyAtomic o p).home.tlb } ∧
      gives (s.applyAtomic o p) op i (gwct s p.addr p.n p.carried o.tclear) old := by
  have hread := readPiece_local hs hw hr
  obtain ⟨c, hc⟩ := cacheSpan_caches s (s.ctxOf o) .local p.addr p.n
  have hg : gwctOf s.home (s.clockOf (.slice p.addr)) p.addr p.n p.carried o.tclear = gwct s p.addr p.n p.carried o.tclear :=
    gwctOf_eq_gwct ..
  obtain ⟨hop, hi⟩ := part?_iff.1 hpart
  obtain rfl := part?_id hpart
  have hfails := applyAtomic_fails hp hread ha
  rw [hs, beq_self_eq_true, if_pos rfl, hc] at hfails
  change s.applyAtomic o p = State.atomDone _ o p old none (gwctOf s.home (s.clockOf (.slice p.addr)) p.addr p.n p.carried o.tclear) at hfails
  rw [hg] at hfails
  obtain ⟨hkeep, -⟩ := atomDone_keeps old none (gwct s p.addr p.n p.carried o.tclear) { s with home := { s.home with tlb := c } } o p
  rw [hfails, hkeep]
  exact ⟨rfl, atomDone_gives (s := { s with home := { s.home with tlb := c } }) old none _ hop hi rfl rfl⟩
end

/-! ### Clearance and acks (R412, R423) -/

theorem releaseClearance_does {s : State} {op : Nat} {o : MemOp} {w : Warp} (ho : s.op? op = some o) (hrel : o.rel = true)
    (hclear : o.cleared = false) (hw : s.warp? o.w = some w) (hgo : s.clear o.w (o.scope == .sys) o.id = true) :
    Does (.releaseClearance op) s fun t => t.home = s.home ∧ t.op? op = some { o with cleared := true, tclear := w.gwct } := by
  have hfound := op?_modOp_self ho (f := fun o => { o with cleared := true, tclear := ((s.warp? o.w).map (·.gwct)).getD 0 }) fun _ => rfl
  rw [hw] at hfound
  refine ⟨State.progress (s.modOp op _) (some o.w), ?_, rfl, hfound⟩
  change execReleaseClearance op s = _
  simp only [execReleaseClearance, ho, hrel, hclear, hgo, Bool.not_false, Bool.and_self, if_true]

/-- What an ack leaves of an operation that may have been forwarded the store's bytes (R412). -/
def ackTake (id g : Nat) (o : MemOp) : MemOp :=
  if o.waitSt.contains id && (o.kind.isRead || o.kind.counter == some .ld || o.kind.counter == some .st) then
    { o with waitSt := o.waitSt.filter (· != id), tclear := max o.tclear g }
  else o
theorem ackTake_of_not_mem {id g : Nat} {o : MemOp} (h : id ∉ o.waitSt) : ackTake id g o = o := by
  have hnot : o.waitSt.contains id = false := by simpa using h
  rw [ackTake, hnot, Bool.false_and, if_neg Bool.false_ne_true]
theorem ackForwards_eq (s : State) (id g : Nat) : s.ackForwards id g =
    ((s.ops.map (ackTake id g)).filter fun o => o.returned && o.waitSt == []).foldl State.land { s with ops := s.ops.map (ackTake id g) } := rfl
/-- A store whose ack comes with nothing that waits for it: `st` falls, and its GWCT joins (R106, R412). -/
theorem storeAck_does {s : State} {op : Nat} {o : MemOp} {w : Warp} (ho : s.op? op = some o) (hk : o.kind.counter = some .st)
    (hdone : ∀ q ∈ o.parts, q.st = .done) (hdue : o.due ≤ s.clk) (hret : o.returned = false) (hwait : o.waitSt = [])
    (hflush : match o.kind with | .sflush _ u => u = false | _ => True) (hw : s.warp? o.w = some w)
    (hothers : ∀ x ∈ s.ops, x.id ≠ op → op ∉ x.waitSt) (hlive : ∀ x ∈ s.ops, x.returned = false) :
    Does (.storeAck op) s fun t => t.home = s.home ∧ t.ops = s.ops.filter (·.id != op) ∧ t.warp? o.w = some { w with
      st := w.st - 1
      gwct := max w.gwct (max (maxOf (o.parts.map fun q => if q.space == .local then q.time else 0)) (if o.rel = true then 0 else o.tclear)) } := by
  obtain ⟨g, hg⟩ : ∃ g, max (maxOf (o.parts.map fun q => if q.space == .local then q.time else 0)) (if o.rel = true then 0 else o.tclear) = g :=
    ⟨_, rfl⟩
  have hready : o.ready s.clk = true := by
    have hsettled : o.settled = true := List.all_eq_true.2 fun q hq => by simp [Part.settled, hdone q hq]
    simp [MemOp.ready, hsettled, hdue, hret]
  have hnone (q : Part) (hq : q ∈ o.parts) : q.failing = false := by simp [Part.failing, hdone q hq]
  have hbad : o.badLanes = [] := by
    unfold MemOp.badLanes
    split
    · rw [if_neg]
      rw [Bool.not_eq_true, List.any_eq_false]
      exact fun q hq => by simp [hnone q hq]
    · refine List.filter_eq_nil_iff.2 fun l _ => ?_
      rw [Bool.not_eq_true, List.any_eq_false]
      exact fun q hq => by simp [hnone q hq]
  let t : State := ((s.modCore o.core (·.raiseV op g)).modWarp o.w fun w => w.addCounter .st false).joinGwct o.w g
  have hops : t.ops = s.ops := modCore_ops ..
  have hleft (x : MemOp) (hx : x ∈ (t.dropOp op).ops) : op ∉ x.waitSt ∧ x.returned = false := by
    obtain ⟨hmem, hid⟩ := List.mem_filter.1 hx
    rw [hops] at hmem
    exact ⟨hothers x hmem (bne_iff_ne.1 hid), hlive x hmem⟩
  have hforward : (t.dropOp op).ackForwards op g = t.dropOp op := by
    have hmap : (t.dropOp op).ops.map (ackTake op g) = (t.dropOp op).ops :=
      (List.map_congr_left fun x hx => ackTake_of_not_mem (hleft x hx).1).trans (List.map_id _)
    have hreturned : ((t.dropOp op).ops.filter fun o => o.returned && o.waitSt == []) = [] :=
      filter_eq_nil_of_false fun x hx => by rw [(hleft x hx).2, Bool.false_and]
    rw [ackForwards_eq, hmap]
    change ((t.dropOp op).ops.filter fun o => o.returned && o.waitSt == []).foldl State.land (t.dropOp op) = _
    rw [hreturned]
    rfl
  have hunbind (r : State) : r.unbind o = r := by
    unfold State.unbind
    split
    · next vs heq =>
      rw [heq] at hflush
      cases hflush
    · rfl
  have hexec : exec (.storeAck op) s = .next (t.dropOp op) := by
    change execStoreAck op s = _
    simp only [execStoreAck, ho, hk, hready, hwait, bne_self_eq_false, Bool.not_true, Bool.or_self, Bool.false_eq_true, if_false, hg, hbad]
    rw [hunbind]
    exact congrArg Host.Outcome.next hforward
  refine ⟨_, hexec, modCore_home .., ?_, ?_⟩
  · change t.ops.filter _ = _
    rw [hops]
  · change t.warp? o.w = _
    rw [hg]
    simp only [t, State.joinGwct]
    rw [warp?_modWarp_self, warp?_modWarp_self, warp?_modCore, hw]
    rfl

/-- Settles O48, by where each write and atomic puts its bytes: the host or a peer (`applyWrite_far`, `applyAtomic_far`), a line of a
stash window (`applyWrite_stash`, `applyAtomic_stash`) or its home slice (`applyWrite_local`, `applyAtomic_local`). -/
theorem homeWrites : Obligations.HomeWrites := by
  unfold Obligations.HomeWrites
  refine ⟨?_, ?_, ?_⟩
  · intro s op i o p hpart hbehind hk hst hb hrel
    exact storeApply_waits hpart hk hst hb hbehind hrel
  · intro s op i o p hpart hm hst hb hbehind hrel sub host peer stash filled
    refine ⟨fun hk hn => ?_, ?_⟩
    · have hexec := exec_storeApply hpart hk hst hb hbehind hrel
      refine ⟨fun hs => ?_, fun k hs hclean => ?_, fun u st s' st' v hready _ => ⟨_, hexec, applyWrite_stash hpart hready hn⟩⟩
      · obtain ⟨t, hspan, hops, hput⟩ := writeSpan_hostPut hm 0 p.addr p.data 0
        obtain ⟨hhome, hdone⟩ := applyWrite_far hpart (.inl hs) (by rw [hs]; exact hspan) hops
        rw [← hhome] at hput
        exact ⟨_, hexec, hput, hdone⟩
      · obtain ⟨t, hspan, hops, hput⟩ := writeSpan_peerPut hm (bs := p.data) (by rw [hn]; exact hclean) 0 0
        obtain ⟨hhome, hdone⟩ := applyWrite_far hpart (.inr ⟨k, hs⟩) (by rw [hs]; exact hspan) hops
        rw [← hhome] at hput
        exact ⟨_, hexec, hput, hdone⟩
    · intro old bs hk hp hfree hfirst hbs hn hpos gives'
      have hexec := exec_atomicApply hpart hk hst hb hbehind hrel hfree hfirst
      refine ⟨fun hs hr => ?_, fun k hs hr => ?_, fun u st s' st' v hready hclean hold => ⟨fun ha => ?_, fun ha => ?_⟩⟩
      · refine ⟨_, hexec, applyAtomic_far hpart (.inl hs) hp (by rw [hs]; exact hr) hbs hn
          (put := fun h bs => s.home.hostPut h p.addr bs) ⟨?_, fun x => ⟨rfl, fun _ => rfl⟩⟩ ?_⟩
        · rw [readSpan_host_ok hr]
          exact puts_memRead _ _ _
        · rw [hs]
          exact writeSpan_hostPut hm 0 p.addr bs 0
      · obtain ⟨hmem, hclean⟩ := readSpan_peer_ok hr
        refine ⟨_, hexec, applyAtomic_far hpart (.inr ⟨k, hs⟩) hp (by rw [hs]; exact hr) hbs hn
          (put := fun h bs => s.home.peerPut h k p.addr bs) ⟨?_, fun x => ⟨rfl, rfl, fun _ _ => rfl⟩⟩ ?_⟩
        · rw [hmem]
          exact puts_memRead _ _ _
        · rw [hs]
          exact writeSpan_peerPut hm (by rw [hn]; exact hclean) 0 0
      · obtain ⟨b, hb⟩ := Option.ne_none_iff_exists'.1 ha
        rw [hb, Option.getD_some] at hbs
        exact ⟨_, hexec, applyAtomic_stash hpart hready hp hn hclean hold (hbs ▸ hb)⟩
      · exact ⟨_, hexec, applyAtomic_stash_fails hpart hready hp hclean hold ha⟩
  · intro s op i o p pa hpart hbehind g applied local_
    refine ⟨fun hl hk hn hst hb hrel => ?_, fun hk hst hb hrel hclear hs => storeApply_holds hpart hk hst hb hrel hclear hs,
      fun hl hk hn hst hclear => ?_, fun old dst aop b64 dual hl hk hst hb hp hfree hfirst hrel hr hn => ?_,
      fun old dst b64 hl hk hst hb hp hfree hfirst hrel hr hn => ⟨fun hne => ?_, fun heq hlen => ?_⟩,
      fun w hrel hclear hw hgo => ?_, fun w hk hdone hdue hret hwait hflush hw hothers hlive => ?_⟩
    · exact ⟨_, exec_storeApply hpart hk hst hb hbehind fun h => .inl (hrel h), applyWrite_local hpart hl.1 hl.2 hn⟩
    · exact ⟨_, exec_releaseApply hpart hk hst hclear hbehind, applyWrite_local hpart hl.1 hl.2 hn⟩
    · have hexec := exec_atomicApply hpart (by rw [hk]; rfl) hst hb hbehind (fun h => .inl (hrel h)) hfree hfirst
      exact ⟨_, hexec, applyAtomic_local hpart hl.1 hl.2 hp hr (by rw [hk, ← hn]; rfl) (natBytes_length ..)⟩
    · have hexec := exec_atomicApply hpart (by rw [hk]; rfl) hst hb hbehind (fun h => .inl (hrel h)) hfree hfirst
      have hnone : atomWrite o.kind p old = none := by
        rw [hk, atomWrite, hn]
        exact if_neg (by simpa using hne)
      obtain ⟨hhome, hdone, hdata⟩ := applyAtomic_local_fails hpart hl.1 hl.2 hp hr hnone
      exact ⟨_, hexec, hhome, hdone, hdata⟩
    · have hexec := exec_atomicApply hpart (by rw [hk]; rfl) hst hb hbehind (fun h => .inl (hrel h)) hfree hfirst
      have hsome : atomWrite o.kind p old = some ((p.data.drop p.n).take p.n) := by
        rw [hk, atomWrite, hn]
        exact if_pos (by simpa using heq)
      refine ⟨_, hexec, applyAtomic_local hpart hl.1 hl.2 hp hr hsome ?_⟩
      rw [List.length_take, List.length_drop]
      omega
    · exact releaseClearance_does (part?_iff.1 hpart).1 hrel hclear hw hgo
    · exact storeAck_does (part?_iff.1 hpart).1 hk hdone hdue hret hwait hflush hw hothers hlive

end Sys2Proof.Machine
end

section
/-! Proof of pre-emption, saving and restoring (R347, R353, R354, R359 to R364, R379, R425, R449). -/

namespace Sys2Proof.Machine

/-! ### The commands of a context's block (R347, R353, R354, R362) -/

theorem ctx_modCtx_eq (s : State) (c k : Nat) (f : Ctx → Ctx) :
    (s.modCtx c f).ctx k = if k = c ∧ c < s.ctxs.length then f (s.ctx k) else s.ctx k := by
  simp only [State.ctx, State.modCtx, modAt_getElem?]
  by_cases hk : k = c
  · subst hk
    by_cases hlt : k < s.ctxs.length
    · rw [if_pos rfl, if_pos ⟨rfl, hlt⟩, List.getElem?_eq_getElem hlt]
      rfl
    · rw [if_pos rfl, if_neg fun h => hlt h.2, List.getElem?_eq_none (Nat.not_lt.1 hlt)]
      rfl
  · rw [if_neg hk, if_neg fun h => hk h.1]
/-- Units asked to stop (R359). -/
theorem askPreempt_units (s : State) (p : Placed → Bool) : (s.askPreempt p).units = s.units.map fun u =>
    if p u = true ∧ u.state = .running then { u with preemptReq := true, swapped := false } else u := by
  refine List.map_congr_left fun u _ => if_congr ?_ rfl rfl
  rw [Bool.and_eq_true, Placed.preemptable, beq_iff_eq]
/-- PREEMPTED is set once every cluster of a held context is saved (R363). -/
theorem notePreempted_ctx {s : State} {c : Nat} (hc : c < s.ctxs.length)
    (hheld : (s.ctx c).held = true ∨ ∃ u ∈ s.units, u.ctx = c) (k : Nat) : (s.notePreempted c).ctx k =
      if k = c then { s.ctx c with preempted := (s.ctx c).preempted || decide (∀ u ∈ s.units, u.ctx = c → u.state = .saved) } else s.ctx k := by
  have hall : (s.units.filter (·.ctx == c)).all (·.state == .saved) = decide (∀ u ∈ s.units, u.ctx = c → u.state = .saved) := by
    rw [Bool.eq_iff_iff]
    simp only [List.all_eq_true, List.mem_filter, beq_iff_eq, and_imp, decide_eq_true_eq]
  have hmay : ((s.ctx c).held || s.units.filter (·.ctx == c) != []) = true := by
    rcases hheld with h | ⟨u, hu, huc⟩
    · rw [h, Bool.true_or]
    · have hmem : u ∈ s.units.filter (·.ctx == c) := List.mem_filter.2 ⟨hu, beq_iff_eq.2 huc⟩
      have hne : s.units.filter (·.ctx == c) ≠ [] := List.ne_nil_of_mem hmem
      rw [bne_iff_ne.2 hne, Bool.or_true]
  unfold State.notePreempted
  dsimp only
  rw [hall, hmay, Bool.and_true]
  by_cases hsaved : ∀ u ∈ s.units, u.ctx = c → u.state = .saved
  · rw [decide_eq_true hsaved, if_pos rfl, ctx_modCtx_eq, Bool.or_true]
    by_cases hk : k = c
    · rw [if_pos ⟨hk, hc⟩, if_pos hk, hk]
    · rw [if_neg fun h => hk h.1, if_neg hk]
  · rw [decide_eq_false hsaved, if_neg Bool.false_ne_true, Bool.or_false]
    by_cases hk : k = c
    · rw [if_pos hk, hk]
    · rw [if_neg hk]
section
variable {s : State} {c : BitVec 8} (hlen : s.ctxs.length = 256)
include hlen
theorem ctx_command (f : Ctx → Ctx) : (s.modCtx c.toNat f).ctx c.toNat = f (s.ctx c.toNat) ∧
    ∀ k, k ≠ c.toNat → (s.modCtx c.toNat f).ctx k = s.ctx k := by
  have hc : c.toNat < s.ctxs.length := hlen ▸ c.isLt
  exact ⟨(ctx_modCtx_eq ..).trans (if_pos ⟨rfl, hc⟩), fun k hk => (ctx_modCtx_eq ..).trans (if_neg fun h => hk h.1)⟩
theorem preempt_does : Does (.preempt c) s fun t => t.home = s.home ∧ t.works = s.works ∧
    (t.ops = s.ops ∧ t.ctx c.toNat = { s.ctx c.toNat with
      held := true
      preempted := (s.ctx c.toNat).preempted || decide (∀ u ∈ s.units, u.ctx = c.toNat → u.state = .saved) } ∧
      ∀ k, k ≠ c.toNat → t.ctx k = s.ctx k) ∧
    t.units = s.units.map fun u => if u.ctx = c.toNat ∧ u.state = .running then { u with preemptReq := true, swapped := false } else u := by
  let r : State := (s.modCtx c.toNat fun x => { x with held := true }).askPreempt (·.ctx == c.toNat)
  have hunits : r.units = s.units.map fun u =>
      if u.ctx = c.toNat ∧ u.state = .running then { u with preemptReq := true, swapped := false } else u := by
    refine (askPreempt_units ..).trans (List.map_congr_left fun u _ => if_congr ?_ rfl rfl)
    rw [beq_iff_eq]
  have hsaved : (∀ u ∈ r.units, u.ctx = c.toNat → u.state = .saved) ↔ ∀ u ∈ s.units, u.ctx = c.toNat → u.state = .saved := by
    rw [hunits]
    simp only [List.forall_mem_map]
    refine forall₂_congr fun u _ => ?_
    split
    · rfl
    · rfl
  obtain ⟨hself, hother⟩ := ctx_command hlen fun x => { x with held := true }
  have hctx (k : Nat) : r.ctx k = (s.modCtx c.toNat fun x => { x with held := true }).ctx k := rfl
  have hc : c.toNat < r.ctxs.length := by
    change c.toNat < (modAt s.ctxs _ _).length
    rw [modAt_length, hlen]
    exact c.isLt
  have hnote := notePreempted_ctx (s := r) hc (.inl (by rw [hctx, hself]))
  obtain ⟨ctxs, hframe⟩ := notePreempted_eq r c.toNat
  refine ⟨r.notePreempted c.toNat, rfl, by rw [hframe]; rfl, by rw [hframe]; rfl, ⟨by rw [hframe]; rfl, ?_, fun k hk => ?_⟩, by rw [hframe]; exact hunits⟩
  · rw [hnote, if_pos rfl, hctx, hself]
    simp only [hsaved]
  · rw [hnote, if_neg hk, hctx, hother k hk]
theorem inval_does : Does (.inval c) s fun t => t.home = s.home ∧ t.units = s.units ∧ (t.ops = s.ops ∧
    t.ctx c.toNat = { s.ctx c.toNat with invbusy := true, invs := (s.ctx c.toNat).invs ++ [((s.ctx c.toNat).ivbase, (s.ctx c.toNat).ivlog)] } ∧
      ∀ k, k ≠ c.toNat → t.ctx k = s.ctx k) :=
  ⟨_, rfl, rfl, rfl, rfl, ctx_command hlen _⟩
theorem resume_does : Does (.resume c) s fun t => t.home = s.home ∧ t.works = s.works ∧ t.units = s.units ∧ (t.ops = s.ops ∧
    t.ctx c.toNat = { s.ctx c.toNat with held := false } ∧ ∀ k, k ≠ c.toNat → t.ctx k = s.ctx k) :=
  ⟨_, rfl, rfl, rfl, rfl, rfl, ctx_command hlen _⟩
/-- The pages of an invalidation: those of its context with bytes in its span (R353). -/
def Hold.under (h : Hold) (ctx base n : Nat) : Prop := h.ctx = ctx ∧ overlaps h.ia (2 ^ h.log) base n = true
omit hlen in
theorem uncache_does (h : Home) (ctx base n : Nat) : (∀ ctx' level k leaf, (ctx', level, k, leaf) ∈ (h.uncache ctx base n).tlb ↔
      (ctx', level, k, leaf) ∈ h.tlb ∧ (ctx' ≠ ctx ∨ overlaps (k * 2 ^ (12 + 9 * level)) (2 ^ (12 + 9 * level)) base n = false)) ∧
    (∀ x, x ∈ (h.uncache ctx base n).pins ↔ x ∈ h.pins ∧ ¬ x.under ctx base n) ∧
    ∀ (k : Nat) (x : Hold), h.holds[k]? = some x → (x.under ctx base n → (h.uncache ctx base n).holds[k]? = some { x with stale := true }) ∧
      (¬ x.under ctx base n → (h.uncache ctx base n).holds[k]? = some x) := by
  have hunder (x : Hold) : (x.ctx == ctx && overlaps x.ia (2 ^ x.log) base n) = true ↔ x.under ctx base n := by
    rw [Bool.and_eq_true, beq_iff_eq]
    rfl
  refine ⟨fun ctx' level k leaf => ?_, fun x => ?_, fun k x hx => ?_⟩
  · simp only [Home.uncache, List.mem_filter, Bool.or_eq_true, bne_iff_ne, Bool.not_eq_true']
  · rw [← hunder, Bool.not_eq_true, ← Bool.not_eq_true']
    exact List.mem_filter
  · have hmap : (h.uncache ctx base n).holds[k]? =
        some (if (x.ctx == ctx && overlaps x.ia (2 ^ x.log) base n) = true then { x with stale := true } else x) := by
      change (h.holds.map _)[k]? = _
      rw [List.getElem?_map, hx, Option.map_some]
    exact ⟨fun hu => hmap.trans (by rw [if_pos ((hunder x).2 hu)]), fun hu => hmap.trans (by rw [if_neg (mt (hunder x).1 hu)])⟩
omit hlen in
theorem invalidationDone_does {base : BitVec 45} {log : BitVec 6} {rest : List (BitVec 45 × BitVec 6)}
    (hinv : (s.ctx c.toNat).invs = (base, log) :: rest) : exec (.invalidationDone c) s = .next
      ({ s with home := s.home.uncache c.toNat (base.toNat * 4096) (4096 * 2 ^ log.toNat) }.modCtx c.toNat fun y =>
        { y with invs := rest, invbusy := rest != [] }) := by
  change execInvalidationDone c s = _
  simp only [execInvalidationDone, hinv]
end

/-! ### The victim of a starved launch (R359, R384) -/

/-- A unit goes before another as the victim: of lower priority, or as low and committed later. -/
def Placed.victimBefore (v u : Placed) : Prop :=
  v.cfg.priority < u.cfg.priority ∨ (v.cfg.priority = u.cfg.priority ∧ u.committed < v.committed)
theorem victim_of_least {s : State} {p : Nat} {v : Placed} (hv : v ∈ s.units) (hrun : v.state = .running) (hp : v.cfg.priority < p)
    (hleast : ∀ u ∈ s.units, u.state = .running → u.cfg.priority < p → u = v ∨ v.victimBefore u) : s.victim p = some v := by
  let pick (b : Option Placed) (u : Placed) : Option Placed := match b with
    | some v =>
      if u.cfg.priority < v.cfg.priority || (u.cfg.priority == v.cfg.priority && v.committed < u.committed) then some u else some v
    | none => some u
  have hpick (u x : Placed) : pick (some x) u = some u ∧ u.victimBefore x ∨ pick (some x) u = some x ∧ ¬ u.victimBefore x := by
    have hcond : (decide (u.cfg.priority < x.cfg.priority) || (u.cfg.priority == x.cfg.priority && decide (x.committed < u.committed))) = true ↔
        u.victimBefore x := by
      simp only [Bool.or_eq_true, Bool.and_eq_true, decide_eq_true_eq, beq_iff_eq]
      rfl
    by_cases h : u.victimBefore x
    · exact .inl ⟨if_pos (hcond.2 h), h⟩
    · exact .inr ⟨if_neg (mt hcond.1 h), h⟩
  have hkeep (us : List Placed) (hus : ∀ u ∈ us, u = v ∨ v.victimBefore u) : us.foldl pick (some v) = some v := by
    refine List.foldlRecOn (motive := (· = some v)) us pick rfl fun b hb u hu => ?_
    rw [hb]
    rcases hpick u v with ⟨-, hbefore⟩ | ⟨hkept, -⟩
    · rcases hus u hu with rfl | h
      · rcases hbefore with h | ⟨-, h⟩ <;> omega
      · rcases hbefore with h' | ⟨h', h''⟩ <;> rcases h with h | ⟨h, h'''⟩ <;> omega
    · exact hkept
  have hfind (us : List Placed) (b : Option Placed) (hb : ∀ x, b = some x → x = v ∨ v.victimBefore x)
      (hus : ∀ u ∈ us, u = v ∨ v.victimBefore u) (hin : v ∈ us) : us.foldl pick b = some v := by
    induction us generalizing b with
    | nil => exact absurd hin List.not_mem_nil
    | cons u us ih =>
      have hrest : ∀ x ∈ us, x = v ∨ v.victimBefore x := fun x hx => hus x (List.mem_cons_of_mem _ hx)
      rw [List.foldl_cons]
      by_cases huv : u = v
      · have htaken : pick b u = some v := by
          rw [huv]
          cases hb' : b with
          | none => rfl
          | some x =>
            rcases hpick v x with ⟨h, -⟩ | ⟨h, hnot⟩
            · exact h
            · rcases hb x hb' with rfl | hbefore
              · exact h
              · exact absurd hbefore hnot
        rw [htaken]
        exact hkeep us hrest
      · refine ih (pick b u) (fun x hx => ?_) hrest ((List.mem_cons.1 hin).resolve_left fun h => huv h.symm)
        cases hb' : b with
        | none =>
          rw [hb'] at hx
          obtain rfl := Option.some.inj hx
          exact hus u List.mem_cons_self
        | some y =>
          rw [hb'] at hx
          rcases hpick u y with ⟨h, -⟩ | ⟨h, -⟩
          · obtain rfl := Option.some.inj (h.symm.trans hx)
            exact hus u List.mem_cons_self
          · obtain rfl := Option.some.inj (h.symm.trans hx)
            exact hb y hb'
  refine hfind _ none (fun x hx => by cases hx) (fun u hu => ?_) (List.mem_filter.2 ⟨hv, by simp [Placed.preemptable, hrun, hp]⟩)
  obtain ⟨hmem, hcond⟩ := List.mem_filter.1 hu
  simp only [Placed.preemptable, Bool.and_eq_true, beq_iff_eq, decide_eq_true_eq] at hcond
  exact hleast u hmem hcond.1 hcond.2
theorem exec_priorityPreempt {s : State} {w : Work} {v : Placed} (hw : s.work? w.id = some w) (hstarved : s.starved w = true)
    (htop : s.topPriority w = true) (hnone : ∀ u ∈ s.units, u.state = .saved ∨ u.preemptReq = false)
    (hv : s.victim w.cfg.priority = some v) : exec (.priorityPreempt w.id) s = .next (s.askPreempt fun u => u.id == v.id ||
      (v.cfg.det != 0 && ((s.workOf v).map (·.job.isNone)).getD false && u.work == v.work)) := by
  have hunder : (s.units.any fun u => u.onCore && u.preemptReq) = false :=
    List.any_eq_false.2 fun u hu => by rcases hnone u hu with h | h <;> simp [Placed.onCore, h]
  change execPriorityPreempt w.id s = _
  simp only [execPriorityPreempt, hw, hstarved, htop, hunder, hv, Bool.not_true, Bool.or_self, Bool.false_eq_true, if_false]

/-! ### Parked units swapped out (R379, R449) -/

theorem longParked_iff {s : State} {u : Placed} : s.longParked u = true ↔ (∃ g ∈ u.wgs, ∃ w ∈ g.warps, ∃ t ∈ w.threads, t.exited = false) ∧
    ∀ g ∈ u.wgs, ∀ w ∈ g.warps, ∀ t ∈ w.threads, t.exited = true ∨
      ((t.busy ≠ none ∨ t.ordPos ≠ none) ∧ ∃ k, t.parked = some k ∧ k + 4096 ≤ s.now g.core) := by
  have hthread (t : Thread) (now : Nat) : t.longParked now = true ↔
      (t.busy ≠ none ∨ t.ordPos ≠ none) ∧ ∃ k, t.parked = some k ∧ k + 4096 ≤ now := by
    rw [Thread.longParked, Bool.and_eq_true, Bool.or_eq_true, Option.isSome_iff_ne_none, Option.isSome_iff_ne_none]
    refine and_congr Iff.rfl ?_
    cases t.parked <;> simp
  simp only [State.longParked, Placed.anyThread, Bool.and_eq_true, List.any_eq_true, List.all_eq_true, Bool.or_eq_true, Bool.not_eq_true',
    hthread]
section
variable {s : State} {u : Placed} (hu : s.unit? u.id = some u) (hrun : u.state = .running) (hreq : u.preemptReq = false)
  (hdet : u.cfg.det = 0) (hready : ∃ w ∈ s.works, s.workReady w = true)
include hu hrun hreq hdet hready
theorem exec_swapOut : exec (.swapOut u.id) s = .next (if s.longParked u then
    s.modUnit u.id fun u => { u with preemptReq := true, swapped := true } else s) := by
  have hworks : s.works.any s.workReady = true := List.any_eq_true.2 hready
  change execSwapOut u.id s = _
  rw [apply_ite Host.Outcome.next]
  simp only [execSwapOut, hu, hrun, hreq, hdet, hworks, beq_self_eq_true, Bool.not_false, Bool.true_and]
end

/-! ### Units stopped (R66, R159, R278, R360, R390, R458) -/

theorem zipIdx_map_getElem? {α β : Type} {xs : List α} {i : Nat} {x : α} (h : xs[i]? = some x) (f : α × Nat → β) :
    (xs.zipIdx.map f)[i]? = some (f (x, i)) := by
  rw [List.getElem?_map, List.getElem?_zipIdx, h, Nat.zero_add]
  rfl
/-- What a stop leaves of a unit beside its threads. -/
def Placed.standsAs (u v : Placed) : Prop := v.spad = u.spad ∧ v.stash = u.stash ∧ v.saveSlot = u.saveSlot
theorem stopUnit_keeps (s : State) (u : Placed) : (s.stopUnit u).home = s.home ∧
    (∀ o, o ∈ (s.stopUnit u).ops ↔ o ∈ s.ops ∧ (o.w.unit ≠ u.id ∨ o.kind.dropped u.swapped = false)) ∧
    ∀ id x, s.unit? id = some x → ∃ y, (s.stopUnit u).unit? id = some y ∧ x.standsAs y ∧
      (id = u.id ∨ x.state = .stopping → y.state = .stopping) := by
  refine ⟨rfl, fun o => ?_, fun id x hx => ?_⟩
  · refine List.mem_filter.trans (and_congr Iff.rfl ?_)
    rw [Bool.or_eq_true, bne_iff_ne, Bool.not_eq_true']
  · have hmap := unit?_modUnit s u.id id (fun v => { v with
      state := .stopping, stopAt := false, stepTurn := false, dumps := []
      wgs := (v.wgs.zipIdx).map fun (g, gi) => { g with warps := (g.warps.zipIdx).map fun (w, wi) => s.stopWarp v gi wi w } }) fun _ => rfl
    rw [hx, Option.map_some] at hmap
    by_cases hid : (x.id == u.id) = true
    · rw [if_pos hid] at hmap
      exact ⟨_, hmap, ⟨rfl, rfl, rfl⟩, fun _ => rfl⟩
    · rw [if_neg hid] at hmap
      refine ⟨x, hmap, ⟨rfl, rfl, rfl⟩, fun h => h.resolve_left fun heq => hid ?_⟩
      rw [unit?_id hx, heq, beq_self_eq_true]
theorem foldl_stopUnit (vs : List Placed) (s : State) : (vs.foldl State.stopUnit s).home = s.home ∧
    (∀ o, o ∈ (vs.foldl State.stopUnit s).ops ↔ o ∈ s.ops ∧ ∀ v ∈ vs, o.w.unit ≠ v.id ∨ o.kind.dropped v.swapped = false) ∧
    ∀ id x, s.unit? id = some x → ∃ y, (vs.foldl State.stopUnit s).unit? id = some y ∧ x.standsAs y ∧
      ((∃ v ∈ vs, v.id = id) ∨ x.state = .stopping → y.state = .stopping) := by
  induction vs generalizing s with
  | nil => exact ⟨rfl, fun o => by simp, fun id x hx => ⟨x, hx, ⟨rfl, rfl, rfl⟩, fun h => h.resolve_left (by simp)⟩⟩
  | cons v vs ih =>
    obtain ⟨hhome, hops, hunit⟩ := stopUnit_keeps s v
    obtain ⟨khome, kops, kunit⟩ := ih (s.stopUnit v)
    refine ⟨khome.trans hhome, fun o => ?_, fun id x hx => ?_⟩
    · refine (kops o).trans ?_
      rw [hops, List.forall_mem_cons, and_assoc]
    · obtain ⟨y, hy, ⟨h1, h2, h3⟩, hstate⟩ := hunit id x hx
      obtain ⟨z, hz, ⟨k1, k2, k3⟩, kstate⟩ := kunit id y hy
      refine ⟨z, hz, ⟨k1.trans h1, k2.trans h2, k3.trans h3⟩, fun h => kstate ?_⟩
      rcases h with ⟨w, hw, hid⟩ | h
      · rcases List.mem_cons.1 hw with rfl | hw
        · exact .inr (hstate (.inl hid.symm))
        · exact .inl ⟨w, hw, hid⟩
      · exact .inr (hstate (.inr h))
theorem unit?_mem {s : State} {id : Nat} {u : Placed} (h : s.unit? id = some u) : u ∈ s.units :=
  List.mem_of_find?_eq_some h
theorem unit?_of_mem {s : State} {u : Placed} (h : u ∈ s.units) : ∃ x, s.unit? u.id = some x := by
  unfold State.unit?
  rw [← Option.isSome_iff_exists, List.find?_isSome]
  exact ⟨u, h, beq_self_eq_true _⟩
/-- A unit that may be asked stops together with its set, and is in it. -/
theorem stopSet_units {s : State} {u : Placed} (hu : s.unit? u.id = some u) (hrun : u.state = .running) :
    (∀ v ∈ s.stopSet u, v ∈ s.units) ∧ u ∈ s.stopSet u := by
  unfold State.stopSet
  split
  · exact ⟨fun v hv => by rw [List.mem_singleton.1 hv]; exact unit?_mem hu, List.mem_singleton_self u⟩
  · next h =>
    have hdet : u.cfg.det = 0 := by
      by_contra hne
      exact h (by simp [hne])
    exact ⟨fun v hv => (List.mem_filter.1 hv).1, List.mem_filter.2 ⟨unit?_mem hu, by simp [hrun, hdet]⟩⟩

section
variable {s : State} {u : Placed} (hu : s.unit? u.id = some u) (ok : Bool)
include hu
/-- A pre-emption that is due takes effect, or waits (R66, R360). -/
theorem exec_preemptionSave_asked (hrun : u.state = .running) (hreq : u.preemptReq = true) (hdue : u.swapped = false ∨ s.longParked u = true) :
    exec (.preemptionSave u.id ok) s = .next (if s.mayStop u then (s.stopSet u).foldl State.stopUnit s else s) := by
  have hgo : (u.swapped && !s.longParked u) = false := by
    rcases hdue with h | h <;> simp [h]
  change execPreemptionSave u.id ok s = _
  simp only [execPreemptionSave, hu, hrun, hreq, hgo, beq_self_eq_true, Bool.and_self, Bool.false_eq_true, if_false, if_true]
theorem preemptionSave_stops (hrun : u.state = .running) (hreq : u.preemptReq = true) (hdue : u.swapped = false ∨ s.longParked u = true)
    (hmay : s.mayStop u = true) : Does (.preemptionSave u.id ok) s fun t => t.home = s.home ∧
      (∀ o, o ∈ t.ops ↔ o ∈ s.ops ∧ ∀ v ∈ s.stopSet u, o.w.unit ≠ v.id ∨ o.kind.dropped v.swapped = false) ∧
      (∀ v ∈ s.stopSet u, (t.unit? v.id).map (·.state) = some .stopping) ∧
      ∃ v, t.unit? u.id = some v ∧ v.state = .stopping ∧ v.spad = u.spad ∧ v.stash = u.stash ∧ v.saveSlot = u.saveSlot := by
  have hexec := exec_preemptionSave_asked hu ok hrun hreq hdue
  rw [hmay, if_pos rfl] at hexec
  obtain ⟨hhome, hops, hunit⟩ := foldl_stopUnit (s.stopSet u) s
  obtain ⟨hmem, hself⟩ := stopSet_units hu hrun
  refine ⟨_, hexec, hhome, hops, fun v hv => ?_, ?_⟩
  · obtain ⟨x, hx⟩ := unit?_of_mem (hmem v hv)
    obtain ⟨y, hy, -, hstate⟩ := hunit v.id x hx
    rw [hy, Option.map_some, hstate (.inl ⟨v, hv, rfl⟩)]
  · obtain ⟨y, hy, ⟨h1, h2, h3⟩, hstate⟩ := hunit u.id u hu
    exact ⟨y, hy, hstate (.inl ⟨u, hself, rfl⟩), h1, h2, h3⟩
theorem preemptionSave_givesUp (hrun : u.state = .running) (hreq : u.preemptReq = true) (hswap : u.swapped = true)
    (hnot : s.longParked u = false) : Does (.preemptionSave u.id ok) s fun t => t.home = s.home ∧ t.ops = s.ops ∧
      t.unit? u.id = some { u with preemptReq := false, swapped := false } := by
  refine ⟨s.modUnit u.id fun u => { u with preemptReq := false, swapped := false }, ?_, rfl, rfl, unit?_modUnit_same hu (by intro; rfl)⟩
  change execPreemptionSave u.id ok s = _
  simp only [execPreemptionSave, hu, hrun, hreq, hswap, hnot, beq_self_eq_true, Bool.not_false, Bool.and_self, if_true]
theorem exec_preemptionSave_stopped (hstop : u.state = .stopping) (hdone : s.stopDone u = true) :
    exec (.preemptionSave u.id ok) s = .next (s.saveStopped u ok) := by
  have hrun : (UnitState.stopping == UnitState.running) = false := rfl
  change execPreemptionSave u.id ok s = _
  simp only [execPreemptionSave, hu, hstop, hdone, hrun, beq_self_eq_true, Bool.false_and, Bool.and_self, Bool.false_eq_true, if_false, if_true]
theorem preemptionSave_retires (hstop : u.state = .stopping) (hdone : s.stopDone u = true) (hnone : u.anyThread (!·.exited) = false) :
    Does (.preemptionSave u.id ok) s fun t => t.home = s.home ∧ t.unit? u.id = some { u with state := .running, preemptReq := false } := by
  refine ⟨s.modUnit u.id fun u => { u with state := .running, preemptReq := false }, ?_, rfl, unit?_modUnit_same hu (by intro; rfl)⟩
  rw [exec_preemptionSave_stopped hu ok hstop hdone, State.saveStopped, hnone]
  rfl
theorem exec_preemptionSave_saves (hstop : u.state = .stopping) (hdone : s.stopDone u = true) (hlive : u.anyThread (!·.exited) = true)
    (hclean : ∀ x ∈ u.stash, x.dirty = []) : exec (.preemptionSave u.id ok) s = .next (s.saveUnit u ok) := by
  have hstash : (u.stash.any (·.dirty != [])) = false := by
    simpa only [List.any_eq_false, bne_iff_ne, ne_eq, not_not] using hclean
  rw [exec_preemptionSave_stopped hu ok hstop hdone, State.saveStopped, hlive, hstash]
  rfl
end

/-! ### A cluster that is discarded (R364) -/

theorem notePreempted_failed (s : State) (c k : Nat) : ((s.notePreempted c).ctx k).failed = (s.ctx k).failed := by
  unfold State.notePreempted
  dsimp only
  split
  · rw [ctx_modCtx_eq]
    split <;> rfl
  · rfl
theorem leaveCores_does (s : State) (w : Work) (n : Nat) (u : Placed) (faulted : Bool) (digest : Nat) :
    (s.leaveCores w n u faulted digest).irqs = s.irqs ∧ (s.leaveCores w n u faulted digest).units = s.units.filter (·.id != u.id) ∧
      (∀ k, ((s.leaveCores w n u faulted digest).ctx k).failed = (s.ctx k).failed) ∧
      ∀ y, s.work? w.id = some y → (s.leaveCores w n u faulted digest).work? w.id =
        some { y.setPos n (u.outcome faulted digest) with gwct := max y.gwct u.maxGwct } := by
  let t : State := { ((s.detachOps u).clearUnit u.id).modWork w.id fun x =>
    { (x.setPos n (u.outcome faulted digest)) with gwct := max x.gwct u.maxGwct } with left := s.left ++ [u] }
  have hleave : s.leaveCores w n u faulted digest = t.notePreempted u.ctx := rfl
  obtain ⟨ctxs, hnote⟩ := notePreempted_eq t u.ctx
  rw [hleave]
  refine ⟨by rw [hnote]; rfl, by rw [hnote]; rfl, fun k => notePreempted_failed t u.ctx k, fun y hy => ?_⟩
  rw [hnote]
  exact work?_modWork_self (s := (s.detachOps u).clearUnit u.id) hy fun _ => rfl
theorem unit?_none {s t : State} {id : Nat} (h : t.units = s.units.filter (·.id != id)) : t.unit? id = none := by
  unfold State.unit?
  rw [h]
  exact List.find?_eq_none.2 fun x hx => by simpa using (List.mem_filter.1 hx).2
theorem discard_units (s : State) (u : Placed) (r : Record) : (s.discard u r).units = s.units.filter (·.id != u.id) := by
  have hposted := (posted_postTask s u.queue r).units
  unfold State.discard
  dsimp only
  split
  · obtain ⟨-, hunits, -⟩ := leaveCores_does (s.postTask u.queue r) (by assumption) ((by assumption : Work).posOf u.idx) u true 0
    rw [hunits, hposted]
  · obtain ⟨ctxs, hnote⟩ := notePreempted_eq (((s.postTask u.queue r).detachOps u).clearUnit u.id) u.ctx
    rw [hnote]
    exact congrArg (List.filter _) hposted
theorem discard_does {s : State} {u : Placed} {w : Work} (hw : s.work? u.work = some w) (r : Record) :
    (s.discard u r).irqs = (32 + u.queue) :: s.irqs ∧ (s.discard u r).unit? u.id = none ∧
      (∀ k, ((s.discard u r).ctx k).failed = (s.ctx k).failed) ∧ ∃ x, (s.discard u r).work? u.work = some x ∧
        x.pos = (w.setPos (w.posOf u.idx) (.finished u.id true 0 u.rerun u.maxGwct)).pos := by
  have hposted := posted_postTask s u.queue r
  have hwork : (s.postTask u.queue r).work? u.work = some w := (work?_congr hposted.works _).trans hw
  have hid := work?_id hw
  have hdiscard : s.discard u r = (s.postTask u.queue r).leaveCores w (w.posOf u.idx) u true 0 := by
    unfold State.discard State.workOf
    dsimp only
    rw [hwork]
  obtain ⟨hirqs, hunits, hfailed, hleft⟩ := leaveCores_does (s.postTask u.queue r) w (w.posOf u.idx) u true 0
  have hctx (k : Nat) : (s.postTask u.queue r).ctx k = s.ctx k := by
    obtain ⟨_, _, _, _, _, hframe⟩ := hposted.frame
    rw [hframe]
    rfl
  refine ⟨?_, unit?_none (discard_units s u r), fun k => ?_, ?_⟩
  · rw [hdiscard, hirqs, hposted.irqs]
    rfl
  · rw [hdiscard, hfailed, hctx]
  · rw [hdiscard]
    rw [hid] at hleft
    exact ⟨_, hleft w hwork, rfl⟩
theorem saveFault_units (s : State) (u : Placed) : (s.saveFault u).units = s.units.filter (·.id != u.id) := discard_units ..
theorem saveFault_does {s : State} {u : Placed} {w : Work} (hw : s.work? u.work = some w) : (s.saveFault u).irqs = (32 + u.queue) :: s.irqs ∧
    (s.saveFault u).unit? u.id = none ∧ (u.ctx < s.ctxs.length → ((s.saveFault u).ctx u.ctx).failed = true) ∧
    ∃ x, (s.saveFault u).work? u.work = some x ∧ x.pos = (w.setPos (w.posOf u.idx) (.finished u.id true 0 u.rerun u.maxGwct)).pos := by
  obtain ⟨hirqs, hunit, hfailed, hwork⟩ := discard_does (s := s.modCtx u.ctx fun x => { x with failed := true }) hw
    (u.failRecord 0x18 (s.slotBase u % 2 ^ 64) 0x11)
  exact ⟨hirqs, hunit, fun hc => (hfailed u.ctx).trans (by rw [ctx_modCtx_eq, if_pos ⟨rfl, hc⟩]), hwork⟩
theorem foldl_saveFault (vs : List Placed) (s : State) : ∀ v ∈ vs, (vs.foldl State.saveFault s).unit? v.id = none := by
  have hgone (us : List Placed) (t : State) {id : Nat} (h : ∀ x ∈ t.units, x.id ≠ id) : ∀ x ∈ (us.foldl State.saveFault t).units, x.id ≠ id := by
    refine List.foldlRecOn (motive := fun r : State => ∀ x ∈ r.units, x.id ≠ id) us State.saveFault h fun r hr u _ x hx => ?_
    rw [saveFault_units] at hx
    exact hr x (List.mem_filter.1 hx).1
  induction vs generalizing s with
  | nil => exact fun v hv => absurd hv List.not_mem_nil
  | cons u vs ih =>
    intro v hv
    rcases List.mem_cons.1 hv with rfl | hv
    · refine List.find?_eq_none.2 fun x hx => ?_
      rw [beq_iff_eq]
      refine hgone vs (s.saveFault v) (fun y hy => ?_) x hx
      rw [saveFault_units] at hy
      exact bne_iff_ne.1 (List.mem_filter.1 hy).2
    · exact ih (s.saveFault u) v hv

theorem retry_does (s : State) (c : BitVec 8) : Does (.retry c) s fun t => t.home = s.home ∧ t.units = s.units ∧
    (t.ops = s.ops ∧ t.ctx c.toNat = s.ctx c.toNat ∧ ∀ k, k ≠ c.toNat → t.ctx k = s.ctx k) ∧ t.works = s.works.map fun w =>
      if w.ctx = c.toNat then { w with reqs := w.reqs.map fun r => { r with waiting := false } } else w :=
  ⟨_, rfl, rfl, rfl, ⟨rfl, rfl, fun _ _ => rfl⟩, List.map_congr_left fun _ _ => if_congr beq_iff_eq rfl rfl⟩
theorem exec_invalidationDone_none {s : State} {c : BitVec 8} (h : (s.ctx c.toNat).invs = []) : exec (.invalidationDone c) s = .next s := by
  change execInvalidationDone c s = _
  simp only [execInvalidationDone, h]

/-! ### A unit saved (R110, R111, R360, R361, R363) -/

/-- A unit as a save leaves it. -/
def Placed.asSaved (u : Placed) (job : Bool) (gwct : Nat) : Placed := { u with
  state := .saved, preemptReq := false, gwct := gwct
  wgs := (u.wgs.zipIdx).map fun (w, gi) => { w with warps := (w.warps.zipIdx).map fun (x, wi) => savedWarp u job gi wi x } }
/-- The L1 contents of the cores that a unit leaves go. -/
def Core.dropL1 (cs : List Nat) (c : Core) : Core := if cs.contains c.id then { c with l1 := [] } else c
/-- The state in which a unit is saved, before PREEMPTED is looked at. -/
def State.stored (s : State) (u : Placed) : State :=
  let t := (s.detachOps u).slotWrite u (s.saveImage u)
  let r := ({ t with freeCtr := t.freeCtr + 1 } : State).modUnit u.id fun v => v.asSaved (((s.workOf u).map (·.job.isSome)).getD false) u.maxGwct
  { r with cores := r.cores.map (Core.dropL1 (u.wgs.map (·.core))) }
theorem saveUnit_stored {s : State} {u : Placed} (hgood : s.slotBad u (s.saveImage u) = false) :
    s.saveUnit u true = (s.stored u).notePreempted u.ctx := by
  have hgo : (!true || s.slotBad u (s.saveImage u)) = false := by rw [hgood]; rfl
  unfold State.saveUnit
  dsimp only
  rw [if_neg (by rw [hgo]; exact Bool.false_ne_true)]
  rfl
section
variable {s : State} {u : Placed} (hu : s.unit? u.id = some u)
include hu
theorem stored_unit : (s.stored u).unit? u.id = some (u.asSaved (((s.workOf u).map (·.job.isSome)).getD false) u.maxGwct) :=
  unit?_modUnit_same (s := { (s.detachOps u).slotWrite u (s.saveImage u) with freeCtr := s.freeCtr + 1 }) hu (by intro; rfl)
/-- PREEMPTED after a save: set with the last cluster of the context that was not saved (R363). -/
theorem stored_preempted : (((s.stored u).notePreempted u.ctx).ctx u.ctx).preempted = ((s.ctx u.ctx).preempted ||
    decide (u.ctx < s.ctxs.length ∧ ∀ x ∈ s.units, x.ctx = u.ctx → x.id = u.id ∨ x.state = .saved)) := by
  have hctx : (s.stored u).ctx u.ctx = s.ctx u.ctx := rfl
  by_cases hc : u.ctx < s.ctxs.length
  · have hin : ∃ v ∈ (s.stored u).units, v.ctx = u.ctx := ⟨_, unit?_mem (stored_unit hu), rfl⟩
    have hsaved : (∀ v ∈ (s.stored u).units, v.ctx = u.ctx → v.state = .saved) ↔
        ∀ x ∈ s.units, x.ctx = u.ctx → x.id = u.id ∨ x.state = .saved := by
      change (∀ v ∈ s.units.map _, _) ↔ _
      rw [List.forall_mem_map]
      refine forall₂_congr fun x _ => ?_
      by_cases hid : x.id = u.id
      · rw [if_pos (beq_iff_eq.2 hid)]
        exact iff_of_true (fun _ => rfl) fun _ => .inl hid
      · rw [if_neg (mt beq_iff_eq.1 hid), or_iff_right hid]
    rw [notePreempted_ctx (s := s.stored u) hc (.inr hin), if_pos rfl, hctx]
    simp only [hsaved, hc, true_and]
  · have hreset (t : State) (ht : t.ctxs.length = s.ctxs.length) : t.ctx u.ctx = Ctx.reset := by
      unfold State.ctx
      rw [List.getElem?_eq_none (by omega)]
      rfl
    have hlen : ((s.stored u).notePreempted u.ctx).ctxs.length = s.ctxs.length := by
      unfold State.notePreempted
      dsimp only
      split
      · exact modAt_length ..
      · rfl
    rw [hreset _ hlen, hreset s rfl, decide_eq_false fun h => hc h.1, Bool.or_false]
omit hu in
/-- What a save keeps of a warp and of its threads (R110, R111, R361). -/
theorem asSaved_thread {job : Bool} {gwct gi wi l : Nat} {g : Workgroup} {x : Warp} {th : Thread} (hg : u.wgs[gi]? = some g)
    (hx : g.warps[wi]? = some x) (hth : x.threads[l]? = some th) : ∃ (g' : Workgroup) (x' : Warp) (th' : Thread),
      (u.asSaved job gwct).wgs[gi]? = some g' ∧ g'.warps[wi]? = some x' ∧ x'.threads[l]? = some th' ∧ g'.bars = g.bars ∧
      g'.handles = g.handles ∧ x'.mxstat = x.mxstat ∧ x'.ckpt = x.ckpt ∧ x'.graph = [] ∧ x'.sb = [] ∧ x'.gwct = 0 ∧
      x'.digest = (if x.live = [] then x.digest else 0) ∧ th'.hints = Hints.none ∧ th'.exited = th.exited ∧ th'.ckpt = th.ckpt ∧
      th'.parked = th.parked ∧ th'.ordPos = th.ordPos ∧ th'.matched = th.matched ∧ (th.exited = true → th'.draws = th.draws) :=
  ⟨_, savedWarp u job gi wi x, savedThread u job gi wi l th, zipIdx_map_getElem? hg _, zipIdx_map_getElem? hx _,
    zipIdx_map_getElem? hth _, rfl, rfl, rfl, rfl, rfl, rfl, rfl, rfl, rfl, rfl, rfl, rfl, rfl, rfl, fun h => if_pos h⟩
end

/-! ### A starved launch's victim (R359, R384) -/

section
variable {s : State} {w : Work} {v : Placed} (hexec : exec (.priorityPreempt w.id) s = .next (s.askPreempt fun u => u.id == v.id ||
      (v.cfg.det != 0 && ((s.workOf v).map (·.job.isNone)).getD false && u.work == v.work)))
include hexec
theorem priorityPreempt_cluster (hdet : v.cfg.det = 0) : Does (.priorityPreempt w.id) s fun t => t.home = s.home ∧ t.works = s.works ∧
    t.ctxs = s.ctxs ∧ t.units = s.units.map fun u =>
      if u.id = v.id ∧ u.state = .running then { u with preemptReq := true, swapped := false } else u := by
  refine ⟨_, hexec, rfl, rfl, rfl, (askPreempt_units ..).trans (List.map_congr_left fun u _ => if_congr (and_congr ?_ Iff.rfl) rfl rfl)⟩
  rw [hdet, bne_self_eq_false, Bool.false_and, Bool.false_and, Bool.or_false, beq_iff_eq]
theorem priorityPreempt_wave (hdet : v.cfg.det ≠ 0) {y : Work} (hy : s.work? v.work = some y) (hjob : y.job = none) :
    Does (.priorityPreempt w.id) s fun t => t.home = s.home ∧ t.units = s.units.map fun u =>
      if (u.id = v.id ∨ u.work = v.work) ∧ u.state = .running then { u with preemptReq := true, swapped := false } else u := by
  have hwave : (v.cfg.det != 0 && ((s.workOf v).map (·.job.isNone)).getD false) = true := by
    rw [State.workOf, hy, Option.map_some, hjob, bne_iff_ne.2 hdet]
    rfl
  refine ⟨_, hexec, rfl, (askPreempt_units ..).trans (List.map_congr_left fun u _ => if_congr (and_congr ?_ Iff.rfl) rfl rfl)⟩
  rw [hwave, Bool.true_and, Bool.or_eq_true, beq_iff_eq, beq_iff_eq]
end

/-! ### What a slot gives back (R110, R111, R239, R361) -/

theorem putAll_getElem? {α : Type} (f : Nat → α) (ns : List Nat) (xs : List α) {n : Nat} (hn : n < xs.length) :
    (putAll f ns xs)[n]? = if n ∈ ns then some (f n) else xs[n]? := by
  refine (foldl_modAt_idem (f := fun k _ => f k) (fun _ _ => rfl) ns xs n).trans ?_
  rw [List.getElem?_eq_getElem hn]
  rfl
theorem putAll_replicate {α : Type} (f : Nat → α) (ns : List Nat) (k : Nat) (z : α) {n : Nat} (hn : n < k) :
    (putAll f ns (List.replicate k z))[n]? = some (if n ∈ ns then f n else z) := by
  rw [putAll_getElem? f ns _ (by rwa [List.length_replicate]), List.getElem?_replicate, if_pos hn, apply_ite some]
/-- A thread as a restore outside deterministic mode takes it from its thread part (R111, R361). -/
def State.givesThread (s : State) (u : Placed) (job : Bool) (gi wi l : Nat) (th th' : Thread) : Prop :=
  let o := threadSlot gi wi l
  let pc := bytesNat (s.slotRead u o 9)
  let regs := s.listed u pc (bytesNat (s.slotRead u (o + 9) 2))
  th'.exited = (bytesNat (s.slotRead u (o + 3360) 8) % 2 == 1) ∧ th'.hints = Hints.none ∧ th'.matched = none ∧
    (th.ckpt = none → th'.pc = u.cfg.entry ∧ th'.draws = (if th'.exited = true then th.draws else 0) ∧
      th'.g = (List.range u.cfg.gregs).map (preload u job gi wi l)) ∧
    (th.ckpt ≠ none → th'.exited = false → th'.pc = BitVec.ofNat 72 pc ∧
      th'.draws = BitVec.ofNat 34 (bytesNat (s.slotRead u (o + 11) 5)) ∧
      (∀ n < u.cfg.gregs, th'.g[n]? = some (if n ∈ regs.1 then s.slotG u o n else GReg.zero u.cfg)) ∧
      (∀ n < 8, th'.a[n]? = some (if n ∈ regs.2.1 then s.slotA u o n else AReg.zero)) ∧
      ∀ n < 7, th'.p[n]? = some (if n ∈ regs.2.2 then s.slotP u o n else ⟨false, 0⟩))
theorem loadThread_gives (s : State) (u : Placed) (hdet : u.cfg.det = 0) (job : Bool) (gi wi l : Nat) (th : Thread) :
    s.givesThread u job gi wi l th (s.loadThread u job gi wi l th) := by
  obtain ⟨gone, hgone⟩ : ∃ b, bitOf (bytesNat (s.slotRead u (threadSlot gi wi l + 3360) 8)) 0 = b := ⟨_, rfl⟩
  have hbit : gone = (bytesNat (s.slotRead u (threadSlot gi wi l + 3360) 8) % 2 == 1) := by
    rw [← hgone, bitOf, pow_zero, Nat.div_one]
  have hmatch (b : Bool) : (b && u.cfg.det != 0) = false := by rw [hdet, bne_self_eq_false, Bool.and_false]
  unfold State.givesThread State.loadThread
  dsimp only
  simp only [hgone, hmatch, Bool.false_eq_true, if_false]
  by_cases hback : (th.ckpt.isNone || gone) = true
  · rw [if_pos hback]
    refine ⟨hbit, rfl, rfl, fun _ => ⟨rfl, rfl, rfl⟩, fun hck hex => ?_⟩
    rcases Bool.or_eq_true_iff.1 hback with h | h
    · exact absurd (Option.isNone_iff_eq_none.1 h) hck
    · exact absurd (h.symm.trans hex) Bool.noConfusion
  · rw [if_neg hback]
    refine ⟨hbit, rfl, rfl, fun hck => absurd (by rw [hck]; rfl) hback, fun _ _ => ⟨rfl, rfl, fun n hn => ?_, fun n hn => ?_, fun n hn => ?_⟩⟩
    · exact putAll_replicate _ _ _ _ hn
    · exact putAll_replicate _ _ _ _ hn
    · exact putAll_replicate _ _ _ _ hn
theorem mem_onesOf {v n k : Nat} : n ∈ onesOf v k ↔ n < k ∧ bitOf v n = true := by
  rw [onesOf, List.mem_filter, List.mem_range]
/-- A tile that a live thread's region lists comes from the warp part (R239). -/
def State.givesTiles (s : State) (u : Placed) (gi wi : Nat) (x x' : Warp) : Prop :=
  x.live ≠ [] → x.ckpt ≠ none → ∀ n < u.cfg.tiles, (∃ e ∈ liveEntries u.cfg x'.threads, e.m.getLsbD n = true) →
    x'.tiles[n]? = some (s.slotTile u (warpSlot gi wi) n)
theorem loadWarp_gives (s : State) (u : Placed) (job : Bool) (gi wi : Nat) (x : Warp) :
    let x' := s.loadWarp u job gi wi x
    x'.mxstat = x.mxstat ∧ s.givesTiles u gi wi x x' ∧ x'.threads = (x.threads.zipIdx).map fun (t, l) => s.loadThread u job gi wi l t := by
  unfold State.loadWarp
  dsimp only
  split
  · next hlive => exact ⟨rfl, fun h => absurd hlive h, rfl⟩
  · cases hck : x.ckpt with
    | none => exact ⟨rfl, fun _ h => absurd hck h, rfl⟩
    | some c =>
      refine ⟨rfl, fun _ _ n hn hlisted => ?_, rfl⟩
      obtain ⟨e, he, hbit⟩ := hlisted
      have hlt : n < 16 := BitVec.lt_of_getLsbD hbit
      have hmem : n ∈ ((liveEntries u.cfg ((x.threads.zipIdx).map fun (t, l) => s.loadThread u job gi wi l t)).flatMap fun e =>
          onesOf e.m.toNat 16).eraseDups := by
        refine List.mem_eraseDups.2 (List.mem_flatMap.2 ⟨e, he, mem_onesOf.2 ⟨hlt, ?_⟩⟩)
        rw [← hbit, bitOf, BitVec.getLsbD, Nat.testBit_eq_decide_div_mod_eq]
        rfl
      refine (putAll_getElem? _ _ _ ?_).trans (if_pos hmem)
      change n < (List.replicate u.cfg.tiles Tile.fresh).length
      rwa [List.length_replicate]

/-! ### Seats on the new cores (R111) -/

/-- A warp whose seat and whose wait for its first turn alone may differ. -/
def Warp.sameBut (x y : Warp) : Prop := ∃ slot resumeAt, y = { x with slot := slot, resumeAt := resumeAt }
theorem seatWarps_keeps (ws : List Warp) (ks : List Nat) (n : Nat) (x : Warp) (h : ws[n]? = some x) :
    ∃ y, (seatWarps ws ks)[n]? = some y ∧ x.sameBut y := by
  induction ws generalizing ks n with
  | nil => exact absurd h (by simp)
  | cons w ws ih =>
    have hhead (k : Nat) : w.sameBut { w with slot := k } := ⟨k, w.resumeAt, rfl⟩
    unfold seatWarps
    split
    · cases n with
      | zero => exact ⟨_, rfl, Option.some.inj h ▸ hhead _⟩
      | succ n => exact ih ks n h
    · cases ks with
      | nil => cases n with
        | zero => exact ⟨_, rfl, Option.some.inj h ▸ hhead _⟩
        | succ n => exact ih [] n h
      | cons k ks => cases n with
        | zero => exact ⟨_, rfl, Option.some.inj h ▸ hhead _⟩
        | succ n => exact ih ks n h
/-- A workgroup whose core and whose warps' seats alone may differ. -/
def Workgroup.sameBut (g h : Workgroup) : Prop := h.bars = g.bars ∧ h.handles = g.handles ∧
  ∀ (n : Nat) (x : Warp), g.warps[n]? = some x → ∃ y, h.warps[n]? = some y ∧ x.sameBut y
theorem seatWgs_keeps (s : State) (gs : List Workgroup) (cs : List Nat) (n : Nat) (g : Workgroup) (hg : gs[n]? = some g) :
    ∃ h, (s.seatWgs gs cs)[n]? = some h ∧ g.sameBut h ∧ (h.core = noCore ∨ h.core ∈ cs) := by
  induction gs generalizing cs n with
  | nil => exact absurd hg (by simp)
  | cons k gs ih =>
    have hnone (core : Nat) : k.sameBut { k with core := core } := ⟨rfl, rfl, fun m x hx => ⟨x, hx, x.slot, x.resumeAt, rfl⟩⟩
    have hseat (core : Nat) (ks : List Nat) : k.sameBut { k with core := core, warps := seatWarps k.warps ks } :=
      ⟨rfl, rfl, seatWarps_keeps k.warps ks⟩
    unfold State.seatWgs
    split
    · cases n with
      | zero => exact ⟨_, rfl, Option.some.inj hg ▸ hseat _ _, .inl rfl⟩
      | succ n => exact ih cs n hg
    · cases cs with
      | nil => cases n with
        | zero => exact ⟨_, rfl, Option.some.inj hg ▸ hnone _, .inl rfl⟩
        | succ n => exact ih [] n hg
      | cons c cs => cases n with
        | zero => exact ⟨_, rfl, Option.some.inj hg ▸ hseat _ _, .inr List.mem_cons_self⟩
        | succ n =>
          obtain ⟨h, hh, hsame, hcore⟩ := ih cs n hg
          exact ⟨h, hh, hsame, hcore.imp id (List.mem_cons_of_mem c)⟩

/-! ### A unit on its new cores (R111, R362) -/

theorem Warp.sameBut.trans {x y z : Warp} (h : x.sameBut y) (k : y.sameBut z) : x.sameBut z := by
  obtain ⟨_, _, rfl⟩ := h
  obtain ⟨a, b, rfl⟩ := k
  exact ⟨a, b, rfl⟩
theorem Warp.sameBut.refl (x : Warp) : x.sameBut x := ⟨x.slot, x.resumeAt, rfl⟩
theorem firstTurn_keeps (v : Placed) : ∃ count wgs, v.firstTurn = { v with turnCount := count, wgs := wgs } ∧
    ∀ (n : Nat) (g : Workgroup), v.wgs[n]? = some g → ∃ h, wgs[n]? = some h ∧ g.sameBut h ∧ h.core = g.core := by
  have hrefl (g : Workgroup) : g.sameBut g := ⟨rfl, rfl, fun n x hx => ⟨x, hx, .refl x⟩⟩
  have hsame : ∃ count wgs, v = { v with turnCount := count, wgs := wgs } ∧
      ∀ (n : Nat) (g : Workgroup), v.wgs[n]? = some g → ∃ h, wgs[n]? = some h ∧ g.sameBut h ∧ h.core = g.core :=
    ⟨v.turnCount, v.wgs, rfl, fun n g hg => ⟨g, hg, hrefl g, rfl⟩⟩
  unfold Placed.firstTurn
  split
  · split
    · refine ⟨_, _, rfl, fun n g hg => ?_⟩
      rw [modAt_getElem?, hg, Option.map_some]
      by_cases hn : n = v.owner.wg
      · rw [if_pos hn]
        refine ⟨_, rfl, ⟨rfl, rfl, fun m x hx => ?_⟩, rfl⟩
        rw [modAt_getElem?, hx, Option.map_some]
        by_cases hm : m = v.owner.warp
        · exact ⟨_, if_pos hm, x.slot, none, rfl⟩
        · exact ⟨x, if_neg hm, .refl x⟩
      · exact ⟨g, if_neg hn, hrefl g, rfl⟩
    · exact hsame
  · exact hsame
/-- A unit as a restore takes it from its slot, each workgroup on one of some cores or on none (R111). -/
def State.givesUnit (s : State) (u : Placed) (job : Bool) (cores : List Nat) (v : Placed) : Prop :=
  ∀ (gi : Nat) (g : Workgroup), u.wgs[gi]? = some g → ∃ g' : Workgroup, v.wgs[gi]? = some g' ∧ g'.bars = g.bars ∧
    g'.handles = g.handles ∧ (g'.core = noCore ∨ g'.core ∈ cores) ∧
    ∀ (wi : Nat) (x : Warp), g.warps[wi]? = some x → ∃ x' : Warp, g'.warps[wi]? = some x' ∧ x'.mxstat = x.mxstat ∧
      s.givesTiles u gi wi x x' ∧
      ∀ (l : Nat) (th : Thread), x.threads[l]? = some th → ∃ th' : Thread, x'.threads[l]? = some th' ∧
        s.givesThread u job gi wi l th th'
/-- The unit that a restore seats. -/
def State.reseated (s : State) (u : Placed) (pcl : Nat) (ws : List Window) (arg : Option (Nat × Nat × Space × Nat)) : Placed :=
  (s.seated u ((s.fitting u.seatCfg pcl).take u.seatCfg.csize) pcl ws arg).firstTurn
/-- What a restored unit is beside its workgroups. -/
def Placed.restoredAs (u v : Placed) (s : State) (pcl : Nat) (ws : List Window) (arg : Option (Nat × Nat × Space × Nat)) : Prop :=
  v.state = .running ∧ v.pcl = pcl ∧ v.swapped = false ∧ v.preemptReq = false ∧ v.committed = s.nextId ∧ v.windows = ws ∧
    v.arg = arg ∧ v.spad = memWrite [] 0 (s.slotRead u (2 ^ 20) u.spadSize)
section
variable (s : State) (u : Placed) (pcl : Nat) (ws : List Window) (arg : Option (Nat × Nat × Space × Nat))
theorem reseated_same : (s.reseated u pcl ws arg).id = u.id ∧ (s.reseated u pcl ws arg).cfg = u.cfg ∧
    (s.reseated u pcl ws arg).ctx = u.ctx ∧ u.restoredAs (s.reseated u pcl ws arg) s pcl ws arg := by
  unfold State.reseated
  obtain ⟨count, wgs, hturn, -⟩ := firstTurn_keeps (s.seated u ((s.fitting u.seatCfg pcl).take u.seatCfg.csize) pcl ws arg)
  rw [hturn]
  exact ⟨rfl, rfl, rfl, rfl, rfl, rfl, rfl, rfl, rfl, rfl, rfl⟩
theorem reseated_gives (hdet : u.cfg.det = 0) : s.givesUnit u (((s.workOf u).map (·.job.isSome)).getD false)
    ((s.fitting u.seatCfg pcl).take u.seatCfg.csize) (s.reseated u pcl ws arg) := by
  obtain ⟨job, hjob⟩ : ∃ b, ((s.workOf u).map (·.job.isSome)).getD false = b := ⟨_, rfl⟩
  intro gi g hg
  have hload : (s.loadUnit u).wgs[gi]? = some { g with
      warps := (g.warps.zipIdx).map fun (w, wi) => s.loadWarp u (((s.workOf u).map (·.job.isSome)).getD false) gi wi w } :=
    zipIdx_map_getElem? hg _
  unfold State.reseated
  obtain ⟨count, wgs, hturn, hkeeps⟩ := firstTurn_keeps (s.seated u ((s.fitting u.seatCfg pcl).take u.seatCfg.csize) pcl ws arg)
  obtain ⟨h, hh, ⟨hbars, hhandles, hwarps⟩, hcore⟩ :=
    seatWgs_keeps s (s.loadUnit u).wgs ((s.fitting u.seatCfg pcl).take u.seatCfg.csize) gi _ hload
  obtain ⟨k, hk, ⟨kbars, khandles, kwarps⟩, kcore⟩ := hkeeps gi h hh
  rw [hturn]
  refine ⟨k, hk, kbars.trans hbars, khandles.trans hhandles, by rwa [kcore], fun wi x hx => ?_⟩
  obtain ⟨y, hy, hxy⟩ := hwarps wi _ (zipIdx_map_getElem? hx _)
  obtain ⟨z, hz, hyz⟩ := kwarps wi y hy
  obtain ⟨slot, resumeAt, hsame⟩ := hxy.trans hyz
  obtain ⟨hstat, htiles, hthreads⟩ := loadWarp_gives s u (((s.workOf u).map (·.job.isSome)).getD false) gi wi x
  refine ⟨z, hz, ?_, ?_, fun l th hth => ?_⟩
  · rw [hsame]
    exact hstat
  · rw [hsame]
    exact htiles
  · rw [hsame]
    refine ⟨_, (congrArg (·[l]?) hthreads).trans (zipIdx_map_getElem? hth _), ?_⟩
    exact loadThread_gives s u hdet _ gi wi l th
end

/-! ### A restore (R111, R362, R363) -/

theorem armUnit_plain {s : State} {id : Nat} {u : Placed} (hu : s.unit? id = some u) (hdet : u.cfg.det = 0) :
    ∃ units arming, s.armUnit id = { s with units := units } ∧ (s.armUnit id).unit? id = some { u with arming := arming } := by
  have hparked : s.armParked id = s := by simp only [State.armParked, hu, hdet, if_true]
  unfold State.armUnit
  dsimp only
  rw [hparked]
  split
  · exact ⟨_, false, rfl, unit?_modUnit_same hu (by intro; rfl)⟩
  · exact ⟨s.units, u.arming, rfl, hu⟩
/-- A restored unit in its place, the operations that a restart discards gone. -/
def State.movedIn (s : State) (u v : Placed) (cores : List Nat) : State :=
  ({ s with nextId := s.nextId + 1, ops := s.ops.filter fun o => o.w.unit != u.id || !o.kind.dropped false
            left := s.left.filter (!·.coresMeet cores) } : State).modUnit u.id fun _ => v
/-- The state of a restore before its threads are filed. -/
def State.loadedIn (s : State) (u v : Placed) (cores : List Nat) : State :=
  ((((s.movedIn u v cores).loadCode v).trace taskSrc u.ctx 2
    (traceBits (((s.movedIn u v cores).loadCode v).clockOf .task) 0 u.idx 0 u.ctx 0 0 0 3))).modCtx u.ctx fun x => { x with preempted := false }
theorem restoreAt_loadedIn (s : State) (u : Placed) (pcl : Nat) (ws : List Window) (arg : Option (Nat × Nat × Space × Nat)) :
    ∃ r, (s.loadedIn u (s.reseated u pcl ws arg) ((s.fitting u.seatCfg pcl).take u.seatCfg.csize)).caches r ∧
      s.restoreAt u pcl ws arg = (r.fileUnit u.id).armUnit u.id := by
  obtain ⟨t, ht⟩ : ∃ t, s.loadedIn u (s.reseated u pcl ws arg) ((s.fitting u.seatCfg pcl).take u.seatCfg.csize) = t := ⟨_, rfl⟩
  have hrestore : s.restoreAt u pcl ws arg =
      ((match t.workOf u with | some w => t.cacheRecs u.ctx (placeSpans w) | none => t).fileUnit u.id).armUnit u.id := by
    rw [← ht]
    rfl
  rw [ht, hrestore]
  cases t.workOf u with
  | none => exact ⟨t, caches_refl t, rfl⟩
  | some w => exact ⟨_, cacheRecs_caches t u.ctx (placeSpans w), rfl⟩
theorem unit?_replaced {s : State} {u v : Placed} (hu : s.unit? u.id = some u) (hid : v.id = u.id) :
    (s.modUnit u.id fun _ => v).unit? u.id = some v := by
  have hhead : (v.id == u.id) = true := beq_iff_eq.2 hid
  unfold State.unit? at hu
  change List.find? (fun x => x.id == u.id) (s.units.map fun x => if x.id == u.id then v else x) = some v
  generalize s.units = xs at hu ⊢
  induction xs with
  | nil => exact absurd hu.symm (Option.some_ne_none u)
  | cons x xs ih =>
    rw [List.map_cons]
    by_cases hx : (x.id == u.id) = true
    · rw [if_pos hx]
      exact List.find?_cons_of_pos (p := fun x : Placed => x.id == u.id) hhead
    · rw [if_neg hx]
      refine (List.find?_cons_of_neg (p := fun x : Placed => x.id == u.id) hx).trans (ih ?_)
      exact (List.find?_cons_of_neg (p := fun x : Placed => x.id == u.id) hx).symm.trans hu
section
variable {s : State} {u v : Placed} (hu : s.unit? u.id = some u) (hid : v.id = u.id) (hcfg : v.cfg = u.cfg) (hctx : v.ctx = u.ctx)
  (hcode : codeReads s u.cfg u.ctx)
include hu hid hcfg hctx hcode
theorem loadedIn_does (cores : List Nat) : ∃ watch units code fetched, s.loadedIn u v cores = { s with
    nextId := s.nextId + 1, ops := s.ops.filter fun o => o.w.unit != u.id || !o.kind.dropped false
    left := s.left.filter (!·.coresMeet cores), watch := watch, units := units
    ctxs := modAt s.ctxs u.ctx fun x => { x with preempted := false } } ∧
      (s.loadedIn u v cores).unit? u.id = some { v with code := code, fetched := fetched } := by
  have hplaced : (s.movedIn u v cores).unit? u.id = some v :=
    unit?_replaced (s := { s with nextId := s.nextId + 1, ops := s.ops.filter fun o => o.w.unit != u.id || !o.kind.dropped false
                                  left := s.left.filter (!·.coresMeet cores) }) hu hid
  have hreads : codeReads (s.movedIn u v cores) v.cfg v.ctx := fun hsize => by
    rw [hcfg, hctx]
    obtain ⟨bs, hbs⟩ := hcode (hcfg ▸ hsize)
    exact ⟨bs, (readVA_congr (s := s) (t := s.movedIn u v cores) rfl rfl rfl _ _ _).trans hbs⟩
  unfold State.loadedIn
  rcases loadCode_reads hreads with hload | ⟨bs, hload⟩
  · obtain ⟨watch, htrace⟩ := trace_eq (s.movedIn u v cores) taskSrc u.ctx 2
      (traceBits ((s.movedIn u v cores).clockOf .task) 0 u.idx 0 u.ctx 0 0 0 3)
    rw [hload, htrace]
    exact ⟨watch, (s.movedIn u v cores).units, v.code, v.fetched, rfl, hplaced⟩
  · have hunit := unit?_modUnit_same (f := fun x => { x with code := memWrite [] 0 bs, fetched := none }) hplaced fun _ => rfl
    rw [hid] at hload
    obtain ⟨t, ht⟩ : ∃ t, (s.movedIn u v cores).loadCode v = t := ⟨_, rfl⟩
    obtain ⟨watch, htrace⟩ := trace_eq t taskSrc u.ctx 2 (traceBits (t.clockOf .task) 0 u.idx 0 u.ctx 0 0 0 3)
    rw [ht, htrace, ← ht, hload]
    exact ⟨watch, _, memWrite [] 0 bs, none, rfl, hunit⟩
end
/-- A unit restored on the cores that are chosen for it (R111, R362, R363). -/
theorem restoreAt_does {s : State} {u : Placed} (hu : s.unit? u.id = some u) (hdet : u.cfg.det = 0) (hcode : codeReads s u.cfg u.ctx)
    (pcl : Nat) (ws : List Window) (arg : Option (Nat × Nat × Space × Nat)) :
    (s.restoreAt u pcl ws arg).home = { s.home with tlb := (s.restoreAt u pcl ws arg).home.tlb } ∧
      (s.restoreAt u pcl ws arg).ops = (s.ops.filter fun o => o.w.unit != u.id || !o.kind.dropped false) ∧
      (s.restoreAt u pcl ws arg).ctxs = (modAt s.ctxs u.ctx fun x => { x with preempted := false }) ∧
      ∃ code fetched arming, (s.restoreAt u pcl ws arg).unit? u.id =
        some { s.reseated u pcl ws arg with code := code, fetched := fetched, arming := arming } := by
  obtain ⟨hid, hcfg, hctx, -⟩ := reseated_same s u pcl ws arg
  obtain ⟨r, ⟨tlb, hr⟩, hrestore⟩ := restoreAt_loadedIn s u pcl ws arg
  obtain ⟨watch, units, code, fetched, hloaded, hunit⟩ :=
    loadedIn_does hu hid hcfg hctx hcode ((s.fitting u.seatCfg pcl).take u.seatCfg.csize)
  obtain ⟨cores, hfile⟩ := coresOnly_fileUnit r u.id
  have hfiled : (r.fileUnit u.id).unit? u.id = some { s.reseated u pcl ws arg with code := code, fetched := fetched } := by
    rw [hfile, hr]
    exact hunit
  obtain ⟨units', arming, harm, hlast⟩ := armUnit_plain hfiled ((congrArg LaunchCfg.det hcfg).trans hdet)
  rw [hrestore]
  refine ⟨?_, ?_, ?_, code, fetched, arming, hlast⟩
  · rw [harm, hfile, hr, hloaded]
  · rw [harm, hfile, hr, hloaded]
  · rw [harm, hfile, hr, hloaded]

/-! ### CLUSTER_RESTORE (R111, R362, R364, R390) -/

/-- What a restore does with the windows that load: a wave as a whole, or the unit alone. -/
def State.goRestore (s : State) (u : Placed) (w : Work) (ws : List Window) (arg : Option (Nat × Nat × Space × Nat)) : State :=
  if w.job.isNone && w.cfg.det != 0 && !u.rerun then
    if (w.unitsOf s).any s.slotLost then ((w.unitsOf s).filter s.slotLost).foldl State.saveFault s
    else if (w.unitsOf s).all s.restorable && !(w.unitsOf s).any (s.reloadBusy · w) then
      ((s.restoreWave w (w.waveA.getD 1) (w.unitsOf s)).map (·.tookTurn w)).getD s
    else s
  else match s.choose u.seatCfg with
    | some pcl => { (s.restoreAt u pcl ws arg).tookTurn w with lastPcl := some pcl }
    | none => s
section
variable {s : State} {u : Placed} {w : Work} (hu : s.unit? u.id = some u) (hw : s.work? u.work = some w) (hsaved : s.restorable u = true)
  (htop : s.topPriority w = true) (hturn : w.job = none → s.itsTurn w = true) (hbusy : s.reloadBusy u w = false)
include hu hw hsaved htop hturn
theorem exec_clusterRestore : exec (.clusterRestore u.id true) s = .next (s.restoreOr u w true (s.goRestore u w)) := by
  have hbind : (some u).bind s.workOf = some w := hw
  have hgo : (!s.restorable u || !s.topPriority w || (w.job.isNone && !s.itsTurn w)) = false := by
    cases hjob : w.job with
    | none => rw [hsaved, htop, hturn hjob]; rfl
    | some j => rw [hsaved, htop]; rfl
  change execClusterRestore u.id true s = _
  unfold execClusterRestore
  simp only [hu, hbind, hgo, Bool.false_eq_true, if_false]
  rfl
include hbusy
theorem exec_clusterRestore_lost (hlost : s.slotPoisoned u (s.restoreSpans u) = true) :
    exec (.clusterRestore u.id true) s = .next (s.saveFault u) := by
  rw [exec_clusterRestore hu hw hsaved htop hturn]
  have hbad : (!true || s.slotLost u) = true := hlost
  simp only [State.restoreOr, hbusy, hbad, Bool.false_eq_true, if_false, if_true]
variable (hread : s.slotPoisoned u (s.restoreSpans u) = false)
include hread
theorem exec_clusterRestore_noWins (hwins : s.reloadWins u w = none) : ∃ r, exec (.clusterRestore u.id true) s = .next (s.discard u r) := by
  rw [exec_clusterRestore hu hw hsaved htop hturn]
  have hgood : (!true || s.slotLost u) = false := hread
  simp only [State.restoreOr, hbusy, hgood, hwins, Bool.false_eq_true, if_false]
  split
  · exact ⟨_, rfl⟩
  · exact ⟨_, rfl⟩
variable {ws : List Window} {arg : Option (Nat × Nat × Space × Nat)} (hwins : s.reloadWins u w = some (ws, arg))
include hwins
theorem exec_clusterRestore_goes : exec (.clusterRestore u.id true) s = .next (s.goRestore u w ws arg) := by
  rw [exec_clusterRestore hu hw hsaved htop hturn]
  have hgood : (!true || s.slotLost u) = false := hread
  simp only [State.restoreOr, hbusy, hgood, hwins, Bool.false_eq_true, if_false]
end

/-! ### A cluster alone, and a wave (R362, R384, R390) -/

section
variable {s : State} {u : Placed} {w : Work} {ws : List Window} {arg : Option (Nat × Nat × Space × Nat)}
theorem goRestore_alone (halone : w.job.isSome = true ∨ w.cfg.det = 0) : s.goRestore u w ws arg = match s.choose u.seatCfg with
    | some pcl => { (s.restoreAt u pcl ws arg).tookTurn w with lastPcl := some pcl }
    | none => s := by
  have hwave : (w.job.isNone && w.cfg.det != 0 && !u.rerun) = false := by
    rcases halone with h | h
    · rw [← Option.not_isSome, h]; rfl
    · rw [h, bne_self_eq_false, Bool.and_false, Bool.false_and]
  unfold State.goRestore
  rw [hwave, if_neg Bool.false_ne_true]
theorem tookTurn_frame (s : State) (w : Work) : ∃ turns, s.tookTurn w = { s with turns := turns } := by
  unfold State.tookTurn
  split
  · exact ⟨s.turns, rfl⟩
  · exact ⟨_, rfl⟩
theorem goRestore_unit (halone : w.job.isSome = true ∨ w.cfg.det = 0) (hu : s.unit? u.id = some u) (hw : s.work? u.work = some w)
    (hdet : u.cfg.det = 0) (hcode : codeReads s u.cfg u.ctx) {pcl : Nat} (hchoose : s.choose u.seatCfg = some pcl) :
    (s.goRestore u w ws arg).home = { s.home with tlb := (s.goRestore u w ws arg).home.tlb } ∧
      (s.goRestore u w ws arg).lastPcl = some pcl ∧
      (∀ o, o ∈ (s.goRestore u w ws arg).ops ↔ o ∈ s.ops ∧ (o.w.unit ≠ u.id ∨ o.kind.dropped false = false)) ∧
      (u.ctx < s.ctxs.length → ((s.goRestore u w ws arg).ctx u.ctx).preempted = false) ∧
      ∃ v, (s.goRestore u w ws arg).unit? u.id = some v ∧ u.restoredAs v s pcl ws arg ∧
        s.givesUnit u w.job.isSome ((s.fitting u.seatCfg pcl).take u.seatCfg.csize) v := by
  obtain ⟨hhome, hops, hctxs, code, fetched, arming, hunit⟩ := restoreAt_does hu hdet hcode pcl ws arg
  obtain ⟨turns, hturns⟩ := tookTurn_frame (s.restoreAt u pcl ws arg) w
  obtain ⟨-, -, -, has⟩ := reseated_same s u pcl ws arg
  have hgives := reseated_gives s u pcl ws arg hdet
  rw [State.workOf, hw] at hgives
  rw [goRestore_alone halone, hchoose]
  dsimp only
  rw [hturns]
  refine ⟨hhome, rfl, fun o => ?_, fun hc => ?_, _, hunit, has, hgives⟩
  · refine (iff_of_eq (congrArg (o ∈ ·) hops)).trans (List.mem_filter.trans (and_congr Iff.rfl ?_))
    rw [Bool.or_eq_true, bne_iff_ne, Bool.not_eq_true']
  · have hctx := ctx_modCtx_eq s u.ctx u.ctx fun x => { x with preempted := false }
    rw [if_pos ⟨rfl, hc⟩] at hctx
    exact congrArg Ctx.preempted ((congrArg (fun cs : List Ctx => (cs[u.ctx]?).getD Ctx.reset) hctxs).trans hctx)
section
variable (hdet : w.cfg.det ≠ 0) (hjob : w.job = none) (hfirst : u.rerun = false)
include hdet hjob hfirst
theorem goRestore_wave : s.goRestore u w ws arg =
    if (w.unitsOf s).any s.slotLost then ((w.unitsOf s).filter s.slotLost).foldl State.saveFault s
    else if (w.unitsOf s).all s.restorable && !(w.unitsOf s).any (s.reloadBusy · w) then
      ((s.restoreWave w (w.waveA.getD 1) (w.unitsOf s)).map (·.tookTurn w)).getD s
    else s := by
  have hwave : (w.job.isNone && w.cfg.det != 0 && !u.rerun) = true := by
    rw [hjob, hfirst, bne_iff_ne.2 hdet]
    rfl
  unfold State.goRestore
  rw [hwave, if_pos rfl]
theorem goRestore_lost (hlost : ∃ v ∈ w.unitsOf s, s.slotPoisoned v (s.restoreSpans v) = true) :
    ∀ v ∈ w.unitsOf s, s.slotPoisoned v (s.restoreSpans v) = true → (s.goRestore u w ws arg).unit? v.id = none := by
  intro v hv hbad
  have hany : (w.unitsOf s).any s.slotLost = true := List.any_eq_true.2 hlost
  rw [goRestore_wave hdet hjob hfirst, if_pos hany]
  exact foldl_saveFault _ s v (List.mem_filter.2 ⟨hv, hbad⟩)
variable (hread : ∀ v ∈ w.unitsOf s, s.slotPoisoned v (s.restoreSpans v) = false) (hbusy : ∀ v ∈ w.unitsOf s, s.reloadBusy v w = false)
include hread hbusy
theorem goRestore_read : s.goRestore u w ws arg = if (w.unitsOf s).all s.restorable then
    ((s.restoreWave w (w.waveA.getD 1) (w.unitsOf s)).map (·.tookTurn w)).getD s else s := by
  have hlost : (w.unitsOf s).any s.slotLost = false := List.any_eq_false.2 fun v hv => Bool.not_eq_true _ ▸ hread v hv
  have hmove : (w.unitsOf s).any (s.reloadBusy · w) = false := List.any_eq_false.2 fun v hv => Bool.not_eq_true _ ▸ hbusy v hv
  rw [goRestore_wave hdet hjob hfirst, hlost, hmove, if_neg Bool.false_ne_true, Bool.not_false, Bool.and_true]
theorem goRestore_restored {t : State} (hall : ∀ v ∈ w.unitsOf s, s.restorable v = true)
    (ht : s.restoreWave w (w.waveA.getD 1) (w.unitsOf s) = some t) : s.goRestore u w ws arg = t.tookTurn w := by
  rw [goRestore_read hdet hjob hfirst hread hbusy, if_pos (List.all_eq_true.2 hall), ht]
  rfl
theorem goRestore_waits (h : (∃ v ∈ w.unitsOf s, s.restorable v = false) ∨ s.restoreWave w (w.waveA.getD 1) (w.unitsOf s) = none) :
    s.goRestore u w ws arg = s := by
  rw [goRestore_read hdet hjob hfirst hread hbusy]
  rcases h with ⟨v, hv, hnot⟩ | hnone
  · exact if_neg fun hall => absurd (List.all_eq_true.1 hall v hv) (by rw [hnot]; exact Bool.false_ne_true)
  · rw [hnone]
    exact ite_self s
end
end

/-! ### The statement by its parts -/

theorem swapOut_parked {s : State} {u : Placed} (hu : s.unit? u.id = some u)
    (hexec : exec (.swapOut u.id) s = .next (if s.longParked u then s.modUnit u.id fun u => { u with preemptReq := true, swapped := true } else s))
    (hlive : ∃ g ∈ u.wgs, ∃ w ∈ g.warps, ∃ t ∈ w.threads, t.exited = false) :
    ((∀ g ∈ u.wgs, ∀ w ∈ g.warps, ∀ t ∈ w.threads, t.exited = true ∨
        ((t.busy ≠ none ∨ t.ordPos ≠ none) ∧ ∃ k, t.parked = some k ∧ k + 4096 ≤ s.now g.core)) →
      Does (.swapOut u.id) s fun t => t.home = s.home ∧ t.ops = s.ops ∧ t.unit? u.id = some { u with preemptReq := true, swapped := true }) ∧
    ((∃ g ∈ u.wgs, ∃ w ∈ g.warps, ∃ t ∈ w.threads, t.exited = false ∧ (t.parked = none ∨ t.busy = none ∧ t.ordPos = none)) →
      exec (.swapOut u.id) s = .next s) := by
  refine ⟨fun hall => ?_, fun hnot => ?_⟩
  · rw [if_pos (longParked_iff.2 ⟨hlive, hall⟩)] at hexec
    exact ⟨_, hexec, rfl, rfl, unit?_modUnit_same hu (by intro; rfl)⟩
  · rw [hexec, if_neg]
    intro hlong
    obtain ⟨g, hg, w, hw, t, ht, hex, hnone⟩ := hnot
    rcases (longParked_iff.1 hlong).2 g hg w hw t ht with h | ⟨hbusy, k, hk, -⟩
    · rw [hex] at h
      exact Bool.false_ne_true h
    · rcases hnone with h | ⟨h1, h2⟩
      · rw [h] at hk
        exact Option.noConfusion rfl (heq_of_eq hk)
      · exact hbusy.elim (· h1) (· h2)
theorem preemptionSave_saved {s : State} {u : Placed} (hu : s.unit? u.id = some u)
    (hexec : exec (.preemptionSave u.id true) s = .next (s.saveUnit u true)) (hgood : s.slotBad u (s.saveImage u) = false) :
    Does (.preemptionSave u.id true) s fun t =>
      t.home = (s.slotWrite u (s.saveImage u)).home ∧ (∀ c ∈ t.cores, c.id ∈ u.wgs.map (·.core) → c.l1 = []) ∧
      (t.ctx u.ctx).preempted = ((s.ctx u.ctx).preempted ||
        decide (u.ctx < s.ctxs.length ∧ ∀ x ∈ s.units, x.ctx = u.ctx → x.id = u.id ∨ x.state = .saved)) ∧
      ∃ v, t.unit? u.id = some v ∧ v.state = .saved ∧ v.preemptReq = false ∧ v.swapped = u.swapped ∧ v.gwct = u.maxGwct ∧
        ∀ (gi wi l : Nat) (g : Workgroup) (x : Warp) (th : Thread), u.wgs[gi]? = some g → g.warps[wi]? = some x → x.threads[l]? = some th →
          ∃ (g' : Workgroup) (x' : Warp) (th' : Thread), v.wgs[gi]? = some g' ∧ g'.warps[wi]? = some x' ∧ x'.threads[l]? = some th' ∧
            g'.bars = g.bars ∧ g'.handles = g.handles ∧ x'.mxstat = x.mxstat ∧ x'.ckpt = x.ckpt ∧ x'.graph = [] ∧ x'.sb = [] ∧ x'.gwct = 0 ∧
            x'.digest = (if x.live = [] then x.digest else 0) ∧ th'.hints = Hints.none ∧ th'.exited = th.exited ∧ th'.ckpt = th.ckpt ∧
            th'.parked = th.parked ∧ th'.ordPos = th.ordPos ∧ th'.matched = th.matched ∧ (th.exited = true → th'.draws = th.draws) := by
  rw [saveUnit_stored hgood] at hexec
  obtain ⟨ctxs, hnote⟩ := notePreempted_eq (s.stored u) u.ctx
  refine ⟨_, hexec, by rw [hnote]; rfl, fun c hc hin => ?_, stored_preempted hu,
    u.asSaved (((s.workOf u).map (·.job.isSome)).getD false) u.maxGwct, ?_, rfl, rfl, rfl, rfl,
    fun gi wi l g x th hg hx hth => asSaved_thread hg hx hth⟩
  · rw [hnote] at hc
    obtain ⟨b, -, rfl⟩ := List.mem_map.1 hc
    unfold Core.dropL1 at hin ⊢
    split
    · rfl
    · next hnotin =>
      rw [if_neg hnotin] at hin
      exact absurd (List.contains_iff_mem.2 hin) hnotin
  · rw [hnote]
    exact stored_unit hu
theorem invalidationDone_drops {s : State} {c : BitVec 8} (hlen : s.ctxs.length = 256) {base : BitVec 45} {log : BitVec 6}
    {rest : List (BitVec 45 × BitVec 6)} (hinv : (s.ctx c.toNat).invs = (base, log) :: rest) :
    Does (.invalidationDone c) s fun t => t.units = s.units ∧
      (t.ops = s.ops ∧ t.ctx c.toNat = { s.ctx c.toNat with invs := rest, invbusy := rest != [] } ∧ ∀ k, k ≠ c.toNat → t.ctx k = s.ctx k) ∧
      s.sameMemory t ∧
      (∀ ctx level k leaf, (ctx, level, k, leaf) ∈ t.home.tlb ↔ (ctx, level, k, leaf) ∈ s.home.tlb ∧ (ctx ≠ c.toNat ∨
        overlaps (k * 2 ^ (12 + 9 * level)) (2 ^ (12 + 9 * level)) (base.toNat * 4096) (4096 * 2 ^ log.toNat) = false)) ∧
      (∀ h, h ∈ t.home.pins ↔ h ∈ s.home.pins ∧ ¬ h.under c.toNat (base.toNat * 4096) (4096 * 2 ^ log.toNat)) ∧
      ∀ (k : Nat) (h : Hold), s.home.holds[k]? = some h →
        (h.under c.toNat (base.toNat * 4096) (4096 * 2 ^ log.toNat) → t.home.holds[k]? = some { h with stale := true }) ∧
        (¬ h.under c.toNat (base.toNat * 4096) (4096 * 2 ^ log.toNat) → t.home.holds[k]? = some h) := by
  obtain ⟨hself, hother⟩ := ctx_command (s := { s with home := s.home.uncache c.toNat (base.toNat * 4096) (4096 * 2 ^ log.toNat) }) (c := c)
    hlen fun y => { y with invs := rest, invbusy := rest != [] }
  obtain ⟨htlb, hpins, hholds⟩ := uncache_does s.home c.toNat (base.toNat * 4096) (4096 * 2 ^ log.toNat)
  exact ⟨_, invalidationDone_does hinv, rfl, ⟨rfl, hself, hother⟩, fun _ => ⟨rfl, rfl, fun _ => rfl⟩, htlb, hpins, hholds⟩

/-- Settles O57. Each command changes the fields of its own context. The victim is the unit that comes before every other one of a
lower priority; a stop goes through the units of its set one after another. What a save keeps and what a restore reads is looked up
by index, down to the thread; the cores a restore gives change only the seats, and the stages after the slot is read (code, trace,
cached entries, filing) leave the unit found as it was seated. -/
theorem preemption : Obligations.Preemption := by
  unfold Obligations.Preemption
  refine ⟨fun s c hlen => ⟨preempt_does hlen, resume_does hlen, retry_does s c, inval_does hlen, exec_invalidationDone_none,
    fun base log rest hinv => invalidationDone_drops hlen hinv⟩,
    fun s w v hw hstarved htop hnone hv hrun hp hleast => ?_,
    fun s u hu hrun hreq hdet hready hlive => swapOut_parked hu (exec_swapOut hu hrun hreq hdet hready) hlive,
    fun s u hu => ⟨fun ok hrun hreq hdue => ⟨preemptionSave_stops hu ok hrun hreq hdue, fun hnot => ?_⟩,
      fun ok => preemptionSave_givesUp hu ok, fun ok => preemptionSave_retires hu ok, fun w hstop hdone hlive hclean hw => ?_⟩,
    fun s u w hu hw hsaved htop hturn hbusy => ⟨fun hlost => ?_, fun hread hwins => ?_, fun ws arg hread hwins => ?_⟩⟩
  · have hexec := exec_priorityPreempt hw hstarved htop hnone (victim_of_least hv hrun hp hleast)
    exact ⟨priorityPreempt_cluster hexec, fun hdet ⟨y, hy, hjob⟩ => priorityPreempt_wave hexec hdet hy hjob⟩
  · rw [exec_preemptionSave_asked hu ok hrun hreq hdue, hnot]
    rfl
  · refine ⟨fun hgood => ?_, ?_⟩
    · exact preemptionSave_saved hu (exec_preemptionSave_saves hu true hstop hdone hlive hclean) hgood
    · have hexec := exec_preemptionSave_saves hu false hstop hdone hlive hclean
      exact ⟨s.saveFault u, hexec, saveFault_does hw⟩
  · obtain ⟨hirqs, hunit, hfailed, -⟩ := saveFault_does hw
    exact ⟨_, exec_clusterRestore_lost hu hw hsaved htop hturn hbusy hlost, hirqs, hunit, hfailed⟩
  · obtain ⟨r, hexec⟩ := exec_clusterRestore_noWins hu hw hsaved htop hturn hbusy hread hwins
    obtain ⟨hirqs, hunit, -, -⟩ := discard_does hw r
    exact ⟨_, hexec, hirqs, hunit⟩
  · have hexec := exec_clusterRestore_goes hu hw hsaved htop hturn hbusy hread hwins
    refine ⟨fun pcl halone hdet hcode hchoose => ?_, fun hdet hjob hfirst => ⟨fun hlost => ?_, fun hgood hstill => ⟨fun t hall ht => ?_,
      fun hwait => ?_⟩⟩, fun hchoose halone => ?_⟩
    · obtain ⟨hhome, hlast, hops, hctx, v, hv, ⟨h1, h2, h3, h4, h5, h6, h7, h8⟩, hgives⟩ :=
        goRestore_unit (ws := ws) (arg := arg) halone hu hw hdet hcode hchoose
      exact ⟨_, hexec, hhome, hlast, hops, hctx, v, hv, h1, h2, h3, h4, h5, h6, h7, h8, hgives⟩
    · exact ⟨_, hexec, goRestore_lost hdet hjob hfirst hlost⟩
    · rw [hexec, goRestore_restored hdet hjob hfirst hgood hstill hall ht]
    · rw [hexec, goRestore_waits hdet hjob hfirst hgood hstill hwait]
    · rw [hexec, goRestore_alone halone, hchoose]

end Sys2Proof.Machine
end
